-- ==== Sys2Proof/Word.lean ====
section
/-! DEFINITION. The word types of the module and their plainest arithmetic (R3, R39, R90, R125). -/

namespace Sys2Proof

/-- A 64-bit register, address or operand (R90). -/
abbrev W64 := BitVec 64
/-- A 32-bit lane or word. -/
abbrev W32 := BitVec 32
/-- One byte of memory. -/
abbrev Byte := BitVec 8
/-- A code halfword (R63). -/
abbrev Half := BitVec 16
/-- A vector register: 64 lanes of 32 bits as one 2,048-bit string (R125). -/
abbrev VReg := BitVec 2048

/-- The all-ones word: a predicate that enables every lane. -/
def ones64 : W64 := BitVec.allOnes 64

/-- A predicate value made of one truth value (R119). -/
def predOf (c : Bool) : W64 := if c then ones64 else 0

/-- A scalar truth value (R119). -/
def boolOf (c : Bool) : W64 := if c then 1 else 0

end Sys2Proof
end

