-- ==== Sys2Proof/Syntax.lean ====
section
/-! DEFINITION. The syntax of the module: operand specifiers, tail formats and ONE inductive `Instr` with one constructor per row of the
table of operations and events. An instruction constructor carries its head (stall, yield, predicate) and its decoded tail; an event
constructor names the object that the event reaches (a hardware partition `k` is flat core number times 4 plus 0 A, 1 B, 2 C, 3 D). -/

namespace Sys2Proof

/-- The predicate halfword of R75. -/
structure Pred where
  neg : Bool
  idx : Fin 8
  deriving DecidableEq, Repr, Inhabited

/-- The fields of a head that every instruction has (R69): STALL, the yield hint and, when P = 1, the predicate halfword.
A row with a separate predicated row of its own carries its predicate there and has `pred = none` here. -/
structure Hd where
  stall : BitVec 4
  y     : Bool
  pred  : Option Pred
  deriving DecidableEq, Repr, Inhabited

/-- A source specifier (R70). In the fields that name a predicate, kind 0b10 names a predicate register. -/
inductive Src where
  | v (i : Fin 64)
  | s (i : Fin 64)
  | c (i : Fin 64)
  | lit (n : BitVec 6)
  | slot
  deriving DecidableEq, Repr, Inhabited

/-- A destination specifier (R73). -/
inductive Dst where
  | v (i : Fin 64)
  | s (i : Fin 64)
  | p (i : Fin 8)
  | none
  deriving DecidableEq, Repr, Inhabited

/-- Format A (R74). -/
structure OpA where
  d  : Dst
  s1 : Src
  deriving DecidableEq, Repr, Inhabited

/-- Format B; its SUB is the constructor. -/
structure OpB where
  d  : Dst
  s1 : Src
  s2 : Src
  deriving DecidableEq, Repr, Inhabited

/-- Format C. -/
structure OpC where
  d   : Dst
  s1  : Src
  s2  : Src
  s3  : Src
  mod : BitVec 8
  deriving DecidableEq, Repr, Inhabited

/-- Format L; MOD is zero in every member (R118, R121). -/
structure OpL where
  d   : Dst
  s1  : Src
  lit : W32
  deriving DecidableEq, Repr, Inhabited

/-- Format M: DATA as a destination or a source, BASE and DISP. -/
structure OpM where
  dst  : Dst
  data : Src
  base : Src
  disp : Half
  mod  : BitVec 8
  deriving DecidableEq, Repr, Inhabited

/-- Format J: the register specifier of LOOP, the target head and the signed 19-bit line offset. -/
structure OpJ where
  cond : Fin 64
  head : Fin 32
  off  : BitVec 19
  deriving DecidableEq, Repr, Inhabited

/-- Format E: TLEN 6 carries the literal slot. -/
structure OpE where
  d   : Dst
  s1  : Src
  s2  : Src
  s3  : Src
  s4  : Src
  s5  : Src
  mod : BitVec 8
  lit : Option W32
  deriving DecidableEq, Repr, Inhabited

/-- The integer conditions of R85, in the order of their codes. -/
inductive ICond where
  | eq | ne | lt | ge | le | gt | ltn | gen | len | gtn
  deriving DecidableEq, Repr, Inhabited

/-- The floating-point conditions of R85. -/
inductive FCond where
  | eq | ne | lt | ge | le | gt | un | ord
  deriving DecidableEq, Repr, Inhabited

/-- The format pairs of R318. -/
inductive MPair where
  | f4 | f8e4 | f8e5f8e4 | f8e4f4 | bf16 | f16 | i8
  deriving DecidableEq, Repr, Inhabited

/-- The issue-log modes of a cluster's debug module (R31, R500, R502). -/
inductive ReplayMode where
  | off | logging | replay
  deriving DecidableEq, Repr, Inhabited

/-- One entry of an issue log (R500). -/
structure LogEntry where
  kind    : Nat
  pos     : Nat
  part    : Nat
  outcome : Nat
  payload : W64
  deriving DecidableEq, Repr, Inhabited

/-- A frame of a link (R484): its control flit, its data flits, and whether its TAG is that of its contents under the key that it names (R487). (DESIGN CHOICE: log 167.) -/
structure Frame where
  flit  : BitVec 128
  data  : List (BitVec 128)
  tagOk : Bool
  deriving DecidableEq, Repr, Inhabited

namespace Frame

/-! The fields of the control flit. -/

def crc (f : Frame) : Nat := (f.flit.extractLsb' 32 32).toNat
def seq (f : Frame) : Nat := (f.flit.extractLsb' 22 10).toNat
def ack (f : Frame) : Nat := (f.flit.extractLsb' 12 10).toNat
def vc (f : Frame) : Fin 4 := (f.flit.extractLsb' 10 2).toFin
def ep (f : Frame) : Fin 4 := (f.flit.extractLsb' 8 2).toFin
def nval (f : Frame) : Nat := (f.flit.extractLsb' 4 4).toNat
def typ (f : Frame) : Nat := (f.flit.extractLsb' 0 4).toNat

end Frame

/-- A unit that firmware withdraws (R28): a tile, a cluster, a matrix unit or a link, by its number in the package. -/
inductive Resource where
  | tile (t : Nat)
  | cluster (c : Nat)
  | matrix (u : Nat)
  | link (n : Nat)
  deriving DecidableEq, Repr, Inhabited

/-- A host queue that firmware assigns at context creation (R292): its number, connection, ring, die, error word, and the GDDR 7 address of its
descriptor. -/
structure HostQSpec where
  q     : Nat
  conn  : Nat
  base  : W64
  log2n : Nat
  die   : Fin 4
  errw  : W64
  desc  : Nat
  deriving DecidableEq, Repr, Inhabited

/-- What firmware fixes when it creates a context (R193, R195, R245, R292, R306, R355, R403, R379, R170): keys are device ordinals,
cluster keys or flat core numbers. -/
structure CtxSpec where
  ctx      : Nat
  domain   : Half
  errq     : W64
  spranges : List (Nat × Nat × Nat)        -- flat core, first offset, length
  wqueues  : List (Nat × Nat × W64 × Nat)  -- device, queue ID, ring, log2 of its items
  hostqs   : List (Nat × HostQSpec)        -- device, queue
  egrants  : List (Nat × W64 × Nat × Nat)  -- cluster, region mask, first leaf, leaves
  hbgrants : List (Nat × BitVec 8)         -- cluster, slots
  gvtIvl   : Nat
  rights   : List (Nat × Nat × W64)        -- device, physical GDDR 7 address, word of the domain and rights tables
  deriving DecidableEq, Repr, Inhabited

/-- The thresholds of the policy on placement (R221): the quadrant sum, the hops, TOTAL for another die and the share of it in percent that must come from
other dies, TOTAL for LPDDR 6, the milliseconds with TOTAL 0, and the percentage of GDDR 7 allocated. -/
structure HotPolicy where
  quads : Nat
  hops  : Nat
  far   : Nat
  share : Nat
  up    : Nat
  idle  : Nat
  full  : Nat
  deriving DecidableEq, Repr, Inhabited

/-- What ends a matrix operation early (R323, R27): an activation read that cannot be performed, a column that fails in the streaming operation, or one that fails
in the oldest operation that drains. -/
inductive MFail where
  | access | column | drained
  deriving DecidableEq, Repr, Inhabited

/-- A halving of a module's hotness counters, with the thresholds that management has set since the last one (R220, R221). -/
structure Halving where
  dev : Nat
  set : Option HotPolicy
  deriving DecidableEq, Repr, Inhabited

/-- A quiesce of the partition: its reason, and the checkpoint limit in ns where the fabric manager sets one (R159, R160). -/
structure QuiesceCmd where
  reason : Fin 2
  limit  : Option Nat
  deriving DecidableEq, Repr, Inhabited

/-- A module's power table (R282), in W: for each domain its power at the ratios 4 to 12 in order, and the fixed part. -/
structure PowerTable where
  mat   : List Nat
  vec   : List Nat
  net   : List Nat
  mem   : List Nat
  fixed : Nat
  deriving DecidableEq, Repr, Inhabited

/-- What bring-up reads from outside the module (R505): the cause of a failed step if there is one, the root addresses, the links that train, the
census ring that firmware allocates (R491), the power table that firmware loads where it is not the default one (R282), and the coordinator ID that the fabric
manager gives the hub die (R459); the links that train on their spare lane (R486), and whether the fabric manager names this partition. -/
structure BringUp where
  cause     : Nat
  domRoot   : Nat
  transRoot : Nat
  trainedOk : List (Fin 18)
  census    : W64
  slots     : Nat
  power     : Option PowerTable
  coordId   : Half
  spares    : List (Fin 18)
  joins     : Bool
  deriving DecidableEq, Repr, Inhabited

/-- The operations and events of the module, one constructor per row of the table. -/
inductive Instr where
  /-- END, R64. -/
  | lineEnd
  | nop (h : Hd)
  | nopPred (h : Hd) (q : Pred)
  | exit (h : Hd)
  | exitPred (h : Hd) (q : Pred)
  | yield (h : Hd)
  | yieldPred (h : Hd) (q : Pred)
  | unfollow (h : Hd)
  | unfollowPred (h : Hd) (q : Pred)
  | bra (h : Hd) (o : OpJ)
  | call (h : Hd) (o : OpJ)
  | loop (h : Hd) (o : OpJ)
  | jmpi (h : Hd) (o : OpA)
  | ret (h : Hd)
  | align (h : Hd) (o : OpB)
  | follow (h : Hd) (o : OpB)
  | add (h : Hd) (o : OpB)
  | sub (h : Hd) (o : OpB)
  | mul (h : Hd) (o : OpB)
  | mulh (h : Hd) (o : OpB)
  | div (h : Hd) (o : OpB)
  | rem (h : Hd) (o : OpB)
  | min (h : Hd) (o : OpB)
  | max (h : Hd) (o : OpB)
  | mulhN (h : Hd) (o : OpB)
  | divN (h : Hd) (o : OpB)
  | remN (h : Hd) (o : OpB)
  | minN (h : Hd) (o : OpB)
  | maxN (h : Hd) (o : OpB)
  | and (h : Hd) (o : OpB)
  | or (h : Hd) (o : OpB)
  | xor (h : Hd) (o : OpB)
  | andn (h : Hd) (o : OpB)
  | shl (h : Hd) (o : OpB)
  | shr (h : Hd) (o : OpB)
  | sar (h : Hd) (o : OpB)
  | clz (h : Hd) (o : OpB)
  | popc (h : Hd) (o : OpB)
  | mov (h : Hd) (o : OpB)
  | cmp (h : Hd) (c : ICond) (o : OpB)
  | pand (h : Hd) (o : OpB)
  | por (h : Hd) (o : OpB)
  | pxor (h : Hd) (o : OpB)
  | pnot (h : Hd) (o : OpB)
  | pmov (h : Hd) (o : OpB)
  | trap (h : Hd) (o : OpB)
  | trapret (h : Hd) (o : OpB)
  | upret (h : Hd) (o : OpB)
  | chkpt (h : Hd) (o : OpB)
  | fibset (h : Hd) (o : OpB)
  | li (h : Hd) (o : OpL)
  | lih (h : Hd) (o : OpL)
  | mfs (h : Hd) (o : OpL)
  | mts (h : Hd) (o : OpL)
  | bfx (h : Hd) (o : OpC)
  | bfi (h : Hd) (o : OpC)
  | sel (h : Hd) (o : OpC)
  | fadd (h : Hd) (o : OpC)
  | fsub (h : Hd) (o : OpC)
  | fmul (h : Hd) (o : OpC)
  | fma (h : Hd) (o : OpC)
  | fdiv (h : Hd) (o : OpC)
  | fsqrt (h : Hd) (o : OpC)
  | fmin (h : Hd) (o : OpC)
  | fmax (h : Hd) (o : OpC)
  | fcmp (h : Hd) (c : FCond) (o : OpC)
  | fcvt (h : Hd) (o : OpC)
  | vadd (h : Hd) (o : OpC)
  | vsub (h : Hd) (o : OpC)
  | vmul (h : Hd) (o : OpC)
  | vmad (h : Hd) (o : OpC)
  | vmin (h : Hd) (o : OpC)
  | vmax (h : Hd) (o : OpC)
  | vabs (h : Hd) (o : OpC)
  | vand (h : Hd) (o : OpC)
  | vor (h : Hd) (o : OpC)
  | vxor (h : Hd) (o : OpC)
  | vshl (h : Hd) (o : OpC)
  | vshr (h : Hd) (o : OpC)
  | vsar (h : Hd) (o : OpC)
  | vcmp (h : Hd) (c : ICond) (o : OpC)
  | vmov (h : Hd) (o : OpC)
  | vbcast (h : Hd) (o : OpC)
  | vsel (h : Hd) (o : OpC)
  | vcvt (h : Hd) (o : OpC)
  | vperm (h : Hd) (o : OpC)
  | vred (h : Hd) (o : OpC)
  | vscan (h : Hd) (o : OpC)
  | vext (h : Hd) (o : OpC)
  | vins (h : Hd) (o : OpC)
  | vcomp (h : Hd) (o : OpC)
  | vexpd (h : Hd) (o : OpC)
  | vfadd (h : Hd) (o : OpC)
  | vfsub (h : Hd) (o : OpC)
  | vfmul (h : Hd) (o : OpC)
  | vfma (h : Hd) (o : OpC)
  | vfmin (h : Hd) (o : OpC)
  | vfmax (h : Hd) (o : OpC)
  | vfcmp (h : Hd) (c : FCond) (o : OpC)
  | vrcp (h : Hd) (o : OpC)
  | vrsq (h : Hd) (o : OpC)
  | vexp2 (h : Hd) (o : OpC)
  | vlog2 (h : Hd) (o : OpC)
  | ld (h : Hd) (o : OpM)
  | st (h : Hd) (o : OpM)
  | vld (h : Hd) (o : OpM)
  | vst (h : Hd) (o : OpM)
  | vgath (h : Hd) (o : OpC)
  | vscat (h : Hd) (o : OpC)
  | fence (h : Hd) (o : OpC)
  | pref (h : Hd) (o : OpC)
  | amoAdd (h : Hd) (o : OpE)
  | amoAnd (h : Hd) (o : OpE)
  | amoOr (h : Hd) (o : OpE)
  | amoXor (h : Hd) (o : OpE)
  | amoMin (h : Hd) (o : OpE)
  | amoMax (h : Hd) (o : OpE)
  | amoMinn (h : Hd) (o : OpE)
  | amoMaxn (h : Hd) (o : OpE)
  | amoSwap (h : Hd) (o : OpE)
  | amoFadd (h : Hd) (o : OpE)
  | cas (h : Hd) (o : OpE)
  | stm (h : Hd) (o : OpE)
  | stred (h : Hd) (o : OpE)
  | sbind (h : Hd) (o : OpE)
  | sbindx (h : Hd) (o : OpE)
  | sdone (h : Hd) (o : OpE)
  | sskip (h : Hd) (o : OpE)
  | sstat (h : Hd) (o : OpE)
  | stash (h : Hd) (o : OpC)
  | unstash (h : Hd) (o : OpC)
  | flush (h : Hd) (o : OpC)
  | mload (h : Hd) (o : OpE)
  | mswap (h : Hd) (o : OpE)
  | mzero (h : Hd) (o : OpE)
  | mdrain (h : Hd) (o : OpE)
  | mmul (h : Hd) (pair : MPair) (o : OpE)
  | mmuls (h : Hd) (pair : MPair) (o : OpE)
  | mpri (h : Hd) (o : OpC)
  | mfence (h : Hd) (o : OpC)
  | mstat (h : Hd) (o : OpC)
  | bscaleBlk (h : Hd) (o : OpC)
  | bscaleAmax (h : Hd) (o : OpC)
  | bscaleBand (h : Hd) (o : OpC)
  | qnt (h : Hd) (o : OpC)
  | dqnt (h : Hd) (o : OpC)
  | qsplit (h : Hd) (o : OpC)
  | spcomp (h : Hd) (o : OpC)
  | spchk (h : Hd) (o : OpC)
  | evsig (h : Hd) (o : OpC)
  | evwait (h : Hd) (o : OpC)
  | evclr (h : Hd) (o : OpC)
  | bararr (h : Hd) (o : OpC)
  | bararrInit (h : Hd) (o : OpC)
  | bararrFree (h : Hd) (o : OpC)
  | barwait (h : Hd) (o : OpC)
  | watch (h : Hd) (o : OpC)
  | watchX (h : Hd) (o : OpC)
  | wfe (h : Hd) (o : OpC)
  | sev (h : Hd) (o : OpC)
  | xbsetCtr (h : Hd) (o : OpE)
  | xbsetTerm (h : Hd) (o : OpE)
  | xbsetTimer (h : Hd) (o : OpE)
  | xbsetReset (h : Hd) (o : OpE)
  | launch (h : Hd) (o : OpE)
  | cntadd (h : Hd) (o : OpE)
  | cancel (h : Hd) (o : OpE)
  | clkreq (h : Hd) (o : OpE)
  | pop (h : Hd) (o : OpC)
  | pushw (h : Hd) (o : OpC)
  | qclose (h : Hd) (o : OpC)
  | amsg (h : Hd) (o : OpE)
  | amret (h : Hd) (o : OpE)
  | amwait (h : Hd) (o : OpE)
  | cpy (h : Hd) (o : OpE)
  | cpytry (h : Hd) (o : OpE)
  | cpywait (h : Hd) (o : OpE)
  | mcfill (h : Hd) (o : OpE)
  | mcfillPark (h : Hd) (o : OpE)
  | mcdrain (h : Hd) (o : OpE)
  | mbxpop (h : Hd) (o : OpE)
  | rput (h : Hd) (o : OpE)
  | grantp (h : Hd) (o : OpE)
  | rcancel (h : Hd) (o : OpE)
  | etinit (h : Hd) (o : OpE)
  | etinitFree (h : Hd) (o : OpE)
  | eloadv (h : Hd) (o : OpE)
  | eset (h : Hd) (o : OpE)
  | eadd (h : Hd) (o : OpE)
  | eget (h : Hd) (o : OpE)
  | esum (h : Hd) (o : OpE)
  | enext (h : Hd) (o : OpE)
  | eseed (h : Hd) (o : OpE)
  | etab (h : Hd) (o : OpE)
  | eclk (h : Hd) (o : OpE)
  | eclkSet (h : Hd) (o : OpE)
  | tsend (h : Hd) (o : OpE)
  | tend (h : Hd) (o : OpE)
  | tabort (h : Hd) (o : OpE)
  | tgvt (h : Hd) (o : OpE)
  | tkey (h : Hd) (o : OpE)
  | twait (h : Hd) (o : OpE)
  | gpost (h : Hd) (o : OpE)
  | gwait (h : Hd) (o : OpE)
  | gtkt (h : Hd) (o : OpE)
  | gcancel (h : Hd) (o : OpE)
  | gstat (h : Hd) (o : OpE)
  | bkpt (h : Hd) (o : OpC)
  | trace (h : Hd) (o : OpC)
  | perfRd (h : Hd) (o : OpC)
  | perfCfg (h : Hd) (o : OpC)
  | perfClr (h : Hd) (o : OpC)
  | rmark (h : Hd) (o : OpC)
  -- core, fetch and issue
  | alignWindowExpiry (k : Nat)
  | joinWindowExpiry (k : Nat)
  | twillForwardIssue (k : Nat)
  | issueSelect (flat : Nat)
  | fetchLine (cl : Nat)
  -- memory
  | storePerformed (flat : Nat)
  | destCheckAtHome (flat : Nat)
  | errorRecordReserve (ctx : Nat) (record : List Byte)
  | streamServe (k : Nat) (r : Fin 8)
  | streamFault (k : Nat) (r : Fin 8)
  | stashRecall (k : Nat) (va : W64)
  | guestCopyExpiry (dk : Nat) (line : Nat)
  -- matrix units: mu = cluster key * 2 + unit
  | planeLoadStart (mu : Nat)
  | planeLoadDone (mu : Nat)
  | arbiterGrant (mu : Nat)
  | kstepBoundary (mu : Nat)
  | lastRow (mu : Nat)
  | matrixRetire (mu : Nat)
  | matrixFault (mu : Nat) (row : Nat) (why : MFail)
  | matrixAgeing (mu : Nat) (pos : Nat)
  | columnRemap (mu : Nat)
  -- events, watches, Damask
  | evwaitTimeout (k : Nat)
  | watchPoll (dk : Nat)
  | wfeTimeout (k : Nat)
  | damaskTermFire (k : Nat)
  | damaskTimer (k : Nat)
  -- launches, counters, clocks
  | unitStart (launch : Nat) (unit : Nat)
  | unitWithdrawn (launch : Nat) (flat : Nat)
  | counterAdd
  | grantChange (dev : Nat)
  -- host queues and leadership
  | tailWrite (dev : Nat) (conn : Nat) (offset : Nat) (size : Nat) (value : W64)
  | packetRead (dev : Nat) (q : Nat)
  | holdEnds (dev : Nat) (q : Nat)
  | packetComplete (dev : Nat) (q : Nat) (idx : Nat)
  | queueStop (dev : Nat) (q : Nat)
  | queueResume (dev : Nat) (q : Nat) (rdidx : W32)
  | leaseRenew (dev : Nat) (die : Fin 4)
  | leaseTakeover (dev : Nat) (die : Fin 4)
  -- messages: n is the place of the message among those in flight
  | messageArrival (n : Nat)
  | handlerStart (flat : Nat)
  | htimeout (flat : Nat)
  | replyArrival (n : Nat)
  | bounce (n : Nat)
  -- copies, holding buffer, transfers
  | copyStart (k : Nat) (ch : Fin 4)
  | copyDone (k : Nat) (ch : Fin 4)
  | copyFault (k : Nat) (ch : Fin 4)
  | hbFillEnd (cl : Nat) (slot : Fin 8)
  | transferAnnounce (k : Nat) (id : Nat)
  | tokenGrant (dk : Nat)
  | tokenArrival (k : Nat) (id : Nat)
  | tablaAgeing (dk : Nat) (entry : Nat)
  | tokenExpiry (dk : Nat) (entry : Nat)
  | keepalive (k : Nat) (id : Nat)
  | reclaim (dk : Nat) (entry : Nat)
  | reclaimNotice (k : Nat) (id : Nat)
  | transferComplete (k : Nat) (id : Nat)
  | transferFault (k : Nat) (id : Nat)
  | expiryNotice (k : Nat) (id : Nat)
  | transferSendDone (k : Nat) (id : Nat)
  -- tasks
  | taskArrival (n : Nat)
  | taskDispatch (k : Nat)
  | gvtRound (ctx : Nat)
  -- groups
  | groupCreate (gid : W32) (ctx : Nat) (members : List Nat) (coord : Half) (plane : Nat)
  | groupDestroy (gid : W32)
  | ticketIssue (gid : W32) (seq : Nat)
  | ticketArrival (dev : Nat) (gid : W32) (seq : Nat)
  | horizonBeacon (dev : Nat) (coord : Half)
  | collectiveAdmit (dev : Nat)
  | collectiveFinish (dev : Nat) (gid : W32) (seq : Nat)
  | collectiveWithdraw (gid : W32) (seq : Nat)
  | cancelNotice (dev : Nat) (gid : W32) (seq : Nat)
  | abandonNotice (dev : Nat) (gid : W32) (seq : Nat)
  | mismatchNotice (dev : Nat) (gid : W32) (seq : Nat)
  | ticketAgeBreach (dev : Nat) (gid : W32) (seq : Nat)
  -- debug
  | breakpoint (k : Nat)
  | crossTriggerHalt (cl : Nat) (package : Bool)
  | debugRelease (cl : Nat)
  | issueLogFreed (cl : Nat) (n : Nat)
  | replayModeSet (cl : Nat) (mode : ReplayMode) (log : List LogEntry)
  -- contexts
  | admitPart (flat : Nat) (ctx : Nat)
  | preempt (k : Nat)
  | resume (k : Nat)
  | spill (k : Nat)
  | restore (flat : Nat) (ctx : Nat)
  | halt (k : Nat)
  | release (k : Nat)
  | liveDump (ctx : Nat)
  | quiesce (q : QuiesceCmd)
  | checkpoint (k : Nat)
  | quiesceWithdraw (rebuild : Bool)
  | checkpointLimit (k : Nat)
  | evictionTransferDone (ctx : Nat) (src : Nat) (dst : Nat)
  | destroy (ctx : Nat) (flat : Option Nat)
  | asyncMcheck (k : Nat)
  | contextCreate (c : CtxSpec)
  -- pages
  | map (dev : Nat) (va : W64) (level : Fin 3) (leaf : W64) (tables : List W64)
  | unmap (dev : Nat) (va : W64)
  | migrate (dev : Nat) (va : W64) (leaf : W64) (home : Nat)
  | replicate (dev : Nat) (va : W64) (frames : List W64)
  | collapse (dev : Nat) (va : W64)
  | migrationDone (dev : Nat) (va : W64)
  | lineLost (dev : Nat) (va : W64) (leaf : W64)
  | pinLimit (dev : Nat) (va : W64)
  /-- The policy on placement is applied and every counter halves, once the thresholds that management has set are in force (R220, R221). -/
  | hotnessHalving (h : Halving)
  | rightsShootdown (domain : Half) (base : W64) (log2 : Nat)
  -- spares, scrub
  | spareCoreMap (cl : Nat) (pos : Fin 16)
  | l2WayRetire (flat : Nat)
  | scrubSweep (dev : Nat) (va : W64) (corrected : Bool) (lost : Option W64)
  | resourceWithdrawal (dev : Nat) (r : Resource)
  -- links
  | linkEnable (dev : Nat) (n : Fin 18)
  | linkDisable (dev : Nat) (n : Fin 18)
  | linkTrained (dev : Nat) (n : Fin 18) (spareLane : Bool)
  | trainingFailed (dev : Nat) (n : Fin 18)
  | retrain (dev : Nat) (n : Fin 18)
  | frameReceive (dev : Nat) (n : Fin 18) (f : Frame)
  | nakReceive (dev : Nat) (n : Fin 18) (ack : Nat)
  | idleFrame (dev : Nat) (n : Fin 18)
  | rekey (dev : Nat) (n : Fin 18) (epoch : W32)
  | retire (dev : Nat) (n : Fin 18)
  | oldKeyTimeout (dev : Nat) (n : Fin 18)
  | endToEndAck (dev : Nat) (dst : Nat) (cls : Fin 4)
  | linkDrain (dev : Nat) (n : Fin 18)
  | linkDrained (dev : Nat) (n : Fin 18)
  | linkEncryptionSet (dev : Nat) (n : Fin 18) (on : Bool)
  | censusSnapshot (dev : Nat)
  | peerLoss (dev : Nat)
  -- service and management
  | moduleReset (dev : Nat) (b : BringUp)
  | mgmtRegWrite (dev : Nat) (offset : W32) (value : W32)
  | pcapWrite (dev : Nat) (value : W32)
  | evictGo (dev : Nat) (ord : Nat)
  | evictAbort (dev : Nat)
  | evictTimeout (dev : Nat)
  | evictReleased (dev : Nat)
  | latchOpened (dev : Nat)
  | freeze (dev : Nat)
  | leaseLapse (dev : Nat)
  | healthRecordWrite (dev : Nat)
  | firmwareUpdate (dev : Nat) (image : Nat)
  | powerOff (dev : Nat)
  deriving DecidableEq, Repr

end Sys2Proof
end

