-- ==== Sys2Proof/Config.lean ====
section
/-! DEFINITION. What the spec leaves open: free values. Each is a constant with no body, so no proof can see what it is. -/

namespace Sys2Proof.Config

/-- FREE VALUE. The code that an inline literal supplies to a format that does not represent it exactly (R71 says "converted exactly"):
the format's width (0 for E3M5) and the literal. (DESIGN CHOICE: log 15.) -/
opaque inexactLiteral (width : Nat) (lit : Int) : Nat

/-- FREE VALUE. The ac that pass between two steps of the model; the argument is the step counter (R96 gives no relation). (DESIGN CHOICE: log 5.) -/
opaque elapsed (step : Nat) : Nat

/-- FREE VALUE. The ns by which FTIME advances between two steps. (DESIGN CHOICE: log 5.) -/
opaque elapsedNs (step : Nat) : Nat

/-- FREE VALUE. Whether an access misses in the L2 and so counts at its page's directory entry (R220); the argument is the free counter. (DESIGN CHOICE: log 32.) -/
opaque l2Miss (n : Nat) : Bool

/-- FREE VALUE. Which granule of a store or of a copy is performed next (R175, R188 give no order); the argument is the free counter. (DEDUCED: log 37.) -/
opaque nextGranule (n : Nat) : Nat

/-- FREE VALUE. Whether a home can hold a new version of a task (R434 gives no capacity); the argument is the step counter. (DESIGN CHOICE: log 118.) -/
opaque versionRoom (step : Nat) : Bool

/-- FREE VALUE. The die, if any, that a die sample of the directory shows to supply most of a page's misses (R221); the argument is the free counter.
(DEDUCED: log 75.) -/
opaque dieSample (n : Nat) : Option Nat

/-- FREE VALUE. The frame, as a leaf word, and the tile that firmware reserves for a page that it moves to another die or tier (R221, R223); the argument is
the free counter. (DEDUCED: log 75.) -/
opaque freeFrame (n : Nat) : BitVec 64 × Nat

/-- FREE VALUE. Whether an access to a line homed on another die of the package fills a guest copy (R171 says "may"). (DESIGN CHOICE: log 32.) -/
opaque guestFill (n : Nat) : Bool

/-- FREE VALUE. Whether a fetch of a code line finds what the launch itself has stored there (R68 says that it may or may not); the argument is the free counter.
(DEDUCED: log 192.) -/
opaque freshLine (n : Nat) : Bool

/-- FREE VALUE. FAULTINFO.REASON at the deferred trap of a multicast or reducing store (R193, R216): the spec gives the record's reasons, whose
codes are not those of R217. The argument is the record's mask of denied destinations. (DESIGN CHOICE: log 31.) -/
opaque deferredReason (deny : Nat) : Nat

/-- FREE VALUE. Which agent acts next where nothing has been chosen yet: the event that comes at a step, or none, where the core that acted
last selects an instruction to issue. The spec orders events of different agents only where a rule says so. (DESIGN CHOICE: log 4.) -/
opaque nextEvent (step : Nat) : Option Instr

/-- FREE VALUE. ROW0 and COL0 of a clip box of a copy that copied no element (R377 names the first row and column copied). The argument is the
transfer ID. (DESIGN CHOICE: log 135.) -/
opaque emptyBox (id : Nat) : Nat

/-- FREE VALUE. What firmware answers to a service message with RP: status, words 0 and 1 and the reason. The argument is the free counter. (DESIGN CHOICE: log 57.) -/
opaque firmwareReply (n : Nat) : Nat × W64 × W64 × Nat

/-- FREE VALUE. The partials that an arrival-order reduction combines next (R62, R468): the collective's free-counter value, the element and the place in
the order of choices. (DESIGN CHOICE: log 144.) -/
opaque arrivalPick (seed elem i : Nat) : Nat

/-- FREE VALUE. The entries that the ring of a cluster's issue log holds (R500 gives no size). (DESIGN CHOICE: log 150.) -/
opaque logSize : Nat

/-- FREE VALUE. Whether a debugger has set PASS in a part by the time its cluster is released (R497). The argument is the free counter. (DESIGN CHOICE: log 68.) -/
opaque setsPass (n : Nat) : Bool

/-- FREE VALUE. Whether a partition in a cc is not eligible for an interlocked source (R499): the model holds every result at once. The argument is
the free counter. (DESIGN CHOICE: log 149.) -/
opaque interlocked (n : Nat) : Bool

/-- FREE VALUE. SENT and STALL of an entry of a census record (R492): the flits and the ac of a channel, which the model does not follow. The
arguments are the free counter and the entry. (DESIGN CHOICE: log 66.) -/
opaque censusCounts (n entry : Nat) : Nat × Nat

/-- FREE VALUE. REV, SERIAL and MADE of a module's identity block (R508): 26 bytes fixed at its manufacture, REV in bits 15:0. (DESIGN CHOICE: log 78.) -/
opaque identity (dev : Nat) : BitVec 208

end Sys2Proof.Config
end

