-- ==== Sys2Proof/Machine/Num.lean ====
section
/-! DEFINITION. The numbers of the module (R32 to R62): formats, exact values, the one rounding, conversions, the random words of
stochastic rounding and the elementary functions. Codes are natural numbers below 2^width; every result carries its flags. -/

namespace Sys2Proof.Machine

/-! ## Flags of R50, as bits of FPFLAGS -/

def flagNV : Nat := 1
def flagDZ : Nat := 2
def flagOF : Nat := 4
def flagUF : Nat := 8
def flagNX : Nat := 16

/-- A code with the flags its computation raised. -/
structure FRes where
  code  : Nat
  flags : Nat
  deriving DecidableEq, Repr, Inhabited

/-! ## Philox-4x32-10 (R46) -/

/-- One multiplication of a Philox round: high and low words. -/
def mulHiLo (a b : Nat) : Nat × Nat := (a * b / 2 ^ 32 % 2 ^ 32, a * b % 2 ^ 32)

/-- One Philox-4x32 round with round keys `k0` and `k1`. -/
def philoxRound (k0 k1 : Nat) : Nat × Nat × Nat × Nat → Nat × Nat × Nat × Nat
  | (c0, c1, c2, c3) =>
    let (h0, l0) := mulHiLo 0xD2511F53 c0
    let (h1, l1) := mulHiLo 0xCD9E8D57 c2
    ((h1 ^^^ c1) ^^^ k0, l1, (h0 ^^^ c3) ^^^ k1, l0)

/-- `n` Philox rounds, the key bumped by the Weyl constants after each. -/
def philoxRounds : Nat → Nat → Nat → Nat × Nat × Nat × Nat → Nat × Nat × Nat × Nat
  | 0, _, _, c => c
  | n + 1, k0, k1, c =>
    philoxRounds n ((k0 + 0x9E3779B9) % 2 ^ 32) ((k1 + 0xBB67AE85) % 2 ^ 32) (philoxRound k0 k1 c)

/-- Philox-4x32-10 of a 64-bit key and a four-word counter. -/
def philox (key : W64) (c0 c1 c2 c3 : Nat) : Nat × Nat × Nat × Nat :=
  philoxRounds 10 (key.toNat % 2 ^ 32) (key.toNat / 2 ^ 32) (c0, c1, c2, c3)

/-- One of the four output words. -/
def pick4 (t : Nat × Nat × Nat × Nat) (j : Nat) : Nat :=
  match j with
  | 0 => t.1
  | 1 => t.2.1
  | 2 => t.2.2.1
  | _ => t.2.2.2

/-- The random word of result `j` of lane `lane` (64 for the scalar unit), R46. -/
def srWord (seed ctr : W64) (lane j : Nat) : Nat :=
  let c := (ctr.toNat + j / 4) % 2 ^ 64
  pick4 (philox seed (c % 2 ^ 32) (c / 2 ^ 32) lane 0) (j % 4)

/-! ## Formats -/

/-- How a format uses its top codes (R32, R33). -/
inductive FClass where
  | ieee | e4m3 | e2m1
  deriving DecidableEq, Repr

/-- A signed floating-point format. -/
structure Fmt where
  eb   : Nat
  mb   : Nat
  bias : Nat
  cls  : FClass
  /-- FZ applies to this format (R44). -/
  fzAble : Bool
  deriving DecidableEq, Repr

def fmt64 : Fmt := ⟨11, 52, 1023, .ieee, true⟩
def fmt32 : Fmt := ⟨8, 23, 127, .ieee, true⟩
def fmt16 : Fmt := ⟨5, 10, 15, .ieee, true⟩
def fmtBf : Fmt := ⟨8, 7, 127, .ieee, true⟩
def fmtE4 : Fmt := ⟨4, 3, 7, .e4m3, false⟩
def fmtE5 : Fmt := ⟨5, 2, 15, .ieee, false⟩
def fmtF4 : Fmt := ⟨2, 1, 1, .e2m1, false⟩

namespace Fmt
def width (f : Fmt) : Nat := 1 + f.eb + f.mb
def signBit (f : Fmt) : Nat := 2 ^ (f.eb + f.mb)
/-- The exponent of the smallest normal value. -/
def emin (f : Fmt) : Int := 1 - (f.bias : Int)
/-- The magnitude code of the largest finite value (R34). -/
def maxFin (f : Fmt) : Nat :=
  match f.cls with
  | .ieee => (2 ^ f.eb - 1) * 2 ^ f.mb - 1
  | .e4m3 => 2 ^ (f.eb + f.mb) - 2
  | .e2m1 => 2 ^ (f.eb + f.mb) - 1
/-- The magnitude code of infinity (formats that have one). -/
def infCode (f : Fmt) : Nat := (2 ^ f.eb - 1) * 2 ^ f.mb
/-- The canonical NaN (R34); E2M1 has none and takes +0 (R56). -/
def nanCode (f : Fmt) : Nat :=
  match f.cls with
  | .ieee => f.infCode + 2 ^ (f.mb - 1)
  | .e4m3 => 0x7F
  | .e2m1 => 0
end Fmt

/-- An exact value: a NaN (signalling or quiet), an infinity, or the finite value m × 2^e with a sign. -/
inductive FV where
  | nan (sig : Bool)
  | inf (neg : Bool)
  | fin (neg : Bool) (m : Nat) (e : Int)
  deriving DecidableEq, Repr

/-- The value of a code (R33). -/
def decodeF (f : Fmt) (code : Nat) : FV :=
  let neg := code / f.signBit % 2 = 1
  let e := code / 2 ^ f.mb % 2 ^ f.eb
  let m := code % 2 ^ f.mb
  if f.cls = .ieee ∧ e = 2 ^ f.eb - 1 then
    if m = 0 then .inf neg else .nan (m < 2 ^ (f.mb - 1))
  else if f.cls = .e4m3 ∧ e = 15 ∧ m = 7 then .nan false
  else if e = 0 then .fin neg m (f.emin - f.mb)
  else .fin neg (2 ^ f.mb + m) ((e : Int) - f.bias - f.mb)

/-- The value of an operand under FZ (R44). -/
def decodeFZ (f : Fmt) (fz : Bool) (code : Nat) : FV :=
  match decodeF f code with
  | .fin neg m e => if fz ∧ f.fzAble ∧ code / 2 ^ f.mb % 2 ^ f.eb = 0 then .fin neg 0 0 else .fin neg m e
  | v => v

/-- The value of an E3M5 code (R37); the invalid code 0xFF reads as a signalling NaN. -/
def decodeE3 (code : Nat) : FV :=
  let e := code / 32 % 8
  let m := code % 32
  if code % 256 = 0xFF then .nan true
  else if e = 0 then .fin false m (-7)
  else .fin false (32 + m) ((e : Int) - 8)

/-! ## Rounding (R41 to R45) -/

/-- The rounding mode, flush-to-zero and the random word of one result. -/
structure RCtl where
  mode : Nat
  fz   : Bool
  word : Nat
  deriving DecidableEq, Repr

def rcRNE : RCtl := ⟨0, false, 0⟩

/-- Whether the quotient k with remainder r of divisor d is rounded up in magnitude. -/
def roundUp (c : RCtl) (neg : Bool) (k r d : Nat) : Bool :=
  if r = 0 then false
  else match c.mode with
  | 0 => d < 2 * r || (2 * r == d && k % 2 == 1)
  | 1 => false
  | 2 => neg
  | 3 => !neg
  | _ => c.word * d < r * 2 ^ 32

/-- num / den × 2^e divided by 2^q, as a quotient, a remainder and a divisor. -/
def scaleDiv (num den : Nat) (e q : Int) : Nat × Nat × Nat :=
  let n := num * 2 ^ (e - q).toNat
  let d := den * 2 ^ (q - e).toNat
  (n / d, n % d, d)

/-- The exponent E with 2^E ≤ num / den × 2^e < 2^(E+1). -/
def floorLog (num den : Nat) (e : Int) : Int :=
  let g : Int := (num.log2 : Int) - den.log2
  -- 2^(g-1) < num/den < 2^(g+1)
  if den * 2 ^ g.toNat ≤ num * 2 ^ (-g).toNat then g + e else g - 1 + e

/-- The overflow result of R42. -/
def overflowF (f : Fmt) (c : RCtl) (neg : Bool) : FRes :=
  let s := if neg then f.signBit else 0
  match f.cls with
  | .ieee =>
    let toInf := match c.mode with
      | 1 => false
      | 2 => neg
      | 3 => !neg
      | _ => true
    ⟨s + (if toInf then f.infCode else f.maxFin), flagOF + flagNX⟩
  | _ => ⟨s + f.maxFin, flagOF + flagNX⟩

/-- The one rounding: the exact magnitude num / den × 2^e (num and den positive) to format f. -/
def roundMag (f : Fmt) (c : RCtl) (neg : Bool) (num den : Nat) (e : Int) : FRes :=
  let s := if neg then f.signBit else 0
  let E := floorLog num den e
  let E' := max E f.emin
  let (k, r, d) := scaleDiv num den e (E' - f.mb)
  let k' := if roundUp c neg k r d then k + 1 else k
  let code := (E' + f.bias - 1).toNat * 2 ^ f.mb + k'
  let exactCode := (E' + f.bias - 1).toNat * 2 ^ f.mb + k
  -- tiny after rounding with unbounded exponent range (R43)
  let (ku, ru, du) := scaleDiv num den e (E - f.mb)
  let ku' := if roundUp c neg ku ru du then ku + 1 else ku
  let tiny := decide (E < f.emin) && !(decide (E + 1 = f.emin) && decide (ku' = 2 ^ (f.mb + 1)))
  if c.mode = 4 ∧ (f.maxFin < exactCode ∨ (exactCode = f.maxFin ∧ r ≠ 0)) then overflowF f c neg
  else if f.maxFin < code then overflowF f c neg
  else if tiny && c.fz && f.fzAble then ⟨s, flagUF + flagNX⟩
  else ⟨s + code, (if r = 0 then 0 else flagNX) + (if tiny && decide (r ≠ 0) then flagUF else 0)⟩

/-- Round an exact value to a code: NaN, infinity (saturating where the format has none), zero and finite. `flags` are those already raised. -/
def encodeF (f : Fmt) (c : RCtl) (v : FV) (flags : Nat) : FRes :=
  match v with
  | .nan sig =>
    ⟨f.nanCode, flags ||| (if sig || f.cls = .e2m1 then flagNV else 0)⟩
  | .inf neg =>
    if f.cls = .ieee then ⟨(if neg then f.signBit else 0) + f.infCode, flags⟩
    else let r := overflowF f c neg; ⟨r.code, flags ||| r.flags⟩
  | .fin neg 0 _ => ⟨if neg then f.signBit else 0, flags⟩
  | .fin neg m e => let r := roundMag f c neg m 1 e; ⟨r.code, flags ||| r.flags⟩

/-! ## Exact operations on values: each answers the exact value and the flags it raises -/

/-- NV of a signalling operand (R55). -/
def sigFlag : FV → Nat
  | .nan true => flagNV
  | _ => 0

def FV.isNan : FV → Bool
  | .nan _ => true
  | _ => false

def FV.negate : FV → FV
  | .nan s => .nan s
  | .inf n => .inf (!n)
  | .fin n m e => .fin (!n) m e

/-- The signed integer of a finite value at exponent q ≤ e. -/
def atExp (neg : Bool) (m : Nat) (e q : Int) : Int :=
  let k : Int := (m * 2 ^ (e - q).toNat : Nat)
  if neg then -k else k

/-- Sum of two values (R55); `rdn` is whether the mode is RDN, which decides the sign of an exact zero. -/
def addV (rdn : Bool) (x y : FV) : FV × Nat :=
  match x, y with
  | .nan a, .nan b => (.nan false, if a || b then flagNV else 0)
  | .nan a, _ => (.nan false, if a then flagNV else 0)
  | _, .nan b => (.nan false, if b then flagNV else 0)
  | .inf a, .inf b => if a = b then (.inf a, 0) else (.nan false, flagNV)
  | .inf a, _ => (.inf a, 0)
  | _, .inf b => (.inf b, 0)
  | .fin a m e, .fin b n g =>
    let q := min e g
    let t := atExp a m e q + atExp b n g q
    if t = 0 then
      (.fin (if a = b then a else rdn) 0 0, 0)
    else (.fin (t < 0) t.natAbs q, 0)

/-- Product of two values (R55). -/
def mulV (x y : FV) : FV × Nat :=
  match x, y with
  | .nan a, .nan b => (.nan false, if a || b then flagNV else 0)
  | .nan a, _ => (.nan false, if a then flagNV else 0)
  | _, .nan b => (.nan false, if b then flagNV else 0)
  | .inf a, .inf b => (.inf (a != b), 0)
  | .inf a, .fin b n _ => if n = 0 then (.nan false, flagNV) else (.inf (a != b), 0)
  | .fin a m _, .inf b => if m = 0 then (.nan false, flagNV) else (.inf (a != b), 0)
  | .fin a m e, .fin b n g => (.fin (a != b) (m * n) (e + g), 0)

/-- x × y + z, exact (R58). A zero product with a signalling addend and so on raise every flag they meet. -/
def fmaV (rdn : Bool) (x y z : FV) : FV × Nat :=
  let (p, fp) := mulV x y
  let (s, fs) := addV rdn p z
  (s, fp ||| fs)

/-- Quotient, rounded to f (R55, R41). -/
def divF (f : Fmt) (c : RCtl) (x y : FV) : FRes :=
  match x, y with
  | .nan a, .nan b => ⟨f.nanCode, (if a || b then flagNV else 0) ||| (if f.cls = .e2m1 then flagNV else 0)⟩
  | .nan a, _ => ⟨f.nanCode, if a || f.cls = .e2m1 then flagNV else 0⟩
  | _, .nan b => ⟨f.nanCode, if b || f.cls = .e2m1 then flagNV else 0⟩
  | .inf _, .inf _ => ⟨f.nanCode, flagNV⟩
  | .inf a, .fin b _ _ => encodeF f c (.inf (a != b)) 0
  | .fin a _ _, .inf b => encodeF f c (.fin (a != b) 0 0) 0
  | .fin a m e, .fin b n g =>
    if n = 0 then
      if m = 0 then ⟨f.nanCode, flagNV⟩ else encodeF f c (.inf (a != b)) flagDZ
    else if m = 0 then encodeF f c (.fin (a != b) 0 0) 0
    else roundMag f c (a != b) m n (e - g)

/-- The working precision, in fractional bits, of the irrational functions. -/
def fixP : Nat := 400

/-- Integer square root by bits: `n` bits of the root of `v`, from the top. -/
def isqrtGo : Nat → Nat → Nat → Nat
  | 0, _, r => r
  | n + 1, v, r =>
    let t := r + 2 ^ n
    isqrtGo n v (if t * t ≤ v then t else r)

/-- The integer square root. -/
def isqrt (v : Nat) : Nat := isqrtGo (v.log2 / 2 + 1) v 0

/-- The root of m × 2^e as an exact value with a sticky bit: 2r, or 2r + 1 where the root is not r (enough bits for every mode). -/
def sqrtVal (m : Nat) (e : Int) : Nat × Int :=
  let m' := if e % 2 = 0 then m else 2 * m
  let e' := if e % 2 = 0 then e else e - 1
  let v := m' * 2 ^ (2 * 160)
  let r := isqrt v
  (2 * r + (if r * r = v then 0 else 1), e' / 2 - 161)

/-- Square root, rounded (R55). -/
def sqrtF (f : Fmt) (c : RCtl) (x : FV) : FRes :=
  match x with
  | .nan a => ⟨f.nanCode, if a then flagNV else 0⟩
  | .inf a => if a then ⟨f.nanCode, flagNV⟩ else ⟨f.infCode, 0⟩
  | .fin a m e =>
    if m = 0 then encodeF f c (.fin a 0 0) 0
    else if a then ⟨f.nanCode, flagNV⟩
    else let (k, q) := sqrtVal m e; roundMag f c false k 1 q

/-- Reciprocal square root (R143). -/
def rsqrtF (f : Fmt) (c : RCtl) (x : FV) : FRes :=
  match x with
  | .nan a => ⟨f.nanCode, if a then flagNV else 0⟩
  | .inf a => if a then ⟨f.nanCode, flagNV⟩ else ⟨0, 0⟩
  | .fin a m e =>
    if m = 0 then encodeF f c (.inf a) flagDZ
    else if a then ⟨f.nanCode, flagNV⟩
    else
      -- 1/√(m·2^e) = √(m·2^(-e)) / m
      let (k, q) := sqrtVal m (-e)
      roundMag f c false k m q

/-- Σ z^(2i+1) / (2i+1), in units of 2^-fixP, `n` terms: `t` is z^(2i+1). -/
def atanhGo : Nat → Nat → Nat → Nat → Nat
  | 0, _, _, _ => 0
  | n + 1, t, z2, i => t / (2 * i + 1) + atanhGo n (t * z2 / 2 ^ fixP) z2 (i + 1)

/-- ln 2 in units of 2^-fixP. -/
def fixLn2 : Nat :=
  let z := 2 ^ fixP / 3
  2 * atanhGo 140 z (z * z / 2 ^ fixP) 0

/-- ln of a/b in [1, 2], in units of 2^-fixP. -/
def fixLn1 (a b : Nat) : Nat :=
  let z := (a - b) * 2 ^ fixP / (a + b)
  2 * atanhGo 140 z (z * z / 2 ^ fixP) 0

/-- Σ t^k / k!, in units of 2^-fixP; `p` is t^k / k!. -/
def expGo : Nat → Nat → Nat → Nat → Nat
  | 0, _, _, _ => 0
  | n + 1, p, t, k => p + expGo n (p * t / ((k + 1) * 2 ^ fixP)) t (k + 1)

/-- 2^x for one finite x, rounded (R143). (UNVERIFIED: log 30.) -/
def exp2F (f : Fmt) (c : RCtl) (x : FV) : FRes :=
  match x with
  | .nan a => ⟨f.nanCode, if a then flagNV else 0⟩
  | .inf a => if a then ⟨0, 0⟩ else ⟨f.infCode, 0⟩
  | .fin a m e =>
    if m = 0 then roundMag f c false 1 1 0
    else
      -- floor of x and the fraction in units of 2^-fixP; x of huge magnitude is clamped far outside every exponent range
      let big := decide (20 ≤ floorLog m 1 e)
      if big then (if a then roundMag f c false 1 1 (-1048576) else roundMag f c false 1 1 1048576)
      else
        let X : Int := atExp a m e (min e 0)
        let U : Int := ((2 ^ (-(min e 0)).toNat : Nat) : Int)
        let n := X / U
        let fr := (X % U).toNat
        if fr = 0 then roundMag f c false 1 1 n
        else
          let t := fr * fixLn2 / U.toNat
          let v := expGo 110 (2 ^ fixP) t 0
          roundMag f c false (2 * v + 1) 1 (n - (fixP + 1 : Nat))

/-- log2 x, rounded (R143). (UNVERIFIED: log 30.) -/
def log2F (f : Fmt) (c : RCtl) (x : FV) : FRes :=
  match x with
  | .nan a => ⟨f.nanCode, if a then flagNV else 0⟩
  | .inf a => if a then ⟨f.nanCode, flagNV⟩ else ⟨f.infCode, 0⟩
  | .fin a m e =>
    if m = 0 then encodeF f c (.inf true) flagDZ
    else if a then ⟨f.nanCode, flagNV⟩
    else
      let E := floorLog m 1 e
      let b := m.log2
      if m = 2 ^ b then encodeF f c (.fin (E < 0) E.natAbs 0) 0
      else
        let l := fixLn1 m (2 ^ b) * 2 ^ fixP / fixLn2
        let t : Int := E * ((2 ^ fixP : Nat) : Int) + l
        -- the exact value lies strictly between t and t + 1 units, up to the error of the series
        let t2 := 2 * t + 1
        roundMag f c (t2 < 0) t2.natAbs 1 (-((fixP + 1 : Nat) : Int))

/-- −ln u for u = n / 2^b in (0, 1), rounded to nearest even in binary64 (R409). -/
def negLn64 (n b : Nat) : Nat :=
  let k := n.log2
  -- u = (n / 2^k) · 2^(k-b);  −ln u = (b − k) ln 2 − ln(n / 2^k)
  let v := (b - k) * fixLn2 - fixLn1 n (2 ^ k)
  if v = 0 then 0 else (roundMag fmt64 rcRNE false (2 * v + 1) 1 (-((fixP + 1 : Nat) : Int))).code

/-! ## Comparison, minimum and maximum -/

/-- The order of two numbers; none when either is a NaN. −0 equals +0. -/
def cmpV (x y : FV) : Option Ordering :=
  match x, y with
  | .nan _, _ => none
  | _, .nan _ => none
  | .inf a, .inf b => some (if a = b then .eq else if a then .lt else .gt)
  | .inf a, .fin _ _ _ => some (if a then .lt else .gt)
  | .fin _ _ _, .inf b => some (if b then .gt else .lt)
  | .fin a m e, .fin b n g =>
    let q := min e g
    some (compare (atExp a m e q) (atExp b n g q))

/-- The sign of a number, for ordering −0 below +0. -/
def FV.negative : FV → Bool
  | .nan _ => false
  | .inf n => n
  | .fin n _ _ => n

/-- minimumNumber and maximumNumber (R122), on codes: the result is never rounded. -/
def minMaxF (f : Fmt) (fz : Bool) (isMax : Bool) (a b : Nat) : FRes :=
  let x := decodeFZ f fz a
  let y := decodeFZ f fz b
  let fl := sigFlag x ||| sigFlag y
  let pickV (v : FV) : FRes := encodeF f rcRNE v fl
  match x, y with
  | .nan _, .nan _ => ⟨f.nanCode, fl⟩
  | .nan _, _ => pickV y
  | _, .nan _ => pickV x
  | _, _ =>
    let xBelow := match cmpV x y with
      | some .lt => true
      | some .gt => false
      | _ => x.negative && !y.negative
    if xBelow then pickV (if isMax then y else x) else pickV (if isMax then x else y)

/-- A floating-point condition (R85) on two values. -/
def fcondV (c : FCond) (x y : FV) : Bool :=
  match cmpV x y with
  | none => c = .ne || c = .un
  | some o =>
    match c with
    | .eq => o = .eq
    | .ne => o ≠ .eq
    | .lt => o = .lt
    | .ge => o ≠ .lt
    | .le => o ≠ .gt
    | .gt => o = .gt
    | .un => false
    | .ord => true

/-- The flags of a comparison (R123). -/
def fcmpFlags (c : FCond) (x y : FV) : Nat :=
  let n := x.isNan || y.isNan
  let q := (c = .lt || c = .ge || c = .le || c = .gt) && n
  (if q then flagNV else 0) ||| sigFlag x ||| sigFlag y

/-! ## Binary operations on codes -/

def addF (f : Fmt) (c : RCtl) (a b : Nat) : FRes :=
  let (v, fl) := addV (c.mode = 2) (decodeFZ f c.fz a) (decodeFZ f c.fz b)
  encodeF f c v fl

def subF (f : Fmt) (c : RCtl) (a b : Nat) : FRes :=
  let (v, fl) := addV (c.mode = 2) (decodeFZ f c.fz a) (decodeFZ f c.fz b).negate
  encodeF f c v fl

def mulF (f : Fmt) (c : RCtl) (a b : Nat) : FRes :=
  let (v, fl) := mulV (decodeFZ f c.fz a) (decodeFZ f c.fz b)
  encodeF f c v fl

def fmaF (f : Fmt) (c : RCtl) (a b d : Nat) : FRes :=
  let (v, fl) := fmaV (c.mode = 2) (decodeFZ f c.fz a) (decodeFZ f c.fz b) (decodeFZ f c.fz d)
  encodeF f c v fl

/-! ## Types of FCVT, VCVT, QNT and DQNT (R124) and conversions (R56) -/

/-- The sixteen conversion types. -/
inductive CTy where
  | flt (f : Fmt)
  | e3m5
  | int (signed : Bool) (w : Nat)
  deriving DecidableEq, Repr

def ctyOf (code : Nat) : CTy :=
  match code with
  | 0 => .flt fmt64
  | 1 => .flt fmt32
  | 2 => .flt fmt16
  | 3 => .flt fmtBf
  | 4 => .flt fmtE4
  | 5 => .flt fmtE5
  | 6 => .flt fmtF4
  | 7 => .e3m5
  | 8 => .int true 64
  | 9 => .int true 32
  | 10 => .int true 16
  | 11 => .int true 8
  | 12 => .int false 64
  | 13 => .int false 32
  | 14 => .int false 16
  | _ => .int false 8

def CTy.width : CTy → Nat
  | .flt f => f.width
  | .e3m5 => 8
  | .int _ w => w

def CTy.isInt : CTy → Bool
  | .int _ _ => true
  | _ => false

/-- The integer that the low w bits of a code hold. -/
def intOf (signed : Bool) (w code : Nat) : Int :=
  let k := code % 2 ^ w
  if signed && decide (2 ^ (w - 1) ≤ k) then (k : Int) - ((2 ^ w : Nat) : Int) else k

/-- The low w bits of an integer. -/
def wrapInt (w : Nat) (x : Int) : Nat := (x % ((2 ^ w : Nat) : Int)).toNat

def intMin (signed : Bool) (w : Nat) : Int := if signed then -((2 ^ (w - 1) : Nat) : Int) else 0
def intMax (signed : Bool) (w : Nat) : Int :=
  if signed then ((2 ^ (w - 1) : Nat) : Int) - 1 else ((2 ^ w : Nat) : Int) - 1

/-- Clamp to the range of a type (R129). -/
def satInt (signed : Bool) (w : Nat) (x : Int) : Nat :=
  wrapInt w (max (intMin signed w) (min (intMax signed w) x))

/-- Round an exact value to an integer type (R56). (DEDUCED: log 29.) -/
def toIntV (c : RCtl) (signed : Bool) (w : Nat) (v : FV) : FRes :=
  match v with
  | .nan _ => ⟨0, flagNV⟩
  | .inf neg => ⟨wrapInt w (if neg then intMin signed w else intMax signed w), flagNV⟩
  | .fin neg m e =>
    if decide (m ≠ 0) && decide (128 ≤ floorLog (max m 1) 1 e) then
      ⟨wrapInt w (if neg then intMin signed w else intMax signed w), flagNV⟩
    else
      let (k, r, d) := scaleDiv m 1 e 0
      let k' := if roundUp c neg k r d then k + 1 else k
      let x : Int := if neg then -(k' : Int) else k'
      if x < intMin signed w then ⟨wrapInt w (intMin signed w), flagNV⟩
      else if intMax signed w < x then ⟨wrapInt w (intMax signed w), flagNV⟩
      else ⟨wrapInt w x, if r = 0 then 0 else flagNX⟩

/-- The exact value of a code of a type. -/
def valueOf (t : CTy) (fz : Bool) (code : Nat) : FV :=
  match t with
  | .flt f => decodeFZ f fz (code % 2 ^ f.width)
  | .e3m5 => decodeE3 (code % 256)
  | .int sg w => let x := intOf sg w code; .fin (x < 0) x.natAbs 0

/-- One conversion (R56, R39): the code at the destination's width, and flags. A destination of type e3m5 is refused by the decoder. (DEDUCED: log 29.) -/
def convertC (c : RCtl) (dst src : CTy) (code : Nat) : FRes :=
  match dst, src with
  | .int _ w, .int sg ws => ⟨wrapInt w (intOf sg ws code), 0⟩
  | .int sg w, s => toIntV c sg w (valueOf s c.fz code)
  | .flt f, s =>
    let v := valueOf s c.fz code
    encodeF f c v (sigFlag v)
  | .e3m5, _ => ⟨0, 0⟩

/-- An inline literal as an operand of a type (R71): an integer sign-extended, a floating-point operand converted exactly. (DESIGN CHOICE: log 15.) -/
def litAs (t : CTy) (n : Int) : Nat :=
  match t with
  | .flt f =>
    let r := encodeF f rcRNE (.fin (n < 0) n.natAbs 0) 0
    if r.flags = 0 then r.code else Config.inexactLiteral f.width n % 2 ^ f.width
  | .e3m5 =>
    if n = 0 then 0
    else if n < 0 then Config.inexactLiteral 0 n % 256
    else (n.toNat.log2 + 3) * 32 + (n.toNat * 32 / 2 ^ n.toNat.log2 - 32)
  | .int _ w => wrapInt w n

end Sys2Proof.Machine
end

