-- ==== Sys2Proof/Machine/State.lean ====
section
/-! DEFINITION. The state of the module as plain data, one fabric partition of devices wide. Objects that exist once per core, cluster,
die, device or context stand in sparse maps (an unlisted key holds the object's reset value). Keys: a hardware partition is flat core
number * 4 + (0 A, 1 B, 2 C, 3 D); a cluster is ordinal * 64 + die * 16 + cluster; a die is ordinal * 4 + die; a device its ordinal. -/

namespace Sys2Proof.Machine

/-- A sparse map: pairs with rising keys. -/
abbrev Map (α : Type) := List (Nat × α)

/-- The value at a key. -/
def mfind {α : Type} : Map α → Nat → Option α
  | [], _ => none
  | (a, v) :: m, k => if a = k then some v else if k < a then none else mfind m k

/-- Set the value at a key. -/
def mset {α : Type} : Map α → Nat → α → Map α
  | [], k, v => [(k, v)]
  | (a, w) :: m, k, v => if a = k then (k, v) :: m else if k < a then (k, v) :: (a, w) :: m else (a, w) :: mset m k v

/-- Remove a key. -/
def mdel {α : Type} : Map α → Nat → Map α
  | [], _ => []
  | (a, w) :: m, k => if a = k then m else (a, w) :: mdel m k

/-- Why the machine stops with a fault: there is no such reason, so the type has no constructor. Every error the spec names is a trap, a
status, a record or a message of the machine itself, and the machine goes on (SAFE: nothing raises a fault). -/
inductive Fault
  deriving DecidableEq, Repr

/-- Why the machine gives no meaning. -/
inductive Refusal where
  /-- Raised by an arm of the dispatch that has no meaning yet. SAFE: the machine stops. -/
  | notModelled (mnemonic : String)
  deriving DecidableEq, Repr

/-! ## Registers of one hardware partition -/

/-- A register that the scoreboard follows (R81). -/
inductive Reg where
  | s (i : Fin 64)
  | v (i : Fin 64)
  | p (i : Fin 8)
  deriving DecidableEq, Repr, Inhabited

/-- A fixed-latency writer still known to the scoreboard (R81, R82): its distance so far, its latency and the value the register held before it. -/
structure SbEntry where
  reg : Reg
  age : Nat
  lat : Nat
  old : VReg
  deriving DecidableEq, Repr

/-- A fetched code line (R100): `none` is a line that could not be read, whose fault arises when control reaches it. -/
structure FLine where
  addr : W64
  data : Option (BitVec 512)
  deriving DecidableEq, Repr

/-- The fetch state of R101. -/
inductive FMode where
  | free | leading | joining | following
  deriving DecidableEq, Repr

/-- An instruction in a Twill buffer (R103): the cc that still pass before its earliest issue, its address, its link value, the leader's address
after it, and the instruction. (DEDUCED: log 172.) -/
structure Fwd where
  ripe  : Nat
  addr  : W64
  link  : W64
  after : W64
  ins   : Instr
  deriving DecidableEq, Repr

/-- What a partition sleeps on (R97): nothing, or a wait that another agent's step ends. The waiting instruction stands at PC; when it
is woken it runs again and completes with what `woken` holds. -/
inductive Sleep where
  | awake
  /-- ALIGN at an address for a set of positions (R112). -/
  | align (addr : W64) (mask : Nat)
  /-- EVWAIT in the wait list of a named event, with its timeout in ac (0 none) and the TIME at which it began (R244, R264). -/
  | event (cl : Nat) (ctx : Nat) (name : Nat) (limit : Nat) (began : W64)
  /-- BARWAIT on a phase of the barrier of a level and index that stands at a cluster, die or module (R249). -/
  | barrier (home : Nat) (level : Nat) (index : Nat)
  /-- WFE with its timeout in ac (0 none) and the TIME at which it began (R255, R267). -/
  | wfe (limit : Nat) (began : W64)
  /-- POP waiting at an empty work queue, PUSHW with its item waiting at a full one (R307, R308). -/
  | pop (q : Nat)
  | push (q : Nat) (item : W64)
  /-- TEND ended the task: the part waits for the next dispatch; with .nb it ends where nothing is dispatchable (R448). -/
  | task (nb : Bool)
  /-- TSEND waits until its message has been accepted or bounced (R447). -/
  | tsend
  /-- The unit has ended or is cancelled: what it pushed completes before the partition is free (R110, R278). -/
  | ending
  /-- CANCEL waits until the units of the launches it cancelled have stopped: the old word and the launches (R290). -/
  | cancel (old : W64) (ids : List Nat)
  /-- Woken: how (1 done, 0 the timeout passed, 2 the queue closed), and the value delivered. -/
  | woken (how : Nat) (v : W64)
  deriving DecidableEq, Repr

/-- The states of a part (R146); `free` is a partition that holds no context. -/
inductive PState where
  | free | created | resident | preempted | spilled | halted | checkpointing | evicting | destroyed
  deriving DecidableEq, Repr

/-- The states of a stream (R229). -/
inductive StreamState where
  | unbound | filling | ready | exhausted | faulted
  deriving DecidableEq, Repr

/-- The fault a stream's engine met (R235): its vector, stream element, byte address, trap code, reason, access kind and record address. -/
structure StreamFault where
  vec  : Nat
  elem : Nat
  addr : W64
  code : Nat
  reason : Nat
  acc  : Nat
  record : W64
  deriving DecidableEq, Repr

/-- A vector in a stream's buffer (R229): its vector index, its value, and the index vectors that its elements were read by (R238). -/
structure Slot where
  idx : Nat
  v   : VReg
  ix  : List VReg
  deriving DecidableEq, Repr

/-- One of v56 to v63 as a stream (R226 to R238). `slots` are the arrived vectors from POS on (read) or the pushed vectors not yet written
(write); `eng` is the next vector a read stream fetches and `elem` the element a write stream's engine stands at. An indexed stream names its
index stream, the index vectors it has gathered for its next vector, and the index vector it began at. `scope` is its scope of R187. -/
structure Stream where
  state  : StreamState
  write  : Bool
  base   : W64
  elw    : Nat
  counts : List Nat
  strides : List Int
  n      : Nat
  pos    : Nat
  eng    : Nat
  elem   : Nat
  slots  : List Slot
  index  : Option (Fin 8)
  ixs    : List VReg
  ibase  : Nat
  captured : Bool
  scope  : Nat
  bindPc : W64
  fault  : Option StreamFault
  lastReason : Nat
  /-- The elements of its next vector that a read stream has read before one that faulted; its pin was held too long and is broken (R224). -/
  got    : List Nat
  broken : Bool
  deriving DecidableEq, Repr

/-- DESIGN CHOICE: log 3, 7, 10, 11. -/
def Stream.reset : Stream :=
  { state := .unbound, write := false, base := 0, elw := 0, counts := [], strides := [], n := 0, pos := 0, eng := 0, elem := 0, slots := [],
    index := none, ixs := [], ibase := 0, captured := false, scope := 0, bindPc := 0, fault := none, lastReason := 0, got := [], broken := false }

/-- A stash mapping (R239, R240): the global base, the scratchpad offset in the core's slice, the size and the lines held (true: dirty). -/
structure Stash where
  g    : W64
  p    : Nat
  size : Nat
  lines : Map Bool
  deriving DecidableEq, Repr

/-- A Damask counter (R258, R268). -/
structure DCtr where
  input  : Nat
  en     : Bool
  thresh : Nat
  count  : Nat
  pend   : Nat
  deriving DecidableEq, Repr

def DCtr.reset : DCtr := ⟨0, false, 0, 0, 0⟩

/-- A Damask term (R258, R268). -/
structure DTerm where
  maskA  : BitVec 16
  maskB  : BitVec 16
  target : Nat
  arg    : BitVec 16
  en     : Bool
  deriving DecidableEq, Repr

def DTerm.reset : DTerm := ⟨0, 0, 0, 0, false⟩

/-- A part's Damask programme, the credits kept at its seven start inputs (R259), the terms that have fired and whose targets have not acted yet, by the cc of their
evaluation, oldest first, and the step and inputs of the pulses that the counters have taken and no term has seen (R260). -/
structure Damask where
  ctrs    : Vector DCtr 16
  terms   : Vector DTerm 8
  period  : W32
  credits : Vector Nat 8
  xovf    : Bool
  fired   : List (List (Fin 8 × DTerm))
  fresh   : Option (Nat × List Nat)
  deriving DecidableEq, Repr

def Damask.reset : Damask := ⟨Vector.replicate 16 .reset, Vector.replicate 8 .reset, 0, Vector.replicate 8 0, false, [], none⟩

/-! ## Messages (R348 to R356) -/

/-- Who waits for the acceptance of a task message (R447): nobody, the TSEND of its partition, a TASKSEED packet of a host queue by device,
queue and packet number. -/
inductive Sender where
  | nobody
  | tsend
  | packet (dev q id : Nat)
  deriving DecidableEq, Repr

/-- A message with its envelope (R348 to R351): `task` says that it carries a key, `parent` names the uncommitted task that sent it. -/
structure Msg where
  dest  : Nat
  tag   : Half
  cls   : Fin 4
  rp    : Bool
  bnc   : Bool
  status : Nat
  handler : W64
  args  : List W64
  key   : BitVec 128
  src   : Nat
  srcPart : Fin 4
  ctx   : Nat
  task  : Bool
  parent : Option Nat
  sender : Sender
  /-- Its number in its end-to-end stream, where it goes to another module (R483). -/
  num : Option W32 := none
  /-- Whether the task that it carried had been returned to PENDING as held (R436). -/
  held : Bool := false
  deriving DecidableEq, Repr

/-- A slot of a reply table (R362): its tag, and the reply that arrived: status, words 0 and 1, and the reason of byte 32; with the flat core
that the message went to, for the scope of R353. -/
structure RSlot where
  tag : Half
  dest : Nat
  reply : Option (Nat × W64 × W64 × Nat)
  deriving DecidableEq, Repr

/-! ## Matrix units (R312 to R336) -/

/-- A weight plane (R312, R314): its tag (0 empty), whether an MLOAD fills it, whether it has block scales, and its image of R315. -/
structure Plane where
  tag : Nat
  loading : Bool
  bs : Bool
  image : List Byte
  deriving DecidableEq, Repr

def Plane.reset : Plane := ⟨0, false, false, []⟩

/-- The states of a matrix operation (R322). QUEUED and AWAITING_WEIGHTS differ only in whether a plane holds the next tag; a RETIRED
operation is gone. -/
inductive MState where
  | queued | streaming | overtaken | draining
  deriving DecidableEq, Repr

/-- The commands of a command queue (R312); MDRAIN stands at its partition's issue until the queue before it is empty. -/
inductive MCmd where
  | op | zero | swap | drain
  deriving DecidableEq, Repr

/-- An entry of a command queue: a matrix operation with its operands as read at issue (R319, R320, R335), or MZERO, MSWAP or MDRAIN. `next` is the
k-step that streams or comes next; `since` is the TIME at which a candidate became one (R325); a pin held too long is broken (R224). -/
structure MOp where
  cmd : MCmd
  id : Nat
  pc : W64
  acc : Bool
  pair : MPair
  sparse : Bool
  base : W64
  stride : Nat
  ks : Nat
  rows : Nat
  tag : Nat
  next : Nat
  bands : W32
  mode : Nat
  fz : Bool
  masks : List Nat
  held : Bool
  state : MState
  since : Option W64
  broken : Bool
  deriving DecidableEq, Repr

/-- The sums of one row of a k-step on their way into a tile: 128 exact values with the flags that their terms raised. -/
structure MAdd where
  id : Nat
  kstep : Nat
  row : Nat
  mode : Nat
  fz : Bool
  sums : List (FV × Nat)
  deriving DecidableEq, Repr

/-- An accumulator tile (R312, R329): its nonzero elements by row * 128 + column, its flags, the operations retired into it, and the row sums
not yet in it. -/
structure MTile where
  vals : Map Nat
  flags : Nat
  retired : Nat
  adds : List MAdd
  deriving DecidableEq, Repr

def MTile.reset : MTile := ⟨[], 0, 0, []⟩

/-- An untaken record of KIND 0x08 (R324): its tile (none: an MLOAD's), trap code, reason and address. -/
structure MRec where
  tile : Option Bool
  code : Nat
  reason : Nat
  slot : W64
  deriving DecidableEq, Repr

/-- The matrix resources of one core (R312, R313): the partition that holds the claim, priority, weight, command queue (head first), tiles and
untaken records. -/
structure MCore where
  holder : Option Nat
  prio : Nat
  weight : Nat
  queue : List MOp
  acc0 : MTile
  acc1 : MTile
  recs : List MRec
  deriving DecidableEq, Repr

def MCore.reset : MCore := ⟨none, 0, 1, [], .reset, .reset, []⟩

/-- An MLOAD in a load queue. -/
structure MLoad where
  flat : Nat
  k : Nat
  ctx : Nat
  pc : W64
  addr : W64
  tag : Nat
  bs : Bool
  broken : Bool
  deriving DecidableEq, Repr

/-- One matrix unit: its planes, the load queues together in order of age, the MLOAD that fills the shadow plane, the round-robin pointer with
its grants so far (R326), the DRAINING operations by their cores in order, the count of operations so far, remapped columns (R27), whether rows may still be in the array, and the
position and operation granted whose swap waits for them (R317). -/
structure MUnit where
  active : Plane
  shadow : Plane
  loads : List MLoad
  current : Option MLoad
  ptr : Nat
  used : Nat
  drain : List (Nat × MOp)
  seq : Nat
  remaps : Nat
  inArray : Bool
  pend : Option (Nat × Nat)
  deriving DecidableEq, Repr

def MUnit.reset : MUnit := ⟨.reset, .reset, [], none, 0, 0, [], 0, 0, false, none⟩

/-- A record whose deferred trap a later FENCE raises (R193, R514): the store's partition and scope, the trap code, the record's address (0
when the ring was full), and whether it comes from a multicast or reducing store (which FENCE.acq raises too). -/
structure Deferred where
  mcast : Bool
  scope : Nat
  code  : Nat
  reason : Nat
  record : W64
  deriving DecidableEq, Repr

/-! ## The mailbox (R365) -/

/-- One mailbox entry (R365): the context, the scope of the copy that posted a clip box (0 for a message), and the 64 bytes. -/
structure MbEnt where
  ctx  : Nat
  scope : Nat
  data : BitVec 512
  deriving DecidableEq, Repr

/-! ## Copies, the holding buffer and transfers (R370 to R391) -/

/-- What a copy request does: a tile copy, a multicast fill, a fill of a holding-buffer slot. -/
inductive CKind where
  | copy | fill | park
  deriving DecidableEq, Repr

/-- The states of a copy request that is not DONE (R376): `acking` is a RUNNING copy whose writes are performed and whose COPYACK is on its way
(R373). -/
inductive CState where
  | held | queued | running | acking
  deriving DecidableEq, Repr

/-- A copy request (R371, R378, R379) with the code address of its instruction and its scope of R187. `w` and `h` are the window of a clipped
copy; `len`, `mask` and `slot` are those of a fill. `ack` counts the initial elements (lines of a fill) written, `home` is that of the last write, and `broken` says that a pin was broken (R224): ACC of the record. -/
structure CReq where
  id : Nat
  pc : W64
  kind : CKind
  st : CState
  src : W64
  dst : W64
  ew : Nat
  rows : Nat
  cols : Nat
  x0 : Int
  y0 : Int
  w : Nat
  h : Nat
  sstride : Nat
  dstride : Nat
  clip : Bool
  len : Nat
  mask : Nat
  slot : Nat
  scope : Nat
  ack : Nat
  home : Option Nat
  broken : Option Nat
  deriving DecidableEq, Repr

/-- An untaken record of KIND 0x0A or 0x0B (R374, R389): the ID it belongs to, trap code, reason, access kind and address. -/
structure CRec where
  id : Nat
  code : Nat
  reason : Nat
  acc : Nat
  slot : W64
  deriving DecidableEq, Repr

/-- A copy channel (R370): CPY_NEXT, the requests not DONE in order, the untaken records and the widest scope of the copies DONE so far. -/
structure Chan where
  next : Nat
  reqs : List CReq
  recs : List CRec
  scope : Nat
  deriving DecidableEq, Repr

def Chan.reset : Chan := ⟨1, [], [], 0⟩

/-- The states of a transfer (R391); `held` waits for its Damask start pulse, and a REQUESTED one is announced or on its way to be. -/
inductive XState where
  | held | requested | prefixed | granted | sending | expired | orphaned | complete | cancelled
  deriving DecidableEq, Repr

/-- What is on its way from Tabla to a sender (R387 to R389, R391), in order: a token, an expiry notice, a reclaim notice, the news that the
receiving part is gone. Tabla numbers the tokens of an entry; a token covers the bytes from those acknowledged up to an offset. -/
inductive XNote where
  | token (id upto : Nat)
  | expiry (id : Nat)
  | reclaimed
  | gone
  deriving DecidableEq, Repr

/-- An entry of a request table (R384): the sender's side of a transfer. `ack` counts the initial bytes written, `tok` the bytes of the held
token that are not sent and `tokId` its number, `owes` says that a re-request is deferred (R387, R388), `broken` that a pin was broken: ACC of the
record, 0 at the source, 3 at the destination. -/
structure Xfer where
  id : Nat
  pc : W64
  dest : Nat
  src : W64
  dst : W64
  len : Nat
  sig : Option Nat
  st : XState
  announced : Bool
  ack : Nat
  tok : Nat
  tokId : Nat
  notes : List XNote
  owes : Bool
  broken : Option Nat
  deriving DecidableEq, Repr

/-- A request in a die's Tabla (R386 to R388), oldest first: its sender's core, context and ID, its DEST and length, whether its prefix has arrived,
its token (number, when it was issued, and whether its first byte has arrived), the tokens issued to it, the FTIME from which it counts as eligible and
ungranted, and when it was last heard of. -/
structure TEnt where
  src : Nat
  ctx : Nat
  id : Nat
  dest : Nat
  len : Nat
  ack : Nat
  prefixed : Bool
  token : Option (Nat × Nat × Bool)
  issued : Nat
  since : Nat
  heard : Nat
  deriving DecidableEq, Repr

/-- A holding-buffer slot that is not FREE (R379, R380): PARKED or FILLING, whether the fill failed, its owner's core and context, its receiver mask
and its bytes. -/
structure HbSlot where
  parked : Bool
  failed : Bool
  flat : Nat
  ctx : Nat
  mask : Nat
  scope : Nat
  data : List Byte
  deriving DecidableEq, Repr

/-! ## Counters (R276, R499) -/

/-- A counter add on its way to its home (R276, R277, R515): the context and core that it comes from, the block, the counters from the one it adds to
upwards, the count, and the launch whose LCNT it adds to. -/
structure CAdd where
  ctx : Nat
  flat : Nat
  blk : W64
  ctrs : List W64
  n : Nat
  launch : Option Nat
  deriving DecidableEq, Repr

/-- A performance counter (R499). -/
structure PerfCtr where
  event : Nat
  en : Bool
  count : BitVec 48
  deriving DecidableEq, Repr

def PerfCtr.reset : PerfCtr := ⟨0, false, 0⟩

/-- One hardware partition with the part it holds (R90, R144). -/
structure Part where
  -- R90: registers
  s  : Vector W64 64
  v  : Vector VReg 64
  p  : Vector W64 8
  pc : W64
  /-- next(PC) of R107 for the instruction at PC, found when it was fetched. -/
  npc : W64
  cbank : Vector W64 64
  sb : List SbEntry
  -- R79, R97, R98, R100
  stall : Nat
  waitCount : Nat
  /-- The wait count at the first of the tries at which the next instruction has waited, and whether that is a store's wait for room (R98, R499). -/
  heldCount : Nat
  storeWait : Bool
  lastIssue : Nat
  /-- The epoch at which the next instruction was last found waiting (R97). -/
  blocked : Option Nat
  sleep : Sleep
  fbuf : List FLine
  freq : List (W64 × Nat)
  -- R95, R101, R103
  fmode  : FMode
  leader : Fin 16
  fmask  : BitVec 16
  joinAt : W64
  twill  : List Fwd
  fwdNow : Option Fwd
  -- R93
  unitIdx : W32
  unitCnt : W32
  launchPtr : W64
  cbankPtr  : W64
  -- R48 to R53
  fpctl    : BitVec 4
  fpflags  : BitVec 5
  stallchk : Bool
  srseed   : W64
  srctr    : W64
  -- R162
  tcCode   : Byte
  tcClass  : BitVec 2
  tcDbl    : Bool
  tcCode2  : Byte
  trappc   : W64
  trapval  : W64
  trapvec  : W64
  upcallVec  : W64
  upcallInfo : BitVec 11
  chkptVec : W64
  fibframe : W64
  inTrap : Bool
  inUp   : Bool
  inChk  : Bool
  upcallAddr : W64
  -- R216
  faultinfo : BitVec 11
  -- R144 to R146
  st   : PState
  prev : PState
  ctx  : Nat
  quiesce : Option (Fin 2)
  /-- How many asynchronous MCHECKs wait for the next boundary (R152), where each writes its record (R514). -/
  asyncMcheck : Nat
  /-- The destination of the CHKPT that halted the part (R167). -/
  chkDst : Dst
  -- R255, R257
  latch  : Bool
  /-- The widest scope of the SEVs that set the latch (R267). -/
  latchScope : Nat
  damask : Damask
  -- R229, R239
  streams : Vector Stream 8
  stash : List Stash
  /-- Deferred records in the order they were written (R193). -/
  deferred : List Deferred
  /-- Launch priority of the running unit (R98, R270). -/
  prio : Fin 4
  /-- Matrix state kept in the spill frame (R150, R313). -/
  msaved : Option MCore
  /-- The stream that an MMULS at issue draws masks from, as it stood at its issue, and the vectors drawn so far (R335). -/
  mdraw : Option (Fin 8 × Stream × List VReg)
  /-- Whether firmware has commanded a spill that is not done (R146), and FTIME at the entry of the latest CHECKPOINT (R160). -/
  spillDue : Bool
  /-- A spill accepted while the part is CHECKPOINTING, deferred until CHKPT (R146). -/
  spillLater : Bool
  chkAt : Nat
  /-- The holding-buffer slot that an MCDRAIN waits for, and whether its owner's context has been destroyed meanwhile (R380). -/
  hbWait : Option (Nat × Bool)
  /-- The reply table (R362). -/
  replies : List RSlot
  /-- The copy channels (R370). -/
  chans : Vector Chan 4
  /-- RP_NEXT, the request table, its untaken records and RXPRI (R383, R384). -/
  rpNext : Nat
  xfers : List Xfer
  rpRecs : List CRec
  rxpri : Nat
  /-- Mailbox entries kept in the spill frame (R365). -/
  mbox : List MbEnt
  /-- The launch that the unit belongs to. -/
  launch : Option Nat
  /-- DBGCTL, BPADDR0 to 3, TRCRING, TRCIDX and the performance counters (R496 to R499). -/
  bkm : Fin 4
  step : Bool
  pass : Bool
  tren : Bool
  bpen : BitVec 4
  bpaddr : Vector W64 4
  trcBase : W64
  trcLog : Nat
  trcIdx : W64
  perf : Vector PerfCtr 8
  /-- CHKPT has been issued, or firmware has captured the part, in this checkpoint (R159, R160). -/
  chkDone : Bool
  /-- The state that the part held when its eviction began (R146). -/
  kept : PState
  /-- MLOADs kept in the spill frame with the matrix state (R150). -/
  lsaved : List MLoad
  /-- The ordinal that the part brought with it from an evicted module, under whose ranks its collectives are (R472). -/
  under : Option Nat
  deriving DecidableEq, Repr

/-- A partition after reset: every register zero (p0 reads all ones by its accessor), STALLCHK.EN 1 (R52), no context. -/
def Part.reset : Part :=
  { chkDone := false, kept := .free, lsaved := [], under := none, bkm := 0, step := false, pass := false, tren := false, bpen := 0, bpaddr := Vector.replicate 4 0, trcBase := 0, trcLog := 0, trcIdx := 0, perf := Vector.replicate 8 .reset, chans := Vector.replicate 4 .reset, rpNext := 1, xfers := [], rpRecs := [], rxpri := 0, mbox := [], launch := none, replies := [], msaved := none, mdraw := none, spillDue := false, spillLater := false, chkAt := 0, hbWait := none, prio := 0, s := Vector.replicate 64 0, v := Vector.replicate 64 0, p := Vector.replicate 8 0, pc := 0, npc := 0,
    cbank := Vector.replicate 64 0, sb := [], stall := 0, waitCount := 0, heldCount := 0, storeWait := false, lastIssue := 0, blocked := none, sleep := .awake,
    fbuf := [], freq := [],
    fmode := .free, leader := 0, fmask := 0, joinAt := 0, twill := [], fwdNow := none,
    unitIdx := 0, unitCnt := 0, launchPtr := 0, cbankPtr := 0,
    fpctl := 0, fpflags := 0, stallchk := true, srseed := 0, srctr := 0,
    tcCode := 0, tcClass := 0, tcDbl := false, tcCode2 := 0, trappc := 0, trapval := 0, trapvec := 0, upcallVec := 0,
    upcallInfo := 0, chkptVec := 0, fibframe := 0, inTrap := false, inUp := false, inChk := false, upcallAddr := 0, faultinfo := 0,
    st := .free, prev := .free, ctx := 0, quiesce := none, asyncMcheck := 0, chkDst := .none,
    latch := false, latchScope := 0, damask := .reset, streams := Vector.replicate 8 .reset, stash := [], deferred := []
  }

/-! ## Memory -/

/-- A store in a core's store buffer (R177): its partition and context, its address in code, its address, its bytes by address in the order written,
those that are neither performed nor dropped, whether its record of KIND 0x0D is written (R193), and whether its accesses are performed in the order of its
bytes (VSCAT, R199). -/
structure StoreEnt where
  k   : Nat
  ctx : Nat
  pc  : W64
  addr : W64
  bytes : List (W64 × Byte)
  left : List (W64 × Byte)
  told : Bool
  ordered : Bool
  deriving DecidableEq, Repr

/-- A PLB entry (R210). -/
structure PlbEnt where
  dom  : Half
  base : W64
  log2 : Nat
  r : Bool
  w : Bool
  x : Bool
  a : Bool
  m : Bool
  replica : Bool
  deriving DecidableEq, Repr

/-- A translation leaf (R214): tier, port, physical address, REPL, CW, and the size of its page. -/
structure Leaf where
  tier : Nat
  port : Nat
  addr : Nat
  repl : Bool
  cw   : Bool
  log2 : Nat
  deriving DecidableEq, Repr

/-- A leaf in a home translation unit's cache (R214): the page's base and its leaf. -/
structure CachedLeaf where
  base : W64
  leaf : Leaf
  deriving DecidableEq, Repr

/-- A multicast or reducing store whose destinations are on their way (R192, R193): what is left of it and the denials so far. -/
structure McStore where
  k    : Nat
  ctx  : Nat
  pc   : W64
  red  : Bool
  scope : Nat
  typ  : Nat
  data : List Byte
  mask : Nat
  todo : List (Nat × W64)
  deny : Nat
  reasons : List (Nat × Nat)
  deriving DecidableEq, Repr

/-- The states of a page (R204). -/
inductive PageState where
  | absent | resident | migrating | replicated
  deriving DecidableEq, Repr

/-- A page's directory entry (R205, R213, R220, R223 to R225); its pins are the engine commands that run over it. `home` and `newHome` are flat core numbers of home slices. -/
structure Page where
  base  : W64
  log2  : Nat
  dev   : Nat
  state : PageState
  home  : Nat
  total : Nat
  quad  : List Nat
  /-- Migration: the target leaf and home, or the replica leaves being filled; whether an unmap waits for its end. -/
  newLeaf : W64
  newHome : Nat
  filling : Bool
  replicas : List W64
  unmapDue : Bool
  lost  : List W64
  /-- The halvings in a row that found TOTAL 0 (R221). -/
  idle  : Nat
  deriving DecidableEq, Repr

/-- A guest copy in a die's L2 (R171, R184): the die, the line, its bytes, and which of them its die has stored. -/
structure Guest where
  dk    : Nat
  line  : W64
  data  : BitVec 512
  dirty : BitVec 64
  deriving DecidableEq, Repr

/-! ## Launches (R269 to R279) -/

/-- The states of a launch record (R270). A record that is COMPLETE is freed; SUBMITTED lies within its acceptance. -/
inductive LState where
  | waking | running | draining | cancelled
  deriving DecidableEq, Repr

/-- What a launch's fetches read (R68): memory, guest copies, pages and the leaves that home translation units kept, as they stood when it was issued. -/
structure Image where
  mem : List Host.Cell
  guests : List Guest
  pages : List Page
  leaves : List (Nat × List CachedLeaf)
  deriving DecidableEq, Repr

/-- A launch record (R269): its number in the order of acceptance, its context, the core whose command processor holds it, the launch that issued it,
the block's address and fields, the launch scope, the constant bank's image, the cores of its units in order, the units that have started, the count of
exits, the count of their adds performed, and by device the ratio requests of CLKREQ. `queue` names the device, queue and packet of a host launch. `image` is what
its fetches find, and `own` the lines, by device and address, that its units have stored to since, which they may find as well (R68). -/
structure Launch where
  id : Nat
  ctx : Nat
  flat : Nat
  parent : Option Nat
  queue : Option (Nat × Nat × Nat)
  st : LState
  blk : W64
  code : W64
  cbank : W64
  first : Nat
  ncore : Nat
  prio : Nat
  flags : Byte
  event : Nat
  lcnt : W64
  gcnt : W64
  pcnt : W64
  jcnt : W64
  ratio : W64
  notify : W64
  scope : Nat
  bank : List Byte
  units : List Nat
  started : List Nat
  exits : Nat
  added : Nat
  asks : Map W64
  image : Image := ⟨[], [], [], []⟩
  own : List Nat := []
  deriving DecidableEq, Repr

/-! ## Named events, barriers, watches (R243 to R253) -/

/-- A named event with its wait list in order of arrival (R243, R244): the core of the waiting part of the context, and whether it consumes.
`slot` is the index of the record of an event that is held in the overflow area (R245); `scope` is the scope of the EVSIG that set it. (DESIGN CHOICE:
log 40; DEDUCED: log 42.) -/
structure Ev where
  ctx  : Nat
  name : Nat
  set  : Bool
  scope : Nat
  wait : List (Nat × Bool)
  slot : Option Nat
  deriving DecidableEq, Repr

/-- A barrier that is OPEN. -/
structure Bar where
  owner   : Nat
  count   : Nat
  arrived : Nat
  phase   : W32
  deriving DecidableEq, Repr

/-- An armed or polled watch (R251, R252) of the part of a context on a core, or of its partition D. -/
structure Watch where
  flat : Nat
  dpart : Bool
  ctx  : Nat
  va   : W64
  size : Nat
  cond : ICond
  mask : W64
  value : W64
  polled : Bool
  /-- The table that holds it: the flat core number of the home slice, and whether it is the scratchpad slice's. -/
  home : Nat
  spad : Bool
  deriving DecidableEq, Repr

/-! ## Tasks (R422 to R443) -/

/-- What a task holds until it commits (R431): a message; a signal of a named event to a core; a SEV to cores. Each with its scope. -/
inductive HeldAct where
  | msg (m : Msg)
  | signal (src tgt name scope : Nat) (pc : W64)
  | sev (tgts : List Nat) (scope : Nat)
  deriving DecidableEq, Repr

/-- An entry of a cluster's undo journal (R412, R438): the old value of a unit leaf, of a region's clock or of its event counter. -/
inductive JEntry where
  | leaf (i old : Nat)
  | clk (g : Nat) (old : W64)
  | ec (g : Nat) (old : W64)
  deriving DecidableEq, Repr

/-- The states of a task that Tabor holds (R425). -/
inductive TState where
  | pending | running | done
  deriving DecidableEq, Repr

/-- A task (R425 to R438): its cluster, message, state, whether it is held for irrevocability, the partition that runs or ran it, its read set
(granule, and the task whose version was read), the writers it depends on, its version by device and byte address, its journal, newest entry first, what it
holds, and the checkpoint of its partition. -/
structure Task where
  id : Nat
  cl : Nat
  msg : Msg
  state : TState
  held : Bool
  k : Nat
  reads : List (Nat × Option Nat)
  deps : List Nat
  writes : Map Byte
  journal : List JEntry
  acts : List HeldAct
  chk : Option Part
  deriving DecidableEq, Repr

/-! ## Event trees (R400 to R405) -/

/-- An ACTIVE region of a Carillon unit. -/
structure TreeRegion where
  lbase : Nat
  log2n : Nat
  regid : Nat
  clk : W64
  ec : W64
  seed : W64
  table : Bool
  tbase : W64
  tcount : Nat
  tec0 : W64
  deriving DecidableEq, Repr

/-! ## Work queues (R306 to R309) -/

/-- A work queue that is assigned: OPEN, CLOSED or DRAINED. -/
inductive WqState where
  | opened | closed | drained
  deriving DecidableEq, Repr

/-- A work queue: its context, its ring, the items it holds, each with the scope of its PUSHW, their count so far, the scope of the QCLOSE, and the
parts that wait in arrival order, each by its core. -/
structure Wq where
  st    : WqState
  ctx   : Nat
  base  : W64
  log2n : Nat
  tail  : Nat
  items : List (W64 × Nat)
  endScope : Nat
  poppers : List Nat
  pushers : List (Nat × W64)
  deriving DecidableEq, Repr

/-! ## Groups and collectives (R452 to R473) -/

/-- A collective descriptor (R455). -/
structure GDesc where
  op : Nat
  red : Nat
  typ : Nat
  gidx : Bool
  count : Nat
  root : Nat
  total : Nat
  base : Nat
  src : W64
  dst : W64
  deriving DecidableEq, Repr

/-- An entry of a device's group table that is not FREE (R452, R453). -/
structure GEnt where
  ctx : Nat
  nmem : Nat
  rank : Nat
  plane : Nat
  coord : Nat
  broken : Bool
  seq : Nat
  deriving DecidableEq, Repr

/-- The states of a collective at a member (R458). -/
inductive GState where
  | posted | ticketed | admitted | complete | cancelled
  deriving DecidableEq, Repr

/-- An entry of a posted-collective table: its group and SEQ, the posting part by core and context, the code address, the descriptor, arrival-order mode,
state, ticket, reason of R473 (0 none), record address, whether the record is taken, whether a withdrawal and a fault have been sent, and
whether a pin of its engine was broken. -/
structure Coll where
  gid : Nat
  seq : Nat
  flat : Nat
  ctx : Nat
  pc : W64
  d : GDesc
  arrival : Bool
  st : GState
  ticket : Option Nat
  reason : Nat
  slot : W64
  taken : Bool
  asked : Bool
  faulted : Bool
  broken : Bool
  deriving DecidableEq, Repr

/-- What a coordinator sends to a member (R458): a ticket, a cancel notice with its reason and the device that caused it, an abandon notice with those, a
reason of R217 and an address, a mismatch. -/
inductive GNote where
  | ticket (t : Nat)
  | cancel (reason dev : Nat)
  | abandon (reason dev freason : Nat) (addr : W64)
  | mismatch
  deriving DecidableEq, Repr

/-- The coordinator's view of a collective: no ticket yet, ticketed, or withdrawn. -/
inductive GcState where
  | gathering | ticketed | withdrawn (dev : Nat)
  deriving DecidableEq, Repr

/-- A collective at its coordinator (R457, R460, R471): its posts by member device, the notices on their way to members, the withdrawals and engine
faults on their way to the coordinator, the data that members have sent by rank, and the free-counter value of its arrival order. -/
structure GColl where
  gid : Nat
  seq : Nat
  st : GcState
  posts : List (Nat × GDesc × Bool)
  notes : List (Nat × GNote)
  asks : List (Nat × Option (Nat × W64))
  data : List (Nat × List Byte)
  seed : Nat
  deriving DecidableEq, Repr

/-- A group of the partition (R452): its members in rank order, its coordinator and plane. -/
structure Grp where
  gid : Nat
  ctx : Nat
  members : List Nat
  coord : Nat
  plane : Nat
  deriving DecidableEq, Repr

/-! ## Host queues (R292 to R301) -/

/-- The states of a host queue (R296). -/
inductive QState where
  | idle | active | waiting | error | stopped
  deriving DecidableEq, Repr

/-- A packet that has started and is not complete: the model's own number of it, its index, its bytes, its STATUS so far, the launches that a CANCEL packet stops,
the bytes that a COPY packet has written, and whether a pin of it has been broken (R224). -/
structure Pkt where
  id : Nat
  idx : Nat
  bytes : List Byte
  status : Nat
  stops : List Nat
  ack : Nat
  broken : Bool
  deriving DecidableEq, Repr

/-- A host queue (R292, R293): its context (none: unassigned), connection, descriptor with the GDDR 7 address where firmware keeps it (none: at an address
that the spec does not give), state, the packets started and not complete, and the packet that is held (R296). (DESIGN CHOICE: log 186.) -/
structure HostQ where
  ctx : Option Nat
  conn : Nat
  base : W64
  log2n : Nat
  die : Nat
  rdidx : W32
  wridx : W32
  errw : W64
  st : QState
  pkts : List Pkt
  desc : Option Nat
  held : Option Pkt
  deriving DecidableEq, Repr

/-- Granted clock ratios (R285). -/
structure Clk where
  mat : Nat
  vec : Nat
  net : Nat
  mem : Nat
  deriving DecidableEq, Repr

/-! ## Links (R482 to R490) -/

/-- The states of a link (R489), in the order of the census's codes. -/
inductive LinkState where
  | down | training | up | rekeying | draining | quiesced | failed
  deriving DecidableEq, Repr

/-- A scale-up link at this module's end: its state, the state it enters after training or the drop of the old key, failed attempts of this training,
encryption, the key epochs (the current one; the old one while its frames are unacknowledged; whether the receiver still holds the old one and since when it has seen
the new one; one that waits), the next SEQ to send and to expect, the frames sent and not acknowledged with their epochs, the replays of the oldest, whether a NAK is
owed, the FTIME of the last valid frame, and the flits of partly received messages by VC; the frames sent under the current key, and the epochs whose keys have been
installed (R487). -/
structure Link where
  st : LinkState
  after : LinkState
  fails : Nat
  enc : Bool
  epoch : W32
  old : Option W32
  rxOld : Option W32
  newSeen : Option Nat
  waiting : Option W32
  txSeq : Nat
  rxSeq : Nat
  replay : List Frame
  replays : Nat
  nak : Bool
  heard : Nat
  partly : List (Fin 4 × BitVec 128)
  count : Nat
  used : List W32
  deriving DecidableEq, Repr

def Link.reset : Link := ⟨.down, .up, 0, true, 0, none, none, none, none, 0, 0, [], 0, false, 0, [], 0, [0]⟩

/-- An end-to-end stream: its plane (none where none is UP), the number of its next message, and the messages that are not acknowledged, oldest first, each with
the plane on which it was sent (18: none yet). The message itself stands in State.net until it arrives. -/
structure E2e where
  plane : Option Nat
  next : W32
  unacked : List (W32 × Nat)
  deriving DecidableEq, Repr


/-- One core's shared state. (DESIGN CHOICE: log 91.) -/
structure Core where
  sbuf  : List StoreEnt
  plb   : List PlbEnt
  hints : List (Nat × Nat)
  pres  : List Nat
  -- R98: the partition that issued last among A to C, its run, whether it may continue, and the issues of D in a row
  last  : Nat
  run   : Nat
  cont  : Bool
  yielded : Option Nat
  dRun  : Nat
  mcast : List McStore
  mailbox : List MbEnt
  dq    : List Msg
  dmsg  : Option Msg
  /-- The FTIME at which partition D's handler started (R361). -/
  dStart : Nat
  mat : MCore
  /-- The open run of the issue log: the partition chosen last, 4 for none, and its cc (R500). -/
  runLog : Option (Nat × Nat)
  /-- The lines of the scratchpad slice that are lost, by offset (R29). -/
  spadLost : List Nat
  deriving DecidableEq, Repr

def Core.reset : Core :=
  { spadLost := [], runLog := none, mat := .reset, sbuf := [], plb := [], hints := [], pres := [], last := 2, run := 0, cont := false, yielded := none, dRun := 0, mcast := [],
    mailbox := [], dq := [], dmsg := none, dStart := 0
  }

/-- One cluster's units. -/
structure Cluster where
  events : List Ev
  bars   : Map Bar
  /-- ACTIVE Carillon regions, and the nonzero leaves by number (R400). -/
  regions : Map TreeRegion
  leaves : Map Nat
  /-- Holding-buffer slots that are not FREE (R379). -/
  hb : Map HbSlot
  /-- Stopped by a cross-trigger (R494); the mode of the issue log, its entries, and whether a replay diverged (R500, R502). -/
  halted : Bool
  logMode : ReplayMode
  log : List LogEntry
  diverged : Bool
  deriving DecidableEq, Repr

def Cluster.reset : Cluster := { halted := false, logMode := .off, log := [], diverged := false, hb := [], regions := [], leaves := [], events := [], bars := []
  }

/-- One die's shared objects. -/
structure Die where
  bars : Map Bar
  /-- The requests of the die's Tabla (R386). -/
  tabla : List TEnt
  /-- The cache of the home translation unit, the most recent first (R214). -/
  leaves : List CachedLeaf
  deriving DecidableEq, Repr

def Die.reset : Die := { leaves := [], tabla := [], bars := []
  }

/-- One device. -/
structure Dev where
  domRoot : Nat
  transRoot : Nat
  bars : Map Bar
  /-- The 256 work queues by ID (R306). -/
  wqs : Map Wq
  /-- Units withdrawn (R28). -/
  withdrawn : List Resource
  /-- The group table (R452), the posted-collective table (R458), the TIME of the last ticket or beacon of each coordinator (R462) and the greatest ticket admitted. -/
  groups : Map GEnt
  colls : List Coll
  horizon : Map Nat
  lastTicket : Option Nat
  /-- Host queues by number (R292); an unlisted one is not assigned. -/
  hostqs : Map HostQ
  /-- The lease word of the package (R303), the die whose firmware core issues commands, and the FTIME of its last renewal (R304). -/
  lease : W64
  leader : Option Nat
  renewed : Nat
  /-- Timpani: the cap in W, the granted ratios, CLKSEQ, and the FTIME of the last change (R282 to R285). -/
  cap : Nat
  grant : Clk
  clkseq : W64
  granted : Option Nat
  /-- MSTATUS: BOOT, SVC and LATCHOK; SCRUB.RATE, CENSUS.IVL, and the ordinal of the eviction (R507). -/
  boot : Nat
  svc : Nat
  latchOk : Bool
  scrub : Nat
  censusIvl : Nat
  evictOrd : Nat
  /-- The FTIME of the write of EVICT.GO (R511). -/
  evictAt : Nat
  /-- The counts of the health record (R509): drops, corrected, uncorrectable, lines lost; the last MCHECK record, the cause of a failed bring-up, HSEQ and the two copies. -/
  drops : Nat
  corr : Nat
  uncorr : Nat
  retired : Nat
  lastmc : List Byte
  cause : Nat
  hseq : Nat
  healthA : List Byte
  healthB : List Byte
  /-- The scale-up links (R489), and the end-to-end streams to other modules by destination ordinal * 4 + class (R482, R483). -/
  links : Vector Link 18
  e2e : Map E2e
  /-- The module is lost to its partition (R493); where its ordinal is routed after an eviction (R490, R511); the parts that an eviction has not yet sent are told to go. -/
  lost : Bool
  routedTo : Option Nat
  /-- The switches route the ordinal nowhere after a drain of all 18 links (R490); SENT and STALL of the channels at the latest census, by entry (R492). -/
  unrouted : Bool
  flow : List (Nat × Nat)
  /-- Spares in use (R24): cores by package cluster, L2 ways by slice, link lanes by link. -/
  spareCores : List Nat
  spareWays : List Nat
  spareLanes : List Nat
  /-- The census ring that firmware has allocated: its physical base and slots (R491), and RSEQ. -/
  censusBase : W64
  censusSlots : Nat
  rseq : Nat
  /-- The firmware image that runs, and the one that takes effect at the next reset (R506). -/
  image : Nat
  newImage : Option Nat
  /-- The model's count of ac at the module's reset, from which its TIME counts (R96). -/
  timeBase : W64
  /-- The status of firmware's last command on a page: it was rejected (R205). -/
  rejected : Bool
  /-- The thresholds of the policy on placement (R221); the power table that firmware loaded (R282). -/
  policy : HotPolicy
  power : PowerTable
  /-- A bring-up under way (R505); whether the latest management message was answered with an error code (R506); the contexts of which an eviction has sent a part (R512). -/
  starting : Option BringUp
  mgmtError : Bool
  sentCtxs : List Nat
  /-- The corrected errors of the last 24 h: the slice and the FTIME of each (R510). -/
  corrected : List (Nat × Nat)
  /-- The instant of the latest census (R286, R491), and the coordinator ID of the hub die (R459). (DESIGN CHOICE: log 186.) -/
  censusAt : Nat
  coordId : Half
  deriving DecidableEq, Repr

/-- The power table that firmware loads by default (R282). (DEDUCED: log 46.) -/
def defaultPower : PowerTable :=
  let per (f : Nat → Nat) : List Nat := [4, 5, 6, 7, 8, 9, 10, 11, 12].map f
  { mat := per fun k => (1100 * k * k + 32) / 64, vec := per fun k => 12 * k * k, net := per fun k => 6 * k * k, mem := per fun k => 6 * k * k, fixed := 364 }

def Dev.reset : Dev := { starting := none, mgmtError := false, sentCtxs := [], corrected := [], policy := ⟨64, 4, 256, 75, 1024, 64, 90⟩, power := defaultPower, censusAt := 0, coordId := 0, rejected := false, timeBase := 0, links := Vector.replicate 18 .reset, e2e := [], lost := false, routedTo := none, unrouted := false, flow := [], spareCores := [], spareWays := [], spareLanes := [], censusBase := 0, censusSlots := 0, rseq := 0, image := 0, newImage := none, drops := 0, corr := 0, uncorr := 0, retired := 0, lastmc := List.replicate 64 0, cause := 0, hseq := 0, healthA := List.replicate 896 0, healthB := List.replicate 896 0, hostqs := [], lease := 0, leader := none, renewed := 0, cap := 3000, grant := ⟨8, 8, 8, 8⟩, clkseq := 0, granted := none, boot := 0, svc := 0, latchOk := false, scrub := 1, censusIvl := 1, evictOrd := 0, evictAt := 0, groups := [], colls := [], horizon := [], lastTicket := none, withdrawn := [], wqs := [], domRoot := 0, transRoot := 0, bars := []
  }

/-- One context: its domain, error queue, scratchpad ranges by flat core number (offset, length), inbox and overflow area. (DESIGN CHOICE: log 91.) -/
structure Ctx where
  live : Bool
  domain : Half
  errq : W64
  spr  : List (Nat × Nat × Nat)
  inbox : List Msg
  /-- The published GVT and the interval of its rounds (R440, R444). -/
  gvt : BitVec 128
  gvtIvl : Nat
  /-- Carillon grants by cluster: region mask, first leaf, leaves (R403); holding-buffer grants by cluster (R379). -/
  egrants : List (Nat × W64 × Nat × Nat)
  hbgrants : List (Nat × BitVec 8)
  deriving DecidableEq, Repr

def Ctx.reset : Ctx := { gvt := BitVec.allOnes 128, gvtIvl := 2, egrants := [], hbgrants := [], live := false, domain := 0, errq := 0, spr := [], inbox := []
  }

/-- The module: every device of one fabric partition. (DESIGN CHOICE: log 3.) -/
structure State where
  time  : W64
  ftime : Nat
  /-- The model's own: steps taken, and free values drawn. -/
  steps : Nat
  free  : Nat
  /-- The model's own: changes whenever shared state may have changed, so that waiting partitions look again. -/
  epoch : Nat
  /-- The model's own: the events that come next, the partition chosen to issue, the partition acting, and whether the last
  instruction issued. -/
  agenda : List Instr
  sel   : Option Nat
  cur   : Nat
  issued : Bool
  mem   : List Host.Cell
  parts : Map Part
  /-- Parts that hold no partition: CREATED parts and spill frames, each with its flat core number. -/
  away  : List (Nat × Part)
  cores : Map Core
  clusters : Map Cluster
  dies  : Map Die
  devs  : Map Dev
  ctxs  : Map Ctx
  pages : List Page
  guests : List Guest
  watches : List Watch
  net   : List Msg
  /-- The completions reported to the fabric manager, by partition, with the CHKPT operand (none: captured by firmware) (R159, R160, R167), and the parts
  reported as failed. -/
  chkReports : List (Nat × Option W64)
  chkFailed  : List Nat
  /-- The matrix units, by cluster key * 2 + unit. -/
  mus : Map MUnit
  /-- The tasks of every Tabor, and the count of tasks so far (R425). -/
  tasks : List Task
  taskSeq : Nat
  /-- Service-class messages that firmware has received (R350). -/
  fw : List Msg
  /-- Launch records, the count of launches accepted, and counter adds on their way, oldest first. -/
  launches : List Launch
  launchSeq : Nat
  adds : List CAdd
  /-- The groups of the partition, their collectives at their coordinators, and the last TIME that each coordinator issued (R460). -/
  groups : List Grp
  gcolls : List GColl
  /-- The status of the latest request for a group: whether firmware has created it (R452). -/
  groupStatus : Option Bool
  coordTime : Map Nat
  /-- Whether a quiesce of the partition is in force (R159), and the checkpoint limit in ns (R160). -/
  quiesced : Bool
  chkLimit : Nat
  deriving DecidableEq, Repr

/-- The module right after reset. -/
def State.reset : State :=
  { groups := [], gcolls := [], groupStatus := none, coordTime := [], quiesced := false, chkLimit := 200000000, launches := [], launchSeq := 0, adds := [], tasks := [], taskSeq := 0, fw := [], mus := [], time := 0, ftime := 0, steps := 0, free := 0, epoch := 0, agenda := [], sel := none, cur := 0, issued := false, mem := [], parts := [],
    away := [], cores := [], clusters := [], dies := [], devs := [(0, .reset)], ctxs := [], pages := [], guests := [], watches := [],
    net := [], chkReports := [], chkFailed := []
  }

namespace State

/-! ## The homes of objects -/

def part (s : State) (k : Nat) : Part := (mfind s.parts k).getD .reset
def setPart (s : State) (k : Nat) (p : Part) : State := { s with parts := mset s.parts k p }
def modPart (s : State) (k : Nat) (f : Part → Part) : State := s.setPart k (f (s.part k))
def core (s : State) (flat : Nat) : Core := (mfind s.cores flat).getD .reset
def modCore (s : State) (flat : Nat) (f : Core → Core) : State := { s with cores := mset s.cores flat (f (s.core flat)) }
def cluster (s : State) (cl : Nat) : Cluster := (mfind s.clusters cl).getD .reset
def modCluster (s : State) (cl : Nat) (f : Cluster → Cluster) : State := { s with clusters := mset s.clusters cl (f (s.cluster cl)) }
def die (s : State) (dk : Nat) : Die := (mfind s.dies dk).getD .reset
def modDie (s : State) (dk : Nat) (f : Die → Die) : State := { s with dies := mset s.dies dk (f (s.die dk)) }
def dev (s : State) (d : Nat) : Dev := (mfind s.devs d).getD .reset
def modDev (s : State) (d : Nat) (f : Dev → Dev) : State := { s with devs := mset s.devs d (f (s.dev d)) }
/-- Change the part of a context on a core: in a partition A to C, or the one kept away. -/
def modPartOf (s : State) (flat c : Nat) (f : Part → Part) : State :=
  match [0, 1, 2].find? fun q => (s.part (flat * 4 + q)).ctx = c && (s.part (flat * 4 + q)).st ≠ .free with
  | some q => s.modPart (flat * 4 + q) f
  | none => { s with away := s.away.map fun a => if a.1 = flat && a.2.ctx = c && a.2.st ≠ .created then (a.1, f a.2) else a }
/-- The partition A to C of a core that holds a context. -/
def placed (s : State) (flat c : Nat) : Option Nat :=
  ([0, 1, 2].find? fun q => (s.part (flat * 4 + q)).ctx = c && (s.part (flat * 4 + q)).st ≠ .free).map fun q => flat * 4 + q
def ctx (s : State) (c : Nat) : Ctx := (mfind s.ctxs c).getD .reset
def modCtx (s : State) (c : Nat) (f : Ctx → Ctx) : State := { s with ctxs := mset s.ctxs c (f (s.ctx c)) }

def mu (s : State) (m : Nat) : MUnit := (mfind s.mus m).getD .reset
def modMu (s : State) (m : Nat) (f : MUnit → MUnit) : State := { s with mus := mset s.mus m (f (s.mu m)) }

end State

end Sys2Proof.Machine
end

