-- ==== Sys2Proof/Machine/Topo.lean ====
section
/-! DEFINITION. The places of the module (R10, R11, R20) as arithmetic on the model's keys, and the bytes of words. -/

namespace Sys2Proof.Machine

/-- The flat core number of a hardware partition. -/
def flatOf (k : Nat) : Nat := k / 4
/-- Partition index: 0 A, 1 B, 2 C, 3 D (R95). -/
def idxOf (k : Nat) : Nat := k % 4
/-- The device ordinal of a flat core number (R20). -/
def ordOf (flat : Nat) : Nat := flat / 1024
/-- The die key, ordinal * 4 + die. -/
def dieOf (flat : Nat) : Nat := flat / 256
def tileOf (flat : Nat) : Nat := flat % 256
def yOf (flat : Nat) : Nat := flat / 16 % 16
def xOf (flat : Nat) : Nat := flat % 16
/-- The cluster key, ordinal * 64 + die * 16 + cluster in die (R11). -/
def clOf (flat : Nat) : Nat := dieOf flat * 16 + yOf flat / 4 * 4 + xOf flat / 4
/-- The position in the cluster (R11). -/
def posOf (flat : Nat) : Nat := yOf flat % 4 * 4 + xOf flat % 4
/-- The flat core number at a position of a cluster. -/
def flatAt (cl pos : Nat) : Nat := cl / 16 * 256 + (cl % 16 / 4 * 4 + pos / 4) * 16 + (cl % 4 * 4 + pos % 4)
/-- The matrix unit key of a core: cluster key * 2 + unit (R11). -/
def muOf (flat : Nat) : Nat := clOf flat * 2 + posOf flat / 8
/-- The flat number of tile 0 of a die. -/
def dieBase (dk : Nat) : Nat := dk * 256

/-- TIME as a core reads it: ac since the reset of its module (R96). (DEDUCED: log 84.) -/
def timeAt (s : State) (k : Nat) : W64 := s.time - (s.dev (ordOf (flatOf k))).timeBase

/-- The ns since an instant of FTIME, modulo 2^48 (R286). -/
def since (s : State) (t : Nat) : Nat := (s.ftime + 2 ^ 48 - t % 2 ^ 48) % 2 ^ 48

/-- The bytes of a little-endian number. -/
def bytesOf : Nat → Nat → List Byte
  | 0, _ => []
  | n + 1, v => BitVec.ofNat 8 (v % 256) :: bytesOf n (v / 256)

/-- The number a little-endian list of bytes holds. -/
def ofBytes : List Byte → Nat
  | [] => 0
  | b :: bs => b.toNat + 256 * ofBytes bs

/-- `n` bytes of `bs` from offset `o`, as a number. -/
def fieldAt (bs : List Byte) (o n : Nat) : Nat := ofBytes ((bs.drop o).take n)

/-- Replace the `n` bytes at offset `o`. -/
def putAt (bs : List Byte) (o n v : Nat) : List Byte := bs.take o ++ bytesOf n v ++ bs.drop (o + n)

/-- A record of 64 bytes from (offset, size, value) fields; the other bytes are zero. -/
def record64 (fs : List (Nat × Nat × Nat)) : List Byte :=
  fs.foldl (fun bs f => putAt bs f.1 f.2.1 f.2.2) (List.replicate 64 0)

/-- Sign extension of the low `w` bits of a number to 64 bits. -/
def sext64 (w v : Nat) : W64 :=
  let x := v % 2 ^ w
  if x < 2 ^ (w - 1) then BitVec.ofNat 64 x else BitVec.ofNat 64 (2 ^ 64 - 2 ^ w + x)

/-- Bits hi..lo of a word. -/
def bits (x : W64) (hi lo : Nat) : Nat := x.toNat / 2 ^ lo % 2 ^ (hi + 1 - lo)

/-- The integer conditions of R85 on numbers of width w. -/
def icond (c : ICond) (w : Nat) (a b : Nat) : Bool :=
  let a := a % 2 ^ w
  let b := b % 2 ^ w
  let sa : Int := if a < 2 ^ (w - 1) then a else (a : Int) - (2 ^ w : Nat)
  let sb : Int := if b < 2 ^ (w - 1) then b else (b : Int) - (2 ^ w : Nat)
  match c with
  | .eq => a = b
  | .ne => a ≠ b
  | .lt => sa < sb
  | .ge => sa ≥ sb
  | .le => sa ≤ sb
  | .gt => sa > sb
  | .ltn => a < b
  | .gen => a ≥ b
  | .len => a ≤ b
  | .gtn => a > b

/-- The condition of a code of R85. -/
def icondOf (n : Nat) : ICond :=
  match n with
  | 0 => .eq | 1 => .ne | 2 => .lt | 3 => .ge | 4 => .le | 5 => .gt | 6 => .ltn | 7 => .gen | 8 => .len | _ => .gtn

/-- The address of the 64-byte line of an address. -/
def lineOf (va : W64) : W64 := va &&& ~~~(63 : W64)

/-! ## The lease (R303, R304) -/

/-- Whether FTIME lies before an instant, serially (R286). -/
def ftimeBefore (a b : Nat) : Bool :=
  let d := (b + 2 ^ 48 - a % 2 ^ 48) % 2 ^ 48
  decide (1 ≤ d) && decide (d < 2 ^ 47)

/-- The instant of EXPIRY, in ns. -/
def expiry (l : W64) : Nat := bits l 31 0 * 65536

/-- A lease word: epoch, holder, and the expiry 8 ms from now. -/
def leaseWord (s : State) (epoch holder : Nat) : W64 :=
  BitVec.ofNat 64 (epoch % 2 ^ 24 * 2 ^ 40 + holder % 4 * 2 ^ 38 + (s.ftime + 8000000) / 65536 % 2 ^ 32)

/-- Whether a leader has failed to renew by EXPIRY − 2 ms. (DEDUCED: log 49.) -/
def leaseLapsed (s : State) (dev : Nat) : Bool := !ftimeBefore s.ftime (expiry (s.dev dev).lease + 2 ^ 48 - 2000000)

/-- Whether a module has a leader that may command (R303, R304). (DEDUCED: log 49.) -/
def led (s : State) (dev : Nat) : Bool := (s.dev dev).leader.isSome && !leaseLapsed s dev

/-! ## Fetch requests (R100) -/

/-- Ask for the line of PC and the next one; drop what is neither. -/
def Part.refetch (p : Part) (seq : Nat) : Part :=
  if p.fmode = .following then { p with fbuf := [], freq := [] }
  else
    let l := lineOf p.pc
    let want := [l, l + 64]
    let fb := p.fbuf.filter fun x => want.contains x.addr
    let fr := p.freq.filter fun x => want.contains x.1
    let new := want.filter fun w => !(fb.any fun x => x.addr = w) && !(fr.any fun x => x.1 = w)
    { p with fbuf := fb, freq := fr ++ new.map fun w => (w, seq) }

end Sys2Proof.Machine
end

