-- ==== Sys2Proof/Machine/IssueLog.lean ====
section
/-! DEFINITION. The issue log of a cluster's debug module, its replay, and the performance counters (R499 to R502). -/

namespace Sys2Proof.Machine

/-- Append an entry to a cluster's issue log, where logging is on. (DESIGN CHOICE: log 70.) -/
def logPut (s : State) (flat part kind outcome : Nat) (payload : W64) : State :=
  let c := s.cluster (clOf flat)
  if c.logMode = .logging then s.modCluster (clOf flat) fun c => { c with log := c.log ++ [⟨kind, posOf flat, part, outcome, payload⟩] } else s

/-- Whether an entry is of a kind, a position and a partition. -/
def logAt (flat part kind : Nat) (e : LogEntry) : Bool := e.kind = kind && e.pos = posOf flat && e.part = part

/-- In replay, the next entry of a kind for a partition. -/
def replayNext (s : State) (flat part kind : Nat) : Option LogEntry :=
  let c := s.cluster (clOf flat)
  if c.logMode = .replay then c.log.find? (logAt flat part kind) else none

/-- Remove the first entry that satisfies a test. -/
def dropFirst (f : LogEntry → Bool) : List LogEntry → List LogEntry
  | [] => []
  | e :: es => if f e then es else e :: dropFirst f es

/-- In replay, the next entry of a kind for a partition has been followed. -/
def replayTake (s : State) (flat part kind : Nat) : State :=
  if (s.cluster (clOf flat)).logMode = .replay then s.modCluster (clOf flat) fun c => { c with log := dropFirst (logAt flat part kind) c.log } else s

/-- A recorded choice is logged, or followed in replay. -/
def logOrTake (s : State) (flat part kind outcome : Nat) (payload : W64) : State :=
  replayTake (logPut s flat part kind outcome payload) flat part kind

/-! ## Issue runs (R500, R502) -/

/-- The ring of a cluster's issue log is full: its schedulers stop. (DESIGN CHOICE: log 150.) -/
def logFull (s : State) (cl : Nat) : Bool := (s.cluster cl).logMode = .logging && decide (Config.logSize ≤ (s.cluster cl).log.length)

/-- The open run of a core's scheduler is logged. -/
def closeRun (s : State) (flat : Nat) : State :=
  match (s.core flat).runLog with
  | some (part, n) => (logPut s flat part 1 0 (BitVec.ofNat 64 (part * 2 ^ 61 + n))).modCore flat fun c => { c with runLog := none }
  | none => s

/-- The next run that a replayed scheduler follows; a run of no choice is no run of issues. -/
def isRun (flat : Nat) (e : LogEntry) : Bool := e.kind = 1 && e.pos = posOf flat && decide (e.payload.toNat / 2 ^ 61 < 4)
def replayRun (s : State) (flat : Nat) : Option Nat :=
  let c := s.cluster (clOf flat)
  if c.logMode = .replay then (c.log.find? (isRun flat)).map fun e => e.payload.toNat / 2 ^ 61 else none

/-- One issue of a run has been followed. -/
def takeRun (flat : Nat) : List LogEntry → List LogEntry
  | [] => []
  | e :: es =>
    if isRun flat e then
      if e.payload.toNat % 2 ^ 32 ≤ 1 then es else { e with payload := e.payload - 1 } :: es
    else e :: takeRun flat es

/-- A cc of a core's scheduler has issued from a partition (0 to 3), or from none (4). While the ring is full the scheduler is stopped and its cc make no run; an
issue whose own entry has filled the ring still counts. -/
def noteRun (s : State) (flat part : Nat) : State :=
  match (s.cluster (clOf flat)).logMode with
  | .off => s
  | .logging =>
    if logFull s (clOf flat) && part = 4 then s
    else match (s.core flat).runLog with
    | some (q, n) =>
      if q = part && decide (n + 1 < 2 ^ 32) then s.modCore flat fun c => { c with runLog := some (part, n + 1) }
      else (closeRun s flat).modCore flat fun c => { c with runLog := some (part, 1) }
    | none => s.modCore flat fun c => { c with runLog := some (part, 1) }
  | .replay => if part < 4 then s.modCluster (clOf flat) fun c => { c with log := takeRun flat c.log } else s

/-- Count an event of a part in the counters that follow it (R499). -/
def Part.count (p : Part) (event n : Nat) : Part :=
  { p with perf := p.perf.map fun c => if c.en && c.event = event then { c with count := c.count + BitVec.ofNat 48 n } else c }

/-- Count an event of the part in a partition. -/
def perf (s : State) (k event n : Nat) : State := s.modPart k fun p => p.count event n

end Sys2Proof.Machine
end

