-- ==== Sys2Proof/Machine/Planes.lean ====
section
/-! DEFINITION. The planes of the scale-up fabric and what crosses them (R481 to R483, R489, R490): which links carry a class, the plane of a stream, and whether an
access or a message can leave its package. -/

namespace Sys2Proof.Machine

/-- Whether a device ordinal is in the fabric partition: the ordinal of a lost module, or of a drained one, is routed nowhere (R490, R493), and a module that
firmware still brings up has not joined (R505). -/
def inPartition (s : State) (flat : Nat) : Bool := (mfind s.devs (ordOf flat)).any fun d => !d.lost && !d.unrouted && d.boot ≠ 1

/-- A link that plane choice takes. -/
def Link.choosable (l : Link) : Bool := l.st = .up || l.st = .rekeying

/-- Whether a link carries messages of a class: held for a quiesce it carries control frames and VC 3 only (R489). -/
def Link.carries (l : Link) (cls : Nat) : Bool :=
  match l.st with
  | .up | .draining => true
  | .rekeying => l.after ≠ .quiesced || cls = 3
  | .quiesced => cls = 3
  | _ => false

def linkOf (s : State) (dev : Nat) (n : Fin 18) : Link := ((s.dev dev).links)[n]

/-- Whether the links of a plane at two modules both satisfy a test. -/
def bothEnds (s : State) (a b n : Nat) (f : Link → Bool) : Bool := (((s.dev a).links.toList)[n]?.any f) && (((s.dev b).links.toList)[n]?.any f)

/-- The planes in the order in which a stream tries them (R482). -/
def planeOrder (src dst cls : Nat) : List Nat := (List.range 18).map fun i => (src + dst + cls + i) % 18

/-- The plane of a stream: the first UP one from p on; for the service class, where none is UP, the first that a quiesce leaves it. (DEDUCED: log 64.) -/
def planeOf (s : State) (src dst cls : Nat) : Option Nat :=
  match (planeOrder src dst cls).find? fun n => bothEnds s src dst n Link.choosable with
  | some n => some n
  | none => if cls = 3 then (planeOrder src dst cls).find? fun n => bothEnds s src dst n (·.carries 3) else none

/-- Whether what goes between two cores leaves its package for another module of the partition. -/
def crosses (s : State) (a b : Nat) : Bool := ordOf a ≠ ordOf b && inPartition s a && inPartition s b

/-- Whether an access or an engine's traffic of a class between two cores can cross now: over the plane that its stream takes. -/
def crossing (s : State) (a b cls : Nat) : Bool :=
  !crosses s a b || (planeOf s (ordOf a) (ordOf b) cls).any fun n => bothEnds s (ordOf a) (ordOf b) n (·.carries cls)

/-- Whether a numbered message can cross now: over the plane on which its hub has sent it (R482, R483). -/
def msgCrossing (s : State) (m : Msg) : Bool :=
  let a := ordOf m.src
  let b := ordOf m.dest
  match m.num.bind fun i => (mfind (s.dev a).e2e (b * 4 + m.cls.val)).bind fun e => e.unacked.find? (·.1 = i) with
  | some (_, n) => !crosses s m.src m.dest || bothEnds s a b n (·.carries m.cls.val)
  | none => crossing s m.src m.dest m.cls.val

/-- A stream whose plane is no longer UP moves to the first plane that is, and what is not acknowledged is sent again there (R482, R483). -/
def E2e.moved (e : E2e) (s : State) (src key : Nat) : E2e :=
  if e.plane.any fun n => bothEnds s src (key / 4) n Link.choosable then e
  else match planeOf s src (key / 4) (key % 4) with
    | some n => { e with plane := some n, unacked := e.unacked.map fun u => (u.1, n) }
    | none => { e with plane := none }

/-- After a change of a link. -/
def moveStreams (s : State) : State :=
  { s with devs := s.devs.map fun d => if d.2.e2e.isEmpty then d else (d.1, { d.2 with e2e := d.2.e2e.map fun e => (e.1, e.2.moved s d.1 e.1) }) }

end Sys2Proof.Machine
end

