-- ==== Sys2Proof/Machine/TaskOps.lean ====
section
/-! DEFINITION. Uncommitted tasks: their order, aborts with their reach, and undoing (R422, R428, R430, R434 to R438). -/

namespace Sys2Proof.Machine

/-- The order of tasks: by key, equal keys by source flat core and then by arrival (R422). -/
def Task.before (a b : Task) : Bool :=
  if a.msg.key ≠ b.msg.key then decide (a.msg.key.toNat < b.msg.key.toNat)
  else if a.msg.src ≠ b.msg.src then decide (a.msg.src < b.msg.src)
  else decide (a.id < b.id)

/-- The REGION of a key. -/
def regionOfKey (key : BitVec 128) : Nat := key.toNat / 2 ^ 48 % 65536

def Task.region (t : Task) : Nat := regionOfKey t.msg.key

/-- Whether a task is irrevocable (R430). -/
def irrevocable (s : State) (t : Task) : Bool := t.state = .running && t.msg.key = (s.ctx t.msg.ctx).gvt

def taskOf (s : State) (id : Nat) : Option Task := s.tasks.find? (·.id = id)

/-- The task that runs in a partition. -/
def taskOn (s : State) (k : Nat) : Option Task := s.tasks.find? fun t => t.state = .running && t.k = k

def modTask (s : State) (id : Nat) (f : Task → Task) : State :=
  { s with tasks := s.tasks.map fun t => if t.id = id then f t else t }

/-- The granule of a byte (R432), which the model names by its device and address. -/
def granule (i : Nat) : Nat := i / 64 * 64

/-- Whether a task has a version of a granule. -/
def Task.wrote (t : Task) (g : Nat) : Bool := t.writes.any fun b => decide (b.1 / 64 = g / 64)

/-! ## Aborts (R435, R437) -/

/-- What an abort reaches: tasks that return to PENDING, and tasks withdrawn. -/
structure Reach where
  back : List Nat
  gone : List Nat
  deriving DecidableEq, Repr

/-- Whether a task goes beyond PENDING and so has effects to undo. -/
def Task.ran (t : Task) : Bool := t.state ≠ .pending

/-- One round of the reach of an abort: children of an aborted task are withdrawn; its dependants, and the later tasks of its region that have
run, return to PENDING. -/
def reachStep (s : State) (r : Reach) : Reach :=
  let hit := s.tasks.filter fun t => (r.back.contains t.id || r.gone.contains t.id)
  let ran := hit.filter (·.ran)
  s.tasks.foldl (fun r t =>
    if r.gone.contains t.id then r
    else if t.msg.parent.any fun p => hit.any (·.id = p) then { r with gone := t.id :: r.gone }
    else if r.back.contains t.id || !t.ran || irrevocable s t then r
    else if t.deps.any (fun d => hit.any (·.id = d)) ||
        ran.any (fun u => u.cl = t.cl && u.msg.ctx = t.msg.ctx && u.region = t.region && u.before t) then { r with back := t.id :: r.back }
    else r) r

def reachGo (s : State) : Nat → Reach → Reach
  | 0, r => r
  | n + 1, r => let r' := reachStep s r; if r' = r then r else reachGo s n r'

/-- Restore one journal entry of a cluster. -/
def undoEntry (c : Cluster) : JEntry → Cluster
  | .leaf i old => { c with leaves := if old = 0 then mdel c.leaves i else mset c.leaves i old }
  | .clk g old => { c with regions := match mfind c.regions g with
      | some r => mset c.regions g { r with clk := old }
      | none => c.regions }
  | .ec g old => { c with regions := match mfind c.regions g with
      | some r => mset c.regions g { r with ec := old }
      | none => c.regions }

/-- The registers of a checkpoint (R429, R438): the partition stands at the TEND that dispatched the task, and serves. -/
def Part.rollback (p chk : Part) : Part :=
  { p with
    s := chk.s, v := chk.v, p := chk.p, pc := chk.pc, npc := chk.npc, fpctl := chk.fpctl, fpflags := chk.fpflags, stallchk := chk.stallchk
    srseed := chk.srseed, srctr := chk.srctr, inTrap := chk.inTrap, inUp := chk.inUp, inChk := chk.inChk, sb := [], stall := 0
    sleep := chk.sleep, blocked := none, fbuf := [], freq := [], mdraw := none }

/-- Undo one task (R438): its journal in reverse, its held messages with their reply slots, and the registers of its partition. (DEDUCED: log 117.) -/
def undoTask (s : State) (t : Task) : State :=
  let s1 := s.modCluster t.cl fun c => t.journal.foldl undoEntry c
  let s2 := t.acts.foldl (fun s a =>
    match a with
    | .msg m =>
      if m.rp then s.modPartOf (flatOf t.k) t.msg.ctx fun p => { p with replies := p.replies.filter fun x => !(x.tag = m.tag && x.reply.isNone) } else s
    | _ => s) s1
  let s3 := s2.modPartOf (flatOf t.k) t.msg.ctx (·.count 8 1)
  match t.state, t.chk with
  | .running, some c => s3.modPart t.k fun p => (p.rollback c).refetch s.steps
  | _, _ => s3

/-- A task without its effects. -/
def Task.cleared (t : Task) : Task :=
  { t with state := .pending, reads := [], deps := [], writes := [], journal := [], acts := [], chk := none }

/-- Abort tasks to PENDING and withdraw others, with all that follows (R435 to R438). Undone tasks go from the latest back. -/
def abortTasks (s : State) (back gone : List Nat) : State :=
  let r := reachGo s (2 * s.tasks.length + 2) ⟨back.filter fun i => (taskOf s i).any (·.ran), gone⟩
  let hit := s.tasks.filter fun t => (r.back.contains t.id || r.gone.contains t.id)
  let order := (hit.filter (·.ran)).mergeSort fun a b => b.before a
  let s1 := order.foldl undoTask s
  let orphan (m : Msg) : Bool := m.parent.any fun p => hit.any (·.id = p)
  { s1 with
    tasks := (s1.tasks.filter fun t => !r.gone.contains t.id).map fun t => if r.back.contains t.id then t.cleared else t
    net := s1.net.filter fun m => !orphan m
    ctxs := s1.ctxs.map fun c => (c.1, { c.2 with inbox := c.2.inbox.filter fun m => !orphan m })
    epoch := s1.epoch + 1 }

/-- A store made outside a task to a granule first aborts every task that read or wrote it (R434). (DEDUCED: log 115.) -/
def abortForStore (s : State) (i : Nat) : State :=
  if s.tasks.isEmpty then s
  else
    let g := granule i
    let ids := (s.tasks.filter fun t => t.ran && !irrevocable s t && (t.wrote g || t.reads.any fun x => x.1 = g)).map (·.id)
    if ids.isEmpty then s else abortTasks s ids []

/-- The running task of a partition is aborted to PENDING and held until it is irrevocable (R436). -/
def holdTask (s : State) (k : Nat) : State :=
  match taskOn s k with
  | none => s
  | some t => modTask (abortTasks s [t.id] []) t.id fun t => { t with held := true }

/-- A spill aborts the task that runs in the partition to PENDING (R150). (DEDUCED: log 97.) -/
def abortRunning (s : State) (k : Nat) : State :=
  match taskOn s k with
  | some t => abortTasks s [t.id] []
  | none => s

/-- A quiesce or an eviction aborts every uncommitted task of a context to PENDING (R435). -/
def abortContext (s : State) (c : Nat) : State :=
  let ids := (s.tasks.filter fun t => t.msg.ctx = c && t.ran).map (·.id)
  if ids.isEmpty then s else abortTasks s ids []

end Sys2Proof.Machine
end

