-- ==== Sys2Proof/Machine/Mem.lean ====
section
/-! DEFINITION. Memory: the cells, the address map, rights and translation walks, the directory, homes, guest copies and stash lines, and
what a byte read or a byte write does (R169 to R195, R205 to R225, R239 to R241). -/

namespace Sys2Proof.Machine

/-! ## Cells -/

/-- What a byte of memory that nothing has written reads as (DESIGN CHOICE). (DESIGN CHOICE: log 2.) -/
def memDefault : Byte := 0

/-- Read one cell. (DESIGN CHOICE: log 2.) -/
def memRead : List Host.Cell → Nat → Byte
  | [], _ => memDefault
  | (a, b) :: m, k => if a = k then b else if k < a then memDefault else memRead m k

/-- Write one cell, keeping the canonical form. -/
def memWrite : List Host.Cell → Nat → Byte → List Host.Cell
  | [], k, v => if v = memDefault then [] else [(k, v)]
  | (a, b) :: m, k, v =>
    if a = k then (if v = memDefault then m else (k, v) :: m)
    else if k < a then (if v = memDefault then (a, b) :: m else (k, v) :: (a, b) :: m)
    else (a, b) :: memWrite m k v

/-- The canonical form: keys rise strictly above `lo` and no cell holds the default. -/
def memWfFrom : Option Nat → List Host.Cell → Bool
  | _, [] => true
  | lo, (a, b) :: m =>
    (match lo with
      | none => true
      | some l => decide (l < a)) && decide (b ≠ memDefault) && memWfFrom (some a) m

/-- The canonical form of memory. -/
def Memory.wf (m : List Host.Cell) : Bool := memWfFrom none m

/-- Write bytes at consecutive keys. -/
def memWriteBytes : List Host.Cell → Nat → List Byte → List Host.Cell
  | m, _, [] => m
  | m, k, b :: bs => memWriteBytes (memWrite m k b) (k + 1) bs

/-- The kinds of physical memory: GDDR 7, LPDDR 6, host memory behind a port, scratchpad. -/
def keyOf (kind dev addr : Nat) : Nat := (dev * 4 + kind) * 2 ^ 56 + addr % 2 ^ 56

/-- The cell of a byte of a scratchpad slice. -/
def spadKey (flat off : Nat) : Nat := keyOf 3 (ordOf flat) (flat % 1024 * 0x80000 + off)

/-- Eight bytes of physical memory. -/
def phys64 (m : List Host.Cell) (key : Nat) : Nat :=
  ofBytes ((List.range 8).map fun i => memRead m (key + i))

/-- `n` bytes of physical memory. -/
def physBytes (m : List Host.Cell) (key n : Nat) : List Byte :=
  (List.range n).map fun i => memRead m (key + i)

/-! ## The address map (R169) -/

inductive Region where
  | nonCanon
  | spad (own : Bool) (pos : Nat) (off : Nat)
  | window
  | shared
  deriving DecidableEq, Repr

/-- The region of an address. -/
def regionOf (va : W64) : Region :=
  let a := va.toNat
  let top := a / 2 ^ 56
  if top ≠ 0 ∧ top ≠ 255 then .nonCanon
  else if a < 0xFFFFFFFFE0000000 then .shared
  else if a ≤ 0xFFFFFFFFE007FFFF then .spad true 0 (a - 0xFFFFFFFFE0000000)
  else if 0xFFFFFFFFF0000000 ≤ a ∧ a ≤ 0xFFFFFFFFF07FFFFF then
    .spad false ((a - 0xFFFFFFFFF0000000) / 0x80000) ((a - 0xFFFFFFFFF0000000) % 0x80000)
  else .window

/-- Who makes an access: the core, the partition and the context. -/
structure Who where
  flat : Nat
  k    : Nat
  ctx  : Nat
  deriving DecidableEq, Repr

def whoOf (s : State) (k : Nat) : Who := ⟨flatOf k, k, (s.part k).ctx⟩

/-- The slice and offset that a scratchpad address names for a core. -/
def spadAt (flat : Nat) (own : Bool) (pos off : Nat) : Nat × Nat :=
  if own then (flat, off) else (flatAt (clOf flat) pos, off)

/-- The kinds of access of R211. -/
inductive Acc where
  | read | write | fetch | atomic
  deriving DecidableEq, Repr

/-- The ACC code of R216. -/
def Acc.code : Acc → Nat
  | .read => 0
  | .write => 1
  | .fetch => 2
  | .atomic => 3

/-- A failed access: the trap code (0x03 PROT, 0x10 PAGE, 0x0C MCHECK), the reason, the address, the core's PLB as the access left it, and whether it walked a
rights table, which is an acquire of scope pkg (R209). -/
structure AErr where
  code   : Nat
  reason : Nat
  addr   : W64
  plb    : Option (List PlbEnt) := none
  walked : Bool := false
  deriving DecidableEq, Repr

/-! ## Rights (R207 to R211) -/

/-- The next table of a table entry: its kind of memory and address, or none where the entry is malformed. -/
def tableOf (e : Nat) : Option (Nat × Nat) :=
  let tier := e / 2 ^ 62
  if 2 ≤ tier ∨ e / 2 ^ 52 % 2 ^ 10 ≠ 0 ∨ e / 4 % 2 ^ 10 ≠ 0 then none
  else some (tier, e / 2 ^ 12 % 2 ^ 40 * 2 ^ 12)

/-- The region of a rights leaf in a slot of span 2^span that holds `va`; address bits 56:0 tell it (R208, R210). -/
def rightsLeaf (dom : Half) (va : W64) (e span : Nat) : Option PlbEnt :=
  let l := e / 2 ^ 8 % 64
  if e / 2 ^ 14 ≠ 0 ∨ l < span ∨ l < 16 ∨ 57 < l then none
  else
    let b (i : Nat) : Bool := e / 2 ^ i % 2 = 1
    some { dom, base := BitVec.ofNat 64 (va.toNat % 2 ^ 57 / 2 ^ l * 2 ^ l), log2 := l, r := b 2, w := b 3, x := b 4, a := b 5, m := b 6, replica := b 7 }

/-- Walk from an entry through the remaining levels, each given by the low bit of its index, the bits of its index and the span of its slots. -/
def walkRightsFrom (m : List Host.Cell) (dev : Nat) (dom : Half) (va : W64) (e span : Nat) (isDom : Bool) :
    List (Nat × Nat × Nat) → Except Nat PlbEnt
  | [] =>
    if e % 4 = 0 then .error 0x04
    else if e % 4 = 2 then
      match rightsLeaf dom va e span with
      | some p => .ok p
      | none => .error 0x07
    else .error 0x07
  | (lo, n, sp) :: ls =>
    if e % 4 = 0 then .error 0x04
    else if e % 4 = 2 then
      if isDom then .error 0x07
      else match rightsLeaf dom va e span with
        | some p => .ok p
        | none => .error 0x07
    else if e % 4 = 3 then .error 0x07
    else match tableOf e with
      | none => .error 0x07
      | some (kind, addr) =>
        walkRightsFrom m dev dom va (phys64 m (keyOf kind dev (addr + va.toNat / 2 ^ lo % 2 ^ n * 8))) sp false ls

/-- The rights walk of R209. The table's root is read in GDDR 7. (DESIGN CHOICE: log 197.) -/
def walkRights (s : State) (dev : Nat) (dom : Half) (va : W64) : Except Nat PlbEnt :=
  walkRightsFrom s.mem dev dom va (phys64 s.mem (keyOf 0 dev ((s.dev dev).domRoot + dom.toNat * 8))) 57 true
    [(43, 14, 43), (29, 14, 29), (16, 13, 16)]

/-- Whether a PLB entry holds an address of a domain. -/
def PlbEnt.holds (e : PlbEnt) (dom : Half) (va : W64) : Bool :=
  e.dom = dom && decide (va.toNat % 2 ^ 57 / 2 ^ e.log2 = e.base.toNat % 2 ^ 57 / 2 ^ e.log2)

/-- The rights of R211. -/
def PlbEnt.grants (e : PlbEnt) : Acc → Bool
  | .read => e.r
  | .write => e.w
  | .fetch => e.x
  | .atomic => e.r && e.w && e.a

/-! ## Translation (R213, R214) -/

/-- Read a leaf word of a page of 2^log2 bytes whose home lies on a die (none: no directory entry says). (DEDUCED: log 33.) -/
def leafOf (e log2 : Nat) (homeDie : Option Nat) : Option Leaf :=
  let tier := e / 2 ^ 62
  let port := e / 2 ^ 60 % 4
  let frame := e / 2 ^ 16 % 2 ^ 36
  if tier = 3 ∨ (tier ≠ 2 ∧ port ≠ 0) ∨ e / 2 ^ 52 % 2 ^ 8 ≠ 0 ∨ e / 2 ^ 8 % 2 ^ 8 ≠ 0 ∨ e / 4 % 16 ≠ 0 ∨
      frame % 2 ^ (log2 - 16) ≠ 0 ∨ (tier = 0 ∧ (homeDie.getD (frame / 786432) ≠ frame / 786432 ∨ 3 < frame / 786432)) ∨
      (tier = 1 ∧ 12582912 ≤ frame) then none
  else some { tier, port, addr := frame * 2 ^ 16, repl := e / 2 ^ 7 % 2 = 1, cw := e / 2 ^ 6 % 2 = 1, log2 }

/-- Walk the translation table from an entry of a level; each level: index low bit, index bits, whether a leaf may stand there, its size. (DEDUCED: log 33.) -/
def walkTransFrom (m : List Host.Cell) (dev : Nat) (va : W64) (hd : Option Nat) (kind addr : Nat) :
    List (Nat × Nat × Bool) → Except Nat Leaf
  | [] => .error 0x12
  | (lo, n, leaf) :: ls =>
    let e := phys64 m (keyOf kind dev (addr + va.toNat / 2 ^ lo % 2 ^ n * 8))
    if e % 4 = 0 then .error 0x10
    else if e % 4 = 2 then
      if leaf then
        match leafOf e lo hd with
        | some l => .ok l
        | none => .error 0x12
      else .error 0x12
    else if e % 4 = 3 ∨ ls = [] then .error 0x12
    else match tableOf e with
      | none => .error 0x12
      | some (kind', addr') => walkTransFrom m dev va hd kind' addr' ls

/-- Whether a page is present and holds an address. -/
def Page.has (p : Page) (va : W64) : Bool := p.state ≠ .absent && decide (va.toNat / 2 ^ p.log2 = p.base.toNat / 2 ^ p.log2)

/-- The directory entry of the page that an address names on a module (R204, R213, R214): the module's own page; where it maps none, the page that
another module of the partition maps there, the lowest ordinal first. (DESIGN CHOICE: log 76.) -/
def pageOf (s : State) (dev : Nat) (va : W64) : Option Page :=
  match s.pages.find? fun p => p.dev = dev && p.has va with
  | some p => some p
  | none => s.devs.findSome? fun d => s.pages.find? fun p => p.dev = d.1 && p.has va

/-- The device whose directory holds an address: the page's, or the accessing core's own where no page is mapped. (DESIGN CHOICE: log 76.) -/
def devFor (s : State) (flat : Nat) (va : W64) : Nat :=
  match pageOf s (ordOf flat) va with
  | some p => p.dev
  | none => ordOf flat

/-- An address as its device's bytes: the device with the address, which tells equal addresses of two modules apart. -/
def vaId (s : State) (flat : Nat) (va : W64) : Nat := devFor s flat va * 2 ^ 64 + va.toNat

/-- The address of an identified byte. -/
def vaOfId (i : Nat) : W64 := BitVec.ofNat 64 i

/-- The directory slice of an address on a device: its flat core number (R213). (DEDUCED: log 75.) -/
def dirSlice (dev : Nat) (va : W64) : Nat :=
  let n := va.toNat / 2 ^ 16 % 2 ^ 41
  dev * 1024 + n % 4 * 256 + ((n / 4 % 256) ^^^ (n / 1024 % 256) ^^^ (n / 2 ^ 18 % 256))

/-- Walk the translation table of a device (R214), whose root is read in GDDR 7. (DESIGN CHOICE: log 198.) -/
def walkTrans (s : State) (dev : Nat) (va : W64) : Except Nat Leaf :=
  let hd := (pageOf s dev va).map fun p => p.home / 256 % 4
  walkTransFrom s.mem dev va hd 0 (s.dev dev).transRoot [(39, 18, false), (30, 9, true), (21, 9, true), (16, 5, true)]

/-- Whether a cached leaf translates an address. -/
def CachedLeaf.holds (c : CachedLeaf) (va : W64) : Bool := decide (va.toNat / 2 ^ c.leaf.log2 = c.base.toNat / 2 ^ c.leaf.log2)

/-- The die whose home translation unit translates an address: its home's, or its directory slice's. -/
def unitDie (s : State) (dev : Nat) (va : W64) : Nat :=
  match pageOf s dev va with
  | some p => p.home / 256
  | none => dirSlice dev va / 256

/-- Translate an address on a device: by the cache of the home's translation unit, or by a walk (R214); the reasons are NOTPRESENT and TFORMAT of
R217. -/
def translate (s : State) (dev : Nat) (va : W64) : Except Nat Leaf :=
  match (s.die (unitDie s dev va)).leaves.find? (·.holds va) with
  | some c => .ok c.leaf
  | none => walkTrans s dev va

/-- A home translation unit that has walked for an address keeps the leaf among its 4,096 most recent (R214). -/
def keepLeaf (s : State) (dev : Nat) (va : W64) : State :=
  match translate s dev va with
  | .ok l =>
    let c : CachedLeaf := ⟨BitVec.ofNat 64 (va.toNat / 2 ^ l.log2 * 2 ^ l.log2), l⟩
    s.modDie (unitDie s dev va) fun d => { d with leaves := (c :: d.leaves.erase c).take 4096 }
  | .error _ => s

/-- The cell of an address under a leaf. -/
def Leaf.key (l : Leaf) (dev : Nat) (va : W64) : Nat :=
  if l.tier = 2 then keyOf 2 dev (l.port * 2 ^ 52 + l.addr + va.toNat % 2 ^ l.log2)
  else keyOf l.tier dev (l.addr + va.toNat % 2 ^ l.log2)

/-- The home slice of an address: its page's home, or its directory slice. -/
def homeOf (s : State) (flat : Nat) (va : W64) : Nat :=
  match regionOf va with
  | .spad own pos _ => (spadAt flat own pos 0).1
  | _ =>
    match pageOf s (ordOf flat) va with
    | some p => p.home
    | none => dirSlice (ordOf flat) va

/-- The lines that `n` bytes at `a` touch. -/
def linesOf (a : W64) (n : Nat) : List W64 :=
  if n = 0 then []
  else (List.range ((a.toNat % 64 + n + 63) / 64)).map fun i => lineOf a + BitVec.ofNat 64 (64 * i)

/-- An access cut at 64 KiB granules: (address, bytes). -/
def pieces : Nat → W64 → Nat → List (W64 × Nat)
  | 0, _, _ => []
  | f + 1, a, n =>
    if n = 0 then []
    else
      let g := min n (0x10000 - a.toNat % 0x10000)
      (a, g) :: pieces f (a + BitVec.ofNat 64 g) (n - g)

def piecesOf (a : W64) (n : Nat) : List (W64 × Nat) := pieces (n / 0x10000 + 2) a n

/-- Whether an address lies on a replicated page. -/
def isReplicated (s : State) (flat : Nat) (va : W64) : Bool :=
  match pageOf s (ordOf flat) va with
  | some p => p.state = .replicated
  | none => false

/-- The mapping of a part that holds an address. -/
def stashOf (p : Part) (va : W64) : Option Stash :=
  p.stash.find? fun m => decide (m.g.toNat ≤ va.toNat) && decide (va.toNat < m.g.toNat + m.size)

/-- Whether the scratchpad line that a mapping of a core lends to a line is marked lost (R29). -/
def Stash.lineLost (m : Stash) (s : State) (flat : Nat) (va : W64) : Bool :=
  (s.core flat).spadLost.contains ((m.p + ((lineOf va).toNat - m.g.toNat)) / 64 * 64)

/-- Whether a part's stash holds a line, dirty where asked, in a scratchpad line that is lost. -/
def stashLost (s : State) (k : Nat) (va : W64) (dirty : Bool) : Bool :=
  match stashOf (s.part k) va with
  | some m => (mfind m.lines (lineOf va).toNat).any (fun d => d || !dirty) && m.lineLost s (flatOf k) va
  | none => false

/-- Whether the line of an address is marked lost (R29, R206): at its home, in the scratchpad, or in the stash that holds it dirty. -/
def isLost (s : State) (flat : Nat) (va : W64) : Bool :=
  match regionOf va with
  | .shared =>
    (match pageOf s (ordOf flat) va with
    | some p => p.lost.contains (lineOf va)
    | none => false) ||
    s.parts.any fun kp => !kp.2.stash.isEmpty && devFor s (flatOf kp.1) va = devFor s flat va && stashLost s kp.1 va true
  | .spad own pos off => let (f, o) := spadAt flat own pos off; (s.core f).spadLost.contains (o / 64 * 64)
  | _ => false

/-- Whether the data of an address is lost to a part: as above, or in its own stash line, clean or dirty. -/
def lostTo (s : State) (w : Who) (va : W64) : Bool := isLost s w.flat va || stashLost s w.k va false

/-- Whether an address translates to the host aperture. -/
def isHostVa (s : State) (flat : Nat) (va : W64) : Bool :=
  match regionOf va with
  | .shared =>
    match translate s (devFor s flat va) va with
    | .ok l => l.tier = 2
    | .error _ => false
  | _ => false

/-! ## Homes -/

/-- The cell that holds an address at its home (the primary home of a replicated page), none where it does not translate. -/
def homeKey (s : State) (flat : Nat) (va : W64) : Option Nat :=
  match regionOf va with
  | .spad own pos off => let (f, o) := spadAt flat own pos off; some (spadKey f o)
  | .shared =>
    let dev := devFor s flat va
    match translate s dev va with
    | .ok l => some (l.key dev va)
    | .error _ => none
  | _ => none

/-- The cell that a load of a core reads: its die's replica of a replicated page (R173), else the home's. -/
def loadKey (s : State) (flat : Nat) (va : W64) : Option Nat :=
  match pageOf s (ordOf flat) va with
  | some p =>
    if p.state = .replicated && p.dev = ordOf flat then
      match p.replicas[dieOf flat % 4]? with
      | some lw =>
        match leafOf lw.toNat p.log2 none with
        | some l => some (l.key p.dev va)
        | none => homeKey s flat va
      | none => homeKey s flat va
    else homeKey s flat va
  | none => homeKey s flat va

/-- The byte at an address's home. -/
def homeByte (s : State) (flat : Nat) (va : W64) : Byte :=
  match homeKey s flat va with
  | some k => memRead s.mem k
  | none => memDefault

def homeBytes (s : State) (flat : Nat) (va : W64) (n : Nat) : List Byte :=
  (List.range n).map fun i => homeByte s flat (va + BitVec.ofNat 64 i)

/-- The number in `n` bytes at an address's home. -/
def homeNum (s : State) (flat : Nat) (va : W64) (n : Nat) : Nat := ofBytes (homeBytes s flat va n)

/-! ## Watches and Damask pulses -/

/-- A drop that a core meets is counted in its module's health record (R356, R362, R509). -/
def dropAt (s : State) (flat : Nat) : State := s.modDev (ordOf flat) fun d => { d with drops := d.drops + 1 }

/-- Every counter of a mask has a reach pending; an empty mask is never satisfied (R258). -/
def DTerm.met (d : Damask) (mask : BitVec 16) : Bool :=
  mask ≠ 0 && (List.finRange 16).all fun i => !mask.getLsbD i.val || decide (1 ≤ (d.ctrs[i]).pend)

/-- Lower by one the pending reaches of the counters of a mask. -/
def Damask.spend (d : Damask) (mask : BitVec 16) : Damask :=
  { d with ctrs := Vector.ofFn fun i : Fin 16 => if mask.getLsbD i.val then { d.ctrs[i] with pend := d.ctrs[i].pend - 1 } else d.ctrs[i] }

/-- Evaluate one term: the programme after it, and whether it fires. -/
def Damask.term (d : Damask) (t : DTerm) : Damask × Bool :=
  if !t.en then (d, false)
  else if DTerm.met d t.maskA then (d.spend t.maskA, true)
  else if DTerm.met d t.maskB then (d.spend t.maskB, true)
  else (d, false)

/-- Evaluate T0 to T7 in order, each on what the earlier ones left: those that fire stand in `fired` until their targets act (R258, R260). -/
def Damask.eval (d : Damask) : Damask :=
  let (e, fs) := (List.finRange 8).foldl (fun (x : Damask × List (Fin 8 × DTerm)) (i : Fin 8) =>
    let (d1, fires) := x.1.term d.terms[i]
    (d1, if fires then x.2 ++ [(i, d.terms[i])] else x.2)) (d, [])
  if fs.isEmpty then e else { e with fired := e.fired ++ [fs] }

/-- Evaluate cc by cc until no term is satisfied. Each firing takes a pending reach of some counter, of which there are at most 16 × 255. -/
def Damask.settle (d : Damask) : Nat → Damask
  | 0 => d
  | n + 1 => if d.eval.fired.length = d.fired.length then d else d.eval.settle n

/-- The rounds of evaluation that suffice. -/
def dRounds : Nat := 16 * 255 + 1

/-- The terms have seen every pulse. -/
def Damask.seen (d : Damask) : Damask := { d.settle dRounds with fresh := none }

/-- The counters of an input add a pulse (R258). -/
def Damask.count (d : Damask) (input : Nat) : Damask :=
  let step (d : Damask) (i : Nat) : Damask :=
    match d.ctrs[i]? with
    | none => d
    | some c =>
      if c.en && c.input = input then
        if c.thresh ≤ c.count + 1 then
          if c.pend = 255 then { d with ctrs := d.ctrs.set! i { c with count := 0 }, xovf := true }
          else { d with ctrs := d.ctrs.set! i { c with count := 0, pend := c.pend + 1 } }
        else { d with ctrs := d.ctrs.set! i { c with count := c.count + 1 } }
      else d
  (List.range 16).foldl step d

/-- A pulse of an input in a step (R257, R258, R260): the counters take it; the pulses of one step, each of another input, are those of one cc, and the terms are
evaluated after them and before any later pulse. (DESIGN CHOICE: log 43.) -/
def Damask.pulse (d : Damask) (now input : Nat) : Damask :=
  let with_ := match d.fresh with
    | some (n, is) => if n = now && !is.contains input then some is else none
    | none => none
  match with_ with
  | some is => { d.count input with fresh := some (now, input :: is) }
  | none => { d.seen.count input with fresh := some (now, [input]) }

/-- A pulse of a Damask input of the part in a partition. -/
def pulse (s : State) (k : Nat) (input : Nat) : State :=
  if idxOf k = 3 then s else s.modPart k fun p => { p with damask := p.damask.pulse s.steps input }

/-- A pulse of a Damask input of the part of a context on a core. -/
def pulseOf (s : State) (flat c : Nat) (input : Nat) : State := s.modPartOf flat c fun p => { p with damask := p.damask.pulse s.steps input }

/-- Set the event latch (R255); a part that sleeps in WFE wakes. (DEDUCED: log 42.) -/
def Part.setLatch (p : Part) (scope : Nat) : Part :=
  { p with latch := true, latchScope := max p.latchScope scope
           sleep := match p.sleep with
             | .wfe _ _ => .woken 1 0
             | x => x }

/-- Whether a watch's condition holds at its home (R251). -/
def watchTrue (s : State) (w : Watch) : Bool :=
  let v := homeNum s w.flat w.va w.size
  icond w.cond (8 * w.size) (v &&& w.mask.toNat) (w.value.toNat &&& w.mask.toNat)

/-- The waiter of a watch is told: its latch, and its Damask input 23. -/
def wakeWatcher (s : State) (w : Watch) : State :=
  if w.dpart then s.modPart (w.flat * 4 + 3) fun p => p.setLatch 0
  else pulseOf (s.modPartOf w.flat w.ctx fun p => p.setLatch 0) w.flat w.ctx 23

/-- Free an entry and wake its waiter (R251, R252). -/
def fireWatch (s : State) (w : Watch) : State := wakeWatcher { s with watches := s.watches.erase w } w

/-- The cell of a watched word, by which writes are matched with watches. -/
def watchKey (s : State) (w : Watch) : Option Nat := homeKey s w.flat w.va

/-- After a write of some cells at their homes: the armed watches of their words are evaluated (R251). -/
def fireWatches (s : State) (keys : List Nat) : State :=
  s.watches.foldl (fun s w =>
    match watchKey s w with
    | some wk =>
      if !w.polled && keys.any (fun k => decide (wk ≤ k) && decide (k < wk + w.size)) && watchTrue s w then fireWatch s w else s
    | none => s) s

/-- Write bytes at their homes as one write, after which the watches are evaluated. -/
def homeWriteAll (s : State) (flat : Nat) (bs : List (W64 × Byte)) : State :=
  let put (s : State) (b : W64 × Byte) : State :=
    match homeKey s flat b.1 with
    | some k => { s with mem := memWrite s.mem k b.2 }
    | none => s
  let s1 := bs.foldl put s
  if s1.watches.isEmpty then s1 else fireWatches s1 (bs.filterMap fun b => homeKey s1 flat b.1)

/-- Bytes with their addresses, from an address on. -/
def bytesFrom (va : W64) (bs : List Byte) : List (W64 × Byte) := ((List.range bs.length).map fun i => va + BitVec.ofNat 64 i).zip bs

/-- Write bytes from an address on at their homes. -/
def homeWrite (s : State) (flat : Nat) (va : W64) (bs : List Byte) : State := homeWriteAll s flat (bytesFrom va bs)

/-- The bytes of a line's stores in runs of consecutive addresses: each run is one write. -/
def runsOf : List (W64 × Byte) → List (List (W64 × Byte))
  | [] => []
  | b :: bs =>
    match runsOf bs with
    | (c :: r) :: rs => if c.1 = b.1 + 1 then (b :: c :: r) :: rs else [b] :: (c :: r) :: rs
    | rs => [b] :: rs

/-- Write bytes at their homes and, on replicated pages, at every replica (R192). (DESIGN CHOICE: log 35.) -/
def replicaWrite (s : State) (flat : Nat) (bs : List (W64 × Byte)) : State :=
  bs.foldl (fun s b =>
    match pageOf s (ordOf flat) b.1 with
    | some p =>
      if p.state = .replicated then
        p.replicas.foldl (fun s lw =>
          match leafOf lw.toNat p.log2 none with
          | some l => { s with mem := memWrite s.mem (l.key p.dev b.1) b.2 }
          | none => s) s
      else s
    | none => s) (homeWriteAll s flat bs)

/-! ## Stash lines (R240) and guest copies (R184, R185) -/

/-- Mark a line of a core's page lost (R206). -/
def markLost (s : State) (flat : Nat) (line : W64) : State :=
  match pageOf s (ordOf flat) line with
  | some p => { s with pages := s.pages.map fun q => if q = p && !q.lost.contains line then { q with lost := q.lost ++ [line] } else q }
  | none => s

/-- Write one line of a mapping back to its home; data that its scratchpad line has lost is lost at the home too (R29, R206). (DEDUCED: log 187.) -/
def stashWriteBack (s : State) (k : Nat) (m : Stash) (line : W64) : State :=
  if m.lineLost s (flatOf k) line then markLost s (flatOf k) line
  else homeWrite s (flatOf k) line (physBytes s.mem (spadKey (flatOf k) (m.p + (line.toNat - m.g.toNat))) 64)

/-- Set or clear a line of a mapping: `none` INVALID, `some dirty`. -/
def stashMark (s : State) (k : Nat) (g line : W64) (v : Option Bool) : State :=
  s.modPart k fun p =>
    { p with stash := p.stash.map fun m =>
        if m.g = g then
          { m with lines := match v with
              | some d => mset m.lines line.toNat d
              | none => mdel m.lines line.toNat }
        else m }

/-- Recall one line of a part's stash: written back when dirty, then INVALID (R240). -/
def stashRecallLine (s : State) (k : Nat) (line : W64) : State :=
  match stashOf (s.part k) line with
  | none => s
  | some m =>
    match mfind m.lines line.toNat with
    | none => s
    | some d => stashMark (if d then stashWriteBack s k m line else s) k m.g line none

/-- A spilled part holds no line of its mappings dirty (R150): a recalled line, or every one that a condition names, becomes INVALID. -/
def Part.dropLines (p : Part) (f : W64 → Bool) : Part :=
  if p.stash.isEmpty then p
  else { p with stash := p.stash.map fun m => { m with lines := m.lines.filter fun l => !f (BitVec.ofNat 64 l.1) } }

/-- Recall a line, as a core names it, from every part but one: those in partitions, and those whose mappings lie in a spill frame. -/
def recallOthers (s : State) (except : Option Nat) (flat : Nat) (line : W64) : State :=
  let s1 := s.parts.foldl (fun s kp =>
    if some kp.1 = except || kp.2.stash.isEmpty || devFor s (flatOf kp.1) line ≠ devFor s flat line then s else stashRecallLine s kp.1 line) s
  { s1 with away := s1.away.map fun a => (a.1, a.2.dropLines fun l => l = line && devFor s1 a.1 line = devFor s1 flat line) }

/-- Whether a line of an address is eligible for a guest copy on a core's die: device memory of the same package homed on another die. -/
def guestable (s : State) (flat : Nat) (va : W64) : Bool :=
  match regionOf va with
  | .shared =>
    match pageOf s (ordOf flat) va with
    | some p => p.dev = ordOf flat && decide (p.home / 256 ≠ dieOf flat) && p.state ≠ .replicated && !isHostVa s flat va
    | none => false
  | _ => false

def guestOf (s : State) (dk : Nat) (line : W64) : Option Guest := s.guests.find? fun g => g.dk = dk && g.line = line

def bv512 (bs : List Byte) : BitVec 512 := BitVec.ofNat 512 (ofBytes bs)
def bytes512 (x : BitVec 512) : List Byte := bytesOf 64 x.toNat

/-- The bytes of a guest copy that its die has stored. -/
def Guest.stored (g : Guest) : List (W64 × Byte) :=
  ((List.range 64).filter fun i => g.dirty.getLsbD i).map fun i => (g.line + BitVec.ofNat 64 i, g.data.extractLsb' (8 * i) 8)

/-- Write what a guest copy's die has stored through to its home (R184), which recalls every stash line there first (R240). -/
def guestWriteThrough (s : State) (g : Guest) : State :=
  if g.dirty = 0 then s
  else
    let s1 := (runsOf g.stored).foldl (fun s r => homeWriteAll s (dieBase g.dk) r) (recallOthers s none (dieBase g.dk) g.line)
    { s1 with guests := s1.guests.map fun h => if h = g then { h with dirty := 0 } else h }

/-- Write through and invalidate a die's guest copy of a line. -/
def guestDrop (s : State) (dk : Nat) (line : W64) : State :=
  match guestOf s dk line with
  | none => s
  | some g =>
    let s1 := guestWriteThrough s g
    { s1 with guests := s1.guests.filter fun h => !(h.dk = dk && h.line = line) }

/-- Before an access acts at a line's home: the issuing die's guest copy is written and invalidated, and every stash line is recalled (R184, R240). -/
def toHome (s : State) (flat : Nat) (line : W64) : State :=
  recallOthers (guestDrop s (dieOf flat) line) none flat line

/-- The stash lines of the parts of a die whose homes lie on another die follow the guest rules (R171, R240). -/
def stashGuestLines (s : State) (dk : Nat) : List (Nat × W64 × W64 × Bool) :=
  s.parts.flatMap fun kp =>
    if dieOf (flatOf kp.1) = dk then
      kp.2.stash.flatMap fun m =>
        m.lines.filterMap fun l =>
          let va := BitVec.ofNat 64 l.1
          if homeOf s (flatOf kp.1) va / 256 ≠ dk then some (kp.1, m.g, va, l.2) else none
    else []

/-- Lines of spilled parts of a die whose homes lie on another die, and which a condition names, are dropped. -/
def awayGuestLines (s : State) (dk : Nat) (f : W64 → Bool) : State :=
  { s with away := s.away.map fun a => if dieOf a.1 = dk then (a.1, a.2.dropLines fun l => f l && homeOf s a.1 l / 256 ≠ dk) else a }

/-- A release of scope pkg or wider: every dirty guest line of the die is written to its home (R184). -/
def releaseDie (s : State) (dk : Nat) : State :=
  let s1 := s.guests.foldl (fun s g => if g.dk = dk then guestWriteThrough s g else s) s
  (stashGuestLines s1 dk).foldl (fun s e =>
    if e.2.2.2 then
      match stashOf (s.part e.1) e.2.2.1 with
      | some m => stashMark (stashWriteBack s e.1 m e.2.2.1) e.1 e.2.1 e.2.2.1 (some false)
      | none => s
    else s) s1

/-- An acquire of scope pkg or wider: written through, then every guest copy of the die is invalidated (R184). -/
def acquireDie (s : State) (dk : Nat) : State :=
  let s1 := releaseDie s dk
  let s2 := { s1 with guests := s1.guests.filter fun g => g.dk ≠ dk }
  awayGuestLines ((stashGuestLines s2 dk).foldl (fun s e => stashMark s e.1 e.2.1 e.2.2.1 none) s2) dk fun _ => true

/-- The memory side of a release of a scope (R178, R183): guest lines for pkg and wider. -/
def releaseAt (s : State) (flat scope : Nat) : State := if 3 ≤ scope then releaseDie s (dieOf flat) else s
/-- The memory side of an acquire of a scope. -/
def acquireAt (s : State) (flat scope : Nat) : State := if 3 ≤ scope then acquireDie s (dieOf flat) else s

/-- Whether the earlier stores of a partition have been performed (R183): none in its core's store buffer, no destination on its way. -/
def storesDone (s : State) (k : Nat) : Bool :=
  let c := s.core (flatOf k)
  !(c.sbuf.any fun e => e.k = k) && !(c.mcast.any fun e => e.k = k)

/-! ## The checks of an access (R170, R196, R205, R209 to R217) -/

/-- Find the PLB entry for an address, walking on a miss; the entry found becomes the most recent (R209, R210). The walk reads its tables with an
acquire of scope pkg. -/
def plbFind (s : State) (flat : Nat) (dom : Half) (va : W64) : Except Nat (State × PlbEnt) :=
  let plb := (s.core flat).plb
  match plb.find? (·.holds dom va) with
  | some e => .ok (s.modCore flat fun c => { c with plb := e :: plb.erase e }, e)
  | none =>
    let s := acquireAt s flat 3
    match walkRights s (ordOf flat) dom va with
    | .error r => .error r
    | .ok e => .ok (s.modCore flat fun c => { c with plb := (e :: plb).take 256 }, e)

/-- The scratchpad range of a context in a slice (R170). -/
def sprOf (s : State) (ctx flat : Nat) : Nat × Nat :=
  match (s.ctx ctx).spr.find? (·.1 = flat) with
  | some r => r.2
  | none => (0, 0)

/-- The stash mappings of a context's part on a core, in its partition or in its spill frame (R239, R241). -/
def stashesOn (s : State) (flat c : Nat) : List Stash :=
  ([0, 1, 2].flatMap fun q => if (s.part (flat * 4 + q)).ctx = c && (s.part (flat * 4 + q)).st ≠ .free then (s.part (flat * 4 + q)).stash else []) ++
  (s.away.flatMap fun a => if a.1 = flat && a.2.ctx = c then a.2.stash else [])

/-- The first byte of an access to a scratchpad slice that the context may not reach: outside its range (R170), or lent to a stash
mapping of its part on that core (R239). -/
def spadBad (s : State) (w : Who) (flat off n : Nat) : Option Nat :=
  let (lo, len) := sprOf s w.ctx flat
  let mine := stashesOn s flat w.ctx
  let bad (i : Nat) : Bool :=
    decide (off + i < lo) || decide (lo + len ≤ off + i) ||
    (mine.any fun m => decide (m.p ≤ off + i) && decide (off + i < m.p + m.size))
  (List.range n).find? bad

/-- Rights of one piece (R170, R196, R209, R211): PROT with its reason, or the state with the PLB brought up to date. -/
def checkRightsPiece (s : State) (w : Who) (acc : Acc) (a : W64) (n : Nat) : Except AErr State :=
  match regionOf a with
  | .nonCanon => .error ⟨3, 0x01, a, none, false⟩
  | .window => .error ⟨3, 0x02, a, none, false⟩
  | .spad own pos off =>
    let (flat, o) := spadAt w.flat own pos off
    match spadBad s w flat o n with
    | some i => .error ⟨3, 0x03, a + BitVec.ofNat 64 i, none, false⟩
    | none => if acc = .fetch then .error ⟨3, 0x05, a, none, false⟩ else .ok s
  | .shared =>
    match plbFind s w.flat (s.ctx w.ctx).domain a with
    | .error r => .error ⟨3, r, a, some (s.core w.flat).plb, false⟩
    | .ok (s', e) =>
      if !e.grants acc then .error ⟨3, 0x05, a, some (s'.core w.flat).plb, false⟩
      else if e.replica && (acc = .write || acc = .atomic) then .error ⟨3, 0x06, a, some (s'.core w.flat).plb, false⟩
      else .ok s'

/-- Presence of one piece (R205, R214, R215, R217): the reasons NOTPRESENT, COPYWRITE and TFORMAT. A store keeps the granule in the
presence cache. -/
def checkPresentPiece (s : State) (w : Who) (acc : Acc) (a : W64) : Except AErr State :=
  match regionOf a with
  | .shared =>
    match translate s (devFor s w.flat a) a with
    | .error r => .error ⟨0x10, r, a, some (s.core w.flat).plb, false⟩
    | .ok l =>
      if l.cw && (acc = .write || acc = .atomic) then .error ⟨0x10, 0x11, a, some (s.core w.flat).plb, false⟩
      else if acc = .write then
        let g := a.toNat / 2 ^ 16
        .ok (s.modCore w.flat fun c => { c with pres := (g :: c.pres.erase g).take 64 })
      else .ok s
  | _ => .ok s

/-- DEDUCED: log 34. -/
def foldPieces (f : State → W64 → Nat → Except AErr State) (s : State) : List (W64 × Nat) → Except AErr State
  | [] => .ok s
  | (a, n) :: ps =>
    match f s a n with
    | .error e => .error e
    | .ok s' => foldPieces f s' ps

/-- Whether the rights check of a piece misses in the PLB and so walks (R209). -/
def walks (s : State) (w : Who) (a : W64) : Bool :=
  match regionOf a with
  | .shared => !(s.core w.flat).plb.any (·.holds (s.ctx w.ctx).domain a)
  | _ => false

/-- The rights of pieces in order: the state after them and whether any has walked. -/
def foldRights (w : Who) (acc : Acc) : List (W64 × Nat) → State → Bool → Except AErr (State × Bool)
  | [], s, wk => .ok (s, wk)
  | (a, n) :: ps, s, wk =>
    let wk1 := wk || walks s w a
    match checkRightsPiece s w acc a n with
    | .error e => .error { e with walked := wk1 }
    | .ok s1 => foldRights w acc ps s1 wk1

/-- Every byte of every range is checked for its rights, an atomic for the reason REPLICA of a replicated page as well, then every one for its
presence (R176, R196, R225). (DEDUCED: log 34.) -/
def checkAccess (s : State) (w : Who) (acc : Acc) (ranges : List (W64 × Nat)) : Except AErr State :=
  let ps := ranges.flatMap fun r => piecesOf r.1 r.2
  match foldRights w acc ps s false with
  | .error e => .error e
  | .ok (s1, wk) =>
    match (if acc = .atomic then ps.find? fun r => isReplicated s1 w.flat r.1 else none) with
    | some r => .error ⟨3, 0x06, r.1, some (s1.core w.flat).plb, wk⟩
    | none =>
      match foldPieces (fun s a _ => checkPresentPiece s w acc a) s1 ps with
      | .error e => .error { e with walked := wk }
      | .ok s2 => .ok s2

/-! ## The directory's part of an access -/

/-- An access that reaches the home of an address (R214, R220): where it misses in the L2, it counts at the address's page, and the home's translation
unit walks. Whether it misses is a free value. -/
def hot (s : State) (flat : Nat) (va : W64) : State :=
  match regionOf va with
  | .shared =>
    if Config.l2Miss s.free then
      let q := yOf flat / 8 * 2 + xOf flat / 8
      let s1 := keepLeaf s (devFor s flat va) va
      { s1 with
        free := s.free + 1
        pages := s1.pages.map fun p =>
          if p.dev = devFor s flat va && p.has va then
            { p with
              total := min (p.total + 1) 65535
              quad := if p.home / 256 = dieOf flat then p.quad.set q (min (p.quad.getD q 0 + 1) 255) else p.quad }
          else p }
    else { s with free := s.free + 1 }
  | _ => s

/-- Whether a load of a core is served by its own die's replica, and not by the primary home (R173). -/
def ownReplica (s : State) (flat : Nat) (va : W64) : Bool :=
  match pageOf s (ordOf flat) va with
  | some p => p.state = .replicated && p.dev = ordOf flat && (p.replicas[dieOf flat % 4]?).isSome
  | none => false

/-- As `hot` for a load: hotness is counted at the primary home only (R225). -/
def hotLoad (s : State) (flat : Nat) (va : W64) : State :=
  if ownReplica s flat va then { s with free := s.free + 1 } else hot s flat va

/-- Keep the home of a granule in the core's home hint buffer (R213). -/
def hint (s : State) (flat : Nat) (va : W64) : State :=
  match regionOf va, pageOf s (ordOf flat) va with
  | .shared, some p =>
    if p.home ≠ dirSlice p.dev va then
      let g := va.toNat / 2 ^ 16
      s.modCore flat fun c => { c with hints := ((g, p.home) :: c.hints.filter (·.1 ≠ g)).take 32 }
    else s
  | _, _ => s

/-- A guest copy of a line may be filled (R171). -/
def fillGuest (s : State) (flat : Nat) (line : W64) : State :=
  if guestable s flat line && (guestOf s (dieOf flat) line).isNone then
    if Config.guestFill s.free then
      { s with free := s.free + 1, guests := s.guests ++ [⟨dieOf flat, line, bv512 (homeBytes s flat line 64), 0⟩] }
    else { s with free := s.free + 1 }
  else s

/-- A part's access to a line that no stash mapping of it holds: an L2 miss is counted, the home's hint is kept. -/
def visit (s : State) (w : Who) (line : W64) : State :=
  hint (hotLoad (if Config.l2Miss s.free then perf s w.k 4 1 else s) w.flat line) w.flat line

/-- A scratchpad line that is written whole is lost no longer (R206). -/
def spadHeal (s : State) (flat off : Nat) : State :=
  if (s.core flat).spadLost.contains off then s.modCore flat fun c => { c with spadLost := c.spadLost.erase off } else s

/-- A line of a stash mapping is filled from the home, once the die's own guest copy has gone there, or from the die's replica (R240, R241). -/
def stashFill (s : State) (w : Who) (m : Stash) (line : W64) : State :=
  let s1 := hint (guestDrop s (dieOf w.flat) line) w.flat line
  let bs := (List.range 64).map fun i =>
    match loadKey s1 w.flat (line + BitVec.ofNat 64 i) with
    | some k => memRead s1.mem k
    | none => memDefault
  let s2 := { s1 with mem := memWriteBytes s1.mem (spadKey w.flat (m.p + (line.toNat - m.g.toNat))) bs }
  stashMark (spadHeal s2 w.flat (m.p + (line.toNat - m.g.toNat))) w.k m.g line (some false)

/-- Before a line is read or written by a part: other parts' stash lines are recalled, the part's own stash line is filled, or a guest copy
may be filled (R184, R240). -/
def prepLine (s : State) (w : Who) (line : W64) : State :=
  match regionOf line with
  | .shared =>
    let s1 := recallOthers s (some w.k) w.flat line
    match stashOf (s1.part w.k) line with
    | some m =>
      if isHostVa s1 w.flat line then visit s1 w line
      else if (mfind m.lines line.toNat).isSome then s1
      else stashFill s1 w m line
    | none => fillGuest (visit s1 w line) w.flat line
  | _ => s

def prepLines (s : State) (w : Who) (ls : List W64) : State := ls.foldl (fun s l => prepLine s w l) s

/-- The committed byte that a load of a part reads, after `prepLine`. -/
def loadByte (s : State) (w : Who) (va : W64) : Byte :=
  match regionOf va with
  | .shared =>
    let own := match stashOf (s.part w.k) va with
      | some m => if (mfind m.lines (lineOf va).toNat).isSome then some (spadKey w.flat (m.p + (va.toNat - m.g.toNat))) else none
      | none => none
    match own with
    | some k => memRead s.mem k
    | none =>
      match (if guestable s w.flat va then guestOf s (dieOf w.flat) (lineOf va) else none) with
      | some g => (g.data.extractLsb' (8 * (va.toNat % 64)) 8)
      | none =>
        match loadKey s w.flat va with
        | some k => memRead s.mem k
        | none => memDefault
  | _ => homeByte s w.flat va

/-- What a plain load meets in its core's store buffer (R177): every byte from its own partition's newest stores, or the value below. -/
inductive Fwding where
  | none
  | all (bs : List Byte)
  | mixed
  deriving DecidableEq, Repr

/-- An address as the cluster names its location: the own-slice window is a second name of a core's slice (R169). -/
def canonVa (flat : Nat) (va : W64) : W64 :=
  match regionOf va with
  | .spad true _ off => BitVec.ofNat 64 (0xFFFFFFFFF0000000 + posOf flat * 0x80000 + off)
  | _ => va

/-- The newest buffered byte of a partition at a location. -/
def bufByte (flat : Nat) (es : List StoreEnt) (k : Nat) (va : W64) : Option Byte :=
  let a := canonVa flat va
  es.foldl (fun o e => if e.k = k then (e.bytes.foldl (fun o b => if canonVa flat b.1 = a then some b.2 else o) o) else o) none

/-- DEDUCED: log 83. -/
def forwardOf (s : State) (k : Nat) (vas : List W64) : Fwding :=
  let es := (s.core (flatOf k)).sbuf
  let bs := vas.map (bufByte (flatOf k) es k)
  if bs.all Option.isNone then .none
  else if bs.all Option.isSome then .all (bs.map fun o => o.getD 0)
  else .mixed

/-! ## Error records (R195) -/

/-- Reserve a slot of a context's error queue and write a record into it, its KIND last, as a release of scope part: the slot's address, or 0 where the
record was dropped. -/
def writeRecord (s : State) (c : Nat) (flat : Nat) (rec : List Byte) : State × W64 :=
  let q := (s.ctx c).errq
  match homeKey s flat q with
  | none => (s, 0)
  | some _ =>
    let s := toHome s flat (lineOf q)
    let prod := homeNum s flat q 8
    let cons := homeNum s flat (q + 8) 8
    if (prod + 2 ^ 64 - cons) % 2 ^ 64 < 64 then
      let slot := q + 64 + BitVec.ofNat 64 (64 * (prod % 64))
      let taken := homeNum s flat (q + 24) 8
      let s1 := homeWrite s flat q (bytesOf 8 (prod + 1))
      let s2 := homeWrite s1 flat (q + 24) (bytesOf 8 (taken &&& (2 ^ 64 - 1 - 2 ^ (prod % 64))))
      let s3 := homeWrite (toHome s2 flat (lineOf slot)) flat (slot + 1) (rec.drop 1)
      (homeWrite (releaseAt s3 flat 4) flat slot (rec.take 1), slot)
    else (homeWrite s flat (q + 16) (bytesOf 8 (homeNum s flat (q + 16) 8 + 1)), 0)

/-- Mark a record taken (R195). -/
def markTaken (s : State) (c : Nat) (flat : Nat) (slot : W64) : State :=
  let q := (s.ctx c).errq
  if slot = 0 then s
  else
    let n := (slot.toNat - (q + 64).toNat) / 64
    let s := toHome s flat (lineOf q)
    homeWrite s flat (q + 24) (bytesOf 8 (homeNum s flat (q + 24) 8 ||| 2 ^ (n % 64)))

/-- The record of an MCHECK (R514). -/
def mcheckRecord (src acc flat : Nat) (pc addr line : W64) : List Byte :=
  record64 [(0, 1, 0x0E), (1, 1, 0x0C), (2, 1, src), (3, 1, acc), (4, 4, flat), (8, 8, pc.toNat), (16, 8, addr.toNat), (24, 8, line.toNat)]

/-- Write the record of an MCHECK; the health record of the module keeps a copy of the latest (R509, R514). (DEDUCED: log 166.) -/
def mcheckWrite (s : State) (c flat : Nat) (rec : List Byte) : State × W64 :=
  writeRecord (s.modDev (ordOf flat) fun d => { d with lastmc := rec }) c flat rec

/-! ## Stores performed (R177, R182, R206, R225) -/

/-- The narrowest scope code that covers two cores (R178). -/
def scopeOf (a b : Nat) : Nat :=
  if a = b then 0 else if clOf a = clOf b then 1 else if dieOf a = dieOf b then 2 else if ordOf a = ordOf b then 3 else 4

/-- The scope that covers a core and the home of an address; a host location needs sys. -/
def scopeTo (s : State) (flat : Nat) (va : W64) : Nat :=
  if isHostVa s flat va then 5 else scopeOf flat (homeOf s flat va)

def addDeferred (s : State) (k : Nat) (d : Deferred) : State :=
  s.modPart k fun p => { p with deferred := p.deferred ++ [d] }

/-- Write bytes of one line where the part's stores to it go: its stash line, its die's guest copy, or the home (R171, R184, R240). (DEDUCED: log 38.) -/
def lineWrite (s : State) (w : Who) (line : W64) (bs : List (W64 × Byte)) : State :=
  let wr (s : State) : State := (runsOf bs).foldl (fun s r => homeWriteAll s w.flat r) s
  match regionOf line with
  | .shared =>
    let s2 := prepLine s w line
    match stashOf (s2.part w.k) line with
    | some m =>
      if (mfind m.lines line.toNat).isSome then
        let s3 := bs.foldl (fun s b => { s with mem := memWrite s.mem (spadKey w.flat (m.p + (b.1.toNat - m.g.toNat))) b.2 }) s2
        stashMark (if bs.length < 64 then s3 else spadHeal s3 w.flat (m.p + (line.toNat - m.g.toNat))) w.k m.g line (some true)
      else wr s2
    | none =>
      match guestOf s2 (dieOf w.flat) line with
      | some g =>
        let d := bs.foldl (fun d b => putAt d (b.1.toNat % 64) 1 b.2.toNat) (bytes512 g.data)
        let m := bs.foldl (fun (m : BitVec 64) b => m ||| BitVec.ofNat 64 (2 ^ (b.1.toNat % 64))) g.dirty
        { s2 with guests := s2.guests.map fun h => if h = g then { h with data := bv512 d, dirty := m } else h }
      | none => wr s2
  | _ => wr s

/-- Lines, as a core names them, that are written whole are lost no longer (R206). -/
def healLines (s : State) (flat : Nat) (ls : List W64) : State :=
  let slot (l : W64) : Option (Nat × Nat) := match regionOf l with
    | .spad own pos off => some (spadAt flat own pos off)
    | _ => none
  let s1 := (ls.filterMap slot).foldl (fun s x => s.modCore x.1 fun c => { c with spadLost := c.spadLost.erase x.2 }) s
  { s1 with pages := s1.pages.map fun p =>
      { p with lost := p.lost.filter fun l => !(ls.contains l && p.dev = devFor s flat l) } }

/-- A line that a unit of a launch stores to is one that the launch's fetches may find anew (R68). -/
def noteOwn (s : State) (w : Who) (line : W64) : State :=
  match (s.part w.k).launch with
  | none => s
  | some id =>
    let v := vaId s w.flat line
    { s with launches := s.launches.map fun l => if l.id = id && !l.own.contains v then { l with own := v :: l.own } else l }

/-- Bytes of one line of a plain store are performed. -/
def performLine (s : State) (w : Who) (line : W64) (bs : List (W64 × Byte)) : State :=
  match regionOf line with
  | .shared => lineWrite (abortForStore (noteOwn s w line) (vaId s w.flat line)) w line bs
  | _ => lineWrite s w line bs

/-- The granule of the path from a core to the home of an address (R175): 32 bytes on the die and at a guest copy, 16 beyond, 8 to the host. -/
def pathGranule (s : State) (flat : Nat) (va : W64) : Nat :=
  match regionOf va with
  | .shared =>
    if isHostVa s flat va then 8
    else if homeOf s flat va / 256 = dieOf flat || (guestOf s (dieOf flat) (lineOf va)).isSome then 32
    else 16
  | _ => 32

/-- The granule of its path that holds an address. -/
def granuleAt (s : State) (flat : Nat) (va : W64) : W64 :=
  BitVec.ofNat 64 (va.toNat / pathGranule s flat va * pathGranule s flat va)

/-- Whether a line has its home on a module that is lost, or that no link reaches: no access to it completes (R482, R489, R493). -/
def cutOff (s : State) (flat : Nat) (va : W64) : Bool :=
  let h := homeOf s flat va
  (s.dev (ordOf h)).lost || !crossing s flat h 0

/-- Whether bytes that an engine is to access lie there: it waits at them (R493). -/
def engineCut (s : State) (flat : Nat) (a : W64) (n : Nat) : Bool := (linesOf a n).any (cutOff s flat)

/-- One act of a plain store at the head of its buffer: a granule of it is performed, the granules in any order, those of a VSCAT lane by lane (R175, R177, R199). What lies on a replicated
page is dropped, with one record for the store (R193); a line that is lost is dropped where the store is partial there, and healed where it is whole
(R206, R514). What lies on a module that cannot be reached waits (R493). REASON bytes 17 to 23 of a record of a plain store are zero. (DESIGN CHOICE: log 188.) -/
def storeAct (s : State) (e : StoreEnt) (pick : Nat) : State × StoreEnt :=
  let w : Who := ⟨flatOf e.k, e.k, e.ctx⟩
  let gs := (e.left.map fun b => granuleAt s w.flat b.1).dedup
  match (if e.ordered then e.left.head?.map fun b => granuleAt s w.flat b.1 else gs[pick % gs.length]?) with
  | none => (s, { e with left := [] })
  | some g =>
    let line := lineOf g
    let now (b : W64 × Byte) : Bool := granuleAt s w.flat b.1 = g
    let here := e.left.filter fun b => lineOf b.1 = line
    let e1 := { e with left := e.left.filter fun b => lineOf b.1 ≠ line }
    let full := !e.ordered && (List.range 64).all fun i => e.bytes.any fun b => b.1 = line + BitVec.ofNat 64 i
    if cutOff s w.flat line then (s, e)
    else if isReplicated s w.flat line then
      if e.told then (s, e1)
      else
        let sc := scopeOf w.flat (homeOf s w.flat line)
        let (s1, slot) := writeRecord s w.ctx w.flat
          (record64 [(0, 1, 0x0D), (1, 1, 0x03), (2, 1, 1), (3, 1, sc), (8, 8, e.pc.toNat), (16, 1, 10), (24, 8, e.addr.toNat)])
        (addDeferred s1 w.k ⟨false, sc, 0x03, 0x06, slot⟩, { e1 with told := true })
    else if isLost s w.flat line then
      if full then (performLine (healLines s w.flat [line]) w line here, e1)
      else
        let (s1, slot) := mcheckWrite s w.ctx w.flat (mcheckRecord 1 1 w.flat e.pc e.addr line)
        (addDeferred s1 w.k ⟨false, scopeTo s w.flat line, 0x0C, 0, slot⟩, e1)
    else
      (performLine s w line (if e.ordered then e.left.takeWhile now else here.filter now),
       { e with left := if e.ordered then e.left.dropWhile now else e.left.filter fun b => !now b })

/-! ## The checks of an engine (R218, R235) -/

/-- Whether an access of `n` bytes covers a whole line. -/
def wholeLine (a : W64) (n : Nat) (l : W64) : Bool := decide (a.toNat ≤ l.toNat) && decide (l.toNat + 64 ≤ a.toNat + n)

/-- A condition an engine meets: trap code, reason, address; and what the access has left of the core's PLB, as in `AErr`. -/
structure EFault where
  code   : Nat
  reason : Nat
  addr   : W64
  plb    : Option (List PlbEnt) := none
  walked : Bool := false
  deriving DecidableEq, Repr

/-- The state after an access that failed: the walk's acquire has taken place, and an entry that a good walk installed stays (R209). -/
def afterWalk (s : State) (flat : Nat) (plb : Option (List PlbEnt)) (walked : Bool) : State :=
  let s1 := if walked then acquireAt s flat 3 else s
  match plb with
  | some l => s1.modCore flat fun c => { c with plb := l }
  | none => s1

/-- The state after an engine's access that failed. -/
def EFault.note (f : EFault) (s : State) (flat : Nat) : State := afterWalk s flat f.plb f.walked

/-- The condition an engine meets at an access of `n` bytes (R206, R211, R218, R225), else the state with the PLB up to date. (DEDUCED: log 36.) -/
def engineCheck (s : State) (w : Who) (acc : Acc) (a : W64) (n : Nat) : Except EFault State :=
  match checkAccess s w acc [(a, n)] with
  | .error e => .error ⟨e.code, e.reason, e.addr, e.plb, e.walked⟩
  | .ok s1 =>
    let walked := (piecesOf a n).any fun r => walks s w r.1
    let plb := some (s1.core w.flat).plb
    match (if acc = .write then (piecesOf a n).find? fun r => isReplicated s1 w.flat r.1 else none) with
    | some r => .error ⟨0x03, 0x06, r.1, plb, walked⟩
    | none =>
      match (linesOf a n).find? fun l => lostTo s1 w l && !(acc = .write && wholeLine a n l) with
      | some l => .error ⟨0x0C, 0, if l.toNat < a.toNat then a else l, plb, walked⟩
      | none => .ok s1

end Sys2Proof.Machine
end

