-- ==== Sys2Proof/Machine/Fate.lean ====
section
/-! DEFINITION. The addressed part of a message or transfer and what becomes of them (R354, R385). -/

namespace Sys2Proof.Machine

/-- The cases of R354. -/
inductive Fate where
  | live | spilled | evicting | unplaced | exited
  deriving DecidableEq, Repr

/-- Whether a launch of a context that is WAKING names a core whose unit has not started. -/
def unitPending (s : State) (flat c : Nat) : Bool :=
  s.launches.any fun l => l.ctx = c && l.st = .waking &&
    (List.range l.units.length).any fun i => l.units[i]? = some flat && !l.started.contains i

/-- The message scope of R353. -/
def msgScope (s : State) (a b : Nat) : Nat := if inPartition s b then max 1 (scopeOf a b) else 4

/-- The fate of what is addressed to the part of a context on a core, by the state of the part now. (DESIGN CHOICE: log 138.) -/
def fateOf (s : State) (flat c : Nat) : Fate :=
  if !(s.ctx c).live || !inPartition s flat then .exited
  else match s.placed flat c with
  | some k => if (s.part k).st = .evicting then .evicting else .live
  | none =>
    let ps := s.away.filter fun a => a.1 = flat && a.2.ctx = c
    if ps.any fun a => a.2.st = .spilled then .spilled
    else if ps.any fun a => a.2.st = .evicting then .evicting
    else if ps.any (fun a => a.2.st = .created) || unitPending s flat c then .unplaced
    else .exited

end Sys2Proof.Machine
end

