-- ==== Sys2Proof/Machine/Health.lean ====
section
/-! DEFINITION. The health record and the withdrawal of a unit (R28, R509). -/

namespace Sys2Proof.Machine

/-! ## The health record (R509) -/

/-- One bit of CRC-32 with the IEEE 802.3 polynomial, reflected. -/
def crcBit (c : Nat) : Nat := if c % 2 = 1 then (c / 2) ^^^ 0xEDB88320 else c / 2
def crcByte (c : Nat) (b : Byte) : Nat :=
  let x := c ^^^ b.toNat
  crcBit (crcBit (crcBit (crcBit (crcBit (crcBit (crcBit (crcBit x)))))))
def crc32 (bs : List Byte) : Nat := bs.foldl crcByte 0xFFFFFFFF ^^^ 0xFFFFFFFF

/-- The health record as it is written now. -/
def healthRecord (s : State) (dev : Nat) : List Byte :=
  let d := s.dev dev
  let body := bytesOf 8 (d.hseq + 1) ++ bytesOf 8 s.ftime ++ bytesOf 8 d.corr ++ bytesOf 8 d.uncorr ++ bytesOf 8 d.retired ++ bytesOf 8 d.drops ++
    d.lastmc.take 64 ++ bytesOf 8 d.cause ++ List.replicate 772 0
  body ++ bytesOf 4 (crc32 body)

/-- Write the record into the copy that holds the lower HSEQ. -/
def writeHealth (s : State) (dev : Nat) : State :=
  let r := healthRecord s dev
  s.modDev dev fun d =>
    if fieldAt d.healthB 0 8 < fieldAt d.healthA 0 8 then { d with hseq := d.hseq + 1, healthB := r } else { d with hseq := d.hseq + 1, healthA := r }

/-- A withdrawal is recorded (R28). -/
def withdraw (s : State) (dev : Nat) (r : Resource) : State :=
  if (s.dev dev).withdrawn.contains r then s else writeHealth (s.modDev dev fun d => { d with withdrawn := d.withdrawn ++ [r] }) dev

end Sys2Proof.Machine
end

