-- ==== Sys2Proof/Machine/Links.lean ====
section
/-! DEFINITION. Scale-up links (R481 to R490): the state of a link, planes, end-to-end streams, frames. -/

namespace Sys2Proof.Machine

/-! ## Streams (R482, R483) -/

/-- A module that was drained is routed again once a link of it is UP (R490). (DEDUCED: log 189.) -/
def Dev.routed (d : Dev) : Dev := { d with unrouted := d.unrouted && !d.links.toList.any fun l => l.st = .up }

/-- Change a link; streams that it no longer carries move (R482). -/
def modLink (s : State) (dev : Nat) (n : Fin 18) (f : Link → Link) : State :=
  moveStreams (s.modDev dev fun d => ({ d with links := d.links.set n (f d.links[n]) } : Dev).routed)

/-- The core that answers to a flat number: a module that has handed its contexts on is routed to the neighbour (R490). -/
def rerouted (s : State) (flat : Nat) : Nat :=
  match (s.dev (ordOf flat)).routedTo with
  | some o => o * 1024 + flat % 1024
  | none => flat

/-- The hub numbers a message of a stream, sends it on the stream's plane, and keeps it until it is acknowledged. (DEDUCED: log 64.) -/
def noteSent (s : State) (src dst cls : Nat) : State :=
  s.modDev src fun d =>
    let e := ((mfind d.e2e (dst * 4 + cls)).getD ⟨none, 0, []⟩).moved s src (dst * 4 + cls)
    { d with e2e := mset d.e2e (dst * 4 + cls) { e with next := e.next + 1, unacked := e.unacked ++ [(e.next, e.plane.getD 18)] } }

/-- The number that the next message of a stream gets. -/
def nextNum (s : State) (src dst cls : Nat) : W32 := ((mfind (s.dev src).e2e (dst * 4 + cls)).map (·.next)).getD 0

/-! ## Frames (R484, R485) -/

/-- The CRC of a frame with these data flits and low bits of its control flit: over the 128 data bytes as sent and bits 31:0 (R484). -/
def frameCrc (data : List (BitVec 128)) (low : Nat) : Nat :=
  crc32 (((List.range 8).flatMap fun i => bytesOf 16 (data.getD i 0).toNat) ++ bytesOf 4 low)

/-- A frame of these fields, with its CRC; its TAG stays 0 here. (DESIGN CHOICE: log 167.) -/
def frameOf (seq ack vc ep nval typ : Nat) (data : List (BitVec 128)) : Frame :=
  let low := seq % 1024 * 2 ^ 22 + ack % 1024 * 2 ^ 12 + vc % 4 * 2 ^ 10 + ep % 4 * 2 ^ 8 + nval % 16 * 2 ^ 4 + typ % 16
  { flit := BitVec.ofNat 128 (frameCrc data low * 2 ^ 32 + low), data, tagOk := true }

/-- Whether the CRC of a frame is valid. -/
def crcOk (f : Frame) : Bool := f.crc = frameCrc f.data (f.flit.toNat % 2 ^ 32)

/-- Whether the link may send a frame that it must keep: the replay buffer holds 64, and a key serves 2^48 frames (R485, R487). -/
def Link.room (l : Link) : Bool := decide (l.replay.length < 64) && decide (l.count < 2 ^ 48)

/-- A frame that the link sends on a VC: control frames but idle and NAK, and data frames, take the next SEQ and stay in the replay buffer. -/
def Link.sendOn (l : Link) (vc : Fin 4) (typ : Nat) (data : List (BitVec 128)) : Link :=
  let f := frameOf l.txSeq l.rxSeq vc.val (l.epoch.toNat % 4) data.length typ data
  { l with txSeq := (l.txSeq + 1) % 1024, replay := l.replay ++ [f], count := l.count + 1 }
def Link.send (l : Link) (typ : Nat) (data : List (BitVec 128)) : Link := l.sendOn 0 typ data

/-- An ACK frees the frames before it. -/
def Link.acked (l : Link) (ack : Nat) : Link :=
  let n := (ack + 1024 - (l.txSeq + 1024 - l.replay.length) % 1024) % 1024
  if n ≤ l.replay.length then { l with replay := l.replay.drop n, replays := if n = 0 then l.replays else 0 } else l

/-! ## The link object (R486 to R489) -/

/-- Training begins: the replay buffer and partly received messages go, the sequence restarts, and a rotation that waited for the old key takes place. -/
def Link.train (l : Link) : Link :=
  { l with
    st := .training, fails := 0, after := if l.st = .draining then .draining else if l.st = .quiesced then .quiesced else if l.st = .rekeying then l.after else .up
    epoch := if l.st = .rekeying then l.waiting.getD l.epoch else l.epoch, waiting := if l.st = .rekeying then none else l.waiting
    old := none, rxOld := none, newSeen := none, replay := [], replays := 0, txSeq := 0, rxSeq := 0, nak := false, partly := [], count := if l.st = .rekeying && l.waiting.isSome then 0 else l.count }

/-- A failed attempt of a training; the third makes the link FAILED. -/
def Link.attempt (l : Link) : Link := if 3 ≤ l.fails + 1 then { l with st := .failed, fails := 0 } else { l with fails := l.fails + 1 }

/-- A cause of retraining. -/
def Link.retrain (l : Link) : Link :=
  match l.st with
  | .up | .rekeying | .draining | .quiesced => l.train
  | .training => l.attempt
  | _ => l

/-- A new key begins at an UP link: REKEY is the last frame under the old one (R488). -/
def Link.begin (l : Link) (e : W32) : Link :=
  { l.send 3 [e.setWidth 128] with st := .rekeying, after := .up, old := some l.epoch, rxOld := some l.epoch, newSeen := none, epoch := e, waiting := none, count := 0 }

/-- A rotation that waits begins once the link is UP and its replay buffer has room. -/
def Link.settleKey (l : Link) : Link :=
  let l1 := if l.st = .rekeying && l.old.isNone && l.rxOld.isNone then { l with st := l.after, after := .up, newSeen := none } else l
  match l1.st, l1.waiting with
  | .up, some e => if l1.replay.length < 64 then l1.begin e else l1
  | _, _ => l1

/-- A new key is installed at both ends (R488): an UP link sends REKEY and encrypts under it; elsewhere it waits, or is kept for training. (DEDUCED: log 65.) -/
def Link.rekey (l : Link) (e : W32) : Link :=
  let l := { l with used := e :: l.used }
  match l.st with
  | .up | .rekeying | .draining | .quiesced => ({ l with waiting := some e } : Link).settleKey
  | _ => { l with epoch := e, old := none, rxOld := none, waiting := none, count := 0 }

/-- RETIRE is sent, and this end no longer sends under the old key; the link leaves REKEYING once the receiver has dropped it too. (DEDUCED: log 65.) -/
def Link.retired (l : Link) : Link := { l.send 4 [(l.old.getD 0).setWidth 128] with old := none }.settleKey

/-- The receiver drops the old key (R488). -/
def Link.dropOld (l : Link) : Link := { l with rxOld := none, newSeen := none }.settleKey

/-- The partition-wide quiesce. -/
def Link.quiesce (l : Link) : Link :=
  match l.st with
  | .up => { l with st := .quiesced }
  | .training | .rekeying => { l with after := .quiesced }
  | _ => l

/-- Its withdrawal; a rotation that waited for it begins. -/
def Link.release (l : Link) : Link :=
  match l.st with
  | .draining | .quiesced => ({ l with st := .up } : Link).settleKey
  | _ => l

def Link.drain (l : Link) : Link :=
  match l.st with
  | .up => { l with st := .draining }
  | .training | .rekeying => { l with after := if l.after = .quiesced then .quiesced else .draining }
  | _ => l

/-- Frames of the old epoch that are not acknowledged. -/
def Link.oldFrames (l : Link) : Bool := l.old.any fun e => l.replay.any fun f => f.ep.val = e.toNat % 4

/-- The flits of whole messages leave for the next hop in frame order; those of a message of four that is not whole stay. -/
def partlyLeft (l : List (Fin 4 × BitVec 128)) (vc : Fin 4) : List (Fin 4 × BitVec 128) :=
  let mine := l.filter (·.1 = vc)
  l.filter (·.1 ≠ vc) ++ mine.drop (mine.length / 4 * 4)

/-- The checks of a frame but its CRC and its epoch, in order (R485): a QUIESCED link takes control frames and VC 3 only (R489). -/
def Link.passes (l : Link) (f : Frame) : Bool :=
  !((l.enc && !f.tagOk) || decide (8 < f.nval) || decide (5 < f.typ) || (f.typ ≠ 0 && decide (1 < f.nval)) || f.seq ≠ l.rxSeq) && (f.typ ≠ 0 || l.carries f.vc.val)

/-- A NAK frees what it acknowledges, and the rest is sent again; a frame that sixteen replays have not brought over retrains the link. -/
def Link.nakked (l : Link) (ack : Nat) : Link :=
  if l.st = .down || l.st = .training || l.st = .failed then l
  else
    let l1 := (l.acked ack).settleKey
    if l1.replay.isEmpty then l1
    else if 16 ≤ l1.replays then l1.train
    else { l1 with replays := l1.replays + 1 }

/-- A link has had no valid frame for 10 µs (R486). -/
def Link.silent (l : Link) (now : Nat) : Bool := decide (10000 ≤ (now + 2 ^ 48 - l.heard % 2 ^ 48) % 2 ^ 48)

/-- The receiver takes a frame (R485, R488); after 10 µs without a valid one the link retrains instead (R486): it passes, fails and is answered by a NAK, or names a dropped key and retrains the link. A NAK that passes is obeyed. -/
def Link.receive (l : Link) (f : Frame) (now : Nat) : Link :=
  let cur := f.ep.val = l.epoch.toNat % 4
  let old := l.rxOld.any fun e => f.ep.val = e.toNat % 4
  if l.st = .down || l.st = .training || l.st = .failed then l
  else if l.silent now then l.train
  else if !crcOk f then { l with nak := true }
  else if l.enc && !cur && !old then l.train
  else if !l.passes f then { l with nak := true }
  else
    let numbered := f.typ ≠ 1 && f.typ ≠ 2
    let l1 := { l.acked f.ack with
      rxSeq := if numbered then (l.rxSeq + 1) % 1024 else l.rxSeq, nak := false, heard := now
      newSeen := if l.enc && cur && l.rxOld.isSome && l.newSeen.isNone then some now else l.newSeen
      partly := if f.typ = 0 then partlyLeft (l.partly ++ (f.data.take f.nval).map fun x => (f.vc, x)) f.vc else l.partly }
    match f.typ with
    | 2 => l1.nakked f.ack
    | 4 => l1.dropOld
    | _ => l1.settleKey

end Sys2Proof.Machine
end

