-- ==== Sys2Proof/Machine/Spec.lean ====
section
/-! DEFINITION. Accesses of a running speculative task (R431 to R435). -/

namespace Sys2Proof.Machine

/-- The writers whose versions a task can read, the latest first: itself, then the tasks of its context before it (R433). (DEDUCED: log 116.) -/
def writersFor (s : State) (t : Task) : List Task :=
  ((s.tasks.filter fun u => u.ran && u.msg.ctx = t.msg.ctx && !u.writes.isEmpty && (u.id = t.id || u.before t)).mergeSort fun a b => b.before a)

/-- The byte that a task reads, and the task whose version holds it. -/
def specByte (s : State) (ws : List Task) (w : Who) (va : W64) : Byte × Option Nat :=
  match ws.findSome? fun u => (mfind u.writes (vaId s w.flat va)).map fun b => (b, u.id) with
  | some (b, i) => (b, some i)
  | none => (loadByte s w va, none)

/-- The bytes a task reads (R433), the committed ones at their homes: its die's guest copies of the lines go there first. They join its read set, with the version of each granule, and it depends on the writers it read from. (DEDUCED: log 54, 116.) -/
def specRead (s : State) (t : Task) (w : Who) (vas : List W64) : State × List Byte :=
  let s := (vas.map lineOf).dedup.foldl (fun s l => guestDrop s (dieOf w.flat) l) s
  let ws := writersFor s t
  let bs := vas.map (specByte s ws w)
  let gs := (vas.map fun va => granule (vaId s w.flat va)).dedup
  let seen := gs.map fun g => (g, (ws.find? fun u => u.id ≠ t.id && u.wrote g).map (·.id))
  let deps := (bs.filterMap (·.2) ++ seen.filterMap (·.2)).filter (· ≠ t.id)
  (modTask s t.id fun t => { t with reads := t.reads ++ (seen.filter fun x => !t.reads.contains x), deps := (t.deps ++ deps).dedup }, bs.map (·.1))

/-- The version of highest key gives way to that of an irrevocable task (R434). (DESIGN CHOICE: log 118.) -/
def dropVersions (s : State) (t : Task) : State :=
  let hold := s.tasks.filter fun u => u.id ≠ t.id && u.ran && !irrevocable s u && !u.writes.isEmpty
  match (hold.mergeSort fun a b => b.before a).head? with
  | some u => abortTasks s [u.id] []
  | none => s

/-- A task's write joins its version and counts at its page as an access (R220); it aborts the later tasks that have read the granule from an older version
(R435), but none that is irrevocable (R430). (DEDUCED: log 115.) -/
def specWrite (s : State) (t : Task) (bs : List (W64 × Byte)) : State :=
  let flat := flatOf t.k
  let gs := (bs.map fun b => granule (vaId s flat b.1)).dedup
  let s1 := modTask ((bs.map fun b => lineOf b.1).dedup.foldl (fun s l => hot s flat l) s) t.id fun t => { t with writes := bs.foldl (fun m b => mset m (vaId s flat b.1) b.2) t.writes }
  let older (src : Option Nat) : Bool :=
    match src with
    | none => true
    | some i => i = t.id || (taskOf s i).all fun u => u.before t
  let ids := (s.tasks.filter fun u =>
    u.id ≠ t.id && u.ran && !irrevocable s u && t.before u && u.msg.ctx = t.msg.ctx && u.reads.any fun x => gs.contains x.1 && older x.2).map (·.id)
  if ids.isEmpty then s1 else abortTasks s1 ids []

end Sys2Proof.Machine
end

