-- ==== Sys2Proof/Machine/Ops.lean ====
section
/-! DEFINITION. The named operations over registers: the scoreboard (R80 to R83), taking a trap, an upcall or CHECKPOINT and returning
(R152 to R160), the end of a handler (R157), and the frame that every instruction runs in: early reads, predicate, streams, effect,
retirement (R75, R79, R97, R104, R231). -/

namespace Sys2Proof.Machine

/-! ## Registers (R90) -/

namespace Part
def getS (p : Part) (i : Fin 64) : W64 := if i = 0 then 0 else p.s[i]
def setS (p : Part) (i : Fin 64) (v : W64) : Part := if i = 0 then p else { p with s := p.s.set i v }
def getP (p : Part) (i : Fin 8) : W64 := if i = 0 then ones64 else p.p[i]
def setP (p : Part) (i : Fin 8) (v : W64) : Part := if i = 0 then p else { p with p := p.p.set i v }
def getV (p : Part) (i : Fin 64) : VReg := p.v[i]
def setV (p : Part) (i : Fin 64) (v : VReg) : Part := { p with v := p.v.set i v }
/-- The stream of a vector register (v56 to v63). -/
def streamAt (_p : Part) (i : Fin 64) : Option (Fin 8) := if h : 56 ≤ i.val then some ⟨i.val - 56, by omega⟩ else none
/-- Whether a vector register is bound to a stream. -/
def bound (p : Part) (i : Fin 64) : Bool :=
  match p.streamAt i with
  | some r => p.streams[r].state ≠ .unbound
  | none => false
/-- Write a destination (R73): a scalar, a predicate or nothing. -/
def put (p : Part) (d : Dst) (v : W64) : Part :=
  match d with
  | .s i => p.setS i v
  | .p i => p.setP i v
  | _ => p
end Part

/-! ## The scoreboard -/

/-- The specifier of a register (R70, R73, R82). -/
def Reg.spec : Reg → Nat
  | .v i => i.val
  | .s i => 64 + i.val
  | .p i => 128 + i.val

/-- A register whose writes are discarded, or that is a stream, is not followed. -/
def tracked (p : Part) : Reg → Bool
  | .s i => i ≠ 0
  | .p i => i ≠ 0
  | .v i => !p.bound i

/-- The value the register file holds. -/
def rawReg (p : Part) : Reg → VReg
  | .s i => (p.getS i).setWidth 2048
  | .p i => (p.getP i).setWidth 2048
  | .v i => p.getV i

/-- What a read sees (R82): the value of the latest writer whose latency has passed. -/
def sbPeek : List SbEntry → Reg → VReg → VReg
  | [], _, v => v
  | e :: es, r, v => if e.reg = r then (if e.lat ≤ e.age then v else sbPeek es r e.old) else sbPeek es r v

/-- Whether a read is early (R81): the latest writer has not reached its latency. -/
def sbEarly : List SbEntry → Reg → Bool
  | [], _ => false
  | e :: es, r => if e.reg = r then decide (e.age < e.lat) else sbEarly es r

/-- Drop what no read can meet any more: matured writers, and every older writer of their registers. -/
def sbPrune : List SbEntry → List Reg → List SbEntry
  | [], _ => []
  | e :: es, dead =>
    if dead.contains e.reg then sbPrune es dead
    else if e.lat ≤ e.age then sbPrune es (e.reg :: dead)
    else e :: sbPrune es dead

/-- The scoreboard after an instruction: its writes (a latency, or none for an interlocked result), then its distance 1 + STALL. (DESIGN CHOICE: log 18.) -/
def sbAfter (before : Part) (sb : List SbEntry) (writes : List (Reg × Option Nat)) (stall : Nat) : List SbEntry :=
  let add (sb : List SbEntry) (w : Reg × Option Nat) : List SbEntry :=
    if tracked before w.1 then
      match w.2 with
      | none => sb.filter (·.reg ≠ w.1)
      | some l => ⟨w.1, 0, l, rawReg before w.1⟩ :: sb
    else sb
  sbPrune ((writes.foldl add sb).map fun e => { e with age := e.age + 1 + stall }) []

/-- Read a register as the scoreboard lets the instruction see it; a stream-bound register gives what the pop has put there (R231). -/
def Part.rd (p : Part) (r : Reg) : VReg := if p.sb.isEmpty || !tracked p r then rawReg p r else sbPeek p.sb r (rawReg p r)
def Part.rdS (p : Part) (i : Fin 64) : W64 := (p.rd (.s i)).setWidth 64
def Part.rdP (p : Part) (i : Fin 8) : W64 := (p.rd (.p i)).setWidth 64
def Part.rdV (p : Part) (i : Fin 64) : VReg := p.rd (.v i)

/-- A vector register becomes a stream: what was written to it before is met no more (R70). -/
def Part.forget (p : Part) (r : Fin 8) : Part := { p with sb := p.sb.filter (·.reg ≠ .v ⟨56 + r.val, by have := r.isLt; omega⟩) }

/-- A drain point (R83). -/
def Part.drain (p : Part) : Part := { p with sb := [] }

/-! ## Moves -/

/-- Move a partition to an address. -/
def Part.goto (p : Part) (a : W64) (seq : Nat) : Part := { p with pc := a, blocked := none }.refetch seq

/-! ## Leaders and followers (R101) -/

/-- The parts of a cluster that follow, or join, the leader at a partition: both run units, so partition D has none and is none (R102). -/
def followersOf (s : State) (k : Nat) (m : FMode) : List Nat :=
  (s.parts.filter fun kp =>
    kp.2.fmode = m && idxOf k ≠ 3 && idxOf kp.1 ≠ 3 && clOf (flatOf kp.1) = clOf (flatOf k) && kp.2.leader.val = posOf (flatOf k) &&
      kp.2.launch = (s.part k).launch && kp.2.ctx = (s.part k).ctx).map (·.1)

/-- Where a follower stands: at the forwarded instruction it has taken, else at the next in its buffer; with an empty buffer at the leader's next unissued
instruction, for a leader in a trap handler the one that it returns to (R101). (DEDUCED: log 25.) -/
def nextForward (s : State) (k : Nat) : W64 :=
  let p := s.part k
  match p.fwdNow, p.twill with
  | some _, _ => p.pc
  | none, f :: _ => f.addr
  | none, [] =>
    if p.fmode ≠ .following then p.pc
    else
      let lf := flatAt (clOf (flatOf k)) p.leader.val
      match ([0, 1, 2].map fun q => s.part (lf * 4 + q)).find? fun l => l.fmode = .leading && l.ctx = p.ctx && l.launch = p.launch with
      | some l => if l.inTrap then l.trappc else if l.inUp || l.inChk then p.pc else l.pc
      | none => p.pc

/-- A follower leaves its group: FREE at its next instruction, and its leader's FMASK bit is cleared. (DEDUCED: log 25.) -/
def leaveGroup (s : State) (k : Nat) : State :=
  let p := s.part k
  match p.fmode with
  | .following =>
    let lf := flatAt (clOf (flatOf k)) p.leader.val
    let a := nextForward s k
    let s1 := s.modPart k fun p => { p with fmode := .free, pc := a, twill := [], fwdNow := none }
    [0, 1, 2].foldl (fun s q =>
      let lk := lf * 4 + q
      if (s.part lk).fmode = .leading && (s.part lk).ctx = p.ctx then
        s.modPart lk fun l => { l with fmask := l.fmask &&& ~~~(BitVec.ofNat 16 (2 ^ posOf (flatOf k))) }
      else s) s1
  | .joining => s.modPart k fun p => { p with fmode := .free, pc := p.joinAt, blocked := none }
  | _ =>
    if p.twill.isEmpty && p.fwdNow.isNone then s
    else
      let a := nextForward s k
      s.modPart k fun p => { p with pc := a, twill := [], fwdNow := none }

/-- The last of the forwarded instructions is followed by the one at an address. -/
def lastAfter (a : W64) : List Fwd → List Fwd
  | [] => []
  | [f] => [{ f with after := a }]
  | f :: fs => f :: lastAfter a fs

/-- A follower whose leader is gone is FREE (R101): it issues what was forwarded to it, and its own fetch resumes at the leader's next unissued
instruction. (DEDUCED: log 25.) -/
def Part.released (p : Part) (a : W64) (seq : Nat) : Part :=
  let p1 := { p with fmode := .free, twill := lastAfter a p.twill, blocked := none }
  if !p.twill.isEmpty then p1
  else match p.fwdNow with
    | some f => { p1 with fwdNow := some { f with after := a } }
    | none => p1.goto a seq

/-- A leader is halted, spilled or ends: joiners resume at their join address, followers at the leader's next unissued instruction (R101). -/
def releaseFollowers (s : State) (k : Nat) : State :=
  let a := (s.part k).pc
  let s1 := (followersOf s k .joining).foldl (fun s j => s.modPart j fun p => ({ p with fmode := .free }).goto p.joinAt s.steps) s
  let s2 := (followersOf s1 k .following).foldl (fun s j => s.modPart j fun p => p.released a s.steps) s1
  s2.modPart k fun p => { p with fmask := 0 }

/-! ## Streams of a partition end (R233, R278) -/

/-- Unbind every stream, discarding what its buffers hold; a bound register reads zero afterwards (R237). -/
def Part.unbindAll (p : Part) : Part :=
  (List.finRange 8).foldl (fun (p : Part) (r : Fin 8) =>
    if p.streams[r].state ≠ .unbound then
      { p with streams := p.streams.set r .reset, v := p.v.set (56 + r.val) 0 (by omega) }
    else p) p

/-! ## Streams moved (R226, R227, R238) -/

/-- Element width of a stream, the elements of a vector, and its vectors V (R226, R227). -/
def Stream.width (t : Stream) : Nat :=
  match t.elw with
  | 0 => 32
  | 1 => 16
  | 2 => 8
  | _ => 4
def Stream.per (t : Stream) : Nat := 2048 / t.width
def Stream.vecs (t : Stream) : Nat := (t.n * t.width + 2047) / 2048

/-- The index stream after its indexed stream has skipped: it stands at the index vector that the next vector begins with; what it has fetched from there on
stays. -/
def Stream.reindex (u t : Stream) : Stream :=
  let dst := t.ibase + t.eng * (t.per / 64)
  if u.pos ≤ dst && decide (dst ≤ u.eng) then
    { u with pos := dst, slots := u.slots.filter (fun x => decide (dst ≤ x.idx)), fault := none, state := .filling }
  else { u with pos := dst, slots := [], eng := dst, ixs := [], got := [], fault := none, state := .filling }

/-- Put a stream that has moved in its place; along the chain of index streams below it, each stands where the one above needs it (R238). -/
def Part.replace : Nat → Part → Fin 8 → Stream → Part
  | 0, p, _, _ => p
  | n + 1, p, r, t =>
    match t.index with
    | none => { p with streams := p.streams.set r t }
    | some i => Part.replace n { p with streams := p.streams.set r { t with ixs := [] } } i (p.streams[i].reindex t)

/-- An instruction that waited stops: what it drew from a stream goes back, with its index streams, as they were at its issue (R335); a drain waits no longer
(R380). -/
def Part.undraw (p : Part) : Part :=
  match p.mdraw with
  | some (r, t, _) => { p.replace 8 r t with mdraw := none, hbWait := none }
  | none => { p with hbWait := none }

/-- An MDRAIN that waits in its core's command queue leaves it with the boundary at which its partition stops: it issues again later (R312). -/
def dropDrain (s : State) (k : Nat) : State :=
  if (s.core (flatOf k)).mat.holder = some k then
    s.modCore (flatOf k) fun c => { c with mat := { c.mat with queue := c.mat.queue.filter (·.cmd ≠ .drain) } }
  else s

/-! ## Traps -/

/-- A trap to be taken: its code, class (R152), value, and FAULTINFO for PROT and PAGE (R216). -/
structure Trap where
  code : Nat
  cls  : Nat
  val  : W64
  fi   : Option Nat
  deriving DecidableEq, Repr

/-- Send a message (R351): it is in flight until its arrival. One for another module is numbered in its stream (R483).
Accesses to memory are no messages here. (DESIGN CHOICE: log 176.) -/
def sendMsg (s : State) (m : Msg) : State :=
  let m1 := { m with dest := rerouted s m.dest, num := none }
  let a := ordOf m1.src
  let b := ordOf m1.dest
  if crosses s m1.src m1.dest then
    noteSent { s with net := s.net ++ [{ m1 with num := some (nextNum s a b m1.cls.val) }] } a b m1.cls.val
  else { s with net := s.net ++ [m1] }

/-- A reply to a message (R357, R362, R368): status, word 0, word 1 and the reason in byte 32. -/
def replyTo (m : Msg) (status : Nat) (w0 w1 : W64) (reason : Nat) : Msg :=
  { dest := m.src, tag := m.tag, cls := 1, rp := false, bnc := false, status := status, handler := m.handler,
    args := [w0, w1, BitVec.ofNat 64 reason, 0], key := 0, src := m.dest, srcPart := m.srcPart, ctx := m.ctx, task := false, parent := none, sender := .nobody }

/-- Partition D of a core becomes idle; its watches are freed (R252). (DEDUCED: log 80.) -/
def dIdle (s : State) (flat : Nat) : State :=
  ({ s with watches := s.watches.filter fun w => !(w.flat = flat && w.dpart) }.modCore flat fun c => { c with dmsg := none }).modPart (flat * 4 + 3) fun p =>
    { p.unbindAll.drain with st := .free, sleep := .awake, fbuf := [], freq := [], blocked := none, fmode := .free, fmask := 0 }

/-- A handler ends on a fault or its timeout (R157, R361, R513): record of KIND 0x10, reply HFAULT, next message. (DEDUCED: log 80.) -/
def handlerFault (s : State) (flat : Nat) (code reason : Nat) (val : W64) : State :=
  match (s.core flat).dmsg with
  | none => dIdle s flat
  | some m =>
    let pc := (s.part (flat * 4 + 3)).pc
    let (s1, _) := writeRecord s m.ctx flat
      (record64 [(0, 1, 0x10), (1, 1, code), (2, 1, reason), (3, 1, if m.rp then 1 else 0), (4, 4, m.src), (8, 8, m.handler.toNat),
        (16, 8, pc.toNat), (24, 8, val.toNat), (32, 2, m.tag.toNat)])
    let s2 := if m.rp then sendMsg s1 (replyTo m 8 0 0 0) else s1
    dIdle s2 flat

/-- The TRAPCAUSE word (R162). -/
def Part.trapcause (p : Part) : W64 :=
  BitVec.ofNat 64 (p.tcCode.toNat + p.tcClass.toNat * 256 + (if p.tcDbl then 1024 else 0) + p.tcCode2.toNat * 65536)

/-- The TSTATE word (R162). -/
def Part.tstate (p : Part) : W64 :=
  BitVec.ofNat 64 ((if p.inTrap then 1 else 0) + (if p.inUp then 2 else 0) + (if p.inChk then 4 else 0))

/-- A trap halt (R156): the part is HALTED, resuming at TRAPPC, and its record of KIND 0x0F is written (R513). -/
def trapHalt (s : State) (k : Nat) : State :=
  let s1 := s.modPart k fun p => { p with prev := p.st, st := .halted, pc := p.trappc, blocked := none, fbuf := [], freq := [] }
  let s2 := releaseFollowers s1 k
  let p := s2.part k
  (writeRecord s2 p.ctx (flatOf k)
    (record64 [(0, 1, 0x0F), (1, 1, p.tcCode.toNat), (2, 1, if p.tcDbl then p.tcCode2.toNat else 0), (3, 1, idxOf k), (4, 4, flatOf k),
      (8, 8, p.trappc.toNat), (16, 8, p.trapval.toNat)])).1

/-- Take a trap in a partition (R155, R156, R157): one operation for every cause but CHECKPOINT. -/
def takeTrap (s : State) (k : Nat) (t : Trap) : State :=
  let s := { s with sel := none, issued := false, epoch := s.epoch + 1 }
  if idxOf k = 3 then
    handlerFault s (flatOf k) t.code
      (if t.code = 0x01 then t.val.toNat % 256 else if t.code = 0x03 ∨ t.code = 0x10 then t.fi.getD 0 % 256 else 0) t.val
  else
    let s0 := leaveGroup (dropDrain (perf s k 11 1) k) k
    let s1 := s0.modPart k fun p =>
      let p := { p.drain.undraw with sleep := .awake }
      match t.fi with
      | some f => { p with faultinfo := BitVec.ofNat 11 f }
      | none => p
    let p := s1.part k
    if p.inTrap then
      trapHalt (s1.setPart k { p with tcCode2 := BitVec.ofNat 8 t.code, tcDbl := true }) k
    else
      let p1 : Part := { p with
        tcCode := BitVec.ofNat 8 t.code, tcClass := BitVec.ofNat 2 t.cls, tcDbl := false, tcCode2 := 0
        trappc := if t.code = 0x0D then p.npc else p.pc
        trapval := t.val }
      if p1.trapvec = 0 then trapHalt (s1.setPart k p1) k
      else
        let p2 := (((p1.setS 60 p1.trapcause).setS 61 p1.trappc).setS 62 p1.trapval).setS 63 (timeAt s1 k)
        s1.setPart k ({ p2 with inTrap := true, stall := 3, sleep := .awake }.goto p1.trapvec s1.steps)

/-- A not-present page (R158, R217): an upcall where the state allows one, else PAGE. R158 gives the runtime's first instruction no earliest cc; it has that of a
trap handler. (DESIGN CHOICE: log 190.) -/
def pageFault (s : State) (k : Nat) (acc reason : Nat) (addr : W64) : State :=
  let p := s.part k
  let info := acc * 256 + reason
  if idxOf k ≠ 3 ∧ p.upcallVec ≠ 0 ∧ p.inUp = false ∧ p.inTrap = false ∧ reason ≠ 0x12 then
    let s := { s with sel := none, issued := false, epoch := s.epoch + 1 }
    let s0 := leaveGroup (dropDrain s k) k
    let p := (s0.part k).drain.undraw
    let p1 := { p with upcallInfo := BitVec.ofNat 11 info, upcallAddr := addr, faultinfo := BitVec.ofNat 11 info, inUp := true,
                       stall := 3, sleep := .awake }
    let p2 := ((((p1.setS 3 p.fibframe).setS 60 p.pc).setS 61 (BitVec.ofNat 64 info)).setS 62 addr).setS 63 (timeAt s0 k)
    s0.setPart k (p2.goto p.upcallVec s0.steps)
  else takeTrap s k ⟨0x10, 0, addr, some info⟩

/-- CHECKPOINT entry (R159), with its reason; the context's uncommitted tasks are aborted before it (R435). A part without a vector is halted for capture by
firmware, which is a drain point here too. (DEDUCED: log 152.) The handler's first instruction has the earliest cc of a trap handler's. (DESIGN CHOICE: log 190.) -/
def enterCheckpoint (s : State) (k : Nat) (reason : Nat) : State :=
  let s0 := leaveGroup (dropDrain (perf (abortContext { s with sel := none, issued := false, epoch := s.epoch + 1 } (s.part k).ctx) k 11 1) k) k
  let p : Part := { (s0.part k).drain.undraw with sleep := .awake }
  if p.chkptVec = 0 then
    let s1 := releaseFollowers s0 k
    ({ s1 with chkReports := s1.chkReports ++ [(k, none)] }).modPart k fun q =>
      { p with prev := .checkpointing, st := .halted, quiesce := none, fbuf := [], freq := [], chkDone := true, chkDst := .none, fmask := q.fmask }
  else
    let p1 := (((p.setS 60 (BitVec.ofNat 64 (0x0B + p.tstate.toNat * 256))).setS 61 p.pc).setS 62 (BitVec.ofNat 64 reason)).setS 63 (timeAt s0 k)
    s0.setPart k ({ p1 with inChk := true, st := .checkpointing, quiesce := none, chkAt := s0.ftime, stall := 3 }.goto p.chkptVec s0.steps)

/-- The return from a trap handler (R165): a drain point. -/
def trapReturn (s : State) (k : Nat) (target : W64) : State :=
  s.modPart k fun p => { p.drain with inTrap := false }.goto target s.steps

/-- The return from the upcall runtime (R166). -/
def upcallReturn (s : State) (k : Nat) (target : W64) : State :=
  s.modPart k fun p => { p.drain with inUp := false }.goto target s.steps

/-! ## The body of an instruction -/

/-- Why an instruction does not complete. -/
inductive Stop where
  | trap (t : Trap)
  /-- A page condition: access kind, reason, address. -/
  | page (acc reason : Nat) (addr : W64)
  /-- The data's line is lost: access kind, address of the access, line (R29, R206, R514). -/
  | lost (acc : Nat) (addr line : W64)
  /-- A running task ends before the instruction: it is aborted to PENDING and held (R436). -/
  | heldTask
  /-- The home lies on a lost module, or one that no link reaches: the access does not complete (R493). -/
  | unreachable
  /-- An access that failed has left the core's PLB as given, and has walked a rights table or not (R209). -/
  | after (plb : List PlbEnt) (walked : Bool) (t : Stop)
  deriving DecidableEq, Repr

/-- The TASK trap NONSPEC (R431, R445). -/
def nonSpec (_addr : W64) : Stop := .trap ⟨0x15, 0, 0x300, none⟩

/-- How a completed body leaves the stream of instructions: on to next(PC); to an address; not complete, with or without what it did; the unit
or handler has ended; ended with the partition's state already placed. -/
inductive Flow where
  | done
  | jump (a : W64)
  | wait
  | waitKeep
  | placed
  /-- The trap is taken in the state that the body left: a deferred trap that consumes its record. -/
  | trapped (t : Trap)
  deriving DecidableEq, Repr

/-- An instruction's effect: it reads and changes the state, or stops. -/
abbrev M := StateT State (Except Stop)

def stop {α : Type} (t : Stop) : M α := fun _ => .error t
def trapM {α : Type} (code : Nat) (val : W64) : M α := stop (.trap ⟨code, 0, val, none⟩)
/-- ILLEGAL with reason VALUE (R77, R78): the head index comes from the instruction's address. -/
def valueTrap (p : Part) : Trap := ⟨0x01, 0, BitVec.ofNat 64 (0x0D + p.pc.toNat / 2 % 32 * 256), none⟩
def illegalValue {α : Type} : M α := fun s => .error (.trap (valueTrap (s.part s.cur)))
/-- The acting partition. -/
def me : M Nat := fun s => .ok (s.cur, s)
def myPart : M Part := fun s => .ok (s.part s.cur, s)
def setMine (f : Part → Part) : M Unit := fun s => .ok ((), s.modPart s.cur f)
/-- ILLEGAL, reason VALUE, inside a RUNNING task (R431). -/
def noTask : M Unit := fun s => if (taskOn s s.cur).isSome then illegalValue s else .ok ((), s)
/-- Write a destination of the acting partition. -/
def putM (d : Dst) (v : W64) : M Unit := setMine fun p => p.put d v

/-- A stop for a failed access, with what the access has left of the PLB. -/
def seenStop (e : AErr) (t : Stop) : Stop :=
  match e.plb with
  | some l => .after l e.walked t
  | none => t

/-- The stop of a failed access. -/
def stopOf (acc : Acc) (e : AErr) : Stop :=
  seenStop e (if e.code = 3 then .trap ⟨3, 0, e.addr, some (acc.code * 256 + e.reason)⟩ else .page acc.code e.reason e.addr)

/-- How an instruction issues: its head, its predicate, the registers it reads in the order of R82, its writes with their latency (none:
interlocked), whether its predicate governs lanes (R75), and how many results a lane rounds (R46, R47). -/
structure Iss where
  h      : Hd
  q      : Option Pred := none
  reads  : List Reg := []
  writes : List (Reg × Option Nat) := []
  lanes  : Bool := false
  /-- A plain store, whose wait for room in the store buffer is counted (R499); a write of DBGCTL, which keeps the PASS that it writes (R496), and TRAPRET, past
  which a PASS lasts (R497). -/
  store  : Bool := false
  keepPass : Bool := false
  sr     : Nat := 0
  yields : Bool := false
  /-- The one lane whose predicate bit governs (VINS, R138); an operand value that is ILLEGAL and is taken before STREAM (R342). -/
  lane   : Option Nat := none
  bad    : Bool := false

/-- The predicate of an instruction. -/
def Iss.pred (i : Iss) : Option Pred :=
  match i.q with
  | some q => some q
  | none => i.h.pred

/-- The predicate's value after NEG (R75). -/
def predVal (p : Part) : Option Pred → W64
  | none => ones64
  | some q => if q.neg then ~~~(p.rdP q.idx) else p.rdP q.idx

/-- The predicate register that an instruction reads. -/
def Iss.predReads (i : Iss) : List Reg :=
  match i.pred with
  | some q => [.p q.idx]
  | none => []

/-- Every register an instruction reads, the predicate first (R82). Where an entry reads its D or a selector predicate as well, these come after the
sources, and DATA comes before BASE in format M: R82 orders the predicate and S1 to S5 alone. (DESIGN CHOICE: log 170.) -/
def Iss.allReads (i : Iss) : List Reg := i.predReads ++ i.reads

/-! ## Streams at issue (R231) -/

/-- A STREAM trap (R232). -/
def streamTrap (spec reason : Nat) : Stop := .trap ⟨0x05, 0, BitVec.ofNat 64 (reason * 256 + spec), none⟩

/-- The deferred trap of a faulted stream (R235). -/
def streamFaultTrap (f : StreamFault) : Stop :=
  .trap ⟨f.code, 1, f.record, if f.code = 0x0C then none else some (f.acc * 256 + f.reason)⟩

/-- Element j of width w. -/
def elemOf (v : VReg) (w j : Nat) : Nat := (v.extractLsb' (j * w) w).toNat

/-- Build a register from its n elements of width w. -/
def packElems (w : Nat) (f : Nat → Nat) : Nat → Nat
  | 0 => 0
  | n + 1 => packElems w f n + f n % 2 ^ w * 2 ^ (w * n)

/-! ## Elements (R227, R238) -/

/-- The place of an element offset: its first byte and its bit within it. -/
def Stream.place (t : Stream) (o : Int) : W64 × Nat :=
  if t.elw = 3 then (t.base + BitVec.ofInt 64 (o / 2), if o % 2 = 0 then 0 else 4)
  else (t.base + BitVec.ofInt 64 (o * (t.width / 8 : Nat)), 0)

/-- The offset of element k of an affine stream. -/
def affineOffset : List Nat → List Int → Nat → Int
  | c :: cs, d :: ds, k => ((k % c : Nat) : Int) * d + affineOffset cs ds (k / c)
  | _, _, _ => 0

/-- Index i of the index vectors that a vector of an indexed stream consumes, as signed i32. -/
def indexAt (ix : List VReg) (i : Nat) : Int := intOf true 32 (elemOf (ix.getD (i / 64) 0) 32 (i % 64))

/-- The place of element e of vector j. -/
def Stream.locate (t : Stream) (ix : List VReg) (j e : Nat) : W64 × Nat :=
  match t.index with
  | none => t.place (affineOffset t.counts t.strides (j * t.per + e))
  | some _ => t.place (indexAt ix e * t.strides.getD 0 0)

/-- The elements of vector j within the stream. -/
def Stream.elems (t : Stream) (j : Nat) : List Nat := (List.range t.per).filter fun e => j * t.per + e < t.n

/-- Bytes of an element. -/
def Stream.ebytes (t : Stream) : Nat := max 1 (t.width / 8)

/-- The element that an access of its bytes holds. -/
def elemFrom (w sh : Nat) (bs : List Byte) : Nat := ofBytes bs / 2 ^ sh % 2 ^ w

/-- The vector of element values from element 0 on; places beyond the stream read zero. -/
def packVals (w : Nat) (vs : List Nat) : VReg := BitVec.ofNat 2048 (packElems w (fun i => vs.getD i 0) (2048 / w))

/-- The state of a bound stream from its position, its buffer and its fault (R229, R230). -/
def Stream.settle (t : Stream) : Stream :=
  if t.state = .unbound then t
  else
    let ready := if t.write then decide (t.slots.length < 4) else t.slots.any fun x => x.idx = t.pos
    match t.fault with
    | some f => if t.write || decide (f.vec ≤ t.pos) then { t with state := .faulted } else { t with state := if ready then .ready else .filling }
    | none => if t.vecs ≤ t.pos then { t with state := .exhausted } else { t with state := if ready then .ready else .filling }

def setStream (s : State) (k : Nat) (r : Fin 8) (t : Stream) : State := s.modPart k fun p => { p with streams := p.streams.set r t }

/-- A stream meets a fault at an element: its record, and the state of R230; the first fault is kept. -/
def faultStream (s : State) (k : Nat) (r : Fin 8) (t : Stream) (j e : Nat) (f : EFault) : State × StreamFault :=
  let acc := if t.write then 1 else 0
  let elem := j * t.per + e
  let (s1, slot) := writeRecord (f.note s (flatOf k)) (s.part k).ctx (flatOf k)
    (record64 [(0, 1, 0x04), (1, 1, f.code), (2, 1, f.reason), (3, 1, 56 + r.val), (4, 1, acc), (8, 8, t.bindPc.toNat), (16, 8, f.addr.toNat),
      (24, 4, j), (28, 4, elem)])
  let sf : StreamFault := ⟨j, elem, f.addr, f.code, f.reason, acc, slot⟩
  (setStream s1 k r (Stream.settle { t with fault := some sf, lastReason := f.reason, broken := false }), sf)

/-- What an access of a stream-bound register does: a trap, a wait, or the popped vector. -/
inductive Access where
  | stop (t : Stop)
  | wait
  | ok (p : Part)

/-- Pop one vector of a bound read stream into the register's place (R230, R231). -/
def popStream (p : Part) (r : Fin 8) : Access :=
  let t := p.streams[r]
  let spec := 56 + r.val
  if t.captured then .stop (streamTrap spec 0x03)
  else if t.write then .stop (streamTrap spec 0x02)
  else match t.state, t.fault, t.slots.find? (fun x => x.idx = t.pos) with
  | .exhausted, _, _ => .stop (streamTrap spec 0x01)
  | .faulted, some f, _ => .stop (streamFaultTrap f)
  | .ready, _, some x =>
    let t1 := { t with slots := t.slots.filter (fun y => decide (t.pos < y.idx)), pos := t.pos + 1 }.settle
    .ok { p with streams := p.streams.set r t1, v := p.v.set spec x.v (by have := r.isLt; omega) }
  | _, _, _ => .wait

/-- Whether a bound write stream takes a push now (R230). -/
def pushReady (p : Part) (r : Fin 8) : Access :=
  let t := p.streams[r]
  let spec := 56 + r.val
  if t.captured then .stop (streamTrap spec 0x03)
  else if !t.write then .stop (streamTrap spec 0x02)
  else match t.state, t.fault with
  | .faulted, some f => .stop (streamFaultTrap f)
  | .exhausted, _ => .stop (streamTrap spec 0x01)
  | .ready, _ => .ok p
  | _, _ => .wait

/-- Push the register's vector into its bound write stream. -/
def Part.push (p : Part) (r : Fin 8) : Part :=
  let t := p.streams[r]
  let v := p.v[56 + r.val]'(by omega)
  { p with streams := p.streams.set r (Stream.settle { t with slots := t.slots ++ [⟨t.pos, v, []⟩], pos := t.pos + 1 }) }

/-- The stream registers among registers, each once. -/
def streamsIn (p : Part) (rs : List Reg) : List (Fin 8) :=
  (rs.filterMap fun r =>
    match r with
    | .v i => if p.bound i then p.streamAt i else none
    | _ => none).dedup

/-- Whether an address lies in a scratchpad window. -/
def inSpad (a : W64) : Bool :=
  match regionOf a with
  | .spad _ _ _ => true
  | _ => false

/-- What a running task's read of an element meets: NONSPEC for a scratchpad window or the host aperture (R431), or an engine's condition. -/
inductive ElemStop where
  | nonSpec (va : W64)
  | fault (e : Nat) (f : EFault)
  | unreachable
  deriving DecidableEq, Repr

/-- The elements of a vector that a running task pops (R236), each read at the pop as a load of the task would read it; or the first that such a read cannot
reach. (DEDUCED: log 19.) -/
def taskElems (t : Task) (w : Who) (x : Stream) (v : Slot) : List Nat → State → Except ElemStop (State × List Nat)
  | [], s => .ok (s, [])
  | e :: es, s =>
    let (va, sh) := x.locate v.ix v.idx e
    if inSpad va then .error (.nonSpec va)
    else match engineCheck s w .read va x.ebytes with
    | .error f => .error (.fault e { f with addr := va })
    | .ok s1 =>
      if isHostVa s1 w.flat va then .error (.nonSpec va)
      else if engineCut s1 w.flat va x.ebytes then .error .unreachable
      else
      let (s2, bs) := specRead (prepLines s1 w (linesOf va x.ebytes)) ((taskOf s1 t.id).getD t) w ((List.range x.ebytes).map fun i => va + BitVec.ofNat 64 i)
      match taskElems t w x v es s2 with
      | .ok (s3, vs) => .ok (s3, elemFrom x.width sh bs :: vs)
      | .error f => .error f

/-- Pop every stream-bound source from a state on; the pulses of the popped streams follow (R234). What stops or waits pops nothing: `s0` stands, with the
record of a fault that the pop itself met. (DEDUCED: log 19.) -/
def popFrom (s0 s : State) (k : Nat) : List (Fin 8) → Access × State
  | [] => (.ok (s.part k), s)
  | r :: rs =>
    match popStream (s.part k) r with
    | .ok p =>
      let x := (s.part k).streams[r]
      match taskOn s k, x.slots.find? fun v => v.idx = x.pos with
      | some t, some v =>
        match taskElems t (whoOf s k) x v (x.elems v.idx) s with
        | .ok (s1, vs) =>
          popFrom s0 (pulse (s1.modPart k fun q =>
            { q with streams := p.streams, v := p.v.set (56 + r.val) (packVals x.width vs) (by have := r.isLt; omega) }) k (8 + r.val)) k rs
        | .error (.nonSpec va) => (.stop (nonSpec va), s0)
        | .error .unreachable => (.wait, s0)
        | .error (.fault e f) =>
          if f.code = 0x10 && f.reason ≠ 0x12 && !irrevocable s t then (.stop .heldTask, s0)
          else
            -- what the engine has read of a later vector is no part of this one
            let (s1, sf) := faultStream s0 k r { (s0.part k).streams[r] with got := [] } v.idx e f
            (.stop (streamFaultTrap sf), s1)
      | _, _ => popFrom s0 (pulse (s.setPart k p) k (8 + r.val)) k rs
    | a => (a, s0)

def popAll (s : State) (k : Nat) (rs : List (Fin 8)) : Access × State := popFrom s s k rs

/-! ## Retirement -/

/-- The scheduler's history after an issue (R98); a YIELD without effect does not yield. (DEDUCED: log 171.) -/
def noteIssue (c : Core) (idx : Nat) (y yields : Bool) : Core :=
  if idx = 3 then { c with dRun := c.dRun + 1, yielded := if yields then some 3 else none }
  else
    { c with
      run := if c.last = idx then c.run + 1 else 1
      last := idx, cont := !y && !yields, yielded := if yields then some idx else none, dRun := 0 }

/-- Retire an instruction of partition k: scoreboard, distance, SRCTR, scheduler history; then the next address. (DEDUCED: log 17.) -/
def retire (i : Iss) (before : Part) (s : State) (k : Nat) (next : Option W64) : State :=
  let s1 := s.modPart k fun p =>
    let p1 := { p with
      sb := sbAfter before p.sb i.writes i.h.stall.toNat
      stall := i.h.stall.toNat, waitCount := 0, lastIssue := s.steps, blocked := none
      heldCount := 0, storeWait := false
      pass := p.pass && (i.keepPass || !before.pass)
      srctr := if i.sr ≠ 0 ∧ before.fpctl.toNat % 8 = 4 then p.srctr + BitVec.ofNat 64 ((i.sr + 3) / 4) else p.srctr }
    let p2 := p1.count 0 1
    match next with
    | some a => p2.goto a s.steps
    | none => p2
  { (s1.modCore (flatOf k) fun c => noteIssue c (idxOf k) i.h.y i.yields) with sel := none, issued := true, epoch := s.epoch + 1 }

/-- The instruction does not complete now: it is tried again once shared state has changed. While it waits the partition is not eligible (R97), and its wait count
stands. (DESIGN CHOICE: log 20; DEDUCED: log 23.) -/
def waiting (s : State) (k : Nat) : State :=
  let wait (p : Part) : Part :=
    let c := if p.blocked.isSome then p.heldCount else p.waitCount
    { p with blocked := some s.epoch, waitCount := c, heldCount := c }
  { s.modPart k wait with sel := none, issued := false }

/-- An instruction that has begun waits; where it now waits for another agent, what it has done may let others go on. -/
def waitingKept (before : Part) (s : State) (k : Nat) : State :=
  waiting (if (s.part k).sleep = before.sleep then s else { s with epoch := s.epoch + 1 }) k

/-- A store waits for room in its core's store buffer (R177, R499). -/
def waitingStore (i : Iss) (s : State) (k : Nat) : State :=
  let full := i.store && decide (32 ≤ (s.core (flatOf k)).sbuf.length)
  waiting (s.modPart k fun p => { p with storeWait := full }) k

/-- The record of a lost line is written by the consuming core, then MCHECK is taken (R29, R206, R514). -/
def lostTrap (s : State) (k : Nat) (acc : Nat) (addr line : W64) : State :=
  let (s1, slot) := mcheckWrite s (s.part k).ctx (flatOf k) (mcheckRecord 0 acc (flatOf k) (s.part k).pc addr line)
  takeTrap s1 k ⟨0x0C, 0, slot, none⟩

/-- The state after an instruction stopped. -/
def stopped (s : State) (k : Nat) : Stop → State
  | .trap t => takeTrap (if t.cls = 1 then markTaken s (s.part k).ctx (flatOf k) t.val else s) k t
  | .page acc reason addr => pageFault s k acc reason addr
  | .lost acc addr line => lostTrap s k acc addr line
  | .unreachable => waiting s k
  | .after plb walked t => stopped (afterWalk s (flatOf k) (some plb) walked) k t
  | .heldTask => { holdTask s k with sel := none, issued := false, epoch := s.epoch + 1 }

/-- A destination's write for the scoreboard. -/
def dstReg : Dst → Option Reg
  | .v i => some (.v i)
  | .s i => some (.s i)
  | .p i => some (.p i)
  | .none => none

def wr (d : Dst) (lat : Option Nat) : List (Reg × Option Nat) :=
  match dstReg d with
  | some r => [(r, lat)]
  | none => []

/-- The register a source names. -/
def srcReg : Src → Option Reg
  | .v i => some (.v i)
  | .s i => some (.s i)
  | _ => none

def rds (l : List Src) : List Reg := l.filterMap srcReg

/-- The stream-bound sources that an instruction pops at this try: those of one that has begun and waits have been popped (R231). -/
def Iss.pops (i : Iss) (p : Part) : List (Fin 8) := if p.sleep = .awake then streamsIn p i.reads else []

/-- Run an instruction's body once its reads are not early and its predicate holds: stream sources are popped first, a stream-bound vector
destination is emptied and then pushed. -/
def runBody (i : Iss) (mask : W64) (body : W64 → M Flow) (s : State) : State :=
  let k := s.cur
  let p := s.part k
  match popAll s k (i.pops p) with
  | (.stop t, s1) => stopped s1 k t
  | (.wait, _) => waiting s k
  | (.ok _, s1) =>
    let outs := streamsIn p (i.writes.map (·.1))
    let cross := outs.findSome? fun r =>
      match pushReady (s1.part k) r with
      | .stop t => some (some t)
      | .wait => some none
      | .ok _ => none
    match (if outs ≠ [] && cross.isNone && (taskOn s k).isNone && !storesDone s k then some none else cross) with
    | some (some t) => stopped s k t
    | some none => waiting s k
    | none =>
      -- each push of a write stream releases the partition's earlier stores (R236)
      let s1 := outs.foldl (fun t r => releaseAt t (flatOf k) (p.streams[r]).scope) s1
      let s2 := s1.modPart k fun p =>
        outs.foldl (fun p r => { p with v := p.v.set (56 + r.val) 0 (by have := r.isLt; omega) }) p
      match body mask s2 with
      | .error t => stopped s k t
      | .ok (.wait, _) => waitingStore i s k
      | .ok (.waitKeep, s3) => waitingKept p s3 k
      | .ok (.trapped t, s3) => takeTrap s3 k t
      | .ok (.placed, s3) => retire i p s3 k none
      | .ok (.done, s3) =>
        let s4 := s3.modPart k fun p => outs.foldl (fun p r => p.push r) p
        retire i p s4 k (some p.npc)
      | .ok (.jump a, s3) => retire i p s3 k (some a)

/-- Whether a predicate lets an instruction take effect (R75). -/
def Iss.effective (i : Iss) (p : Part) : Bool :=
  match i.lane with
  | some l => (predVal p i.pred).getLsbD l
  | none => if i.lanes then decide (predVal p i.pred ≠ 0) else (predVal p i.pred).getLsbD 0

/-- An instruction in its frame (R75, R82, R104): STALL_SHORT for an early read of the predicate under EN = 1; under a predicate that does not hold
no effect and no other fault; STALL_SHORT for an early read of a source; else the body. In a follower the next address comes with the next
forwarded instruction (R103). (DEDUCED: log 17, 19; DESIGN CHOICE: log 18.) -/
def issue (i : Iss) (body : W64 → M Flow) (s : State) : Host.Outcome State Fault Refusal :=
  let k := s.cur
  let p := s.part k
  let early (rs : List Reg) : Option Reg := if p.stallchk then rs.find? fun r => tracked p r && sbEarly p.sb r else none
  match early i.predReads with
  | some r => .next (takeTrap s k ⟨0x02, 0, BitVec.ofNat 64 r.spec, none⟩)
  | none =>
    if !i.effective p then .next (retire { i with yields := false, keepPass := false } p s k (some p.npc))
    else match early i.reads with
    | some r => .next (takeTrap s k ⟨0x02, 0, BitVec.ofNat 64 r.spec, none⟩)
    | none => if i.bad then .next (takeTrap s k (valueTrap p)) else .next (runBody i (predVal p i.pred) body s)

end Sys2Proof.Machine
end

