-- ==== Sys2Proof/Machine/Flags.lean ====
section
/-! DEFINITION. FPCTL and FPFLAGS: the rounding control of one result and the accumulation of flags (R41, R44, R46, R50, R51). -/

namespace Sys2Proof.Machine

/-- The rounding mode of FPCTL.RM (R49). -/
def Part.rm (p : Part) : Nat := p.fpctl.toNat % 8

/-- FPCTL.FZ. -/
def Part.fz (p : Part) : Bool := p.fpctl.getLsbD 3

/-- The control of result `j` of lane `lane` (R46); the random word is formed only in SR mode. -/
def Part.rctl (p : Part) (lane j : Nat) : RCtl :=
  { mode := p.rm, fz := p.fz, word := if p.rm = 4 then srWord p.srseed p.srctr lane j else 0 }

/-- OR flags into FPFLAGS (R51): hardware only sets flag bits (R50). -/
def Part.orFlags (p : Part) (f : Nat) : Part := { p with fpflags := p.fpflags ||| BitVec.ofNat 5 f }

end Sys2Proof.Machine
end

