-- ==== Sys2Proof/Machine/Operands.lean ====
section
/-! DEFINITION. The operand forms: scalar sources (R71, R104), floating-point scalar sources (R122), vector elements (R125, R126) and the
elements of a destination under its lanes (R127). -/

namespace Sys2Proof.Machine

/-- A signed 6-bit inline literal (R70). -/
def litInt (n : BitVec 6) : Int := n.toInt

/-- A 64-bit integer source; `slot` is the literal slot, sign-extended (R71). -/
def Part.src (p : Part) (slot : W32) : Src → W64
  | .s i => p.rdS i
  | .c i => p.cbank[i]
  | .lit n => n.signExtend 64
  | .slot => slot.signExtend 64
  | .v _ => 0

/-- A source in a major where kind 0b10 names a predicate (R120). -/
def Part.srcP (p : Part) : Src → W64
  | .c i => p.rdP ⟨i.val % 8, Nat.mod_lt _ (by decide)⟩
  | .s i => p.rdS i
  | .lit n => n.signExtend 64
  | _ => 0

/-- The code that a scalar source supplies to a type (R71, R122, R124). -/
def Part.srcT (p : Part) (t : CTy) : Src → Nat
  | .s i => (p.rdS i).toNat % 2 ^ t.width
  | .c i => (p.cbank[i]).toNat % 2 ^ t.width
  | .lit n => litAs t (litInt n) % 2 ^ t.width
  | _ => 0

/-- The code that a scalar source supplies to a floating-point operand of an instruction with a literal slot (R71): the slot holds binary32, and is widened
exactly for FP64. -/
def Part.srcF (p : Part) (t : CTy) (slot : W32) : Src → Nat
  | .slot => if t.width = 64 then (convertC rcRNE t (.flt fmt32) slot.toNat).code else slot.toNat
  | x => p.srcT t x

/-- The vector register of a source that must be one. -/
def Part.vreg (p : Part) : Src → VReg
  | .v i => p.rdV i
  | _ => 0

/-! ## Vector elements (R125) -/

/-- A vector operand as its elements of width w (R126). -/
structure VSrc where
  reg  : Option VReg
  code : Nat
  deriving DecidableEq, Repr

def VSrc.elem (o : VSrc) (w j : Nat) : Nat :=
  match o.reg with
  | some v => elemOf v w j
  | none => o.code

/-- A vector source read as a type (R126): a literal is converted to the element type, other kinds give their low bits. -/
def Part.vsrc (p : Part) (t : CTy) : Src → VSrc
  | .v i => ⟨some (p.rdV i), 0⟩
  | .s i => ⟨none, (p.rdS i).toNat % 2 ^ t.width⟩
  | .c i => ⟨none, (p.cbank[i]).toNat % 2 ^ t.width⟩
  | .lit n => ⟨none, litAs t (litInt n) % 2 ^ t.width⟩
  | .slot => ⟨none, 0⟩

/-- The register whose element j is `f j` where its lane is active and `old`'s element otherwise (R127). -/
def mapElems (old : VReg) (mask : W64) (w : Nat) (f : Nat → Nat) : VReg :=
  BitVec.ofNat 2048 (packElems w (fun j => if mask.getLsbD (j * w / 32) then f j else elemOf old w j) (2048 / w))

/-- As `mapElems`, with the flags of the active elements (R127). -/
def mapElemsF (old : VReg) (mask : W64) (w : Nat) (f : Nat → FRes) : VReg × Nat :=
  (mapElems old mask w fun j => (f j).code,
   (List.range (2048 / w)).foldl (fun a j => if mask.getLsbD (j * w / 32) then a ||| (f j).flags else a) 0)

/-- A predicate whose bit L is `f L` where lane L is active and `old`'s bit otherwise (R132). -/
def mapBits (old mask : W64) (f : Nat → Bool) : W64 :=
  BitVec.ofNat 64 ((List.range 64).foldl (fun a L => a + (if (if mask.getLsbD L then f L else old.getLsbD L) then 2 ^ L else 0)) 0)

/-- The registers that vector sources read. -/
def vreads (l : List Src) : List Reg := rds l

/-- The current vector of a destination, zero where the destination is stream-bound (R127): `runBody` has emptied it. -/
def Part.oldV (p : Part) (d : Dst) : VReg :=
  match d with
  | .v i => p.getV i
  | _ => 0

/-- The vector that an instruction which reads its D reads there (R81, R82), zero where D is stream-bound (R127). -/
def Part.rdDstV (p : Part) (d : Dst) : VReg :=
  match d with
  | .v i => if p.bound i then p.getV i else p.rdV i
  | _ => 0

/-- Write a vector destination. -/
def putV (d : Dst) (v : VReg) : M Unit := setMine fun p =>
  match d with
  | .v i => p.setV i v
  | _ => p

end Sys2Proof.Machine
end

