-- ==== Sys2Proof/Machine/MemFam.lean ====
section
/-! DEFINITION. Loads, stores, fences, atomics and multicast stores with the events of their completion (R176 to R203). -/

namespace Sys2Proof.Machine

/-- The address of format M (R197). -/
def Part.addrM (p : Part) (o : OpM) : W64 := p.src 0 o.base + o.disp.signExtend 64

/-- ORD and SCOPE of LD, ST, VLD, VST, AMO and FENCE: MOD bits 7:6 and 5:3. -/
def ordOfMod (mod : BitVec 8) : Nat := mod.toNat / 64
def scopeOfMod (mod : BitVec 8) : Nat := mod.toNat / 8 % 8

/-- Whether a range has its home on a module that is lost or that no link reaches. -/
def onLost (s : State) (flat : Nat) (rs : List (W64 × Nat)) : Bool := rs.any fun r => cutOff s flat r.1

/-- The checks of an access of some ranges (R176, R196), with the fate of a running task's accesses (R431, R436). -/
def checkM (acc : Acc) (rs : List (W64 × Nat)) : M Unit := fun s =>
  let k := s.cur
  let w := whoOf s k
  match taskOn s k with
  | none =>
    match checkAccess s w acc rs with
    | .error e => .error (stopOf acc e)
    | .ok s1 => if onLost s1 w.flat rs then .error .unreachable else .ok ((), s1)
  | some t =>
    -- canonical and window first, then NONSPEC for a scratchpad address, then rights, presence, and NONSPEC for the host aperture
    let ps := rs.flatMap fun r => piecesOf r.1 r.2
    match ps.findSome? fun a =>
        match regionOf a.1 with
        | .nonCanon => some (stopOf acc ⟨3, 0x01, a.1, none, false⟩)
        | .window => some (stopOf acc ⟨3, 0x02, a.1, none, false⟩)
        | _ => none with
    | some t => .error t
    | none =>
      match ps.find? fun a => inSpad a.1 with
      | some a => .error (nonSpec a.1)
      | none =>
        match checkAccess s w acc rs with
        | .error e => .error (if e.code = 0x10 && e.reason ≠ 0x12 && !irrevocable s t then .heldTask else stopOf acc e)
        | .ok s1 =>
          match ps.find? fun a => isHostVa s1 w.flat a.1 with
          | some a => .error (nonSpec a.1)
          | none => if onLost s1 w.flat rs then .error .unreachable else .ok ((), s1)

/-- The addresses of a range. -/
def bytesAt (a : W64) (n : Nat) : List W64 := (List.range n).map fun i => a + BitVec.ofNat 64 i

/-- Whether a running task's own versions give every byte of a range. -/
def ownVersions (s : State) (w : Who) (vas : List W64) : Bool :=
  match taskOn s w.k with
  | some t => vas.all fun va => (mfind t.writes (vaId s w.flat va)).isSome
  | none => false

/-- The first range, with its line, that a load takes from memory where the line is lost: what is forwarded, or is the task's own version, is not (R177, R206). -/
def lostRead (s : State) (w : Who) (rs : List (W64 × Nat)) : Option (W64 × W64) :=
  rs.findSome? fun r =>
    match forwardOf s w.k (bytesAt r.1 r.2) with
    | .all _ => none
    | _ => if ownVersions s w (bytesAt r.1 r.2) then none else ((linesOf r.1 r.2).find? (lostTo s w)).map fun l => (r.1, l)

/-- Read checked ranges, each one access for forwarding (R177): none where the load waits. (DEDUCED: log 83.) -/
def readM (rs : List (W64 × Nat)) : M (Option (List (List Byte))) := do
  let k ← me
  let s ← get
  let w := whoOf s k
  let fw := rs.map fun r => forwardOf s k (bytesAt r.1 r.2)
  if fw.any fun f => f = .mixed || ((taskOn s k).isSome && f ≠ .none) then pure none
  else match lostRead s w rs with
  | some (a, l) => stop (.lost 0 a l)
  | none =>
    modify fun s => prepLines s w ((rs.flatMap fun r => linesOf r.1 r.2).dedup)
    match taskOn s k with
    | none =>
      let s ← get
      pure (some ((rs.zip fw).map fun r =>
        match r.2 with
        | .all bs => bs
        | _ => (bytesAt r.1.1 r.1.2).map (loadByte s w)))
    | some t =>
      let out ← (rs.zip fw).mapM fun r => do
        match r.2 with
        | .all bs => pure bs
        | _ =>
          let s ← get
          let (s1, bs) := specRead s t w (bytesAt r.1.1 r.1.2)
          set s1
          pure bs
      pure (some out)

/-- The first line of a store that fills a stash line of the part from a home that has lost it. -/
def fillLost (s : State) (k : Nat) (bs : List (W64 × Byte)) : Option W64 :=
  if (s.part k).stash.isEmpty then none
  else (bs.map fun b => lineOf b.1).dedup.find? fun l =>
    (match stashOf (s.part k) l with
    | some m => (mfind m.lines l.toNat).isNone
    | none => false) && isLost s (flatOf k) l

/-- Put a checked store's bytes into the store buffer, or into the running task's versions: false where it waits for room (R177). A store of any width, and
the lanes of a VST or VSCAT together, take one entry. (DESIGN CHOICE: log 174.) A store that fills a line of the part's stash whose home has lost it traps
MCHECK precisely (R240). A home that cannot hold a task's new version makes it wait (R434). -/
def storeM (addr : W64) (bs : List (W64 × Byte)) (ordered : Bool) : M Bool := do
  let k ← me
  let s ← get
  let p := s.part k
  match fillLost s k bs with
  | some l => stop (.lost 1 addr l)
  | none =>
    match taskOn s k with
    | some t =>
      if (bs.any fun b => !t.wrote (granule (vaId s (flatOf k) b.1))) && !Config.versionRoom s.steps then
        if irrevocable s t then
          modify fun s => specWrite (dropVersions s t) t bs
          pure true
        else pure false
      else
        modify fun s => specWrite s t bs
        pure true
    | none =>
      if 32 ≤ (s.core (flatOf k)).sbuf.length then pure false
      else
        modify fun s => s.modCore (flatOf k) fun c => { c with sbuf := c.sbuf ++ [⟨k, p.ctx, p.pc, addr, bs, bs, false, ordered⟩] }
        pure true

def writeM (addr : W64) (bs : List (W64 × Byte)) : M Bool := storeM addr bs false

/-- A release of a scope of the partition's earlier stores (R183): false where one of them is not performed yet. -/
def releaseNow (scope : Nat) : M Bool := do
  let k ← me
  let s ← get
  if storesDone s k then
    modify fun s => releaseAt s (flatOf k) scope
    pure true
  else pure false

/-- A release of a scope (R183): false where an earlier store has not been performed. Inside a task it orders the task's accesses only. -/
def releaseM (scope : Nat) : M Bool := do
  let k ← me
  let s ← get
  if (taskOn s k).isSome then pure true else releaseNow scope

/-- An acquire of a scope (R183). -/
def acquireM (scope : Nat) : M Unit := do
  let k ← me
  modify fun s => acquireAt s (flatOf k) scope

/-! ## LD and ST (R197) -/

def execLd (h : Hd) (o : OpM) (s : State) : Host.Outcome State Fault Refusal :=
  issue { h, reads := rds [o.base], writes := wr o.dst none } (fun _ => do
    let p ← myPart
    let a := p.addrM o
    let n := 2 ^ (o.mod.toNat / 2 % 4)
    if ordOfMod o.mod ≠ 0 ∧ a.toNat % n ≠ 0 then trapM 0x04 a
    checkM .read [(a, n)]
    if ordOfMod o.mod = 1 then acquireM (scopeOfMod o.mod)
    match ← readM [(a, n)] with
    | none => pure .wait
    | some bs =>
      let v := ofBytes bs.flatten
      putM o.dst (if o.mod.getLsbD 0 then BitVec.ofNat 64 v else sext64 (8 * n) v)
      pure .done) s

def execSt (h : Hd) (o : OpM) (s : State) : Host.Outcome State Fault Refusal :=
  issue { h, store := true, reads := rds [o.data, o.base] } (fun _ => do
    let p ← myPart
    let a := p.addrM o
    let n := 2 ^ (o.mod.toNat / 2 % 4)
    if ordOfMod o.mod ≠ 0 ∧ a.toNat % n ≠ 0 then trapM 0x04 a
    checkM .write [(a, n)]
    if ordOfMod o.mod = 2 then
      if !(← releaseM (scopeOfMod o.mod)) then return .wait
    if ← writeM a ((bytesAt a n).zip (bytesOf n (p.src 0 o.data).toNat)) then pure .done else pure .wait) s

/-! ## VLD and VST (R198) -/

/-- The active lanes. -/
def lanesOf (mask : W64) : List Nat := (List.range 64).filter fun L => mask.getLsbD L

def execVld (h : Hd) (o : OpM) (s : State) : Host.Outcome State Fault Refusal :=
  issue { h, reads := rds [o.base], writes := wr o.dst none, lanes := true } (fun mask => do
    let p ← myPart
    let a := p.addrM o
    if ordOfMod o.mod ≠ 0 ∧ a.toNat % 4 ≠ 0 then trapM 0x04 a
    let ls := lanesOf mask
    let rs := ls.map fun L => (a + BitVec.ofNat 64 (4 * L), 4)
    checkM .read rs
    if ordOfMod o.mod = 1 then acquireM (scopeOfMod o.mod)
    let k ← me
    let s ← get
    -- the access as a whole is forwarded, waits or is read
    let f := forwardOf s k (rs.flatMap fun r => bytesAt r.1 r.2)
    if f = .mixed then return .wait
    match ← readM rs with
    | none => pure .wait
    | some bs =>
      let p ← myPart
      putV o.dst (mapElems (p.oldV o.dst) mask 32 fun L => ofBytes (bs.getD (ls.idxOf L) []))
      pure .done) s

def execVst (h : Hd) (o : OpM) (s : State) : Host.Outcome State Fault Refusal :=
  issue { h, store := true, reads := rds [o.data, o.base], lanes := true } (fun mask => do
    let p ← myPart
    let a := p.addrM o
    if ordOfMod o.mod ≠ 0 ∧ a.toNat % 4 ≠ 0 then trapM 0x04 a
    let rs := (lanesOf mask).map fun L => (a + BitVec.ofNat 64 (4 * L), 4)
    checkM .write rs
    if ordOfMod o.mod = 2 then
      if !(← releaseM (scopeOfMod o.mod)) then return .wait
    let v := p.vreg o.data
    if ← writeM a ((lanesOf mask).flatMap fun L => (bytesAt (a + BitVec.ofNat 64 (4 * L)) 4).zip (bytesOf 4 (elemOf v 32 L)))
    then pure .done else pure .wait) s

/-! ## VGATH and VSCAT (R199) -/

/-- The address of a lane. -/
def gatherAddr (mod : BitVec 8) (base : W64) (ix : VReg) (L : Nat) : W64 :=
  let i := elemOf ix 32 L
  base + ((if mod.getLsbD 2 then BitVec.ofNat 64 i else sext64 32 i) <<< (mod.toNat % 4))

def execVgath (h : Hd) (o : OpC) (s : State) : Host.Outcome State Fault Refusal :=
  issue { h, reads := rds [o.s1, o.s2], writes := wr o.d none, lanes := true } (fun mask => do
    let p ← myPart
    let ls := lanesOf mask
    let addr := gatherAddr o.mod (p.src 0 o.s1) (p.vreg o.s2)
    match ls.find? fun L => (addr L).toNat % 4 ≠ 0 with
    | some L => trapM 0x04 (addr L)
    | none =>
      let rs := ls.map fun L => (addr L, 4)
      checkM .read rs
      match ← readM rs with
      | none => pure .wait
      | some bs =>
        let p ← myPart
        putV o.d (mapElems (p.oldV o.d) mask 32 fun L => ofBytes (bs.getD (ls.idxOf L) []))
        pure .done) s

/-- DESIGN CHOICE: log 184 (ADDR of the record of a dropped VSCAT). -/
def execVscat (h : Hd) (o : OpC) (s : State) : Host.Outcome State Fault Refusal :=
  issue { h, store := true, reads := rds [o.s1, o.s2, o.s3], lanes := true } (fun mask => do
    let p ← myPart
    let ls := lanesOf mask
    let addr := gatherAddr o.mod (p.src 0 o.s1) (p.vreg o.s2)
    match ls.find? fun L => (addr L).toNat % 4 ≠ 0 with
    | some L => trapM 0x04 (addr L)
    | none =>
      checkM .write (ls.map fun L => (addr L, 4))
      let v := p.vreg o.s3
      if ← storeM ((ls.head?.map addr).getD 0) (ls.flatMap fun L => (bytesAt (addr L) 4).zip (bytesOf 4 (elemOf v 32 L))) true then pure .done else pure .wait) s

/-! ## FENCE and PREF (R193, R200, R201) -/

/-- The first record of a FENCE's scope that has not yet raised its trap: multicast records at every kind, dropped plain stores at .rel and .sc. -/
def fenceRecord (p : Part) (scope : Nat) (rel : Bool) : Option Deferred :=
  p.deferred.find? fun d => decide (d.scope ≤ scope) && (d.mcast || rel)

/-- DESIGN CHOICE: log 31. -/
def execFence (h : Hd) (o : OpC) (s : State) : Host.Outcome State Fault Refusal :=
  issue { h } (fun _ => do
    let k ← me
    let s ← get
    if (taskOn s k).isSome then return .done
    let kind := ordOfMod o.mod
    let scope := scopeOfMod o.mod
    let rel := decide (kind ≠ 1)
    if rel then
      if !(← releaseM scope) then return .wait
    else if (s.core (flatOf k)).mcast.any (fun e => e.k = k && decide (e.scope ≤ scope)) then return .wait
    let p ← myPart
    match fenceRecord p scope rel with
    | some d =>
      setMine fun p => { p with deferred := p.deferred.erase d }
      modify fun s => markTaken s p.ctx (flatOf k) d.record
      pure (.trapped ⟨d.code, 1, d.record, if d.code = 3 then some ((if d.mcast then 3 else 1) * 256 + d.reason % 256) else none⟩)
    | none =>
      if kind ≠ 2 then acquireM scope
      pure .done) s

/-- PREF has no architectural effect and never faults (R201): a line that may be read, and lies neither in a scratchpad nor in the host aperture, may be
filled as a guest copy. In a task it has no effect (R431). (DEDUCED: log 24.) -/
def execPref (h : Hd) (o : OpC) (s : State) : Host.Outcome State Fault Refusal :=
  issue { h, reads := rds [o.s1, o.s2] } (fun _ => do
    let k ← me
    let p ← myPart
    if (taskOn (← get) k).isSome then return .done
    let l := lineOf (p.src 0 o.s1 + p.src 0 o.s2)
    modify fun s =>
      match checkAccess s (whoOf s k) .read [(l, 1)] with
      | .ok _ => if (stashOf (s.part k) l).isSome then s else fillGuest (recallOthers s (some k) (flatOf k) l) (flatOf k) l
      | .error _ => s
    pure .done) s

/-! ## Atomics (R189 to R191, R202) -/

/-- Whether the owner of a location implements an operation (R189): SUB of R202 and its bytes. -/
def ownerDoes (s : State) (flat : Nat) (a : W64) (sub n : Nat) : Bool :=
  match regionOf a with
  | .spad own pos _ =>
    if own || pos = posOf flat then true else !(sub = 9 && n = 8)
  | _ => if isHostVa s flat a then n = 8 && (sub = 0 || sub = 8 || sub = 16) else true

/-- The new value of an atomic (R191, R202). -/
def amoNew (sub n : Nat) (old x y : Nat) : Nat :=
  let w := 8 * n
  let so := intOf true w old
  let sx := intOf true w x
  match sub with
  | 0 => (old + x) % 2 ^ w
  | 1 => old &&& x
  | 2 => old ||| x
  | 3 => old ^^^ x
  | 4 => if so ≤ sx then old else x
  | 5 => if so ≤ sx then x else old
  | 6 => min old x
  | 7 => max old x
  | 8 => x
  | 9 => (addF (if n = 4 then fmt32 else fmt64) rcRNE old x).code
  | _ => if old = x then y else old

/-- Perform an atomic at the owner (R189): the state and the old value. (DESIGN CHOICE: log 35.) -/
def atomicAt (s : State) (flat : Nat) (a : W64) (sub n x y : Nat) : State × Nat :=
  let s1 := toHome (abortForStore (hot s flat a) (vaId s flat (lineOf a))) flat (lineOf a)
  let old := homeNum s1 flat a n
  (homeWrite s1 flat a (bytesOf n (amoNew sub n old (x % 2 ^ (8 * n)) (y % 2 ^ (8 * n)))), old)

/-- Whether a buffered store of the partition overlaps a range: an access that acts at the owner follows it (R179). -/
def bufOverlaps (s : State) (k : Nat) (a : W64) (n : Nat) : Bool :=
  (s.core (flatOf k)).sbuf.any fun e => e.k = k && e.bytes.any fun b => ((bytesAt a n).map (canonVa (flatOf k))).contains (canonVa (flatOf k) b.1)

/-- AMO and CAS: `cas` gives the new value of CAS. A plain one waits for the buffered stores that overlap it, and for no others. (DEDUCED: log 185.) -/
def amo (h : Hd) (o : OpE) (sub : Nat) (cas : Bool) (s : State) : Host.Outcome State Fault Refusal :=
  let q := o.mod.getLsbD 2
  let pd : Dst := match o.s4 with
    | .c i => if q then .p ⟨i.val % 8, Nat.mod_lt _ (by decide)⟩ else .none
    | _ => .none
  issue { h, reads := rds ([o.s1, o.s2] ++ (if cas then [o.s3] else [])), writes := wr o.d none ++ wr pd none } (fun _ => do
    let k ← me
    let p ← myPart
    let slot := o.lit.getD 0
    let a := p.src slot o.s1
    let n := if o.mod.toNat % 4 = 2 then 4 else 8
    let s ← get
    if (taskOn s k).isSome then stop (nonSpec a)
    if a.toNat % n ≠ 0 then trapM 0x04 a
    checkM .atomic [(a, n)]
    if bufOverlaps s k a n then return .wait
    if isLost s (flatOf k) a then stop (.lost 3 a (lineOf a))
    let ord := ordOfMod o.mod
    if ord = 2 ∨ ord = 3 then
      if !(← releaseM (scopeOfMod o.mod)) then return .wait
    if !ownerDoes s (flatOf k) a sub n then
      if q then
        putM pd 0
        pure .done
      else trapM 0x08 a
    else
      let s ← get
      let x := if sub = 9 then p.srcF (.flt (if n = 4 then fmt32 else fmt64)) slot o.s2 else (p.src slot o.s2).toNat
      let (s1, old) := atomicAt s (flatOf k) a sub n x (p.src slot o.s3).toNat
      set s1
      putM o.d (BitVec.ofNat 64 old)
      putM pd ones64
      if ord = 1 ∨ ord = 3 then acquireM (scopeOfMod o.mod)
      pure .done) s

def execAmoAdd (h : Hd) (o : OpE) (s : State) := amo h o 0 false s
def execAmoAnd (h : Hd) (o : OpE) (s : State) := amo h o 1 false s
def execAmoOr (h : Hd) (o : OpE) (s : State) := amo h o 2 false s
def execAmoXor (h : Hd) (o : OpE) (s : State) := amo h o 3 false s
def execAmoMin (h : Hd) (o : OpE) (s : State) := amo h o 4 false s
def execAmoMax (h : Hd) (o : OpE) (s : State) := amo h o 5 false s
def execAmoMinn (h : Hd) (o : OpE) (s : State) := amo h o 6 false s
def execAmoMaxn (h : Hd) (o : OpE) (s : State) := amo h o 7 false s
def execAmoSwap (h : Hd) (o : OpE) (s : State) := amo h o 8 false s
def execAmoFadd (h : Hd) (o : OpE) (s : State) := amo h o 9 false s
def execCas (h : Hd) (o : OpE) (s : State) := amo h o 16 true s

/-! ## STM and STRED (R192 to R194, R203) -/

/-- The bytes of one element, and of the whole datum, of a TYPE. -/
def mcElem (typ : Nat) : Nat := if typ = 1 ∨ typ = 3 then 8 else 4
def mcSize (typ : Nat) : Nat := if 4 ≤ typ then 256 else mcElem typ

def mcast (h : Hd) (o : OpE) (red : Bool) (s : State) : Host.Outcome State Fault Refusal :=
  issue { h, reads := rds [o.s1, o.s2, o.s3] } (fun _ => do
    let k ← me
    let p ← myPart
    let s ← get
    if (taskOn s k).isSome then stop (nonSpec 0)
    let mask := (p.src 0 o.s3).toNat % 256
    if mask = 0 then return .done
    if o.mod.getLsbD 6 then
      if !(← releaseM (scopeOfMod o.mod)) then return .wait
    let typ := o.mod.toNat % 8
    let v := p.vreg o.s2
    let data :=
      if 4 ≤ typ then bytesOf 256 (p.vreg o.s1).toNat
      else bytesOf (mcSize typ) (if red && (typ = 2 || typ = 3) then p.srcF (.flt (if typ = 2 then fmt32 else fmt64)) (o.lit.getD 0) o.s1
        else (p.src (o.lit.getD 0) o.s1).toNat)
    let todo := ((List.range 8).filter fun i => mask / 2 ^ i % 2 = 1).map fun i =>
      (i, BitVec.ofNat 64 (elemOf v 32 (2 * i) + 2 ^ 32 * elemOf v 32 (2 * i + 1)))
    modify fun s => s.modCore (flatOf k) fun c =>
      { c with mcast := c.mcast ++ [⟨k, p.ctx, p.pc, red, scopeOfMod o.mod, typ, data, mask, todo, 0, []⟩] }
    pure .done) s

def execStm (h : Hd) (o : OpE) (s : State) := mcast h o false s
def execStred (h : Hd) (o : OpE) (s : State) := mcast h o true s

/-- Why a home denies an address of a destination (R194); 0 where it is written. A leaf with CW set, or malformed, counts as not
present. (DESIGN CHOICE: log 184.) -/
def mcDenyAt (s : State) (m : McStore) (a : W64) : Nat :=
  let flat := flatOf m.k
  let scopeBad : Bool := decide (m.scope < scopeTo s flat a)
  match regionOf a with
  | .nonCanon => 7
  | .window => 11
  | .spad _ _ _ => if scopeBad then 8 else 2
  | .shared =>
    if scopeBad then 8
    else match walkRights s (ordOf flat) (s.ctx m.ctx).domain a with
    | .error _ => 1
    | .ok e =>
      if !e.w then 1 else if !e.m then 2 else if m.red && !e.a then 3
      else if isReplicated s flat a && !e.replica then 10
      else match translate s (devFor s flat a) a with
      | .error _ => 4
      | .ok l =>
        if l.cw then 4
        else if m.red && l.tier = 2 && m.typ ≠ 1 then 5
        else 0

/-- Why a destination is denied: the first reason, in the order of R194, that any page of it gives; 0 where it is written. A misaligned one is denied,
and does not trap. (DEDUCED: log 183.) -/
def mcDeny (s : State) (m : McStore) (a : W64) : Nat :=
  if a.toNat % mcElem m.typ ≠ 0 then 6
  else
    let rs := (piecesOf a (mcSize m.typ)).map fun r => mcDenyAt s m r.1
    ([7, 11, 8, 1, 2, 3, 10, 4, 5].find? rs.contains).getD 0

/-- The bytes a reducing store leaves at a destination (R191, R203). -/
def redBytes (s : State) (m : McStore) (a : W64) : List Byte :=
  let n := mcElem m.typ
  (List.range (mcSize m.typ / n)).flatMap fun i =>
    let old := homeNum s (flatOf m.k) (a + BitVec.ofNat 64 (i * n)) n
    let x := fieldAt m.data (i * n) n
    bytesOf n (if m.typ = 2 ∨ m.typ = 3 ∨ m.typ = 5 then (addF (if n = 4 then fmt32 else fmt64) rcRNE old x).code else old + x)

/-- A write of all 64 bytes of a lost line clears its mark (R206). -/
def healRange (s : State) (flat : Nat) (a : W64) (n : Nat) : State :=
  let ls := (linesOf a n).filter fun l => wholeLine a n l && isLost s flat l
  if ls.isEmpty then s else healLines s flat ls

/-- One destination performed at its home and, on a replicated page, at every replica (R192); at a lost line a partial store, and a reducing one, is
dropped with a record (R206, R514). -/
def mcPerform (s : State) (m : McStore) (a : W64) : State :=
  let flat := flatOf m.k
  let n := mcSize m.typ
  let ls := linesOf a n
  let s1 := ls.foldl (fun s l => toHome (abortForStore (noteOwn (hot s flat l) ⟨flat, m.k, m.ctx⟩ l) (vaId s flat l)) flat l) s
  let bad (l : W64) : Bool := isLost s1 flat l && (m.red || !wholeLine a n l)
  let bs := bytesFrom a (if m.red then redBytes s1 m a else m.data)
  match ls.find? bad with
  | some l =>
    let (s2, slot) := mcheckWrite s1 m.ctx flat (mcheckRecord 1 3 flat m.pc a l)
    let s3 := addDeferred s2 m.k ⟨false, m.scope, 0x0C, 0, slot⟩
    replicaWrite (if m.red then s3 else healRange s3 flat a n) flat (bs.filter fun b => !bad (lineOf b.1))
  | none => replicaWrite (if m.red then s1 else healRange s1 flat a n) flat bs

/-- The end of a multicast or reducing store: its error record when a destination was denied (R193, R194). -/
def mcEnd (s : State) (m : McStore) : State :=
  if m.deny = 0 then s
  else
    let reason (i : Nat) : Nat := if m.mask / 2 ^ i % 2 = 0 then 9 else (m.reasons.find? (·.1 = i)).elim 0 (·.2)
    let (s1, slot) := writeRecord s m.ctx (flatOf m.k)
      (record64 ([(0, 1, if m.red then 2 else 1), (1, 1, 3), (2, 1, m.deny), (3, 1, m.scope), (8, 8, m.pc.toNat)] ++
        (List.range 8).map fun i => (16 + i, 1, reason i)))
    addDeferred s1 m.k ⟨true, m.scope, 0x03, Config.deferredReason m.deny, slot⟩

/-- The oldest destination on its way from a core is checked at its home and written or denied (R192, R193). -/
def execDestCheckAtHome (flat : Nat) (s : State) : Host.Outcome State Fault Refusal :=
  .next (match (s.core flat).mcast with
    | [] => s
    | m :: ms =>
      match m.todo with
      | [] => mcEnd (s.modCore flat fun c => { c with mcast := ms }) m
      | (i, a) :: todo =>
        if cutOff s flat a then s
        else
        let d := mcDeny s m a
        let m1 := if d = 0 then { m with todo } else { m with todo, deny := m.deny ||| 2 ^ i, reasons := m.reasons ++ [(i, d)] }
        let s1 := if d = 0 then mcPerform s m a else s
        if todo = [] then mcEnd (s1.modCore flat fun c => { c with mcast := ms }) m1
        else s1.modCore flat fun c => { c with mcast := m1 :: ms })

/-! ## Events of memory -/

/-- The oldest store of a core's buffer is performed, granule by granule, and leaves the buffer with its last (R175, R177). Which granule comes next is a
free value. (DEDUCED: log 37.) -/
def execStorePerformed (flat : Nat) (s : State) : Host.Outcome State Fault Refusal :=
  .next (match (s.core flat).sbuf with
    | [] => s
    | e :: _ =>
      let (s1, e1) := storeAct { s with free := s.free + 1 } e (Config.nextGranule s.free)
      s1.modCore flat fun c => { c with sbuf := if e1.left.isEmpty then c.sbuf.tail else e1 :: c.sbuf.tail })

/-- The home slice reserves a slot and the writer fills it (R195). -/
def execErrorRecordReserve (ctx : Nat) (record : List Byte) (s : State) : Host.Outcome State Fault Refusal :=
  .next (writeRecord s ctx 0 (record ++ List.replicate (64 - record.length) 0)).1

/-- A guest copy reaches its 20 µs: written to its home if dirty and invalidated (R185); so is a stash line homed on another die (R240). -/
def execGuestCopyExpiry (dk : Nat) (line : Nat) (s : State) : Host.Outcome State Fault Refusal :=
  let l := lineOf (BitVec.ofNat 64 line)
  let s1 := guestDrop s dk l
  .next ((stashGuestLines s1 dk).foldl (fun s e => if e.2.2.1 = l then stashRecallLine s e.1 l else s) s1)

end Sys2Proof.Machine
end

