-- ==== Sys2Proof/Machine/Engine.lean ====
section
/-! DEFINITION. What engines share: their pushes as releases (R187), their accesses with their conditions (R218, R235). -/

namespace Sys2Proof.Machine

/-- The scope of a push by the copy rule of R187, for one location of a command. -/
def engineScopeAt (s : State) (flat : Nat) (va : W64) : Nat :=
  if isHostVa s flat va then 5
  else
    let h := homeOf s flat va
    if ordOf h ≠ ordOf flat then 4 else if dieOf h ≠ dieOf flat then 3 else 2

/-- The widest scope of the ranges of a command, granule by granule. -/
def engineScope (s : State) (flat : Nat) (rs : List (W64 × Nat)) : Nat :=
  (rs.flatMap fun r => piecesOf r.1 r.2).foldl (fun m a => max m (engineScopeAt s flat a.1)) 2

/-- The push of a command: a release, at the engine's scope, of the partition's earlier accesses (R187); false where it waits. -/
def pushRelease (scope : Nat) : M Bool := do
  let k ← me
  let s ← get
  if (taskOn s k).isSome then pure true
  else if storesDone s k then
    modify fun s => releaseAt s (flatOf k) scope
    pure true
  else pure false

/-- The canonical form and the window of a range only (R333). -/
def formM (acc : Acc) (a : W64) (n : Nat) : M Unit := fun s =>
  match (piecesOf a n).findSome? fun r =>
      match regionOf r.1 with
      | .nonCanon => some (stopOf acc ⟨3, 0x01, r.1, none, false⟩)
      | .window => some (stopOf acc ⟨3, 0x02, r.1, none, false⟩)
      | _ => none with
  | some t => .error t
  | none => .ok ((), s)

/-- Read bytes as an engine that serves the part's stash mappings: stream engines (R228, R241). -/
def engineReadOwn (s : State) (w : Who) (a : W64) (n : Nat) : State × List Byte :=
  let s1 := prepLines s w (linesOf a n)
  (s1, (List.range n).map fun i => loadByte s1 w (a + BitVec.ofNat 64 i))

/-- Write bytes as such an engine; a store made outside a task aborts the tasks that touched the granule (R434). -/
def engineWriteOwn (s : State) (w : Who) (a : W64) (bs : List Byte) : State :=
  let all := bytesFrom a bs
  (linesOf a bs.length).foldl (fun s l => lineWrite (abortForStore s (vaId s w.flat l)) w l (all.filter fun b => lineOf b.1 = l)) (healRange s w.flat a bs.length)

/-- Read bytes at their homes, as every other engine does (R241). -/
def engineRead (s : State) (flat : Nat) (a : W64) (n : Nat) : State × List Byte :=
  let s1 := (linesOf a n).foldl (fun s l => toHome (hotLoad s flat l) flat l) s
  (s1, (List.range n).map fun i =>
    match loadKey s1 flat (a + BitVec.ofNat 64 i) with
    | some k => memRead s1.mem k
    | none => memDefault)

/-- Write bytes at their homes. (DEDUCED: log 36.) -/
def engineWrite (s : State) (flat : Nat) (a : W64) (bs : List Byte) : State :=
  homeWrite ((linesOf a bs.length).foldl (fun s l => toHome (abortForStore (hot s flat l) (vaId s flat l)) flat l) (healRange s flat a bs.length)) flat a bs

end Sys2Proof.Machine
end

