-- ==== Sys2Proof/Machine/Copies.lean ====
section
/-! DEFINITION. Copy channels, clipped tiles, multicast fills, the holding buffer and the mailbox (R370 to R382, R393 to R397). -/

namespace Sys2Proof.Machine

/-! ## What the members share -/

/-- VALUE in partition D and inside a running task (R392). -/
def engineOnly : M Unit := do
  let k ← me
  if idxOf k = 3 then illegalValue
  noTask

/-- A credit kept at a start input of a part (R259), if there is one, is spent. -/
def Part.spend (p : Part) (t : Fin 8) : Option Part :=
  if 0 < p.damask.credits[t] then some { p with damask := { p.damask with credits := p.damask.credits.set t (p.damask.credits[t] - 1) } } else none

/-- A start pulse that finds nothing held is kept, up to 255. -/
def Part.keep (p : Part) (t : Fin 8) : Part :=
  { p with damask := { p.damask with credits := p.damask.credits.set t (min 255 (p.damask.credits[t] + 1)) } }

def modChan (s : State) (k : Nat) (ch : Fin 4) (f : Chan → Chan) : State :=
  s.modPart k fun p => { p with chans := p.chans.set ch (f p.chans[ch]) }

/-- CPY_DONE: the oldest ID that is not DONE (R383). -/
def Chan.done (c : Chan) : Nat :=
  match c.reqs with
  | r :: _ => r.id
  | [] => c.next

/-- The record of a copy, fill or transfer (R375). -/
def moveRecord (kind code reason chan acc : Nat) (pc addr : W64) (id deny : Nat) : List Byte :=
  record64 [(0, 1, kind), (1, 1, code), (2, 1, reason), (3, 1, chan), (4, 1, acc), (8, 8, pc.toNat), (16, 8, addr.toNat), (24, 8, id), (32, 2, deny)]

/-! ## The mailbox (R365, R377, R382) -/

/-- Entries of a part that its clipped copies reserve. -/
def Part.reserved (p : Part) : Nat :=
  (List.finRange 4).foldl (fun n c => n + ((p.chans[c]).reqs.filter (·.clip)).length) 0

/-- Entries of a core's mailbox in use or reserved. (DEDUCED: log 156.) -/
def mailboxUsed (s : State) (flat : Nat) : Nat :=
  (s.core flat).mailbox.length + ([0, 1, 2].foldl (fun n q => n + (s.part (flat * 4 + q)).reserved) 0) +
    (s.away.foldl (fun n a => if a.1 = flat then n + a.2.reserved else n) 0)

/-- An entry arrives in a core's mailbox: Damask input 18 of the part of its context pulses. -/
def mailboxPut (s : State) (flat : Nat) (e : MbEnt) : State :=
  pulseOf (s.modCore flat fun c => { c with mailbox := c.mailbox ++ [e] }) flat e.ctx 18

/-! ## The elements of a copy (R372, R377) -/

/-- The first of `n` indices that lie in a window after an offset, and their count. -/
def clipRange (n : Nat) (off : Int) (lim : Nat) : Nat × Nat :=
  let lo := max 0 (-off)
  let hi := min (n : Int) ((lim : Int) - off)
  if lo < hi then (lo.toNat, (hi - lo).toNat) else (0, 0)

/-- Rows and columns that a copy moves: first row, rows, first column, columns; all zero counts where no element is copied. -/
def CReq.box (r : CReq) : Nat × Nat × Nat × Nat :=
  if r.clip then
    let (r0, rn) := clipRange r.rows r.y0 r.h
    let (c0, cn) := clipRange r.cols r.x0 r.w
    if rn = 0 ∨ cn = 0 then (Config.emptyBox (2 * r.id), 0, Config.emptyBox (2 * r.id + 1), 0) else (r0, rn, c0, cn)
  else (0, r.rows, 0, r.cols)

/-- The elements of a copy, in row-major order, or the lines of a fill (R378, R379). -/
def CReq.count (r : CReq) : Nat :=
  match r.kind with
  | .copy => let (_, rn, _, cn) := r.box; rn * cn
  | _ => (r.len + 63) / 64

/-- Source, destination and bytes of an element of a copy or a line of a fill. -/
def CReq.elem (r : CReq) (i : Nat) : W64 × W64 × Nat :=
  match r.kind with
  | .copy =>
    let (r0, _, c0, cn) := r.box
    let y := r0 + i / cn
    let x := c0 + i % cn
    (r.src + BitVec.ofInt 64 ((r.y0 + y) * r.sstride + (r.x0 + x) * r.ew), r.dst + BitVec.ofNat 64 (y * r.dstride + x * r.ew), r.ew)
  | _ => (r.src + BitVec.ofNat 64 (64 * i), r.dst + BitVec.ofNat 64 (64 * i), min 64 (r.len - 64 * i))

/-- The elements that one act moves: from the first that is not written, in row-major order, those whose destinations lie in one granule of its path
(R175, R188, R372). -/
def CReq.batch (r : CReq) (s : State) (flat : Nat) : List Nat :=
  ((List.range (min 32 (r.count - r.ack))).map (· + r.ack)).takeWhile fun i => granuleAt s flat (r.elem i).2.1 = granuleAt s flat (r.elem r.ack).2.1

/-- The next element is written, at a home. -/
def CReq.wrote (r : CReq) (h : Nat) : CReq := { r with ack := r.ack + 1, home := some h }

/-- The rows of a copy as ranges, for its scope (R187). -/
def CReq.ranges (r : CReq) : List (W64 × Nat) :=
  let (r0, rn, c0, cn) := r.box
  (List.range rn).flatMap fun i =>
    let y := r0 + i
    [(r.src + BitVec.ofInt 64 ((r.y0 + y) * r.sstride + (r.x0 + c0) * r.ew), cn * r.ew),
     (r.dst + BitVec.ofNat 64 (y * r.dstride + c0 * r.ew), cn * r.ew)]

/-- The conditions of an element: the right to read its source and, in a copy, to write its destination; a fault comes with ACC of its record (R375). -/
def copyCheck (s : State) (w : Who) (r : CReq) (i : Nat) : Except (EFault × Nat) State :=
  let (a, b, n) := r.elem i
  match engineCheck s w .read a n with
  | .error e => .error (e, 0)
  | .ok s1 =>
    match (if r.kind = .copy then engineCheck s1 w .write b n else .ok s1) with
    | .error e => .error ({ e with walked := e.walked || walks s w a }, 1)
    | .ok s2 => .ok s2

/-- Whether an element's source or destination cannot be reached now (R493). -/
def copyCut (s : State) (flat : Nat) (r : CReq) (i : Nat) : Bool :=
  let (a, b, n) := r.elem i
  engineCut s flat a n || engineCut s flat b n

/-- The elements that the next act writes: those of its granule before the first that meets a condition (R374) or cannot be reached. -/
def copyReady (s : State) (w : Who) (r : CReq) : List Nat :=
  (r.batch s w.flat).takeWhile fun i => !copyCut s w.flat r i &&
    match copyCheck s w r i with
    | .ok _ => true
    | .error _ => false

/-! ## Fills (R378, R379) -/

/-- The lines of a fill: address, bytes and offset. -/
def fillLines (src : W64) (len : Nat) : List (W64 × Nat × Nat) :=
  (List.range ((len + 63) / 64)).map fun i => (src + BitVec.ofNat 64 (64 * i), min 64 (len - 64 * i), 64 * i)

/-- The slice offset of an address of the own-slice window. -/
def ownOffset (a : W64) : Nat :=
  match regionOf a with
  | .spad _ _ off => off
  | _ => 0

/-- The named slices that the context may not write (R170). -/
def deniedSlices (s : State) (w : Who) (r : CReq) : Nat :=
  (List.range 16).foldl (fun m q =>
    if r.mask / 2 ^ q % 2 = 1 && (spadBad s w (flatAt (clOf w.flat) q) (ownOffset r.dst) r.len).isSome then m + 2 ^ q else m) 0

/-- Read lines until one faults, and give each to `f` with its offset. -/
def readLines (s : State) (w : Who) (f : State → Nat → List Byte → State) : List (W64 × Nat × Nat) → State × Option EFault
  | [] => (s, none)
  | (a, n, off) :: ls =>
    match engineCheck s w .read a n with
    | .error e => (e.note s w.flat, some e)
    | .ok s1 =>
      let (s2, bs) := engineRead s1 w.flat a n
      readLines (f s2 off bs) w f ls

/-- Write a line of a fill into every named slice but the denied ones. -/
def fillSlices (w : Who) (r : CReq) (deny : Nat) (s : State) (off : Nat) (bs : List Byte) : State :=
  (List.range 16).foldl (fun s q =>
    if r.mask / 2 ^ q % 2 = 1 && deny / 2 ^ q % 2 = 0 then engineWrite s (flatAt (clOf w.flat) q) (r.dst + BitVec.ofNat 64 off) bs else s) s

/-! ## Completion (R373, R374, R377) -/

/-- Add an untaken record of a channel. (DEDUCED: log 60.) -/
def copyRecord (s : State) (k : Nat) (ch : Fin 4) (r : CReq) (code reason acc : Nat) (addr : W64) (deny : Nat) : State :=
  let (s1, slot) := writeRecord s (s.part k).ctx (flatOf k) (moveRecord 0x0A code reason ch.val acc r.pc addr r.id deny)
  modChan s1 k ch fun c => { c with recs := c.recs ++ [⟨r.id, code, reason, acc, slot⟩] }

/-- Bytes that an element of a copy, or a line of a fill, writes (R499). -/
def CReq.size (r : CReq) (deny i : Nat) : Nat :=
  match r.kind with
  | .copy => r.ew
  | _ => (r.elem i).2.2 * ((List.range 16).filter fun q => r.mask / 2 ^ q % 2 = 1 && deny / 2 ^ q % 2 = 0).length

/-- The head of a channel becomes DONE: CPY_DONE advances and Damask input c pulses. (DEDUCED: log 60.) -/
def copyFinish (s : State) (k : Nat) (ch : Fin 4) (r : CReq) : State :=
  pulse (modChan s k ch fun c => { c with reqs := c.reqs.drop 1, scope := max c.scope r.scope }) k ch.val

/-- The clip box of a copy (R377). (DESIGN CHOICE: log 135.) -/
def CReq.clipBox (r : CReq) (ch : Fin 4) : BitVec 512 :=
  let (r0, rn, c0, cn) := r.box
  bv512 (record64 [(0, 1, 1), (1, 1, ch.val), (7, 1, 0xFF), (8, 8, r.id), (16, 2, r0), (18, 2, rn), (20, 2, c0), (22, 2, cn), (24, 2, r.rows), (26, 2, r.cols)])

/-- A copy is DONE without a fault: a clip box where it clipped an element. -/
def copyGood (s : State) (k : Nat) (ch : Fin 4) (r : CReq) : State :=
  let s1 := copyFinish s k ch r
  let (_, rn, _, cn) := r.box
  if r.clip && decide (rn * cn < r.rows * r.cols) then mailboxPut s1 (flatOf k) ⟨(s.part k).ctx, r.scope, r.clipBox ch⟩ else s1

/-- Read an element at its home and write it: a copy's at its destination, a fill's line in every named slice but the denied ones. -/
def moveElem (s : State) (w : Who) (r : CReq) (i : Nat) : State :=
  let (a, b, n) := r.elem i
  let (s1, bs) := engineRead s w.flat a n
  match r.kind with
  | .copy => engineWrite s1 w.flat b bs
  | _ => fillSlices w r (deniedSlices s1 w r) s1 (64 * i) bs

/-- The next element is read and written, where it meets no condition. -/
def copyStep (w : Who) (x : State × CReq) (i : Nat) : State × CReq :=
  if x.2.ack ≠ i then x
  else match copyCheck x.1 w x.2 i with
  | .ok s1 =>
    (perf (moveElem s1 w x.2 i) w.k 10 (x.2.size (deniedSlices s1 w x.2) i), x.2.wrote (if x.2.kind = .copy then homeOf s1 w.flat (x.2.elem i).2.1 else w.flat))
  | .error _ => x

/-- One act of the head of a channel: the elements that are ready are read and written one after the other, as one write of their granule
(R188, R372). (DEDUCED: log 59.) -/
def copyMove (s : State) (k : Nat) (ch : Fin 4) (r : CReq) : State × CReq :=
  let w := whoOf s k
  let (s1, r1) := (copyReady s w r).foldl (copyStep w) (s, r)
  (modChan s1 k ch fun c => { c with reqs := r1 :: c.reqs.drop 1 }, r1)

/-- The record of the slices that a fill dropped. (DEDUCED: log 129.) -/
def fillDenied (s : State) (k : Nat) (ch : Fin 4) (r : CReq) : State :=
  let deny := deniedSlices s (whoOf s k) r
  if r.kind = .fill && deny ≠ 0 then copyRecord s k ch r 0x03 0x03 1 r.dst deny else s

/-- The running head of a channel. -/
def runningHead (s : State) (k : Nat) (ch : Fin 4) : Option CReq :=
  match ((s.part k).chans[ch]).reqs with
  | r :: _ => if r.st = .running then some r else none
  | [] => none

/-- The next request of a channel runs once the one before it is DONE; a fill with no receiver is DONE at once (R373, R378). (DEDUCED: log 130.) -/
def execCopyStart (k : Nat) (ch : Fin 4) (s : State) : Host.Outcome State Fault Refusal :=
  .next (match ((s.part k).chans[ch]).reqs with
    | r :: rs =>
      if r.st = .queued && !(s.cluster (clOf (flatOf k))).halted then
        let s1 := modChan s k ch fun c => { c with reqs := { r with st := .running } :: rs }
        if r.kind = .fill && r.mask = 0 then copyFinish s1 k ch r else s1
      else s
    | [] => s)

/-- The last write of a copy or fill is performed (R373): the request is DONE or, where the home of that write lies on another die or device, that home
sends COPYACK. -/
def copyEnd (s : State) (k : Nat) (ch : Fin 4) (r : CReq) : State :=
  let h := r.home.getD (flatOf k)
  if dieOf h ≠ dieOf (flatOf k) then
    let s1 := modChan s k ch fun c => { c with reqs := { r with st := .acking } :: c.reqs.drop 1 }
    sendMsg s1 { dest := flatOf k, tag := 0, cls := 0, rp := false, bnc := false, status := 0, handler := 0x20
                 args := [BitVec.ofNat 64 ch.val, BitVec.ofNat 64 r.id, 0, 0], key := 0, src := h, srcPart := 0, ctx := (s.part k).ctx
                 task := false, parent := none, sender := .nobody }
  else copyGood (fillDenied s k ch r) k ch r

/-- The next elements of the running copy or fill of a channel are written; after the last, the request ends (R372, R373). -/
def execCopyDone (k : Nat) (ch : Fin 4) (s : State) : Host.Outcome State Fault Refusal :=
  .next (match runningHead s k ch with
    | some r =>
      if r.kind = .park || r.broken.isSome || (s.cluster (clOf (flatOf k))).halted then s
      else if r.count ≤ r.ack then copyEnd s k ch r
      else if (copyReady s (whoOf s k) r).isEmpty then s
      else
        let (s1, r1) := copyMove s k ch r
        if r1.count ≤ r1.ack then copyEnd s1 k ch r1 else s1
    | none => s)

/-- What stops a copy or fill: its broken pin (R224), or the condition of its first element not written (R374).
The fault with ACC of its record. (DEDUCED: log 128.) -/
def copyStop (s : State) (w : Who) (r : CReq) : Option (EFault × Nat) :=
  let (a, b, _) := r.elem r.ack
  match r.broken with
  | some acc => some (⟨0x10, 0x20, if acc = 0 then a else b, none, false⟩, acc)
  | none =>
    if r.count ≤ r.ack then none
    else match copyCheck s w r r.ack with
    | .error e => some e
    | .ok _ => none

/-- A copy or fill stops at its faulting element (R374), or because its pin was broken (R224). -/
def execCopyFault (k : Nat) (ch : Fin 4) (s : State) : Host.Outcome State Fault Refusal :=
  .next (match runningHead s k ch with
    | some r =>
      if r.kind = .park || (s.cluster (clOf (flatOf k))).halted then s
      else match copyStop s (whoOf s k) r with
      | some (e, acc) => copyFinish (copyRecord (fillDenied (e.note s (flatOf k)) k ch r) k ch r e.code e.reason acc e.addr 0) k ch r
      | none => s
    | none => s)

/-- COPYACK reaches the issuing core (R357, R373): the copy that waits for it is DONE. -/
def copyAck (s : State) (flat c : Nat) (ch id : W64) : State :=
  match s.placed flat c with
  | none => s
  | some k =>
    let i : Fin 4 := ⟨ch.toNat % 4, Nat.mod_lt _ (by decide)⟩
    if 4 ≤ ch.toNat then s
    else match ((s.part k).chans[i]).reqs with
    | r :: _ => if r.st = .acking && r.id = id.toNat then copyGood s k i r else s
    | [] => s

/-! ## The holding buffer (R379, R380) -/

/-- The slots of a cluster that a context is granted. -/
def hbGrant (s : State) (c cl : Nat) : BitVec 8 :=
  match (s.ctx c).hbgrants.find? (·.1 = cl) with
  | some g => g.2
  | none => 0

def setSlot (s : State) (cl slot : Nat) (h : HbSlot) : State := s.modCluster cl fun c => { c with hb := mset c.hb slot h }

/-- A slot frees: Damask input 20 of its owner pulses. -/
def freeSlot (s : State) (cl slot : Nat) (h : HbSlot) : State :=
  pulseOf (s.modCluster cl fun c => { c with hb := mdel c.hb slot }) h.flat h.ctx 20

/-- Clear a receiver's bit in a slot. -/
def clearBit (s : State) (cl slot pos : Nat) : State :=
  match mfind (s.cluster cl).hb slot with
  | none => s
  | some h =>
    let h' := { h with mask := if h.mask / 2 ^ pos % 2 = 1 then h.mask - 2 ^ pos else h.mask }
    if h'.parked && h'.mask = 0 then freeSlot s cl slot h' else setSlot s cl slot h'

/-- A receiver's part ends: its bit leaves every slot of its context. -/
def hbPartEnds (s : State) (flat c : Nat) : State :=
  (List.range 8).foldl (fun s slot =>
    match mfind (s.cluster (clOf flat)).hb slot with
    | some h => if h.ctx = c then clearBit s (clOf flat) slot (posOf flat) else s
    | none => s) s

/-- The running request that fills a slot of a cluster: its partition, channel and request. -/
def parkOf (s : State) (cl slot : Nat) : Option (Nat × Fin 4 × CReq) :=
  s.parts.findSome? fun kp =>
    if clOf (flatOf kp.1) = cl then
      (List.finRange 4).findSome? fun ch =>
        match runningHead s kp.1 ch with
        | some r => if r.kind = .park && r.slot = slot then some (kp.1, ch, r) else none
        | none => none
    else none

/-- A fill of a slot ends: PARKED, or PARKED and failed with a record; a slot with no receiver left frees. (DEDUCED: log 131.) -/
def execHbFillEnd (cl : Nat) (slot : Fin 8) (s : State) : Host.Outcome State Fault Refusal :=
  .next (match parkOf s cl slot.val, mfind (s.cluster cl).hb slot.val with
    | some (k, ch, r), some h =>
      if (s.cluster cl).halted || (r.broken.isNone && engineCut s (flatOf k) r.src r.len) then s else
      let add (s : State) (_ : Nat) (bs : List Byte) : State :=
        match mfind (s.cluster cl).hb slot.val with
        | some h => setSlot s cl slot.val { h with data := h.data ++ bs }
        | none => s
      let (s1, e) : State × Option EFault := if r.broken.isSome then (s, some ⟨0x10, 0x20, r.src, none, false⟩)
        else readLines (setSlot s cl slot.val { h with data := [] }) (whoOf s k) add (fillLines r.src r.len)
      let s2 := match e with
        | some e => copyRecord s1 k ch r e.code e.reason 0 e.addr 0
        | none => s1
      let s3 := copyFinish s2 k ch r
      match mfind (s3.cluster cl).hb slot.val with
      | some h =>
        let h' := { h with parked := true, failed := e.isSome }
        if h'.mask = 0 then freeSlot s3 cl slot.val h' else setSlot s3 cl slot.val h'
      | none => s3
    | _, _ => s)

/-! ## CPY and CPYTRY (R393) -/

/-- The signed value of a 16-bit field. -/
def sfield (x : W64) (hi lo : Nat) : Int := (sext64 (hi + 1 - lo) (bits x hi lo)).toInt

/-- The request of a copy's operands. -/
def copyReq (p : Part) (o : OpE) : CReq :=
  let l := o.lit.getD 0
  let shape := p.src l o.s3
  let str := p.src l o.s4
  { id := 0, pc := p.pc, kind := .copy, st := .queued, src := p.src l o.s1, dst := p.src l o.s2, ew := 2 ^ (o.mod.toNat / 4 % 4)
    rows := bits shape 11 0, cols := bits shape 23 12, x0 := sfield shape 55 40, y0 := sfield shape 39 24
    w := bits str 63 52, h := bits str 51 40, sstride := bits str 19 0, dstride := bits str 39 20, clip := o.mod.getLsbD 4
    len := 0, mask := 0, slot := 0, scope := 0, ack := 0, home := none, broken := none }

/-- Whether the words break R371. -/
def CReq.bad (r : CReq) (shape : W64) : Bool :=
  bits shape 63 56 ≠ 0 || r.rows = 0 || r.cols = 0 || r.sstride % r.ew ≠ 0 || r.dstride % r.ew ≠ 0 ||
    (if r.clip then r.w = 0 || r.h = 0 else r.x0 ≠ 0 || r.y0 ≠ 0 || r.w ≠ 0 || r.h ≠ 0)

/-- Push a request on a channel: its ID, HELD or QUEUED, a kept credit spent on a held one (R259, R376). -/
def pushReq (ch : Fin 4) (hold : Bool) (r : CReq) : M Nat := do
  let k ← me
  let p ← myPart
  let id := (p.chans[ch]).next
  let (p1, st) : Part × CState := if hold then
      match p.spend ⟨ch.val + 1, by have := ch.isLt; omega⟩ with
      | some q => (q, .queued)
      | none => (p, .held)
    else (p, .queued)
  modify fun s => modChan (s.setPart k p1) k ch fun c => { c with next := id + 1, reqs := c.reqs ++ [{ r with id, st }] }
  pure id

def chanOf (mod : BitVec 8) : Fin 4 := ⟨mod.toNat % 4, Nat.mod_lt _ (by decide)⟩

/-- DEDUCED: log 136. -/
def copyIssue (try_ : Bool) (h : Hd) (o : OpE) (s : State) : Host.Outcome State Fault Refusal :=
  issue { h, reads := rds [o.s1, o.s2, o.s3, o.s4], writes := wr o.d none } (fun _ => do
    engineOnly
    let k ← me
    let p ← myPart
    let r := copyReq p o
    if r.bad (p.src (o.lit.getD 0) o.s3) then illegalValue
    if r.src.toNat % r.ew ≠ 0 then trapM 0x04 r.src
    if r.dst.toNat % r.ew ≠ 0 then trapM 0x04 r.dst
    formM .read r.src r.ew
    formM .write r.dst r.ew
    let s ← get
    let ch := chanOf o.mod
    if 8 ≤ (p.chans[ch]).reqs.length ∨ (r.clip = true ∧ 64 ≤ mailboxUsed s (flatOf k)) then
      if try_ then
        putM o.d 0
        return .done
      else return .wait
    let scope := engineScope s (flatOf k) r.ranges
    if !(← pushRelease scope) then return .wait
    let id ← pushReq ch (o.mod.getLsbD 5) { r with scope }
    putM o.d (BitVec.ofNat 64 id)
    pure .done) s

def execCpy (h : Hd) (o : OpE) (s : State) : Host.Outcome State Fault Refusal := copyIssue false h o s
def execCpytry (h : Hd) (o : OpE) (s : State) : Host.Outcome State Fault Refusal := copyIssue true h o s

/-- A start pulse at a copy channel (R259, R376): the oldest HELD copy is QUEUED, else a credit is kept. -/
def copyPulse (s : State) (k : Nat) (ch : Fin 4) : State :=
  let c := (s.part k).chans[ch]
  match c.reqs.find? (·.st = .held) with
  | some r => modChan s k ch fun c => { c with reqs := c.reqs.map fun x => if x.id = r.id then { x with st := .queued } else x }
  | none => s.modPart k fun p => p.keep ⟨ch.val + 1, by have := ch.isLt; omega⟩

/-- Withdraw the HELD copies of a part, at its EXIT or cancel (R376): DONE with no write and no record. A holding-buffer slot that such a copy named frees. (DEDUCED: log 134.) -/
def withdrawHeld (s : State) (k : Nat) : State :=
  (List.finRange 4).foldl (fun s ch =>
    let held := ((s.part k).chans[ch]).reqs.filter (·.st = .held)
    let s1 := modChan s k ch fun c => { c with reqs := c.reqs.filter (·.st ≠ .held) }
    held.foldl (fun s r =>
      let s2 := pulse s k ch.val
      if r.kind = .park then
        match mfind (s2.cluster (clOf (flatOf k))).hb r.slot with
        | some h => freeSlot s2 (clOf (flatOf k)) r.slot h
        | none => s2
      else s2) s1) s

/-- Whether every copy of a part is DONE. -/
def Part.copiesDone (p : Part) : Bool := (List.finRange 4).all fun c => (p.chans[c]).reqs.isEmpty

/-! ## CPYWAIT (R394) -/

/-- The deferred trap of an untaken record. -/
def CRec.trap (x : CRec) : Trap := ⟨x.code, 1, x.slot, if x.code = 0x03 ∨ x.code = 0x10 then some (x.acc % 2 * 256 + x.reason) else none⟩

/-- RP_DONE: the oldest transfer ID that is neither COMPLETE nor CANCELLED (R383). -/
def Part.rpDone (p : Part) : Nat :=
  match p.xfers.find? fun x => x.st ≠ .complete && x.st ≠ .cancelled with
  | some x => x.id
  | none => p.rpNext

def execCpywait (h : Hd) (o : OpE) (s : State) : Host.Outcome State Fault Refusal :=
  issue { h, reads := rds [o.s1], writes := wr o.d none } (fun _ => do
    engineOnly
    let k ← me
    let p ← myPart
    let id := (p.src (o.lit.getD 0) o.s1).toNat
    let ch := chanOf o.mod
    let r := o.mod.getLsbD 2
    let c : Chan := p.chans[ch]
    let (next, done, recs, scope) : Nat × Nat × List CRec × Nat := if r then (p.rpNext, p.rpDone, p.rpRecs, 4) else (c.next, c.done, c.recs, c.scope)
    if next ≤ id then illegalValue
    match recs.find? fun x => x.id ≤ id with
    | some x =>
      if r then setMine fun p => { p with rpRecs := p.rpRecs.erase x }
      else modify fun s => modChan s k ch fun c => { c with recs := c.recs.erase x }
      modify fun s => markTaken s p.ctx (flatOf k) x.slot
      pure (.trapped x.trap)
    | none =>
      if done ≤ id then return .wait
      putM o.d (BitVec.ofNat 64 done)
      acquireM scope
      pure .done) s

/-! ## MCFILL and MCDRAIN (R395, R396) -/

/-- The checks of MCFILL against its table: VALUE, MISALIGN, PROT. -/
def fillReq (p : Part) (o : OpE) (park : Bool) : M CReq := do
  let l := o.lit.getD 0
  let src := p.src l o.s1
  let dst := p.src l o.s2
  let len := (p.src l o.s3).toNat
  let mask := (p.src l o.s4).toNat
  let own : Bool := match regionOf dst with
    | .spad true _ _ => true
    | _ => false
  if len = 0 ∨ (if park then 49152 else 65536) < len ∨ 65536 ≤ mask ∨ inSpad src = true ∨ (if park then 8 ≤ dst.toNat else own = false) then illegalValue
  if src.toNat % 64 ≠ 0 then trapM 0x04 src
  if !park && dst.toNat % 64 ≠ 0 then trapM 0x04 dst
  formM .read src len
  pure { id := 0, pc := p.pc, kind := if park then .park else .fill, st := .queued, src, dst := if park then 0 else dst, ew := 64, rows := 0, cols := 0
         x0 := 0, y0 := 0, w := 0, h := 0, sstride := 0, dstride := 0, clip := false, len, mask, slot := if park then dst.toNat else 0
         scope := 0, ack := 0, home := none, broken := none }

def execMcfill (h : Hd) (o : OpE) (s : State) : Host.Outcome State Fault Refusal :=
  issue { h, reads := rds [o.s1, o.s2, o.s3, o.s4], writes := wr o.d none } (fun _ => do
    engineOnly
    let k ← me
    let p ← myPart
    let r ← fillReq p o false
    let s ← get
    let ch := chanOf o.mod
    if 8 ≤ (p.chans[ch]).reqs.length then return .wait
    let scope := engineScope s (flatOf k) [(r.src, r.len)]
    if !(← pushRelease scope) then return .wait
    let id ← pushReq ch (o.mod.getLsbD 5) { r with scope }
    putM o.d (BitVec.ofNat 64 id)
    pure .done) s

def execMcfillPark (h : Hd) (o : OpE) (s : State) : Host.Outcome State Fault Refusal :=
  issue { h, reads := rds [o.s1, o.s2, o.s3, o.s4], writes := wr o.d none } (fun _ => do
    engineOnly
    let k ← me
    let p ← myPart
    let r ← fillReq p o true
    let s ← get
    let cl := clOf (flatOf k)
    if !(hbGrant s p.ctx cl).getLsbD r.slot then illegalValue
    let ch := chanOf o.mod
    if (mfind (s.cluster cl).hb r.slot).isSome ∨ 8 ≤ (p.chans[ch]).reqs.length then return .wait
    let scope := engineScope s (flatOf k) [(r.src, r.len)]
    if !(← pushRelease scope) then return .wait
    let id ← pushReq ch (o.mod.getLsbD 5) { r with scope }
    modify fun s => setSlot s cl r.slot ⟨false, false, flatOf k, p.ctx, r.mask, scope, []⟩
    putM o.d (BitVec.ofNat 64 id)
    pure .done) s

/-- MCDRAIN waits for a slot; where the slot's owner's context is destroyed meanwhile, it returns 0 (R380). DEDUCED: log 132, 133. -/
def execMcdrain (h : Hd) (o : OpE) (s : State) : Host.Outcome State Fault Refusal :=
  issue { h, reads := rds [o.s1, o.s2], writes := wr o.d none } (fun _ => do
    engineOnly
    let k ← me
    let p ← myPart
    let flat := flatOf k
    let cl := clOf flat
    let slot := (p.src (o.lit.getD 0) o.s1).toNat
    let dst := p.src (o.lit.getD 0) o.s2
    if 8 ≤ slot then illegalValue
    if dst.toNat % 64 ≠ 0 then trapM 0x04 dst
    formM .write dst 1
    let s ← get
    setMine fun p => { p with hbWait := none }
    if p.hbWait = some (slot, true) then
      putM o.d 0
      return .done
    let rest : M Flow := do
      if o.mod.getLsbD 0 then
        putM o.d 0
        pure .done
      else
        setMine fun p => { p with hbWait := some (slot, false) }
        pure .waitKeep
    match mfind (s.cluster cl).hb slot with
    | some hs =>
      if hs.parked && hs.ctx = p.ctx && decide (hs.mask / 2 ^ posOf flat % 2 = 1) then
        if hs.failed then
          modify fun s => clearBit s cl slot (posOf flat)
          putM o.d 0
          pure .done
        else
          let n := hs.data.length
          if bufOverlaps s k dst n then return .wait
          match checkAccess s (whoOf s k) .write [(dst, n)] with
          | .error e => stop (seenStop e (.trap ⟨e.code, 0, e.addr, some (256 + e.reason)⟩))
          | .ok s1 =>
            match (linesOf dst n).find? (isReplicated s1 flat) with
            | some l => stop (.trap ⟨3, 0, if l.toNat < dst.toNat then dst else l, some (256 + 6)⟩)
            | none =>
              match (linesOf dst n).find? fun l => isLost s1 flat l && !wholeLine dst n l with
              | some l => stop (.lost 1 dst l)
              | none =>
                set (clearBit (engineWrite (s1.modPart k fun p => { p with hbWait := none }) flat dst hs.data) cl slot (posOf flat))
                putM o.d (BitVec.ofNat 64 n)
                acquireM 1
                pure .done
      else rest
    | none => rest) s

/-! ## MBXPOP (R397) -/

/-- The predicate that a source field names as a destination, none where it is 0x00. -/
def predDst : Src → Dst
  | .c i => .p ⟨i.val % 8, Nat.mod_lt _ (by decide)⟩
  | _ => .none

def execMbxpop (h : Hd) (o : OpE) (s : State) : Host.Outcome State Fault Refusal :=
  issue { h, writes := wr o.d none ++ wr (predDst o.s4) none } (fun _ => do
    engineOnly
    let k ← me
    let p ← myPart
    let s ← get
    match (s.core (flatOf k)).mailbox.find? (·.ctx = p.ctx) with
    | some e =>
      modify fun s => s.modCore (flatOf k) fun c => { c with mailbox := c.mailbox.erase e }
      putV o.d (e.data.setWidth 2048)
      putM (predDst o.s4) ones64
      if e.scope ≠ 0 then acquireM e.scope
      pure .done
    | none =>
      if o.mod.getLsbD 0 then
        putM (predDst o.s4) 0
        pure .done
      else pure .wait) s

end Sys2Proof.Machine
end

