-- ==== Sys2Proof/Machine/Streams.lean ====
section
/-! DEFINITION. Streams (R226 to R238) and the stash (R239 to R242), with the events of their engine. -/

namespace Sys2Proof.Machine

/-! ## Elements of a vector -/

/-- Read elements of a vector in order: their values, up to the first that faults. (DEDUCED: log 164.) -/
def readElems (w : Who) (t : Stream) (ix : List VReg) (j : Nat) : List Nat → State → State × List Nat × Option (Nat × EFault)
  | [], s => (s, [], none)
  | e :: es, s =>
    let (a, sh) := t.locate ix j e
    match engineCheck s w .read a t.ebytes with
    | .error f => (s, [], some (e, { f with addr := a }))
    | .ok s1 =>
      let (s2, bs) := engineReadOwn s1 w a t.ebytes
      let (s3, vs, f) := readElems w t ix j es s2
      (s3, elemFrom t.width sh bs :: vs, f)

/-- Write the elements of a vector in stream order from one on: all, or up to the first that faults. (DEDUCED: log 164.) -/
def writeElems (w : Who) (t : Stream) (j : Nat) (v : VReg) : List Nat → State → State × Option (Nat × EFault)
  | [], s => (s, none)
  | e :: es, s =>
    let (a, sh) := t.locate [] j e
    match engineCheck s w .write a t.ebytes with
    | .error f => (s, some (e, { f with addr := a }))
    | .ok s1 =>
      let x := elemOf v t.width e
      if t.width = 4 then
        let (s2, bs) := engineReadOwn s1 w a 1
        let b := ofBytes bs
        writeElems w t j v es (engineWriteOwn s2 w a (bytesOf 1 (if sh = 0 then b / 16 * 16 + x else b % 16 + 16 * x)))
      else writeElems w t j v es (engineWriteOwn s1 w a (bytesOf t.ebytes x))

/-! ## The engine (R230, R234, R235) -/

/-- Whether a read stream's engine may fetch its next vector. -/
def Stream.mayFetch (t : Stream) : Bool :=
  !t.write && t.state ≠ .unbound && decide (t.eng < t.vecs) && decide (t.eng < t.pos + 4) &&
    (match t.fault with
      | none => true
      | some f => decide (t.eng < f.vec))

/-- Index vectors that the next vector of an indexed stream still needs: for its elements within the stream. -/
def Stream.needIx (t : Stream) : Nat := ((t.elems t.eng).length + 63) / 64

/-- Whether the engine's next act of a stream is an access to memory: a read stream's with its index vectors at hand, a write stream's with a vector held. -/
def Stream.atWork (t : Stream) : Bool :=
  if t.write then t.state ≠ .unbound && !t.slots.isEmpty && t.fault.isNone
  else t.mayFetch && (t.index.isNone || decide (t.needIx ≤ t.ixs.length))

/-- The next element of the engine of a stream: its vector, its place in the vector, its address. -/
def Stream.next (t : Stream) : Nat × Nat × W64 :=
  let j := if t.write then (t.slots.head?.map (·.idx)).getD 0 else t.eng
  let e := if t.write then t.elem else t.got.length
  (j, e, (t.locate t.ixs j e).1)

/-- The bytes of the chunk that an engine at work holds a pin on: those of its next element (R224). (DEDUCED: log 82.) -/
def Stream.pinned (t : Stream) : List (W64 × Nat) := if t.atWork then [(t.next.2.2, t.ebytes)] else []

/-- Whether an engine at work has come to a vector of which an element still to be accessed lies on a module that cannot be reached: it waits (R493). -/
def streamCut (s : State) (flat : Nat) (t : Stream) : Bool :=
  let (j, from_, _) := t.next
  t.atWork && (t.elems j).any fun e => decide (from_ ≤ e) && engineCut s flat (t.locate t.ixs j e).1 t.ebytes

/-- A read stream's engine fetches the rest of its next vector: it arrives, or what was read before a fault is kept. -/
def fetchVector (s : State) (k : Nat) (r : Fin 8) (t : Stream) : State × Bool :=
  match readElems (whoOf s k) t t.ixs t.eng ((t.elems t.eng).drop t.got.length) s with
  | (s1, vs, none) =>
    (setStream s1 k r (Stream.settle { t with
      slots := t.slots ++ [⟨t.eng, packVals t.width (t.got ++ vs), t.ixs⟩], eng := t.eng + 1, ixs := [], got := [] }), false)
  | (s1, vs, some (e, f)) => ((faultStream s1 k r { t with got := t.got ++ vs } t.eng e f).1, true)

/-- One act of the engine of a stream: an indexed stream takes an index vector, a read stream fetches a vector, a write stream writes one, a
freshly bound write stream offers its slots; one whose pin is broken stops with PINLIMIT. The Bool says that a fault was met, with the state it leaves.
(DEDUCED: log 82, 161.) -/
def engineAct (s : State) (k : Nat) (r : Fin 8) : State × Bool :=
  let w := whoOf s k
  let t := (s.part k).streams[r]
  if t.state = .unbound || streamCut s w.flat t then (s, false)
  else if t.broken && t.atWork then ((faultStream s k r t t.next.1 t.next.2.1 ⟨0x10, 0x20, t.next.2.2, none, false⟩).1, true)
  else if t.write then
    match t.slots, t.fault with
    | x :: xs, none =>
      match writeElems w t x.idx x.v ((t.elems x.idx).drop t.elem) s with
      | (s1, none) => (pulse (setStream s1 k r (Stream.settle { t with slots := xs, elem := 0 })) k (8 + r.val), false)
      | (s1, some (e, f)) => ((faultStream s1 k r { t with elem := e } x.idx e f).1, true)
    | [], none => (setStream s k r t.settle, false)
    | _, _ => (s, false)
  else if !t.mayFetch then (setStream s k r t.settle, false)
  else match t.index with
  | none => fetchVector s k r t
  | some i =>
    if t.ixs.length < t.needIx then
      let u := (s.part k).streams[i]
      match u.slots, u.fault with
      | x :: xs, _ =>
        let s1 := setStream s k i (Stream.settle { u with slots := xs, pos := u.pos + 1 })
        (setStream s1 k r { t with ixs := t.ixs ++ [x.v] }, false)
      | [], some f =>
        if f.vec ≤ u.pos then
          (setStream s k r ({ t with fault := some { f with vec := t.eng }, lastReason := f.reason }.settle), true)
        else (s, false)
      | [], none => (s, false)
    else fetchVector s k r t

/-- The stream engine serves a stream: a vector arrives, or a pushed vector is written. -/
def execStreamServe (k : Nat) (r : Fin 8) (s : State) : Host.Outcome State Fault Refusal :=
  let (s1, bad) := engineAct s k r
  .next (if bad then s else s1)

/-- The stream engine meets a fault at its next element. -/
def execStreamFault (k : Nat) (r : Fin 8) (s : State) : Host.Outcome State Fault Refusal :=
  let (s1, bad) := engineAct s k r
  .next (if bad then s1 else s)

/-! ## Stream instructions (R237) -/

/-- The stream number of an operand. -/
def streamNo (n : Fin 64) : Fin 8 := ⟨n.val % 8, Nat.mod_lt _ (by decide)⟩
def streamOfSrc : Src → Fin 8
  | .v i => streamNo i
  | _ => 0
def streamOfDst : Dst → Fin 8
  | .v i => streamNo i
  | _ => 0

/-- Whether a descriptor is malformed (R226). -/
def descBad (d : List Byte) (indexed : Bool) : Bool :=
  let elw := fieldAt d 8 1
  let counts := (List.range 4).map fun i => fieldAt d (16 + 4 * i) 4
  let w := match elw with
    | 0 => 4
    | 1 => 2
    | _ => 1
  decide (4 ≤ elw) || decide (fieldAt d 9 7 ≠ 0) ||
  (if indexed then counts.any (· ≠ 0) else counts.any (· = 0) || decide (2 ^ 32 < counts.foldl (· * ·) 1)) ||
  decide (fieldAt d 0 8 % w ≠ 0)

/-- The stream that a descriptor binds. -/
def streamFrom (d : List Byte) (write : Bool) (pc : W64) : Stream :=
  let counts := (List.range 4).map fun i => fieldAt d (16 + 4 * i) 4
  { Stream.reset with
    state := .filling, write, base := BitVec.ofNat 64 (fieldAt d 0 8), elw := fieldAt d 8 1, counts
    strides := (List.range 4).map fun i => intOf true 64 (fieldAt d (32 + 8 * i) 8)
    n := counts.foldl (· * ·) 1, bindPc := pc }

/-- Every location of an affine stream, for its scope. -/
def Stream.ranges (t : Stream) : List (W64 × Nat) :=
  (List.range t.n).map fun k => ((t.place (affineOffset t.counts t.strides k)).1, t.ebytes)

/-- SBIND and SBINDX. (DEDUCED: log 160.) R233 gives SPECULATIVE no place among the STREAM reasons of SBIND: it comes after BOUND and before DESCRIPTOR.
(DESIGN CHOICE: log 194.) -/
def bind (h : Hd) (o : OpE) (indexed : Bool) (s : State) : Host.Outcome State Fault Refusal :=
  issue { h, reads := rds [o.s1] } (fun _ => do
    let k ← me
    let p ← myPart
    let a := p.src (o.lit.getD 0) o.s1
    let r := streamOfDst o.d
    let write := !indexed && o.mod.getLsbD 0
    if a.toNat % 64 ≠ 0 then trapM 0x04 a
    checkM .read [(a, 64)]
    match ← readM [(a, 64)] with
    | none => pure .wait
    | some bs =>
      let d := bs.flatten
      let s ← get
      if p.streams[r].state ≠ .unbound then stop (streamTrap (56 + r.val) 0x04)
      if write && (taskOn s k).isSome then stop (streamTrap (56 + r.val) 0x06)
      if descBad d indexed then stop (streamTrap (56 + r.val) 0x05)
      let t := streamFrom d write p.pc
      if indexed then
        let i := streamOfSrc o.s2
        let u := p.streams[i]
        if u.state = .unbound || u.write || u.elw ≠ 0 || u.captured || i = r then stop (streamTrap (56 + r.val) 0x05)
        if !(← pushRelease 5) then return .wait
        let t1 : Stream := { t with n := u.n - u.pos * 64, index := some i, ibase := u.pos, scope := 5 }
        setMine fun p => { p.forget r with streams := (p.streams.set i { u with captured := true }).set r t1 }
        pure .done
      else
        let sc := engineScope s (flatOf k) t.ranges
        if !(← pushRelease sc) then return .wait
        setMine fun p => { p.forget r with streams := p.streams.set r { t with scope := sc } }
        pure .done) s

def execSbind (h : Hd) (o : OpE) (s : State) : Host.Outcome State Fault Refusal := bind h o false s
def execSbindx (h : Hd) (o : OpE) (s : State) : Host.Outcome State Fault Refusal := bind h o true s

/-- Whether a write stream still holds vectors that the engine will write. -/
def Stream.undrained (t : Stream) : Bool := t.write && !t.slots.isEmpty && t.fault.isNone

/-- Whether every write stream of a partition has drained (R233). -/
def Part.drained (p : Part) : Bool := (List.finRange 8).all fun r => !(p.streams[r]).undrained

/-- Unbind a stream: its register reads zero; an indexed stream unbinds its index stream too, and so on along the at most eight streams (R237). -/
def Part.unbindN : Nat → Part → Fin 8 → Part
  | 0, p, _ => p
  | n + 1, p, r =>
    let q : Part := { p with streams := p.streams.set r .reset, v := p.v.set (56 + r.val) 0 (by have := r.isLt; omega) }
    match p.streams[r].index with
    | some i => Part.unbindN n q i
    | none => q
def Part.unbind (p : Part) (r : Fin 8) : Part := p.unbindN 8 r

def execSdone (h : Hd) (o : OpE) (s : State) : Host.Outcome State Fault Refusal :=
  issue { h, writes := wr o.d none } (fun _ => do
    let p ← myPart
    let r := streamOfSrc o.s1
    let t := p.streams[r]
    if t.state = .unbound then
      putM o.d 0
      pure .done
    else
      if t.captured then stop (streamTrap (56 + r.val) 0x03)
      if t.undrained then return .wait
      setMine fun p => p.unbind r
      if t.write then acquireM t.scope
      putM o.d (BitVec.ofNat 64 t.pos)
      pure .done) s

/-- Every bound write stream of a partition is acquired, as an SDONE of each would (R233, R236). -/
def streamsAcquired (s : State) (k : Nat) : State :=
  (List.finRange 8).foldl (fun t r =>
    let x := (s.part k).streams[r]
    if x.state ≠ .unbound && x.write then acquireAt t (flatOf k) x.scope else t) s

/-- SSKIP n on a bound stream (R230, R235): the stream, and the vectors skipped. (DEDUCED: log 163.) -/
def Stream.skip (t : Stream) (n : Nat) : Stream × Nat :=
  match t.state, t.fault with
  | .faulted, some f =>
    let dst := min (f.vec + n) t.vecs
    let keep := t.slots.filter fun x => decide (x.idx < f.vec) || decide (dst ≤ x.idx)
    let t1 := { t with fault := none, state := .filling, slots := keep, pos := max t.pos dst, broken := false, elem := if n = 0 then t.elem else 0
                       got := if n = 0 then t.got else [] }
    if t.write then ((if t.vecs ≤ t1.pos then { t1 with state := .exhausted } else t1), dst - f.vec)
    else
      let t2 := { t1 with eng := dst, slots := [] }
      ((if t.vecs ≤ t2.pos then { t2 with state := .exhausted } else t2), dst - f.vec)
  | .exhausted, _ => (t, 0)
  | _, _ =>
    let dst := min (t.pos + n) t.vecs
    if t.write then
      ({ t with pos := dst, state := if t.vecs ≤ dst then .exhausted else .filling }, dst - t.pos)
    else
      let t1 := { t with pos := dst, slots := t.slots.filter (fun x => decide (dst ≤ x.idx)), eng := max t.eng dst, broken := t.broken && n = 0
                         got := if dst ≤ t.eng then t.got else []
                         fault := match t.fault with
                           | some f => if f.vec < dst then none else some f
                           | none => none }
      ((match t1.fault with
        | some _ => t1.settle
        | none => { t1 with state := if t.vecs ≤ dst then .exhausted else .filling }), dst - t.pos)

/-- DEDUCED: log 163. -/
def execSskip (h : Hd) (o : OpE) (s : State) : Host.Outcome State Fault Refusal :=
  issue { h, reads := rds [o.s2], writes := wr o.d none } (fun _ => do
    let p ← myPart
    let r := streamOfSrc o.s1
    let t := p.streams[r]
    if t.state = .unbound then
      putM o.d 0
      pure .done
    else
      if t.captured then stop (streamTrap (56 + r.val) 0x03)
      let (t1, n) := t.skip ((p.src (o.lit.getD 0) o.s2).toNat % 2 ^ 32)
      setMine fun p => p.replace 8 r t1
      putM o.d (BitVec.ofNat 64 n)
      pure .done) s

def StreamState.code : StreamState → Nat
  | .unbound => 0
  | .filling => 1
  | .ready => 2
  | .exhausted => 3
  | .faulted => 4

/-- The status word of SSTAT. -/
def Stream.stat (t : Stream) : W64 :=
  if t.state = .unbound then 0
  else BitVec.ofNat 64 (t.pos * 2 ^ 32 + (if t.write then 4 - t.slots.length else min 4 t.slots.length) * 65536 + t.lastReason * 256 +
    (if t.write then 8 else 0) + t.state.code)

/-- DEDUCED: log 162. -/
def execSstat (h : Hd) (o : OpE) (s : State) : Host.Outcome State Fault Refusal :=
  issue { h, writes := wr o.d none } (fun _ => do
    let p ← myPart
    let r := streamOfSrc o.s1
    let t := p.streams[r]
    if t.captured then stop (streamTrap (56 + r.val) 0x03)
    putM o.d t.stat
    pure .done) s

/-! ## The stash (R239 to R242) -/

/-- The conditions of a mapping (R239): its size, and no overlap with the part's other mappings. -/
def stashOk (p : Part) (g : W64) (off size : Nat) : Bool :=
  decide (0 < size) && decide (size % 4096 = 0) && decide (size ≤ 0x40000) && decide (p.stash.length < 8) &&
    p.stash.all fun m =>
      (decide (g.toNat + size ≤ m.g.toNat) || decide (m.g.toNat + m.size ≤ g.toNat)) &&
        (decide (off + size ≤ m.p) || decide (m.p + m.size ≤ off))

/-- STASH; its PROT traps have ACC 0 in FAULTINFO: the spec names no kind of access for it. (DESIGN CHOICE: log 195.) -/
def execStash (h : Hd) (o : OpC) (s : State) : Host.Outcome State Fault Refusal :=
  issue { h, reads := rds [o.s1, o.s2, o.s3] } (fun _ => do
    noTask
    let k ← me
    let p ← myPart
    let s ← get
    let g := p.src 0 o.s1
    let a := p.src 0 o.s2
    let size := (p.src 0 o.s3).toNat
    if g.toNat % 4096 ≠ 0 then trapM 0x04 g
    if a.toNat % 4096 ≠ 0 then trapM 0x04 a
    match regionOf g with
    | .nonCanon => stop (.trap ⟨3, 0, g, some 0x01⟩)
    | .shared => pure ()
    | _ => stop (.trap ⟨3, 0, g, some 0x02⟩)
    let (lo, len) := sprOf s p.ctx (flatOf k)
    let off := match regionOf a with
      | .spad true _ off => some off
      | .spad false pos off => if pos = posOf (flatOf k) then some off else none
      | _ => none
    match off with
    | none => stop (.trap ⟨3, 0, a, some 0x03⟩)
    | some off =>
      if off < lo ∨ lo + len < off + size then stop (.trap ⟨3, 0, a, some 0x03⟩)
      if !stashOk p g off size then illegalValue
      setMine fun p => { p with stash := p.stash ++ [⟨g, off, size, []⟩] }
      pure .done) s

/-- Write back every dirty line of a mapping that a predicate holds for; the lines become CLEAN. -/
def stashFlush (s : State) (k : Nat) (m : Stash) (f : Nat → Bool) : State :=
  m.lines.foldl (fun s l =>
    if l.2 && f l.1 then
      stashMark (stashWriteBack s k m (BitVec.ofNat 64 l.1)) k m.g (BitVec.ofNat 64 l.1) (some false)
    else s) s

/-- Whether a dirty line of a mapping cannot be written back now: its home cannot be reached (R493). -/
def stashCut (s : State) (k : Nat) (m : Stash) (f : Nat → Bool) : Bool :=
  m.lines.any fun l => l.2 && f l.1 && cutOff s (flatOf k) (BitVec.ofNat 64 l.1)

/-- Write back every mapping of a partition (R150, R241). (DEDUCED: log 39.) -/
def stashFlushAll (s : State) (k : Nat) : State := (s.part k).stash.foldl (fun s m => stashFlush s k m fun _ => true) s

def execUnstash (h : Hd) (o : OpC) (s : State) : Host.Outcome State Fault Refusal :=
  issue { h, reads := rds [o.s1] } (fun _ => do
    noTask
    let k ← me
    let p ← myPart
    let g := p.src 0 o.s1
    match p.stash.find? fun m => m.g = g with
    | none => illegalValue
    | some m =>
      let s ← get
      if stashCut s k m fun _ => true then return .wait
      modify fun s => stashFlush s k m fun _ => true
      setMine fun p => { p with stash := p.stash.filter fun m => m.g ≠ g }
      pure .done) s

def execFlush (h : Hd) (o : OpC) (s : State) : Host.Outcome State Fault Refusal :=
  issue { h, reads := rds [o.s1, o.s2] } (fun _ => do
    noTask
    let k ← me
    let p ← myPart
    let a := (p.src 0 o.s1).toNat
    let n := (p.src 0 o.s2).toNat
    let meets (l : Nat) : Bool := n = 0 || (decide (a / 64 * 64 ≤ l) && decide (l < a + n))
    let s ← get
    if p.stash.any fun m => stashCut s k m meets then return .wait
    modify fun s => p.stash.foldl (fun s m => stashFlush s k m meets) s
    pure .done) s

/-- A line of a part's stash is recalled by its home (R240). -/
def execStashRecall (k : Nat) (va : W64) (s : State) : Host.Outcome State Fault Refusal :=
  .next (stashRecallLine s k (lineOf va))

end Sys2Proof.Machine
end

