-- ==== Sys2Proof/Machine/Sync.lean ====
section
/-! DEFINITION. Named events, barriers, watches, the event latch and the Damask programme (R243 to R268), with the events of their waits. -/

namespace Sys2Proof.Machine

/-- The SYNC trap (R262). -/
def syncTrap (obj reason : Nat) : Stop := .trap ⟨0x11, 0, BitVec.ofNat 64 (obj % 2 ^ 32 * 2 ^ 32 + reason * 256), none⟩

/-! ## Named events (R243 to R247) -/

def findEv (s : State) (cl c name : Nat) : Option Ev := (s.cluster cl).events.find? fun e => e.ctx = c && e.name = name

/-- The first free index of 4,096 at or after one, found by linear probing; `n` indices are left to try (R245). -/
def evProbe (used : List Nat) (i : Nat) : Nat → Option Nat
  | 0 => none
  | n + 1 => if used.contains (i % 4096) then evProbe used (i + 1) n else some (i % 4096)

/-- The indices of a context's overflow area that hold records. -/
def evUsed (s : State) (c : Nat) : List Nat := s.clusters.flatMap fun x => (x.2.events.filter (·.ctx = c)).filterMap (·.slot)

/-- Where a new entry goes: the table, else a record of the context's overflow area; none where both are full (R243, R245). (DESIGN CHOICE: log 40.) A context has one
area, also over several modules, and a cluster's number in it counts on from module to module. (DESIGN CHOICE: log 196.) -/
def evPlace (s : State) (cl c name : Nat) : Option (Option Nat) :=
  if ((s.cluster cl).events.filter fun e => e.slot.isNone).length < 4096 then some none
  else (evProbe (evUsed s c) (cl * 4099 + name) 4096).map some

/-- The 16 bytes of the record of a held event (R245): cluster, name, SET, and the position and partition of the head of its wait list. -/
def evRecord (s : State) (cl : Nat) (e : Ev) : List Byte :=
  let head : List Byte := match e.wait with
    | [] => [0, 0]
    | w :: _ => [BitVec.ofNat 8 (posOf w.1), BitVec.ofNat 8 (((s.placed w.1 e.ctx).map idxOf).getD 0)]
  bytesOf 2 cl ++ bytesOf 2 e.name ++ [if e.set then 1 else 0] ++ head ++ List.replicate 9 0

/-- When a table entry frees, the oldest held event of the cluster moves back. -/
def evMoveBack : List Ev → List Ev
  | [] => []
  | e :: es => if e.slot.isSome then { e with slot := none } :: es else e :: evMoveBack es

/-- Every entry of a context is freed, and held events of others move back into the table's free entries. -/
def evDropCtx (es : List Ev) (c : Nat) : List Ev :=
  (List.range ((es.filter fun e => e.ctx = c && e.slot.isNone).length)).foldl (fun es _ => evMoveBack es) (es.filter (·.ctx ≠ c))

/-- Put an event's new state into its table: an entry that is neither SET nor waited for is freed. -/
def evPut (s : State) (cl : Nat) (e : Ev) : State :=
  s.modCluster cl fun c =>
    if e.set || !e.wait.isEmpty then
      if c.events.any (fun x => x.ctx = e.ctx && x.name = e.name) then
        { c with events := c.events.map fun x => if x.ctx = e.ctx && x.name = e.name then e else x }
      else { c with events := c.events ++ [e] }
    else
      let rest := c.events.filter fun x => !(x.ctx = e.ctx && x.name = e.name)
      { c with events := if rest.length < c.events.length && e.slot.isNone then evMoveBack rest else rest }

/-- Release a waiter of an event: it continues with D = 1 and the scope of the signal. -/
def evRelease (s : State) (flat c scope : Nat) : State :=
  s.modPartOf flat c fun p =>
    match p.sleep with
    | .event _ _ _ _ _ => { p with sleep := .woken 1 (BitVec.ofNat 64 scope) }
    | _ => p

/-- The waiters that a signal releases, up to and including the first consuming one; the rest; whether one consumed (R244). -/
def evSplit : List (Nat × Bool) → List Nat × List (Nat × Bool) × Bool
  | [] => ([], [], false)
  | (f, true) :: ws => ([f], ws, true)
  | (f, false) :: ws => let (a, b, c) := evSplit ws; (f :: a, b, c)

/-- A signal reaches an event (R244); none where it needs a record and there is no room. -/
def evsig (s : State) (cl c name scope : Nat) : Option State :=
  match findEv s cl c name with
  | none =>
    match evPlace s cl c name with
    | some slot => some (evPut s cl ⟨c, name, true, scope, [], slot⟩)
    | none => none
  | some e =>
    if e.set then some s
    else
      let (rel, rest, took) := evSplit e.wait
      some (rel.foldl (fun s f => evRelease s f c scope) (evPut s cl { e with wait := rest, set := !took, scope }))

/-- The part of a context runs on a core: in a partition, or kept away. -/
def runsOn (s : State) (flat c : Nat) : Bool := (s.placed flat c).isSome || s.away.any fun a => a.1 = flat && a.2.ctx = c

/-- A signal of a part reaches its target (R244, R247): where the target core runs no part of the context it is dropped with a record; none where
there is no room for the event. -/
def signalTo (s : State) (c src tgt name scope : Nat) (pc : W64) : Option State :=
  if src ≠ tgt && !runsOn s tgt c then
    some (writeRecord s c src (record64 [(0, 1, 0x05), (1, 1, 0x11), (2, 1, 6), (4, 2, name), (8, 8, pc.toNat), (16, 4, tgt)])).1
  else evsig s (clOf tgt) c name scope

/-- The cores that a SEV names have the latches of their parts of a context set. -/
def sevTo (s : State) (c scope : Nat) (tgts : List Nat) : State := tgts.foldl (fun s f => s.modPartOf f c fun q => q.setLatch scope) s

/-- A running task that is not irrevocable holds what it sends until it commits (R431): true where it is held. -/
def holdM (a : HeldAct) : M Bool := do
  let k ← me
  let s ← get
  match taskOn s k with
  | some t =>
    if irrevocable s t then pure false
    else
      modify fun s => modTask s t.id fun t => { t with acts := t.acts ++ [a] }
      pure true
  | none => pure false

/-- What a task sends waits until the stores issued before it have been performed: its release covers them (R353). -/
def heldWaits : M Bool := do
  let k ← me
  let s ← get
  pure ((taskOn s k).isSome && !storesDone s k)

/-- EVSIG; without .r its S2 is unused (R76, R264). -/
def execEvsig (h : Hd) (o : OpC) (s : State) : Host.Outcome State Fault Refusal :=
  issue { h, reads := if o.mod.getLsbD 0 then rds [o.s1, o.s2] else rds [o.s1] } (fun _ => do
    let k ← me
    let p ← myPart
    let name := (p.src 0 o.s1).toNat % 65536
    let flat := flatOf k
    let tgt := if o.mod.getLsbD 0 then (p.src 0 o.s2).toNat else flat
    let scope := if clOf tgt = clOf flat then 1 else scopeOf flat tgt
    if !(← releaseM scope) then return .wait
    if ← heldWaits then return .wait
    if ← holdM (.signal flat tgt name scope p.pc) then return .done
    let s ← get
    match signalTo s p.ctx flat tgt name scope p.pc with
    | some s1 =>
      set s1
      pure .done
    | none => stop (syncTrap name 0x01)) s

/-- The value of D of a WATCH is recorded for replay (R500). -/
def noteOutcome (d : Nat) : M Unit := do
  let k ← me
  modify fun s => logOrTake s (flatOf k) (idxOf k) 8 0 (BitVec.ofNat 64 d)

/-- The value of D of a wait is recorded where the wait is timed. (DEDUCED: log 169.) -/
def timedOutcome (limit d : Nat) : M Unit := if limit = 0 then pure () else noteOutcome d

/-- In replay a limit passes only where the log says so (R502). -/
def mayTimeOut (s : State) (k : Nat) : Bool := (replayNext s (flatOf k) (idxOf k) 8).all fun e => e.payload = 0

/-- In replay the outcome that the log gives a partition's next timed wait or WATCH is 0 (R502). -/
def replaysZero (s : State) (k : Nat) : Bool := (replayNext s (flatOf k) (idxOf k) 8).any fun e => e.payload = 0

/-- A wait's timeout in ac has passed; 0 is none (R264, R267). -/
def limitPassed (s : State) (limit : Nat) (began : W64) : Bool := limit ≠ 0 && decide (limit ≤ (s.time - began).toNat)

/-- EVWAIT; in EVWAIT.t its S2 is unused (R76, R264). (DEDUCED: log 169.) -/
def execEvwait (h : Hd) (o : OpC) (s : State) : Host.Outcome State Fault Refusal :=
  issue { h, reads := if o.mod.getLsbD 1 then rds [o.s1] else rds [o.s1, o.s2], writes := wr o.d none } (fun _ => do
    noTask
    let k ← me
    let p ← myPart
    let s ← get
    let name := (p.src 0 o.s1).toNat % 65536
    let cl := clOf (flatOf k)
    let consume := o.mod.getLsbD 0
    let test := o.mod.getLsbD 1
    let limit := if test then 0 else (p.src 0 o.s2).toNat % 2 ^ 32
    if idxOf k = 3 && !test then illegalValue
    match p.sleep with
    | .woken how v =>
      setMine fun p => { p with sleep := .awake }
      timedOutcome limit how
      putM o.d (BitVec.ofNat 64 how)
      if how = 1 then acquireM v.toNat
      pure .done
    | _ =>
      if limit ≠ 0 && replaysZero s k then
        timedOutcome limit 0
        putM o.d 0
        return .done
      match findEv s cl p.ctx name with
      | some e =>
        if e.set then
          if consume then modify fun s => evPut s cl { e with set := false }
          timedOutcome limit 1
          putM o.d 1
          acquireM e.scope
          pure .done
        else if test then
          putM o.d 0
          pure .done
        else
          modify fun s => evPut s cl { e with wait := e.wait ++ [(flatOf k, consume)] }
          setMine fun p => { p with sleep := .event cl p.ctx name limit s.time }
          pure .waitKeep
      | none =>
        if test then
          putM o.d 0
          pure .done
        else match evPlace s cl p.ctx name with
        | none => stop (syncTrap name 0x01)
        | some slot =>
          modify fun s => evPut s cl ⟨p.ctx, name, false, 0, [(flatOf k, consume)], slot⟩
          setMine fun p => { p with sleep := .event cl p.ctx name limit s.time }
          pure .waitKeep) s

def execEvclr (h : Hd) (o : OpC) (s : State) : Host.Outcome State Fault Refusal :=
  issue { h, reads := rds [o.s1] } (fun _ => do
    noTask
    let k ← me
    let p ← myPart
    let s ← get
    let cl := clOf (flatOf k)
    match findEv s cl p.ctx ((p.src 0 o.s1).toNat % 65536) with
    | some e => if e.set then modify fun s => evPut s cl { e with set := false }
    | none => pure ()
    pure .done) s

/-- The timeout of a waiting EVWAIT of a part on a core passes: the waiter leaves the list and continues with D = 0 (R244). -/
def waitExpires (s : State) (flat : Nat) (p : Part) : State :=
  match p.sleep with
  | .event cl c name limit began =>
    if !limitPassed s limit began then s
    else
      let s1 := match findEv s cl c name with
        | some e => evPut s cl { e with wait := e.wait.filter fun w => w.1 ≠ flat }
        | none => s
      s1.modPartOf flat p.ctx fun p => { p with sleep := .woken 0 0, blocked := none }
  | _ => s

/-- A timeout passes at a core: that of the part in a partition, and those of the parts of the core that are kept away, whose waits stand too (R150, R244). -/
def execEvwaitTimeout (k : Nat) (s : State) : Host.Outcome State Fault Refusal :=
  .next (if !mayTimeOut s k then s
    else (s.away.filter fun a => a.1 = flatOf k && a.2.st = .spilled).foldl (fun s a => waitExpires s a.1 a.2)
      (if idxOf k = 3 then s else waitExpires s (flatOf k) (s.part k)))

/-! ## Barriers (R248 to R250) -/

/-- Level and index of a barrier ID, none where it is no ID. -/
def barId (v : W64) : Option (Nat × Nat) :=
  let n := v.toNat
  let level := n / 256 % 4
  let index := n % 64
  if 1024 ≤ n ∨ n / 64 % 4 ≠ 0 ∨ level = 3 ∨ (level ≠ 0 ∧ 15 < index) then none else some (level, index)

def barFind (s : State) (flat level index : Nat) : Option Bar :=
  match level with
  | 0 => mfind (s.cluster (clOf flat)).bars index
  | 1 => mfind (s.die (dieOf flat)).bars index
  | _ => mfind (s.dev (ordOf flat)).bars index

def barSet (s : State) (flat level index : Nat) (b : Option Bar) : State :=
  let f (m : Map Bar) : Map Bar := match b with
    | some b => mset m index b
    | none => mdel m index
  match level with
  | 0 => s.modCluster (clOf flat) fun c => { c with bars := f c.bars }
  | 1 => s.modDie (dieOf flat) fun c => { c with bars := f c.bars }
  | _ => s.modDev (ordOf flat) fun c => { c with bars := f c.bars }

/-- The cluster, die or module at which a core's barrier of a level stands. -/
def barHome (flat level : Nat) : Nat :=
  match level with
  | 0 => clOf flat
  | 1 => dieOf flat
  | _ => ordOf flat

/-- A phase ends: every part that waits on it goes on with the new phase (R249). -/
def barRelease (s : State) (flat level index : Nat) (phase : W32) : State :=
  let wake (p : Part) : Part := if p.sleep = .barrier (barHome flat level) level index then { p with sleep := .woken 1 (phase.setWidth 64), blocked := none } else p
  { s with parts := s.parts.map fun kp => (kp.1, wake kp.2), away := s.away.map fun a => (a.1, wake a.2) }

/-- A barrier is freed: a part that still waits at it looks again. (DEDUCED: log 41.) -/
def barFreed (s : State) (flat level index : Nat) : State :=
  let look (p : Part) : Part := if p.sleep = .barrier (barHome flat level) level index then { p with sleep := .awake, blocked := none } else p
  { s with parts := s.parts.map fun kp => (kp.1, look kp.2), away := s.away.map fun a => (a.1, look a.2) }

/-- The operand of a barrier instruction; any other value traps ILLEGAL, reason VALUE. -/
def barM (v : W64) : M (Nat × Nat) :=
  match barId v with
  | some x => pure x
  | none => illegalValue

/-- The barrier that a context owns, else SYNC, reason NOTOWNED. (DEDUCED: log 41.) -/
def ownedM (v : W64) (level index : Nat) : M Bar := do
  let k ← me
  let p ← myPart
  let s ← get
  match barFind s (flatOf k) level index with
  | some b => if b.owner = p.ctx then pure b else stop (syncTrap v.toNat 0x02)
  | none => stop (syncTrap v.toNat 0x02)

def execBararr (h : Hd) (o : OpC) (s : State) : Host.Outcome State Fault Refusal :=
  issue { h, reads := rds [o.s1], writes := wr o.d none } (fun _ => do
    noTask
    let k ← me
    let p ← myPart
    let v := p.src 0 o.s1
    let (level, index) ← barM v
    let b ← ownedM v level index
    if !(← releaseM (level + 1)) then return .wait
    if b.count ≤ b.arrived + 1 then
      modify fun s => barRelease (barSet s (flatOf k) level index (some { b with arrived := 0, phase := b.phase + 1 })) (flatOf k) level index (b.phase + 1)
    else modify fun s => barSet s (flatOf k) level index (some { b with arrived := b.arrived + 1 })
    putM o.d (b.phase.setWidth 64)
    pure .done) s

def execBararrInit (h : Hd) (o : OpC) (s : State) : Host.Outcome State Fault Refusal :=
  issue { h, reads := rds [o.s1, o.s2], writes := wr o.d none } (fun _ => do
    noTask
    let k ← me
    let p ← myPart
    let s ← get
    let v := p.src 0 o.s1
    let (level, index) ← barM v
    let n := (p.src 0 o.s2).toNat
    if 65536 ≤ n then illegalValue
    match barFind s (flatOf k) level index with
    | none =>
      if n = 0 then stop (syncTrap v.toNat 0x03)
      modify fun s => barSet s (flatOf k) level index (some ⟨p.ctx, n, 0, 0⟩)
      putM o.d 0
      pure .done
    | some b =>
      if b.owner ≠ p.ctx then stop (syncTrap v.toNat 0x02)
      if b.count ≠ n then stop (syncTrap v.toNat 0x03)
      putM o.d (b.phase.setWidth 64)
      pure .done) s

def execBararrFree (h : Hd) (o : OpC) (s : State) : Host.Outcome State Fault Refusal :=
  issue { h, reads := rds [o.s1], writes := wr o.d none } (fun _ => do
    noTask
    let k ← me
    let p ← myPart
    let v := p.src 0 o.s1
    let (level, index) ← barM v
    let b ← ownedM v level index
    if b.arrived ≠ 0 then stop (syncTrap v.toNat 0x04)
    modify fun s => barFreed (barSet s (flatOf k) level index none) (flatOf k) level index
    putM o.d (b.phase.setWidth 64)
    pure .done) s

/-- BARWAIT (R249): a part that waits is released by the arrival that ends the phase. (DEDUCED: log 41.) -/
def execBarwait (h : Hd) (o : OpC) (s : State) : Host.Outcome State Fault Refusal :=
  issue { h, reads := rds [o.s1, o.s2], writes := wr o.d none } (fun _ => do
    noTask
    let k ← me
    let p ← myPart
    if idxOf k = 3 then illegalValue
    let v := p.src 0 o.s1
    let (level, index) ← barM v
    match p.sleep with
    | .woken _ x =>
      setMine fun p => { p with sleep := .awake }
      putM o.d x
      acquireM (level + 1)
      pure .done
    | _ =>
      let b ← ownedM v level index
      if b.phase = (p.src 0 o.s2).setWidth 32 then
        setMine fun p => { p with sleep := .barrier (barHome (flatOf k) level) level index }
        pure .waitKeep
      else
        putM o.d (b.phase.setWidth 64)
        acquireM (level + 1)
        pure .done) s

/-! ## Watches (R251 to R253, R266) -/

/-- The watches of a partition. -/
def watchesOf (s : State) (k : Nat) : List Watch :=
  s.watches.filter fun w => w.flat = flatOf k && w.dpart = (idxOf k = 3) && w.ctx = (s.part k).ctx

/-- Free every watch of a partition, setting no latch (R252). -/
def freeWatches (s : State) (k : Nat) : State :=
  { s with watches := s.watches.filter fun w => !(w.flat = flatOf k && w.dpart = (idxOf k = 3) && w.ctx = (s.part k).ctx) }

/-- Arm a watch at the home of its word: in its table, or POLLED where the table is full or the word is host memory (R251, R253). -/
def armWatch (s : State) (w : Watch) : State :=
  let full := decide (64 ≤ (s.watches.filter fun x => !x.polled && x.home = w.home && x.spad = w.spad).length)
  { s with watches := s.watches ++ [{ w with polled := full || isHostVa s w.flat w.va }] }

/-- The checks of a watched word: MISALIGN, the checks of a read, MCHECK; it is evaluated at its home, where stash lines are recalled first (R240, R251). -/
def watchCheck (a : W64) (n : Nat) : M Unit := do
  if a.toNat % n ≠ 0 then trapM 0x04 a
  checkM .read [(a, n)]
  let s ← get
  if isLost s (flatOf s.cur) a then stop (.lost 0 a (lineOf a))
  modify fun s => toHome s (flatOf s.cur) (lineOf a)

def watchSize (mod : BitVec 8) : Nat := if mod.getLsbD 4 then 8 else 4

/-- DEDUCED: log 169. -/
def execWatch (h : Hd) (o : OpC) (s : State) : Host.Outcome State Fault Refusal :=
  issue { h, reads := rds [o.s1, o.s2, o.s3], writes := wr o.d none } (fun _ => do
    noTask
    let k ← me
    let p ← myPart
    let a := p.src 0 o.s1
    let n := watchSize o.mod
    watchCheck a n
    let s ← get
    if 4 ≤ (watchesOf s k).length then stop (syncTrap a.toNat 0x05)
    let w : Watch := { flat := flatOf k, dpart := idxOf k = 3, ctx := p.ctx, va := a, size := n, cond := icondOf (o.mod.toNat % 16)
                       mask := p.src 0 o.s2, value := p.src 0 o.s3, polled := false, home := homeOf s (flatOf k) a, spad := inSpad a }
    if watchTrue s w then
      let d := if replaysZero s k then 0 else 1
      modify fun s => wakeWatcher s w
      noteOutcome d
      putM o.d (BitVec.ofNat 64 d)
      pure .done
    else
      if !mayTimeOut s k then return .wait
      modify fun s => armWatch s w
      noteOutcome 0
      putM o.d 0
      pure .done) s

def execWatchX (h : Hd) (o : OpC) (s : State) : Host.Outcome State Fault Refusal :=
  issue { h, reads := rds [o.s1] } (fun _ => do
    noTask
    let k ← me
    let p ← myPart
    let a := p.src 0 o.s1
    watchCheck a (watchSize o.mod)
    modify fun s => { s with watches := s.watches.filter fun w => !(w.va = a && (watchesOf s k).contains w) }
    pure .done) s

/-- The command processor of a die polls the watches that no table holds and whose home lies on the die (R253). -/
def execWatchPoll (dk : Nat) (s : State) : Host.Outcome State Fault Refusal :=
  .next (s.watches.foldl (fun s w =>
    if w.polled && dieOf w.home = dk then
      let s1 := toHome s w.flat (lineOf w.va)
      if watchTrue s1 w then fireWatch s1 w else s1
    else s) s)

/-! ## WFE and SEV (R255, R256, R267) -/

/-- DEDUCED: log 169. -/
def execWfe (h : Hd) (o : OpC) (s : State) : Host.Outcome State Fault Refusal :=
  issue { h, reads := rds [o.s1], writes := wr o.d none } (fun _ => do
    noTask
    let k ← me
    let p ← myPart
    if idxOf k = 3 then illegalValue
    let s ← get
    let limit := (p.src 0 o.s1).toNat % 2 ^ 32
    if limit ≠ 0 && replaysZero s k then
      setMine fun p => { p with sleep := .awake }
      timedOutcome limit 0
      putM o.d 0
      return .done
    if p.latch then
      setMine fun p => { p with latch := false, latchScope := 0, sleep := .awake }
      timedOutcome limit 1
      putM o.d 1
      acquireM p.latchScope
      pure .done
    else match p.sleep with
    | .woken _ _ =>
      setMine fun p => { p with sleep := .awake }
      timedOutcome limit 0
      putM o.d 0
      pure .done
    | _ =>
      setMine fun q => { q with sleep := .wfe limit s.time }
      pure .waitKeep) s

def execWfeTimeout (k : Nat) (s : State) : Host.Outcome State Fault Refusal :=
  .next (if !mayTimeOut s k then s else match (s.part k).sleep with
    | .wfe limit began => if limitPassed s limit began then s.modPart k fun p => { p with sleep := .woken 0 0, blocked := none } else s
    | _ => s)

/-- The target cores of SEV: the cluster positions of a mask, or one core. -/
def sevTargets (flat : Nat) (r : Bool) (v : Nat) : List Nat :=
  if r then [v] else ((List.range 16).filter fun q => v / 2 ^ q % 2 = 1).map fun q => flatAt (clOf flat) q

def execSev (h : Hd) (o : OpC) (s : State) : Host.Outcome State Fault Refusal :=
  issue { h, reads := rds [o.s1] } (fun _ => do
    let k ← me
    let p ← myPart
    let flat := flatOf k
    let r := o.mod.getLsbD 0
    let v := (p.src 0 o.s1).toNat
    let scope := if r then scopeOf flat v else 1
    if !(← releaseM scope) then return .wait
    if ← heldWaits then return .wait
    if ← holdM (.sev (sevTargets flat r v) scope) then return .done
    modify fun s => sevTo s p.ctx scope (sevTargets flat r v)
    pure .done) s

/-! ## XBSET (R268) -/

def DCtr.word (c : DCtr) : W64 :=
  BitVec.ofNat 64 (c.count * 2 ^ 48 + c.pend * 2 ^ 40 + c.thresh * 256 + (if c.en then 128 else 0) + c.input)

def DTerm.word (t : DTerm) : W64 :=
  BitVec.ofNat 64 ((if t.en then 2 ^ 63 else 0) + t.arg.toNat * 2 ^ 40 + t.target * 2 ^ 32 + t.maskB.toNat * 65536 + t.maskA.toNat)

/-- XBSET runs on the part's own programme: in partition D there is none, so an index names nothing there. (DEDUCED: log 44.) -/
def xbIndex (v : W64) (n : Nat) : M Nat := do
  let k ← me
  noTask
  if n ≤ v.toNat ∨ idxOf k = 3 then illegalValue
  pure v.toNat

/-- DEDUCED: log 44. -/
def execXbsetCtr (h : Hd) (o : OpE) (s : State) : Host.Outcome State Fault Refusal :=
  issue { h, reads := rds [o.s1, o.s2], writes := wr o.d none } (fun _ => do
    let p ← myPart
    let i ← xbIndex (p.src (o.lit.getD 0) o.s1) 16
    let w := p.src (o.lit.getD 0) o.s2
    let thresh := bits w 23 8
    let en := w.getLsbD 7
    if bits w 39 24 ≠ 0 ∨ bits w 6 5 ≠ 0 ∨ (en = true ∧ thresh = 0) then illegalValue
    putM o.d ((p.damask.seen.ctrs.toList.getD i .reset).word)
    setMine fun p => { p with damask := (let d := p.damask.seen; Damask.seen { d with ctrs := d.ctrs.set! i ⟨bits w 4 0, en, thresh, 0, 0⟩ }) }
    pure .done) s

def execXbsetTerm (h : Hd) (o : OpE) (s : State) : Host.Outcome State Fault Refusal :=
  issue { h, reads := rds [o.s1, o.s2], writes := wr o.d none } (fun _ => do
    let p ← myPart
    let i ← xbIndex (p.src (o.lit.getD 0) o.s1) 8
    let w := p.src (o.lit.getD 0) o.s2
    if bits w 62 56 ≠ 0 ∨ 0x0A < bits w 39 32 then illegalValue
    putM o.d ((p.damask.terms.toList.getD i .reset).word)
    let t : DTerm := ⟨BitVec.ofNat 16 (bits w 15 0), BitVec.ofNat 16 (bits w 31 16), bits w 39 32, BitVec.ofNat 16 (bits w 55 40), w.getLsbD 63⟩
    setMine fun p => { p with damask := (let d := p.damask.seen; Damask.seen { d with terms := d.terms.set! i t }) }
    pure .done) s

def execXbsetTimer (h : Hd) (o : OpE) (s : State) : Host.Outcome State Fault Refusal :=
  issue { h, reads := rds [o.s1, o.s2], writes := wr o.d none } (fun _ => do
    let p ← myPart
    let _ ← xbIndex (p.src (o.lit.getD 0) o.s1) 1
    let w := p.src (o.lit.getD 0) o.s2
    if 2 ^ 32 ≤ w.toNat then illegalValue
    putM o.d (p.damask.period.setWidth 64)
    setMine fun p => { p with damask := { p.damask with period := w.setWidth 32 } }
    pure .done) s

def execXbsetReset (h : Hd) (o : OpE) (s : State) : Host.Outcome State Fault Refusal :=
  issue { h, reads := rds [o.s1, o.s2], writes := wr o.d none } (fun _ => do
    let p ← myPart
    let _ ← xbIndex (p.src (o.lit.getD 0) o.s1) 1
    if p.src (o.lit.getD 0) o.s2 ≠ 0 then illegalValue
    putM o.d 0
    let d (x : Damask) : Damask := { x with ctrs := Vector.replicate 16 .reset, terms := Vector.replicate 8 .reset, period := 0 }
    setMine fun p => { p with damask := d p.damask.seen }
    pure .done) s

/-- The part's timer reaches its period: input 19 pulses (R257). -/
def execDamaskTimer (k : Nat) (s : State) : Host.Outcome State Fault Refusal :=
  .next (if (s.part k).damask.period = 0 then s else pulse s k 19)

end Sys2Proof.Machine
end

