-- ==== Sys2Proof/Machine/Messages.lean ====
section
/-! DEFINITION. Active messages: AMSG, AMRET and AMWAIT, the built-in handlers, handlers in partition D, replies and bounces (R348 to R369). -/

namespace Sys2Proof.Machine

/-! ## The message (R348, R349) -/

def b2n (b : Bool) : Nat := if b then 1 else 0

/-- The header word. -/
def Msg.header (m : Msg) : W64 :=
  BitVec.ofNat 64 (m.dest % 2 ^ 32 + m.tag.toNat * 2 ^ 32 + m.cls.val * 2 ^ 48 + b2n m.rp * 2 ^ 50 + b2n m.bnc * 2 ^ 51 + m.status % 16 * 2 ^ 52)

/-- The 64 bytes. -/
def Msg.bytes (m : Msg) : List Byte :=
  bytesOf 8 m.header.toNat ++ bytesOf 8 m.handler.toNat ++ ((List.range 4).flatMap fun i => bytesOf 8 (m.args.getD i 0).toNat) ++ bytesOf 16 m.key.toNat

def Msg.arg (m : Msg) (i : Nat) : Nat := (m.args.getD i 0).toNat

/-- Whether the message at a place of the network is the oldest of its class, source and destination (R352), and in replay the one that the log of
its core's cluster names next (R502). One for another module takes a link that carries its class (R482, R489). -/
def firstOfLane (s : State) (n : Nat) : Bool :=
  match s.net[n]? with
  | some m =>
    msgCrossing s m && !((s.net.take n).any fun x => x.cls = m.cls && x.src = m.src && x.dest = m.dest) &&
      (replayNext s m.dest 0 4).all fun e => e.payload = BitVec.ofNat 64 (m.cls.val * 2 ^ 32 + m.src % 2 ^ 32)
  | none => false

/-- The payload of a message arrival in the issue log (R500): source core, then class. (DESIGN CHOICE: log 70.) -/
def Msg.logged (m : Msg) : W64 := BitVec.ofNat 64 (m.cls.val * 2 ^ 32 + m.src % 2 ^ 32)

/-- The message at a place leaves the network and arrives at its core, which the issue log records. -/
def takeMsg (s : State) (n : Nat) : State :=
  match s.net[n]? with
  | some m => logOrTake { s with net := s.net.eraseIdx n } m.dest 0 4 0 m.logged
  | none => s

/-- A bounce of a message (R356). -/
def Msg.bounceAs (m : Msg) (status : Nat) : Msg := { m with dest := m.src, src := m.dest, cls := 1, bnc := true, status }

def bounceMsg (s : State) (m : Msg) (status : Nat) : State := sendMsg s (m.bounceAs status)

/-- Hold a message in its context's inbox, which has 4,096 places (R355): FULL where it has none left. (DEDUCED: log 124.) -/
def toInbox (s : State) (m : Msg) : State :=
  if (s.ctx m.ctx).inbox.length < 4096 then s.modCtx m.ctx fun c => { c with inbox := c.inbox ++ [m] } else bounceMsg s m 6

/-! ## Built-in handlers (R357, R358) -/

/-- The checks made on arrival: the status that a message bounces with. (DEDUCED: log 55.) -/
def Msg.reject (s : State) (m : Msg) : Option Nat :=
  let a (i : Nat) := m.arg i
  if !(s.ctx m.ctx).live || !inPartition s m.dest then some 5
  else match m.handler.toNat with
  | 0x08 => if a 1 < 4 && a 0 % 2 ^ a 1 = 0 && a 2 = 0 && a 3 = 0 then none else some 9
  | 0x10 => if a 1 < 4 && a 0 % 2 ^ a 1 = 0 && a 3 = 0 then none else some 9
  | 0x18 =>
    let sub := a 1 % 256
    let size := a 1 / 256
    if (sub < 10 || sub = 16) && 2 ≤ size && size < 4 && a 0 % 2 ^ size = 0 then none else some 9
  | 0x20 => if a 2 = 0 && a 3 = 0 then none else some 9
  | 0x28 => none
  | h => if h < 0x100 || h % 2 = 1 then some 7 else none

/-- The answer of a built-in access: status, word 0, word 1 and the reason. -/
def answerOf (e : EFault) : Nat × W64 × W64 × Nat :=
  if e.code = 0x0C then (4, 0, e.addr, 0) else if e.code = 0x03 then (2, 0, e.addr, e.reason) else (3, 0, e.addr, e.reason)

/-- LOAD, STORE and ATOMIC at the home, as an access of the sender. (DEDUCED: log 123.) -/
def builtinAccess (s : State) (m : Msg) : State × (Nat × W64 × W64 × Nat) :=
  let w : Who := ⟨m.src, m.src * 4 + m.srcPart.val, m.ctx⟩
  let a := m.args.getD 0 0
  match m.handler.toNat with
  | 0x08 =>
    let n := 2 ^ m.arg 1
    match engineCheck s w .read a n with
    | .error e => (e.note s w.flat, answerOf e)
    | .ok s1 =>
      let (s2, bs) := engineRead s1 w.flat a n
      (s2, (0, BitVec.ofNat 64 (ofBytes bs), 0, 0))
  | 0x10 =>
    let n := 2 ^ m.arg 1
    match engineCheck s w .write a n with
    | .error e => (e.note s w.flat, answerOf e)
    | .ok s1 => (engineWrite s1 w.flat a (bytesOf n (m.arg 2)), (0, 0, 0, 0))
  | _ =>
    let n := 2 ^ (m.arg 1 / 256)
    let sub := m.arg 1 % 256
    match engineCheck s w .atomic a n with
    | .error e => (e.note s w.flat, answerOf e)
    | .ok s1 =>
      if isReplicated s1 w.flat a then (s1, (2, 0, a, 6))
      else if !ownerDoes s1 w.flat a sub n then (s1, (1, 0, a, 0))
      else
        let (s2, old) := atomicAt s1 w.flat a sub n (m.arg 2) (m.arg 3)
        (s2, (0, BitVec.ofNat 64 old, 0, 0))

/-- The message engine carries out a built-in; a failure without RP returns in the reply class with BNC set (R356). -/
def builtin (s : State) (m : Msg) : State :=
  match m.handler.toNat with
  | 0x20 => copyAck s m.dest m.ctx (m.args.getD 0 0) (m.args.getD 1 0)
  | 0x28 =>
    if mailboxUsed s m.dest < 64 then
      let s1 := mailboxPut s m.dest ⟨m.ctx, 0, bv512 m.bytes⟩
      if m.rp then sendMsg s1 (replyTo m 0 0 0 0) else s1
    else bounceMsg s m 6
  | _ =>
    let (s1, st, w0, w1, reason) := builtinAccess s m
    if m.rp then sendMsg s1 (replyTo m st w0 w1 reason)
    else if st ≠ 0 then sendMsg s1 { replyTo m st w0 w1 reason with bnc := true }
    else s1

/-! ## Arrival (R354, R355, R360) -/

/-- A built-in that must wait: an access to a module that cannot be reached (R493), and COPYACK in a halted cluster, where CPY_DONE does not advance (R494). -/
def builtinWaits (s : State) (m : Msg) : Bool :=
  match m.handler.toNat with
  | 0x08 | 0x10 => engineCut s m.src (m.args.getD 0 0) (2 ^ m.arg 1)
  | 0x18 => engineCut s m.src (m.args.getD 0 0) (2 ^ (m.arg 1 / 256))
  | 0x20 => (s.cluster (clOf m.dest)).halted
  | _ => false

/-- Whether messages that arrived before wait in the inbox for the same part. -/
def inboxHolds (s : State) (flat c : Nat) : Bool := (s.ctx c).inbox.any fun m => m.dest = flat && !m.task && m.cls = 0

/-- A request that passed its checks meets the addressed part; none where it waits in the tree. (DEDUCED: log 127.) -/
def arrive (s : State) (m : Msg) : Option State :=
  if m.handler.toNat < 0x100 then (if builtinWaits s m then none else some (builtin s m))
  else match fateOf s m.dest m.ctx with
  | .live =>
    if inboxHolds s m.dest m.ctx || decide (32 ≤ ((s.core m.dest).dq).length) then none
    else some (s.modCore m.dest fun c => { c with dq := c.dq ++ [m] })
  | .exited => some (bounceMsg s m 5)
  | _ => some (toInbox s m)

/-- A service message reaches the firmware of a die (R349, R350); firmware answers where a reply is wanted. (DESIGN CHOICE: log 57.) -/
def serviceArrive (s : State) (m : Msg) : State :=
  if !(s.ctx m.ctx).live || !inPartition s m.dest then bounceMsg s m 5
  else
    let s1 := { s with fw := s.fw ++ [m] }
    if m.rp then
      let (st, w0, w1, reason) := Config.firmwareReply s1.free
      sendMsg { s1 with free := s1.free + 1 } (replyTo m (st % 10) w0 w1 reason)
    else s1

/-- A request message, or one for firmware, arrives (R354). -/
def execMessageArrival (n : Nat) (s : State) : Host.Outcome State Fault Refusal :=
  .next (match s.net[n]? with
    | some m =>
      if m.task || !firstOfLane s n then s
      else if m.cls = 3 then serviceArrive (takeMsg s n) m
      else if m.cls ≠ 0 then s
      else match m.reject s with
      | some st => bounceMsg (takeMsg s n) m st
      | none => (arrive (takeMsg s n) m).getD s
    | none => s)

/-! ## Replies and bounces (R356, R362) -/

/-- A reply or bounce is written into the slot of its tag; without one it is dropped and counted. -/
def fillSlot (s : State) (m : Msg) : State :=
  let ok (p : Part) : Bool := p.replies.any fun r => r.tag = m.tag && r.reply.isNone
  match s.placed m.dest m.ctx with
  | some k =>
    if ok (s.part k) then
      s.modPart k fun p => { p with replies := p.replies.map fun r =>
        if r.tag = m.tag && r.reply.isNone then { r with reply := some (m.status, m.args.getD 0 0, m.args.getD 1 0, m.arg 2 % 256) } else r }
    else dropAt s m.dest
  | none => dropAt s m.dest

/-- The reply class: a reply, or a bounce of a message with RP. -/
def Msg.isReply (m : Msg) : Bool := m.cls = 1 && (!m.bnc || m.rp)

def execReplyArrival (n : Nat) (s : State) : Host.Outcome State Fault Refusal :=
  .next (match s.net[n]? with
    | some m =>
      if !m.isReply || !firstOfLane s n then s
      else
        let s1 := takeMsg s n
        match fateOf s1 m.dest m.ctx with
        | .spilled | .evicting =>
          if (s1.ctx m.ctx).inbox.length < 4096 then s1.modCtx m.ctx fun c => { c with inbox := c.inbox ++ [m] }
          else dropAt s1 m.dest
        | .live => fillSlot s1 m
        | _ => dropAt s1 m.dest
    | none => s)

/-- Whoever waits for the acceptance of a task message is told that it bounced (R447). A TASKSEED packet's queue sees it in the network no more. (DEDUCED: log 120.) -/
def seedBounced (s : State) (m : Msg) : State :=
  match m.sender with
  | .tsend => s.modPartOf m.dest m.ctx fun p => if p.sleep = .tsend then { p with sleep := .woken 0 0 } else p
  | _ => s

/-- A bounce without RP returns (R356): the sender writes the record of KIND 0x09. -/
def execBounce (n : Nat) (s : State) : Host.Outcome State Fault Refusal :=
  .next (match s.net[n]? with
    | some m =>
      if m.cls ≠ 1 || !m.bnc || m.rp || !firstOfLane s n then s
      else
        let s1 := takeMsg s n
        match fateOf s1 m.dest m.ctx, m.sender with
        | .exited, .packet _ _ _ => record s1 m
        | .exited, _ => dropAt s1 m.dest
        | _, _ => record s1 m
    | none => s)
where
  record (s : State) (m : Msg) : State :=
    let access := 1 ≤ m.status && m.status ≤ 4
    let s1 := (writeRecord s m.ctx m.dest (record64 [(0, 1, 0x09), (2, 1, m.status),
      (3, 1, if m.status = 2 || m.status = 3 then m.arg 2 % 256 else 0), (4, 2, m.tag.toNat), (8, 8, m.handler.toNat), (16, 4, m.src),
      (24, 8, if access then m.arg 1 else 0)])).1
    seedBounced s1 m

/-! ## The inbox is delivered (R355) -/

/-- Deliver what an inbox holds for a part that is live, in order: requests while partition D's queue has room, replies to their slots. Task
messages wait for Tabor. -/
def drainInbox (s : State) (flat c : Nat) : State :=
  if fateOf s flat c ≠ .live then s
  else (s.ctx c).inbox.foldl (fun s m =>
    if m.dest ≠ flat || m.task then s
    else if m.cls = 1 then fillSlot (s.modCtx c fun x => { x with inbox := x.inbox.erase m }) m
    else if decide (32 ≤ ((s.core flat).dq).length) then s
    else (s.modCtx c fun x => { x with inbox := x.inbox.erase m }).modCore flat fun d => { d with dq := d.dq ++ [m] }) s

/-- The contexts that have parts on a core are given what their inboxes hold. (DEDUCED: log 125.) -/
def drainInboxes (s : State) (flat : Nat) : State :=
  [0, 1, 2].foldl (fun s q => if (s.part (flat * 4 + q)).st ≠ .free then drainInbox s flat (s.part (flat * 4 + q)).ctx else s) s

/-- Messages that wait in partition D's queue for a part that is no longer there go to the head of the inbox: they arrived before what it holds for the part
(R145, R354, R355). -/
def requeue (s : State) (flat c : Nat) : State :=
  let mine := (s.core flat).dq.filter (·.ctx = c)
  let room := 4096 - (s.ctx c).inbox.length
  let s1 := (s.modCore flat fun x => { x with dq := x.dq.filter (·.ctx ≠ c) }).modCtx c fun x => { x with inbox := mine.take room ++ x.inbox }
  (mine.drop room).foldl (fun s m => bounceMsg s m 6) s1

/-! ## Handlers in partition D (R359 to R361) -/

/-- Partition D at the first instruction of a handler. (DEDUCED: log 126.) -/
def handlerPart (d a : Part) (m : Msg) (seq : Nat) : Part :=
  let s4 := (List.finRange 4).foldl (fun (r : Vector W64 64) i => r.set (4 + i.val) (m.args.getD i.val 0) (by have := i.isLt; omega)) d.s
  let s57 := (s4.set 56 m.header).set 57 (BitVec.ofNat 64 (m.src % 2 ^ 32 + m.srcPart.val * 2 ^ 32))
  ({ d with
      s := s57, st := .resident, ctx := m.ctx, unitIdx := a.unitIdx, unitCnt := a.unitCnt, launchPtr := a.launchPtr, cbankPtr := a.cbankPtr
      cbank := a.cbank, launch := a.launch, fpctl := 0, stallchk := true, sb := [], stall := 0, sleep := .awake, fmode := .free, latch := false
      latchScope := 0, deferred := [] } : Part).goto m.handler seq

/-- Partition D starts the next queued handler; its first instruction is an acquire of the message scope (R353). (DEDUCED: log 125.) -/
def execHandlerStart (flat : Nat) (s : State) : Host.Outcome State Fault Refusal :=
  .next (match (s.core flat).dmsg, (s.core flat).dq with
    | none, m :: ms =>
      let s1 := s.modCore flat fun c => { c with dq := ms }
      match fateOf s1 flat m.ctx, s1.placed flat m.ctx with
      | .live, some k =>
        let s2 := (s1.modCore flat fun c => { c with dmsg := some m, dStart := s1.ftime }).modPart (flat * 4 + 3) fun d => handlerPart d (s1.part k) m s1.steps
        drainInboxes (acquireAt s2 flat (msgScope s2 m.src flat)) flat
      | .exited, _ => drainInboxes (bounceMsg s1 m 5) flat
      | _, _ => drainInboxes (requeue s flat m.ctx) flat
    | _, _ => s)

/-- A handler without AMRET for 100 µs is ended (R361). -/
def execHtimeout (flat : Nat) (s : State) : Host.Outcome State Fault Refusal :=
  .next (if (s.core flat).dmsg.isSome && decide (100000 ≤ since s (s.core flat).dStart) then { handlerFault s flat 0x17 0 0 with sel := none, issued := false } else s)

/-! ## AMSG, AMRET, AMWAIT (R367 to R369) -/

/-- ARG0 to ARG3 from the lanes of a vector. -/
def argsOf (v : VReg) : List W64 := (List.range 4).map fun i => v.extractLsb' (64 * i) 64

/-- Requests and service messages of a core that are still on their way (R360, R367). (DEDUCED: log 58.) -/
def outbound (s : State) (flat : Nat) : Nat := (s.net.filter fun m => m.src = flat && (m.cls = 0 || m.cls = 3)).length

def execAmsg (h : Hd) (o : OpE) (s : State) : Host.Outcome State Fault Refusal :=
  issue { h, reads := rds [o.s1, o.s2, o.s3, o.s4], writes := wr o.d none } (fun _ => do
    let k ← me
    let p ← myPart
    let l := o.lit.getD 0
    let flat := flatOf k
    let rp := o.mod.getLsbD 1
    let tag := (p.src l o.s4).setWidth 16
    if rp && idxOf k = 3 then illegalValue
    if rp && p.replies.any (fun r => r.tag = tag) then illegalValue
    if rp && decide (32 ≤ p.replies.length) then return .wait
    let dest := (p.src l o.s1).toNat % 2 ^ 32
    let m : Msg := { dest, tag, cls := if o.mod.getLsbD 0 then 3 else 0, rp, bnc := false, status := 0, handler := p.src l o.s2
                     args := argsOf (p.vreg o.s3), key := 0, src := flat, srcPart := ⟨idxOf k, by unfold idxOf; omega⟩, ctx := p.ctx
                     task := false, parent := none, sender := .nobody }
    if rp then setMine fun p => { p with replies := p.replies ++ [⟨tag, dest, none⟩] }
    if ← heldWaits then return .wait
    if ← holdM (.msg m) then
      putM o.d 1
      return .done
    let s ← get
    if !(← releaseNow (msgScope s flat dest)) then return .wait
    if 16 ≤ outbound s flat then
      if idxOf k = 3 then
        putM o.d 0
        return .done
      else return .wait
    modify fun s => perf (sendMsg s m) k 9 1
    putM o.d 1
    pure .done) s

def execAmret (h : Hd) (o : OpE) (s : State) : Host.Outcome State Fault Refusal :=
  issue { h, reads := if o.s1 = .v 0 then [] else rds [o.s1] } (fun _ => do
    let k ← me
    let p ← myPart
    if idxOf k ≠ 3 then illegalValue
    if !p.drained then return .wait
    modify fun s => streamsAcquired s k
    let s ← get
    let v := match o.s1 with
      | .v _ => 0
      | x => p.src (o.lit.getD 0) x
    match (s.core (flatOf k)).dmsg with
    | some m =>
      if m.rp then
        if !(← releaseM (msgScope s m.src (flatOf k))) then return .wait
        modify fun s => sendMsg s (replyTo m 0 v 0 0)
    | none => pure ()
    modify fun s => dIdle s (flatOf k)
    pure .placed) s

/-- The trap of a reply status (R363, R364). -/
def replyTrap (tag : Half) (st : Nat) (w1 : W64) (reason : Nat) : Trap :=
  match st with
  | 1 => ⟨0x08, 1, w1, none⟩
  | 2 => ⟨0x03, 1, w1, some (3 * 256 + reason)⟩
  | 3 => ⟨0x10, 1, w1, some (3 * 256 + reason)⟩
  | 4 => ⟨0x0C, 1, w1, none⟩
  | _ => ⟨0x12, 1, BitVec.ofNat 64 (tag.toNat * 65536 + st * 256), none⟩

def execAmwait (h : Hd) (o : OpE) (s : State) : Host.Outcome State Fault Refusal :=
  issue { h, reads := rds [o.s1], writes := wr o.d none ++ wr (predDst o.s4) none } (fun _ => do
    let k ← me
    let p ← myPart
    if idxOf k = 3 then illegalValue
    let tag : Half := (p.src (o.lit.getD 0) o.s1).setWidth 16
    match p.replies.find? fun r => r.tag = tag with
    | none => illegalValue
    | some r =>
      match r.reply with
      | none => pure .wait
      | some (st, w0, w1, reason) =>
        setMine fun p => { p with replies := p.replies.erase r }
        if st = 0 then
          putM o.d w0
          putM (predDst o.s4) ones64
          let s ← get
          acquireM (msgScope s (flatOf k) r.dest)
          pure .done
        else if o.mod.getLsbD 0 then
          putM (predDst o.s4) 0
          pure .done
        else pure (.trapped (replyTrap tag st w1 reason))) s

end Sys2Proof.Machine
end

