-- ==== Sys2Proof/Machine/Tasks.lean ====
section
/-! DEFINITION. Tasks: Tabor, dispatch, global virtual time and commit, and the instructions of major 0x70 (R422 to R451). -/

namespace Sys2Proof.Machine

/-! ## Keys (R422, R423) -/

def reservedKey : BitVec 128 := BitVec.allOnes 128

/-- Whether FP64 bits are a NaN. -/
def nan64 (b : W64) : Bool := bits b 62 52 = 2047 && bits b 51 0 ≠ 0

/-- The ordered image of FP64 bits; −0 is taken as +0. (DEDUCED: log 122.) -/
def orderedImage (b : W64) : W64 :=
  let c := if b = BitVec.ofNat 64 (2 ^ 63) then 0 else b
  if c.getLsbD 63 then ~~~c else c ^^^ BitVec.ofNat 64 (2 ^ 63)

/-- The FP64 bits of an ordered image. -/
def timeOf (hi : W64) : W64 := if hi.getLsbD 63 then hi ^^^ BitVec.ofNat 64 (2 ^ 63) else ~~~hi

def keyHi (k : BitVec 128) : W64 := k.extractLsb' 64 64
def keyLo (k : BitVec 128) : W64 := k.extractLsb' 0 64

/-- The TASK trap (R445). -/
def taskTrap (reason : Nat) : Stop := .trap ⟨0x15, 0, BitVec.ofNat 64 (reason * 256), none⟩

/-! ## Entering a Tabor (R427, R435) -/

def taborOf (s : State) (cl : Nat) : List Task := s.tasks.filter (·.cl = cl)

/-- The sender's wait for acceptance ends (R447). -/
def acceptSend (s : State) (m : Msg) : State :=
  match m.sender with
  | .tsend => s.modPartOf m.src m.ctx fun p => if p.sleep = .tsend then { p with sleep := .woken 1 0 } else p
  | _ => s

/-- A message becomes a task; a straggler aborts the later tasks of its region that have run. -/
def enterTabor (s : State) (m : Msg) : State :=
  let t : Task := { id := s.taskSeq, cl := clOf m.dest, msg := { m with held := false }, state := .pending, held := m.held, k := 0, reads := [], deps := [], writes := []
                    journal := [], acts := [], chk := none }
  let tie := s.tasks.any fun u => u.cl = t.cl && u.msg.key = m.key
  let s0 := if tie then logOrTake s m.dest 0 5 0 (BitVec.ofNat 64 m.src) else s
  let s1 : State := { s0 with tasks := s0.tasks ++ [t], taskSeq := s0.taskSeq + 1 }
  let ids := (s1.tasks.filter fun u =>
    u.ran && u.cl = t.cl && u.msg.ctx = m.ctx && u.region = t.region && t.before u && !irrevocable s1 u).map (·.id)
  if ids.isEmpty then s1 else abortTasks s1 ids []

/-- The task of a Tabor that the order puts last. -/
def lastTask : List Task → Option Task
  | [] => none
  | t :: ts =>
    match lastTask ts with
    | some u => if t.before u then some u else some t
    | none => some t

/-- A task is displaced: undone if it has run, its message held in the inbox. -/
def displace (s : State) (t : Task) : State :=
  let s1 := if t.ran then abortTasks s [t.id] [] else s
  toInbox { s1 with tasks := s1.tasks.filter (·.id ≠ t.id) } { t.msg with sender := .nobody, held := t.held }

/-- The task messages that inboxes hold for a cluster and that may enter its Tabor. -/
def waitingTasks (s : State) (cl : Nat) : List Msg :=
  s.ctxs.flatMap fun c => c.2.inbox.filter fun m => m.task && clOf m.dest = cl && (fateOf s m.dest m.ctx = .live || fateOf s m.dest m.ctx = .spilled)

def lowestMsg : List Msg → Option Msg
  | [] => none
  | m :: ms =>
    match lowestMsg ms with
    | some n => if n.key.toNat < m.key.toNat then some n else some m
    | none => some m

/-- Free slots of a Tabor take the lowest-keyed task messages of the inboxes. -/
def taborRefill (cl : Nat) : Nat → State → State
  | 0, s => s
  | n + 1, s =>
    if 256 ≤ (taborOf s cl).length then s
    else match lowestMsg (waitingTasks s cl) with
    | some m => taborRefill cl n (enterTabor (s.modCtx m.ctx fun c => { c with inbox := c.inbox.erase m }) m)
    | none => s

/-- A task message that must wait is held in its context's inbox, or bounces with FULL where that has no room (R355, R427). (DEDUCED: log 124.) -/
def holdTaskMsg (s : State) (m : Msg) : State :=
  if (s.ctx m.ctx).inbox.length < 4096 then acceptSend (toInbox s { m with sender := .nobody }) m else bounceMsg s m 6

/-- A task message meets a Tabor, which keeps the 256 lowest. -/
def offerTabor (s0 : State) (m : Msg) : State :=
  let s := taborRefill (clOf m.dest) 256 s0
  let ts := taborOf s (clOf m.dest)
  if ts.length < 256 then acceptSend (enterTabor s m) m
  else match lastTask ts with
  | some t =>
    let u : Task := { t with id := s.taskSeq, msg := m }
    if t.before u then holdTaskMsg s m
    else acceptSend (enterTabor (displace s t) m) m
  | none => s

/-- In replay a message whose key stands in its Tabor already enters when the log names its source (R500, R502). -/
def tieTurn (s : State) (m : Msg) : Bool :=
  !(s.tasks.any fun u => u.cl = clOf m.dest && u.msg.key = m.key) || (replayNext s m.dest 0 5).all fun e => e.payload = BitVec.ofNat 64 m.src

/-- A task message arrives (R354, R427). (DEDUCED: log 55.) -/
def execTaskArrival (n : Nat) (s : State) : Host.Outcome State Fault Refusal :=
  .next (match s.net[n]? with
    | some m =>
      if !m.task || m.cls ≠ 0 || !firstOfLane s n || !tieTurn s m then s
      else
        let s1 := takeMsg s n
        match m.reject s with
        | some st => bounceMsg s1 m st
        | none =>
          match fateOf s1 m.dest m.ctx with
          | .live | .spilled => offerTabor s1 m
          | .exited => bounceMsg s1 m 5
          | _ => holdTaskMsg s1 m
    | none => s)

/-! ## Dispatch (R428, R429) -/

/-- Whether a task may be dispatched to its partition. -/
def dispatchable (s : State) (t : Task) : Bool :=
  t.state = .pending && !(t.held && t.msg.key ≠ (s.ctx t.msg.ctx).gvt) &&
  s.tasks.all fun u =>
    !(u.id ≠ t.id && u.cl = t.cl && u.msg.ctx = t.msg.ctx && u.region = t.region) || (u.state ≠ .running && !(u.state = .pending && u.before t))

/-- The task that Tabor would dispatch to a partition: the lowest of those that may be. -/
def nextTask (s : State) (k : Nat) : Option Task :=
  (s.tasks.filter fun t => t.msg.dest = flatOf k && t.msg.ctx = (s.part k).ctx && dispatchable s t).foldl (fun b t =>
    match b with
    | none => some t
    | some u => if t.before u then some t else b) none

/-- Whether a part serves in TEND, and in TEND.nb. -/
def Part.serving (p : Part) : Bool := p.sleep = .task false || p.sleep = .task true

/-- Tabor dispatches to a serving partition: its registers are checkpointed and its TEND completes; a TEND.nb ends where nothing is dispatchable (R448). -/
def execTaskDispatch (k : Nat) (s : State) : Host.Outcome State Fault Refusal :=
  .next (if (s.part k).serving && (s.part k).st = .resident then
      let s1 := taborRefill (clOf (flatOf k)) 256 s
      let p := s1.part k
      match nextTask s1 k with
      | some t => (modTask s1 t.id fun t => { t with state := .running, k, chk := some p }).modPart k fun p => { p with sleep := .woken 1 0 }
      | none => if p.sleep = .task true then s1.modPart k fun p => { p with sleep := .woken 0 0 } else s1
    else s)

/-! ## Commit and global virtual time (R439 to R442) -/

/-- Perform a task's version of one line as committed values (R442); at a replicated page it is dropped with a record, as a plain store is (R225). (DEDUCED: log 119.) -/
def commitLine (s : State) (t : Task) (line : W64) (bs : List (W64 × Byte)) : State :=
  let flat := flatOf t.k
  let full := (List.range 64).all fun i => bs.any fun b => b.1 = line + BitVec.ofNat 64 i
  if isReplicated s flat line then
    let sc := scopeOf flat (homeOf s flat line)
    let (s1, slot) := writeRecord s t.msg.ctx flat
      (record64 [(0, 1, 0x0D), (1, 1, 0x03), (2, 1, 1), (3, 1, sc), (16, 1, 10), (24, 8, ((bs.head?.map (·.1)).getD line).toNat)])
    s1.modPartOf flat t.msg.ctx fun p => { p with deferred := p.deferred ++ [⟨false, sc, 0x03, 0x06, slot⟩] }
  else if isLost s flat line && !full then
    (mcheckWrite s t.msg.ctx flat (mcheckRecord 1 1 flat 0 ((bs.head?.map (·.1)).getD line) line)).1
  else
    let s1 := toHome (healRange s flat line (if full then 64 else 0)) flat line
    homeWriteAll s1 flat bs

/-- Send what a task held; a message, which counts as sent now (R499), and a signal are releases of their scopes (R246, R353). (DEDUCED: log 56.) -/
def sendHeld (s : State) (c : Nat) : HeldAct → State
  | .msg m => (sendMsg (releaseAt s m.src (msgScope s m.src m.dest)) m).modPartOf m.src c fun p => p.count 9 1
  | .signal src tgt name scope pc =>
    let s1 := releaseAt s src scope
    (signalTo s1 c src tgt name scope pc).getD s1
  | .sev tgts scope => sevTo s c scope tgts

/-- A DONE task is COMMITTED: its versions, its held messages and signals, Damask input 17 of its part. (DEDUCED: log 38.) -/
def commitTask (s : State) (t : Task) : State :=
  let bs : List (W64 × Byte) := t.writes.map fun b => (vaOfId b.1, b.2)
  let ls := (bs.map fun b => lineOf b.1).dedup
  let s1 := { s with tasks := (List.filter (fun (u : Task) => u.id ≠ t.id) s.tasks).map fun (u : Task) =>
    { u with deps := u.deps.filter (· ≠ t.id), msg := if u.msg.parent = some t.id then { u.msg with parent := none } else u.msg } }
  let free (m : Msg) : Msg := if m.parent = some t.id then { m with parent := none } else m
  let s2 := { s1 with net := s1.net.map free, ctxs := s1.ctxs.map fun c => (c.1, { c.2 with inbox := c.2.inbox.map free }) }
  let s3 := ls.foldl (fun s l => commitLine s t l (bs.filter fun b => lineOf b.1 = l)) s2
  pulseOf (t.acts.foldl (fun s a => sendHeld s t.msg.ctx a) s3) (flatOf t.k) t.msg.ctx 17

/-- The least key of the tasks and task messages of a context that bound its GVT (R439). -/
def minKey (s : State) (c : Nat) : BitVec 128 :=
  let ks := ((s.tasks.filter fun t => t.msg.ctx = c && t.state ≠ .done).map fun t => t.msg.key) ++
    ((s.net.filter fun m => m.task && m.ctx = c).map (·.key)) ++ (((s.ctx c).inbox.filter (·.task)).map (·.key))
  ks.foldl (fun a b => if b.toNat < a.toNat then b else a) reservedKey

/-- A GVT round of a context (R440): commit below G in key order, then publish; where the reserved key is published, serving TENDs return 0. -/
def execGvtRound (ctx : Nat) (s : State) : Host.Outcome State Fault Refusal :=
  let g := minKey s ctx
  let done := (s.tasks.filter fun t => t.msg.ctx = ctx && t.state = .done && decide (t.msg.key.toNat < g.toNat)).mergeSort fun a b => a.before b
  let s1 := done.foldl commitTask s
  let held := (s1.ctx ctx).inbox.filter (·.task)
  let s2 := ((done.map (·.cl)) ++ held.map fun m => clOf m.dest).dedup.foldl (fun s cl => taborRefill cl 256 s) s1
  let s3 := s2.modCtx ctx fun c => { c with gvt := g }
  .next (if g = reservedKey then
      { s3 with parts := s3.parts.map fun kp =>
          if kp.2.ctx = ctx && kp.2.st ≠ .free && kp.2.serving then (kp.1, { kp.2 with sleep := .woken 0 0 }) else kp }
    else s3)

/-! ## Ends of a part -/

/-- Abort and discard the uncommitted tasks of a part (R278). -/
def discardTasks (s : State) (flat c : Nat) : State :=
  let ids := (s.tasks.filter fun t => t.msg.dest = flat && t.msg.ctx = c).map (·.id)
  if ids.isEmpty then s else taborRefill (clOf flat) 256 (abortTasks s [] ids)

/-! ## Instructions (R446 to R451) -/

/-- VALUE in partition D. -/
def notInD : M Unit := do
  let k ← me
  if idxOf k = 3 then illegalValue

/-- A time operand as the upper half of a key. (DEDUCED: log 122.) -/
def timeM (p : Part) (l : W32) (o : Bool) (x : Src) : M W64 := do
  if o then pure (p.src l x)
  else
    let b : W64 := BitVec.ofNat 64 (match x with
      | .slot => (p.src l x).toNat
      | _ => p.srcT (.flt fmt64) x)
    if nan64 b then stop (taskTrap 1)
    pure (orderedImage b)

def execTsend (h : Hd) (o : OpE) (s : State) : Host.Outcome State Fault Refusal :=
  issue { h, reads := rds [o.s1, o.s2, o.s3, o.s4, o.s5], writes := wr o.d none } (fun _ => do
    notInD
    let k ← me
    let p ← myPart
    match p.sleep with
    | .woken how _ =>
      setMine fun p => { p with sleep := .awake }
      putM o.d (BitVec.ofNat 64 how)
      pure .done
    | _ =>
      let l := o.lit.getD 0
      let hi ← timeM p l (o.mod.getLsbD 0) o.s4
      let key : BitVec 128 := BitVec.ofNat 128 (hi.toNat * 2 ^ 64 + (p.src l o.s5).toNat)
      if key = reservedKey then stop (taskTrap 1)
      let s ← get
      let t := taskOn s k
      match t with
      | some t => if key.toNat ≤ t.msg.key.toNat then stop (taskTrap 1)
      | none => pure ()
      if !(← releaseM 4) then return .wait
      modify fun s => sendMsg s { dest := (p.src l o.s1).toNat % 2 ^ 32, tag := 0, cls := 0, rp := false, bnc := false, status := 0
                                  handler := p.src l o.s2, args := argsOf (p.vreg o.s3), key, src := flatOf k
                                  srcPart := ⟨idxOf k, by unfold idxOf; omega⟩, ctx := p.ctx, task := true, parent := t.map (·.id), sender := .tsend }
      setMine fun p => { p.count 9 1 with sleep := .tsend }
      pure .waitKeep) s

/-- The registers of a dispatched task (R429). (DEDUCED: log 121.) -/
def Part.enterTask (p : Part) (m : Msg) : Part :=
  let q := (List.finRange 4).foldl (fun (p : Part) i => p.setS ⟨4 + i.val, by have := i.isLt; omega⟩ (m.args.getD i.val 0)) p
  let r := (q.setS 56 m.header).setS 57 (BitVec.ofNat 64 (m.src % 2 ^ 32 + m.srcPart.val * 2 ^ 32))
  { r with sb := r.sb.filter fun e => !([Reg.s 4, .s 5, .s 6, .s 7, .s 56, .s 57].contains e.reg) }

/-- TEND and TABORT trap VALUE in a trap handler or the upcall runtime (R431). -/
def notInHandler : M Unit := do
  let p ← myPart
  if p.inTrap || p.inUp then illegalValue

def execTend (h : Hd) (o : OpE) (s : State) : Host.Outcome State Fault Refusal :=
  issue { h, writes := wr o.d none } (fun _ => do
    notInD
    notInHandler
    let k ← me
    let p ← myPart
    let s ← get
    match p.sleep with
    | .woken 1 _ =>
      match taskOn s k with
      | some t =>
        setMine fun p => { p with sleep := .awake }
        putM o.d 1
        setMine fun p => p.enterTask t.msg
        acquireM 4
        pure (.jump t.msg.handler)
      | none =>
        setMine fun p => { p with sleep := .task (o.mod.getLsbD 0) }
        pure .waitKeep
    | .woken _ _ =>
      setMine fun p => { p with sleep := .awake }
      putM o.d 0
      pure .done
    | _ =>
      match taskOn s k with
      | some t => modify fun s => modTask s t.id fun t => { t with state := .done, chk := none }
      | none => pure ()
      modify fun s => taborRefill (clOf (flatOf k)) 256 s
      let s ← get
      if o.mod.getLsbD 0 && (nextTask s k).isNone then
        putM o.d 0
        pure .done
      else
        setMine fun p => { p with sleep := .task (o.mod.getLsbD 0) }
        pure .waitKeep) s

def execTabort (h : Hd) (o : OpE) (s : State) : Host.Outcome State Fault Refusal :=
  issue { h } (fun _ => do
    notInD
    notInHandler
    let k ← me
    let s ← get
    match taskOn s k with
    | none => stop (taskTrap 2)
    | some t =>
      if o.mod.getLsbD 0 then
        modify fun s => taborRefill t.cl 256 (abortTasks s [] [t.id])
        pure .placed
      else
        if irrevocable s t then illegalValue
        modify fun s => holdTask s k
        pure .placed) s

/-- A part of a key (R446): low, high, or the time as FP64 bits. -/
def keyPart (k : BitVec 128) (part : Nat) : W64 :=
  match part with
  | 0 => keyLo k
  | 1 => keyHi k
  | _ => timeOf (keyHi k)

def execTgvt (h : Hd) (o : OpE) (s : State) : Host.Outcome State Fault Refusal :=
  issue { h, writes := wr o.d none } (fun _ => do
    let p ← myPart
    let s ← get
    let g := (s.ctx p.ctx).gvt
    let part := o.mod.toNat % 4
    putM o.d (if g = reservedKey && part = 2 then 0x7FF0000000000000 else keyPart g part)
    pure .done) s

def execTkey (h : Hd) (o : OpE) (s : State) : Host.Outcome State Fault Refusal :=
  issue { h, writes := wr o.d none } (fun _ => do
    let k ← me
    let s ← get
    match taskOn s k with
    | some t =>
      putM o.d (keyPart t.msg.key (o.mod.toNat % 4))
      pure .done
    | none => stop (taskTrap 2)) s

/-- TWAIT of the reserved key waits too. (DEDUCED: log 179.) -/
def execTwait (h : Hd) (o : OpE) (s : State) : Host.Outcome State Fault Refusal :=
  issue { h, reads := rds [o.s1, o.s2], writes := wr o.d none } (fun _ => do
    notInD
    noTask
    let p ← myPart
    let l := o.lit.getD 0
    let hi ← timeM p l (o.mod.getLsbD 0) o.s1
    let key : Nat := hi.toNat * 2 ^ 64 + (p.src l o.s2).toNat
    let s ← get
    let g := (s.ctx p.ctx).gvt
    if g.toNat ≤ key then return .wait
    putM o.d (keyHi g)
    acquireM 4
    pure .done) s

end Sys2Proof.Machine
end

