-- ==== Sys2Proof/Machine/Transfers.lean ====
section
/-! DEFINITION. Pull-token transfers: the request table of a part, Tabla and what passes between them (R384 to R391, R398, R399). -/

namespace Sys2Proof.Machine

/-! ## The two sides of a transfer -/

def Xfer.final (x : Xfer) : Bool := x.st = .complete || x.st = .cancelled

def xferOf (s : State) (k id : Nat) : Option Xfer := (s.part k).xfers.find? (·.id = id)

/-- Entries that RP_DONE has passed are freed (R384). -/
def Part.trimXfers (p : Part) : Part := { p with xfers := p.xfers.dropWhile (·.final) }

def modXfer (s : State) (k id : Nat) (f : Xfer → Xfer) : State :=
  s.modPart k fun p => Part.trimXfers { p with xfers := p.xfers.map fun x => if x.id = id then f x else x }

/-- The Tabla that a transfer is announced to. -/
def tablaOf (x : Xfer) : Nat := dieOf x.dest

/-- Whether a Tabla entry is that of a transfer of the part in a partition. -/
def TEnt.isOf (t : TEnt) (s : State) (k id : Nat) : Bool := t.src = flatOf k && t.ctx = (s.part k).ctx && t.id = id

def tentOf (s : State) (k : Nat) (x : Xfer) : Option TEnt := (s.die (tablaOf x)).tabla.find? fun t => t.isOf s k x.id

def modTent (s : State) (k : Nat) (x : Xfer) (f : TEnt → TEnt) : State :=
  s.modDie (tablaOf x) fun d => { d with tabla := d.tabla.map fun t => if t.isOf s k x.id then f t else t }

def dropTent (s : State) (k : Nat) (x : Xfer) : State :=
  s.modDie (tablaOf x) fun d => { d with tabla := d.tabla.filter fun t => !t.isOf s k x.id }

/-- Something goes from Tabla to the sender of an entry. -/
def notify (s : State) (t : TEnt) (n : XNote) : State :=
  s.modPartOf t.src t.ctx fun p => { p with xfers := p.xfers.map fun x => if x.id = t.id && !x.final then { x with notes := x.notes ++ [n] } else x }

/-- A transfer ends CANCELLED; Tabla's entry and its token go. -/
def cancelXfer (s : State) (k : Nat) (x : Xfer) : State :=
  modXfer (dropTent s k x) k x.id fun x => { x with st := .cancelled, notes := [], tok := 0, owes := false }

/-- As `cancelXfer`, with the record of R389. (DESIGN CHOICE: log 137.) -/
def failXfer (s : State) (k : Nat) (x : Xfer) (code reason acc : Nat) (addr : W64) : State :=
  let (s1, slot) := writeRecord s (s.part k).ctx (flatOf k) (moveRecord 0x0B code reason 4 acc x.pc addr x.id 0)
  cancelXfer (s1.modPart k fun p => { p with rpRecs := p.rpRecs ++ [⟨x.id, code, reason, acc, slot⟩] }) k x

/-! ## Moving bytes -/

/-- The granule of a transfer's path (R175): 32 bytes where the home of the destination lies on the sender's die, 16 beyond, 8 to the host. -/
def xferGranule (s : State) (flat : Nat) (x : Xfer) (b : W64) : Nat :=
  match regionOf b with
  | .shared => if isHostVa s x.dest b then 8 else if dieOf (homeOf s x.dest b) = dieOf flat then 32 else 16
  | _ => if dieOf x.dest = dieOf flat then 32 else 16

/-- Move granules in offset order, up to a number of them and up to an offset, until one meets a condition or cannot be reached (R493): the state, the bytes written from the start,
the condition with ACC of its record (R389). -/
def movePieces (s : State) (sw dw : Who) (x : Xfer) (upto ack : Nat) : Nat → State × Nat × Option (EFault × Nat)
  | 0 => (s, ack, none)
  | f + 1 =>
    if upto ≤ ack then (s, ack, none)
    else
      let a := x.src + BitVec.ofNat 64 ack
      let b := x.dst + BitVec.ofNat 64 ack
      let g := xferGranule s sw.flat x b
      let n := min (upto - ack) (g - b.toNat % g)
      if engineCut s sw.flat a n || engineCut s dw.flat b n || !crossing s sw.flat dw.flat 0 then (s, ack, none)
      else match engineCheck s sw .read a n with
      | .error e => (e.note s sw.flat, ack, some (e, 0))
      | .ok s1 =>
        match engineCheck s1 dw .write b n with
        | .error e => (e.note s1 dw.flat, ack, some (e, 3))
        | .ok s2 =>
          let (s3, bs) := engineRead s2 sw.flat a n
          movePieces (engineWrite s3 dw.flat b bs) sw dw x upto (ack + n) f

/-- The bytes that the sender may send now without asking: the prefix, or what is left of its token. -/
def Xfer.due (x : Xfer) : Nat :=
  match x.st with
  | .requested => if x.announced then min x.len 16384 - x.ack else 0
  | .granted => x.tok
  | .sending => x.tok
  | _ => 0

/-- Up to `n` more granules of a transfer that may send are written. -/
def xferMove (s : State) (k : Nat) (x : Xfer) (n : Nat) : State × Nat × Option (EFault × Nat) :=
  movePieces s (whoOf s k) ⟨x.dest, x.dest * 4, (s.part k).ctx⟩ x (min x.len (x.ack + x.due)) x.ack n

/-- Tabla has a token back: no more than the one that it has out for the entry. -/
def TEnt.back (t : TEnt) (id now : Nat) : TEnt :=
  match t.token with
  | some (i, _) => if i = id then { t with token := none, since := now } else t
  | none => t

/-- Bytes of a transfer have arrived up to an offset (R386, R391): the prefix or the token ends with its last. A token's first byte stops its expiry;
bytes of an older token do not (R387). -/
def arrived (s : State) (k : Nat) (x : Xfer) (ack : Nat) : State :=
  let last := decide (x.due ≤ ack - x.ack)
  let first (t : TEnt) : TEnt := { t with token := t.token.map fun a => if a.1 = x.tokId then (a.1, a.2.1, true) else a }
  let got (t : TEnt) : TEnt :=
    let t1 := if x.st = .requested then (if last then { t with prefixed := true, since := s.ftime } else t) else if last then t.back x.tokId s.ftime else first t
    { t1 with ack, heard := s.ftime }
  modXfer (modTent s k x got) k x.id fun x =>
    { x with ack, tok := x.tok - (ack - x.ack), st := if last then .prefixed else if x.st = .requested then .requested else .sending }

/-! ## Requests (R387, R388) -/

def tablaFull (s : State) (x : Xfer) : Bool := decide (2048 ≤ (s.die (tablaOf x)).tabla.length)

/-- Enter a request into Tabla, the youngest. -/
def enterTabla (s : State) (k : Nat) (x : Xfer) (prefixed : Bool) : State :=
  s.modDie (tablaOf x) fun d => { d with tabla := d.tabla ++
    [{ src := flatOf k, ctx := (s.part k).ctx, id := x.id, dest := x.dest, len := x.len, ack := x.ack, prefixed, token := none, issued := x.tokId
       since := s.ftime, heard := s.ftime }] }

/-- A re-request: it stands again; an ORPHANED transfer enters Tabla anew, or ends as EXITED where the receiving part is gone (R354, R389); any other that
was reclaimed receives a notice. -/
def askAgain (s : State) (k : Nat) (x : Xfer) : State :=
  match tentOf s k x with
  | some _ => modXfer (modTent s k x fun t => { t with heard := s.ftime }) k x.id fun x => { x with owes := false }
  | none =>
    if x.st = .orphaned then
      match fateOf s x.dest (s.part k).ctx with
      | .exited | .evicting => failXfer s k x 0x13 0x41 0 0
      | .unplaced => s
      | .live | .spilled => if tablaFull s x then s else modXfer (enterTabla s k x true) k x.id fun x => { x with owes := false }
    else if x.notes.contains .reclaimed then s
    else modXfer s k x.id fun x => { x with owes := false, notes := x.notes ++ [.reclaimed] }

/-- Whether a part sends: it is neither pre-empted nor away (R387, R391). -/
def sends (s : State) (k : Nat) : Bool := (s.part k).st = .resident || (s.part k).st = .checkpointing || (s.part k).st = .halted

/-- Ask again at once, or once the part is resumed or restored. -/
def askOrOwe (s : State) (k id : Nat) : State :=
  match xferOf s k id with
  | some x => if sends s k then askAgain s k x else modXfer s k id fun x => { x with owes := true }
  | none => s

/-- The number of a token on its way. -/
def XNote.tokenId : XNote → Option Nat
  | .token id _ => some id
  | _ => none

/-- A part is pre-empted (R148, R391): the tokens that it holds return, and it asks again later. With `all`, as at a spill, those on their way to it return too. -/
def returnTokens (s : State) (k : Nat) (all : Bool) : State :=
  (s.part k).xfers.foldl (fun s x =>
    if x.final || !x.announced || x.st = .requested then s
    else
      let held := x.st = .granted || x.st = .sending
      let out := (if held then [x.tokId] else []) ++ if all then x.notes.filterMap XNote.tokenId else []
      let s1 := modTent s k x fun t => out.foldl (fun t i => t.back i s.ftime) t
      modXfer s1 k x.id fun x =>
        { x with st := if held then .prefixed else x.st, tok := 0, owes := true, notes := if all then x.notes.filter (·.tokenId.isNone) else x.notes }) s

/-- A part is resumed or restored: deferred re-requests are sent. -/
def sendRequests (s : State) (k : Nat) : State := (s.part k).xfers.foldl (fun s x => if x.owes && !x.final then askAgain s k x else s) s

/-- A part ends, is destroyed or enters EVICTING: every request addressed to it is cancelled (R389). -/
def tablaPartGone (s : State) (flat c : Nat) : State :=
  let ts := (s.die (dieOf flat)).tabla.filter fun t => t.dest = flat && t.ctx = c
  ts.foldl (fun s t => notify s t .gone) (s.modDie (dieOf flat) fun d => { d with tabla := d.tabla.filter fun t => !(t.dest = flat && t.ctx = c) })

/-- A receiving part becomes live: its requests count as eligible from now (R386). -/
def tablaLive (s : State) (flat c : Nat) : State :=
  s.modDie (dieOf flat) fun d => { d with tabla := d.tabla.map fun t => if t.dest = flat && t.ctx = c then { t with since := s.ftime } else t }

/-! ## Events -/

/-- An event of a transfer, of the part in a partition A to C or of one that is SPILLED (R391: its prefix continues, and its transfers complete). For those the
event names partition D of the core, which has no transfers of its own, and the place of the part among those kept away in the bits of the ID from 48 on. (DESIGN CHOICE:
log 61.) -/
def onSender (f : Nat → Nat → State → State) (k id : Nat) (s : State) : State :=
  if idxOf k ≠ 3 then f k id s
  else
    let i := id / 2 ^ 48
    match s.away[i]? with
    | some a =>
      if a.1 = flatOf k && a.2.st ≠ .created then
        let s1 := f k (id % 2 ^ 48) (s.setPart k a.2)
        let p := s1.part k
        let moved (q : Part) : Part := { q with xfers := p.xfers, rpRecs := p.rpRecs, damask := p.damask, perf := p.perf }
        { s1.setPart k (s.part k) with away := s1.away.mapIdx fun j b => if j = i then (b.1, moved b.2) else b }
      else s
    | none => s

/-- An announcement reaches Tabla (R385): it enters, waits for the part to be placed or for room, or is cancelled as EXITED. (DESIGN CHOICE: log 138.) -/
def announceXfer (k id : Nat) (s : State) : State :=
  match xferOf s k id with
    | some x =>
      if x.st ≠ .requested || x.announced then s
      else match fateOf s x.dest (s.part k).ctx with
      | .exited | .evicting => failXfer s k x 0x13 0x41 0 0
      | .unplaced => s
      | .live | .spilled =>
        if tablaFull s x then s else modXfer (enterTabla s k x false) k id fun x => { x with announced := true }
    | none => s

def execTransferAnnounce (k id : Nat) (s : State) : Host.Outcome State Fault Refusal := .next (onSender announceXfer k id s)

/-- The sender sends on: granules of its prefix or of its token are written, a free number of them, and with the last the transfer is PREFIXED (R385, R391).
(DESIGN CHOICE: log 61.) -/
def sendXfer (k id : Nat) (s : State) : State :=
  match xferOf s k id with
    | some x =>
      if x.due = 0 || x.broken.isSome || (tentOf s k x).isNone then s
      else
        let (s1, ack, _) := xferMove { s with free := s.free + 1 } k x (1 + Config.nextGranule s.free % 8192)
        if ack ≤ x.ack then s else arrived s1 k x ack
    | none => s

def execTransferSendDone (k id : Nat) (s : State) : Host.Outcome State Fault Refusal := .next (onSender sendXfer k id s)

/-- Whether a request is eligible for a token (R386). -/
def TEnt.eligible (s : State) (t : TEnt) : Bool :=
  t.prefixed && t.token.isNone && decide (t.ack < t.len) && fateOf s t.dest t.ctx = .live

/-- The effective priority of a request: its base priority rises by 1 every 200 µs that it has been eligible without a grant, to 4 (R386). -/
def TEnt.prio (s : State) (t : TEnt) : Nat :=
  let p := match s.placed t.dest t.ctx with
    | some k => (s.part k).rxpri
    | none => 0
  min (p + Sys2Proof.Machine.since s t.since / 200000) 4

/-- Whether a request goes before an older one. -/
def TEnt.beats (s : State) (t u : TEnt) : Bool :=
  if t.prio s ≠ u.prio s then decide (u.prio s < t.prio s)
  else if t.prio s = 4 then false
  else decide (t.len - t.ack < u.len - u.ack)

/-- Tabla gives a free token to the eligible request of highest effective priority (R386); a sender that is spilled returns it at once (R391). -/
def execTokenGrant (dk : Nat) (s : State) : Host.Outcome State Fault Refusal :=
  let tb := (s.die dk).tabla
  let best := tb.foldl (fun b t => if t.eligible s then
      match b with
      | none => some t
      | some u => if t.beats s u then some t else b
    else b) (none : Option TEnt)
  .next (match best with
    | some t =>
      if 8 ≤ (tb.filter fun t => t.token.isSome).length then s
      else
        let put (v : TEnt) : State := s.modDie dk fun d => { d with tabla := d.tabla.map fun u => if u = t then v else u }
        let n := t.issued + 1
        if (s.placed t.src t.ctx).isNone then put { t with issued := n, since := s.ftime }
        else notify (put { t with token := some (n, s.ftime, false), issued := n }) t (.token n (t.ack + min 65536 (t.len - t.ack)))
    | none => s)

/-- A token reaches the sender (R391): the transfer is GRANTED, and SENDING once granules of the token are written, a free number of them here; a pre-empted
sender returns it. (DESIGN CHOICE: log 61.) -/
def takeToken (k id : Nat) (s : State) : State :=
  match xferOf s k id with
    | some x =>
      match x.notes with
      | .token i upto :: ns =>
        let s1 := modXfer s k id fun x => { x with notes := ns }
        if !(x.st = .prefixed || x.st = .expired || x.st = .orphaned) || (tentOf s k x).isNone then s1
        else if !sends s k || decide (upto ≤ x.ack) then
          modXfer (modTent s1 k x fun t => t.back i s.ftime) k id fun x => { x with owes := x.owes || !sends s k }
        else
          let x1 : Xfer := { x with st := .granted, tokId := i, tok := upto - x.ack, notes := ns }
          let s2 := modXfer s1 k id fun _ => x1
          let (s3, ack, _) := xferMove { s2 with free := s.free + 1 } k x1 (if x.broken.isSome then 0 else Config.nextGranule s.free % 8192)
          if ack ≤ x.ack then s2 else arrived s3 k x1 ack
      | _ => s
    | none => s

def execTokenArrival (k id : Nat) (s : State) : Host.Outcome State Fault Refusal := .next (onSender takeToken k id s)

/-- TABLA_AGEING: the effective priority of an eligible request is a function of FTIME here (`TEnt.prio`), so that nothing is left to do when it rises.
(DEDUCED: log 175.) -/
def execTablaAgeing (_dk _entry : Nat) (s : State) : Host.Outcome State Fault Refusal := .next s

/-- A token whose first byte has not arrived within 50 µs expires (R387). -/
def execTokenExpiry (dk entry : Nat) (s : State) : Host.Outcome State Fault Refusal :=
  .next (match (s.die dk).tabla[entry]? with
    | some t =>
      match t.token with
      | some (i, at_, false) =>
        if 50000 ≤ since s at_ then
          notify (s.modDie dk fun d => { d with tabla := d.tabla.set entry { t with token := none, since := s.ftime } }) t (.expiry i)
        else s
      | _ => s
    | none => s)

/-- The sender receives an expiry notice: it stops sending the token's bytes and re-requests (R387). -/
def expireXfer (k id : Nat) (s : State) : State :=
  match xferOf s k id with
    | some x =>
      match x.notes with
      | .expiry i :: ns =>
        if (x.st = .granted || x.st = .sending) && x.tokId = i then
          askOrOwe (modXfer s k id fun x => { x with notes := ns, st := .expired, tok := 0 }) k id
        else modXfer s k id fun x => { x with notes := ns }
      | _ => s
    | none => s

def execExpiryNotice (k id : Nat) (s : State) : Host.Outcome State Fault Refusal := .next (onSender expireXfer k id s)

/-- The sending engine sends a keepalive (R388). -/
def execKeepalive (k id : Nat) (s : State) : Host.Outcome State Fault Refusal :=
  let st := (s.part k).st
  .next (match xferOf s k id with
    | some x =>
      if x.final || !x.announced || !(st = .resident || st = .preempted || st = .halted) then s
      else match tentOf s k x with
      | some _ => modTent s k x fun t => { t with heard := s.ftime }
      | none => if x.st = .orphaned && !sends s k then s else askAgain s k x
    | none => s)

/-- Tabla reclaims a request whose prefix has arrived and that is silent for 1 ms (R388); data or a token keeps an entry (R391). -/
def execReclaim (dk entry : Nat) (s : State) : Host.Outcome State Fault Refusal :=
  .next (match (s.die dk).tabla[entry]? with
    | some t =>
      if 1000000 ≤ since s t.heard && t.prefixed && t.token.isNone then s.modDie dk fun d => { d with tabla := d.tabla.eraseIdx entry } else s
    | none => s)

/-- The sender receives a reclaim notice and re-requests from the acknowledged count (R388). -/
def reclaimXfer (k id : Nat) (s : State) : State :=
  match xferOf s k id with
    | some x =>
      match x.notes with
      | .reclaimed :: ns =>
        let s1 := modXfer s k id fun x => { x with notes := ns }
        if x.st = .prefixed || x.st = .expired then askOrOwe (modXfer s1 k id fun x => { x with st := .orphaned, owes := true }) k id else s1
      | _ => s
    | none => s

def execReclaimNotice (k id : Nat) (s : State) : Host.Outcome State Fault Refusal := .next (onSender reclaimXfer k id s)

/-- Every byte is written (R390): COMPLETE, Damask input 21, and the event of .sig on DEST's cluster. (DESIGN CHOICE: log 139.) -/
def completeXfer (k id : Nat) (s : State) : State :=
  match xferOf s k id with
    | some x =>
      match tentOf s k x with
      | some t =>
        if t.prefixed && t.ack = x.len && (x.st = .prefixed || x.st = .expired || x.st = .orphaned) then
          let s1 := pulse (modXfer (dropTent s k x) k id fun x => { x with st := .complete, notes := [], owes := false }) k 21
          match x.sig with
          | some name => (evsig (releaseAt s1 x.dest 4) (clOf x.dest) (s.part k).ctx name 4).getD s1
          | none => s1
        else s
      | none => s
    | none => s

def execTransferComplete (k id : Nat) (s : State) : Host.Outcome State Fault Refusal := .next (onSender completeXfer k id s)

/-- What ends a transfer early at its next byte: its broken pin (R224) or a condition there; with ACC of the record (R375, R389). -/
def xferStop (s : State) (k : Nat) (x : Xfer) : Option (EFault × Nat) :=
  match x.broken with
  | some acc => some (⟨0x10, 0x20, (if acc = 0 then x.src else x.dst) + BitVec.ofNat 64 x.ack, none, false⟩, acc)
  | none => (xferMove s k x 1).2.2

/-- A transfer ends early (R389): the receiving part is gone, its pin was broken, or its next bytes meet a condition. -/
def stopXfer (k id : Nat) (s : State) : State :=
  match xferOf s k id with
    | some x =>
      if x.final then s
      else if x.notes.contains .gone then failXfer s k x 0x13 0x41 0 0
      else match xferStop s k x with
      | some (e, acc) => failXfer (e.note s (if acc = 0 then flatOf k else x.dest)) k x e.code e.reason acc e.addr
      | none => s
    | none => s

def execTransferFault (k id : Nat) (s : State) : Host.Outcome State Fault Refusal := .next (onSender stopXfer k id s)

/-! ## RPUT, GRANTP, RCANCEL (R398, R399) -/

def execRput (h : Hd) (o : OpE) (s : State) : Host.Outcome State Fault Refusal :=
  issue { h, reads := rds [o.s1, o.s2, o.s3, o.s4, o.s5], writes := wr o.d none } (fun _ => do
    engineOnly
    let p ← myPart
    let l := o.lit.getD 0
    let len := (p.src l o.s4).toNat
    if len = 0 ∨ 2 ^ 32 < len then illegalValue
    let src := p.src l o.s2
    formM .read src 1
    if 32 ≤ p.xfers.length then return .wait
    if !(← pushRelease 4) then return .wait
    let p ← myPart
    let hold := o.mod.getLsbD 1
    let (p1, st) : Part × XState := if hold then
        match p.spend 6 with
        | some q => (q, .requested)
        | none => (p, .held)
      else (p, .requested)
    let x : Xfer := { id := p.rpNext, pc := p.pc, dest := (p.src l o.s1).toNat % 2 ^ 32, src, dst := p.src l o.s3, len
                      sig := if o.mod.getLsbD 0 then some ((p.src l o.s5).toNat % 65536) else none
                      st, announced := false, ack := 0, tok := 0, tokId := 0, notes := [], owes := false, broken := none }
    setMine fun _ => { p1 with rpNext := p.rpNext + 1, xfers := p.xfers ++ [x] }
    putM o.d (BitVec.ofNat 64 p.rpNext)
    pure .done) s

def execGrantp (h : Hd) (o : OpE) (s : State) : Host.Outcome State Fault Refusal :=
  issue { h, reads := rds [o.s1], writes := wr o.d none } (fun _ => do
    engineOnly
    let p ← myPart
    let v := (p.src (o.lit.getD 0) o.s1).toNat
    if 3 < v then illegalValue
    setMine fun p => { p with rxpri := v }
    putM o.d (BitVec.ofNat 64 p.rxpri)
    pure .done) s

def execRcancel (h : Hd) (o : OpE) (s : State) : Host.Outcome State Fault Refusal :=
  issue { h, reads := rds [o.s1], writes := wr o.d none } (fun _ => do
    engineOnly
    let k ← me
    let p ← myPart
    let s ← get
    let id := (p.src (o.lit.getD 0) o.s1).toNat
    if p.rpNext ≤ id ∨ id = 0 then illegalValue
    match xferOf s k id with
    | some x =>
      if x.final then putM o.d ones64
      else
        modify fun s => cancelXfer s k x
        putM o.d (BitVec.ofNat 64 x.ack)
    | none => putM o.d ones64
    pure .done) s

/-- A start pulse at the request table (R259): the oldest HELD transfer starts, else a credit is kept. -/
def rputPulse (s : State) (k : Nat) : State :=
  match (s.part k).xfers.find? (·.st = .held) with
  | some x => modXfer s k x.id fun x => { x with st := .requested }
  | none => s.modPart k fun p => p.keep 6

/-- At EXIT a HELD transfer is withdrawn (R391); a cancel ends every transfer of the part as RCANCEL does (R278). -/
def withdrawXfers (s : State) (k : Nat) (all : Bool) : State :=
  (s.part k).xfers.foldl (fun s x => if !x.final && (all || x.st = .held) then cancelXfer s k x else s) s

def Part.xfersDone (p : Part) : Bool := p.xfers.all (·.final)

end Sys2Proof.Machine
end

