-- ==== Sys2Proof/Machine/Groups.lean ====
section
/-! DEFINITION. Groups and collectives: the group tables, Gong's coordinators and tickets, admission, how values combine, and the instructions of major
0x72 (R452 to R480); the partition-wide quiesce that a breach causes (R159, R461). -/

namespace Sys2Proof.Machine

/-! ## Tables -/

def Coll.final (c : Coll) : Bool := c.st = .complete || c.st = .cancelled

/-- The value of a collective's ticket. -/
def Coll.time (c : Coll) : Nat := c.ticket.getD 0

/-- Whether an entry is the one that a group and a SEQ name and that has not ended. (DEDUCED: log 143.) -/
def Coll.names (c : Coll) (gid seq : Nat) : Bool := c.gid = gid && c.seq = seq && !c.final

def collOf (s : State) (dev gid seq : Nat) : Option Coll := (s.dev dev).colls.find? fun c => c.names gid seq

def modColl (s : State) (dev gid seq : Nat) (f : Coll → Coll) : State :=
  s.modDev dev fun d => { d with colls := d.colls.map fun c => if c.names gid seq then f c else c }

def gcollOf (s : State) (gid seq : Nat) : Option GColl := s.gcolls.find? fun c => c.gid = gid && c.seq = seq

def modGcoll (s : State) (gid seq : Nat) (f : GColl → GColl) : State :=
  { s with gcolls := s.gcolls.map fun c => if c.gid = gid && c.seq = seq then f c else c }

def grpOf (s : State) (gid : Nat) : Option Grp := s.groups.find? (·.gid = gid)

/-- The record of a collective (R473). -/
def collRecord (c : Coll) (reason freason dev : Nat) (addr : W64) : List Byte :=
  record64 [(0, 1, 0x0C), (1, 1, 0x16), (2, 1, reason), (3, 1, freason), (4, 4, c.gid), (8, 8, c.pc.toNat), (16, 4, c.seq), (20, 4, dev),
    (24, 8, addr.toNat), (32, 8, c.ticket.getD 0)]

/-- A collective becomes CANCELLED at a member; every reason but CANCEL writes a record (R458, R473). (DEDUCED: log 140.) -/
def cancelColl (s : State) (dev : Nat) (c : Coll) (reason freason cause : Nat) (addr : W64) : State :=
  let (s1, slot) := if reason = 3 then (s, (0 : W64)) else writeRecord s c.ctx c.flat (collRecord c reason freason cause addr)
  modColl s1 dev c.gid c.seq fun c => { c with st := .cancelled, reason, slot }

def noDevice : Nat := 0xFFFFFFFF

/-- Cancel what is not final of the collectives of a device that a test picks. -/
def cancelWhere (s : State) (dev reason : Nat) (q : Coll → Bool) : State :=
  ((s.dev dev).colls.filter fun c => !c.final && q c).foldl (fun s c => cancelColl s dev c reason 0 noDevice 0) s

/-! ## Times (R286, R460) -/

def serialBefore (a b : Nat) : Bool :=
  let d := (b % 2 ^ 48 + 2 ^ 48 - a % 2 ^ 48) % 2 ^ 48
  1 ≤ d && d < 2 ^ 47

def timeOfTicket (t : Nat) : Nat := t / 65536

def ticketBefore (t u : Nat) : Bool :=
  if timeOfTicket t = timeOfTicket u then decide (t % 65536 < u % 65536) else serialBefore (timeOfTicket t) (timeOfTicket u)

/-! ## Quiesce (R159, R435, R453) -/

/-- Every group is BROKEN and every collective that is not COMPLETE is CANCELLED with PEERLOST. (DEDUCED: log 67.) -/
def breakGroups (s : State) : State :=
  let s1 := s.devs.foldl (fun s d =>
    (cancelWhere s d.1 2 fun _ => true).modDev d.1 fun x => { x with groups := x.groups.map fun g => (g.1, { g.2 with broken := true }) }) s
  { s1 with gcolls := [] }

/-- A part of a context is told to take CHECKPOINT at its next boundary, or it latches that (R146). (DEDUCED: log 73.) -/
def Part.quiesceIt (p : Part) (reason : Fin 2) : Part :=
  if p.st = .free || p.st = .checkpointing || p.st = .destroyed then p
  else { p with quiesce := some reason, st := if p.st = .preempted then .resident else p.st }

/-- The fabric manager quiesces the partition: tasks return to PENDING, collectives end, and every part of every context is told. (DEDUCED: log 73.) -/
def quiesceAll (s : State) (reason : Fin 2) : State :=
  let s1 := s.ctxs.foldl (fun s c => abortContext s c.1) s
  let s2 := breakGroups s1
  { s2 with
    quiesced := true
    devs := s2.devs.map fun d => (d.1, { d.2 with links := d.2.links.map Link.quiesce })
    parts := s2.parts.map fun kp => if idxOf kp.1 = 3 then kp else (kp.1, kp.2.quiesceIt reason)
    away := s2.away.map fun a => (a.1, a.2.quiesceIt reason) }

/-! ## Groups (R452, R453) -/

/-- The coordinator of a group (R14, R459): of members in one package that package's hub die, in plane 0; else a switch of plane GID mod 18, whose ID is no hub
die's. A module is one package. Where one tier joins the modules of the partition, a plane has one switch (R19); switches of two planes have two IDs. -/
def coordOk (s : State) (gid : Nat) (members : List Nat) (coord : Half) (plane : Nat) : Bool :=
  match members with
  | [d] => coord = (s.dev d).coordId && plane = 0
  | _ =>
    plane = gid % 18 && !(s.devs.any fun d => d.2.coordId = coord) &&
      s.groups.all fun g => g.members.length ≤ 1 ||
        (if g.plane = plane then 288 < s.devs.length || g.coord = coord.toNat else g.coord ≠ coord.toNat)

/-- Whether Gong's path between a group's coordinator and a member is open: the member's link in the coordinator's plane is UP or REKEYING (R461); none is needed
to a hub die. -/
def collPath (s : State) (dev gid : Nat) : Bool :=
  match grpOf s gid with
  | some g =>
    g.members.length ≤ 1 || (((s.dev ((s.dev dev).routedTo.getD dev)).links.toList)[g.plane]?.any Link.choosable)
  | none => true

/-- Firmware creates a group; a request that breaks R452 is rejected with a status and creates nothing. Firmware of every member takes part (R303). -/
def execGroupCreate (gid : W32) (ctx : Nat) (members : List Nat) (coord : Half) (plane : Nat) (s : State) : Host.Outcome State Fault Refusal :=
  let g := gid.toNat
  let ok := coordOk s g members coord plane && g ≠ 0 && (grpOf s g).isNone && (s.ctx ctx).live && 1 ≤ members.length && members.length ≤ 65536 && members.dedup.length = members.length &&
    members.all fun d => inPartition s (d * 1024) && ((s.dev d).groups.length < 256 : Bool)
  .next (if members.any fun d => (mfind s.devs d).isSome && !led s d then s
    else if ok then
      let s1 := { s with groupStatus := some true, groups := s.groups ++ [⟨g, ctx, members, coord.toNat, plane⟩] }
      (members.zip (List.range members.length)).foldl (fun s m =>
        s.modDev m.1 fun d => { d with groups := mset d.groups g ⟨ctx, members.length, m.2, plane, coord.toNat, false, 0⟩ }) s1
    else { s with groupStatus := some false })

/-- Firmware destroys a group: what has not ended is abandoned with GROUP. -/
def destroyGroup (s : State) (gid : Nat) : State :=
  match grpOf s gid with
  | none => s
  | some g =>
    let s1 := g.members.foldl (fun s d =>
      (cancelWhere s d 6 fun c => c.gid = gid).modDev d fun x => { x with groups := mdel x.groups gid }) s
    { s1 with groups := s1.groups.filter (·.gid ≠ gid), gcolls := s1.gcolls.filter (·.gid ≠ gid) }

/-- GROUP_DESTROY, by firmware with a leader on a member (R303). -/
def execGroupDestroy (gid : W32) (s : State) : Host.Outcome State Fault Refusal :=
  .next (if (grpOf s gid.toNat).any fun g => g.members.any (led s) then destroyGroup s gid.toNat else s)

/-! ## Descriptors (R455 to R457) -/

/-- The element width in bytes. -/
def GDesc.width (d : GDesc) : Nat :=
  match d.typ with
  | 0 => 8
  | 1 => 4
  | 3 => 2
  | 8 => 8
  | _ => 4

/-- The descriptor in 64 bytes. -/
def gdescOf (bs : List Byte) : GDesc :=
  { op := fieldAt bs 0 1, red := fieldAt bs 1 1, typ := fieldAt bs 2 1, gidx := fieldAt bs 3 1 % 2 = 1, count := fieldAt bs 4 4, root := fieldAt bs 8 4
    total := fieldAt bs 12 4, base := fieldAt bs 16 8, src := BitVec.ofNat 64 (fieldAt bs 24 8), dst := BitVec.ofNat 64 (fieldAt bs 32 8) }

/-- Bytes that a member reads at SRC, and writes at DST. -/
def GDesc.readBytes (d : GDesc) (rank : Nat) : Nat :=
  if d.op = 4 || (d.op = 3 && rank ≠ d.root) then 0 else d.count * d.width
def GDesc.writeBytes (d : GDesc) (nmem : Nat) : Nat :=
  match d.op with
  | 0 => if d.gidx then d.width else d.count * d.width
  | 1 => d.count / nmem * d.width
  | 2 => d.count * nmem * d.width
  | 3 => d.count * d.width
  | _ => 0

/-- Whether a descriptor breaks R455. -/
def GDesc.bad (d : GDesc) (bs : List Byte) (nmem : Nat) : Bool :=
  4 < d.op || (if d.op < 2 then decide (2 < d.red) else d.red ≠ 0) ||
    (if d.op = 4 then d.typ ≠ 0 else !([0, 1, 3, 8, 9].contains d.typ)) ||
    2 ≤ fieldAt bs 3 1 || (d.gidx && d.op ≠ 0) ||
    (if d.op = 3 then decide (nmem ≤ d.root) else d.root ≠ 0) ||
    (if d.gidx then d.total = 0 || decide (2 ^ 32 ≤ d.base) else d.total ≠ 0 || d.base ≠ 0) ||
    fieldAt bs 40 24 ≠ 0 ||
    (if d.op = 4 then d.count ≠ 0 || d.src ≠ 0 || d.dst ≠ 0
     else decide (2 ^ 32 < d.count * d.width) || decide (2 ^ 32 < d.writeBytes nmem))

/-- Whether the members' posts agree (R457). -/
def postsAgree (ps : List (Nat × GDesc × Bool)) : Bool :=
  match ps with
  | [] => false
  | (_, d, m) :: _ =>
    (ps.all fun p =>
      let e := p.2.1
      e.op = d.op && e.red = d.red && e.typ = d.typ && e.gidx = d.gidx && (d.gidx || e.count = d.count) && e.root = d.root && e.total = d.total && p.2.2 = m) &&
    (!d.gidx ||
      (let rs := (ps.map fun p => (p.2.1.base, p.2.1.count)).mergeSort fun a b => a.1 < b.1 || (a.1 = b.1 && a.2 ≤ b.2)
       let e := rs.foldl (fun (o : Option Nat) r => o.bind fun n => if r.2 = 0 then some n else if r.1 = n then some (n + r.2) else none)
         (some 0)
       e = some d.total))

/-! ## How values combine (R61, R62, R466 to R469) -/

/-- T(i, 2^d) of R61. -/
def treeSum (f : Nat → Nat → Nat) (x : Nat → Nat) : Nat → Nat → Nat
  | 0, i => x i
  | d + 1, i => f (treeSum f x d i) (treeSum f x d (i + 2 ^ d))

/-- The working code of an element: bf16 sums run in FP32. -/
def GDesc.widen (d : GDesc) (e : Nat) : Nat := if d.typ = 3 then e * 65536 else e
def GDesc.narrow (d : GDesc) (e : Nat) : Nat := if d.typ = 3 then (encodeF fmtBf rcRNE (decodeF fmt32 e) 0).code else e

/-- A NaN result is the canonical NaN, a sum or extremum of one element too (R469). (DEDUCED: log 178.) -/
def GDesc.canon (d : GDesc) (e : Nat) : Nat :=
  match d.typ with
  | 0 => (minMaxF fmt64 false false e e).code
  | 1 => (minMaxF fmt32 false false e e).code
  | 3 => (minMaxF fmtBf false false e e).code
  | _ => e

/-- One step of a sum, on working codes. -/
def GDesc.plus (d : GDesc) (a b : Nat) : Nat :=
  match d.typ with
  | 0 => (addF fmt64 rcRNE a b).code
  | 8 => (a + b) % 2 ^ 64
  | 9 => (a + b) % 2 ^ 32
  | _ => (addF fmt32 rcRNE a b).code

/-- −0.0, or the integer 0. -/
def GDesc.zero (d : GDesc) : Nat :=
  match d.typ with
  | 0 => 2 ^ 63
  | 8 => 0
  | 9 => 0
  | _ => 2 ^ 31

/-- min and max, on element codes. -/
def GDesc.pick (d : GDesc) (a b : Nat) : Nat :=
  let mx := d.red = 2
  match d.typ with
  | 0 => (minMaxF fmt64 false mx a b).code
  | 1 => (minMaxF fmt32 false mx a b).code
  | 3 => (minMaxF fmtBf false mx a b).code
  | 8 => if mx == decide (intOf true 64 a ≤ intOf true 64 b) then b else a
  | _ => if mx == decide (intOf true 32 a ≤ intOf true 32 b) then b else a

/-- Combine partials two at a time in the order of a free choice (R62). (DESIGN CHOICE: log 144.) -/
def arrivalGo (d : GDesc) (seed e : Nat) : Nat → Nat → List Nat → Nat
  | 0, _, l => l.headD d.zero
  | n + 1, i, l =>
    if l.length ≤ 1 then l.headD d.zero
    else
      let a := Config.arrivalPick seed e (2 * i) % l.length
      let l1 := l.eraseIdx a
      let b := Config.arrivalPick seed e (2 * i + 1) % l1.length
      arrivalGo d seed e n (i + 1) (l1.eraseIdx b ++ [d.plus (l.getD a 0) (l1.getD b 0)])

/-- Whether the mode affects a reduction: floating-point sums only (R466). -/
def GDesc.floatSum (d : GDesc) : Bool := d.red = 0 && d.typ < 8

/-- Reduce a list of elements that a fixed tree orders by index. -/
def GDesc.reduce (d : GDesc) (xs : List Nat) : Nat :=
  if d.red = 0 then
    let f (i : Nat) : Nat := match xs[i]? with
      | some x => d.widen x
      | none => d.zero
    d.canon (d.narrow (treeSum d.plus f (Nat.clog 2 xs.length) 0))
  else match xs with
  | [] => 0
  | x :: xs => d.canon (xs.foldl d.pick x)

/-- Element e of a member's data. -/
def GDesc.elemAt (d : GDesc) (bs : List Byte) (e : Nat) : Nat := fieldAt bs (e * d.width) d.width

/-- The data of a rank. (DESIGN CHOICE: log 63; DEDUCED: log 143.) -/
def GColl.rankData (g : GColl) (r : Nat) : List Byte := ((g.data.find? (·.1 = r)).map (·.2)).getD []

/-- Element e of the element-wise reduction over the ranks. -/
def GColl.across (g : GColl) (d : GDesc) (arrival : Bool) (nmem e : Nat) : Nat :=
  let xs := (List.range nmem).map fun r => d.elemAt (g.rankData r) e
  if arrival && d.floatSum then d.canon (d.narrow (arrivalGo d g.seed e nmem 0 (xs.map d.widen))) else d.reduce xs

/-- The reduction of all global elements (GIDX): `ms` gives each rank's descriptor in rank order. -/
def GColl.global (g : GColl) (d : GDesc) (arrival : Bool) (ms : List GDesc) : Nat :=
  let part (r : Nat) : List Nat := (List.range ((ms[r]?).elim 0 (·.count))).map fun e => d.elemAt (g.rankData r) e
  if arrival && d.floatSum then
    d.canon (d.narrow (arrivalGo d g.seed 0 ms.length 0 ((List.range ms.length).map fun r => (part r).foldl (fun a x => d.plus a (d.widen x)) d.zero)))
  else
    let order := ((List.range ms.length).filter fun r => ((ms[r]?).elim 0 (·.count)) ≠ 0).mergeSort fun a b =>
      ((ms[a]?).elim 0 (·.base)) ≤ ((ms[b]?).elim 0 (·.base))
    d.reduce (order.flatMap part)

/-- What a member writes at DST. -/
def GColl.result (g : GColl) (d : GDesc) (arrival : Bool) (ms : List GDesc) (rank : Nat) : List Byte :=
  let nmem := ms.length
  match d.op with
  | 0 =>
    if d.gidx then bytesOf d.width (g.global d arrival ms)
    else (List.range d.count).flatMap fun e => bytesOf d.width (g.across d arrival nmem e)
  | 1 =>
    let n := d.count / nmem
    (List.range n).flatMap fun e => bytesOf d.width (g.across d arrival nmem (rank * n + e))
  | 2 => (List.range nmem).flatMap fun r => g.rankData r
  | 3 => g.rankData d.root
  | _ => []

/-! ## Coordinators (R459 to R461, R471) -/

/-- The coordinator holds the posts of every member: it issues a ticket, or finds a mismatch (R457, R460). -/
def execTicketIssue (gid : W32) (seq : Nat) (s : State) : Host.Outcome State Fault Refusal :=
  .next (match gcollOf s gid.toNat seq, grpOf s gid.toNat with
    | some c, some g =>
      let t := s.ftime % 2 ^ 48
      if c.st ≠ .gathering || !(g.members.all fun d => (c.posts.any fun p => p.1 = d) && collPath s d g.gid) then s
      else if !postsAgree c.posts then
        modGcoll s c.gid seq fun c => { c with st := .withdrawn noDevice, notes := c.notes ++ g.members.map fun d => (d, .mismatch) }
      else if mfind s.coordTime g.coord = some t then s
      else
        { (modGcoll s c.gid seq fun c =>
            { c with st := .ticketed, seed := s.free, notes := c.notes ++ g.members.map fun d => (d, .ticket (t * 65536 + g.coord)) }) with
          coordTime := mset s.coordTime g.coord t, free := s.free + 1 }
    | _, _ => s)

/-- The next notice of a collective to a device, taken from its list, once its path is open: it is delayed, not lost (R461). (DESIGN CHOICE: log 63.) -/
def takeNote (s : State) (dev gid seq : Nat) : Option (GNote × State) :=
  match gcollOf s gid seq with
  | some c =>
    if !collPath s dev gid then none
    else match c.notes.find? (·.1 = dev) with
    | some n => some (n.2, modGcoll s gid seq fun c => { c with notes := c.notes.erase n })
    | none => none
  | none => none

/-- Tickets on their way from a coordinator to a device. -/
def ticketsTo (s : State) (dev coord : Nat) : List Nat :=
  s.gcolls.flatMap fun c => c.notes.filterMap fun n =>
    match n.2 with
    | .ticket t => if n.1 = dev && t % 65536 = coord then some t else none
    | _ => none

/-- A ticket reaches a member (R461); one below a ticket already admitted is a breach, and the partition is quiesced. -/
def execTicketArrival (dev : Nat) (gid : W32) (seq : Nat) (s : State) : Host.Outcome State Fault Refusal :=
  .next (match takeNote s dev gid.toNat seq with
    | some (.ticket t, s1) =>
      if (ticketsTo s dev (t % 65536)).any fun u => ticketBefore u t then s
      else
        let s2 := s1.modDev dev fun d => { d with horizon := mset d.horizon (t % 65536) (timeOfTicket t) }
        if (s2.dev dev).lastTicket.any fun l => ticketBefore t l then quiesceAll s2 1
        else modColl s2 dev gid.toNat seq fun c => if c.st = .posted then { c with st := .ticketed, ticket := some t } else c
    | _ => s)

/-- A coordinator's beacon reaches a member behind its tickets (R461). -/
def execHorizonBeacon (dev : Nat) (coord : Half) (s : State) : Host.Outcome State Fault Refusal :=
  .next (if (ticketsTo s dev coord.toNat).isEmpty && (s.dev dev).groups.any (fun g => g.2.coord = coord.toNat && collPath s dev g.1) then
      s.modDev dev fun d => { d with horizon := mset d.horizon coord.toNat (s.ftime % 2 ^ 48) }
    else s)

/-- A withdrawal or an engine fault reaches the coordinator (R471). -/
def execCollectiveWithdraw (gid : W32) (seq : Nat) (s : State) : Host.Outcome State Fault Refusal :=
  .next (match gcollOf s gid.toNat seq, grpOf s gid.toNat with
    | some c, some g =>
      match c.asks with
      | [] => s
      | (dev, k) :: as =>
        if !collPath s dev c.gid then s
        else
        let why (d : Nat) : Nat := if d = dev then 3 else 4
        match c.st with
        | .gathering =>
          modGcoll s c.gid seq fun c =>
            { c with st := .withdrawn dev, asks := as, notes := c.notes ++ c.posts.map fun p => (p.1, .cancel (why p.1) dev) }
        | .ticketed =>
          modGcoll s c.gid seq fun c =>
            { c with st := .withdrawn dev, asks := as, notes := c.notes ++ g.members.map fun d =>
                (d, match k with
                  | some (r, a) => .abandon 5 dev r a
                  | none => .abandon (why d) dev 0 0) }
        | .withdrawn _ => modGcoll s c.gid seq fun c => { c with asks := as }
    | _, _ => s)

/-- A withdrawal or a fault of the engine is sent to the coordinator, each of them once (R471). -/
def sendAsk (s : State) (dev : Nat) (c : Coll) (k : Option (Nat × W64)) : State :=
  if (match k with
    | some _ => c.faulted
    | none => c.asked) then s
  else
    let mark (c : Coll) : Coll := { c with asked := c.asked || k.isNone, faulted := c.faulted || k.isSome }
    modGcoll (modColl s dev c.gid c.seq mark) c.gid c.seq fun g => { g with asks := g.asks ++ [(dev, k)] }

def execCancelNotice (dev : Nat) (gid : W32) (seq : Nat) (s : State) : Host.Outcome State Fault Refusal :=
  .next (match takeNote s dev gid.toNat seq with
    | some (.cancel reason cause, s1) =>
      match collOf s1 dev gid.toNat seq with
      | some c => if c.st = .posted then cancelColl s1 dev c reason 0 cause 0 else s1
      | none => s1
    | _ => s)

def execAbandonNotice (dev : Nat) (gid : W32) (seq : Nat) (s : State) : Host.Outcome State Fault Refusal :=
  .next (match takeNote s dev gid.toNat seq with
    | some (.abandon reason cause fr addr, s1) =>
      match collOf s1 dev gid.toNat seq with
      | some c => if c.st = .ticketed || c.st = .admitted then cancelColl s1 dev c reason fr cause addr else s1
      | none => s1
    | _ => s)

def execMismatchNotice (dev : Nat) (gid : W32) (seq : Nat) (s : State) : Host.Outcome State Fault Refusal :=
  .next (match takeNote s dev gid.toNat seq with
    | some (.mismatch, s1) =>
      match collOf s1 dev gid.toNat seq with
      | some c => if c.st = .posted then cancelColl s1 dev c 1 0 noDevice 0 else s1
      | none => s1
    | _ => s)

/-- A ticket that has waited 2^46 ns is a breach (R286). -/
def execTicketAgeBreach (dev : Nat) (gid : W32) (seq : Nat) (s : State) : Host.Outcome State Fault Refusal :=
  .next (match collOf s dev gid.toNat seq with
    | some c =>
      if c.st = .ticketed && decide (2 ^ 46 ≤ (s.ftime % 2 ^ 48 + 2 ^ 48 - timeOfTicket c.time) % 2 ^ 48) then quiesceAll s 1 else s
    | none => s)

/-! ## Admission and finish (R462 to R464) -/

/-- The chunks of staging that a collective reserves. -/
def chunksOf (s : State) (dev : Nat) (c : Coll) : Nat :=
  match mfind (s.dev dev).groups c.gid with
  | some g => if c.d.op = 4 then 0 else max 1 (min 32 ((max (c.d.readBytes g.rank) (c.d.writeBytes g.nmem) + 262143) / 262144))
  | none => 0

/-- Whether the resources of R463 are free for a collective. -/
def roomFor (s : State) (dev : Nat) (c : Coll) : Bool :=
  let ad := (s.dev dev).colls.filter (·.st = .admitted)
  let red (x : Coll) : Nat := if x.d.op < 2 then 1 else 0
  decide (ad.length < 8) && decide (ad.foldl (fun n x => n + chunksOf s dev x) (chunksOf s dev c) ≤ 256) &&
    decide (ad.foldl (fun n x => n + red x) (red c) ≤ 4)

/-- The lowest ticket that a member holds and has not admitted. -/
def lowestTicket (s : State) (dev : Nat) : Option Coll :=
  ((s.dev dev).colls.filter (·.st = .ticketed)).foldl (fun b c =>
    match b with
    | none => some c
    | some x => if ticketBefore c.time x.time then some c else b) none

def collWho (c : Coll) : Who := ⟨c.flat, c.flat * 4, c.ctx⟩

/-- A member admits its lowest ticket: it reserves what it needs, reads SRC and sends (R462 to R464). (DEDUCED: log 62.) -/
def execCollectiveAdmit (dev : Nat) (s : State) : Host.Outcome State Fault Refusal :=
  let srcBytes (c : Coll) : Nat := ((mfind (s.dev dev).groups c.gid).map fun g => c.d.readBytes g.rank).getD 0
  let heard (t : Nat) : Bool := (s.dev dev).groups.all fun g => g.2.broken ||
    (mfind (s.dev dev).horizon g.2.coord).any fun h => serialBefore (timeOfTicket t) h
  .next (match lowestTicket s dev with
    | some c =>
      if !serialBefore (timeOfTicket c.time + 5000) s.ftime || !heard c.time || !roomFor s dev c || engineCut s c.flat c.d.src (srcBytes c) then s
      else
        let s1 := (modColl s dev c.gid c.seq fun c => { c with st := .admitted }).modDev dev fun d => { d with lastTicket := some c.time }
        match mfind (s1.dev dev).groups c.gid with
        | some g =>
          let n := c.d.readBytes g.rank
          match (if n = 0 then .ok s1 else engineCheck s1 (collWho c) .read c.d.src n) with
          | .error e => sendAsk (e.note s1 c.flat) dev c (some (e.reason, e.addr))
          | .ok s2 =>
            let (s3, bs) := engineRead s2 c.flat c.d.src n
            modGcoll s3 c.gid c.seq fun x => { x with data := x.data ++ [(g.rank, bs)] }
        | none => s1
    | none => s)

/-- A member's DST is written: COMPLETE (R456, R464). (DEDUCED: log 141.) -/
def execCollectiveFinish (dev : Nat) (gid : W32) (seq : Nat) (s : State) : Host.Outcome State Fault Refusal :=
  .next (match collOf s dev gid.toNat seq, gcollOf s gid.toNat seq, grpOf s gid.toNat with
    | some c, some gc, some g =>
      let has (r : Nat) : Bool := gc.data.any fun d => d.1 = r
      let ready : Bool := if c.d.op = 3 then has c.d.root else (List.range g.members.length).all has
      match g.members.idxOf? dev with
      | some rank =>
        if c.st ≠ .admitted || c.faulted then s
        else if c.broken then sendAsk s dev c (some (0x20, c.d.dst))
        else if !ready || !collPath s dev c.gid then s
        else
          let ms : List GDesc := g.members.map fun d => ((gc.posts.find? (·.1 = d)).map (·.2.1)).getD c.d
          let bs := gc.result c.d c.arrival ms rank
          if engineCut s c.flat c.d.dst bs.length then s
          else match (if bs.isEmpty then .ok s else engineCheck s (collWho c) .write c.d.dst bs.length) with
          | .error e => sendAsk (e.note s c.flat) dev c (some (e.reason, e.addr))
          | .ok s1 =>
            pulseOf (modColl (engineWrite s1 c.flat c.d.dst bs) dev c.gid seq fun c => { c with st := .complete }) c.flat c.ctx 22
      | none => s
    | _, _, _ => s)

/-! ## The life of the posting part (R472) -/

/-- The collectives of a part, each with the ordinal whose entry it is. -/
def collsAt (s : State) (flat c : Nat) : List (Nat × Coll) :=
  s.devs.flatMap fun d => (d.2.colls.filter fun x => x.flat = flat && x.ctx = c).map fun x => (d.1, x)

/-- The collectives of a part. -/
def collsOf (s : State) (flat c : Nat) : List Coll := (collsAt s flat c).map (·.2)

/-- Withdraw the collectives of a part: the POSTED ones, or all that are not final. -/
def withdrawColls (s : State) (flat c : Nat) (all : Bool) : State :=
  (collsAt s flat c).foldl (fun s x => if !x.2.final && (all || x.2.st = .posted) then sendAsk s x.1 x.2 none else s) s

def collsDone (s : State) (flat c : Nat) : Bool := (collsOf s flat c).all (·.final)

/-- The entries of a part are freed with it. (DEDUCED: log 143.) -/
def freeColls (s : State) (flat c : Nat) : State :=
  { s with devs := s.devs.map fun d => (d.1, { d.2 with colls := d.2.colls.filter fun x => !(x.flat = flat && x.ctx = c) }) }

/-! ## Instructions (R475 to R480) -/

/-- VALUE in partition D and in a task (R475). -/
def collOnly : M Unit := engineOnly

/-- The ordinals that a part's device has in groups: the one that the part brought from an evicted module, the device's own, and those of modules evicted to it
(R472). -/
def groupDevs (s : State) (k : Nat) : List Nat :=
  let own := ordOf (flatOf k)
  ((s.part k).under.toList ++ own :: (s.devs.filter fun d => d.2.routedTo = some own).map (·.1)).dedup

/-- The ordinal under which a part's device is a member of a group, and its entry. -/
def groupAt (s : State) (k gid : Nat) : Option (Nat × GEnt) :=
  (groupDevs s k).findSome? fun d => (mfind (s.dev d).groups gid).map fun g => (d, g)

/-- The entry of the issuing part that a handle names, with its ordinal; VALUE where there is none. -/
def handleM (v : W64) : M (Nat × Coll) := do
  let k ← me
  let p ← myPart
  let s ← get
  match (collsAt s (flatOf k) p.ctx).find? fun c => c.2.gid = v.toNat % 2 ^ 32 && c.2.seq = v.toNat / 2 ^ 32 with
  | some c => pure c
  | none => illegalValue

/-- Whether the launch of the issuing part runs in arrival order (R271, R466). -/
def arrivalMode (s : State) (p : Part) : Bool :=
  match p.launch.bind fun i => s.launches.find? (·.id = i) with
  | some l => l.flags.getLsbD 0
  | none => false

/-- DEDUCED: log 142. -/
def execGpost (h : Hd) (o : OpE) (s : State) : Host.Outcome State Fault Refusal :=
  issue { h, reads := rds [o.s1, o.s2], writes := wr o.d none } (fun _ => do
    collOnly
    let k ← me
    let p ← myPart
    let s ← get
    let gid := (p.src (o.lit.getD 0) o.s1).toNat % 2 ^ 32
    let a := p.src (o.lit.getD 0) o.s2
    match groupAt s k gid with
    | none => illegalValue
    | some (dev, g) =>
      if a.toNat % 64 ≠ 0 then trapM 0x04 a
      checkM .read [(a, 64)]
      match ← readM [(a, 64)] with
      | none => pure .wait
      | some bss =>
        let bs := bss.headD []
        let d := gdescOf bs
        if d.bad bs g.nmem then illegalValue
        if d.op = 1 && d.count % g.nmem ≠ 0 then illegalValue
        if d.op ≠ 4 then
          if d.src.toNat % d.width ≠ 0 then trapM 0x04 d.src
          if d.dst.toNat % d.width ≠ 0 then trapM 0x04 d.dst
          formM .read d.src 1
          formM .write d.dst 1
        let s ← get
        if 64 ≤ (s.dev dev).colls.length then return .wait
        if !(← pushRelease 4) then return .wait
        let s ← get
        let seq := (g.seq + 1) % 2 ^ 32
        let arrival := arrivalMode s p
        let c : Coll := { gid, seq, flat := flatOf k, ctx := p.ctx, pc := p.pc, d, arrival, st := .posted, ticket := none, reason := 0, slot := 0
                          taken := false, asked := false, faulted := false, broken := false }
        modify fun s => s.modDev dev fun x => { x with groups := mset x.groups gid { g with seq }, colls := x.colls ++ [c] }
        if g.broken then
          modify fun s => cancelColl s dev c 2 0 noDevice 0
        else match gcollOf s gid seq with
        | some _ =>
          modify fun s => modGcoll s gid seq fun gc =>
            { gc with posts := gc.posts ++ [(dev, d, arrival)]
                      notes := match gc.st with
                        | .withdrawn w => gc.notes ++ [(dev, .cancel (if w = dev then 3 else 4) w)]
                        | _ => gc.notes }
        | none =>
          modify fun s => { s with gcolls := s.gcolls ++ [{ gid, seq, st := .gathering, posts := [(dev, d, arrival)], notes := [], asks := [], data := [], seed := 0 }] }
        putM o.d (BitVec.ofNat 64 (seq * 2 ^ 32 + gid))
        pure .done) s

/-- Free an entry. -/
def freeColl (s : State) (dev : Nat) (c : Coll) : State :=
  s.modDev dev fun d => { d with colls := d.colls.erase c }

/-- The record of an ended entry is taken (R474). -/
def takeColl (s : State) (dev : Nat) (c : Coll) : State :=
  s.modDev dev fun d => { d with colls := d.colls.map fun x => if x = c then { x with taken := true } else x }

def execGwait (h : Hd) (o : OpE) (s : State) : Host.Outcome State Fault Refusal :=
  issue { h, reads := rds [o.s1], writes := wr o.d none } (fun _ => do
    collOnly
    let p ← myPart
    let (dev, c) ← handleM (p.src (o.lit.getD 0) o.s1)
    let nb := o.mod.getLsbD 0
    let q := o.mod.getLsbD 1
    match c.st with
    | .complete =>
      putM o.d 0
      acquireM 4
      modify fun s => freeColl s dev c
      pure .done
    | .cancelled =>
      if c.reason ≠ 3 && !c.taken && !q && !nb then
        modify fun s => markTaken (takeColl s dev c) c.ctx c.flat c.slot
        pure (.trapped ⟨0x16, 1, c.slot, none⟩)
      else
        putM o.d (BitVec.ofNat 64 (0x10 + c.reason))
        modify fun s => freeColl s dev c
        pure .done
    | _ =>
      if nb then
        putM o.d 1
        pure .done
      else pure .wait) s

def execGtkt (h : Hd) (o : OpE) (s : State) : Host.Outcome State Fault Refusal :=
  issue { h, reads := rds [o.s1], writes := wr o.d none } (fun _ => do
    collOnly
    let p ← myPart
    let (_, c) ← handleM (p.src (o.lit.getD 0) o.s1)
    if o.mod.getLsbD 0 && c.ticket.isNone && c.st ≠ .cancelled then return .wait
    putM o.d (BitVec.ofNat 64 c.time)
    pure .done) s

def execGcancel (h : Hd) (o : OpE) (s : State) : Host.Outcome State Fault Refusal :=
  issue { h, reads := rds [o.s1], writes := wr o.d none } (fun _ => do
    collOnly
    let p ← myPart
    let (dev, c) ← handleM (p.src (o.lit.getD 0) o.s1)
    match c.st with
    | .complete =>
      putM o.d 1
      pure .done
    | .cancelled =>
      putM o.d 2
      pure .done
    | _ =>
      modify fun s => sendAsk s dev c none
      pure .waitKeep) s

def GState.code : GState → Nat
  | .posted => 1
  | .ticketed => 2
  | .admitted => 3
  | .complete => 4
  | .cancelled => 5

/-- GSTAT. -/
def execGstat (h : Hd) (o : OpE) (s : State) : Host.Outcome State Fault Refusal :=
  issue { h, reads := rds [o.s1], writes := wr o.d none } (fun _ => do
    let k ← me
    let p ← myPart
    let s ← get
    let v := (p.src (o.lit.getD 0) o.s1).toNat
    let gid := v % 2 ^ 32
    let w : Nat := if o.mod.getLsbD 0 then
        match groupAt s k gid with
        | some (_, g) => g.coord * 2 ^ 48 + (if g.broken then 2 else 1) * 2 ^ 38 + g.plane * 2 ^ 33 + g.nmem * 65536 + g.rank
        | none => 0
      else match ((groupDevs s k).flatMap fun d => (s.dev d).colls).find? fun c => c.gid = gid && c.seq = v / 2 ^ 32 && c.ctx = p.ctx with
      | some c => c.seq * 2 ^ 32 + c.reason * 256 + c.st.code
      | none => 0
    putM o.d (BitVec.ofNat 64 w)
    pure .done) s

end Sys2Proof.Machine
end

