-- ==== Sys2Proof/Machine/Matrix.lean ====
section
/-! DEFINITION. Matrix units: planes, operations, the k-step, arbitration, drains, and the instructions and events of chapter 13
(R312 to R336). The activation rows of a k-step are read when its last row enters the array. -/

namespace Sys2Proof.Machine

/-! ## The unit -/

/-- The flat core at a position (0 to 7) of a unit. -/
def muFlat (m pos : Nat) : Nat := flatAt (m / 2) (m % 2 * 8 + pos)
/-- The position of a core in its unit. -/
def muPos (flat : Nat) : Nat := posOf flat % 8
def mcore (s : State) (flat : Nat) : MCore := (s.core flat).mat
def modMcore (s : State) (flat : Nat) (f : MCore → MCore) : State := s.modCore flat fun c => { c with mat := f c.mat }

/-- Whether a core's matrix unit is withdrawn, itself or with its cluster (R28, R332). -/
def muWithdrawn (s : State) (flat : Nat) : Bool :=
  (s.dev (ordOf flat)).withdrawn.contains (.matrix (muOf flat % 128)) || (s.dev (ordOf flat)).withdrawn.contains (.cluster (clOf flat % 64))

/-- A plane holds a tag (R314). -/
def Plane.holds (p : Plane) (t : Nat) : Bool := p.tag = t && !p.loading && decide (t ≠ 0)
def MUnit.held (u : MUnit) (t : Nat) : Bool := u.active.holds t || u.shadow.holds t

/-- The tag of an operation's next k-step (R319). (DEDUCED: log 113.) -/
def MOp.nextTag (o : MOp) : Nat := (o.tag + o.next) % 65536

/-- The tile of a core. -/
def MCore.tile (c : MCore) (acc : Bool) : MTile := if acc then c.acc1 else c.acc0
def MCore.modTile (c : MCore) (acc : Bool) (f : MTile → MTile) : MCore :=
  if acc then { c with acc1 := f c.acc1 } else { c with acc0 := f c.acc0 }

/-- A core's candidate under R325: its head, when OVERTAKEN, or QUEUED with its tag held by a plane and not held itself. -/
def candidate (u : MUnit) (c : MCore) : Option MOp :=
  match c.queue with
  | o :: _ =>
    if o.cmd = .op && u.held o.nextTag &&
        (match o.state with
          | .overtaken => true
          | .queued => !o.held
          | _ => false) then some o else none
  | [] => none

/-- The effective priority at a TIME: the base priority, and 1 for each 4,096 ac that a candidate has waited (R325). -/
def effPrio (now : W64) (c : MCore) (o : MOp) : Nat :=
  match o.since with
  | some t => min (c.prio + (now - t).toNat / 4096) 7
  | none => c.prio

/-- The streaming operation of a unit: its position and the operation. -/
def streamingAt (s : State) (m : Nat) : Option (Nat × MOp) :=
  (List.range 8).findSome? fun pos =>
    match (mcore s (muFlat m pos)).queue with
    | o :: _ => if o.state = .streaming then some (pos, o) else none
    | [] => none

/-- Whether a tag is needed (R314). (DEDUCED: log 113.) -/
def needed (s : State) (m t : Nat) : Bool :=
  (List.range 8).any fun pos =>
    let c := mcore s (muFlat m pos)
    match c.queue with
    | o :: _ =>
      if o.cmd ≠ .op then false
      else if o.state = .streaming then
        (decide (o.next + 1 < o.ks) && (o.tag + o.next + 1) % 65536 = t) || (o.nextTag = t && !(s.mu m).active.holds t)
      else (candidate (s.mu m) c).isSome && o.nextTag = t
    | [] => false

def modHead (s : State) (flat : Nat) (f : MOp → MOp) : State :=
  modMcore s flat fun c =>
    match c.queue with
    | o :: os => { c with queue := f o :: os }
    | [] => c

def popHead (s : State) (flat : Nat) : State := modMcore s flat fun c => { c with queue := c.queue.tail }

def swapPlanes (u : MUnit) : MUnit := { u with active := u.shadow, shadow := u.active }

/-- Whether an operation of a core on a tile has not retired. (DEDUCED: log 107.) -/
def busyOn (s : State) (flat : Nat) (acc : Bool) : Bool :=
  ((mcore s flat).queue.any fun o => o.cmd = .op && o.acc = acc) ||
  ((s.mu (muOf flat)).drain.any fun d => d.1 = flat && d.2.acc = acc)

/-! ## Rounding into a tile (R60, R321) -/

/-- One row's sums added to its tile. -/
def addRow (t : MTile) (a : MAdd) : MTile :=
  let one (t : MTile) (cv : Nat × FV × Nat) : MTile :=
    let key := a.row * 128 + cv.1
    let c : RCtl := ⟨a.mode, a.fz, 0⟩
    let (v, f) := addV (a.mode = 2) (decodeFZ fmt32 a.fz ((mfind t.vals key).getD 0)) cv.2.1
    let r := encodeF fmt32 c v (f ||| cv.2.2)
    { t with vals := if r.code = 0 then mdel t.vals key else mset t.vals key r.code, flags := t.flags ||| r.flags }
  ((List.range a.sums.length).zip a.sums).foldl one t

/-- The row sums of operations that are no longer live enter the tile, in order. -/
def settleAdds (live : List Nat) : List MAdd → MTile → MTile
  | [], t => { t with adds := [] }
  | a :: as, t => if live.contains a.id then { t with adds := a :: as } else settleAdds live as (addRow t a)

/-- The operations of a core that are STREAMING, OVERTAKEN, queued or DRAINING. -/
def liveIds (s : State) (flat : Nat) : List Nat :=
  (mcore s flat).queue.map (·.id) ++ ((s.mu (muOf flat)).drain.filter (·.1 = flat)).map (·.2.id)

/-! ## The heads of the queues (R316, R317, R329) -/

/-- An MLOAD completes (R316, R334): Damask input 6. (DEDUCED: log 111.) -/
def loadEnds (s : State) (l : MLoad) : State :=
  pulse (s.modMu (muOf l.flat) fun u => { u with loads := u.loads.erase l }) l.k 6

/-- The head of a core's load queue. -/
def loadHead (u : MUnit) (flat : Nat) : Option MLoad := u.loads.find? (·.flat = flat)

/-- One thing that happens at a head as soon as it can: an MLOAD whose tag a plane holds or loads completes, an MSWAP or MZERO is taken, a credit
releases a held head. An MDRAIN at the head is taken by its instruction. -/
def settle1 (s : State) (m : Nat) : Option State :=
  let u := s.mu m
  (List.range 8).findSome? fun pos =>
    let flat := muFlat m pos
    let c := mcore s flat
    match loadHead u flat with
    | some l =>
      if u.active.tag = l.tag || (u.shadow.tag = l.tag && u.current ≠ some l) then some (loadEnds s l) else settleHead s u m flat c
    | none => settleHead s u m flat c
where
  settleHead (s : State) (u : MUnit) (m flat : Nat) (c : MCore) : Option State :=
    match c.queue with
    | [] => none
    | o :: _ =>
      match o.cmd with
      | .swap => if (streamingAt s m).isNone && u.pend.isNone && !u.inArray && !u.shadow.loading then some (popHead (s.modMu m swapPlanes) flat) else none
      | .zero =>
        if u.drain.any fun d => d.1 = flat && d.2.acc = o.acc then none
        else some (modMcore (popHead s flat) flat fun c =>
          c.modTile o.acc fun t => { settleAdds [] t.adds t with vals := [], retired := 0, adds := [] })
      | .drain => none
      | .op =>
        match c.holder with
        | some k =>
          if o.held && decide (0 < (s.part k).damask.credits[5]) then
            some (modHead (s.modPart k fun p =>
              { p with damask := { p.damask with credits := p.damask.credits.set 5 (p.damask.credits[5] - 1) } }) flat fun o => { o with held := false })
          else none
        | none => none

/-- The head of a queue begins to wait as a candidate, or is one no longer (R325). -/
def MCore.noteCandidate (c : MCore) (u : MUnit) (now : W64) : MCore :=
  match c.queue with
  | o :: os => { c with queue := { o with since := if (candidate u c).isNone then none else some (o.since.getD now) } :: os }
  | [] => c

/-- Let every head act until none can; then the sums of retired operations enter their tiles, and each head's wait as a candidate begins or ends. -/
def settle (m : Nat) : Nat → State → State
  | 0, s => s
  | n + 1, s =>
    match settle1 s m with
    | some t => settle m n t
    | none =>
      (List.range 8).foldl (fun s pos =>
        let flat := muFlat m pos
        let c := mcore s flat
        let live := liveIds s flat
        if c.acc0.adds.isEmpty && c.acc1.adds.isEmpty && (c.queue.head?.all fun o => o.since.isSome = (candidate (s.mu m) c).isSome) then s
        else modMcore s flat fun c =>
          ((c.modTile false fun t => settleAdds live t.adds t).modTile true fun t => settleAdds live t.adds t).noteCandidate (s.mu m) s.time) s

/-- After any change to a unit. -/
def settleMu (s : State) (m : Nat) : State := settle m 300 s

/-! ## The k-step (R315, R318, R319, R321) -/

/-- K, the bytes of one operand row in memory, and the bytes of its elements, of a pair. -/
def pairK : MPair → Nat
  | .f4 => 768
  | .bf16 => 192
  | .f16 => 192
  | _ => 384
def pairRow : MPair → Nat
  | .f4 => 480
  | _ => 384

/-- RB of R318. -/
def MOp.rb (o : MOp) : Nat := if o.sparse then 2 * pairRow o.pair else pairRow o.pair

/-- A byte of an image. -/
def byteAt (a : Array Byte) (i : Nat) : Nat := (a.getD i 0).toNat

/-- An element of two to a byte, of a byte, or of a halfword. -/
def elemAt (a : Array Byte) (base w i : Nat) : Nat :=
  if w = 4 then byteAt a (base + i / 2) / (if i % 2 = 0 then 1 else 16) % 16
  else if w = 8 then byteAt a (base + i)
  else byteAt a (base + 2 * i) + 256 * byteAt a (base + 2 * i + 1)

/-- The activation and weight types of a pair. -/
def pairTypes : MPair → CTy × CTy
  | .f4 => (.flt fmtF4, .flt fmtF4)
  | .f8e4 => (.flt fmtE4, .flt fmtE4)
  | .f8e5f8e4 => (.flt fmtE5, .flt fmtE4)
  | .f8e4f4 => (.flt fmtE4, .flt fmtF4)
  | .bf16 => (.flt fmtBf, .flt fmtBf)
  | .f16 => (.flt fmt16, .flt fmt16)
  | .i8 => (.int true 8, .int true 8)

/-- The value of a block scale: 1 where there is none. -/
def scaleOr1 (o : Option Nat) : FV :=
  match o with
  | some c => decodeE3 c
  | none => .fin false 1 0

/-- One term of R60: (a × sa × band_a) × (w × sw × band_w), exact, with its flags. The i8 pair forms a × w as an integer first. (DEDUCED: log 106.)
Under FZ a subnormal FP16 or BF16 element reads as zero. (DESIGN CHOICE: log 182.) -/
def mterm (o : MOp) (a w : Nat) (sa sw : Option Nat) : FV × Nat :=
  let (ta, tw) := pairTypes o.pair
  let ba := decodeF fmtBf (o.bands.toNat % 65536)
  let bw := decodeF fmtBf (o.bands.toNat / 65536)
  match o.pair with
  | .i8 =>
    let p := intOf true 8 a * intOf true 8 w
    let (x, f) := mulV (.fin (p < 0) p.natAbs 0) ba
    let (y, g) := mulV x bw
    (y, f ||| g)
  | _ =>
    let (a1, f1) := mulV (valueOf ta o.fz a) (scaleOr1 sa)
    let (a2, f2) := mulV a1 ba
    let (w1, f3) := mulV (valueOf tw o.fz w) (scaleOr1 sw)
    let (w2, f4) := mulV w1 bw
    let (p, f5) := mulV a2 w2
    (p, f1 ||| f2 ||| f3 ||| f4 ||| f5)

/-- The positions of the set bits of a mask. -/
def kept (mask : Nat) : List Nat := (List.range 8).filter fun b => mask / 2 ^ b % 2 = 1

/-- The terms of one output element: row bytes, plane image, column. -/
def mterms (o : MOp) (row img : Array Byte) (bs : Bool) (masks : Array Nat) (c : Nat) : List (FV × Nat) :=
  let (ta, tw) := pairTypes o.pair
  let kk := pairK o.pair
  let aElem (d : Nat) : Nat := elemAt row (d / kk * pairRow o.pair) ta.width (d % kk)
  let aScale (d : Nat) : Option Nat := if o.pair = .f4 then some (byteAt row (d / kk * 480 + 384 + d % kk / 8)) else none
  let wScale (i : Nat) : Option Nat := if bs && (o.pair = .f4 || o.pair = .f8e4f4) then some (byteAt img (49152 + 96 * c + i / 8)) else none
  if o.sparse then
    (List.range (kk / 4)).flatMap fun j =>
      let ks := kept (masks.getD (j * 128 + c) 0x0F)
      (List.range 4).map fun i =>
        let d := 8 * j + ks.getD i 0
        mterm o (aElem d) (elemAt img (384 * c) tw.width (4 * j + i)) (aScale d) (wScale (4 * j + i))
  else
    (List.range kk).map fun i => mterm o (aElem i) (elemAt img (384 * c) tw.width i) (aScale i) (wScale i)

/-- The exact sum of terms, with every flag they raise. (DEDUCED: log 106.) -/
def msum (rdn : Bool) : List (FV × Nat) → FV × Nat
  | [] => (.fin false 0 0, 0)
  | t :: ts => ts.foldl (fun a x => let (v, f) := addV rdn a.1 x.1; (v, a.2 ||| x.2 ||| f)) t

/-- The row sums of a row of a k-step. (DEDUCED: log 50.) -/
def rowSums (o : MOp) (p : Plane) (row : List Byte) : List (FV × Nat) :=
  let r := row.toArray
  let img := p.image.toArray
  let ms := o.masks.toArray
  (List.range 128).map fun c => msum (o.mode = 2) (mterms o r img p.bs ms c)

/-- The address of row m of the current k-step. -/
def MOp.rowAddr (o : MOp) (m : Nat) : W64 := o.base + BitVec.ofNat 64 (m * o.stride + o.next * o.rb)

/-- Read rows m onward of the current k-step: the state, the sums of the rows read, and the fault that ended it with its row. (DEDUCED: log 50.) -/
def readRows (w : Who) (o : MOp) (p : Plane) : List Nat → State → State × List MAdd × Option (Nat × EFault)
  | [], s => (s, [], none)
  | m :: ms, s =>
    match engineCheck s w .read (o.rowAddr m) o.rb with
    | .error f => (f.note s w.flat, [], some (m, f))
    | .ok s1 =>
      let (s2, bs) := engineRead s1 w.flat (o.rowAddr m) o.rb
      let (s3, as, f) := readRows w o p ms s2
      (s3, ⟨o.id, o.next, m, o.mode, o.fz, rowSums o p bs⟩ :: as, f)

/-- Rows of the current k-step that lie where they cannot be reached: the operation waits (R493). -/
def rowsCut (s : State) (flat : Nat) (o : MOp) : Bool := (List.range o.rows).any fun m => engineCut s flat (o.rowAddr m) o.rb

def holderWho (s : State) (flat : Nat) : Who :=
  match (mcore s flat).holder with
  | some k => whoOf s k
  | none => ⟨flat, flat * 4, 0⟩

/-- Add row sums to an operation's tile. -/
def addSums (s : State) (flat : Nat) (acc : Bool) (as : List MAdd) : State :=
  modMcore s flat fun c => c.modTile acc fun t => { t with adds := t.adds ++ as }

/-! ## Faults (R324) -/

/-- The record of KIND 0x08. -/
def matrixRecord (code reason acc row kstep : Nat) (pc addr : W64) : List Byte :=
  record64 [(0, 1, 0x08), (1, 1, code), (2, 1, reason), (3, 1, acc), (4, 1, row), (5, 1, kstep), (8, 8, pc.toNat), (16, 8, addr.toNat)]

def addMrec (s : State) (flat : Nat) (tile : Option Bool) (code reason : Nat) (rec : List Byte) : State :=
  let (s1, slot) := writeRecord s (holderWho s flat).ctx flat rec
  modMcore s1 flat fun c => { c with recs := c.recs ++ [⟨tile, code, reason, slot⟩] }

/-- An operation retires into its tile (R323, R329): it is counted and Damask input 4 or 5 pulses. (DEDUCED: log 110.) -/
def retireOp (s : State) (flat : Nat) (acc : Bool) : State :=
  let s1 := modMcore s flat fun c => c.modTile acc fun t => { t with retired := t.retired + 1 }
  match (mcore s1 flat).holder with
  | some k => perf (pulse s1 k (if acc then 5 else 4)) k 6 1
  | none => s1

/-- The fault of an operation at a row of a k-step. -/
def faultOp (s : State) (flat : Nat) (o : MOp) (row : Nat) (code reason : Nat) (addr : W64) : State :=
  retireOp (addMrec s flat (some o.acc) code reason (matrixRecord code reason (if o.acc then 1 else 0) row o.next o.pc addr)) flat o.acc

/-! ## Arbitration (R325 to R327) -/

/-- The positions that hold a candidate of the highest effective priority. -/
def topCands (s : State) (m : Nat) : List Nat :=
  let eps := (List.range 8).map fun pos =>
    let c := mcore s (muFlat m pos)
    (pos, (candidate (s.mu m) c).map (effPrio s.time c))
  let top := eps.foldl (fun t e => match e.2 with
    | some p => max t (p + 1)
    | none => t) 0
  (eps.filter fun e => e.2.map (· + 1) = some top).map (·.1)

/-- The position that weighted round robin grants (R326). -/
def wrrPick (s : State) (m : Nat) (cands : List Nat) : Option Nat :=
  let u := s.mu m
  if cands.contains u.ptr && decide (u.used < (mcore s (muFlat m u.ptr)).weight) then some u.ptr
  else ((List.range 8).map fun i => (u.ptr + 1 + i) % 8).find? cands.contains

/-- An operation begins to stream: the swap of R317 comes first where the shadow plane holds its tag. -/
def beginStream (s : State) (m pos : Nat) : State :=
  let flat := muFlat m pos
  match (mcore s flat).queue with
  | [] => s
  | o :: _ =>
    let ready (u : MUnit) : MUnit := if u.active.holds o.nextTag then u else { swapPlanes u with inArray := false }
    modHead (s.modMu m fun u => { ready u with pend := none }) flat fun o => { o with state := .streaming, since := none }

/-- The arbiter grants the array. A swap that the grant needs waits while rows of earlier k-steps are in the array: the operation stays in its state until the
array takes rows again. The issue log records the grant; in replay it names it, which is made as soon as it is a candidate (R317, R500, R502). -/
def grant (s0 : State) (m : Nat) : State :=
  let cl := m / 2
  let logged (flat : Nat) : W64 := BitVec.ofNat 64 (m % 2 * 2 ^ 32 + posOf flat)
  let next := if (s0.cluster cl).logMode = .replay then (s0.cluster cl).log.find? fun e => e.kind = 2 && e.payload.toNat / 2 ^ 32 = m % 2 else none
  match (match next with
    | some e => (List.range 8).find? fun pos => logged (muFlat m pos) = e.payload && (candidate (s0.mu m) (mcore s0 (muFlat m pos))).isSome
    | none => wrrPick s0 m (topCands s0 m)) with
  | none => s0
  | some pos =>
    let flat := muFlat m pos
    let s := logOrTake s0 flat 0 2 0 (logged flat)
    match (mcore s flat).queue with
    | [] => s0
    | o :: _ =>
      let s1 := s.modMu m fun u =>
        { u with ptr := pos, used := if u.ptr = pos && decide (u.used < (mcore s flat).weight) then u.used + 1 else 1 }
      if (s1.mu m).active.holds o.nextTag || !(s1.mu m).inArray then beginStream s1 m pos
      else s1.modMu m fun u => { u with pend := some (pos, o.id) }

/-- Whether a granted operation whose swap waits can stream, with its position. -/
def pending (s : State) (m : Nat) : Option Nat :=
  (s.mu m).pend.bind fun x =>
    match candidate (s.mu m) (mcore s (muFlat m x.1)) with
    | some o => if o.id = x.2 then some x.1 else none
    | none => none

/-- Whether an MSWAP waits at a head for rows to leave the array. -/
def swapWaits (s : State) (m : Nat) : Bool :=
  (s.mu m).inArray && !(s.mu m).shadow.loading &&
    (List.range 8).any fun pos => (mcore s (muFlat m pos)).queue.head?.any fun o => o.cmd = .swap

/-- ARBITER_GRANT: the array takes rows again after a swap that had to wait, of the operation granted or of the MSWAPs at the heads, which come before the
next grant; else it is free, and the arbiter grants the candidate of highest effective priority (R317, R325). -/
def execArbiterGrant (m : Nat) (s : State) : Host.Outcome State Fault Refusal :=
  .next (if (streamingAt s m).isSome || (s.cluster (m / 2)).halted then s
    else match pending s m with
    | some pos => settleMu (beginStream s m pos) m
    | none =>
      let s1 := s.modMu m fun u => { u with pend := none }
      if swapWaits s1 m then settleMu (s1.modMu m fun u => { u with inArray := false }) m else settleMu (grant s1 m) m)

/-- A streaming operation whose next k-step's plane is the shadow one: the swap has been made by the time its rows enter (R317). -/
def swapped (s : State) (m : Nat) (o : MOp) : State :=
  if (s.mu m).active.holds o.nextTag then s else s.modMu m fun u => { swapPlanes u with inArray := false }

/-- The last row of a k-step has entered the array while k-steps remain (R323, R327). MSWAPs that wait at heads are taken before the grant of an overtake. -/
def execKstepBoundary (m : Nat) (s0 : State) : Host.Outcome State Fault Refusal :=
  .next (match streamingAt s0 m with
    | none => s0
    | some (pos, o) =>
      let flat := muFlat m pos
      let s := swapped s0 m o
      if o.ks ≤ o.next + 1 || o.broken || (s.cluster (m / 2)).halted || rowsCut s flat o then s0
      else match readRows (holderWho s flat) o (s.mu m).active (List.range o.rows) s with
      | (_, _, some _) => s0
      | (s1, as, none) =>
        let s2 := (modHead (addSums s1 flat o.acc as) flat fun o => { o with next := o.next + 1 }).modMu m fun u => { u with inArray := true }
        let t := (o.tag + o.next + 1) % 65536
        let u := s2.mu m
        if !u.held t then settleMu (modHead s2 flat fun o => { o with state := .queued }) m
        else
          let c := mcore s2 flat
          let higher := (topCands s2 m).any fun q =>
            let c' := mcore s2 (muFlat m q)
            match candidate u c' with
            | some x => decide (c.prio < effPrio s2.time c' x)
            | none => false
          if higher then
            let s3 := settleMu (modHead s2 flat fun o => { o with state := .overtaken }) m
            if swapWaits s3 m then s3 else settleMu (grant s3 m) m
          else settleMu s2 m)

/-- The last row of the last k-step has entered the array (R322, R323): DRAINING, and out of the command queue. -/
def execLastRow (m : Nat) (s0 : State) : Host.Outcome State Fault Refusal :=
  .next (match streamingAt s0 m with
    | none => s0
    | some (pos, o) =>
      let flat := muFlat m pos
      let s := swapped s0 m o
      if o.next + 1 < o.ks || o.broken || rowsCut s flat o then s0
      else match readRows (holderWho s flat) o (s.mu m).active (List.range o.rows) s with
      | (_, _, some _) => s0
      | (s1, as, none) =>
        let s2 := popHead (addSums s1 flat o.acc as) flat
        settleMu (s2.modMu m fun u => { u with inArray := true, drain := u.drain ++ [(flat, { o with state := .draining })] }) m)

/-- The results of the oldest DRAINING operation are in its tile: its rows have left the array. -/
def execMatrixRetire (m : Nat) (s : State) : Host.Outcome State Fault Refusal :=
  .next (match (s.mu m).drain with
    | [] => s
    | (flat, o) :: ds =>
      let free := ds.isEmpty && (streamingAt s m).isNone
      settleMu (retireOp (s.modMu m fun u => { u with drain := ds, inArray := u.inArray && !free }) flat o.acc) m)

/-- A column fails at a row of the last k-step of the oldest DRAINING operation (R27, R323): that row's sums and those after it are not applied. -/
def drainFault (s : State) (m row : Nat) : State :=
  match (s.mu m).drain with
  | (flat, o) :: ds =>
    if row < o.rows then
      let s1 := s.modMu m fun u => { u with drain := ds }
      let s2 := modMcore s1 flat fun c => c.modTile o.acc fun t =>
        { t with adds := t.adds.filter fun a => !(a.id = o.id && a.kstep = o.next && decide (row ≤ a.row)) }
      settleMu (faultOp s2 flat o row 0x0C 0x30 0) m
    else s
  | [] => s

/-- An activation read of the STREAMING operation meets a condition or, at a row, a broken pin, or a column fails at a row; or a column fails at a row of a
DRAINING operation, whatever streams (R27, R224, R323, R324). -/
def execMatrixFault (m row : Nat) (why : MFail) (s0 : State) : Host.Outcome State Fault Refusal :=
  let column := why = .column
  .next (if why = .drained then drainFault s0 m row
    else match streamingAt s0 m with
    | some (pos, o) =>
      let flat := muFlat m pos
      let s := swapped s0 m o
      let cut := column || o.broken
      let rows := if cut then (List.range o.rows).filter (· < row) else List.range o.rows
      if rowsCut s flat o then s0
      else match readRows (holderWho s flat) o (s.mu m).active rows s with
      | (s1, as, some (r, f)) => settleMu (faultOp (popHead (addSums s1 flat o.acc as) flat) flat o r f.code f.reason f.addr) m
      | (s1, as, none) =>
        if cut && decide (row < o.rows) then
          let f : EFault := if column then ⟨0x0C, 0x30, 0, none, false⟩ else ⟨0x10, 0x20, o.rowAddr row, none, false⟩
          settleMu (faultOp (popHead (addSums s1 flat o.acc as) flat) flat o row f.code f.reason f.addr) m
        else s0
    | none => s0)

/-- A candidate's effective priority has risen (R325): it follows from TIME, and the event changes nothing but what the unit's heads can do. -/
def execMatrixAgeing (m _pos : Nat) (s : State) : Host.Outcome State Fault Refusal := .next (settleMu s m)

/-- A column is remapped to one of the two spares at the unit's idle point, and the health record is written (R27, R312, R509). -/
def execColumnRemap (m : Nat) (s : State) : Host.Outcome State Fault Refusal :=
  let busy := (List.range 8).any fun pos => (mcore s (muFlat m pos)).queue.any fun o => o.state = .streaming || o.state = .overtaken
  .next (if busy || decide (2 ≤ (s.mu m).remaps) then s else writeHealth (s.modMu m fun u => { u with remaps := u.remaps + 1 }) (m / 128))

/-! ## Plane loads (R316) -/

/-- The oldest MLOAD at the head of its queue that no plane serves. (DEDUCED: log 109.) -/
def nextLoad (s : State) (m : Nat) : Option MLoad :=
  let u := s.mu m
  u.loads.find? fun l => loadHead u l.flat = some l

/-- A queued MLOAD finds the shadow plane free and begins to fill it. (DEDUCED: log 109.) -/
def execPlaneLoadStart (m : Nat) (s : State) : Host.Outcome State Fault Refusal :=
  let u := s.mu m
  .next (match u.current, nextLoad s m with
    | none, some l =>
      if u.shadow.tag ≠ 0 && needed s m u.shadow.tag then s
      else settleMu (s.modMu m fun u => { u with shadow := ⟨l.tag, true, l.bs, []⟩, current := some l }) m
    | _, _ => s)

/-- The filling of the shadow plane ends: the whole plane holds the tag, or a condition left it empty (R316, R334). -/
def execPlaneLoadDone (m : Nat) (s : State) : Host.Outcome State Fault Refusal :=
  .next (match (s.mu m).current with
    | none => s
    | some l =>
      let n := if l.bs then 61440 else 49152
      if !l.broken && engineCut s l.flat l.addr n then s
      else match (if l.broken then .error ⟨0x10, 0x20, l.addr, none, false⟩ else engineCheck s ⟨l.flat, l.k, l.ctx⟩ .read l.addr n) with
      | .error f =>
        let s1 := (f.note s l.flat).modMu m fun u => { u with shadow := .reset, current := none, loads := u.loads.erase l }
        settleMu (addMrec s1 l.flat none f.code f.reason (matrixRecord f.code f.reason 0 0 0 l.pc f.addr)) m
      | .ok s1 =>
        let (s2, bs) := engineRead s1 l.flat l.addr n
        settleMu (loadEnds (s2.modMu m fun u => { u with shadow := ⟨l.tag, false, l.bs, bs⟩, current := none }) l) m)

/-! ## The claim (R313, R332, R333) -/

/-- A part claims the matrix resources of its core: tiles +0.0, or its saved state, with its saved MLOADs (R151, R313). -/
def claimCore (s : State) (k : Nat) : State :=
  let p := s.part k
  let c := match p.msaved with
    | some c => { c with holder := some k }
    | none => { MCore.reset with holder := some k, prio := p.prio.val }
  let move (l : MLoad) : MLoad := { l with flat := flatOf k, k }
  let s1 := (modMcore s (flatOf k) fun _ => c).modMu (muOf (flatOf k)) fun u => { u with loads := u.loads ++ p.lsaved.map move }
  settleMu (s1.modPart k fun p => { p with msaved := none, lsaved := [] }) (muOf (flatOf k))

/-- What every member does first: UNSUPPORTED on a withdrawn unit, VALUE in partition D or a task, then the claim; false where it waits. A member that has
claimed and then waits keeps the claim. -/
def claimM : M Bool := do
  let k ← me
  let s ← get
  if muWithdrawn s (flatOf k) then trapM 0x08 0
  if idxOf k = 3 then illegalValue
  noTask
  match (mcore s (flatOf k)).holder with
  | some h => pure (h = k)
  | none =>
    modify fun s => claimCore s k
    pure true

/-- The claim of a partition ends (R313): what the queues still hold is dropped with it. -/
def endClaim (s : State) (k : Nat) : State :=
  if (mcore s (flatOf k)).holder = some k then modMcore s (flatOf k) fun _ => .reset else s

/-- A start pulse of Damask target 0x05 (R259, R335): it releases the held head of the core's queue, or is kept as a credit. -/
def mqStart (s : State) (k : Nat) : State :=
  let flat := flatOf k
  let c := mcore s flat
  match c.queue with
  | o :: _ =>
    if c.holder = some k && o.cmd = .op && o.held then settleMu (modHead s flat fun o => { o with held := false }) (muOf flat)
    else credit s
  | [] => credit s
where
  credit (s : State) : State := s.modPart k fun p =>
    { p with damask := { p.damask with credits := p.damask.credits.set 5 (min 255 (p.damask.credits[5] + 1)) } }

/-- Enter a command queue, which holds 8 entries; false where it is full. -/
def enterM (f : Nat → MOp) : M Bool := do
  let k ← me
  let s ← get
  let flat := flatOf k
  if 8 ≤ (mcore s flat).queue.length then return false
  let m := muOf flat
  modify fun s => modMcore (s.modMu m fun u => { u with seq := u.seq + 1 }) flat fun c => { c with queue := c.queue ++ [f (s.mu m).seq] }
  modify fun s => settleMu s m
  pure true

/-- MZERO, MSWAP or MDRAIN as an entry. -/
def MOp.plain (cmd : MCmd) (acc : Bool) (id : Nat) : MOp :=
  { cmd, id, pc := 0, acc, pair := .i8, sparse := false, base := 0, stride := 0, ks := 0, rows := 0, tag := 0, next := 0, bands := 0, mode := 0
    fz := false, masks := [], held := false, state := .queued, since := none, broken := false }

/-! ## Instructions of major 0x58 (R334) -/

/-- DEDUCED: log 112. -/
def execMload (h : Hd) (o : OpE) (s : State) : Host.Outcome State Fault Refusal :=
  issue { h, reads := rds [o.s1, o.s2] } (fun _ => do
    if !(← claimM) then return .waitKeep
    let k ← me
    let p ← myPart
    let lit := o.lit.getD 0
    let a := p.src lit o.s1
    let t := (p.src lit o.s2).toNat
    if t = 0 ∨ 65536 ≤ t then illegalValue
    if a.toNat % 64 ≠ 0 then trapM 0x04 a
    let bs := o.mod.getLsbD 0
    formM .read a (if bs then 61440 else 49152)
    let s ← get
    let m := muOf (flatOf k)
    if 2 ≤ ((s.mu m).loads.filter (·.flat = flatOf k)).length then return .waitKeep
    if !(← pushRelease 1) then return .waitKeep
    modify fun s => settleMu (s.modMu m fun u => { u with loads := u.loads ++ [⟨flatOf k, k, p.ctx, p.pc, a, t, bs, false⟩] }) m
    pure .done) s

def execMswap (h : Hd) (_o : OpE) (s : State) : Host.Outcome State Fault Refusal :=
  issue { h } (fun _ => do
    if !(← claimM) then return .waitKeep
    if ← enterM (MOp.plain .swap false) then pure .done else pure .waitKeep) s

/-- DEDUCED: log 108. -/
def execMzero (h : Hd) (o : OpE) (s : State) : Host.Outcome State Fault Refusal :=
  issue { h } (fun _ => do
    if !(← claimM) then return .waitKeep
    if ← enterM (MOp.plain .zero (o.mod.getLsbD 0)) then pure .done else pure .waitKeep) s

/-- Bytes of one element drained, and its type: 0 FP32, 1 BF16, 2 FP16, 3 INT32 (R329). -/
def drainType (fmt : Nat) : Nat × CTy :=
  match fmt with
  | 0 => (4, .flt fmt32)
  | 1 => (2, .flt fmtBf)
  | 2 => (2, .flt fmt16)
  | _ => (4, .int true 32)

/-- The bytes and flags of row r of a drained tile. -/
def drainRow (p : Part) (t : MTile) (fmt r : Nat) : List Byte × Nat :=
  (List.range 128).foldl (fun a c =>
    let x := (mfind t.vals (r * 128 + c)).getD 0
    let d := drainType fmt
    let y : FRes := if fmt = 0 then ⟨x, 0⟩ else convertC (p.rctl (c % 64) (2 * r + c / 64)) d.2 (.flt fmt32) x
    (a.1 ++ bytesOf d.1 y.code, a.2 ||| y.flags)) ([], 0)

/-- DEDUCED: log 107, 108. -/
def execMdrain (h : Hd) (o : OpE) (s : State) : Host.Outcome State Fault Refusal :=
  let fmt := o.mod.toNat / 2 % 8
  let p := s.part s.cur
  let rows := (p.src (o.lit.getD 0) o.s2).toNat % 128
  issue { h, reads := rds [o.s1, o.s2], writes := wr o.d none, sr := if fmt = 0 then 0 else 2 * rows } (fun _ => do
    if !(← claimM) then return .wait
    let k ← me
    let p ← myPart
    let flat := flatOf k
    let lit := o.lit.getD 0
    let b := p.src lit o.s1
    let shape := (p.src lit o.s2).toNat
    let stride := shape / 65536 % 2 ^ 32
    let acc := o.mod.getLsbD 0
    let rowBytes := 128 * (drainType fmt).1
    if rows = 0 ∨ 64 < rows ∨ stride % 64 ≠ 0 ∨ stride < rowBytes ∨ shape / 128 % 512 ≠ 0 ∨ shape / 2 ^ 48 ≠ 0 then illegalValue
    if b.toNat % 64 ≠ 0 then trapM 0x04 b
    let rs := (List.range rows).map fun r => (b + BitVec.ofNat 64 (r * stride), rowBytes)
    checkM .write rs
    let s ← get
    match rs.find? fun r => isReplicated s flat r.1 with
    | some r => stop (.trap ⟨3, 0, r.1, some (256 + 6)⟩)
    | none => pure ()
    -- the command enters the queue, and is taken at its head once the tile's operations have retired
    if !((mcore s flat).queue.any (·.cmd = .drain)) then
      if !(← enterM (MOp.plain .drain acc)) then return .waitKeep
    let s ← get
    let c := mcore s flat
    if !(c.queue.head?.any (·.cmd = .drain)) || busyOn s flat acc then return .waitKeep
    match c.recs.find? fun x => x.tile = some acc with
    | some x =>
      modify fun s => markTaken (modMcore (popHead s flat) flat fun c => { c with recs := c.recs.erase x }) p.ctx flat x.slot
      pure (.trapped ⟨x.code, 1, x.slot, if x.code = 0x0C then none else some x.reason⟩)
    | none =>
      let t := c.tile acc
      let out := (List.range rows).map fun r => drainRow p t fmt r
      modify fun s => (rs.zip out).foldl (fun s ro => engineWrite s flat ro.1.1 ro.2.1) s
      let z := o.mod.getLsbD 4
      modify fun s => modMcore s flat fun c => c.modTile acc fun t =>
        { t with vals := if z then [] else t.vals, flags := 0, retired := if z then 0 else t.retired }
      setMine fun p => p.orFlags (out.foldl (fun f ro => f ||| ro.2) t.flags)
      putM o.d (BitVec.ofNat 64 t.retired)
      acquireM 1
      modify fun s => settleMu (pulse (popHead s flat) k 7) (muOf flat)
      pure .done) s

/-! ## MMUL and MMULS (R335) -/

/-- Whether a shape word and a tag stand in their ranges (R314, R319). -/
def shapeOk (sh : Nat) (t : W64) : Bool :=
  let ks := sh / 256 % 128
  let rows := sh % 128
  let stride := sh / 65536 % 2 ^ 32
  decide (sh / 2 ^ 48 = 0) && decide (sh / 128 % 2 = 0) && decide (sh / 32768 % 2 = 0) && decide (stride % 32 = 0) &&
  decide (1 ≤ ks) && decide (ks ≤ 64) && decide (1 ≤ rows) && decide (rows ≤ 64) &&
  decide (t.toNat ≠ 0) && decide (t.toNat + ks - 1 < 65536)

/-- The METADATA trap of the first mask that has not exactly four bits set. -/
def badMask (masks : List Nat) : Option Stop :=
  (((List.range masks.length).zip masks).find? fun gm => (kept gm.2).length ≠ 4).map fun gm =>
    .trap ⟨0x06, 0, BitVec.ofNat 64 (gm.1 * 65536 + gm.2), none⟩

/-- The masks that a vector register holds. -/
def masksOf (v : VReg) : List Nat := (List.range 256).map fun i => elemOf v 8 i

/-- One attempt of an MMULS to draw its vectors of masks from a bound read stream: a stop, or none while more must come, or all of them. -/
inductive Draw where
  | stop (t : Stop)
  | more
  | all (vs : List VReg)

/-- Pop what the stream offers until `n` vectors have been drawn; the part as it stands, and the outcome. (DEDUCED: log 51.) -/
def drawGo (r : Fin 8) (n : Nat) : Nat → Part → List VReg → Part × List VReg × Draw
  | 0, p, vs => (p, vs, .more)
  | f + 1, p, vs =>
    if n ≤ vs.length then (p, vs, .all vs)
    else match popStream p r with
    | .stop t => (p, vs, .stop t)
    | .wait => (p, vs, .more)
    | .ok p1 => drawGo r n f p1 (vs ++ [p1.getV ⟨56 + r.val, by have := r.isLt; omega⟩])

/-- The masks of an MMULS (R335): none while it waits for its stream. (DEDUCED: log 51.) -/
def metaM (o : OpE) (pair : MPair) : M (Option (List Nat)) := do
  let k ← me
  let p ← myPart
  let i : Fin 64 := match o.s5 with
    | .v i => i
    | _ => 0
  match (if p.bound i then p.streamAt i else none) with
  | none =>
    let ms := masksOf (p.vreg o.s5)
    match badMask ms with
    | some t => stop t
    | none => pure (some ms)
  | some r =>
    let n := 2 * pairK pair / 16
    let (t0, vs) := match p.mdraw with
      | some (_, t, vs) => (t, vs)
      | none => (p.streams[r], [])
    -- while it waits the stream is captured for others; this draw pops it
    let q : Part := { p with streams := p.streams.set r { p.streams[r] with captured := t0.captured } }
    let (q1, vs1, d) := drawGo r n (n + 1) q vs
    match d with
    | .stop t => stop t
    | .more =>
      setMine fun _ => { q1 with streams := q1.streams.set r { q1.streams[r] with captured := true }, mdraw := some (r, t0, vs1) }
      pure none
    | .all vs2 =>
      let ms := vs2.flatMap masksOf
      match badMask ms with
      | some t => stop t
      | none =>
        setMine fun _ => { q1 with mdraw := none }
        modify fun s => (List.range n).foldl (fun s _ => pulse s k (8 + r.val)) s
        pure (some ms)

def mmulBody (sparse : Bool) (pair : MPair) (o : OpE) : M Flow := do
  if !(← claimM) then return .waitKeep
  let p ← myPart
  let lit := o.lit.getD 0
  let a := p.src lit o.s1
  let sh := (p.src lit o.s2).toNat
  let t := p.src lit o.s4
  let bandw := (p.src lit o.s3).setWidth 32
  let streamed := match o.s5 with
    | .v i => sparse && p.bound i
    | _ => false
  if !shapeOk sh t || (streamed && decide (sh / 256 % 128 ≠ 1)) then illegalValue
  if a.toNat % 32 ≠ 0 then trapM 0x04 a
  formM .read a 1
  let k ← me
  let s ← get
  if 8 ≤ (mcore s (flatOf k)).queue.length || !storesDone s k then return .waitKeep
  let ms ← if sparse then metaM o pair else pure (some [])
  match ms with
  | none => pure .waitKeep
  | some masks =>
    if !(← pushRelease 1) then return .waitKeep
    let p ← myPart
    let op (id : Nat) : MOp :=
      { cmd := .op, id, pc := p.pc, acc := o.mod.getLsbD 0, pair, sparse, base := a, stride := sh / 65536 % 2 ^ 32, ks := sh / 256 % 128
        rows := sh % 128, tag := t.toNat, next := 0, bands := bandw, mode := if p.rm = 4 then 0 else p.rm, fz := p.fz, masks
        held := o.mod.getLsbD 1, state := .queued, since := none, broken := false }
    if ← enterM op then pure .done else pure .waitKeep

/-- The metadata register is read by the frame only where it is not bound to a stream. -/
def metaRead (s : State) (x : Src) : List Src :=
  match x with
  | .v i => if (s.part s.cur).bound i then [] else [x]
  | _ => []

def execMmul (h : Hd) (pair : MPair) (o : OpE) (s : State) : Host.Outcome State Fault Refusal :=
  issue { h, reads := rds [o.s1, o.s2, o.s3, o.s4] } (fun _ => mmulBody false pair o) s

def execMmuls (h : Hd) (pair : MPair) (o : OpE) (s : State) : Host.Outcome State Fault Refusal :=
  issue { h, reads := rds ([o.s1, o.s2, o.s3, o.s4] ++ metaRead s o.s5) } (fun _ => mmulBody true pair o) s

/-! ## MPRI, MFENCE and MSTAT (R336) -/

def execMpri (h : Hd) (o : OpC) (s : State) : Host.Outcome State Fault Refusal :=
  issue { h, reads := rds [o.s1, o.s2] } (fun _ => do
    if !(← claimM) then return .waitKeep
    let k ← me
    let p ← myPart
    let a := (p.src 0 o.s1).toNat
    let w := (p.src 0 o.s2).toNat
    if 3 < a ∨ w = 0 ∨ 15 < w then illegalValue
    modify fun s => modMcore s (flatOf k) fun c => { c with prio := a, weight := w }
    pure .done) s

def execMfence (h : Hd) (_o : OpC) (s : State) : Host.Outcome State Fault Refusal :=
  issue { h } (fun _ => do
    if !(← claimM) then return .waitKeep
    let k ← me
    let p ← myPart
    let s ← get
    let flat := flatOf k
    let u := s.mu (muOf flat)
    if u.loads.any (·.flat = flat) || (mcore s flat).queue.any (·.cmd = .op) || u.drain.any (·.1 = flat) then return .waitKeep
    match (mcore s flat).recs.find? fun x => x.tile = none with
    | some x =>
      modify fun s => markTaken (modMcore s flat fun c => { c with recs := c.recs.erase x }) p.ctx flat x.slot
      pure (.trapped ⟨x.code, 1, x.slot, if x.code = 0x0C then none else some x.reason⟩)
    | none => pure .done) s

/-- The word of MSTAT. (DEDUCED: log 114.) -/
def mstatWord (s : State) (flat : Nat) : W64 :=
  let u : MUnit := s.mu (muOf flat)
  let c : MCore := mcore s flat
  let draining : Bool := u.drain.any (·.1 = flat)
  let he : Nat × Nat := match c.queue with
    | (o : MOp) :: _ =>
      if o.cmd ≠ .op then (if draining then 5 else 0, 0)
      else match o.state with
      | .streaming => (3, c.prio)
      | .overtaken => (4, effPrio s.time c o)
      | _ => (if u.held o.nextTag then 1 else 2, if (candidate u c).isSome then effPrio s.time c o else 0)
    | [] => (if draining then 5 else 0, 0)
  BitVec.ofNat 64 (u.active.tag * 2 ^ 48 + u.shadow.tag * 2 ^ 32 + (if u.shadow.loading then 2 ^ 31 else 0) + he.2 * 2 ^ 28 +
    c.queue.length * 2 ^ 20 + (u.loads.filter (·.flat = flat)).length * 2 ^ 18 + (if busyOn s flat true then 2 ^ 17 else 0) +
    (if busyOn s flat false then 2 ^ 16 else 0) + (if c.recs.isEmpty then 0 else 2 ^ 15) + he.1)

def execMstat (h : Hd) (o : OpC) (s : State) : Host.Outcome State Fault Refusal :=
  issue { h, writes := wr o.d none } (fun _ => do
    if !(← claimM) then return .waitKeep
    let k ← me
    let s ← get
    putM o.d (mstatWord s (flatOf k))
    pure .done) s

end Sys2Proof.Machine
end

