-- ==== Sys2Proof/Machine/WorkQ.lean ====
section
/-! DEFINITION. Work queues: POP, PUSHW and QCLOSE (R306 to R311). -/

namespace Sys2Proof.Machine

/-- The QUEUE trap (R310). -/
def queueTrap (id reason : Nat) : Stop := .trap ⟨0x09, 0, BitVec.ofNat 64 (reason * 256 + id), none⟩

/-- The scope of a work queue for a core (R308). -/
def wqScope (flat id : Nat) : Nat := if id / 64 = dieOf flat % 4 then 2 else 3

/-- DESIGN CHOICE: log 90. -/
def setWq (s : State) (dev id : Nat) (q : Wq) : State := s.modDev dev fun d => { d with wqs := mset d.wqs id q }

/-- The work queue that the acting context may use; UNASSIGNED otherwise. -/
def wqM (id : Nat) : M Wq := do
  let k ← me
  let p ← myPart
  let s ← get
  match mfind (s.dev (ordOf (flatOf k))).wqs id with
  | some q => if q.ctx = p.ctx then pure q else stop (queueTrap id 0x01)
  | none => stop (queueTrap id 0x01)

/-- A waiting part of the queue's context continues. -/
def wqWake (s : State) (q : Wq) (flat how : Nat) (v : W64) : State := s.modPartOf flat q.ctx fun p => { p with sleep := .woken how v }

/-- Append an item: the oldest waiting POP takes it, with the acquire that pairs with its PUSHW (R308), else the ring holds it. The write of its slot aborts the tasks
that touched it (R434). (DESIGN CHOICE: log 90.) -/
def wqAppend (s : State) (dev id : Nat) (q : Wq) (flat : Nat) (item : W64) : State :=
  let scope := wqScope flat id
  let line := lineOf (q.base + BitVec.ofNat 64 (8 * (q.tail % 2 ^ q.log2n)))
  let s1 := homeWrite (toHome (abortForStore (hot s flat line) (vaId s flat line)) flat line) flat (q.base + BitVec.ofNat 64 (8 * (q.tail % 2 ^ q.log2n))) (bytesOf 8 item.toNat)
  match q.poppers with
  | f :: fs => acquireAt (wqWake (setWq s1 dev id { q with poppers := fs, tail := q.tail + 1 }) q f 1 item) f scope
  | [] => setWq s1 dev id { q with items := q.items ++ [(item, scope)], tail := q.tail + 1 }

/-- After an item is taken: the oldest waiting PUSHW appends its item, and a CLOSED queue without items is DRAINED. -/
def wqTaken (s : State) (dev id : Nat) (q : Wq) : State :=
  match q.pushers with
  | (f, item) :: ps => wqWake (wqAppend s dev id { q with pushers := ps } f item) q f 1 0
  | [] => setWq s dev id { q with st := if q.st = .closed && q.items.isEmpty then .drained else q.st }

def execPop (h : Hd) (o : OpC) (s : State) : Host.Outcome State Fault Refusal :=
  let pd : Fin 8 := ⟨o.mod.toNat % 8, Nat.mod_lt _ (by decide)⟩
  issue { h, reads := rds [o.s1], writes := wr o.d none ++ [(.p pd, none)] } (fun _ => do
    noTask
    let k ← me
    let p ← myPart
    let nb := o.mod.getLsbD 3
    if idxOf k = 3 && !nb then illegalValue
    let id := (p.src 0 o.s1).toNat % 256
    let flat := flatOf k
    -- the result is recorded for replay (R307, R500)
    let finish (v pv : W64) (acq : Option Nat) : M Flow := do
      let out := if pv ≠ 0 then 0 else if acq = none then 1 else 2
      modify fun s => logOrTake s flat (idxOf k) 3 out (if out = 0 then v else 0)
      setMine fun p => { p with sleep := .awake }
      putM o.d v
      putM (.p pd) pv
      match acq with
      | some x => acquireM (max x (wqScope flat id))
      | none => pure ()
      pure .done
    match p.sleep with
    | .woken 1 v => finish v ones64 (some 0)
    | .woken _ v => finish 1 0 (some v.toNat)
    | _ =>
      let q ← wqM id
      let s ← get
      -- in replay a POP gives what was recorded, as soon as it can (R502)
      match replayNext s flat (idxOf k) 3 with
      | some e =>
        if e.outcome = 1 then return (← finish 0 0 none)
        if e.outcome = 2 then
          if q.st = .drained then return (← finish 1 0 (some q.endScope)) else return .wait
        match q.items.find? fun x => x.1 = e.payload with
        | some x =>
          modify fun s => wqTaken s (ordOf flat) id { q with items := q.items.erase x }
          return (← finish x.1 ones64 (some x.2))
        | none => return .wait
      | none => pure ()
      match q.st, q.items with
      | .drained, _ => finish 1 0 (some q.endScope)
      | _, x :: xs =>
        modify fun s => wqTaken s (ordOf flat) id { q with items := xs }
        finish x.1 ones64 (some x.2)
      | _, [] =>
        if nb then finish 0 0 none
        else
          modify fun s => setWq s (ordOf flat) id { q with poppers := q.poppers ++ [flat] }
          setMine fun p => { p with sleep := .pop id }
          pure .waitKeep) s

def execPushw (h : Hd) (o : OpC) (s : State) : Host.Outcome State Fault Refusal :=
  issue { h, reads := rds [o.s1, o.s2], writes := wr o.d none } (fun _ => do
    noTask
    let k ← me
    let p ← myPart
    let nb := o.mod.getLsbD 3
    if idxOf k = 3 && !nb then illegalValue
    let id := (p.src 0 o.s1).toNat % 256
    let flat := flatOf k
    match p.sleep with
    | .woken 2 _ => stop (queueTrap id 0x02)
    | .woken _ _ =>
      setMine fun p => { p with sleep := .awake }
      putM o.d 1
      pure .done
    | _ =>
      let q ← wqM id
      if q.st ≠ .opened then stop (queueTrap id 0x02)
      if !(← releaseM (wqScope flat id)) then return .wait
      let item := p.src 0 o.s2
      if q.items.length < 2 ^ q.log2n then
        modify fun s => wqAppend s (ordOf flat) id q flat item
        putM o.d 1
        pure .done
      else if nb then
        putM o.d 0
        pure .done
      else
        modify fun s => setWq s (ordOf flat) id { q with pushers := q.pushers ++ [(flat, item)] }
        setMine fun p => { p with sleep := .push id item }
        pure .waitKeep) s

def execQclose (h : Hd) (o : OpC) (s : State) : Host.Outcome State Fault Refusal :=
  issue { h, reads := rds [o.s1], writes := wr o.d none } (fun _ => do
    noTask
    let k ← me
    let p ← myPart
    let id := (p.src 0 o.s1).toNat % 256
    let flat := flatOf k
    let q ← wqM id
    if !(← releaseM (wqScope flat id)) then return .wait
    let n := q.items.length
    if q.st = .opened then
      let s ← get
      let s1 := setWq s (ordOf flat) id
        { q with st := if n = 0 then .drained else .closed, endScope := wqScope flat id, poppers := if n = 0 then [] else q.poppers, pushers := [] }
      let s2 := q.pushers.foldl (fun s w => wqWake s q w.1 2 0) s1
      set (if n = 0 then q.poppers.foldl (fun s f => wqWake s q f 2 (BitVec.ofNat 64 (wqScope flat id))) s2 else s2)
    putM o.d (BitVec.ofNat 64 n)
    pure .done) s

/-- A spill or a cancel withdraws the waits of a part at its device's work queues (R309). -/
def wqWithdraw (s : State) (flat c : Nat) : State :=
  s.modDev (ordOf flat) fun d =>
    { d with wqs := d.wqs.map fun q =>
        if q.2.ctx = c then (q.1, { q.2 with poppers := q.2.poppers.filter (· ≠ flat), pushers := q.2.pushers.filter (·.1 ≠ flat) }) else q }

end Sys2Proof.Machine
end

