-- ==== Sys2Proof/Machine/Units.lean ====
section
/-! DEFINITION. How a unit ends (R110, R270, R278): what it withdraws, what it waits for, what its end frees and counts; EXIT. -/

namespace Sys2Proof.Machine

/-! ## Launch records -/

def launchOf (s : State) (id : Nat) : Option Launch := s.launches.find? (·.id = id)

def modLaunch (s : State) (id : Nat) (f : Launch → Launch) : State :=
  { s with launches := s.launches.map fun l => if l.id = id then f l else l }

/-- The 64 bytes of a queue's descriptor (R292). -/
def HostQ.descriptor (h : HostQ) : List Byte :=
  record64 [(0, 8, h.base.toNat), (8, 1, h.log2n), (9, 1, h.die), (12, 4, h.rdidx.toNat), (16, 4, h.wridx.toNat), (24, 8, h.errw.toNat)]

/-- Change a host queue; its indices stand in its descriptor too. -/
def modQueue (s : State) (dev q : Nat) (f : HostQ → HostQ) : State :=
  match mfind (s.dev dev).hostqs q with
  | some h =>
    let h1 := f h
    let s1 := s.modDev dev fun d => { d with hostqs := mset d.hostqs q h1 }
    match h1.desc with
    | some a => { s1 with mem := memWriteBytes s1.mem (keyOf 0 dev (a + 12)) (bytesOf 4 h1.rdidx.toNat ++ bytesOf 4 h1.wridx.toNat) }
    | none => s1
  | none => s

/-- The STATUS of the packet that a launch came from (R301). -/
def packetStatus (s : State) (queue : Option (Nat × Nat × Nat)) (status : Nat) : State :=
  match queue with
  | some (dev, q, id) => modQueue s dev q fun h => { h with pkts := h.pkts.map fun p => if p.id = id then { p with status } else p }
  | none => s

/-- A launch becomes COMPLETE: its record is freed (R270). -/
def launchComplete (s : State) (l : Launch) : State :=
  packetStatus { s with launches := s.launches.filter (·.id ≠ l.id) } l.queue 0

/-- A unit of a launch has exited: its add is sent; with no LCNT the last exit completes the launch (R270, R276, R277). (DEDUCED: log 45, 93.) -/
def exitCount (s : State) (flat : Nat) (id : Nat) : State :=
  match launchOf s id with
  | none => s
  | some l =>
    let last := decide (l.units.length ≤ l.exits + 1)
    let s1 := modLaunch s id fun l => { l with exits := l.exits + 1, st := if last then .draining else l.st }
    if l.lcnt = 0 then (if last then launchComplete s1 l else s1)
    else { s1 with adds := s1.adds ++ [⟨l.ctx, flat, l.blk, [l.lcnt, l.gcnt, l.pcnt, l.jcnt], 1, some id⟩] }

/-! ## What the end of a unit waits for -/

/-- The part's matrix work has ended (R313). -/
def matrixDone (s : State) (k : Nat) : Bool :=
  let flat := flatOf k
  let c := mcore s flat
  let u := s.mu (muOf flat)
  (s.part k).msaved.isNone && (c.holder ≠ some k || (c.queue.isEmpty && c.acc0.adds.isEmpty && c.acc1.adds.isEmpty && !(u.drain.any fun x => x.1 = flat))) &&
    !(u.loads.any fun l => l.k = k) && !(u.current.any fun l => l.k = k)

/-- Everything that a part has pushed has completed (R110). -/
def unitQuiet (s : State) (k : Nat) : Bool :=
  let p := s.part k
  storesDone s k && p.copiesDone && p.xfersDone && collsDone s (flatOf k) p.ctx && matrixDone s k && p.drained

/-! ## What it withdraws -/

/-- A wait of a part leaves the object it waits at; the instruction will issue again (R150, R309). A wait that has ended stays ended. (DEDUCED: log 151.) -/
def withdrawWait (s : State) (k : Nat) : State :=
  let wake (s : State) : State := s.modPart k fun p => { p with sleep := .awake, blocked := none }
  match (s.part k).sleep with
  | .event cl c name _ _ =>
    wake (match findEv s cl c name with
      | some e => evPut s cl { e with wait := e.wait.filter fun w => w.1 ≠ flatOf k }
      | none => s)
  | .pop _ | .push _ _ => wake (wqWithdraw s (flatOf k) (s.part k).ctx)
  | .align _ _ | .wfe _ _ | .task _ | .barrier _ _ _ => wake s
  | _ => s

/-- What a cancel leaves in a matrix queue: a STREAMING operation, and MZERO and MSWAP, which complete as at EXIT (R278, R323). -/
def MOp.stays (o : MOp) : Bool := o.state = .streaming || o.cmd = .zero || o.cmd = .swap

/-- Entries of the part's matrix queue are withdrawn: held operations at EXIT (R313); at a cancel, its operations but a STREAMING one (R323). -/
def withdrawMatrix (s : State) (k : Nat) (cancel : Bool) : State :=
  let flat := flatOf k
  if (mcore s flat).holder = some k then
    settleMu (modMcore s flat fun c =>
      { c with queue := c.queue.filter fun o => if cancel then o.stays else !(o.cmd = .op && o.held) }) (muOf flat)
  else s

/-! ## The end -/

/-- A partition without its part: the registers stay as they are until the next unit starts. (DEDUCED: log 39, 89.) -/
def Part.freed (p : Part) : Part :=
  { p.unbindAll.drain with
    st := .free, launch := none, sleep := .awake, blocked := none, stall := 0, fbuf := [], freq := [], fmode := .free, twill := [], fwdNow := none
    fmask := 0, chans := Vector.replicate 4 .reset, xfers := [], rpRecs := [], replies := [], stash := [], deferred := [], damask := .reset
    latch := false, latchScope := 0, msaved := none, mdraw := none, hbWait := none, spillDue := false, spillLater := false, mbox := [], quiesce := none, asyncMcheck := 0
    inTrap := false, inUp := false, inChk := false }

/-- What the end of a part on a core frees besides its partition: its places in waits, its watches, holding-buffer bits, transfers to and from it,
its collectives (R252, R380, R389, R472). -/
def partGone (s : State) (flat c : Nat) : State :=
  let s0 := s.clusters.foldl (fun s x =>
    (x.2.events.filter fun e => e.ctx = c && e.wait.any fun w => w.1 = flat).foldl (fun s e =>
      evPut s x.1 { e with wait := e.wait.filter fun w => w.1 ≠ flat }) s) (wqWithdraw s flat c)
  let s1 : State := { s0 with watches := s0.watches.filter fun w => !(w.flat = flat && !w.dpart && w.ctx = c) }
  let s2 := tablaPartGone (hbPartEnds s1 flat c) flat c
  let s3 : State := { s2 with dies := s2.dies.map fun d => (d.1, { d.2 with tabla := d.2.tabla.filter fun t => !(t.src = flat && t.ctx = c) }) }
  freeColls s3 flat c

/-- The unit of a partition has ended (R110, R275): its write streams are acquired (R233), what is dirty in its stash is written back, its exit is a release of the launch scope, its
partition is free, and its exit is counted. -/
def endUnit (s : State) (k : Nat) : State :=
  let flat := flatOf k
  let p := s.part k
  let s1 := stashFlushAll (streamsAcquired (leaveGroup s k) k) k
  let s2 := match p.launch.bind (launchOf s1) with
    | some l => releaseAt s1 flat l.scope
    | none => s1
  let s3 := (partGone (endClaim s2 k) flat p.ctx).modPart k Part.freed
  match p.launch with
  | some id => exitCount s3 flat id
  | none => s3

/-- A unit that ends while its saved matrix state waits for the claim of another part claims once it may; its saved operations are then done (R313). -/
def reclaim (s : State) (k : Nat) : State :=
  if (s.part k).msaved.isSome && (mcore s (flatOf k)).holder.isNone then withdrawMatrix (claimCore s k) k false else s

/-- A partition whose unit is ending becomes free once all that it pushed has completed. -/
def reap (s : State) (k : Nat) : State :=
  if (s.part k).st ≠ .free && (s.part k).sleep = .ending then
    let s1 := reclaim s k
    if unitQuiet s1 k then endUnit s1 k else s1
  else s

/-- The unit of a partition issues EXIT. (DEDUCED: log 97.) -/
def exitUnit (s : State) (k : Nat) : State :=
  let s1 := withdrawXfers (withdrawHeld (withdrawMatrix (abortRunning s k) k false) k) k false
  let s2 := withdrawColls s1 (flatOf k) (s1.part k).ctx false
  reap ((leaveGroup s2 k).modPart k fun p => { p with sleep := .ending, fmode := .free, fmask := 0, twill := [], fwdNow := none }) k

/-- The saved matrix state of a cancelled part whose claim has not returned: what it pushed and a cancel leaves is still to complete (R278). -/
def Part.cancelSaved (p : Part) : Part :=
  match p.msaved with
  | some c =>
    let q := c.queue.filter MOp.stays
    { p with msaved := if q.isEmpty && p.lsaved.isEmpty then none else some { c with queue := q } }
  | none => p

/-- A cancelled unit stops (R278): what it waits for, holds and has requested is withdrawn, its tasks are discarded and its streams unbound. -/
def stopUnit (s : State) (k : Nat) : State :=
  let flat := flatOf k
  let c := (s.part k).ctx
  let s0 := discardTasks (withdrawWait (releaseFollowers (leaveGroup s k) k) k) flat c
  let s1 := withdrawXfers (withdrawHeld (withdrawMatrix (s0.modPart k Part.undraw) k true) k) k true
  let s2 := (withdrawColls s1 flat c true).modPart k fun p => { p.unbindAll.cancelSaved with sleep := .ending }
  reap { s2 with sel := if s2.sel = some k then none else s2.sel } k

/-- EXIT (R110). -/
def exitBody : M Flow := do
  let k ← me
  if idxOf k = 3 then illegalValue
  modify fun s => exitUnit s k
  pure .placed

def execExit (h : Hd) (s : State) : Host.Outcome State Fault Refusal := issue { h } (fun _ => exitBody) s
def execExitPred (h : Hd) (q : Pred) (s : State) : Host.Outcome State Fault Refusal := issue { h, q := some q } (fun _ => exitBody) s

end Sys2Proof.Machine
end

