-- ==== Sys2Proof/Machine/Halts.lean ====
section
/-! DEFINITION. Halts, releases and breakpoints (R146, R494 to R497), and the instructions of major 0x74 (R498 to R504). -/

namespace Sys2Proof.Machine

/-! ## Halt and release (R146) -/

/-- The instruction that the scheduler chose does not run: its partition has been stopped. -/
def unselect (s : State) (k : Nat) : State := if s.sel = some k then { s with sel := none, issued := false } else s

/-- A halt in the row of the part's state: a live part is HALTED and keeps that state; one that is leaving is halted at the destination. (DEDUCED: log 71.) -/
def Part.haltIt (p : Part) : Part :=
  match p.st with
  | .resident | .preempted | .checkpointing => { p with prev := p.st, st := .halted, blocked := none }
  | .evicting => if p.kept = .resident || p.kept = .preempted then { p with prev := p.kept, kept := .halted } else p
  | _ => p

/-- A part is halted; a leader's followers resume on their own (R101). -/
def haltPart (s : State) (k : Nat) : State :=
  let s1 := if (s.part k).fmode = .leading then releaseFollowers s k else s
  unselect (s1.modPart k Part.haltIt) k

/-- A part that has taken CHECKPOINT to its end waits for the fabric manager; any other halted part returns to the state it kept. One with a
CHECKPOINT latched returns to take it, and one whose spill is accepted stays to be saved (R146). (DEDUCED: log 71, 147.) -/
def releasePart (s : State) (k : Nat) : State :=
  let p := s.part k
  if p.st ≠ .halted || p.chkDone || p.spillDue then s
  else
    let st := if p.quiesce.isSome && p.prev = .preempted then .resident else p.prev
    let s1 := s.modPart k fun p => ({ p with st }).goto p.pc s.steps
    if st = .preempted then returnTokens s1 k false else sendRequests s1 k

/-- The partitions A to C of a cluster that hold parts. -/
def clusterParts (s : State) (cl : Nat) : List Nat :=
  (s.parts.filter fun kp => clOf (flatOf kp.1) = cl && idxOf kp.1 ≠ 3 && kp.2.st ≠ .free).map (·.1)

/-- A cross-trigger halts a cluster (R494): no core of it issues, no piece of a copy starts, no matrix operation is granted. -/
def haltCluster (s : State) (cl : Nat) : State :=
  let s1 := s.modCluster cl fun c => { c with halted := true }
  let s2 := (clusterParts s1 cl).foldl haltPart s1
  (List.range 16).foldl (fun s pos => unselect s (flatAt cl pos * 4 + 3)) s2

/-! ## Breakpoints (R497) -/

/-- TRAPVAL of a BKPT trap. -/
def breakVal (src val : Nat) : W64 := BitVec.ofNat 64 (src * 2 ^ 32 + val)

/-- The breakpoint at a part's boundary, if there is one: its TRAPVAL. An address match is named before a step. (DEDUCED: log 69.) -/
def Part.breakHere (p : Part) : Option W64 :=
  if p.bkm = 0 || p.pass then none
  else match (List.finRange 4).find? fun i => p.bpen.getLsbD i.val && p.bpaddr[i] = p.pc with
    | some i => some (breakVal 1 i.val)
    | none => if p.step && !p.inTrap then some (breakVal 2 0) else none

/-- The action of a breakpoint: the trap BKPT, or the cluster halts with the instruction not issued. -/
def breakAct (s : State) (k : Nat) (val : W64) : State :=
  if (s.part k).bkm = 1 then takeTrap s k ⟨0x0A, 0, val, none⟩ else haltCluster s (clOf (flatOf k))

/-! ## Events -/

/-- A cross-trigger reaches a cluster, or every cluster of its package. (DEDUCED: log 88.) -/
def execCrossTriggerHalt (cl : Nat) (package : Bool) (s : State) : Host.Outcome State Fault Refusal :=
  .next (if package then (List.range 64).foldl (fun s i => haltCluster s (cl / 64 * 64 + i)) s else haltCluster s cl)

/-- A debugger may have set PASS in a part that BKM = 2 stopped. -/
def debugPass (s : State) (k : Nat) : State :=
  if (s.part k).bkm = 2 then
    { s with free := s.free + 1 }.modPart k fun p => { p with pass := p.pass || Config.setsPass s.free }
  else s

/-- The debug module releases a cluster: every unit restarts. (DESIGN CHOICE: log 68; DEDUCED: log 147.) -/
def execDebugRelease (cl : Nat) (s : State) : Host.Outcome State Fault Refusal :=
  .next (if (s.cluster cl).halted then
      let s1 := s.modCluster cl fun c => { c with halted := false }
      (clusterParts s1 cl).foldl (fun s k => releasePart (debugPass s k) k) s1
    else s)

/-- Firmware takes the oldest entries out of an issue log. -/
def execIssueLogFreed (cl n : Nat) (s : State) : Host.Outcome State Fault Refusal :=
  .next (s.modCluster cl fun c => if c.logMode = .logging then { c with log := c.log.drop n } else c)

/-- The debug module turns issue logging on or off, or enters replay with a log. A run that is open when logging ends is logged. -/
def execReplayModeSet (cl : Nat) (mode : ReplayMode) (log : List LogEntry) (s : State) : Host.Outcome State Fault Refusal :=
  let s1 := (List.range 16).foldl (fun s pos => closeRun s (flatAt cl pos)) s
  .next (s1.modCluster cl fun c =>
    match mode with
    | .off => { c with logMode := .off }
    | .logging => { c with logMode := .logging, log := if c.logMode = .logging then c.log else [] }
    | .replay => { c with logMode := .replay, log, diverged := false })

/-! ## Instructions (R504) -/

/-- BKPT, TRACE and PERF are no instructions of partition D. -/
def debugD : M Unit := do
  let k ← me
  if idxOf k = 3 then illegalValue

/-- Whether the acting partition runs a task that is not irrevocable. -/
def inSpecTask : M Bool := fun s => .ok ((taskOn s s.cur).any fun t => !irrevocable s t, s)

/-- DEDUCED: log 146. -/
def execBkpt (h : Hd) (o : OpC) (s : State) : Host.Outcome State Fault Refusal :=
  issue { h, reads := rds [o.s1] } (fun _ => do
    debugD
    let k ← me
    let p ← myPart
    let val := breakVal 0 ((p.src 0 o.s1).toNat % 2 ^ 32)
    if p.bkm = 0 || p.pass then pure .done
    else if p.bkm = 1 then trapM 0x0A val
    else
      modify fun s => haltCluster s (clOf (flatOf k))
      pure .waitKeep) s

/-- The record of a TRACE (R498). -/
def traceRecord (p : Part) (k : Nat) (time tag val : W64) : List Byte :=
  bytesOf 2 (tag.toNat % 65536) ++ bytesOf 2 (idxOf k) ++ bytesOf 4 (flatOf k) ++ bytesOf 8 p.pc.toNat ++ bytesOf 8 time.toNat ++ bytesOf 8 val.toNat

def execTrace (h : Hd) (o : OpC) (s : State) : Host.Outcome State Fault Refusal :=
  issue { h, reads := rds [o.s1, o.s2], store := true } (fun _ => do
    debugD
    if ← inSpecTask then return .done
    let k ← me
    let p ← myPart
    if !p.tren || p.trcLog = 0 then return .done
    let a := p.trcBase + BitVec.ofNat 64 (32 * (p.trcIdx.toNat % 2 ^ p.trcLog))
    checkM .write [(a, 32)]
    let s ← get
    if !(← writeM a ((bytesAt a 32).zip (traceRecord p k (timeAt s k) (p.src 0 o.s1) (p.src 0 o.s2)))) then return .wait
    setMine fun p => { p with trcIdx := p.trcIdx + 1 }
    pure .done) s

/-- The counter of a PERF operand; past 7 there is none. -/
def perfIndex (p : Part) (x : Src) : M (Fin 8) :=
  if h : (p.src 0 x).toNat < 8 then pure ⟨(p.src 0 x).toNat, h⟩ else illegalValue

def execPerfRd (h : Hd) (o : OpC) (s : State) : Host.Outcome State Fault Refusal :=
  issue { h, reads := rds [o.s1], writes := wr o.d none } (fun _ => do
    debugD
    let p ← myPart
    let i ← perfIndex p o.s1
    putM o.d ((p.perf[i]).count.setWidth 64)
    pure .done) s

def execPerfCfg (h : Hd) (o : OpC) (s : State) : Host.Outcome State Fault Refusal :=
  issue { h, reads := rds [o.s1, o.s2], writes := wr o.d none } (fun _ => do
    debugD
    let p ← myPart
    let i ← perfIndex p o.s1
    let w := (p.src 0 o.s2).toNat
    if 512 ≤ w ∨ 0x0B < w % 256 then illegalValue
    setMine fun p => { p with perf := p.perf.set i ⟨w % 256, decide (256 ≤ w), 0⟩ }
    putM o.d ((p.perf[i]).count.setWidth 64)
    pure .done) s

/-- DEDUCED: log 148. -/
def execPerfClr (h : Hd) (o : OpC) (s : State) : Host.Outcome State Fault Refusal :=
  issue { h, writes := wr o.d none } (fun _ => do
    debugD
    setMine fun p => { p with perf := p.perf.map fun c => { c with count := 0 } }
    putM o.d 0
    pure .done) s

/-- RMARK (R502): in replay an operand that differs from the logged one halts the cluster at this RMARK. (DEDUCED: log 145.) -/
def execRmark (h : Hd) (o : OpC) (s : State) : Host.Outcome State Fault Refusal :=
  issue { h, reads := rds [o.s1] } (fun _ => do
    if ← inSpecTask then return .done
    let k ← me
    let p ← myPart
    let s ← get
    let v := p.src 0 o.s1
    match replayNext s (flatOf k) (idxOf k) 6 with
    | none =>
      modify fun s => logPut s (flatOf k) (idxOf k) 6 0 v
      pure .done
    | some e =>
      modify fun s => replayTake s (flatOf k) (idxOf k) 6
      if e.payload ≠ v then
        modify fun s => haltCluster (s.modCluster (clOf (flatOf k)) fun c => { c with diverged := true }) (clOf (flatOf k))
      pure .done) s

end Sys2Proof.Machine
end

