-- ==== Sys2Proof/Machine/Launches.lean ====
section
/-! DEFINITION. Launches, completion counters, cancels and the clock ratios of Timpani (R269 to R291, R515, R516). -/

namespace Sys2Proof.Machine

/-! ## The launch block (R271 to R273) -/

/-- A core whose tile or cluster or, for a MATRIX launch, whose matrix unit is withdrawn (R28, R273). -/
def coreGone (s : State) (matrix : Bool) (flat : Nat) : Bool :=
  let d := s.dev (ordOf flat)
  d.withdrawn.contains (.tile (flat % 1024)) || d.withdrawn.contains (.cluster (clOf flat % 64)) || (matrix && muWithdrawn s flat)

/-- A core is live for a launch at its acceptance (R273); a module that is being evicted takes none (R511). (DEDUCED: log 85.) -/
def coreLive (s : State) (matrix : Bool) (flat : Nat) : Bool :=
  let d := s.dev (ordOf flat)
  inPartition s flat && !coreGone s matrix flat && d.svc ≠ 1 && d.svc ≠ 2

/-- The launch scope (R275): die, pkg or part, whichever covers the issuing core and every core of the range. -/
def launchScope (flat first n : Nat) : Nat :=
  if dieOf first = dieOf flat ∧ dieOf (first + n - 1) = dieOf flat then 2
  else if ordOf first = ordOf flat ∧ ordOf (first + n - 1) = ordOf flat then 3
  else 4

/-- Bit i of FLAGS: 0 ARRIVAL, 1 NOCHK, 2 LOCAL, 3 EVEN, 4 MATRIX. -/
def Launch.flag (l : Launch) (i : Nat) : Bool := l.flags.getLsbD i

/-- A block as a launch record, not yet checked. `host` says that a host queue's packet submits it. -/
def launchFrom (w : Who) (parent : Option Nat) (queue : Option (Nat × Nat × Nat)) (blk : W64) (bs : List Byte) : Launch :=
  let f (o n : Nat) : Nat := fieldAt bs o n
  let a (o : Nat) : W64 := BitVec.ofNat 64 (f o 8)
  let flags := BitVec.ofNat 8 (f 29 1)
  let first := if flags.getLsbD 2 then f 16 4 + ordOf w.flat * 1024 else f 16 4
  { id := 0, ctx := w.ctx, flat := w.flat, parent, queue, st := .waking, blk, code := a 0, cbank := a 8, first, ncore := f 20 4, prio := f 28 1
    flags, event := f 30 2, lcnt := a 32, gcnt := a 40, pcnt := a 48, jcnt := a 56, ratio := a 64, notify := a 72
    scope := if queue.isSome then 5 else launchScope w.flat first (f 20 4)
    bank := List.replicate 512 0, units := [], started := [], exits := 0, added := 0, asks := [] }

/-- Whether a ratio request breaks R281. -/
def badRatio (r : W64) : Bool :=
  bits r 63 36 ≠ 0 || [0, 5, 10, 15].any fun i =>
    let k := bits r (i + 4) i
    decide (k ≠ 0) && (decide (k < 4) || decide (12 < k))

/-- An access of the command processor, which walks the tables itself: its condition. A host queue's agent is no core, so a scratchpad window names
nothing for it. (DEDUCED: log 104, 105.) -/
def cpFault (s : State) (w : Who) (host : Bool) (acc : Acc) (a : W64) (n : Nat) : Option EFault :=
  if host && (inSpad a || inSpad (a + BitVec.ofNat 64 (n - 1))) then some ⟨3, 2, a, none, false⟩
  else match engineCheck (s.modCore w.flat fun c => { c with plb := [] }) w acc a n with
  | .error e => some e
  | .ok _ => none

/-- A counter that cannot be operated on: outside device memory, or meeting a condition at its home (R272, R515). -/
def counterBad (s : State) (w : Who) (acc : Acc) (a : W64) : Bool :=
  inSpad a || (cpFault s w false acc a 8).isSome || isHostVa s w.flat a || isReplicated s w.flat a

/-- The units' cores: the first live cores of the range, if it holds enough. -/
def launchCores (s : State) (l : Launch) (n : Nat) : List Nat :=
  (((List.range l.ncore).map (l.first + ·)).filter (coreLive s (l.flag 4))).take n

/-- The first failing check of R272, or 0. -/
def launchReason (s : State) (w : Who) (host : Bool) (l : Launch) (bs : List Byte) (units : Nat) : Nat :=
  if (bs.drop 80).any (· ≠ 0) ∨ l.flags.toNat / 32 ≠ 0 ∨ 4 ≤ l.prio then 1
  else if l.code.toNat % 64 ≠ 0 ∨ l.cbank.toNat % 64 ≠ 0 ∨ [l.lcnt, l.gcnt, l.pcnt, l.jcnt, l.notify].any (fun a => a.toNat % 8 ≠ 0) then 2
  else if badRatio l.ratio then 3
  else if l.ncore = 0 ∨ units = 0 ∨ l.ncore < units ∨ 2 ^ 31 ≤ units ∨
      (s.devs.filter fun d => decide (ordOf l.first ≤ d.1) && decide (d.1 ≤ ordOf (l.first + l.ncore - 1))).length ≠
        ordOf (l.first + l.ncore - 1) - ordOf l.first + 1 then 4
  else if (launchCores s l units).length < units then 5
  else if l.lcnt ≠ 0 && counterBad s w .write l.lcnt then 7
  else if l.cbank ≠ 0 && (cpFault s w host .read l.cbank 512).isSome then 8
  else 0

/-- A record of KIND 0x06 (R272, R515). -/
def launchRecord (reason : Nat) (blk counter : W64) : List Byte := record64 [(0, 1, 6), (2, 1, reason), (8, 8, blk.toNat), (16, 8, counter.toNat)]

/-- What the fetches of a launch that is issued now will read: memory as it is visible, with dirty stash lines at their homes and the stores under way whole. -/
def imageOf (s : State) : Image :=
  let begun (e : StoreEnt) (b : W64 × Byte) : Bool :=
    let here (x : W64 × Byte) : Bool := lineOf x.1 = lineOf b.1
    (e.bytes.filter here).length ≠ (e.left.filter here).length
  let whole (t : State) (e : StoreEnt) : State :=
    (e.left.filter (begun e)).foldl (fun t b => performLine t ⟨flatOf e.k, e.k, e.ctx⟩ (lineOf b.1) [b]) t
  let t1 := s.cores.foldl (fun t c => c.2.sbuf.foldl whole t) s
  let t2 := t1.parts.foldl (fun t kp => stashFlushAll t kp.1) t1
  ⟨t2.mem, t2.guests, t2.pages, t2.dies.map fun d => (d.1, d.2.leaves)⟩

/-- Acceptance of a block whose bytes have been read (R269, R270, R272, R275): the reason, 0 where it is accepted. -/
def launchAccept (s : State) (w : Who) (parent : Option Nat) (queue : Option (Nat × Nat × Nat)) (blk : W64) (bs : List Byte) : State × Nat :=
  let l := launchFrom w parent queue blk bs
  let units := fieldAt bs 24 4
  match launchReason s w queue.isSome l bs units with
  | 0 =>
    let (s1, bank) := if l.cbank = 0 then (s, l.bank) else engineRead s w.flat l.cbank 512
    let s2 := if l.lcnt = 0 then s1 else engineWrite s1 w.flat l.lcnt (bytesOf 8 (units * 2 ^ 31))
    ({ s2 with launches := s2.launches ++ [{ l with id := s2.launchSeq, bank, units := launchCores s l units, image := imageOf s }], launchSeq := s2.launchSeq + 1 }, 0)
  | r => ((writeRecord s w.ctx w.flat (launchRecord r blk 0)).1, r)

/-! ## Units start (R273, R274, R516) -/

/-- The part of a unit at its first instruction (R274, R54). -/
def unitPart (l : Launch) (unit : Nat) : Part :=
  { Part.reset with
    st := .resident, ctx := l.ctx, launch := some l.id, pc := l.code, unitIdx := BitVec.ofNat 32 unit, unitCnt := BitVec.ofNat 32 l.units.length
    launchPtr := l.blk, cbankPtr := l.cbank, cbank := Vector.ofFn fun i => BitVec.ofNat 64 (fieldAt l.bank (8 * i.val) 8)
    stallchk := !l.flag 1, prio := ⟨l.prio % 4, Nat.mod_lt _ (by decide)⟩, rxpri := l.prio % 4 }

/-- The lowest-lettered free partition of a core. -/
def freePartition (s : State) (flat : Nat) : Option Nat := ([0, 1, 2].find? fun q => (s.part (flat * 4 + q)).st = .free).map fun q => flat * 4 + q

/-- A part of a context other than a CREATED one is on a core (R516). -/
def partPresent (s : State) (flat c : Nat) : Bool := (s.placed flat c).isSome || s.away.any fun a => a.1 = flat && a.2.ctx = c && a.2.st ≠ .created

/-- Whether a kept part is the CREATED part of a unit. -/
def isCreated (flat id unit : Nat) (a : Nat × Part) : Bool :=
  a.1 = flat && a.2.st = .created && a.2.launch = some id && a.2.unitIdx = BitVec.ofNat 32 unit

/-- A unit's wake message has reached its core: it is admitted, or waits CREATED (R273, R516); on a module that is being evicted it waits, and moves with the module's
contexts (R146, R511). -/
def wakeUnit (s : State) (l : Launch) (unit flat : Nat) : State :=
  let mine := s.away.find? (isCreated flat l.id unit)
  let ahead := s.away.any fun a => a.1 = flat && a.2.ctx = l.ctx && a.2.st = .created && decide (a.2.launch.getD 0 < l.id)
  let leaving := (s.dev (ordOf flat)).svc = 1
  match (if partPresent s flat l.ctx || ahead || leaving then none else freePartition s flat) with
  | none => if mine.isSome then s else { s with away := s.away ++ [(flat, { unitPart l unit with st := .created })] }
  | some k =>
    let p : Part := { unitPart l unit with quiesce := mine.bind (·.2.quiesce) }
    let s1 : State := { s with away := s.away.filter fun a => !isCreated flat l.id unit a }
    let s2 := modLaunch (s1.setPart k (p.goto l.code s.steps)) l.id fun l =>
      { l with started := l.started ++ [unit], st := if l.units.length ≤ l.started.length + 1 then .running else l.st }
    taborRefill (clOf flat) 256 (drainInbox (acquireAt (tablaLive s2 flat l.ctx) flat l.scope) flat l.ctx)

/-- UNIT_START. -/
def execUnitStart (launch unit : Nat) (s : State) : Host.Outcome State Fault Refusal :=
  .next (match launchOf s launch with
    | some l =>
      match l.units[unit]? with
      | some flat => if l.st = .waking && !l.started.contains unit && !coreGone s (l.flag 4) flat then wakeUnit s l unit flat else s
      | none => s
    | none => s)

/-! ## Counters (R276, R277, R279, R515) -/

/-- The word of a counter, read at its home. -/
def counterWord (s : State) (flat : Nat) (a : W64) : State × Nat :=
  let s1 := toHome (abortForStore (hot s flat a) (vaId s flat (lineOf a))) flat (lineOf a)
  (s1, homeNum s1 flat a 8)

/-- Add to a counter at its home and propagate (R277): the old word. A propagated add is a release of scope part. (DEDUCED: log 92.) -/
def counterStep (s : State) (c flat : Nat) (blk : W64) (next : List W64) (n : Nat) (a : W64) : State × Nat :=
  let (s1, w) := counterWord s flat a
  let count := min (w % 2 ^ 31 + n) (2 ^ 31 - 1)
  let target := w / 2 ^ 31 % 2 ^ 31
  let done := decide (w / 2 ^ 62 = 0 ∧ target ≠ 0 ∧ target ≤ count)
  let s2 := homeWrite s1 flat a (bytesOf 8 (w / 2 ^ 31 * 2 ^ 31 + count + if done then 2 ^ 62 else 0))
  match next with
  | b :: _ => if done && b ≠ 0 then ({ releaseAt s2 flat 4 with adds := s2.adds ++ [⟨c, flat, blk, next, 1, none⟩] }, w) else (s2, w)
  | [] => (s2, w)

/-- The record of a counter operation that is not performed (R515). (DEDUCED: log 45, 96.) -/
def counterLost (s : State) (c flat : Nat) (blk a : W64) : State := (writeRecord s c flat (launchRecord 7 blk a)).1

/-- Whether the home of an add's counter can be reached, and is on no frozen module (R493, R503). -/
def CAdd.ready (x : CAdd) (s : State) : Bool :=
  x.ctrs.head?.all fun a => !engineCut s x.flat a 8 && (s.dev (ordOf (homeOf s x.flat a))).boot ≠ 3

/-- The oldest add on its way whose counter can be reached is performed; the last completion add completes its launch (R270). (DEDUCED: log 95.) -/
def execCounterAdd (s : State) : Host.Outcome State Fault Refusal :=
  .next (match s.adds.find? (·.ready s) with
    | none => s
    | some x =>
      let s0 := { s with adds := s.adds.erase x }
      match x.ctrs with
      | [] => s0
      | a :: next =>
        if counterBad s0 ⟨x.flat, x.flat * 4, x.ctx⟩ .atomic a then counterLost s0 x.ctx x.flat x.blk a
        else
          let (s1, _) := counterStep s0 x.ctx x.flat x.blk next x.n a
          match x.launch.bind (launchOf s1) with
          | some l =>
            if l.st = .draining && decide (l.units.length ≤ l.added + 1) then launchComplete s1 l
            else modLaunch s1 l.id fun l => { l with added := l.added + 1 }
          | none => s1)

/-- Set CAN in a counter unless DONE is set (R278, R279). -/
def counterCancel (s : State) (c flat : Nat) (blk a : W64) : State :=
  if counterBad s ⟨flat, flat * 4, c⟩ .atomic a then counterLost s c flat blk a
  else
    let (s1, w) := counterWord s flat a
    if w / 2 ^ 62 % 2 = 1 then s1 else homeWrite s1 flat a (bytesOf 8 (w % 2 ^ 63 + 2 ^ 63))

/-! ## Cancel (R278, R290) -/

/-- Launches with all that their units have issued (R278). -/
def withChildren (s : State) : Nat → List Nat → List Nat
  | 0, ids => ids
  | n + 1, ids => withChildren s n (ids ++ ((s.launches.filter fun l => !ids.contains l.id && l.parent.any ids.contains).map (·.id)))

/-- A kept part of a cancelled launch ends: a CREATED one is dropped, a SPILLED one with what it holds elsewhere. -/
def dropAway (s : State) (id : Nat) : State :=
  let mine := s.away.filter fun a => a.2.launch = some id
  let s1 : State := { s with away := s.away.filter fun a => a.2.launch ≠ some id }
  mine.foldl (fun s a =>
    if a.2.st = .created then s else partGone (withdrawColls (discardTasks s a.1 a.2.ctx) a.1 a.2.ctx true) a.1 a.2.ctx) s1

/-- One launch becomes CANCELLED. -/
def cancelOne (s : State) (id : Nat) : State :=
  match launchOf s id with
  | none => s
  | some l =>
    let s1 := if l.lcnt = 0 then s else counterCancel s l.ctx l.flat l.blk l.lcnt
    let s2 : State := { s1 with launches := s1.launches.filter (·.id ≠ id) }
    let ks := (s2.parts.filter fun p => p.2.launch = some id && p.2.st ≠ .free).map (·.1)
    packetStatus (ks.foldl stopUnit (dropAway s2 id)) l.queue 0x10

/-- DEDUCED: log 93, 94. -/
def cancelLaunches (s : State) (ids : List Nat) : State := ids.foldl cancelOne s

/-- Every stopped unit of some launches has stopped. -/
def allStopped (s : State) (ids : List Nat) : Bool := !(s.parts.any fun p => p.2.st ≠ .free && p.2.launch.any ids.contains)

/-- A cancel of a counter (R290): the old word and the launches cancelled, which are those naming the word at any level. (DEDUCED: log 94.) -/
def cancelWord (s : State) (flat : Nat) (a : W64) : State × W64 × List Nat :=
  let (s1, w) := counterWord s flat a
  let s2 := if w / 2 ^ 62 % 2 = 1 then s1 else homeWrite s1 flat a (bytesOf 8 (w % 2 ^ 63 + 2 ^ 63))
  let ids := withChildren s2 s2.launches.length ((s2.launches.filter fun l => a ≠ 0 && [l.lcnt, l.gcnt, l.pcnt, l.jcnt].contains a && devFor s2 l.flat a = devFor s2 flat a).map (·.id))
  (cancelLaunches s2 ids, BitVec.ofNat 64 w, ids)

/-- UNIT_WITHDRAWN (R273): a unit that has not started has lost its core. -/
def execUnitWithdrawn (launch flat : Nat) (s : State) : Host.Outcome State Fault Refusal :=
  .next (match launchOf s launch with
    | some l =>
      let lost := (List.range l.units.length).any fun i => l.units[i]? = some flat && !l.started.contains i
      if l.st = .waking && lost && coreGone s (l.flag 4) flat then
        let s1 := cancelLaunches s (withChildren s s.launches.length [l.id])
        packetStatus (writeRecord s1 l.ctx l.flat (launchRecord 6 l.blk 0)).1 l.queue 6
      else s
    | none => s)

/-! ## Timpani (R281 to R284) -/

/-- The power of a set of ratios, 4 to 12 each, by a module's power table (R282). -/
def powerOf (t : PowerTable) (m v n g : Nat) : Nat :=
  t.fixed + t.mat.getD (m - 4) 0 + t.vec.getD (v - 4) 0 + t.net.getD (n - 4) 0 + t.mem.getD (g - 4) 0

/-- The request for a domain (0 matrix, 1 vector, 2 network, 3 memory) on a module: ratio and weight (R283). -/
def clkRequest (s : State) (dev d : Nat) : Nat × Nat :=
  let best := s.launches.foldl (fun (b : Option (Nat × Nat × Nat)) l =>
    let r := (mfind l.asks dev).getD l.ratio
    let k := bits r (5 * d + 4) (5 * d)
    if (l.st = .waking || l.st = .running) && (l.units.any fun f => ordOf f = dev) && decide (k ≠ 0) then
      match b with
      | some x => if x.1 < l.prio then some (l.prio, k, max 1 (bits r (4 * d + 23) (4 * d + 20))) else b
      | none => some (l.prio, k, max 1 (bits r (4 * d + 23) (4 * d + 20)))
    else b) none
  match best with
  | some x => x.2
  | none => (8, 1)

def ratios : List Nat := [4, 5, 6, 7, 8, 9, 10, 11, 12]

/-- The feasible set of least cost; ties by power, then by the ratios in order (R283). (DEDUCED: log 46; DESIGN CHOICE: log 87.) -/
def bestGrant (s : State) (dev : Nat) : Clk :=
  let r (d : Nat) : Nat × Nat := clkRequest s dev d
  let cost (q : Nat × Nat) (k : Nat) : Nat := q.2 * (max k q.1 - min k q.1)
  let (rm, rv, rn, rg) := (r 0, r 1, r 2, r 3)
  let cap := (s.dev dev).cap
  let table := (s.dev dev).power
  let all := ratios.flatMap fun m => ratios.flatMap fun v => ratios.flatMap fun n => ratios.map fun g => (m, v, n, g)
  let best := all.foldl (fun (b : Option (Nat × Nat × Clk)) x =>
    let (m, v, n, g) := x
    let p := powerOf table m v n g
    let c := cost rm m + cost rv v + cost rn n + cost rg g
    if cap < p then b
    else match b with
    | some y => if c < y.1 ∨ (c = y.1 ∧ p < y.2.1) then some (c, p, ⟨m, v, n, g⟩) else b
    | none => some (c, p, ⟨m, v, n, g⟩)) none
  match best with
  | some y => y.2.2
  | none => (s.dev dev).grant

/-- CLKG (R285). -/
def Dev.clkg (d : Dev) : Nat := d.cap * 2 ^ 32 + d.grant.mem * 2 ^ 24 + d.grant.net * 2 ^ 16 + d.grant.vec * 2 ^ 8 + d.grant.mat

/-- A changed grant takes effect: the notify words are written, and events signalled on every cluster of each launch (R284, R247). -/
def execGrantChange (dev : Nat) (s : State) : Host.Outcome State Fault Refusal :=
  let d := s.dev dev
  let g := bestGrant s dev
  let early := d.granted.any fun t => decide (since s t < 100000)
  .next (if g = d.grant || early then s
    else
      let s1 := s.modDev dev fun d => { d with grant := g, clkseq := d.clkseq + 1, granted := some s.ftime }
      let word := ((s1.dev dev).clkseq.toNat % 2 ^ 32) * 2 ^ 32 + (s1.dev dev).clkg % 2 ^ 32
      let ls := s1.launches.filter fun l => (l.st = .waking || l.st = .running) && l.units.any fun f => ordOf f = dev
      ls.foldl (fun s l =>
        let w : Who := ⟨dev * 1024, dev * 4096, l.ctx⟩
        let s2 := if l.notify ≠ 0 && (cpFault s w true .write l.notify 8).isNone then engineWrite s w.flat l.notify (bytesOf 8 word) else s
        if l.flag 3 then ((l.units.map clOf).dedup).foldl (fun s cl => (evsig s cl l.ctx l.event 4).getD s) s2 else s2) s1)

/-! ## LAUNCH, CNTADD, CANCEL, CLKREQ (R287 to R291) -/

def execLaunch (h : Hd) (o : OpE) (s : State) : Host.Outcome State Fault Refusal :=
  issue { h, reads := rds [o.s1], writes := wr o.d none } (fun _ => do
    notInD
    noTask
    let k ← me
    let p ← myPart
    let a := p.src (o.lit.getD 0) o.s1
    if a.toNat % 256 ≠ 0 then trapM 0x04 a
    checkM .read [(a, 256)]
    let s ← get
    match (linesOf a 256).find? (isLost s (flatOf k)) with
    | some l => stop (.lost 0 a l)
    | none =>
      if !storesDone s k then return .wait
      let (s1, bs) := engineRead s (flatOf k) a 256
      let w := whoOf s1 k
      let s2 := releaseAt s1 (flatOf k) (launchFrom w none none a bs).scope
      let (s3, r) := launchAccept s2 w p.launch none a bs
      set s3
      putM o.d (BitVec.ofNat 64 r)
      pure .done) s

/-- The checks of a counter that an instruction names (R289). -/
def counterM (a : W64) : M Unit := do
  let k ← me
  checkM .atomic [(a, 8)]
  let s ← get
  if isReplicated s (flatOf k) a then stop (.trap ⟨3, 0, a, some (3 * 256 + 6)⟩)
  if isLost s (flatOf k) a then stop (.lost 3 a (lineOf a))
  if inSpad a || isHostVa s (flatOf k) a then trapM 0x08 a

def execCntadd (h : Hd) (o : OpE) (s : State) : Host.Outcome State Fault Refusal :=
  issue { h, reads := rds [o.s1, o.s2, o.s3], writes := wr o.d none } (fun _ => do
    notInD
    noTask
    let k ← me
    let p ← myPart
    let l := o.lit.getD 0
    let a := p.src l o.s1
    let n := (p.src l o.s2).toNat
    let next := p.src l o.s3
    if a.toNat % 8 ≠ 0 then trapM 0x04 a
    if next.toNat % 8 ≠ 0 then trapM 0x04 next
    if 2 ^ 31 ≤ n then illegalValue
    counterM a
    if !(← releaseM (scopeOfMod o.mod)) then return .wait
    let s ← get
    let (s1, w) := counterStep s p.ctx (flatOf k) 0 [next] n a
    set s1
    putM o.d (BitVec.ofNat 64 w)
    pure .done) s

def execCancel (h : Hd) (o : OpE) (s : State) : Host.Outcome State Fault Refusal :=
  issue { h, reads := rds [o.s1], writes := wr o.d none } (fun _ => do
    notInD
    noTask
    let k ← me
    let p ← myPart
    let s ← get
    match p.sleep with
    | .cancel old ids =>
      if !allStopped s ids then return .wait
      setMine fun p => { p with sleep := .awake }
      putM o.d old
      pure .done
    | _ =>
      let a := p.src (o.lit.getD 0) o.s1
      if a.toNat % 8 ≠ 0 then trapM 0x04 a
      counterM a
      if !(← releaseM 4) then return .wait
      let s ← get
      let (s1, old, ids) := cancelWord s (flatOf k) a
      set s1
      let q ← myPart
      if q.st = .free || q.sleep = .ending then return .placed
      if allStopped s1 ids then
        putM o.d old
        pure .done
      else
        setMine fun p => { p with sleep := .cancel old ids }
        pure .waitKeep) s

def execClkreq (h : Hd) (o : OpE) (s : State) : Host.Outcome State Fault Refusal :=
  issue { h, reads := rds [o.s1], writes := wr o.d none } (fun _ => do
    notInD
    noTask
    let k ← me
    let p ← myPart
    let r := p.src (o.lit.getD 0) o.s1
    if badRatio r then illegalValue
    let dev := ordOf (flatOf k)
    match p.launch with
    | some id => modify fun s => modLaunch s id fun l => { l with asks := mset l.asks dev r }
    | none => pure ()
    let s ← get
    putM o.d (s.dev dev).clkseq
    pure .done) s

end Sys2Proof.Machine
end

