-- ==== Sys2Proof/Machine/Queues.lean ====
section
/-! DEFINITION. Host queues, their packets and the command processors (R292 to R302); the lease of firmware leadership (R303 to R305). -/

namespace Sys2Proof.Machine

/-! ## The queue (R292 to R297) -/

def hostqOf (s : State) (dev q : Nat) : Option HostQ := mfind (s.dev dev).hostqs q

/-- Packets of a ring. -/
def HostQ.size (h : HostQ) : Nat := 2 ^ h.log2n

/-- The ring slot of a packet index. -/
def HostQ.slot (h : HostQ) (idx : Nat) : W64 := h.base + BitVec.ofNat 64 (64 * (idx % h.size))

/-- The agent that acts for a queue: the command processor of its die, with its context's rights (R302). -/
def HostQ.who (h : HostQ) (dev : Nat) : Who := ⟨dieBase (dev * 4 + h.die), dieBase (dev * 4 + h.die) * 4, h.ctx.getD 0⟩

/-- The error word and the record of a queue (R297). (DEDUCED: log 98, 99.) -/
def queueError (s : State) (dev q : Nat) (h : HostQ) (idx op reason : Nat) : State :=
  let w := h.who dev
  let s1 := (writeRecord s w.ctx w.flat (record64 [(0, 1, 7), (2, 1, reason), (4, 2, q), (8, 8, (h.slot idx).toNat)])).1
  if (cpFault s1 w true .write h.errw 8).isSome then s1
  else engineWrite (releaseAt s1 w.flat 5) w.flat h.errw (bytesOf 8 (idx * 2 ^ 32 + op * 65536 + reason * 256 + 1))

/-- A tail write arrives (R293 to R296, R505, R511); one that is accepted is a release of scope sys at the die that serves the queue (R295). (DEDUCED: log 47.) -/
def execTailWrite (dev conn offset size : Nat) (value : W64) (s : State) : Host.Outcome State Fault Refusal :=
  let q := offset / 8
  let drop := s.modDev dev fun d => { d with drops := d.drops + 1 }
  .next (if size ≠ 8 ∨ offset % 8 ≠ 0 ∨ 8192 ≤ offset then s
    else match hostqOf s dev q with
    | none => drop
    | some h =>
      let d := s.dev dev
      if d.boot ≠ 2 ∨ h.ctx = none ∨ h.conn ≠ conn ∨ ((d.svc = 1 ∨ d.svc = 2) ∧ h.st = .stopped) then drop
      else
        let w' := value.setWidth 32
        if h.size < (w' - h.rdidx).toNat ∨ h.size < (w' - h.wridx).toNat then
          match h.st with
          | .error => s
          | .stopped => queueError s dev q h w'.toNat 0 3
          | _ => queueError (modQueue s dev q fun h => { h with st := .error, held := none }) dev q h w'.toNat 0 3
        else modQueue (releaseAt s (h.who dev).flat 5) dev q fun h =>
          { h with wridx := w', st := if h.st = .idle && w' ≠ h.rdidx then .active else h.st })

/-! ## Stop and resume (R296) -/

def execQueueStop (dev q : Nat) (s : State) : Host.Outcome State Fault Refusal :=
  .next (if led s dev then modQueue s dev q fun h => { h with st := .stopped, held := none } else s)

def execQueueResume (dev q : Nat) (rdidx : W32) (s : State) : Host.Outcome State Fault Refusal :=
  .next (match hostqOf s dev q with
    | some h =>
      if !led s dev ∨ h.size < (h.wridx - rdidx).toNat then s
      else modQueue s dev q fun h =>
        match h.st with
        | .idle => { h with rdidx }
        | .error => { h with rdidx, st := if rdidx = h.wridx then .idle else .active }
        | .stopped => if h.ctx = none then h else { h with rdidx, st := if rdidx = h.wridx then .idle else .active }
        | _ => h
    | none => s)

/-! ## Packets (R298 to R300) -/

namespace Pkt
def op (p : Pkt) : Nat := fieldAt p.bytes 0 1
def flags (p : Pkt) : Nat := fieldAt p.bytes 1 1
def barrier (p : Pkt) : Bool := p.flags % 2 = 1
def epchk (p : Pkt) : Bool := p.flags / 2 % 2 = 1
def addr (p : Pkt) (o : Nat) : W64 := BitVec.ofNat 64 (fieldAt p.bytes o 8)
end Pkt

/-- Bytes that a packet's OP lists as operands: the first byte beyond them. -/
def operandEnd (op : Nat) : Nat :=
  match op with
  | 0 => 24 | 1 => 32 | 2 => 49 | 3 => 41 | 4 => 48 | 5 => 25 | 6 => 36 | _ => 32

/-- FORMAT (R300). -/
def Pkt.badFormat (p : Pkt) : Bool :=
  let f (o n : Nat) : Nat := fieldAt p.bytes o n
  p.bytes.getD 3 0 ≠ 0 || (p.bytes.drop (operandEnd p.op)).any (· ≠ 0) || decide (4 ≤ p.flags) || (!p.epchk && decide (f 4 4 ≠ 0)) ||
    decide (f 8 8 % 8 ≠ 0) ||
    match p.op with
    | 1 => decide (f 24 8 % 256 ≠ 0)
    | 2 => decide (f 24 8 % 8 ≠ 0) || decide (9 < f 48 1)
    | 3 => decide (f 24 8 % 8 ≠ 0) || decide (1 < f 40 1)
    | 4 => decide (f 40 8 = 0) || decide (2 ^ 32 < f 40 8)
    | 5 => decide (f 24 1 < 2) || decide (5 < f 24 1)
    | 6 => decide (f 24 8 % 64 ≠ 0) || decide (f 32 4 = 0) || decide (65536 < f 32 4)
    | 7 => decide (f 24 8 % 8 ≠ 0)
    | _ => false

/-- Whether the packet at RDIDX is held (R296): BARRIER with earlier packets incomplete, or a WAIT whose condition is false. A WAIT whose word cannot
be read runs, and faults. (DEDUCED: log 100, 103.) -/
def pktHeld (s : State) (w : Who) (h : HostQ) (p : Pkt) : Bool :=
  if p.barrier && !h.pkts.isEmpty then true
  else if p.op = 2 && (cpFault s w true .read (p.addr 24) 8).isNone then
    let (s1, bs) := engineRead s w.flat (p.addr 24) 8
    let _ := s1
    let m := fieldAt p.bytes 40 8
    !icond (icondOf (fieldAt p.bytes 48 1)) 64 (ofBytes bs &&& m) (fieldAt p.bytes 32 8 &&& m)
  else false

/-- Task messages of a TASKSEED packet, sent in order until one cannot be read or holds the reserved key (R299, R423). (DEDUCED: log 48.) -/
def seedSend (s : State) (w : Who) (sender : Sender) (a : W64) : Nat → State × Bool
  | 0 => (s, true)
  | n + 1 =>
    if (cpFault s w true .read a 64).isSome then (s, false)
    else
      let (s1, bs) := engineRead s w.flat a 64
      let key : BitVec 128 := BitVec.ofNat 128 (fieldAt bs 48 16)
      if key = reservedKey then (s1, false)
      else
        let m : Msg := { dest := fieldAt bs 0 4, tag := 0, cls := 0, rp := false, bnc := false, status := 0, handler := BitVec.ofNat 64 (fieldAt bs 8 8)
                         args := (List.range 4).map fun i => BitVec.ofNat 64 (fieldAt bs (16 + 8 * i) 8), key, src := w.flat, srcPart := 0, ctx := w.ctx
                         task := true, parent := none, sender }
        seedSend (sendMsg s1 m) w sender (a + 64) n

/-- The EPOCH of the lease word of a package. -/
def leaseEpoch (s : State) (dev : Nat) : Nat := bits (s.dev dev).lease 63 40

/-- A packet starts (R300, R305): RDIDX passes it, and its action begins; a COPY is a release at the scope of R187. (DEDUCED: log 100, 101.) -/
def startPkt (s : State) (dev q : Nat) (h : HostQ) (p : Pkt) : State :=
  let w := h.who dev
  let put (s : State) (p : Pkt) : State := modQueue s dev q fun h =>
    { h with rdidx := h.rdidx + 1, st := if h.rdidx + 1 = h.wridx then .idle else .active, pkts := h.pkts ++ [p], held := none }
  let s := if p.epchk then acquireAt s w.flat 3 else s
  if p.epchk && leaseEpoch s dev ≠ fieldAt p.bytes 4 4 then put s { p with status := 0x11 }
  else match p.op with
  | 1 =>
    let blk := p.addr 24
    if (cpFault s w true .read blk 256).isSome then put s { p with status := 0x12 }
    else
      let (s1, bs) := engineRead (releaseAt s w.flat 5) w.flat blk 256
      let (s2, r) := launchAccept s1 w none (some (dev, q, p.id)) blk bs
      put s2 { p with status := r }
  | 2 =>
    if (cpFault s w true .read (p.addr 24) 8).isSome then put s { p with status := 0x12 } else put (acquireAt s w.flat 5) p
  | 4 => put (releaseAt s w.flat (engineScope s w.flat [(p.addr 24, fieldAt p.bytes 40 8), (p.addr 32, fieldAt p.bytes 40 8)])) p
  | 6 =>
    let (s1, ok) := seedSend (releaseAt s w.flat 4) w (.packet dev q p.id) (p.addr 24) (fieldAt p.bytes 32 4)
    put s1 { p with status := if ok then 0 else 0x12 }
  | 7 =>
    if inSpad (p.addr 24) || counterBad s w .atomic (p.addr 24) then put s { p with status := 0x12 }
    else
      let (s1, _, ids) := cancelWord (releaseAt s w.flat 4) w.flat (p.addr 24)
      put s1 { p with stops := ids }
  | _ => put s p

/-- The packet at RDIDX is read and checked, then starts, is held, or stops the queue (R296, R300). (DEDUCED: log 99.) -/
def execPacketRead (dev q : Nat) (s : State) : Host.Outcome State Fault Refusal :=
  .next (match hostqOf s dev q with
    | some h =>
      if h.st ≠ .active || h.rdidx = h.wridx then s
      else
        let w := h.who dev
        let idx := h.rdidx.toNat
        let a := h.slot idx
        let bad (s : State) (op reason : Nat) : State := queueError (modQueue s dev q fun h => { h with st := .error }) dev q h idx op reason
        if (cpFault s w true .read a 64).isSome then bad s 0 4
        else
          let (s1, bs) := engineRead (acquireAt s w.flat 5) w.flat a 64
          let p : Pkt := ⟨s1.free, idx, bs, 0, [], 0, false⟩
          let s1 := { s1 with free := s1.free + 1 }
          if 8 ≤ p.op then bad s1 p.op 1
          else if p.badFormat then bad s1 p.op 2
          else if pktHeld s1 w h p then modQueue s1 dev q fun h => { h with st := .waiting, held := some p }
          else startPkt s1 dev q h p
    | none => s)

/-- The condition of a held packet becomes true: it starts (R296). -/
def execHoldEnds (dev q : Nat) (s : State) : Host.Outcome State Fault Refusal :=
  .next (match hostqOf s dev q with
    | some h =>
      match h.held with
      | some p => if h.st ≠ .waiting || pktHeld s (h.who dev) h p then s else startPkt s dev q h p
      | none => s
    | none => s)

/-! ## Completion (R301) -/

/-- Whether a started packet can complete now. (DEDUCED: log 48.) -/
def pktReady (s : State) (dev q : Nat) (h : HostQ) (p : Pkt) : Bool :=
  if p.status = 0x11 ∨ p.status = 0x12 then true
  else match p.op with
  | 1 => !(s.launches.any fun l => l.queue = some (dev, q, p.id))
  | 5 => h.pkts.head?.any fun x => x.id = p.id
  | 6 => !(s.net.any fun m => m.sender = .packet dev q p.id)
  | 7 => allStopped s p.stops
  | _ => true

/-- A COPY packet writes up to `f` granules in order, until one meets a condition: the bytes written from the start, and whether one did. -/
def pktCopy (s : State) (w : Who) (p : Pkt) (ack : Nat) : Nat → State × Nat × Bool
  | 0 => (s, ack, false)
  | f + 1 =>
    if fieldAt p.bytes 40 8 ≤ ack then (s, ack, false)
    else
      let a := p.addr 24 + BitVec.ofNat 64 ack
      let b := p.addr 32 + BitVec.ofNat 64 ack
      let g := pathGranule s w.flat b
      let n := min (fieldAt p.bytes 40 8 - ack) (g - b.toNat % g)
      if (cpFault s w true .read a n).isSome || (cpFault s w true .write b n).isSome then (s, ack, true)
      else
        let (s1, bs) := engineRead s w.flat a n
        pktCopy (engineWrite s1 w.flat b bs) w p (ack + n) f

/-- What a packet does: the state, the bytes that its COPY has written, and its STATUS where it completes. A COPY goes on granule by granule, a free number of
them at a time; one whose pin is broken ends in FAULT (R224). (DEDUCED: log 102.) -/
def pktAct (s : State) (w : Who) (p : Pkt) : State × Nat × Option Nat :=
  if p.status ≠ 0 then (s, p.ack, some p.status)
  else if p.broken then (s, p.ack, some 0x12)
  else match p.op with
  | 3 =>
    let a := p.addr 24
    let v := fieldAt p.bytes 32 8
    let add : Bool := fieldAt p.bytes 40 1 = 1
    if (cpFault s w true (if add then .atomic else .write) a 8).isSome || (add && (isReplicated s w.flat a || !ownerDoes s w.flat a 0 8)) then
      (s, 0, some 0x12)
    else
      let s1 := releaseAt s w.flat 5
      if add then ((atomicAt s1 w.flat a 0 8 v 0).1, 0, some 0) else (engineWrite s1 w.flat a (bytesOf 8 v), 0, some 0)
  | 4 =>
    let (s1, ack, bad) := pktCopy { s with free := s.free + 1 } w p p.ack (1 + Config.nextGranule s.free % 8192)
    (s1, ack, if bad && ack = p.ack then some 0x12 else if fieldAt p.bytes 40 8 ≤ ack then some 0 else none)
  | 5 => (releaseAt s w.flat (fieldAt p.bytes 24 1), 0, some 0)
  | _ => (s, 0, some 0)

/-- A list with its first occurrence of an element replaced by a list. -/
def replaceFirst (ps : List Pkt) (p : Pkt) (qs : List Pkt) : List Pkt := ps.takeWhile (· ≠ p) ++ qs ++ (ps.dropWhile (· ≠ p)).drop 1

/-- The bytes of the chunk of at most 64 KiB at which a started COPY packet is at work (R224). -/
def Pkt.pinned (p : Pkt) : List (W64 × Nat) :=
  if p.op ≠ 4 ∨ p.status ≠ 0 ∨ p.broken ∨ fieldAt p.bytes 40 8 ≤ p.ack then []
  else
    let a := p.addr 24 + BitVec.ofNat 64 p.ack
    let b := p.addr 32 + BitVec.ofNat 64 p.ack
    let n := min (fieldAt p.bytes 40 8 - p.ack) (min (65536 - a.toNat % 65536) (65536 - b.toNat % 65536))
    [(a, n), (b, n)]

/-- A packet acts, and completes: STATUS goes into its ring slot, then SIGVAL to SIGADDR as a release store of scope sys. -/
def execPacketComplete (dev q idx : Nat) (s : State) : Host.Outcome State Fault Refusal :=
  .next (match hostqOf s dev q with
    | some h =>
      match h.pkts.find? fun p => p.idx = idx && pktReady s dev q h p with
      | some p =>
        let w := h.who dev
        match pktAct s w p with
        | (s1, ack, none) => modQueue s1 dev q fun h => { h with pkts := replaceFirst h.pkts p [{ p with ack }] }
        | (s1, _, some st) =>
          let s2 := modQueue s1 dev q fun h => { h with pkts := replaceFirst h.pkts p [] }
          let a := h.slot idx + 2
          let s3 := if (cpFault s2 w true .write a 1).isSome then s2 else engineWrite s2 w.flat a [BitVec.ofNat 8 st]
          let sig := p.addr 8
          if sig = 0 || (cpFault s3 w true .write sig 8).isSome then s3
          else engineWrite (releaseAt s3 w.flat 5) w.flat sig (bytesOf 8 (fieldAt p.bytes 16 8))
      | none => s
    | none => s)

/-- The queues of a destroyed context: STOPPED and unassigned, their packets at an end (R296). -/
def stopQueues (s : State) (c : Nat) : State :=
  let stopQ (h : HostQ) : HostQ := if h.ctx = some c then { h with ctx := none, st := .stopped, pkts := [], held := none } else h
  { s with devs := s.devs.map fun d => (d.1, { d.2 with hostqs := d.2.hostqs.map fun h => (h.1, stopQ h.2) }) }

/-! ## Who leads (R304) -/

/-- The leader renews by a CAS on the lease word; a leader whose CAS fails, or that is late, stands down. -/
def execLeaseRenew (dev : Nat) (die : Fin 4) (s : State) : Host.Outcome State Fault Refusal :=
  let d := s.dev dev
  .next (if d.leader ≠ some die.val then s
    else if leaseLapsed s dev ∨ bits d.lease 39 38 ≠ die.val then s.modDev dev fun d => { d with leader := none }
    else s.modDev dev fun d => { d with lease := leaseWord s (bits d.lease 63 40) die.val, renewed := s.ftime })

/-- A follower that finds the lease expired takes it, which puts a spare firmware core in place: the health record is written (R24, R509). -/
def execLeaseTakeover (dev : Nat) (die : Fin 4) (s : State) : Host.Outcome State Fault Refusal :=
  let d := s.dev dev
  let now := s.ftime / 65536 * 65536
  .next (if d.leader = some die.val ∨ d.boot = 0 ∨ ftimeBefore now (expiry d.lease) then s
    else writeHealth (s.modDev dev fun d =>
      { d with lease := leaseWord s (bits d.lease 63 40 + 1) die.val, leader := some die.val, renewed := s.ftime }) dev)

/-- A leader that has not renewed in time stands down. -/
def execLeaseLapse (dev : Nat) (s : State) : Host.Outcome State Fault Refusal :=
  .next (if (s.dev dev).leader.isSome && leaseLapsed s dev then s.modDev dev fun d => { d with leader := none } else s)

end Sys2Proof.Machine
end

