-- ==== Sys2Proof/Machine/Tree.lean ====
section
/-! DEFINITION. Carillon: regions, leaves and sums, draws, and the instructions of major 0x6E (R400 to R421). -/

namespace Sys2Proof.Machine

/-! ## Leaves and nodes (R400 to R402) -/

def leafCode (c : Cluster) (i : Nat) : Nat := (mfind c.leaves i).getD 0
def setLeaf (c : Cluster) (i v : Nat) : Cluster := { c with leaves := if v = 0 then mdel c.leaves i else mset c.leaves i v }

/-- An FP32 code widened to FP64 (R401). -/
def widen32 (code : Nat) : Nat := (encodeF fmt64 rcRNE (decodeF fmt32 code) 0).code

def addRne (a b : Nat) : Nat := (addF fmt64 rcRNE a b).code

/-- The FP64 value of the node whose subtree of 2^d leaves starts at a unit leaf. -/
def nodeAt (c : Cluster) (base : Nat) : Nat → Nat
  | 0 => widen32 (leafCode c base)
  | d + 1 => addRne (nodeAt c base d) (nodeAt c (base + 2 ^ d) d)

/-- Node k of a region, for 1 ≤ k < 2^(n+1). -/
def TreeRegion.node (r : TreeRegion) (c : Cluster) (k : Nat) : Nat :=
  let l := k.log2
  let d := r.log2n - l
  nodeAt c (r.lbase + (k - 2 ^ l) * 2 ^ d) d

/-- Whether a rate breaks R402: negative, NaN or infinite. -/
def badRate (code : Nat) : Bool :=
  match decodeF fmt32 code with
  | .fin neg m _ => neg && decide (m ≠ 0)
  | _ => true

/-- A rate as it is stored: −0 is +0. -/
def storedRate (code : Nat) : Nat := if code = 2 ^ 31 then 0 else code

/-! ## Traps (R414, R415) -/

def treeTrap (obj reason g : Nat) : Stop := .trap ⟨0x14, 0, BitVec.ofNat 64 (obj % 2 ^ 32 * 2 ^ 32 + reason * 256 + g), none⟩
def rateTrap (code leaf g : Nat) : Stop := .trap ⟨0x07, 0, BitVec.ofNat 64 (code % 2 ^ 32 * 2 ^ 32 + leaf % 65536 * 65536 + g), none⟩

/-! ## Grants and regions (R403, R404) -/

/-- The grant of a context in a cluster: region mask, first leaf, leaves. -/
def egrantOf (s : State) (c cl : Nat) : W64 × Nat × Nat :=
  match (s.ctx c).egrants.find? (·.1 = cl) with
  | some g => g.2
  | none => (0, 0, 0)

/-- The cluster of the acting partition. -/
def myCl : M Nat := do
  let k ← me
  pure (clOf (flatOf k))

/-- NOTOWNED (R415). -/
def ownedRegion (g : Nat) : M Unit := do
  let cl ← myCl
  let p ← myPart
  let s ← get
  if !(egrantOf s p.ctx cl).1.getLsbD g then stop (treeTrap 0 0x01 g)

/-- NOTOWNED, then INACTIVE; then, in a task that names a region not its own, TASK with reason REGION (R416, R424). -/
def regionM (g : Nat) : M TreeRegion := do
  ownedRegion g
  let cl ← myCl
  let k ← me
  let s ← get
  match mfind (s.cluster cl).regions g with
  | none => stop (treeTrap 0 0x02 g)
  | some r =>
    match taskOn s k with
    | some t => if t.region = r.regid then pure r else stop (.trap ⟨0x15, 0, 0x400, none⟩)
    | none => pure r

/-- SPECULATIVE, for the members that a task may not run (R412): after INACTIVE, before REGION. -/
def notSpeculative (g : Nat) : M Unit := do
  let k ← me
  let cl ← myCl
  let s ← get
  if (taskOn s k).isSome && (mfind (s.cluster cl).regions g).isSome then stop (treeTrap 0 0x06 g)

def setRegion (cl g : Nat) (r : TreeRegion) : M Unit := modify fun s => s.modCluster cl fun c => { c with regions := mset c.regions g r }

/-- Journal entries of a task that is not irrevocable (R412, R431); the newest stands first. False where the journal of the cluster has no room. -/
def journalM (es : List JEntry) : M Bool := do
  let k ← me
  let cl ← myCl
  let s ← get
  match taskOn s k with
  | none => pure true
  | some t =>
    if irrevocable s t then pure true
    else if 4096 < (s.tasks.filter (·.cl = cl)).foldl (fun n t => n + t.journal.length) es.length then pure false
    else
      modify fun s => modTask s t.id fun t => { t with journal := es.reverse ++ t.journal }
      pure true

/-- The region number of an operand. -/
def regionNo (p : Part) (o : OpE) : Nat := (p.src (o.lit.getD 0) o.s1).toNat % 64

/-! ## ETINIT (R417) -/

/-- DEDUCED: log 53. -/
def execEtinit (h : Hd) (o : OpE) (s : State) : Host.Outcome State Fault Refusal :=
  issue { h, reads := rds [o.s1, o.s2] } (fun _ => do
    let p ← myPart
    let cl ← myCl
    let g := regionNo p o
    let w := (p.src (o.lit.getD 0) o.s2).toNat
    let n := w / 65536 % 32
    let base := w / 2 ^ 32 % 65536
    if w / 2 ^ 48 ≠ 0 ∨ w / 2 ^ 21 % 2 ^ 11 ≠ 0 ∨ 16 < n ∨ base % 2 ^ n ≠ 0 ∨ 65536 < base + 2 ^ n then illegalValue
    ownedRegion g
    let k ← me
    let s ← get
    if (taskOn s k).isSome then stop (treeTrap 0 0x06 g)
    let (mask, first, cnt) := egrantOf s p.ctx cl
    if base < first ∨ first + cnt < base + 2 ^ n then stop (treeTrap base 0x03 g)
    let c := s.cluster cl
    if c.regions.any fun x => x.1 ≠ g && mask.getLsbD x.1 && decide (x.2.lbase < base + 2 ^ n) && decide (base < x.2.lbase + 2 ^ x.2.log2n) then
      stop (treeTrap base 0x04 g)
    modify fun s => s.modCluster cl fun c =>
      { c with leaves := c.leaves.filter fun l => !(decide (base ≤ l.1) && decide (l.1 < base + 2 ^ n)) }
    setRegion cl g { lbase := base, log2n := n, regid := w % 65536, clk := 0, ec := 0, seed := 0, table := false, tbase := 0, tcount := 0, tec0 := 0 }
    pure .done) s

def execEtinitFree (h : Hd) (o : OpE) (s : State) : Host.Outcome State Fault Refusal :=
  issue { h, reads := rds [o.s1] } (fun _ => do
    let p ← myPart
    let cl ← myCl
    let g := regionNo p o
    ownedRegion g
    let k ← me
    let s ← get
    if (taskOn s k).isSome then stop (treeTrap 0 0x06 g)
    modify fun s => s.modCluster cl fun c =>
      match mfind c.regions g with
      | none => c
      | some r =>
        { c with regions := mdel c.regions g
                 leaves := c.leaves.filter fun l => !(decide (r.lbase ≤ l.1) && decide (l.1 < r.lbase + 2 ^ r.log2n)) }
    pure .done) s

/-! ## Updates and reads (R418, R419) -/

/-- The local leaf of an operand: RANGE at or beyond the region's end. -/
def leafM (r : TreeRegion) (g : Nat) (v : W64) : M Nat := do
  if 2 ^ r.log2n ≤ v.toNat then stop (treeTrap v.toNat 0x03 g)
  pure v.toNat

/-- Write leaves of a region: local index and new code; false where the journal has no room. -/
def writeLeaves (r : TreeRegion) (ls : List (Nat × Nat)) : M Bool := do
  let cl ← myCl
  let s ← get
  let c := s.cluster cl
  if ← journalM (ls.map fun l => .leaf (r.lbase + l.1) (leafCode c (r.lbase + l.1))) then
    modify fun s => s.modCluster cl fun c => ls.foldl (fun c l => setLeaf c (r.lbase + l.1) (storedRate l.2)) c
    pure true
  else pure false

def execEloadv (h : Hd) (o : OpE) (s : State) : Host.Outcome State Fault Refusal :=
  issue { h, reads := rds [o.s1, o.s2, o.s3] } (fun _ => do
    let p ← myPart
    let g := regionNo p o
    let r ← regionM g
    let i ← leafM r g (p.src (o.lit.getD 0) o.s2)
    let v := p.vreg o.s3
    let ls := (List.range (min 64 (2 ^ r.log2n - i))).map fun j => (i + j, elemOf v 32 j)
    match ls.find? fun l => badRate l.2 with
    | some l => stop (rateTrap l.2 l.1 g)
    | none => if ← writeLeaves r ls then pure .done else pure .wait) s

/-- ESET and EADD: the new code from the old one and the operand. -/
def leafUpdate (h : Hd) (o : OpE) (new : Nat → Nat → Nat) (old : Bool) (s : State) : Host.Outcome State Fault Refusal :=
  issue { h, reads := rds [o.s1, o.s2, o.s3], writes := wr o.d none } (fun _ => do
    let p ← myPart
    let cl ← myCl
    let g := regionNo p o
    let r ← regionM g
    let i ← leafM r g (p.src (o.lit.getD 0) o.s2)
    let s ← get
    let was := leafCode (s.cluster cl) (r.lbase + i)
    let now := new was (p.srcT (.flt fmt32) o.s3)
    if badRate now then stop (rateTrap now i g)
    if !(← writeLeaves r [(i, now)]) then return .wait
    putM o.d (BitVec.ofNat 64 (if old then was else storedRate now))
    pure .done) s

def execEset (h : Hd) (o : OpE) (s : State) : Host.Outcome State Fault Refusal := leafUpdate h o (fun _ x => x) true s
def execEadd (h : Hd) (o : OpE) (s : State) : Host.Outcome State Fault Refusal :=
  leafUpdate h o (fun was x => (addF fmt32 rcRNE was x).code) false s

def execEget (h : Hd) (o : OpE) (s : State) : Host.Outcome State Fault Refusal :=
  issue { h, reads := rds [o.s1, o.s2], writes := wr o.d none } (fun _ => do
    let p ← myPart
    let cl ← myCl
    let g := regionNo p o
    let r ← regionM g
    let i ← leafM r g (p.src (o.lit.getD 0) o.s2)
    let s ← get
    putM o.d (BitVec.ofNat 64 (leafCode (s.cluster cl) (r.lbase + i)))
    pure .done) s

def execEsum (h : Hd) (o : OpE) (s : State) : Host.Outcome State Fault Refusal :=
  issue { h, reads := rds [o.s1, o.s2], writes := wr o.d none } (fun _ => do
    let p ← myPart
    let cl ← myCl
    let g := regionNo p o
    let r ← regionM g
    let k := (p.src (o.lit.getD 0) o.s2).toNat
    if k = 0 ∨ 2 ^ (r.log2n + 1) ≤ k then stop (treeTrap k 0x03 g)
    let s ← get
    putM o.d (BitVec.ofNat 64 (r.node (s.cluster cl) k))
    pure .done) s

/-! ## The draw (R407 to R409) -/

/-- The words of a draw in Philox mode. -/
def philoxWords (r : TreeRegion) : Nat × Nat :=
  let w := philox r.seed (r.ec.toNat % 2 ^ 32) (r.ec.toNat / 2 ^ 32) r.regid 1
  (w.1, w.2.1)

/-- Half a unit above a word, over 2^32, as an FP64 code. -/
def uniform (w : Nat) : Nat := (encodeF fmt64 rcRNE (.fin false (2 * w + 1) (-33)) 0).code

/-- Whether an FP64 code is below another (both finite and positive or zero). -/
def lt64 (a b : Nat) : Bool := cmpV (decodeF fmt64 a) (decodeF fmt64 b) = some .lt

/-- The descent from a node: levels below it, its first leaf, and t. -/
def descend (c : Cluster) : Nat → Nat → Nat → Nat
  | 0, base, _ => base
  | d + 1, base, t =>
    let l := nodeAt c base d
    if lt64 t l then descend c d base t else descend c d (base + 2 ^ d) (subF fmt64 rcRNE t l).code

/-- The greatest nonzero leaf below a unit leaf. -/
def lastNonzero (c : Cluster) : Nat → Nat
  | 0 => 0
  | i + 1 => if leafCode c i ≠ 0 then i else lastNonzero c i

/-- The leaf drawn and τ from the words of a draw, for a region whose root is nonzero. -/
def TreeRegion.draw (r : TreeRegion) (c : Cluster) (wa wb : Nat) : Nat × Nat :=
  let root := r.node c 1
  let e := negLn64 (2 * wa + 1) 33
  let tau := (divF fmt64 rcRNE (decodeF fmt64 e) (decodeF fmt64 root)).code
  let i := descend c r.log2n r.lbase (mulF fmt64 rcRNE (uniform wb) root).code
  let j := if leafCode c i = 0 then lastNonzero c i else i
  (j - r.lbase, tau)

/-- The destination of τ (R416). -/
def tauDst : Src → Dst
  | .s i => .s i
  | _ => .none

/-- DEDUCED: log 53. -/
def execEnext (h : Hd) (o : OpE) (s : State) : Host.Outcome State Fault Refusal :=
  issue { h, reads := rds [o.s1], writes := wr o.d none ++ wr (tauDst o.s2) none } (fun _ => do
    let k ← me
    let p ← myPart
    let cl ← myCl
    let g := regionNo p o
    let r ← regionM g
    let s ← get
    let c := s.cluster cl
    let hold := o.mod.getLsbD 1
    if hold && p.damask.credits[7] = 0 then return .wait
    if r.node c 1 ≠ 0 && r.table && decide (r.tcount ≤ 2 * (r.ec - r.tec0).toNat + 1) then stop (treeTrap r.ec.toNat 0x05 g)
    let use : M Unit :=
      if hold then setMine fun p => { p with damask := { p.damask with credits := p.damask.credits.set 7 (p.damask.credits[7] - 1) } } else pure ()
    if r.node c 1 = 0 then
      use
      putM o.d ones64
      putM (tauDst o.s2) 0x7FF0000000000000
      modify fun s => pulse s k 16
      pure .done
    else
      let a := r.tbase + BitVec.ofNat 64 (8 * (r.ec - r.tec0).toNat)
      if r.table then checkM .read [(a, 8)]
      let ws ← if r.table then readM [(a, 8)] else pure (some [])
      match ws with
      | none => pure .wait
      | some bs =>
        let (wa, wb) := if r.table then (fieldAt bs.flatten 0 4, fieldAt bs.flatten 4 4) else philoxWords r
        let (i, tau) := r.draw c wa wb
        if !(← journalM [.clk g r.clk, .ec g r.ec]) then return .wait
        use
        let clk := if o.mod.getLsbD 0 then BitVec.ofNat 64 (addRne r.clk.toNat tau) else r.clk
        setRegion cl g { r with ec := r.ec + 1, clk }
        setMine fun p => p.count 7 1
        putM o.d (BitVec.ofNat 64 i)
        putM (tauDst o.s2) (BitVec.ofNat 64 tau)
        modify fun s => pulse s k 16
        pure .done) s

/-! ## ESEED, ETAB and ECLK (R421) -/

def execEseed (h : Hd) (o : OpE) (s : State) : Host.Outcome State Fault Refusal :=
  issue { h, reads := rds [o.s1, o.s2, o.s3], writes := wr o.d none } (fun _ => do
    let p ← myPart
    let cl ← myCl
    let g := regionNo p o
    ownedRegion g
    notSpeculative g
    let r ← regionM g
    setRegion cl g { r with seed := p.src (o.lit.getD 0) o.s2, ec := p.src (o.lit.getD 0) o.s3, table := false }
    putM o.d r.ec
    pure .done) s

def execEtab (h : Hd) (o : OpE) (s : State) : Host.Outcome State Fault Refusal :=
  issue { h, reads := rds [o.s1, o.s2, o.s3] } (fun _ => do
    let p ← myPart
    let cl ← myCl
    let g := regionNo p o
    let a := p.src (o.lit.getD 0) o.s2
    let n := (p.src (o.lit.getD 0) o.s3).toNat
    if 2 ^ 32 ≤ n ∨ n < 2 then illegalValue
    if a.toNat % 8 ≠ 0 then trapM 0x04 a
    match regionOf a with
    | .nonCanon => stop (stopOf .read ⟨3, 0x01, a, none, false⟩)
    | .window => stop (stopOf .read ⟨3, 0x02, a, none, false⟩)
    | _ => pure ()
    ownedRegion g
    notSpeculative g
    let r ← regionM g
    setRegion cl g { r with tbase := a, tcount := n, tec0 := r.ec, table := true }
    pure .done) s

def execEclk (h : Hd) (o : OpE) (s : State) : Host.Outcome State Fault Refusal :=
  issue { h, reads := rds [o.s1], writes := wr o.d none } (fun _ => do
    let p ← myPart
    let r ← regionM (regionNo p o)
    putM o.d r.clk
    pure .done) s

def execEclkSet (h : Hd) (o : OpE) (s : State) : Host.Outcome State Fault Refusal :=
  issue { h, reads := rds [o.s1, o.s2], writes := wr o.d none } (fun _ => do
    let p ← myPart
    let cl ← myCl
    let g := regionNo p o
    let r ← regionM g
    let v := match o.s2 with
      | .slot => widen32 (o.lit.getD 0).toNat
      | x => p.srcT (.flt fmt64) x
    if (decodeF fmt64 v).isNan then stop (treeTrap 0 0x07 g)
    if !(← journalM [.clk g r.clk]) then return .wait
    setRegion cl g { r with clk := BitVec.ofNat 64 v }
    putM o.d r.clk
    pure .done) s

end Sys2Proof.Machine
end

