-- ==== Sys2Proof/Machine/Contexts.lean ====
section
/-! DEFINITION. The life of parts and contexts (R144 to R161): admission, pre-empt, resume, spill, restore, halt, live dump, quiesce, checkpoint,
destroy, and the creation of a context. -/

namespace Sys2Proof.Machine

/-! ## Pre-emption (R147, R148) -/

/-- A part told to take CHECKPOINT counts as CHECKPOINTING from then on, though it stands before the boundary where it takes it (R146, R159). -/
def Part.quiescing (p : Part) : Bool := p.quiesce.isSome && !p.inChk

/-- A part is pre-empted: issue stops, its tokens return. A HALTED part is to return PREEMPTED, a handler of CHECKPOINT is not pre-empted. -/
def preemptPart (s : State) (k : Nat) : State :=
  match (s.part k).st with
  | .resident => if (s.part k).quiescing then s else unselect (returnTokens (s.modPart k fun p => { p with st := .preempted, blocked := none }) k false) k
  | .halted => s.modPart k fun p => { p with prev := if p.prev = .resident then .preempted else p.prev }
  | _ => s

def resumePart (s : State) (k : Nat) : State :=
  match (s.part k).st with
  | .preempted => if (s.part k).spillDue then s else sendRequests (s.modPart k fun p => ({ p with st := .resident }).goto p.pc s.steps) k
  | .halted => s.modPart k fun p => { p with prev := if p.prev = .preempted && !p.spillDue then .resident else p.prev }
  | _ => s

/-! ## Spill (R150) -/

/-- A channel has nothing in flight: what it holds waits for a start pulse. -/
def Chan.still (c : Chan) : Bool :=
  match c.reqs with
  | [] => true
  | r :: _ => r.st = .held

/-- The part's matrix operations in the array have retired, and none of its planes loads. -/
def matrixStill (s : State) (k : Nat) : Bool :=
  let flat := flatOf k
  let c := mcore s flat
  let u := s.mu (muOf flat)
  (c.holder ≠ some k || (!(c.queue.any fun o => o.state = .streaming || o.state = .overtaken) && !(u.drain.any fun x => x.1 = flat))) &&
    !(u.current.any fun l => l.k = k)

/-- What runs for a part has come to rest, so that the part can be saved: copies in flight, earlier stores, matrix operations in the array. (DEDUCED: log 154.) -/
def partStill (s : State) (k : Nat) : Bool :=
  let p := s.part k
  (List.finRange 4).all (fun c => (p.chans[c]).still) && storesDone s k && matrixStill s k

/-- A read stream without its buffer, to refetch from POS; the index streams below an indexed one go back with it (R230). -/
def Part.streamsSaved (p : Part) : Part :=
  (List.finRange 8).foldl (fun (p : Part) (r : Fin 8) =>
    let t := p.streams[r]
    if t.state = .unbound || t.write || t.captured then p
    else p.replace 8 r (Stream.settle { t with slots := [], eng := t.pos, ixs := [], got := if t.eng = t.pos then t.got else [] })) p

/-- Save a part whose partition is given up: its task is aborted, its waits but those for events are withdrawn, its stash is written back, its matrix state,
its place in the load queue and its mailbox entries go with it, and its PLB entries are discarded. The partition is then free. A handler
that runs in partition D goes on, and its queue takes what it has room for now. (DEDUCED: log 177.) -/
def capture (s : State) (k : Nat) : State × Part :=
  let flat := flatOf k
  let s0 := abortRunning (returnTokens s k true) k
  let wait (s : State) : State := match (s.part k).sleep with
    | .event _ _ _ _ _ | .wfe _ _ | .task _ | .barrier _ _ _ => s
    | _ => withdrawWait s k
  let s1 := requeue (stashFlushAll (wait (releaseFollowers (leaveGroup (dropDrain s0 k) k) k)) k) flat (s.part k).ctx
  let p := s1.part k
  let c := p.ctx
  let mine := (mcore s1 flat).holder = some k
  let saveOp (o : MOp) : MOp := { o with since := none }
  let saved : Option MCore := if mine then some { mcore s1 flat with holder := none, queue := (mcore s1 flat).queue.map saveOp } else p.msaved
  let dom := (s1.ctx c).domain
  let p1 : Part := { p.undraw.streamsSaved with
    msaved := saved, lsaved := p.lsaved ++ (s1.mu (muOf flat)).loads.filter (fun l => l.k = k)
    mbox := p.mbox ++ (s1.core flat).mailbox.filter (·.ctx = c), fmode := .free, twill := [], fwdNow := none, fbuf := [], freq := [], blocked := none, stall := 0, spillDue := false }
  let s2 := (endClaim s1 k).modMu (muOf flat) fun u => { u with loads := u.loads.filter fun l => l.k ≠ k }
  let s3 := s2.modCore flat fun x => { x with mailbox := x.mailbox.filter (·.ctx ≠ c), plb := x.plb.filter (·.dom ≠ dom) }
  (drainInboxes (unselect (settleMu (s3.setPart k .reset) (muOf flat)) k) flat, p1)

/-- A part whose spill is due is saved once it is PREEMPTED or HALTED and has come to rest. (DEDUCED: log 154, 155.) -/
def spillOn (s : State) (k : Nat) : State :=
  let p := s.part k
  if p.spillDue && (p.st = .preempted || p.st = .halted) && partStill s k then
    let (s1, q) := capture s k
    { s1 with away := s1.away ++ [(flatOf k, { q with st := .spilled })], epoch := s1.epoch + 1 }
  else s

/-- SPILL: a RESIDENT part is pre-empted first, a HALTED one is saved as it stands, and the spill of a CHECKPOINTING one waits for its CHKPT (R146, R150). -/
def spillPart (s : State) (k : Nat) : State :=
  match (s.part k).st with
  | .checkpointing => s.modPart k fun p => { p with spillLater := true }
  | .resident | .preempted | .halted =>
    if (s.part k).st = .resident && (s.part k).quiescing then s.modPart k fun p => { p with spillLater := true }
    else spillOn ((preemptDue s k).modPart k fun p => { p with spillDue := true }) k
  | _ => s
where
  preemptDue (s : State) (k : Nat) : State := if (s.part k).st = .resident then preemptPart s k else s

/-! ## Restore (R151) -/

/-- Place a saved part in a partition in a state: it reclaims the matrix resources where no part holds them, its mailbox entries return, its requests are
sent, and what waited for it is delivered. -/
def placePart (s : State) (k : Nat) (p : Part) (st : PState) : State :=
  let flat := flatOf k
  let s1 := (s.setPart k (({ p with st, mbox := [] }).goto p.pc s.steps)).modCore flat fun c => { c with mailbox := p.mbox ++ c.mailbox }
  let s2 := if p.msaved.isSome && (mcore s1 flat).holder.isNone then claimCore s1 k else s1
  taborRefill (clOf flat) 256 (drainInbox (tablaLive (if st = .preempted then s2 else sendRequests s2 k) flat p.ctx) flat p.ctx)

/-- The inbox of a context holds something for a core. -/
def inboxWaits (s : State) (flat c : Nat) : Bool := (s.ctx c).inbox.any (·.dest = flat)

/-- A SPILLED part may be restored: no other one on its core is marked runnable, or it is itself (R354). -/
def runnable (s : State) (flat c : Nat) : Bool :=
  inboxWaits s flat c || !(s.away.any fun a => a.1 = flat && a.2.st = .spilled && inboxWaits s flat a.2.ctx)

/-- Restore the SPILLED part of a context on a core, where a partition and room for its mailbox entries are free: RESIDENT, or still HALTED where it has come
to its CHKPT and waits for the fabric manager (R160). (DEDUCED: log 156, 158.) -/
def restorePart (s : State) (flat c : Nat) : State :=
  match s.away.find? (fun a => a.1 = flat && a.2.ctx = c && a.2.st = .spilled), freePartition s flat with
  | some a, some k =>
    if 64 < mailboxUsed s flat + a.2.mbox.length || !runnable s flat c || (s.placed flat c).isSome then s
    else placePart { s with away := s.away.erase a } k a.2 (if a.2.chkDone then .halted else .resident)
  | _, _ => s

/-- The part that gives up its partition (R149): the lowest launch priority, and among equals the least recent issue. (DEDUCED: log 157.) Of two that have never
issued it is the lower-lettered. (DESIGN CHOICE: log 193.) -/
def victim (s : State) (flat : Nat) : Option Nat :=
  let ks := ([0, 1, 2].map fun q => flat * 4 + q).filter fun k =>
    (s.part k).st = .preempted || ((s.part k).st = .resident && !(s.part k).quiescing)
  ks.foldl (fun b k =>
    match b with
    | none => some k
    | some x =>
      let p := s.part k
      let q := s.part x
      if p.prio < q.prio || (p.prio = q.prio && decide (p.lastIssue < q.lastIssue)) then some k else some x) none

/-- The CREATED part of a context on a core that is admitted next: that of the launch accepted first (R516). -/
def createdOf (s : State) (flat c : Nat) : Option (Launch × Nat) :=
  (s.away.filter fun a => a.1 = flat && a.2.ctx = c && a.2.st = .created).foldl (fun b a =>
    match b, a.2.launch.bind (launchOf s) with
    | none, some l => some (l, a.2.unitIdx.toNat)
    | some x, some l => if l.id < x.1.id then some (l, a.2.unitIdx.toNat) else b
    | _, none => b) none

/-- What ADMIT places on a core for a context: its SPILLED part, or the CREATED part that is next, where no other part of the context is on the core (R516) and
the core is not withdrawn (R273). -/
inductive Admit where
  | restore
  | create (l : Launch) (unit : Nat)
  | nothing
  deriving DecidableEq, Repr

def admitOf (s : State) (flat c : Nat) : Admit :=
  if s.away.any fun a => a.1 = flat && a.2.ctx = c && a.2.st = .spilled then (if runnable s flat c then .restore else .nothing)
  else if partPresent s flat c then .nothing
  else match createdOf s flat c with
  | some (l, unit) => if coreGone s (l.flag 4) flat then .nothing else .create l unit
  | none => .nothing

/-- A firmware command to a core takes a leader (R303). -/
def ledAt (s : State) (flat : Nat) : Bool := led s (ordOf flat)

/-- ADMIT: a CREATED or a SPILLED part takes the lowest-lettered free partition. With none free, firmware spills a victim first; the admission waits until
that has ended. (DEDUCED: log 157.) -/
def execAdmitPart (flat ctx : Nat) (s : State) : Host.Outcome State Fault Refusal :=
  let room : State := if (freePartition s flat).isSome then s else (victim s flat).elim s (spillPart s)
  .next (if !ledAt s flat then s
    else match admitOf s flat ctx with
    | .nothing => s
    | .restore => restorePart room flat ctx
    | .create l unit => if (freePartition room flat).isNone then room else wakeUnit room l unit flat)

def execPreempt (k : Nat) (s : State) : Host.Outcome State Fault Refusal :=
  .next (if ledAt s (flatOf k) && idxOf k ≠ 3 then preemptPart s k else s)

def execResume (k : Nat) (s : State) : Host.Outcome State Fault Refusal :=
  .next (if ledAt s (flatOf k) && idxOf k ≠ 3 then resumePart s k else s)

def execSpill (k : Nat) (s : State) : Host.Outcome State Fault Refusal :=
  .next (if ledAt s (flatOf k) && idxOf k ≠ 3 then spillPart s k else s)

def execRestore (flat ctx : Nat) (s : State) : Host.Outcome State Fault Refusal :=
  .next (if ledAt s flat then restorePart s flat ctx else s)

def execHalt (k : Nat) (s : State) : Host.Outcome State Fault Refusal :=
  .next (if ledAt s (flatOf k) && idxOf k ≠ 3 then haltPart s k else s)

/-- DEDUCED: log 158. -/
def execRelease (k : Nat) (s : State) : Host.Outcome State Fault Refusal :=
  .next (if ledAt s (flatOf k) && idxOf k ≠ 3 then releasePart s k else s)

/-- The placed parts of a context. -/
def partsOfCtx (s : State) (c : Nat) : List Nat := (s.parts.filter fun kp => kp.2.ctx = c && idxOf kp.1 ≠ 3 && kp.2.st ≠ .free).map (·.1)

/-- LIVE_DUMP (R161): every part is halted, read and released; a part that was HALTED before stays so, and one that is EVICTING is halted and released at
its destination, before its first instruction there. (DEDUCED: log 159.) -/
def execLiveDump (ctx : Nat) (s : State) : Host.Outcome State Fault Refusal :=
  .next ((partsOfCtx s ctx).foldl (fun s k =>
    if ledAt s (flatOf k) && (s.part k).st ≠ .halted && (s.part k).st ≠ .evicting then releasePart (haltPart s k) k else s) s)

/-! ## Quiesce and checkpoint (R159, R160) -/

/-- QUIESCE, with the checkpoint limit where the fabric manager sets one (R159, R160). -/
def execQuiesce (q : QuiesceCmd) (s : State) : Host.Outcome State Fault Refusal :=
  .next { quiesceAll s q.reason with chkLimit := q.limit.getD s.chkLimit }

/-- CHECKPOINT: a part that waits within an instruction takes it now, and the instruction issues again; a wait that has ended completes first. (DEDUCED: log 151.) -/
def execCheckpoint (k : Nat) (s : State) : Host.Outcome State Fault Refusal :=
  let p := s.part k
  .next (match p.quiesce with
    | some r =>
      if p.st ≠ .resident || p.inChk || idxOf k = 3 || (s.cluster (clOf (flatOf k))).halted then s
      else
        let s1 := withdrawWait s k
        if (s1.part k).sleep = .awake then enterCheckpoint s1 k r.val else s
    | none => s)

/-- A part that has come to its CHKPT continues after it when the quiesce is withdrawn. -/
def Part.continues (p : Part) : Part :=
  { p.put p.chkDst 1 with inChk := false, chkDone := false, chkDst := .none, prev := .resident }

/-- The partition is freed of a part: what it waits for, holds and has requested is withdrawn, its tasks are discarded, its stash is written back, its claim
ends and its mailbox entries go. (DEDUCED: log 72.) -/
def destroyPart (s : State) (k : Nat) : State :=
  let flat := flatOf k
  let c := (s.part k).ctx
  let s0 := discardTasks (withdrawWait (releaseFollowers (leaveGroup s k) k) k) flat c
  let s1 := withdrawColls (withdrawXfers (withdrawHeld (s0.modPart k Part.undraw) k) k true) flat c true
  let s2 := stashFlushAll s1 k
  let mine := (mcore s2 flat).holder = some k
  let drop (u : MUnit) : MUnit :=
    let u1 := { u with loads := u.loads.filter (fun l => l.k ≠ k), drain := if mine then u.drain.filter (·.1 ≠ flat) else u.drain }
    if u.current.any fun l => l.k = k then { u1 with current := none, shadow := .reset } else u1
  let s3 := (endClaim s2 k).modMu (muOf flat) drop
  let s4 := (partGone s3 flat c).modCore flat fun x => { x with mailbox := x.mailbox.filter (·.ctx ≠ c) }
  unselect (settleMu (s4.modPart k Part.freed) (muOf flat)) k

/-- A part that holds no partition is destroyed: a CREATED one's descriptor, a SPILLED one's frame. -/
def destroyAway (s : State) (a : Nat × Part) : State :=
  let s1 : State := { s with away := s.away.erase a }
  if a.2.st = .created then s1
  else (partGone (withdrawColls (discardTasks s1 a.1 a.2.ctx) a.1 a.2.ctx true) a.1 a.2.ctx).modCore a.1 fun x =>
    { x with mailbox := x.mailbox.filter (·.ctx ≠ a.2.ctx) }

/-- The links of every module are released (R489). -/
def linksReleased (s : State) : State := { s with devs := s.devs.map fun d => (d.1, ({ d.2 with links := d.2.links.map Link.release } : Dev).routed) }

/-- The parts that have come to their CHKPT, or failed to, are released (R160): DESTROYED for a rebuild, or RESIDENT. (DEDUCED: log 153.) -/
def releaseEnded (s : State) (rebuild : Bool) : State :=
  let ended (p : Part) : Bool := p.st = .halted && (p.chkDone || p.prev = .checkpointing)
  let ks := (s.parts.filter fun kp => idxOf kp.1 ≠ 3 && ended kp.2).map (·.1)
  let away := s.away.filter fun a => a.2.st = .spilled && a.2.chkDone
  if rebuild then away.foldl destroyAway (ks.foldl destroyPart s)
  else
    let s1 := ks.foldl (fun s k => releasePart (if (s.part k).chkDone then s.modPart k Part.continues else s) k) s
    let awake (p : Part) : Part := if p.st = .spilled && p.chkDone then p.continues else p
    { s1 with away := s1.away.map fun a => (a.1, awake a.2) }

/-- The fabric manager ends a quiesce: checkpointed parts are released, the links too, and the groups are ACTIVE again (R453). A part that comes to its CHKPT
only afterwards is released by a further command. -/
def execQuiesceWithdraw (rebuild : Bool) (s : State) : Host.Outcome State Fault Refusal :=
  let active (g : GEnt) : GEnt := if g.broken then { g with broken := false, seq := 0 } else g
  let act (d : Dev) : Dev := if rebuild then d else { d with groups := d.groups.map fun g => (g.1, active g.2) }
  let s1 := releaseEnded s rebuild
  .next (if s.quiesced then linksReleased { s1 with quiesced := false, devs := s1.devs.map fun d => (d.1, act d.2) } else s1)

/-- A handler that has not issued CHKPT within the limit is halted, and its part reported as failed. -/
def execCheckpointLimit (k : Nat) (s : State) : Host.Outcome State Fault Refusal :=
  .next (if (s.part k).st = .checkpointing && idxOf k ≠ 3 && decide (s.chkLimit ≤ since s (s.part k).chkAt) then { haltPart s k with chkFailed := s.chkFailed ++ [k] } else s)

/-! ## Destroy (R146) -/

/-- What a context owns besides its parts: events, barriers, regions, slots, queues, groups, launches, tasks, messages. An MCDRAIN that waits for a slot of it
returns 0 (R380). (DEDUCED: log 72.) -/
def ctxGone (s : State) (c : Nat) : State :=
  let s0 := ((s.groups.filter (·.ctx = c)).map (·.gid)).foldl destroyGroup (stopQueues s c)
  let gr := (s0.ctx c).egrants
  let cluster (x : Nat × Cluster) : Nat × Cluster :=
    let g := (gr.find? fun g => g.1 = x.1).getD (x.1, 0, 0, 0)
    (x.1, { x.2 with
      events := evDropCtx x.2.events c, bars := x.2.bars.filter (·.2.owner ≠ c), hb := x.2.hb.filter (·.2.ctx ≠ c)
      regions := x.2.regions.filter fun r => !g.2.1.getLsbD r.1
      leaves := x.2.leaves.filter fun l => !(decide (g.2.2.1 ≤ l.1) && decide (l.1 < g.2.2.1 + g.2.2.2)) })
  let core (x : Nat × Core) : Nat × Core := (x.1, { x.2 with mailbox := x.2.mailbox.filter (·.ctx ≠ c) })
  let drain (x : Nat × Part) : Nat × Part := (x.1, { x.2 with hbWait := x.2.hbWait.map fun w =>
    (w.1, w.2 || (mfind (s0.cluster (clOf (flatOf x.1))).hb w.1).any (·.ctx = c)) })
  { s0 with
    parts := s0.parts.map drain
    clusters := s0.clusters.map cluster
    cores := s0.cores.map core
    dies := s0.dies.map fun x => (x.1, { x.2 with bars := x.2.bars.filter (·.2.owner ≠ c), tabla := x.2.tabla.filter (·.ctx ≠ c) })
    devs := s0.devs.map fun x => (x.1, { x.2 with bars := x.2.bars.filter (·.2.owner ≠ c), wqs := x.2.wqs.filter (·.2.ctx ≠ c) })
    launches := s0.launches.filter (·.ctx ≠ c), adds := s0.adds.filter (·.ctx ≠ c), tasks := s0.tasks.filter (·.msg.ctx ≠ c)
    ctxs := mdel s0.ctxs c }

/-- A handler that runs for a destroyed context is abandoned. -/
def dropHandlers (s : State) (c : Nat) : State :=
  ((s.cores.filter fun x => x.2.dmsg.any fun m => m.ctx = c).map (·.1)).foldl (fun s f => unselect (dIdle s f) (f * 4 + 3)) s

/-- DESTROY: the part of a context on one core, or the whole context. -/
def execDestroy (ctx : Nat) (flat : Option Nat) (s : State) : Host.Outcome State Fault Refusal :=
  let at_ (f : Nat) : Bool := flat.all (· = f)
  let s0 := if flat.isNone then ((s.groups.filter (·.ctx = ctx)).map (·.gid)).foldl destroyGroup s else s
  let s1 := ((partsOfCtx s0 ctx).filter fun k => at_ (flatOf k)).foldl destroyPart s0
  let s2 := (s1.away.filter fun a => a.2.ctx = ctx && at_ a.1).foldl destroyAway s1
  .next (if !(s.devs.any fun d => led s d.1) then s
    else match flat with
    | some _ => s2
    | none => dropHandlers (ctxGone s2 ctx) ctx)

/-! ## Part errors (R510, R514) -/

/-- An uncorrectable error in a part's state: an asynchronous MCHECK at the next boundary, which writes the record there. -/
def execAsyncMcheck (k : Nat) (s : State) : Host.Outcome State Fault Refusal :=
  .next (if (s.part k).st = .free || idxOf k = 3 then s
    else
      let s1 := s.modDev (ordOf (flatOf k)) fun d => { d with uncorr := d.uncorr + 1 }
      withdrawWait (s1.modPart k fun p => { p with asyncMcheck := p.asyncMcheck + 1 }) k)

/-! ## Context creation (R170, R193, R195, R292, R306, R355, R379, R403) -/

/-- Whether two ranges of leaves or bytes meet. -/
def meet (a n b m : Nat) : Bool := decide (a < b + m) && decide (b < a + n) && decide (0 < n) && decide (0 < m)

/-- What firmware may not grant: what another context holds, or what the rules exclude; without a leader it commands nothing (R303, R440). -/
def ctxBad (s : State) (c : CtxSpec) : Bool :=
  let others := s.ctxs.filter (·.2.live)
  let devBad (d : Nat) : Bool := (mfind s.devs d).isNone || !led s d || (s.dev d).svc = 1 || (s.dev d).svc = 2
  (s.ctx c.ctx).live || c.errq.toNat % 64 ≠ 0 || decide (c.gvtIvl < 2) || decide (1000 < c.gvtIvl) || !(s.devs.any fun d => led s d.1) ||
  (c.spranges.any fun r => devBad (ordOf r.1) || decide (0x80000 < r.2.1 + r.2.2) ||
    others.any fun o => o.2.spr.any fun q => q.1 = r.1 && meet q.2.1 q.2.2 r.2.1 r.2.2) ||
  (c.wqueues.any fun w => devBad w.1 || decide (256 ≤ w.2.1) || decide (w.2.2.2 < 6) || decide (20 < w.2.2.2) || w.2.2.1.toNat % 8 ≠ 0 ||
    (mfind (s.dev w.1).wqs w.2.1).isSome) ||
  (c.hostqs.any fun q => devBad q.1 || decide (1024 ≤ q.2.q) || decide (q.2.log2n < 4) || decide (16 < q.2.log2n) || q.2.base.toNat % 4096 ≠ 0 ||
    q.2.errw.toNat % 8 ≠ 0 || (mfind (s.dev q.1).hostqs q.2.q).any fun h => h.ctx.isSome) ||
  (c.egrants.any fun g => devBad (g.1 / 64) || decide (65536 < g.2.2.1 + g.2.2.2) ||
    others.any fun o => o.2.egrants.any fun q => q.1 = g.1 && (q.2.1 &&& g.2.1 ≠ 0 || meet q.2.2.1 q.2.2.2 g.2.2.1 g.2.2.2)) ||
  (c.hbgrants.any fun g => devBad (g.1 / 64) || others.any fun o => o.2.hbgrants.any fun q => q.1 = g.1 && q.2 &&& g.2 ≠ 0)

/-- A queue that firmware assigns: IDLE, its indices 0. -/
def newQueue (c : Nat) (q : HostQSpec) : HostQ :=
  { ctx := some c, conn := q.conn, base := q.base, log2n := q.log2n, die := q.die.val, rdidx := 0, wridx := 0, errw := q.errw, st := .idle, pkts := [], desc := some q.desc, held := none }

/-- The bytes of an error queue are 0, where its lines have homes: no record has been placed (R195). -/
def clearErrq (s : State) (flat : Nat) (errq : W64) : State :=
  (List.range 65).foldl (fun s i =>
    match homeKey s flat (errq + BitVec.ofNat 64 (64 * i)) with
    | some k => { s with mem := memWriteBytes s.mem k (List.replicate 64 0) }
    | none => s) s

/-- A queue is assigned, and firmware writes its descriptor (R292). -/
def assignQueue (c : Nat) (s : State) (q : Nat × HostQSpec) : State :=
  let h := newQueue c q.2
  let s1 := s.modDev q.1 fun d => { d with hostqs := mset d.hostqs q.2.q h }
  { s1 with mem := memWriteBytes s1.mem (keyOf 0 q.1 q.2.desc) h.descriptor }

/-- CONTEXT_CREATE: the context's rights are written into the tables of its domain, its queues are assigned, its error queue is empty. -/
def execContextCreate (c : CtxSpec) (s : State) : Host.Outcome State Fault Refusal :=
  .next (if ctxBad s c then s
    else
      let word (m : List Host.Cell) (r : Nat × Nat × W64) : List Host.Cell := memWriteBytes m (keyOf 0 r.1 r.2.1) (bytesOf 8 r.2.2.toNat)
      let s0 := { s with mem := c.rights.foldl word s.mem }
      let s1 := s0.modCtx c.ctx fun _ =>
        { Ctx.reset with live := true, domain := c.domain, errq := c.errq, spr := c.spranges, gvtIvl := c.gvtIvl, egrants := c.egrants, hbgrants := c.hbgrants }
      let s2 := c.wqueues.foldl (fun s w => s.modDev w.1 fun d =>
        { d with wqs := mset d.wqs w.2.1 ⟨.opened, c.ctx, w.2.2.1, w.2.2.2, 0, [], 0, [], []⟩ }) s1
      c.hostqs.foldl (assignQueue c.ctx) (clearErrq s2 ((c.spranges.head?.map (·.1)).getD 0) c.errq))

end Sys2Proof.Machine
end

