-- ==== Sys2Proof/Machine/Scalar.lean ====
section
/-! DEFINITION. The scalar families: integer, logic, moves, bit fields, literals, compares, predicates and floating point (R114 to R124). -/

namespace Sys2Proof.Machine

/-- A format-B operation of two 64-bit sources (R114). -/
def aluB (h : Hd) (o : OpB) (lat : Option Nat) (f : W64 → W64 → W64) (s : State) : Host.Outcome State Fault Refusal :=
  issue { h, reads := rds [o.s1, o.s2], writes := wr o.d lat } (fun _ => do
    let p ← myPart
    putM o.d (f (p.src 0 o.s1) (p.src 0 o.s2))
    pure .done) s

/-- A format-B operation of one source (R116). -/
def aluA (h : Hd) (o : OpB) (f : W64 → W64) (s : State) : Host.Outcome State Fault Refusal :=
  issue { h, reads := rds [o.s1], writes := wr o.d (some 1) } (fun _ => do
    let p ← myPart
    putM o.d (f (p.src 0 o.s1))
    pure .done) s

/-- Bits 127:64 of the signed product. -/
def mulHigh (x y : W64) : W64 := (x.signExtend 128 * y.signExtend 128).extractLsb' 64 64
/-- Bits 127:64 of the unsigned product. -/
def mulHighN (x y : W64) : W64 := (x.setWidth 128 * y.setWidth 128).extractLsb' 64 64
/-- Division and remainder with the special cases of R40. -/
def divS (x y : W64) : W64 := if y = 0 then ones64 else x.sdiv y
def remS (x y : W64) : W64 := if y = 0 then x else x.srem y
def divU (x y : W64) : W64 := if y = 0 then ones64 else x / y
def remU (x y : W64) : W64 := if y = 0 then x else x % y
def clz64 (x : W64) : W64 := if x = 0 then 64 else BitVec.ofNat 64 (63 - x.toNat.log2)
def popc64 (x : W64) : W64 := BitVec.ofNat 64 (((List.range 64).filter fun i => x.getLsbD i).length)

def execAdd (h : Hd) (o : OpB) (s : State) := aluB h o (some 1) (· + ·) s
def execSub (h : Hd) (o : OpB) (s : State) := aluB h o (some 1) (· - ·) s
def execMul (h : Hd) (o : OpB) (s : State) := aluB h o (some 3) (· * ·) s
def execMulh (h : Hd) (o : OpB) (s : State) := aluB h o (some 3) mulHigh s
def execDiv (h : Hd) (o : OpB) (s : State) := aluB h o none divS s
def execRem (h : Hd) (o : OpB) (s : State) := aluB h o none remS s
def execMin (h : Hd) (o : OpB) (s : State) := aluB h o (some 1) (fun x y => if x.slt y then x else y) s
def execMax (h : Hd) (o : OpB) (s : State) := aluB h o (some 1) (fun x y => if x.slt y then y else x) s
def execMulhN (h : Hd) (o : OpB) (s : State) := aluB h o (some 3) mulHighN s
def execDivN (h : Hd) (o : OpB) (s : State) := aluB h o none divU s
def execRemN (h : Hd) (o : OpB) (s : State) := aluB h o none remU s
def execMinN (h : Hd) (o : OpB) (s : State) := aluB h o (some 1) (fun x y => if x.ult y then x else y) s
def execMaxN (h : Hd) (o : OpB) (s : State) := aluB h o (some 1) (fun x y => if x.ult y then y else x) s

/-! R115: bits 63:6 of the shift amount are ignored. -/

def execAnd (h : Hd) (o : OpB) (s : State) := aluB h o (some 1) (· &&& ·) s
def execOr (h : Hd) (o : OpB) (s : State) := aluB h o (some 1) (· ||| ·) s
def execXor (h : Hd) (o : OpB) (s : State) := aluB h o (some 1) (· ^^^ ·) s
def execAndn (h : Hd) (o : OpB) (s : State) := aluB h o (some 1) (fun x y => x &&& ~~~y) s
def execShl (h : Hd) (o : OpB) (s : State) := aluB h o (some 1) (fun x y => x <<< (y.toNat % 64)) s
def execShr (h : Hd) (o : OpB) (s : State) := aluB h o (some 1) (fun x y => x >>> (y.toNat % 64)) s
def execSar (h : Hd) (o : OpB) (s : State) := aluB h o (some 1) (fun x y => x.sshiftRight (y.toNat % 64)) s

def execClz (h : Hd) (o : OpB) (s : State) := aluA h o clz64 s
def execPopc (h : Hd) (o : OpB) (s : State) := aluA h o popc64 s
def execMov (h : Hd) (o : OpB) (s : State) := aluA h o (fun x => x) s

/-! ## Bit fields and selection (R117) -/

/-- BFX: the field of width min(w, 64 − pos) at pos, sign-extended with .s. -/
def bfx (sx : Bool) (x a b : W64) : W64 :=
  let pos := a.toNat % 64
  let w := min (b.toNat % 128) (64 - pos)
  let f := x.toNat / 2 ^ pos % 2 ^ w
  if w = 0 then 0 else if sx then sext64 w f else BitVec.ofNat 64 f

/-- BFI: bits pos+w−1 .. pos of d replaced by the low bits of x. -/
def bfi (d x a b : W64) : W64 :=
  let pos := a.toNat % 64
  let w := min (b.toNat % 128) (64 - pos)
  let m := BitVec.ofNat 64 ((2 ^ w - 1) * 2 ^ pos)
  (d &&& ~~~m) ||| ((x <<< pos) &&& m)

def execBfx (h : Hd) (o : OpC) (s : State) : Host.Outcome State Fault Refusal :=
  issue { h, reads := rds [o.s1, o.s2, o.s3], writes := wr o.d (some 1) } (fun _ => do
    let p ← myPart
    putM o.d (bfx (o.mod.getLsbD 0) (p.src 0 o.s1) (p.src 0 o.s2) (p.src 0 o.s3))
    pure .done) s

/-- The value of a destination that an instruction also reads. -/
def Part.rdDst (p : Part) : Dst → W64
  | .s i => p.rdS i
  | .p i => p.rdP i
  | _ => 0

def execBfi (h : Hd) (o : OpC) (s : State) : Host.Outcome State Fault Refusal :=
  issue { h, reads := rds [o.s1, o.s2, o.s3] ++ (dstReg o.d).toList, writes := wr o.d (some 1) } (fun _ => do
    let p ← myPart
    putM o.d (bfi (p.rdDst o.d) (p.src 0 o.s1) (p.src 0 o.s2) (p.src 0 o.s3))
    pure .done) s

/-- The selector predicate of SEL and VSEL: MOD bits 2:0 and NEG in bit 3. -/
def selReg (mod : BitVec 8) : Fin 8 := ⟨mod.toNat % 8, Nat.mod_lt _ (by decide)⟩

def execSel (h : Hd) (o : OpC) (s : State) : Host.Outcome State Fault Refusal :=
  issue { h, reads := rds [o.s1, o.s2] ++ [.p (selReg o.mod)], writes := wr o.d (some 1) } (fun _ => do
    let p ← myPart
    let c := (p.rdP (selReg o.mod)).getLsbD 0 != o.mod.getLsbD 3
    putM o.d (if c then p.src 0 o.s1 else p.src 0 o.s2)
    pure .done) s

/-! ## LI, LIH (R118) -/

def execLi (h : Hd) (o : OpL) (s : State) : Host.Outcome State Fault Refusal :=
  issue { h, reads := rds [o.s1], writes := wr o.d (some 1) } (fun _ => do
    let p ← myPart
    putM o.d (p.src o.lit o.s1)
    pure .done) s

def execLih (h : Hd) (o : OpL) (s : State) : Host.Outcome State Fault Refusal :=
  issue { h, reads := rds [o.s1] ++ (dstReg o.d).toList, writes := wr o.d (some 1) } (fun _ => do
    let p ← myPart
    putM o.d (((p.src o.lit o.s1) <<< 32) ||| ((p.rdDst o.d) &&& 0xFFFFFFFF))
    pure .done) s

/-! ## CMP and the predicates (R119, R120) -/

/-- A truth value in a predicate (every lane) or a scalar (R119). -/
def truth (d : Dst) (c : Bool) : W64 :=
  match d with
  | .p _ => predOf c
  | _ => boolOf c

def execCmp (h : Hd) (c : ICond) (o : OpB) (s : State) : Host.Outcome State Fault Refusal :=
  issue { h, reads := rds [o.s1, o.s2], writes := wr o.d (some 1) } (fun _ => do
    let p ← myPart
    putM o.d (truth o.d (icond c 64 (p.src 0 o.s1).toNat (p.src 0 o.s2).toNat))
    pure .done) s

/-- The registers read by sources in which kind 0b10 names a predicate. -/
def rdsP (l : List Src) : List Reg := l.filterMap fun x =>
  match x with
  | .c i => some (.p ⟨i.val % 8, Nat.mod_lt _ (by decide)⟩)
  | .s i => some (.s i)
  | _ => none

/-- A predicate operation of two sources. -/
def predB (h : Hd) (o : OpB) (f : W64 → W64 → W64) (s : State) : Host.Outcome State Fault Refusal :=
  issue { h, reads := rdsP [o.s1, o.s2], writes := wr o.d (some 1) } (fun _ => do
    let p ← myPart
    putM o.d (f (p.srcP o.s1) (p.srcP o.s2))
    pure .done) s

def execPand (h : Hd) (o : OpB) (s : State) := predB h o (· &&& ·) s
def execPor (h : Hd) (o : OpB) (s : State) := predB h o (· ||| ·) s
def execPxor (h : Hd) (o : OpB) (s : State) := predB h o (· ^^^ ·) s

def execPnot (h : Hd) (o : OpB) (s : State) : Host.Outcome State Fault Refusal :=
  issue { h, reads := rdsP [o.s1], writes := wr o.d (some 1) } (fun _ => do
    let p ← myPart
    putM o.d (~~~(p.srcP o.s1))
    pure .done) s

def execPmov (h : Hd) (o : OpB) (s : State) : Host.Outcome State Fault Refusal :=
  issue { h, reads := rdsP [o.s1], writes := wr o.d (some 1) } (fun _ => do
    let p ← myPart
    putM o.d (p.srcP o.s1)
    pure .done) s

/-! ## Scalar floating point (R122 to R124) -/

/-- The format of a scalar operation: FP32 with .s, else FP64. -/
def fmtS (mod : BitVec 8) : Fmt := if mod.getLsbD 0 then fmt32 else fmt64

/-- A scalar floating-point operation: its result code, zero-extended, and its flags. -/
def fpOp (h : Hd) (o : OpC) (srcs : List Src) (lat : Option Nat) (sr : Nat) (f : Fmt → RCtl → List Nat → FRes) (s : State) :
    Host.Outcome State Fault Refusal :=
  issue { h, reads := rds srcs, writes := wr o.d lat, sr } (fun _ => do
    let p ← myPart
    let fm := fmtS o.mod
    let r := f fm (p.rctl 64 0) (srcs.map (p.srcT (.flt fm)))
    setMine fun p => (p.put o.d (BitVec.ofNat 64 r.code)).orFlags r.flags
    pure .done) s

/-- The two or three codes of an operand list. -/
def op2 (f : Nat → Nat → FRes) : List Nat → FRes
  | [a, b] => f a b
  | _ => ⟨0, 0⟩
def op3 (f : Nat → Nat → Nat → FRes) : List Nat → FRes
  | [a, b, c] => f a b c
  | _ => ⟨0, 0⟩
def op1 (f : Nat → FRes) : List Nat → FRes
  | [a] => f a
  | _ => ⟨0, 0⟩

def execFadd (h : Hd) (o : OpC) (s : State) := fpOp h o [o.s1, o.s2] (some 4) 1 (fun f c => op2 (addF f c)) s
def execFsub (h : Hd) (o : OpC) (s : State) := fpOp h o [o.s1, o.s2] (some 4) 1 (fun f c => op2 (subF f c)) s
def execFmul (h : Hd) (o : OpC) (s : State) := fpOp h o [o.s1, o.s2] (some 4) 1 (fun f c => op2 (mulF f c)) s
def execFma (h : Hd) (o : OpC) (s : State) := fpOp h o [o.s1, o.s2, o.s3] (some 4) 1 (fun f c => op3 (fmaF f c)) s
def execFdiv (h : Hd) (o : OpC) (s : State) :=
  fpOp h o [o.s1, o.s2] none 1 (fun f c => op2 fun a b => divF f c (decodeFZ f c.fz a) (decodeFZ f c.fz b)) s
def execFsqrt (h : Hd) (o : OpC) (s : State) := fpOp h o [o.s1] none 1 (fun f c => op1 fun a => sqrtF f c (decodeFZ f c.fz a)) s
def execFmin (h : Hd) (o : OpC) (s : State) := fpOp h o [o.s1, o.s2] (some 4) 0 (fun f c => op2 (minMaxF f c.fz false)) s
def execFmax (h : Hd) (o : OpC) (s : State) := fpOp h o [o.s1, o.s2] (some 4) 0 (fun f c => op2 (minMaxF f c.fz true)) s

def execFcmp (h : Hd) (c : FCond) (o : OpC) (s : State) : Host.Outcome State Fault Refusal :=
  issue { h, reads := rds [o.s1, o.s2], writes := wr o.d (some 4) } (fun _ => do
    let p ← myPart
    let fm := fmtS o.mod
    let x := decodeFZ fm p.fz (p.srcT (.flt fm) o.s1)
    let y := decodeFZ fm p.fz (p.srcT (.flt fm) o.s2)
    setMine fun p => (p.put o.d (truth o.d (fcondV c x y))).orFlags (fcmpFlags c x y)
    pure .done) s

/-- Whether a conversion has a rounding step (R47): a floating-point side. -/
def cvtRounds (dst src : CTy) : Bool := !dst.isInt || !src.isInt

/-- A converted code as a 64-bit register value (R124). -/
def extendTo (t : CTy) (code : Nat) : W64 :=
  match t with
  | .int true w => sext64 w code
  | _ => BitVec.ofNat 64 code

def execFcvt (h : Hd) (o : OpC) (s : State) : Host.Outcome State Fault Refusal :=
  let dst := ctyOf (o.mod.toNat / 16)
  let src := ctyOf (o.mod.toNat % 16)
  issue { h, reads := rds [o.s1], writes := wr o.d (some 4), sr := if cvtRounds dst src then 1 else 0 } (fun _ => do
    let p ← myPart
    let r := convertC (p.rctl 64 0) dst src (p.srcT src o.s1)
    setMine fun p => (p.put o.d (extendTo dst r.code)).orFlags r.flags
    pure .done) s

end Sys2Proof.Machine
end

