-- ==== Sys2Proof/Machine/Control.lean ====
section
/-! DEFINITION. The control family but EXIT (R64, R105 to R113) and the trap family (R163 to R168). -/

namespace Sys2Proof.Machine

/-- END issues nothing and passes control to head 0 of the next line (R64); the choice of the partition stands. -/
def execLineEnd (s : State) : Host.Outcome State Fault Refusal :=
  .next { (s.modPart s.cur fun p => p.goto (lineOf p.pc + 64) s.steps) with issued := false }

def execNop (h : Hd) (s : State) : Host.Outcome State Fault Refusal := issue { h } (fun _ => pure .done) s
def execNopPred (h : Hd) (q : Pred) (s : State) : Host.Outcome State Fault Refusal := issue { h, q := some q } (fun _ => pure .done) s

/-- YIELD: no effect but the scheduler's (R98, R111). -/
def execYield (h : Hd) (s : State) : Host.Outcome State Fault Refusal := issue { h, yields := true } (fun _ => pure .done) s
def execYieldPred (h : Hd) (q : Pred) (s : State) : Host.Outcome State Fault Refusal :=
  issue { h, q := some q, yields := true } (fun _ => pure .done) s

/-- The target of a format-J instruction (R66, R106). -/
def target (pc : W64) (o : OpJ) : W64 := lineOf pc + (o.off.signExtend 64 <<< 6) + BitVec.ofNat 64 (2 * o.head.val)

def execBra (h : Hd) (o : OpJ) (s : State) : Host.Outcome State Fault Refusal :=
  issue { h } (fun _ => do
    let p ← myPart
    pure (.jump (target p.pc o))) s

def execCall (h : Hd) (o : OpJ) (s : State) : Host.Outcome State Fault Refusal :=
  issue { h, writes := [(.s 1, some 1)] } (fun _ => do
    let p ← myPart
    setMine fun p => p.setS 1 p.npc
    pure (.jump (target p.pc o))) s

def execLoop (h : Hd) (o : OpJ) (s : State) : Host.Outcome State Fault Refusal :=
  issue { h, reads := [.s o.cond], writes := [(.s o.cond, some 1)] } (fun _ => do
    let p ← myPart
    let n := p.rdS o.cond - 1
    setMine fun p => p.setS o.cond n
    pure (if n ≠ 0 then .jump (target p.pc o) else .done)) s

/-- JMPI (R108); a follower does not read the target register (R103). -/
def jmpi (h : Hd) (d : Dst) (s1 : Src) (s : State) : Host.Outcome State Fault Refusal :=
  let fol := (s.part s.cur).fwdNow.isSome
  issue { h, reads := if fol then [] else rds [s1], writes := wr d (some 1) } (fun _ => do
    let p ← myPart
    let t := p.src 0 s1
    if !fol && t.getLsbD 0 then trapM 0x04 t
    setMine fun p => p.put d p.npc
    pure (.jump t)) s

def execJmpi (h : Hd) (o : OpA) (s : State) : Host.Outcome State Fault Refusal := jmpi h o.d o.s1 s
def execRet (h : Hd) (s : State) : Host.Outcome State Fault Refusal := jmpi h .none (.s 1) s

/-! ## ALIGN (R112) -/

/-- The parts on a core that run a unit of a part's launch in its domain. -/
def peersOn (s : State) (p : Part) (flat : Nat) : List Part :=
  ([0, 1, 2].map fun q => s.part (flat * 4 + q)).filter fun r =>
    r.st ≠ .free && r.launch = p.launch && (s.ctx r.ctx).domain = (s.ctx p.ctx).domain

/-- met(a, m) for the partition k. -/
def alignMet (s : State) (k : Nat) (a : W64) (m : Nat) : Bool :=
  let cl := clOf (flatOf k)
  (List.range 16).all fun q =>
    q = posOf (flatOf k) || m / 2 ^ q % 2 = 0 ||
    (let ps := peersOn s (s.part k) (flatAt cl q)
     ps.isEmpty || ps.any fun r =>
       match r.sleep with
       | .align b _ => b = a
       | _ => false)

/-- Wake every waiter at an ALIGN whose own condition holds. -/
def alignWake (s : State) (cl : Nat) : State :=
  s.parts.foldl (fun t kp =>
    match kp.2.sleep with
    | .align a m => if clOf (flatOf kp.1) = cl && alignMet s kp.1 a m then t.modPart kp.1 fun p => { p with sleep := .woken 1 0 } else t
    | _ => t) s

/-- An ALIGN with a window of 0 is an arrival like any other, and goes on. (DEDUCED: log 173.) -/
def execAlign (h : Hd) (o : OpB) (s : State) : Host.Outcome State Fault Refusal :=
  issue { h, reads := rds [o.s1, o.s2] } (fun _ => do
    let k ← me
    let p ← myPart
    if p.fwdNow.isSome then pure .done
    else match p.sleep with
    | .woken _ _ =>
      setMine fun p => { p with sleep := .awake }
      pure .done
    | _ =>
      setMine fun p => { p with sleep := .align p.pc ((p.src 0 o.s1).toNat % 65536) }
      modify fun s => alignWake s (clOf (flatOf k))
      let p' ← myPart
      let met := match p'.sleep with
        | .woken _ _ => true
        | _ => false
      if met || (p.src 0 o.s2).toNat % 65536 = 0 then
        setMine fun p => { p with sleep := .awake }
        pure .done
      else pure .waitKeep) s

/-- The window of a waiting ALIGN ends: the waiter goes on (R112). -/
def execAlignWindowExpiry (k : Nat) (s : State) : Host.Outcome State Fault Refusal :=
  .next (match (s.part k).sleep with
    | .align _ _ => s.modPart k fun p => { p with sleep := .woken 0 0, blocked := none }
    | _ => s)

/-! ## FOLLOW and UNFOLLOW (R101, R113) -/

/-- DEDUCED: log 22. -/
def execFollow (h : Hd) (o : OpB) (s : State) : Host.Outcome State Fault Refusal :=
  issue { h, reads := rds [o.s1, o.s2] } (fun _ => do
    let k ← me
    let p ← myPart
    let q : Fin 16 := ⟨(p.src 0 o.s1).toNat % 16, Nat.mod_lt _ (by decide)⟩
    setMine Part.drain
    if p.fmode = .free && p.fwdNow.isNone then
      if q.val = posOf (flatOf k) then
        setMine fun p => { p with fmode := .leading, fmask := 0 }
      else if (p.src 0 o.s2).toNat % 65536 ≠ 0 then
        setMine fun p => { p with fmode := .joining, leader := q, joinAt := p.npc }
    pure .done) s

/-- The join window ends: own fetch resumes at the join address. -/
def execJoinWindowExpiry (k : Nat) (s : State) : Host.Outcome State Fault Refusal :=
  .next (if (s.part k).fmode = .joining then
    s.modPart k fun p => ({ p with fmode := .free }).goto p.joinAt s.steps else s)

def unfollowBody : M Flow := do
  let k ← me
  let p ← myPart
  setMine Part.drain
  match p.fmode with
  | .leading =>
    setMine fun p => { p with fmode := .free, fmask := 0 }
    pure .done
  | .following =>
    modify fun s => leaveGroup s k
    pure (.jump p.npc)
  | _ => pure .done

def execUnfollow (h : Hd) (s : State) : Host.Outcome State Fault Refusal := issue { h } (fun _ => unfollowBody) s
def execUnfollowPred (h : Hd) (q : Pred) (s : State) : Host.Outcome State Fault Refusal := issue { h, q := some q } (fun _ => unfollowBody) s

/-! ## Traps and returns (R163 to R168) -/

def execTrap (h : Hd) (o : OpB) (s : State) : Host.Outcome State Fault Refusal :=
  issue { h, reads := rds [o.s1] } (fun _ => do
    let p ← myPart
    trapM 0x0D (p.src 0 o.s1)) s

def execTrapret (h : Hd) (o : OpB) (s : State) : Host.Outcome State Fault Refusal :=
  issue { h, reads := if o.s1 = .v 0 then [] else rds [o.s1], keepPass := true } (fun _ => do
    let k ← me
    let p ← myPart
    if !p.inTrap then illegalValue
    let t := match o.s1 with
      | .v _ => p.trappc
      | x => p.src 0 x &&& ~~~(1 : W64)
    modify fun s => trapReturn s k t
    pure .placed) s

def execUpret (h : Hd) (o : OpB) (s : State) : Host.Outcome State Fault Refusal :=
  issue { h, reads := rds [o.s1] } (fun _ => do
    let k ← me
    let p ← myPart
    if !p.inUp then illegalValue
    modify fun s => upcallReturn s k (p.src 0 o.s1 &&& ~~~(1 : W64))
    pure .placed) s

/-- CHKPT (R160, R167): a release of scope sys, the report, and the part is HALTED until the fabric manager releases it. -/
def execChkpt (h : Hd) (o : OpB) (s : State) : Host.Outcome State Fault Refusal :=
  issue { h, reads := rds [o.s1], writes := wr o.d none } (fun _ => do
    let k ← me
    let p ← myPart
    if !p.inChk || idxOf k = 3 then illegalValue
    let s ← get
    if !storesDone s k then pure .wait
    else
      modify fun s => releaseAt s (flatOf k) 5
      modify fun s => { s with chkReports := s.chkReports ++ [(k, some (p.src 0 o.s1))] }
      modify fun s => releaseFollowers s k
      setMine fun p => { p with prev := .checkpointing, st := .halted, chkDst := o.d, chkDone := true, spillDue := p.spillDue || p.spillLater, spillLater := false }
      pure .done) s

/-- DEDUCED: log 21. -/
def execFibset (h : Hd) (o : OpB) (s : State) : Host.Outcome State Fault Refusal :=
  issue { h, reads := rds [o.s1], writes := wr o.d none } (fun _ => do
    let k ← me
    let p ← myPart
    if idxOf k = 3 then illegalValue
    setMine fun p => { p with fibframe := p.src 0 o.s1 &&& ~~~(15 : W64) }
    putM o.d p.fibframe
    pure .done) s

end Sys2Proof.Machine
end

