-- ==== Sys2Proof/Machine/Damask.lean ====
section
/-! DEFINITION. The terms of a part's Damask programme and what they drive (R258 to R260). -/

namespace Sys2Proof.Machine

/-- What a firing term drives (R259). An EVSIG that finds no room for its record has no effect. -/
def driveTarget (s : State) (k : Nat) (t : DTerm) : State :=
  match t.target with
  | 1 => copyPulse s k 0
  | 2 => copyPulse s k 1
  | 3 => copyPulse s k 2
  | 4 => copyPulse s k 3
  | 5 => mqStart s k
  | 6 => rputPulse s k
  | 7 => s.modPart k fun p => p.keep 7
  | 8 => s.modPart k fun p => p.setLatch 0
  | 9 => (evsig s (clOf (flatOf k)) (s.part k).ctx t.arg.toNat 1).getD s
  | 10 => s.modPart k fun p => { p with damask := zeroCount p.damask (t.arg.toNat % 16) }
  | _ => s
where
  zeroCount (d : Damask) (i : Nat) : Damask := { d with ctrs := d.ctrs.set! i { d.ctrs.toList.getD i .reset with count := 0 } }

/-- The targets of the terms that have fired in the oldest cc act, and the terms' own inputs pulse with them (R259, R260). -/
def fireTerms (s : State) (k : Nat) : State :=
  let s1 := s.modPart k fun p => { p with damask := p.damask.seen }
  match (s1.part k).damask.fired with
  | [] => s1
  | fs :: rest =>
    let s2 := s1.modPart k fun p => { p with damask := { p.damask with fired := rest } }
    fs.foldl (fun s f => pulse (driveTarget s k f.2) k (24 + f.1.val)) s2

def execDamaskTermFire (k : Nat) (s : State) : Host.Outcome State Fault Refusal :=
  .next (if idxOf k = 3 ∨ (s.part k).st = .free then s else fireTerms s k)

end Sys2Proof.Machine
end

