-- ==== Sys2Proof/Machine/Fabric.lean ====
section
/-! DEFINITION. The events of the scale-up links (R482 to R490), the flow census (R491, R492), and the loss of a module (R493). -/

namespace Sys2Proof.Machine

/-! ## Links (R486, R489) -/

/-- The fabric manager enables a DOWN link, or a FAILED one after its repair; an enabled link is withdrawn no more. A module without power trains nothing, and its identity
block stays (R508). -/
def execLinkEnable (dev : Nat) (n : Fin 18) (s : State) : Host.Outcome State Fault Refusal :=
  let up (l : Link) : Link := { l.train with after := .up }
  let s1 := modLink s dev n up
  .next (if (s.dev dev).boot = 0 then s else match (linkOf s dev n).st with
    | .down | .failed =>
      if (s.dev dev).withdrawn.contains (.link n.val) then s1.modDev dev fun d => { d with withdrawn := d.withdrawn.filter (· ≠ .link n.val) } else s1
    | _ => s)

/-- The fabric manager disables a link; a key that waited for a rotation is the one it trains under next. -/
def execLinkDisable (dev : Nat) (n : Fin 18) (s : State) : Host.Outcome State Fault Refusal :=
  let down (l : Link) : Link :=
    let t := l.train
    { t with st := .down, after := .up, epoch := t.waiting.getD t.epoch, waiting := none, count := if t.waiting.isSome then 0 else t.count }
  .next (modLink s dev n down)

/-- A training attempt succeeds, which says that at most one lane is faulty and that the two ends name one epoch (R486): the link is in the state recorded for it, and a
spare lane in use is noted. -/
def execLinkTrained (dev : Nat) (n : Fin 18) (spareLane : Bool) (s : State) : Host.Outcome State Fault Refusal :=
  let trained (l : Link) : Link := ({ l with st := l.after, after := .up, fails := 0, heard := s.ftime } : Link).settleKey
  .next (if (linkOf s dev n).st ≠ .training || (s.dev dev).boot = 0 then s
    else
      let s1 := modLink s dev n trained
      if spareLane && !(s.dev dev).spareLanes.contains n.val then
        writeHealth (s1.modDev dev fun d => { d with spareLanes := d.spareLanes ++ [n.val] }) dev
      else s1)

/-- After a change of a link: one that has become FAILED is withdrawn (R28). -/
def failCheck (s : State) (dev : Nat) (n : Fin 18) : State := if (linkOf s dev n).st = .failed then withdraw s dev (.link n.val) else s

def execTrainingFailed (dev : Nat) (n : Fin 18) (s : State) : Host.Outcome State Fault Refusal :=
  .next (if (linkOf s dev n).st = .training && (s.dev dev).boot ≠ 0 then failCheck (modLink s dev n Link.attempt) dev n else s)

def execRetrain (dev : Nat) (n : Fin 18) (s : State) : Host.Outcome State Fault Refusal :=
  .next (if (s.dev dev).boot = 0 then s else failCheck (modLink s dev n Link.retrain) dev n)

def execFrameReceive (dev : Nat) (n : Fin 18) (f : Frame) (s : State) : Host.Outcome State Fault Refusal :=
  .next (modLink s dev n fun l => l.receive f s.ftime)

def execNakReceive (dev : Nat) (n : Fin 18) (ack : Nat) (s : State) : Host.Outcome State Fault Refusal :=
  .next (modLink s dev n fun l => l.nakked (ack % 1024))

/-- An idle frame carries the ACK, and the NAK that is owed is sent with it; it takes no SEQ and is not kept (R484, R485). -/
def execIdleFrame (dev : Nat) (n : Fin 18) (s : State) : Host.Outcome State Fault Refusal :=
  .next (modLink s dev n fun l => { l with nak := false })

def execRekey (dev : Nat) (n : Fin 18) (epoch : W32) (s : State) : Host.Outcome State Fault Refusal :=
  .next (if (linkOf s dev n).used.contains epoch then s else modLink s dev n fun l => l.rekey epoch)

/-- RETIRE: every frame of the old epoch has been acknowledged. -/
def execRetire (dev : Nat) (n : Fin 18) (s : State) : Host.Outcome State Fault Refusal :=
  let l := linkOf s dev n
  .next (if l.st = .rekeying && l.old.isSome && !l.oldFrames && l.room then modLink s dev n Link.retired else s)

/-- The receiver drops the old key 100 µs after the first frame of the new epoch. -/
def execOldKeyTimeout (dev : Nat) (n : Fin 18) (s : State) : Host.Outcome State Fault Refusal :=
  .next (match (linkOf s dev n).newSeen with
    | some t => if 100000 ≤ since s t then modLink s dev n Link.dropOld else s
    | none => s)

/-- Whether a message of a stream is still on its way. -/
def inFlight (s : State) (src dst : Nat) (cls : Fin 4) (i : W32) : Bool :=
  s.net.any fun m => ordOf m.src = src && ordOf m.dest = dst && m.cls = cls && m.num = some i

/-- The destination hub acknowledges the oldest message of a stream, which it has received whole (R483). -/
def execEndToEndAck (dev dst : Nat) (cls : Fin 4) (s : State) : Host.Outcome State Fault Refusal :=
  .next (match mfind (s.dev dev).e2e (dst * 4 + cls.val) with
    | some e =>
      match e.unacked with
      | [] => s
      | u :: us =>
        if inFlight s dev dst cls u.1 then s
        else s.modDev dev fun d => { d with e2e := mset d.e2e (dst * 4 + cls.val) { e with unacked := us } }
    | none => s)

def execLinkDrain (dev : Nat) (n : Fin 18) (s : State) : Host.Outcome State Fault Refusal := .next (modLink s dev n Link.drain)

/-- All 18 links of a module are QUIESCED and no eviction moves its contexts: the fabric manager routes its ordinal nowhere (R490). (DEDUCED: log 189.) -/
def routeNowhere (s : State) (dev : Nat) : State :=
  let d := s.dev dev
  if d.svc = 0 && d.links.toList.all fun l => l.st = .quiesced then s.modDev dev fun d => { d with unrouted := true } else s

/-- A draining link is drained: its replay buffer is empty, and every message sent over it is acknowledged (R490). -/
def execLinkDrained (dev : Nat) (n : Fin 18) (s : State) : Host.Outcome State Fault Refusal :=
  let l := linkOf s dev n
  .next (if l.st = .draining && l.replay.isEmpty && !((s.dev dev).e2e.any fun e => e.2.unacked.any (·.2 = n.val)) then
      routeNowhere (modLink s dev n fun l => { l with st := .quiesced }) dev
    else s)

def execLinkEncryptionSet (dev : Nat) (n : Fin 18) (on : Bool) (s : State) : Host.Outcome State Fault Refusal :=
  .next (modLink s dev n fun l => { l with enc := on })

/-! ## The flow census (R491, R492) -/

/-- Channel, VC and link of entry i of a census record. -/
def censusEntry (i : Nat) : Nat × Nat × Option Nat :=
  if i < 7680 then (i / 2, i % 2, none)
  else if i < 8192 then (3840 + (i - 7680) / 4, (i - 7680) % 4, none)
  else if i < 8224 then (3968 + (i - 8192) / 4, (i - 8192) % 4, none)
  else if i < 8368 then (3976 + (i - 8224) / 4, (i - 8224) % 4, some ((i - 8224) / 8))
  else (4012 + (i - 8368), 0, none)

def LinkState.code : LinkState → Nat
  | .down => 0
  | .training => 1
  | .up => 2
  | .rekeying => 3
  | .draining => 4
  | .quiesced => 5
  | .failed => 6

/-- SENT and STALL of the channels at a census: counts since reset, each risen by a free value since the latest one (R492). (DESIGN CHOICE: log 66.) -/
def censusFlow (s : State) (dev : Nat) : List (Nat × Nat) :=
  (List.range 8376).map fun i =>
    let (a, b) := (s.dev dev).flow.getD i (0, 0)
    let (x, y) := Config.censusCounts s.free i
    ((a + x) % 2 ^ 48, (b + y) % 2 ^ 48)

/-- The bytes of an entry: its counts, and its link's state. -/
def censusBytes (s : State) (dev : Nat) (flow : List (Nat × Nat)) (i : Nat) : List Byte :=
  let (chan, vc, link) := censusEntry i
  let (sent, wait) := flow.getD i (0, 0)
  let st := (link.bind fun n => (s.dev dev).links.toList[n]?).elim 0 fun l => l.st.code
  bytesOf 6 sent ++ bytesOf 6 wait ++ bytesOf 2 chan ++ bytesOf 1 vc ++ bytesOf 1 st

/-- The entries of a record: those of withdrawn links are left out. -/
def censusList (s : State) (dev : Nat) : List Nat :=
  (List.range 8376).filter fun i => (censusEntry i).2.2.all fun n => !(s.dev dev).withdrawn.contains (.link n)

/-- The latest instant at which FTIME was a multiple of an interval, given in steps of 10 µs (R286, R491). -/
def censusInstant (s : State) (ivl : Nat) : Nat := s.ftime / (ivl * 10000) * (ivl * 10000)

/-- Write bytes at a physical place: stash lines of it are recalled first, and watches of it are evaluated after (R240, R251). -/
def physWrite (s : State) (key : Nat) (bs : List Byte) : State :=
  let at_ (k flat : Nat) (l : Nat × Bool) : Bool :=
    (homeKey s flat (BitVec.ofNat 64 l.1)).any fun x => decide (key < x + 64) && decide (x < key + bs.length) && idxOf k ≠ 3
  let s1 := s.parts.foldl (fun s kp =>
    kp.2.stash.foldl (fun s m => (m.lines.filter (at_ kp.1 (flatOf kp.1))).foldl (fun s l => stashRecallLine s kp.1 (BitVec.ofNat 64 l.1)) s) s) s
  fireWatches { s1 with mem := memWriteBytes s1.mem key bs } ((List.range bs.length).map (key + ·))

/-- CENSUS_SNAPSHOT: the record of an interval, the entries first, then the header with RSEQ; one record for each instant. -/
def execCensusSnapshot (dev : Nat) (s : State) : Host.Outcome State Fault Refusal :=
  let d := s.dev dev
  let es := censusList s dev
  let ivl := d.censusIvl * 10
  let at_ := censusInstant s d.censusIvl
  let key := keyOf 0 dev (d.censusBase.toNat + d.rseq % max d.censusSlots 1 * 134080)
  let head := bytesOf 8 at_ ++ bytesOf 8 d.rseq ++ bytesOf 4 es.length ++ bytesOf 4 ivl ++ List.replicate 40 0
  .next (if d.boot ≠ 2 || d.censusSlots = 0 || at_ = d.censusAt then s
    else
      let flow := censusFlow s dev
      let s1 := physWrite { s with free := s.free + 1 } (key + 64) (es.flatMap (censusBytes s dev flow))
      (physWrite (releaseAt s1 (dev * 1024) 4) key head).modDev dev fun d => { d with rseq := d.rseq + 1, censusAt := at_, flow })

/-! ## Peer loss (R493) -/

/-- A module is lost: transfers to it end EXITED, and the partition is quiesced with reason 0. (DEDUCED: log 67.) -/
def loseModule (s : State) (dev : Nat) : State :=
  let s1 := (List.range 4).foldl (fun s i =>
    let dk := dev * 4 + i
    ((s.die dk).tabla.foldl (fun s t => notify s t .gone) s).modDie dk fun d => { d with tabla := [] }) s
  quiesceAll (s1.modDev dev fun d => { d with lost := true }) 0

def execPeerLoss (dev : Nat) (s : State) : Host.Outcome State Fault Refusal :=
  .next (if (mfind s.devs dev).any fun d => !d.lost then loseModule s dev else s)

end Sys2Proof.Machine
end

