-- ==== Sys2Proof/Decode.lean ====
section
/-! DEFINITION. The line decoder (R63 to R66), the instruction decoder with its checks in the order of R77, and the encoder. -/

namespace Sys2Proof

/-- The operands of an instruction, by format (R74). -/
inductive Opnds where
  | z
  | a (o : OpA)
  | b (o : OpB)
  | c (o : OpC)
  | l (o : OpL)
  | m (o : OpM)
  | j (o : OpJ)
  | e (o : OpE)
  deriving DecidableEq, Repr

/-! ## Majors and formats (R84) -/

/-- The format letter of a major and its length without a predicate; E is 4, or 6 with the slot. -/
inductive Format where
  | z | a | b | c | l | m | j | e
  deriving DecidableEq, Repr

def Format.len : Format → Nat
  | .z => 0
  | .a => 1
  | .b => 2
  | .c => 3
  | .l => 4
  | .m => 3
  | .j => 2
  | .e => 4

/-- The opcode map's formats. -/
def formatOf (major : Nat) : Option Format :=
  match major with
  | 0x01 => some .z | 0x02 => some .j | 0x03 => some .j | 0x04 => some .a | 0x05 => some .j | 0x06 => some .z | 0x07 => some .z
  | 0x08 => some .b | 0x09 => some .b | 0x0A => some .z
  | 0x10 => some .b | 0x11 => some .b | 0x12 => some .b | 0x13 => some .c | 0x14 => some .l | 0x15 => some .b | 0x16 => some .b
  | 0x17 => some .l | 0x20 => some .c | 0x21 => some .c | 0x28 => some .b
  | 0x30 => some .c | 0x31 => some .c | 0x32 => some .c | 0x33 => some .c | 0x34 => some .c | 0x40 => some .c | 0x41 => some .c
  | 0x42 => some .c | 0x48 => some .m | 0x49 => some .m | 0x4A => some .m | 0x4B => some .c | 0x4C => some .c | 0x4D => some .e
  | 0x4E => some .e | 0x54 => some .e | 0x55 => some .c | 0x58 => some .e | 0x59 => some .e | 0x5A => some .c | 0x5C => some .c
  | 0x60 => some .c | 0x61 => some .c | 0x62 => some .c | 0x63 => some .e | 0x64 => some .e | 0x66 => some .c | 0x68 => some .e
  | 0x6A => some .e | 0x6B => some .e | 0x6C => some .e | 0x6E => some .e | 0x70 => some .e | 0x72 => some .e | 0x74 => some .c
  | _ => none

/-! ## Conditions and pairs by code (R85, R318) -/

def icondCode : ICond → Nat
  | .eq => 0 | .ne => 1 | .lt => 2 | .ge => 3 | .le => 4 | .gt => 5 | .ltn => 6 | .gen => 7 | .len => 8 | .gtn => 9
def icondAt (n : Nat) : Option ICond :=
  match n with
  | 0 => some .eq | 1 => some .ne | 2 => some .lt | 3 => some .ge | 4 => some .le | 5 => some .gt | 6 => some .ltn | 7 => some .gen
  | 8 => some .len | 9 => some .gtn | _ => none
def fcondCode : FCond → Nat
  | .eq => 0 | .ne => 1 | .lt => 2 | .ge => 3 | .le => 4 | .gt => 5 | .un => 6 | .ord => 7
def fcondAt (n : Nat) : Option FCond :=
  match n with
  | 0 => some .eq | 1 => some .ne | 2 => some .lt | 3 => some .ge | 4 => some .le | 5 => some .gt | 6 => some .un | 7 => some .ord
  | _ => none
def pairCode : MPair → Nat
  | .f4 => 0 | .f8e4 => 1 | .f8e5f8e4 => 2 | .f8e4f4 => 3 | .bf16 => 4 | .f16 => 5 | .i8 => 6
def pairAt (n : Nat) : Option MPair :=
  match n with
  | 0 => some .f4 | 1 => some .f8e4 | 2 => some .f8e5f8e4 | 3 => some .f8e4f4 | 4 => some .bf16 | 5 => some .f16 | 6 => some .i8
  | _ => none

/-! ## The opcode map (R84): from major, SUB and operands to the instruction, and back -/

def pick (sub : Nat) : List (Nat × Instr) → Option Instr
  | [] => none
  | (n, i) :: l => if n = sub then some i else pick sub l

def buildB (major sub : Nat) (h : Hd) (o : OpB) : Option Instr :=
  match major with
  | 0x08 => pick sub [(0, .align h o)]
  | 0x09 => pick sub [(0, .follow h o)]
  | 0x10 => pick sub [(0, .add h o), (1, .sub h o), (2, .mul h o), (3, .mulh h o), (4, .div h o), (5, .rem h o), (6, .min h o),
      (7, .max h o), (0x0A, .mulhN h o), (0x0B, .divN h o), (0x0C, .remN h o), (0x0D, .minN h o), (0x0E, .maxN h o)]
  | 0x11 => pick sub [(0, .and h o), (1, .or h o), (2, .xor h o), (3, .andn h o), (4, .shl h o), (5, .shr h o), (6, .sar h o)]
  | 0x12 => pick sub [(0, .clz h o), (1, .popc h o), (2, .mov h o)]
  | 0x15 => (icondAt sub).map fun c => .cmp h c o
  | 0x16 => pick sub [(0, .pand h o), (1, .por h o), (2, .pxor h o), (3, .pnot h o), (4, .pmov h o)]
  | 0x28 => pick sub [(0, .trap h o), (1, .trapret h o), (2, .upret h o), (3, .chkpt h o), (4, .fibset h o)]
  | _ => none

def buildC (major sub : Nat) (h : Hd) (o : OpC) : Option Instr :=
  match major with
  | 0x13 => pick sub [(0, .bfx h o), (1, .bfi h o), (2, .sel h o)]
  | 0x20 => pick sub [(0, .fadd h o), (1, .fsub h o), (2, .fmul h o), (3, .fma h o), (4, .fdiv h o), (5, .fsqrt h o), (6, .fmin h o),
      (7, .fmax h o)]
  | 0x21 => if sub = 0x10 then some (.fcvt h o) else (fcondAt sub).map fun c => .fcmp h c o
  | 0x30 => pick sub [(0, .vadd h o), (1, .vsub h o), (2, .vmul h o), (3, .vmad h o), (4, .vmin h o), (5, .vmax h o), (6, .vabs h o)]
  | 0x31 => pick sub [(0, .vand h o), (1, .vor h o), (2, .vxor h o), (3, .vshl h o), (4, .vshr h o), (5, .vsar h o)]
  | 0x32 => (icondAt sub).map fun c => .vcmp h c o
  | 0x33 => pick sub [(0, .vmov h o), (1, .vbcast h o), (2, .vsel h o), (3, .vcvt h o)]
  | 0x34 => pick sub [(0, .vperm h o), (1, .vred h o), (2, .vscan h o), (3, .vext h o), (4, .vins h o), (5, .vcomp h o), (6, .vexpd h o)]
  | 0x40 => pick sub [(0, .vfadd h o), (1, .vfsub h o), (2, .vfmul h o), (3, .vfma h o), (4, .vfmin h o), (5, .vfmax h o)]
  | 0x41 => (fcondAt sub).map fun c => .vfcmp h c o
  | 0x42 => pick sub [(0, .vrcp h o), (1, .vrsq h o), (2, .vexp2 h o), (3, .vlog2 h o)]
  | 0x4B => pick sub [(0, .vgath h o), (1, .vscat h o)]
  | 0x4C => pick sub [(0, .fence h o), (1, .pref h o)]
  | 0x55 => pick sub [(0, .stash h o), (1, .unstash h o), (2, .flush h o)]
  | 0x5A => pick sub [(0, .mpri h o), (1, .mfence h o), (2, .mstat h o)]
  | 0x5C => pick sub [(0, match o.mod.toNat % 4 with
        | 0 => .bscaleBlk h o
        | 1 => .bscaleAmax h o
        | _ => .bscaleBand h o),
      (1, .qnt h o), (2, .dqnt h o), (3, .qsplit h o), (4, .spcomp h o), (5, .spchk h o)]
  | 0x60 => pick sub [(0, .evsig h o), (1, .evwait h o), (2, .evclr h o)]
  | 0x61 => pick sub [(0, match o.mod.toNat % 4 with
        | 0 => .bararr h o
        | 1 => .bararrInit h o
        | _ => .bararrFree h o), (1, .barwait h o)]
  | 0x62 => pick sub [(0, if o.mod.getLsbD 5 then .watchX h o else .watch h o), (1, .wfe h o), (2, .sev h o)]
  | 0x66 => pick sub [(0, .pop h o), (1, .pushw h o), (2, .qclose h o)]
  | 0x74 => pick sub [(0, .bkpt h o), (1, .trace h o), (2, match o.mod.toNat % 4 with
        | 0 => .perfRd h o
        | 1 => .perfCfg h o
        | _ => .perfClr h o), (3, .rmark h o)]
  | _ => none

def buildL (major sub : Nat) (h : Hd) (o : OpL) : Option Instr :=
  match major with
  | 0x14 => pick sub [(0, .li h o), (1, .lih h o)]
  | 0x17 => pick sub [(0, .mfs h o), (1, .mts h o)]
  | _ => none

def buildM (major sub : Nat) (h : Hd) (o : OpM) : Option Instr :=
  match major with
  | 0x48 => pick sub [(0, .ld h o)]
  | 0x49 => pick sub [(0, .st h o)]
  | 0x4A => pick sub [(0, .vld h o), (1, .vst h o)]
  | _ => none

def buildJ (major : Nat) (h : Hd) (o : OpJ) : Option Instr :=
  match major with
  | 0x02 => some (.bra h o)
  | 0x03 => some (.call h o)
  | 0x05 => some (.loop h o)
  | _ => none

def buildE (major sub : Nat) (h : Hd) (o : OpE) : Option Instr :=
  match major with
  | 0x4D => pick sub [(0, .amoAdd h o), (1, .amoAnd h o), (2, .amoOr h o), (3, .amoXor h o), (4, .amoMin h o), (5, .amoMax h o),
      (6, .amoMinn h o), (7, .amoMaxn h o), (8, .amoSwap h o), (9, .amoFadd h o), (0x10, .cas h o)]
  | 0x4E => pick sub [(0, .stm h o), (1, .stred h o)]
  | 0x54 => pick sub [(0, .sbind h o), (1, .sbindx h o), (2, .sdone h o), (3, .sskip h o), (4, .sstat h o)]
  | 0x58 => pick sub [(0, .mload h o), (1, .mswap h o), (2, .mzero h o), (3, .mdrain h o)]
  | 0x59 => if sub < 0x80 then (pairAt sub).map fun p => .mmul h p o else (pairAt (sub - 0x80)).map fun p => .mmuls h p o
  | 0x63 => pick sub [(0, match o.mod.toNat % 4 with
        | 0 => .xbsetCtr h o
        | 1 => .xbsetTerm h o
        | 2 => .xbsetTimer h o
        | _ => .xbsetReset h o)]
  | 0x64 => pick sub [(0, .launch h o), (1, .cntadd h o), (2, .cancel h o), (3, .clkreq h o)]
  | 0x68 => pick sub [(0, .amsg h o), (1, .amret h o), (2, .amwait h o)]
  | 0x6A => pick sub [(0, .cpy h o), (1, .cpytry h o), (2, .cpywait h o)]
  | 0x6B => pick sub [(0, if o.mod.getLsbD 4 then .mcfillPark h o else .mcfill h o), (1, .mcdrain h o), (2, .mbxpop h o)]
  | 0x6C => pick sub [(0, .rput h o), (1, .grantp h o), (2, .rcancel h o)]
  | 0x6E => pick sub [(0, if o.mod.getLsbD 0 then .etinitFree h o else .etinit h o), (1, .eloadv h o), (2, .eset h o), (3, .eadd h o),
      (4, .eget h o), (5, .esum h o), (6, .enext h o), (7, .eseed h o), (8, .etab h o),
      (9, if o.mod.getLsbD 0 then .eclkSet h o else .eclk h o)]
  | 0x70 => pick sub [(0, .tsend h o), (1, .tend h o), (2, .tabort h o), (3, .tgvt h o), (4, .tkey h o), (5, .twait h o)]
  | 0x72 => pick sub [(0, .gpost h o), (1, .gwait h o), (2, .gtkt h o), (3, .gcancel h o), (4, .gstat h o)]
  | _ => none

/-- RET is JMPI with D = 0xC0 and S1 = s1 (R108). -/
def buildA (major : Nat) (h : Hd) (o : OpA) : Option Instr :=
  if major = 0x04 then some (if o.d = .none ∧ o.s1 = .s 1 then .ret h else .jmpi h o) else none

/-- A format-Z instruction: its predicate stands in the row of its own. -/
def buildZ (major : Nat) (h : Hd) : Option Instr :=
  let h0 : Hd := { h with pred := none }
  match major with
  | 0x01 => some (match h.pred with
      | none => .nop h0
      | some q => .nopPred h0 q)
  | 0x06 => some (match h.pred with
      | none => .exit h0
      | some q => .exitPred h0 q)
  | 0x07 => some (match h.pred with
      | none => .yield h0
      | some q => .yieldPred h0 q)
  | 0x0A => some (match h.pred with
      | none => .unfollow h0
      | some q => .unfollowPred h0 q)
  | _ => none

def build (major sub : Nat) (h : Hd) : Opnds → Option Instr
  | .z => buildZ major h
  | .a o => buildA major h o
  | .b o => buildB major sub h o
  | .c o => buildC major sub h o
  | .l o => buildL major sub h o
  | .m o => buildM major sub h o
  | .j o => buildJ major h o
  | .e o => buildE major sub h o

/-- Major, SUB, head and operands of an instruction; none for END and for events. -/
def partsOf : Instr → Option (Nat × Nat × Hd × Opnds)
  | .nop h => some (0x01, 0, h, .z)
  | .nopPred h q => some (0x01, 0, { h with pred := some q }, .z)
  | .exit h => some (0x06, 0, h, .z)
  | .exitPred h q => some (0x06, 0, { h with pred := some q }, .z)
  | .yield h => some (0x07, 0, h, .z)
  | .yieldPred h q => some (0x07, 0, { h with pred := some q }, .z)
  | .unfollow h => some (0x0A, 0, h, .z)
  | .unfollowPred h q => some (0x0A, 0, { h with pred := some q }, .z)
  | .bra h o => some (0x02, 0x00, h, .j o)
  | .call h o => some (0x03, 0x00, h, .j o)
  | .loop h o => some (0x05, 0x00, h, .j o)
  | .jmpi h o => some (0x04, 0, h, .a o)
  | .ret h => some (0x04, 0, h, .a ⟨.none, .s 1⟩)
  | .align h o => some (0x08, 0x00, h, .b o)
  | .follow h o => some (0x09, 0x00, h, .b o)
  | .add h o => some (0x10, 0x00, h, .b o)
  | .sub h o => some (0x10, 0x01, h, .b o)
  | .mul h o => some (0x10, 0x02, h, .b o)
  | .mulh h o => some (0x10, 0x03, h, .b o)
  | .div h o => some (0x10, 0x04, h, .b o)
  | .rem h o => some (0x10, 0x05, h, .b o)
  | .min h o => some (0x10, 0x06, h, .b o)
  | .max h o => some (0x10, 0x07, h, .b o)
  | .mulhN h o => some (0x10, 0x0A, h, .b o)
  | .divN h o => some (0x10, 0x0B, h, .b o)
  | .remN h o => some (0x10, 0x0C, h, .b o)
  | .minN h o => some (0x10, 0x0D, h, .b o)
  | .maxN h o => some (0x10, 0x0E, h, .b o)
  | .and h o => some (0x11, 0x00, h, .b o)
  | .or h o => some (0x11, 0x01, h, .b o)
  | .xor h o => some (0x11, 0x02, h, .b o)
  | .andn h o => some (0x11, 0x03, h, .b o)
  | .shl h o => some (0x11, 0x04, h, .b o)
  | .shr h o => some (0x11, 0x05, h, .b o)
  | .sar h o => some (0x11, 0x06, h, .b o)
  | .clz h o => some (0x12, 0x00, h, .b o)
  | .popc h o => some (0x12, 0x01, h, .b o)
  | .mov h o => some (0x12, 0x02, h, .b o)
  | .cmp h c o => some (0x15, icondCode c, h, .b o)
  | .pand h o => some (0x16, 0x00, h, .b o)
  | .por h o => some (0x16, 0x01, h, .b o)
  | .pxor h o => some (0x16, 0x02, h, .b o)
  | .pnot h o => some (0x16, 0x03, h, .b o)
  | .pmov h o => some (0x16, 0x04, h, .b o)
  | .trap h o => some (0x28, 0x00, h, .b o)
  | .trapret h o => some (0x28, 0x01, h, .b o)
  | .upret h o => some (0x28, 0x02, h, .b o)
  | .chkpt h o => some (0x28, 0x03, h, .b o)
  | .fibset h o => some (0x28, 0x04, h, .b o)
  | .li h o => some (0x14, 0x00, h, .l o)
  | .lih h o => some (0x14, 0x01, h, .l o)
  | .mfs h o => some (0x17, 0x00, h, .l o)
  | .mts h o => some (0x17, 0x01, h, .l o)
  | .bfx h o => some (0x13, 0x00, h, .c o)
  | .bfi h o => some (0x13, 0x01, h, .c o)
  | .sel h o => some (0x13, 0x02, h, .c o)
  | .fadd h o => some (0x20, 0x00, h, .c o)
  | .fsub h o => some (0x20, 0x01, h, .c o)
  | .fmul h o => some (0x20, 0x02, h, .c o)
  | .fma h o => some (0x20, 0x03, h, .c o)
  | .fdiv h o => some (0x20, 0x04, h, .c o)
  | .fsqrt h o => some (0x20, 0x05, h, .c o)
  | .fmin h o => some (0x20, 0x06, h, .c o)
  | .fmax h o => some (0x20, 0x07, h, .c o)
  | .fcmp h c o => some (0x21, fcondCode c, h, .c o)
  | .fcvt h o => some (0x21, 0x10, h, .c o)
  | .vadd h o => some (0x30, 0x00, h, .c o)
  | .vsub h o => some (0x30, 0x01, h, .c o)
  | .vmul h o => some (0x30, 0x02, h, .c o)
  | .vmad h o => some (0x30, 0x03, h, .c o)
  | .vmin h o => some (0x30, 0x04, h, .c o)
  | .vmax h o => some (0x30, 0x05, h, .c o)
  | .vabs h o => some (0x30, 0x06, h, .c o)
  | .vand h o => some (0x31, 0x00, h, .c o)
  | .vor h o => some (0x31, 0x01, h, .c o)
  | .vxor h o => some (0x31, 0x02, h, .c o)
  | .vshl h o => some (0x31, 0x03, h, .c o)
  | .vshr h o => some (0x31, 0x04, h, .c o)
  | .vsar h o => some (0x31, 0x05, h, .c o)
  | .vcmp h c o => some (0x32, icondCode c, h, .c o)
  | .vmov h o => some (0x33, 0x00, h, .c o)
  | .vbcast h o => some (0x33, 0x01, h, .c o)
  | .vsel h o => some (0x33, 0x02, h, .c o)
  | .vcvt h o => some (0x33, 0x03, h, .c o)
  | .vperm h o => some (0x34, 0x00, h, .c o)
  | .vred h o => some (0x34, 0x01, h, .c o)
  | .vscan h o => some (0x34, 0x02, h, .c o)
  | .vext h o => some (0x34, 0x03, h, .c o)
  | .vins h o => some (0x34, 0x04, h, .c o)
  | .vcomp h o => some (0x34, 0x05, h, .c o)
  | .vexpd h o => some (0x34, 0x06, h, .c o)
  | .vfadd h o => some (0x40, 0x00, h, .c o)
  | .vfsub h o => some (0x40, 0x01, h, .c o)
  | .vfmul h o => some (0x40, 0x02, h, .c o)
  | .vfma h o => some (0x40, 0x03, h, .c o)
  | .vfmin h o => some (0x40, 0x04, h, .c o)
  | .vfmax h o => some (0x40, 0x05, h, .c o)
  | .vfcmp h c o => some (0x41, fcondCode c, h, .c o)
  | .vrcp h o => some (0x42, 0x00, h, .c o)
  | .vrsq h o => some (0x42, 0x01, h, .c o)
  | .vexp2 h o => some (0x42, 0x02, h, .c o)
  | .vlog2 h o => some (0x42, 0x03, h, .c o)
  | .ld h o => some (0x48, 0x00, h, .m o)
  | .st h o => some (0x49, 0x00, h, .m o)
  | .vld h o => some (0x4A, 0x00, h, .m o)
  | .vst h o => some (0x4A, 0x01, h, .m o)
  | .vgath h o => some (0x4B, 0x00, h, .c o)
  | .vscat h o => some (0x4B, 0x01, h, .c o)
  | .fence h o => some (0x4C, 0x00, h, .c o)
  | .pref h o => some (0x4C, 0x01, h, .c o)
  | .amoAdd h o => some (0x4D, 0x00, h, .e o)
  | .amoAnd h o => some (0x4D, 0x01, h, .e o)
  | .amoOr h o => some (0x4D, 0x02, h, .e o)
  | .amoXor h o => some (0x4D, 0x03, h, .e o)
  | .amoMin h o => some (0x4D, 0x04, h, .e o)
  | .amoMax h o => some (0x4D, 0x05, h, .e o)
  | .amoMinn h o => some (0x4D, 0x06, h, .e o)
  | .amoMaxn h o => some (0x4D, 0x07, h, .e o)
  | .amoSwap h o => some (0x4D, 0x08, h, .e o)
  | .amoFadd h o => some (0x4D, 0x09, h, .e o)
  | .cas h o => some (0x4D, 0x10, h, .e o)
  | .stm h o => some (0x4E, 0x00, h, .e o)
  | .stred h o => some (0x4E, 0x01, h, .e o)
  | .sbind h o => some (0x54, 0x00, h, .e o)
  | .sbindx h o => some (0x54, 0x01, h, .e o)
  | .sdone h o => some (0x54, 0x02, h, .e o)
  | .sskip h o => some (0x54, 0x03, h, .e o)
  | .sstat h o => some (0x54, 0x04, h, .e o)
  | .stash h o => some (0x55, 0x00, h, .c o)
  | .unstash h o => some (0x55, 0x01, h, .c o)
  | .flush h o => some (0x55, 0x02, h, .c o)
  | .mload h o => some (0x58, 0x00, h, .e o)
  | .mswap h o => some (0x58, 0x01, h, .e o)
  | .mzero h o => some (0x58, 0x02, h, .e o)
  | .mdrain h o => some (0x58, 0x03, h, .e o)
  | .mmul h c o => some (0x59, pairCode c, h, .e o)
  | .mmuls h c o => some (0x59, 0x80 + pairCode c, h, .e o)
  | .mpri h o => some (0x5A, 0x00, h, .c o)
  | .mfence h o => some (0x5A, 0x01, h, .c o)
  | .mstat h o => some (0x5A, 0x02, h, .c o)
  | .bscaleBlk h o => some (0x5C, 0x00, h, .c o)
  | .bscaleAmax h o => some (0x5C, 0x00, h, .c o)
  | .bscaleBand h o => some (0x5C, 0x00, h, .c o)
  | .qnt h o => some (0x5C, 0x01, h, .c o)
  | .dqnt h o => some (0x5C, 0x02, h, .c o)
  | .qsplit h o => some (0x5C, 0x03, h, .c o)
  | .spcomp h o => some (0x5C, 0x04, h, .c o)
  | .spchk h o => some (0x5C, 0x05, h, .c o)
  | .evsig h o => some (0x60, 0x00, h, .c o)
  | .evwait h o => some (0x60, 0x01, h, .c o)
  | .evclr h o => some (0x60, 0x02, h, .c o)
  | .bararr h o => some (0x61, 0x00, h, .c o)
  | .bararrInit h o => some (0x61, 0x00, h, .c o)
  | .bararrFree h o => some (0x61, 0x00, h, .c o)
  | .barwait h o => some (0x61, 0x01, h, .c o)
  | .watch h o => some (0x62, 0x00, h, .c o)
  | .watchX h o => some (0x62, 0x00, h, .c o)
  | .wfe h o => some (0x62, 0x01, h, .c o)
  | .sev h o => some (0x62, 0x02, h, .c o)
  | .xbsetCtr h o => some (0x63, 0x00, h, .e o)
  | .xbsetTerm h o => some (0x63, 0x00, h, .e o)
  | .xbsetTimer h o => some (0x63, 0x00, h, .e o)
  | .xbsetReset h o => some (0x63, 0x00, h, .e o)
  | .launch h o => some (0x64, 0x00, h, .e o)
  | .cntadd h o => some (0x64, 0x01, h, .e o)
  | .cancel h o => some (0x64, 0x02, h, .e o)
  | .clkreq h o => some (0x64, 0x03, h, .e o)
  | .pop h o => some (0x66, 0x00, h, .c o)
  | .pushw h o => some (0x66, 0x01, h, .c o)
  | .qclose h o => some (0x66, 0x02, h, .c o)
  | .amsg h o => some (0x68, 0x00, h, .e o)
  | .amret h o => some (0x68, 0x01, h, .e o)
  | .amwait h o => some (0x68, 0x02, h, .e o)
  | .cpy h o => some (0x6A, 0x00, h, .e o)
  | .cpytry h o => some (0x6A, 0x01, h, .e o)
  | .cpywait h o => some (0x6A, 0x02, h, .e o)
  | .mcfill h o => some (0x6B, 0x00, h, .e o)
  | .mcfillPark h o => some (0x6B, 0x00, h, .e o)
  | .mcdrain h o => some (0x6B, 0x01, h, .e o)
  | .mbxpop h o => some (0x6B, 0x02, h, .e o)
  | .rput h o => some (0x6C, 0x00, h, .e o)
  | .grantp h o => some (0x6C, 0x01, h, .e o)
  | .rcancel h o => some (0x6C, 0x02, h, .e o)
  | .etinit h o => some (0x6E, 0x00, h, .e o)
  | .etinitFree h o => some (0x6E, 0x00, h, .e o)
  | .eloadv h o => some (0x6E, 0x01, h, .e o)
  | .eset h o => some (0x6E, 0x02, h, .e o)
  | .eadd h o => some (0x6E, 0x03, h, .e o)
  | .eget h o => some (0x6E, 0x04, h, .e o)
  | .esum h o => some (0x6E, 0x05, h, .e o)
  | .enext h o => some (0x6E, 0x06, h, .e o)
  | .eseed h o => some (0x6E, 0x07, h, .e o)
  | .etab h o => some (0x6E, 0x08, h, .e o)
  | .eclk h o => some (0x6E, 0x09, h, .e o)
  | .eclkSet h o => some (0x6E, 0x09, h, .e o)
  | .tsend h o => some (0x70, 0x00, h, .e o)
  | .tend h o => some (0x70, 0x01, h, .e o)
  | .tabort h o => some (0x70, 0x02, h, .e o)
  | .tgvt h o => some (0x70, 0x03, h, .e o)
  | .tkey h o => some (0x70, 0x04, h, .e o)
  | .twait h o => some (0x70, 0x05, h, .e o)
  | .gpost h o => some (0x72, 0x00, h, .e o)
  | .gwait h o => some (0x72, 0x01, h, .e o)
  | .gtkt h o => some (0x72, 0x02, h, .e o)
  | .gcancel h o => some (0x72, 0x03, h, .e o)
  | .gstat h o => some (0x72, 0x04, h, .e o)
  | .bkpt h o => some (0x74, 0x00, h, .c o)
  | .trace h o => some (0x74, 0x01, h, .c o)
  | .perfRd h o => some (0x74, 0x02, h, .c o)
  | .perfCfg h o => some (0x74, 0x02, h, .c o)
  | .perfClr h o => some (0x74, 0x02, h, .c o)
  | .rmark h o => some (0x74, 0x03, h, .c o)
  | .lineEnd | .alignWindowExpiry _ | .joinWindowExpiry _ | .twillForwardIssue _ | .issueSelect _ | .fetchLine _
  | .storePerformed _ | .destCheckAtHome _ | .errorRecordReserve _ _ | .streamServe _ _ | .streamFault _ _ | .stashRecall _ _
  | .guestCopyExpiry _ _ | .planeLoadStart _ | .planeLoadDone _ | .arbiterGrant _ | .kstepBoundary _ | .lastRow _
  | .matrixRetire _ | .matrixFault _ _ _ | .matrixAgeing _ _ | .columnRemap _ | .evwaitTimeout _ | .watchPoll _ | .wfeTimeout _
  | .damaskTermFire _ | .damaskTimer _ | .unitStart _ _ | .unitWithdrawn _ _ | .counterAdd | .grantChange _ | .tailWrite _ _ _ _ _
  | .packetRead _ _ | .holdEnds _ _ | .packetComplete _ _ _ | .queueStop _ _ | .queueResume _ _ _ | .leaseRenew _ _
  | .leaseTakeover _ _ | .messageArrival _ | .handlerStart _ | .htimeout _ | .replyArrival _ | .bounce _ | .copyStart _ _
  | .copyDone _ _ | .copyFault _ _ | .hbFillEnd _ _ | .transferAnnounce _ _ | .tokenGrant _ | .tokenArrival _ _ | .tablaAgeing _ _
  | .tokenExpiry _ _ | .keepalive _ _ | .reclaim _ _ | .reclaimNotice _ _ | .transferComplete _ _ | .transferFault _ _
  | .expiryNotice _ _ | .transferSendDone _ _ | .taskArrival _ | .taskDispatch _ | .gvtRound _ | .groupCreate _ _ _ _ _
  | .groupDestroy _ | .ticketIssue _ _ | .ticketArrival _ _ _ | .horizonBeacon _ _ | .collectiveAdmit _ | .collectiveFinish _ _ _
  | .collectiveWithdraw _ _ | .cancelNotice _ _ _ | .abandonNotice _ _ _ | .mismatchNotice _ _ _ | .ticketAgeBreach _ _ _
  | .breakpoint _ | .crossTriggerHalt _ _ | .debugRelease _ | .issueLogFreed _ _ | .replayModeSet _ _ _ | .admitPart _ _ | .preempt _
  | .resume _ | .spill _ | .restore _ _ | .halt _ | .release _ | .liveDump _ | .quiesce _ | .checkpoint _ | .quiesceWithdraw _
  | .checkpointLimit _ | .evictionTransferDone _ _ _ | .destroy _ _ | .asyncMcheck _ | .contextCreate _ | .map _ _ _ _ _
  | .unmap _ _ | .migrate _ _ _ _ | .replicate _ _ _ | .collapse _ _ | .migrationDone _ _ | .lineLost _ _ _ | .pinLimit _ _
  | .hotnessHalving _ | .rightsShootdown _ _ _ | .spareCoreMap _ _ | .l2WayRetire _ | .scrubSweep _ _ _ _ | .resourceWithdrawal _ _
  | .linkEnable _ _ | .linkDisable _ _ | .linkTrained _ _ _ | .trainingFailed _ _ | .retrain _ _ | .frameReceive _ _ _
  | .nakReceive _ _ _ | .idleFrame _ _ | .rekey _ _ _ | .retire _ _ | .oldKeyTimeout _ _ | .endToEndAck _ _ _ | .linkDrain _ _
  | .linkDrained _ _ | .linkEncryptionSet _ _ _ | .censusSnapshot _ | .peerLoss _ | .moduleReset _ _ | .mgmtRegWrite _ _ _
  | .pcapWrite _ _ | .evictGo _ _ | .evictAbort _ | .evictTimeout _ | .evictReleased _ | .latchOpened _ | .freeze _
  | .leaseLapse _ | .healthRecordWrite _ | .firmwareUpdate _ _ | .powerOff _ => none

/-! ## Permitted operands (R70, R73, R76) -/

/-- Kinds of a source field, added up: 1 v, 2 s, 4 c, 8 inline literal, 16 literal slot, 32 the specifiers 0x80 to 0x87, 64 exactly 0x00,
128 the specifiers 0x81 to 0x87, 256 exactly 0xC0, 512 v56 to v63; 0 an unused field, which must be 0x00. Destinations: 1 v, 2 s, 4 p, 8 none,
512 v56 to v63. -/
structure Sig where
  d  : Nat := 8
  s1 : Nat := 0
  s2 : Nat := 0
  s3 : Nat := 0
  s4 : Nat := 0
  s5 : Nat := 0
  modOk : Bool := true
  deriving DecidableEq, Repr

/-- sc, sc+ and vsc of R104 and R126. (DEDUCED: log 14.) -/
def kSc : Nat := 14
def kScp : Nat := 30
def kVsc : Nat := 15

def has (mask b : Nat) : Bool := mask / b % 2 = 1

/-- Whether a source kind is permitted by a field's mask. The code of the literal slot is a literal's where the format has no slot, and LITSLOT is
its fault there; in a format with a slot it is permitted only where the entry says so (R104). (DEDUCED: log 14.) -/
def srcOk (slotted : Bool) (mask : Nat) : Src → Bool
  | .v i => has mask 1 || (has mask 512 && decide (56 ≤ i.val)) || (has mask 64 && i.val = 0)
  | .s _ => has mask 2
  | .c i => has mask 4 || (has mask 32 && decide (i.val < 8)) || (has mask 128 && decide (1 ≤ i.val ∧ i.val < 8))
  | .lit n => has mask 8 || (has mask 256 && n = 0)
  | .slot => has mask 16 || (!slotted && has mask 8)

/-- DEDUCED: log 13. -/
def dstOk (mask : Nat) : Dst → Bool
  | .v i => has mask 1 || (has mask 512 && decide (56 ≤ i.val))
  | .s _ => has mask 2
  | .p _ => has mask 4
  | .none => has mask 8

/-- MOD bits outside a mask are reserved (R76). -/
def modIn (mod : BitVec 8) (mask : Nat) : Bool := mod &&& ~~~(BitVec.ofNat 8 mask) = 0

/-- ORD and SCOPE (R178, R196): scope codes 6 and 7, plain with a scope, and the order that the member does not take are reserved. -/
def ordOk (mod : BitVec 8) (acq rel both : Bool) : Bool :=
  let ord := mod.toNat / 64
  let sc := mod.toNat / 8 % 8
  sc < 6 && (match ord with
    | 0 => sc = 0
    | 1 => acq
    | 2 => rel
    | _ => both)

def isP : Dst → Bool
  | .p _ => true
  | _ => false

/-- The operand rules of each instruction. -/
def sigOf : Instr → Sig
  | .align _ _ | .follow _ _ => { s1 := kSc, s2 := kSc }
  | .jmpi _ _ | .ret _ => { d := 10, s1 := 6 }
  | .add _ _ | .sub _ _ | .mul _ _ | .mulh _ _ | .div _ _ | .rem _ _ | .min _ _ | .max _ _ | .mulhN _ _ | .divN _ _ | .remN _ _
  | .minN _ _ | .maxN _ _ | .and _ _ | .or _ _ | .xor _ _ | .andn _ _ | .shl _ _ | .shr _ _ | .sar _ _ =>
    { d := 2, s1 := kSc, s2 := kSc }
  | .clz _ _ | .popc _ _ | .mov _ _ => { d := 2, s1 := kSc }
  | .cmp _ _ _ => { d := 6, s1 := kSc, s2 := kSc }
  | .pand _ _ | .por _ _ | .pxor _ _ => { d := 4, s1 := 32, s2 := 32 }
  | .pnot _ _ => { d := 4, s1 := 32 }
  | .pmov _ _ => { d := 6, s1 := 42 }
  | .trap _ _ => { s1 := kSc }
  | .trapret _ _ => { s1 := 70 }
  | .upret _ _ => { s1 := 6 }
  | .chkpt _ _ | .fibset _ _ => { d := 10, s1 := kSc }
  | .bfx _ o => { d := 2, s1 := kSc, s2 := kSc, s3 := kSc, modOk := modIn o.mod 1 }
  | .bfi _ o => { d := 2, s1 := kSc, s2 := kSc, s3 := kSc, modOk := modIn o.mod 0 }
  | .sel _ o => { d := 2, s1 := kSc, s2 := kSc, modOk := modIn o.mod 15 }
  | .li _ _ | .lih _ _ => { d := 2, s1 := kScp }
  | .mfs _ _ => { d := 2 }
  | .mts _ _ => { s1 := kSc }
  | .fadd _ o | .fsub _ o | .fmul _ o | .fdiv _ o | .fmin _ o | .fmax _ o =>
    { d := 2, s1 := kSc, s2 := kSc, modOk := modIn o.mod 1 }
  | .fma _ o => { d := 2, s1 := kSc, s2 := kSc, s3 := kSc, modOk := modIn o.mod 1 }
  | .fsqrt _ o => { d := 2, s1 := kSc, modOk := modIn o.mod 1 }
  | .fcmp _ _ o => { d := 6, s1 := kSc, s2 := kSc, modOk := modIn o.mod 1 }
  | .fcvt _ o => { d := 2, s1 := kSc, modOk := decide (o.mod.toNat / 16 ≠ 7) }
  -- vectors: width 0b11 is reserved
  | .vadd _ o | .vsub _ o | .vmul _ o => { d := 1, s1 := kVsc, s2 := kVsc, modOk := modIn o.mod 15 && decide (o.mod.toNat % 4 ≠ 3) }
  | .vmad _ o => { d := 1, s1 := kVsc, s2 := kVsc, s3 := kVsc, modOk := modIn o.mod 15 && decide (o.mod.toNat % 4 ≠ 3) }
  | .vmin _ o | .vmax _ o => { d := 1, s1 := kVsc, s2 := kVsc, modOk := modIn o.mod 7 && decide (o.mod.toNat % 4 ≠ 3) }
  | .vabs _ o => { d := 1, s1 := kVsc, modOk := modIn o.mod 11 && decide (o.mod.toNat % 4 ≠ 3) }
  | .vand _ o | .vor _ o | .vxor _ o | .vshr _ o | .vsar _ o =>
    { d := 1, s1 := kVsc, s2 := kVsc, modOk := modIn o.mod 3 && decide (o.mod.toNat % 4 ≠ 3) }
  | .vshl _ o => { d := 1, s1 := kVsc, s2 := kVsc, modOk := modIn o.mod 15 && decide (o.mod.toNat % 4 ≠ 3) }
  | .vcmp _ _ o =>
    { d := 5, s1 := kVsc, s2 := kVsc, modOk := modIn o.mod 3 && decide (o.mod.toNat % 4 ≠ 3) && (!isP o.d || o.mod.toNat % 4 = 0) }
  | .vmov _ o => { d := 1, s1 := kVsc, modOk := modIn o.mod 0 }
  | .vbcast _ o => { d := 1, s1 := 1, s2 := kSc, modOk := modIn o.mod 0 }
  | .vsel _ o => { d := 1, s1 := kVsc, s2 := kVsc, modOk := modIn o.mod 15 }
  | .vcvt _ o =>
    let dt := o.mod.toNat / 16
    let st := o.mod.toNat % 16
    { d := 1, s1 := kVsc, s2 := 8,
      modOk := decide (dt ≠ 0 ∧ dt ≠ 8 ∧ dt ≠ 12 ∧ dt ≠ 7 ∧ st ≠ 0 ∧ st ≠ 8 ∧ st ≠ 12) }
  | .vperm _ o => { d := 1, s1 := 1, s2 := kVsc, modOk := modIn o.mod 0 }
  | .vred _ o => { d := 2, s1 := 1, modOk := modIn o.mod 15 && decide (o.mod.toNat % 16 ≤ 10) }
  | .vscan _ o => { d := 1, s1 := 1, modOk := modIn o.mod 31 && decide (o.mod.toNat % 16 ≤ 10) }
  | .vext _ o => { d := 2, s1 := 1, s2 := kSc, modOk := modIn o.mod 1 }
  | .vins _ o => { d := 1, s1 := kSc, s2 := kSc, modOk := modIn o.mod 0 }
  | .vcomp _ o => { d := 1, s1 := 1, modOk := modIn o.mod 1 }
  | .vexpd _ o => { d := 1, s1 := 1, modOk := modIn o.mod 0 }
  | .vfadd _ o | .vfsub _ o | .vfmul _ o | .vfmin _ o | .vfmax _ o =>
    { d := 1, s1 := kVsc, s2 := kVsc, modOk := modIn o.mod 3 && decide (o.mod.toNat % 4 ≠ 3) }
  | .vfma _ o => { d := 1, s1 := kVsc, s2 := kVsc, s3 := kVsc, modOk := modIn o.mod 3 && decide (o.mod.toNat % 4 ≠ 3) }
  | .vfcmp _ _ o =>
    { d := 5, s1 := kVsc, s2 := kVsc, modOk := modIn o.mod 3 && decide (o.mod.toNat % 4 ≠ 3) && (!isP o.d || o.mod.toNat % 4 = 0) }
  | .vrcp _ o | .vrsq _ o | .vexp2 _ o | .vlog2 _ o => { d := 1, s1 := kVsc, modOk := modIn o.mod 0 }
  -- memory: in format M, s1 is DATA where it is a source and s2 is BASE
  | .ld _ o => { d := 2, s2 := 2, modOk := ordOk o.mod true false false }
  | .st _ o => { s1 := kSc, s2 := 2, modOk := ordOk o.mod false true false && decide (o.mod.toNat % 2 = 0) }
  | .vld _ o => { d := 1, s2 := 2, modOk := ordOk o.mod true false false && decide (o.mod.toNat % 8 = 0) }
  | .vst _ o => { s1 := 1, s2 := 2, modOk := ordOk o.mod false true false && decide (o.mod.toNat % 8 = 0) }
  | .vgath _ o => { d := 1, s1 := 2, s2 := 1, modOk := modIn o.mod 7 }
  | .vscat _ o => { s1 := 2, s2 := 1, s3 := 1, modOk := modIn o.mod 7 }
  | .fence _ o => { modOk := decide (o.mod.toNat / 64 ≠ 3 ∧ o.mod.toNat / 8 % 8 < 6 ∧ o.mod.toNat % 8 = 0) }
  | .pref _ o => { s1 := 2, s2 := kSc, modOk := modIn o.mod 1 }
  | .amoAdd _ o | .amoAnd _ o | .amoOr _ o | .amoXor _ o | .amoMin _ o | .amoMax _ o | .amoMinn _ o | .amoMaxn _ o | .amoSwap _ o
  | .amoFadd _ o =>
    { d := 10, s1 := 2, s2 := kScp, s4 := if o.mod.getLsbD 2 then 128 else 0,
      modOk := ordOk o.mod true true true && decide (2 ≤ o.mod.toNat % 4) }
  | .cas _ o =>
    { d := 10, s1 := 2, s2 := kScp, s3 := kSc, s4 := if o.mod.getLsbD 2 then 128 else 0,
      modOk := ordOk o.mod true true true && decide (2 ≤ o.mod.toNat % 4) }
  | .stm _ o | .stred _ o =>
    { s1 := if 4 ≤ o.mod.toNat % 8 then 1 else kScp, s2 := 1, s3 := kSc,
      modOk := decide (o.mod.toNat < 128 ∧ o.mod.toNat / 8 % 8 < 6 ∧ o.mod.toNat % 8 < 6) }
  -- streams and the stash
  | .sbind _ o => { d := 512, s1 := kScp, modOk := modIn o.mod 1 }
  | .sbindx _ o => { d := 512, s1 := kScp, s2 := 512, modOk := modIn o.mod 0 }
  | .sdone _ o => { d := 10, s1 := 512, modOk := modIn o.mod 0 }
  | .sskip _ o => { d := 10, s1 := 512, s2 := kScp, modOk := modIn o.mod 0 }
  | .sstat _ o => { d := 2, s1 := 512, modOk := modIn o.mod 0 }
  | .stash _ o => { s1 := kSc, s2 := kSc, s3 := kSc, modOk := modIn o.mod 0 }
  | .unstash _ o => { s1 := kSc, modOk := modIn o.mod 0 }
  | .flush _ o => { s1 := kSc, s2 := kSc, modOk := modIn o.mod 0 }
  -- events, barriers, watches, Damask
  | .evsig _ o => { s1 := kSc, s2 := if o.mod.getLsbD 0 then kSc else 0, modOk := modIn o.mod 1 }
  | .evwait _ o => { d := 10, s1 := kSc, s2 := if o.mod.getLsbD 1 then 0 else kSc, modOk := modIn o.mod 3 }
  | .evclr _ o => { s1 := kSc, modOk := modIn o.mod 0 }
  | .bararr _ o => { d := 10, s1 := kSc, modOk := modIn o.mod 0 }
  | .bararrInit _ o => { d := 10, s1 := kSc, s2 := kSc, modOk := decide (o.mod.toNat = 1) }
  | .bararrFree _ o => { d := 10, s1 := kSc, modOk := decide (o.mod.toNat = 2) }
  | .barwait _ o => { d := 10, s1 := kSc, s2 := kSc, modOk := modIn o.mod 0 }
  | .watch _ o => { d := 10, s1 := 2, s2 := kSc, s3 := kSc, modOk := decide (o.mod.toNat < 32 ∧ o.mod.toNat % 16 < 10) }
  | .watchX _ o => { s1 := 2, modOk := decide (o.mod.toNat < 64 ∧ 32 ≤ o.mod.toNat ∧ o.mod.toNat % 16 < 10) }
  | .wfe _ o => { d := 10, s1 := kSc, modOk := modIn o.mod 0 }
  | .sev _ o => { s1 := kSc, modOk := modIn o.mod 1 }
  | .xbsetCtr _ o => { d := 10, s1 := kSc, s2 := kScp, modOk := decide (o.mod.toNat = 0) }
  | .xbsetTerm _ o => { d := 10, s1 := kSc, s2 := kScp, modOk := decide (o.mod.toNat = 1) }
  | .xbsetTimer _ o => { d := 10, s1 := kSc, s2 := kScp, modOk := decide (o.mod.toNat = 2) }
  | .xbsetReset _ o => { d := 10, s1 := kSc, s2 := kScp, modOk := decide (o.mod.toNat = 3) }
  -- work queues and messages
  | .pop _ o => { d := 2, s1 := kSc, modOk := modIn o.mod 15 }
  | .pushw _ o => { d := 10, s1 := kSc, s2 := kSc, modOk := modIn o.mod 8 }
  | .qclose _ o => { d := 10, s1 := kSc, modOk := modIn o.mod 0 }
  | .amsg _ o => { d := 10, s1 := kSc, s2 := kScp, s3 := 1, s4 := kSc, modOk := modIn o.mod 3 }
  | .amret _ o => { s1 := kScp + 64, modOk := modIn o.mod 0 }
  | .amwait _ o => { d := 10, s1 := kSc, s4 := if o.mod.getLsbD 0 then 128 else 0, modOk := modIn o.mod 1 }
  -- matrix units
  | .mload _ o => { s1 := 2, s2 := kScp, modOk := modIn o.mod 1 }
  | .mswap _ o => { modOk := modIn o.mod 0 }
  | .mzero _ o => { modOk := modIn o.mod 1 }
  | .mdrain _ o => { d := 10, s1 := 2, s2 := kScp, modOk := decide (o.mod.toNat < 32 ∧ o.mod.toNat / 2 % 8 < 4) }
  | .mmul _ _ o => { s1 := 2, s2 := kScp, s3 := 2, s4 := kSc, modOk := modIn o.mod 3 }
  | .mmuls _ _ o => { s1 := 2, s2 := kScp, s3 := 2, s4 := kSc, s5 := 1, modOk := modIn o.mod 3 }
  | .mpri _ o => { s1 := kSc, s2 := kSc, modOk := modIn o.mod 0 }
  | .mfence _ o => { modOk := modIn o.mod 0 }
  | .mstat _ o => { d := 2, modOk := modIn o.mod 0 }
  -- scales, quantisation, sparse tiles
  | .bscaleBlk _ o => { d := 1, s1 := 1, s2 := kSc, modOk := decide (o.mod.toNat < 128 ∧ o.mod.toNat % 4 = 0) }
  | .bscaleAmax _ o => { d := 2, s1 := 1, s2 := kSc, modOk := decide (o.mod.toNat = 1) }
  | .bscaleBand _ o => { d := 2, s1 := kSc, modOk := decide (o.mod.toNat = 2) }
  | .qnt _ o | .dqnt _ o =>
    let ty := o.mod.toNat % 16
    let part := o.mod.toNat / 32
    { d := 1, s1 := 1, s2 := if o.mod.getLsbD 4 then 1 else 0, s3 := kSc,
      modOk := (ty = 6 || (!o.mod.getLsbD 4 && ((ty = 11 || ty = 4 || ty = 5) && decide (part < 4) || (ty = 2 || ty = 3) && decide (part < 2)))) }
  | .qsplit _ o => { d := 1, s1 := 1, s2 := kSc, s3 := 2, modOk := modIn o.mod 0 }
  | .spcomp _ o =>
    let ty := o.mod.toNat % 16
    { d := 1, s1 := 1, s2 := 8, modOk := decide (o.mod.toNat < 32) && (decide (2 ≤ ty ∧ ty ≤ 6) || ty = 10 || ty = 11) }
  | .spchk _ o => { d := 6, s1 := 1, modOk := modIn o.mod 0 }
  -- event trees
  | .etinit _ o => { s1 := kSc, s2 := kScp, modOk := decide (o.mod.toNat = 0) }
  | .etinitFree _ o => { s1 := kSc, modOk := decide (o.mod.toNat = 1) }
  | .eloadv _ o => { s1 := kSc, s2 := kScp, s3 := 1, modOk := modIn o.mod 0 }
  | .eset _ o | .eadd _ o | .eseed _ o => { d := 10, s1 := kSc, s2 := kScp, s3 := kSc, modOk := modIn o.mod 0 }
  | .eget _ o | .esum _ o => { d := 2, s1 := kSc, s2 := kScp, modOk := modIn o.mod 0 }
  | .enext _ o => { d := 2, s1 := kSc, s2 := 258, modOk := modIn o.mod 3 }
  | .etab _ o => { s1 := kSc, s2 := kScp, s3 := kSc, modOk := modIn o.mod 0 }
  | .eclk _ o => { d := 10, s1 := kSc, modOk := decide (o.mod.toNat = 0) }
  | .eclkSet _ o => { d := 10, s1 := kSc, s2 := kScp, modOk := decide (o.mod.toNat = 1) }
  -- tasks
  | .tsend _ o => { d := 10, s1 := kSc, s2 := kScp, s3 := 1, s4 := kSc, s5 := kSc, modOk := modIn o.mod 1 }
  | .tend _ o => { d := 10, modOk := modIn o.mod 1 }
  | .tabort _ o => { modOk := modIn o.mod 1 }
  | .tgvt _ o | .tkey _ o => { d := 2, modOk := modIn o.mod 3 && decide (o.mod.toNat ≠ 3) }
  | .twait _ o => { d := 10, s1 := kSc, s2 := kSc, modOk := modIn o.mod 1 }
  | .launch _ o => { d := 10, s1 := kScp, modOk := decide (o.mod = 0) }
  | .cntadd _ o => { d := 10, s1 := 2, s2 := kScp, s3 := kSc, modOk := modIn o.mod 0x38 && decide (o.mod.toNat / 8 < 6) }
  | .cancel _ o => { d := 10, s1 := 2, modOk := decide (o.mod = 0) }
  | .clkreq _ o => { d := 10, s1 := kScp, modOk := decide (o.mod = 0) }
  | .cpy _ o => { d := 10, s1 := kScp, s2 := kScp, s3 := kScp, s4 := kScp, modOk := modIn o.mod 0x3F }
  | .cpytry _ o => { d := 2, s1 := kScp, s2 := kScp, s3 := kScp, s4 := kScp, modOk := modIn o.mod 0x3F }
  | .cpywait _ o => { d := 10, s1 := kScp, modOk := modIn o.mod 7 && decide (o.mod.toNat < 5) }
  | .mcfill _ o => { d := 10, s1 := kScp, s2 := kScp, s3 := kScp, s4 := kScp, modOk := modIn o.mod 0x23 }
  | .mcfillPark _ o => { d := 10, s1 := kScp, s2 := kScp, s3 := kScp, s4 := kScp, modOk := modIn o.mod 0x33 && o.mod.getLsbD 4 }
  | .mcdrain _ o => { d := 2, s1 := kSc, s2 := kScp, modOk := modIn o.mod 1 }
  | .mbxpop _ o => { d := 1, s4 := 192, modOk := modIn o.mod 1 && (!o.mod.getLsbD 0 || decide (o.s4 ≠ .v 0)) }
  | .rput _ o => { d := 10, s1 := kSc, s2 := kScp, s3 := kScp, s4 := kScp, s5 := if o.mod.getLsbD 0 then kSc else 0, modOk := modIn o.mod 3 }
  | .grantp _ o => { d := 10, s1 := kScp, modOk := decide (o.mod = 0) }
  | .rcancel _ o => { d := 10, s1 := kScp, modOk := decide (o.mod = 0) }
  | .gpost _ o => { d := 10, s1 := kSc, s2 := kScp, modOk := modIn o.mod 0 }
  | .gwait _ o => { d := 10, s1 := kSc, modOk := modIn o.mod 3 }
  | .gtkt _ o => { d := 2, s1 := kSc, modOk := modIn o.mod 1 }
  | .gcancel _ o => { d := 10, s1 := kSc, modOk := modIn o.mod 0 }
  | .gstat _ o => { d := 2, s1 := kSc, modOk := modIn o.mod 1 }
  | .bkpt _ o | .rmark _ o => { s1 := kSc, modOk := modIn o.mod 0 }
  | .trace _ o => { s1 := kSc, s2 := kSc, modOk := modIn o.mod 0 }
  | .perfRd _ o => { d := 2, s1 := kSc, modOk := modIn o.mod 3 }
  | .perfCfg _ o => { d := 10, s1 := kSc, s2 := kSc, modOk := modIn o.mod 3 }
  | .perfClr _ o => { d := 10, modOk := modIn o.mod 3 && decide (o.mod.toNat ≠ 3) }
  -- END, format Z, format J and the events carry no checked operand
  | _ => {}

/-! ## The checks in the order of R77, on operands -/

/-- The sources of a format, in order. -/
def srcsOf : Opnds → List Src
  | .z => []
  | .a o => [o.s1]
  | .b o => [o.s1, o.s2]
  | .c o => [o.s1, o.s2, o.s3]
  | .l o => [o.s1]
  | .m o => [o.data, o.base]
  | .j _ => []
  | .e o => [o.s1, o.s2, o.s3, o.s4, o.s5]

/-- The destination of a format. -/
def dstOf : Opnds → Dst
  | .z => .none
  | .a o => o.d
  | .b o => o.d
  | .c o => o.d
  | .l o => o.d
  | .m o => o.dst
  | .j _ => .none
  | .e o => o.d

/-- Whether the operands carry a literal slot. -/
def hasSlot : Opnds → Bool
  | .l _ => true
  | .e o => o.lit.isSome
  | _ => false

/-- The masks of a signature, in order. -/
def Sig.masks (g : Sig) : List Nat := [g.s1, g.s2, g.s3, g.s4, g.s5]

/-- KIND (0x08), LITSLOT (0x09) and UNUSED (0x0A) of the operands, after MOD (0x07); none where all hold. `badD` is a destination byte that
names nothing. (DEDUCED: log 13.) -/
def checkOps (g : Sig) (o : Opnds) (badD : Bool) : Option Nat :=
  let ss := (srcsOf o).zip g.masks
  if !g.modOk then some 0x07
  else if badD || (g.d ≠ 8 && !dstOk g.d (dstOf o)) || (ss.any fun x => x.2 ≠ 0 && !srcOk (hasSlot o) x.2 x.1) then some 0x08
  else if !hasSlot o && (srcsOf o).any (fun x => x = .slot) then some 0x09
  else if (g.d = 8 && dstOf o ≠ .none) || (ss.any fun x => x.2 = 0 && x.1 ≠ .v 0) then some 0x0A
  else none

/-- What UNUSED also covers: LIT of LI and LIH without the slot (R118), COND of BRA and CALL (R106). -/
def extraUnused : Instr → Bool
  | .li _ o => o.s1 ≠ .slot && o.lit ≠ 0
  | .lih _ o => o.s1 ≠ .slot && o.lit ≠ 0
  | _ => false

/-! ## Fields of the words -/

/-- A source specifier (R70). -/
def srcOfByte (b : Nat) : Src :=
  let i : Fin 64 := ⟨b % 64, Nat.mod_lt _ (by decide)⟩
  match b / 64 % 4 with
  | 0 => .v i
  | 1 => .s i
  | 2 => .c i
  | _ => if b % 64 = 32 then .slot else .lit (BitVec.ofNat 6 b)

/-- A destination specifier (R73); none where the byte names nothing. -/
def dstOfByte (b : Nat) : Option Dst :=
  let i : Fin 64 := ⟨b % 64, Nat.mod_lt _ (by decide)⟩
  match b / 64 % 4 with
  | 0 => some (.v i)
  | 1 => some (.s i)
  | 2 => if b % 64 < 8 then some (.p ⟨b % 8, Nat.mod_lt _ (by decide)⟩) else none
  | _ => if b % 64 = 0 then some .none else none

def byteOfSrc : Src → Nat
  | .v i => i.val
  | .s i => 64 + i.val
  | .c i => 128 + i.val
  | .lit n => 192 + n.toNat
  | .slot => 224

def byteOfDst : Dst → Nat
  | .v i => i.val
  | .s i => 64 + i.val
  | .p i => 128 + i.val
  | .none => 192

/-- High and low byte of halfword n of a tail (R74). -/
def hiAt (t : List Half) (n : Nat) : Nat := (t.getD n 0).toNat / 256
def loAt (t : List Half) (n : Nat) : Nat := (t.getD n 0).toNat % 256
def litAt (t : List Half) (n : Nat) : W32 := BitVec.ofNat 32 ((t.getD n 0).toNat + 65536 * (t.getD (n + 1) 0).toNat)

/-- SUB, the operands, and whether the destination byte names nothing. In format M, DATA is a destination of LD and VLD and a source of ST and VST. -/
def fieldsOf (f : Format) (dataIsDst : Nat → Bool) (t : List Half) : Nat × Opnds × Bool :=
  let d := dstOfByte (hiAt t 0)
  let dd := d.getD .none
  let bad := d.isNone
  match f with
  | .z => (0, .z, false)
  | .a => (0, .a ⟨dd, srcOfByte (loAt t 0)⟩, bad)
  | .b => (loAt t 1, .b ⟨dd, srcOfByte (loAt t 0), srcOfByte (hiAt t 1)⟩, bad)
  | .c => (hiAt t 2, .c ⟨dd, srcOfByte (loAt t 0), srcOfByte (hiAt t 1), srcOfByte (loAt t 1), BitVec.ofNat 8 (loAt t 2)⟩, bad)
  | .l => (hiAt t 1, .l ⟨dd, srcOfByte (loAt t 0), litAt t 2⟩, bad)
  | .m =>
    let sub := hiAt t 1
    let isD := dataIsDst sub
    (sub, .m ⟨if isD then dd else .none, if isD then .v 0 else srcOfByte (hiAt t 0), srcOfByte (loAt t 0), t.getD 2 0,
      BitVec.ofNat 8 (loAt t 1)⟩, isD && bad)
  | .j =>
    let lo := loAt t 0
    (0, .j ⟨⟨hiAt t 0 % 64, Nat.mod_lt _ (by decide)⟩, ⟨lo / 8 % 32, Nat.mod_lt _ (by decide)⟩,
      BitVec.ofNat 19 (lo % 8 * 65536 + (t.getD 1 0).toNat)⟩, false)
  | .e =>
    (hiAt t 2, .e ⟨dd, srcOfByte (loAt t 0), srcOfByte (hiAt t 1), srcOfByte (loAt t 1), srcOfByte (hiAt t 3), srcOfByte (loAt t 3),
      BitVec.ofNat 8 (loAt t 2), if t.length = 6 then some (litAt t 4) else none⟩, bad)

/-- COND of format J (R106, R109): BRA and CALL require 0x00; LOOP requires a scalar specifier. The reason where it is broken. -/
def condBad (major : Nat) (t : List Half) : Option Nat :=
  let c := hiAt t 0
  if major = 0x05 then (if c / 64 = 1 then none else some 0x08)
  else if c = 0 then none else some 0x0A

/-- MOD of format L must be zero (R118, R121). -/
def lModBad (f : Format) (t : List Half) : Bool := f = .l && loAt t 1 ≠ 0

/-- Which DATA fields of format M are destinations: LD, and SUB 0x00 of major 0x4A. -/
def dataDst (major sub : Nat) : Bool := major = 0x48 || (major = 0x4A && sub = 0)

/-- The predicate halfword (R75), or none where a reserved bit is set. -/
def predOfHalf (x : Half) : Option Pred :=
  if x.toNat / 2048 % 16 ≠ 0 ∨ x.toNat % 256 ≠ 0 then none
  else some ⟨x.getLsbD 15, ⟨x.toNat / 256 % 8, Nat.mod_lt _ (by decide)⟩⟩

def halfOfPred (q : Pred) : Half := BitVec.ofNat 16 ((if q.neg then 32768 else 0) + q.idx.val * 256)

/-! ## The instruction decoder (R77) -/

/-- Decode the tail of a head whose placement holds: reasons PRED to UNUSED in their order. -/
def decodeTail (major : Nat) (f : Format) (stall : BitVec 4) (y : Bool) (q : Option Half) (t : List Half) : Except Nat Instr :=
  match q.map predOfHalf with
  | some none => .error 0x05
  | qq =>
    let h : Hd := ⟨stall, y, qq.getD none⟩
    let (sub, o, bad) := fieldsOf f (dataDst major) t
    match build major sub h o with
    | none => .error 0x06
    | some i =>
      if lModBad f t then .error 0x07
      else match (if f = .j then condBad major t else checkOps (sigOf i) o bad) with
      | some r => .error r
      | none => if extraUnused i then .error 0x0A else .ok i

/-- Decode an instruction from its head and its tail halfwords; `fits` is whether the tail stays above the head and every earlier one (OVERLAP). -/
def decodeInsn (head : Half) (fits : Bool) (t : List Half) : Except Nat Instr :=
  let w := head.toNat
  let major := w / 512
  let tlen := w / 64 % 8
  let p := w % 2
  if major = 0 then .error 0x01
  else match formatOf major with
  | none => .error 0x02
  | some f =>
    if tlen ≠ f.len + p ∧ ¬ (f = .e ∧ tlen = 6 + p) then .error 0x03
    else if !fits then .error 0x04
    else decodeTail major f (BitVec.ofNat 4 (w / 4)) (w / 2 % 2 = 1) (if p = 1 then some (t.getD 0 0) else none) (t.drop p)

/-! ## The line decoder (R63 to R66) -/

/-- Halfword n of a line. -/
def halfAt (line : BitVec 512) (n : Nat) : Half := line.extractLsb' (16 * n) 16

/-- Halfwords a .. a + n − 1. -/
def halvesAt (line : BitVec 512) (a n : Nat) : List Half := (List.range n).map fun i => halfAt line (a + i)

/-- The lowest halfword of the tail region after the heads below i, or none where a head below i ends the line (R64, R66). -/
def tailStart (line : BitVec 512) : Nat → Option Nat
  | 0 => some 32
  | i + 1 =>
    match tailStart line i with
    | none => none
    | some t =>
      let h := halfAt line i
      if h = 0 then none
      else
        let t' := t - h.toNat / 64 % 8
        if t' ≤ i + 1 then none else some t'

/-- What control finds at head i of a line: END, an instruction and whether heads meet tails after it, or a decode fault's reason (R77). -/
inductive Found where
  | lineEnd
  | ins (i : Instr) (last : Bool)
  | bad (reason : Nat)
  deriving DecidableEq, Repr

def decodeAt (line : BitVec 512) (i : Nat) : Found :=
  match tailStart line i with
  | none => .bad 0x0C
  | some t =>
    let h := halfAt line i
    if h = 0 then
      if (halvesAt line (i + 1) (t - (i + 1))).all (· = 0) then .lineEnd else .bad 0x0B
    else
      let n := h.toNat / 64 % 8
      let t' := t - n
      match decodeInsn h (decide (i < t')) (halvesAt line t' n) with
      | .error r => .bad r
      | .ok x => .ins x (decide (i + 1 = t'))

/-! ## The encoder -/

/-- A head from its major, tail length and fields (R69). -/
def headOf (major tlen : Nat) (h : Hd) : Half :=
  BitVec.ofNat 16 (major * 512 + tlen * 64 + h.stall.toNat * 4 + (if h.y then 2 else 0) + (if h.pred.isSome then 1 else 0))

def half (hi lo : Nat) : Half := BitVec.ofNat 16 (hi * 256 + lo)

/-- The halfwords of a format (R74). -/
def tailOf (major sub : Nat) : Opnds → List Half
  | .z => []
  | .a o => [half (byteOfDst o.d) (byteOfSrc o.s1)]
  | .b o => [half (byteOfDst o.d) (byteOfSrc o.s1), half (byteOfSrc o.s2) sub]
  | .c o => [half (byteOfDst o.d) (byteOfSrc o.s1), half (byteOfSrc o.s2) (byteOfSrc o.s3), half sub o.mod.toNat]
  | .l o => [half (byteOfDst o.d) (byteOfSrc o.s1), half sub 0, o.lit.setWidth 16, (o.lit >>> 16).setWidth 16]
  | .m o =>
    [half (if dataDst major sub then byteOfDst o.dst else byteOfSrc o.data) (byteOfSrc o.base), half sub o.mod.toNat, o.disp]
  | .j o =>
    [half (if major = 0x05 then 64 + o.cond.val else 0) (o.head.val * 8 + o.off.toNat / 65536), o.off.setWidth 16]
  | .e o =>
    [half (byteOfDst o.d) (byteOfSrc o.s1), half (byteOfSrc o.s2) (byteOfSrc o.s3), half sub o.mod.toNat,
      half (byteOfSrc o.s4) (byteOfSrc o.s5)] ++
      (match o.lit with
        | some l => [l.setWidth 16, (l >>> 16).setWidth 16]
        | none => [])

/-- The words of an instruction: its head, then its tail halfwords in ascending address order, the predicate halfword first (R74, R75). END is
its head alone; an event has no words. -/
def encode (i : Instr) : List Half :=
  match partsOf i with
  | none => if i = .lineEnd then [0] else []
  | some (major, sub, h, o) =>
    let t := (h.pred.map halfOfPred).toList ++ tailOf major sub o
    headOf major t.length h :: t

/-- A line that holds one instruction: its head at halfword 0, its tail up to halfword 31, an END and a gap of zeros between (R63). (DEDUCED: log 16.) -/
def lineWith (head : Half) (tail : List Half) : BitVec 512 :=
  (List.range tail.length).foldl (fun (l : BitVec 512) i =>
    l ||| ((tail.getD i 0).setWidth 512 <<< (16 * (32 - tail.length + i)))) (head.setWidth 512)

/-- The instruction that the decoder reads from a table word: a 16-bit row is a head; a 32-bit row stands as the table numbers it, the head
in bits 31:16 and its one tail halfword in bits 15:0. (DEDUCED: log 16.) -/
def decodeTableWord (nbits w : Nat) : Option Instr :=
  let line := if nbits ≤ 16 then lineWith (BitVec.ofNat 16 w) [] else lineWith (BitVec.ofNat 16 (w / 65536)) [BitVec.ofNat 16 w]
  match decodeAt line 0 with
  | .ins i _ => some i
  | .lineEnd => some .lineEnd
  | .bad _ => none


end Sys2Proof
end

