-- ==== Sys2Proof/Machine/Issue.lean ====
section
/-! DEFINITION. The issue scheduler (R97, R98), the shared fetch port (R100), what control finds at an address (R66, R67, R77, R154) and the
forwarding of a leader's instructions (R101, R103). -/

namespace Sys2Proof.Machine

/-- Whether something that is taken at a boundary waits for a part (R154). -/
def Part.called (p : Part) : Bool := p.asyncMcheck ≠ 0 || p.quiesce.isSome

/-- The instructions that a follower holds (R103): its Twill buffer with the one it has taken. -/
def Part.twillHeld (p : Part) : Nat := p.twill.length + (if p.fwdNow.isSome then 1 else 0)

/-- Whether a partition is eligible in this cc (R97). A partition found waiting is looked at again once shared state has changed. (DESIGN CHOICE: log 20.) -/
def eligible (s : State) (k : Nat) : Bool :=
  let p := s.part k
  (s.dev (ordOf (flatOf k))).boot ≠ 3 && !(s.cluster (clOf (flatOf k))).halted && !logFull s (clOf (flatOf k)) &&
  (p.st = .resident || p.st = .checkpointing) && p.stall = 0 && p.blocked ≠ some s.epoch &&
  (match p.sleep with
    | .awake => true
    | .woken _ _ | .cancel _ _ => true
    | _ => false) &&
  (if p.fwdNow.isSome then true
   else match p.twill with
   | f :: _ => f.ripe = 0
   | [] =>
    match p.fmode with
    | .joining | .following => p.called
    | .leading =>
      !((followersOf s k .following).any fun j => decide (16 ≤ (s.part j).twillHeld)) && p.fbuf.any fun l => l.addr = lineOf p.pc
    | .free => p.fbuf.any fun l => l.addr = lineOf p.pc)

/-- The partition with the largest wait count of 128 or more; equal counts go to the first (R98 rule 1). -/
def starved (s : State) (flat : Nat) : List Nat → Option Nat
  | [] => none
  | q :: qs =>
    let c := (s.part (flat * 4 + q)).waitCount
    match starved s flat qs with
    | some r => if c < 128 ∨ c < (s.part (flat * 4 + r)).waitCount then some r else some q
    | none => if 128 ≤ c then some q else none

/-- The scheduler's choice among the eligible partitions of a core (R98, R111), 0 to 3 for A to D. -/
def choose (s : State) (flat : Nat) : Option Nat :=
  let c := s.core flat
  let el := [0, 1, 2, 3].filter fun q => eligible s (flat * 4 + q)
  let abc0 := el.filter (· ≠ 3)
  let abc := match c.yielded with
    | some y => if el.any (· ≠ y) then abc0.filter (· ≠ y) else abc0
    | none => abc0
  match starved s flat abc0 with
  | some q => some q
  | none =>
    if el.contains 3 && !((decide (3 ≤ c.dRun) || c.yielded = some 3) && !abc.isEmpty) then some 3
    else
      let top := abc.foldl (fun m q => max m (s.part (flat * 4 + q)).prio.val) 0
      let cand := abc.filter fun q => (s.part (flat * 4 + q)).prio.val = top
      if cand.contains c.last && c.cont && decide (c.run < 32) then some c.last
      else [(c.last + 1) % 3, (c.last + 2) % 3, c.last].find? cand.contains

/-- The choice of a scheduler: in replay the partition of the next logged run, once it is eligible (R502). -/
def chooseLogged (s : State) (flat : Nat) : Option Nat :=
  match replayRun s flat with
  | some q => if eligible s (flat * 4 + q) then some q else none
  | none => choose s flat

/-- What a cc counts of a part that does not issue in it (R499), as the cc finds it. -/
def notChosen (t s : State) (k : Nat) : State :=
  let p := t.part k
  if eligible t k then perf s k 1 1
  else if p.st = .resident && p.blocked = some t.epoch && p.storeWait then perf s k 5 1
  else if p.st = .resident && p.stall = 0 && p.sleep = .awake && p.fmode ≠ .joining && p.fmode ≠ .following && !(p.fbuf.any fun l => l.addr = lineOf p.pc) then
    perf s k 3 1
  else if p.perf.any fun c => c.en && c.event = 2 then
    perf { s with free := s.free + 1 } k 2 (if Config.interlocked s.free then 1 else 0)
  else s

/-- A cc of a core has passed, as it was found in a state: STALL and the earliest cc of forwarded instructions count down, but for the STALL of a part that has just
issued, and the eligible parts that have not issued have waited (R79, R97 to R99, R103). (DESIGN CHOICE: log 149.) -/
def ccPassed (t s : State) (flat : Nat) (issued : Option Nat) : State :=
  let s0 := [0, 1, 2].foldl (fun s q => if (t.part (flat * 4 + q)).st = .free || issued = some q then s else notChosen t s (flat * 4 + q)) s
  [0, 1, 2, 3].foldl (fun s q => s.modPart (flat * 4 + q) fun p =>
    { p with
      stall := if issued = some q then p.stall else p.stall - 1
      twill := p.twill.map fun f => { f with ripe := f.ripe - 1 }
      waitCount := if q ≠ 3 && issued ≠ some q && eligible t (flat * 4 + q) then p.waitCount + 1 else p.waitCount }) s0

/-- A cc of a core in which nothing issues. -/
def idleCc (s : State) (flat : Nat) : State :=
  { ((noteRun (ccPassed s s flat none) flat 4).modCore flat fun c => { c with dRun := 0, yielded := none }) with sel := none, cur := flat * 4 }

/-- The scheduler of a core takes its choice: the partition that the next step runs, or none (R98). (DEDUCED: log 23.) -/
def selectNow (s : State) (flat : Nat) (pick : Option Nat) : State :=
  match pick with
  | some q => { s with sel := some (flat * 4 + q), cur := flat * 4 + q }
  | none => idleCc s flat

/-- What the try of a chosen partition means for its core's cc. A partition that is found waiting was not eligible (R97): the scheduler chooses again in the same cc.
(DEDUCED: log 23.) -/
def ccEnds (t s : State) (k : Nat) : State :=
  let flat := flatOf k
  if s.sel = some k then s
  else if !s.issued && ((s.part k).blocked = some s.epoch || (s.epoch = t.epoch && !eligible s k)) then selectNow s flat (chooseLogged s flat)
  else
    let s1 := ccPassed t (noteRun s flat (if s.issued then idxOf k else 4)) flat (some (idxOf k))
    if s.issued then s1 else s1.modCore flat fun c => { c with dRun := 0, yielded := none }

/-- A waiter at an ALIGN evaluates its condition (R112). -/
def alignLook (s : State) (k : Nat) : State :=
  match (s.part k).sleep with
  | .align a m => if alignMet s k a m then { s.modPart k fun p => { p with sleep := .woken 1 0, blocked := none } with epoch := s.epoch + 1 } else s
  | _ => s

/-- What begins a cc of a core: a partition whose unit has ended is free once all that it pushed has completed (R110), a part whose spill is due is saved once it
has come to rest (R150), and waiters at an ALIGN look at their conditions (R112). -/
def coreCc (s : State) (flat : Nat) : State :=
  let s1 := [0, 1, 2].foldl (fun s q => spillOn (reap s (flat * 4 + q)) (flat * 4 + q)) s
  [0, 1, 2, 3].foldl (fun s q => alignLook s (flat * 4 + q)) s1

/-- One cc of a core's issue scheduler. -/
def execIssueSelect (flat : Nat) (s : State) : Host.Outcome State Fault Refusal :=
  .next (if (s.dev (ordOf flat)).boot = 3 then s else selectNow (coreCc s flat) flat (chooseLogged (coreCc s flat) flat))

/-- A follower's next instruction is the next one forwarded to it (R103): a cc of its core's scheduler in which the follower is chosen, where its
own distances, waits and its scheduler let it be. -/
def execTwillForwardIssue (k : Nat) (s : State) : Host.Outcome State Fault Refusal :=
  let s1 := coreCc s (flatOf k)
  let p := s1.part k
  .next (if (p.fwdNow.isSome || !p.twill.isEmpty) && chooseLogged s1 (flatOf k) = some (idxOf k) then selectNow s1 (flatOf k) (some (idxOf k)) else s)

/-! ## The fetch port (R100) -/

/-- The oldest request of a cluster: its partition, line and age; equal ages go to the lower position, then to the lower partition. -/
def oldestFetch (s : State) (cl : Nat) : Option (Nat × W64 × Nat) :=
  let all := (List.range 16).flatMap fun pos => [0, 1, 2, 3].flatMap fun q =>
    let k := flatAt cl pos * 4 + q
    (s.part k).freq.map fun r => (k, r.1, r.2)
  all.foldl (fun b r =>
    match b with
    | none => some r
    | some x => if r.2.2 < x.2.2 then some r else b) none

/-- The bytes of a line that stores have still to perform where they have performed others, at the home or in the guest copy that a core reads: such a store is
under way. -/
def underWay (s : State) (flat : Nat) (l : W64) : List (Nat × Byte) :=
  let ids := (List.range 64).map fun i => vaId s flat (l + BitVec.ofNat 64 i)
  let copy (f : Nat) : Option Nat := if guestable s f l && (guestOf s (dieOf f) l).isSome then some (dieOf f) else none
  s.cores.flatMap fun c => c.2.sbuf.flatMap fun (e : StoreEnt) =>
    let here (b : W64 × Byte) : Bool := ids.contains (vaId s c.1 b.1)
    if copy c.1 ≠ copy flat || (e.bytes.filter here).length = (e.left.filter here).length then []
    else (e.left.filter here).map fun b => (vaId s c.1 b.1, b.2)

/-- A state whose memory is as an image has it. -/
def Image.on (i : Image) (s : State) : State :=
  { s with mem := i.mem, guests := i.guests, pages := i.pages, dies := i.leaves.map fun d => (d.1, { Die.reset with leaves := d.2 }) }

/-- The image in which a unit's fetches find a line (R68): that of its launch, where the line's page was mapped then and the launch has not stored to the line; there
a fetch may find either. Code of no launch is read as it stands. (DEDUCED: log 192.) -/
def fetchImage (s : State) (k : Nat) (l : W64) : Option State :=
  match (s.part k).launch.bind fun id => launchOf s id with
  | none => none
  | some x =>
    let t := x.image.on s
    if (homeKey t (flatOf k) l).isNone || (x.own.contains (vaId s (flatOf k) l) && Config.freshLine s.free) then none else some t

/-- Read a code line for a partition: none where the fetch would fault, which control alone can meet. The line is whole (R68): what a store under way has still to
perform there is new already. (DEDUCED: log 27.) -/
def readLine (s : State) (k : Nat) (l : W64) : Option (BitVec 512) :=
  match checkAccess s (whoOf s k) .fetch [(l, 64)] with
  | .error _ => none
  | .ok _ =>
    let flat := flatOf k
    if isLost s flat l || cutOff s flat l then none
    else match fetchImage s k l with
    | some t => some (bv512 ((bytesAt l 64).map (loadByte t (whoOf s k))))
    | none =>
      let new := underWay s flat l
      some (bv512 ((bytesAt l 64).map fun a =>
        match new.reverse.find? fun b => b.1 = vaId s flat a with
        | some b => b.2
        | none => loadByte s (whoOf s k) a))

/-- The fetch port serves the oldest request of a cluster and delivers it to every partition of the domain that asked for the line. -/
def execFetchLine (cl : Nat) (s : State) : Host.Outcome State Fault Refusal :=
  .next (match oldestFetch s cl with
    | none => s
    | some (k, l, _) =>
      let dom := (s.ctx (s.part k).ctx).domain
      let s1 := hotLoad (recallOthers { s with free := s.free + 1 } none (flatOf k) l) (flatOf k) l
      (List.range 16).foldl (fun s pos => [0, 1, 2, 3].foldl (fun s q =>
        let j := flatAt cl pos * 4 + q
        let p := s.part j
        if (s.ctx p.ctx).domain = dom && p.freq.any (fun r => r.1 = l) then
          s.setPart j { p with freq := p.freq.filter (fun r => r.1 ≠ l), fbuf := p.fbuf ++ [⟨l, readLine s1 j l⟩] }
        else s) s) s1)

/-! ## What control finds (R66, R67, R77, R154) -/

/-- What the step does with the chosen partition: it ends with a state, or runs an instruction. -/
inductive Fetched where
  | ended (s : State)
  | run (i : Instr) (s : State)

/-- ILLEGAL with a reason of R77 at the partition's address (R78). (DEDUCED: log 26.) -/
def illegalAt (s : State) (k reason : Nat) : State :=
  takeTrap s k ⟨0x01, 0, BitVec.ofNat 64 (reason + (s.part k).pc.toNat / 2 % 32 * 256), none⟩

/-- An asynchronous trap that waits at this boundary is taken before the instruction, and a breakpoint after it (R152, R154, R159, R497). -/
def boundary (s : State) (k : Nat) : Option State :=
  let p := s.part k
  let woken : Bool := match p.sleep with
    | .woken _ _ | .cancel _ _ => true
    | _ => false
  -- a wait that has ended completes first
  if woken then none
  else match p.quiesce with
  | some r => some (enterCheckpoint s k r.val)
  | none =>
    match p.asyncMcheck with
    | n + 1 =>
      let (s1, slot) := mcheckWrite s p.ctx (flatOf k) (mcheckRecord 2 0 (flatOf k) (nextForward s k) 0 0)
      some (takeTrap (s1.modPart k fun p => { p with asyncMcheck := n }) k ⟨0x0C, 2, slot, none⟩)
    | 0 => if idxOf k = 3 then none else p.breakHere.map (breakAct s k)

/-- A follower stands at the next instruction forwarded to it (R103). -/
def Part.takeForward (p : Part) : Part :=
  match p.fwdNow, p.twill with
  | none, f :: fs => { p with fwdNow := some f, twill := fs, pc := f.addr, npc := f.link }
  | _, _ => p
def takeForward (s : State) (k : Nat) : State := if (s.part k).twill.isEmpty then s else s.modPart k Part.takeForward

/-- BREAKPOINT: a partition that may issue stands at a step or an address match, and nothing else is taken there first. -/
def execBreakpoint (k : Nat) (s0 : State) : Host.Outcome State Fault Refusal :=
  let s := takeForward s0 k
  let p := s.part k
  .next (if eligible s0 k && idxOf k ≠ 3 && p.sleep = .awake && p.quiesce.isNone && p.asyncMcheck = 0 then
      match p.breakHere with
      | some v => breakAct s k v
      | none => s0
    else s0)

/-- When control reaches a line, its X right is checked in the partition's own PLB (R67, R100). A line that could not be read faults now:
its presence, a lost line; else it is asked for again. (DEDUCED: log 27.) -/
def fetchFault (s : State) (k : Nat) (l : FLine) : Except State State :=
  let pc := (s.part k).pc
  match checkRightsPiece s (whoOf s k) .fetch pc 2 with
  | .error e => .error (takeTrap (s.modCore (flatOf k) fun c => { c with plb := e.plb.getD c.plb }) k ⟨3, 0, pc, some (2 * 256 + e.reason)⟩)
  | .ok s1 =>
    match l.data with
    | some _ => .ok s1
    | none =>
      match checkPresentPiece s1 (whoOf s1 k) .fetch pc with
      | .error e =>
        .error (if e.reason ≠ 0x12 && (taskOn s1 k).any fun t => !irrevocable s1 t then stopped s1 k .heldTask else pageFault s1 k 2 e.reason pc)
      | .ok s2 =>
        if isLost s2 (flatOf k) pc then .error (lostTrap s2 k 2 pc (lineOf pc))
        else .error { (s2.modPart k fun p => ({ p with fbuf := p.fbuf.erase l }).refetch s2.steps) with sel := none, issued := false }

/-- Fetch and decode the instruction of the chosen partition; next(PC) of R107 is found here. (DEDUCED: log 26.) -/
def fetchAt (s : State) (k : Nat) : Fetched :=
  match fetchNow s k with
  | .ended t => .ended (ccEnds s t k)
  | r => r
where
 fetchNow (s : State) (k : Nat) : Fetched :=
  let s := takeForward { s with cur := k } k
  match boundary s k with
  | some t => .ended t
  | none =>
    let p := s.part k
    match p.fwdNow with
    | some f => .run f.ins s
    | none =>
      if p.fmode = .following then .ended { s with sel := none, issued := false }
      else match p.fbuf.find? fun l => l.addr = lineOf p.pc with
      | none => .ended { (s.modPart k fun p => p.refetch s.steps) with sel := none, issued := false }
      | some l =>
        match fetchFault s k l with
        | .error t => .ended t
        | .ok s1 =>
          match decodeAt (l.data.getD 0) (p.pc.toNat / 2 % 32) with
          | .bad r => .ended (illegalAt s1 k r)
          | .lineEnd => .run .lineEnd s1
          | .ins i last => .run i (s1.modPart k fun p => { p with npc := if last then lineOf p.pc + 64 else p.pc + 2 })

/-! ## Forwarding (R101, R103) -/

/-- A forwarded instruction has issued: the follower stands after the leader's; one that has left its group goes on with its own fetch. -/
def Part.forwardDone (q : Part) (f : Fwd) (seq : Nat) : Part :=
  let q1 := { q with fwdNow := none, pc := f.after, blocked := none }
  if q.fmode = .following || !q.twill.isEmpty then q1 else q1.goto f.after seq

/-- Whether a leader's instruction is forwarded: it has issued, or it is a TRAP that has taken its trap (R103). -/
def forwards (i : Instr) (s : State) (k : Nat) : Bool :=
  match i with
  | .lineEnd => false
  | .trap _ _ => s.issued || (s.part k).tcCode = 0x0D
  | _ => s.issued

/-- Where a follower stands after a forwarded instruction: where the leader goes on; after a TRAP, at the instruction that follows it. -/
def afterOf (before : Part) (s : State) (k : Nat) : W64 := if s.issued then (s.part k).pc else before.npc

/-- A leader forwards what it has issued to its followers; it takes a joining part at the join address (R101, R103). -/
def forward (before : State) (i : Instr) (k : Nat) (s : State) : State :=
  let p := before.part k
  if p.fmode ≠ .leading || !forwards i s k || p.inTrap || p.inUp || p.inChk then s
  else
    let f : Fwd := ⟨3, p.pc, p.npc, afterOf p s k, i⟩
    let s1 := (followersOf before k .following).foldl (fun s j =>
      s.modPart j fun q => if q.fmode = .following then { q with twill := q.twill ++ [f] } else q) s
    (followersOf before k .joining).foldl (fun s j =>
      if (s.part j).fmode = .joining && (s.part j).joinAt = p.pc then
        (s.modPart j fun q => { q with fmode := .following, twill := [f], blocked := none }).modPart k fun q =>
          { q with fmask := q.fmask ||| BitVec.ofNat 16 (2 ^ posOf (flatOf j)) }
      else s) s1

/-- After the instruction of a partition: a follower stands after the leader's instruction, a leader forwards what it issued; the cc ends, or its scheduler chooses
again. -/
def afterIssue (before : State) (i : Instr) (k : Nat) (s : State) : State :=
  let s1 := match (before.part k).fwdNow with
    | some f => if s.issued && (s.part k).fwdNow.isSome then s.modPart k fun q => q.forwardDone f s.steps else s
    | none => forward before i k s
  ccEnds before s1 k

/-! ## Time -/

/-- What passes between two steps: the step counter, TIME and FTIME (R96). -/
def tick (s : State) : State :=
  { s with steps := s.steps + 1, time := s.time + BitVec.ofNat 64 (Config.elapsed s.steps),
           ftime := (s.ftime + Config.elapsedNs s.steps) % 2 ^ 48 }

/-- The module whose objects an event acts on; none for an event of the fabric, or one that ends FREEZE or finds the module gone. -/
def eventDev (s : State) (i : Instr) : Option Nat :=
  match i with
  | .alignWindowExpiry k | .joinWindowExpiry k | .twillForwardIssue k | .streamServe k _ | .streamFault k _ | .stashRecall k _
  | .evwaitTimeout k | .wfeTimeout k | .damaskTermFire k | .damaskTimer k | .copyStart k _ | .copyDone k _ | .copyFault k _
  | .transferAnnounce k _ | .tokenArrival k _ | .keepalive k _ | .reclaimNotice k _ | .transferComplete k _ | .transferFault k _
  | .expiryNotice k _ | .transferSendDone k _ | .taskDispatch k | .breakpoint k | .preempt k | .resume k | .spill k | .halt k | .release k
  | .checkpoint k | .checkpointLimit k | .asyncMcheck k => some (flatOf k / 1024)
  | .issueSelect flat | .storePerformed flat | .destCheckAtHome flat | .handlerStart flat | .htimeout flat | .admitPart flat _ | .restore flat _
  | .l2WayRetire flat => some (flat / 1024)
  | .fetchLine cl | .hbFillEnd cl _ | .crossTriggerHalt cl _ | .debugRelease cl | .issueLogFreed cl _ | .replayModeSet cl _ _
  | .spareCoreMap cl _ => some (cl / 64)
  | .guestCopyExpiry dk _ | .watchPoll dk | .tokenGrant dk | .tablaAgeing dk _ | .tokenExpiry dk _ | .reclaim dk _ => some (dk / 4)
  | .planeLoadStart mu | .planeLoadDone mu | .arbiterGrant mu | .kstepBoundary mu | .lastRow mu | .matrixRetire mu | .matrixFault mu _ _
  | .matrixAgeing mu _ | .columnRemap mu => some (mu / 128)
  | .grantChange dev | .tailWrite dev _ _ _ _ | .packetRead dev _ | .holdEnds dev _ | .packetComplete dev _ _ | .queueStop dev _
  | .queueResume dev _ _ | .leaseRenew dev _ | .leaseTakeover dev _ | .ticketArrival dev _ _ | .horizonBeacon dev _ | .collectiveAdmit dev
  | .collectiveFinish dev _ _ | .cancelNotice dev _ _ | .abandonNotice dev _ _ | .mismatchNotice dev _ _ | .ticketAgeBreach dev _ _
  | .map dev _ _ _ _ | .unmap dev _ | .migrate dev _ _ _ | .replicate dev _ _ | .collapse dev _ | .migrationDone dev _ | .lineLost dev _ _
  | .pinLimit dev _ | .hotnessHalving ⟨dev, _⟩ | .scrubSweep dev _ _ _ | .resourceWithdrawal dev _ | .linkEnable dev _ | .linkDisable dev _
  | .linkTrained dev _ _ | .trainingFailed dev _ | .retrain dev _ | .frameReceive dev _ _ | .nakReceive dev _ _ | .idleFrame dev _
  | .rekey dev _ _ | .retire dev _ | .oldKeyTimeout dev _ | .endToEndAck dev _ _ | .linkDrain dev _ | .linkDrained dev _
  | .linkEncryptionSet dev _ _ | .censusSnapshot dev | .mgmtRegWrite dev _ _ | .pcapWrite dev _
  | .evictGo dev _ | .evictAbort dev | .evictTimeout dev | .evictReleased dev | .freeze dev | .leaseLapse dev
  | .healthRecordWrite dev | .firmwareUpdate dev _ => some dev
  | .unitWithdrawn _ flat => some (flat / 1024)
  | .unitStart launch unit => ((s.launches.find? (·.id = launch)).bind fun l => l.units[unit]?).map ordOf
  | .gvtRound c => (s.tasks.find? fun t => t.msg.ctx = c && (s.dev (t.cl / 64)).boot = 3).map (·.cl / 64)
  | .destroy _ (some flat) => some (ordOf flat)
  | .destroy c none => ((s.parts.find? fun kp => kp.2.ctx = c && kp.2.st ≠ .free && (s.dev (ordOf (flatOf kp.1))).boot = 3)).map fun kp => ordOf (flatOf kp.1)
  | .messageArrival n | .replyArrival n | .bounce n | .taskArrival n => (s.net[n]?).map fun m => ordOf m.dest
  | _ => none

/-- The clocks of a frozen module stand: no event of it happens (R503). -/
def frozen (s : State) (dev : Nat) : Bool := (s.dev dev).boot = 3

/-- An event of the agenda or of the free order; what is no event stands for the choice of the core that acted last. (DEDUCED: log 6.) -/
def eventOf (s : State) (i : Option Instr) : Instr :=
  match i with
  | none => .issueSelect (flatOf s.cur)
  | some i => if (partsOf i).isSome || i = .lineEnd || (eventDev s i).any (frozen s) then .issueSelect (flatOf s.cur) else i

end Sys2Proof.Machine
end

