-- ==== Sys2Proof/Machine/Pages.lean ====
section
/-! DEFINITION. Pages under firmware's commands (R204, R205, R212, R220 to R225): map, unmap, migration, replicas, lost lines, pins, hotness, and
the revocation of rights. -/

namespace Sys2Proof.Machine

/-! ## The directory -/

/-- The page of a device that holds an address. -/
def pageAt (s : State) (dev : Nat) (va : W64) : Option Page := s.pages.find? fun p => p.dev = dev && p.has va

/-- Whether a page is the one that a core's module names by its address. -/
def Page.seen (p : Page) (s : State) (flat : Nat) : Bool := devFor s flat p.base = p.dev

def modPage (s : State) (p : Page) (f : Page → Page) : State := { s with pages := s.pages.map fun q => if q = p then f q else q }

/-- Whether a range of bytes meets a page. -/
def Page.meets (p : Page) (r : W64 × Nat) : Bool :=
  decide (0 < r.2) && decide (r.1.toNat / 2 ^ p.log2 ≤ p.base.toNat / 2 ^ p.log2) && decide (p.base.toNat / 2 ^ p.log2 ≤ (r.1.toNat + r.2 - 1) / 2 ^ p.log2)

/-! ## Pins (R224) -/

/-- The places in the source and at the destination where a running copy or fill is at work: its pins are those of the chunk there. -/
def CReq.pinned (r : CReq) : List (W64 × Nat) :=
  if r.st ≠ .running then []
  else match r.kind with
  | .park => [(r.src, r.len)]
  | _ => if r.count ≤ r.ack then [] else let (a, b, n) := r.elem r.ack; [(a, n), (b, n)]

/-- The pin of a running copy or fill on a page, by ACC of the record that its breaking gives (R375). -/
def CReq.pin (s : State) (p : Page) (flat : Nat) (r : CReq) : Option Nat := if p.seen s flat then r.pinned.findIdx? p.meets else none

/-- The pin of a transfer on a page, by ACC of its record: the chunk of at most 64 KiB that it sends, at its source or, as DEST's module names it, at its
destination. -/
def Xfer.pin (s : State) (p : Page) (flat : Nat) (x : Xfer) : Option Nat :=
  let at_ (a : W64) : Bool := (x.st = .sending || x.st = .requested) && p.meets (a + BitVec.ofNat 64 x.ack, x.due)
  if p.seen s flat && at_ x.src then some 0 else if p.seen s x.dest && at_ x.dst then some 3 else none

/-- The bytes of a collective that has been admitted. -/
def Coll.pinned (c : Coll) : List (W64 × Nat) :=
  if c.st = .admitted then [(c.d.src, c.d.count * c.d.width), (c.d.dst, c.d.count * c.d.width)] else []

/-- The activation rows of the k-step that a STREAMING operation reads. -/
def MOp.pinned (o : MOp) : List (W64 × Nat) :=
  if o.cmd = .op && o.state = .streaming then (List.range o.rows).map fun m => (o.rowAddr m, o.rb) else []

/-- The image that an MLOAD being served reads. -/
def MLoad.pinned (l : MLoad) : List (W64 × Nat) := [(l.addr, if l.bs then 61440 else 49152)]

/-- Whether an engine holds a pin on a page. A stash fill is one act here, and holds none between two steps. (DEDUCED: log 82.) -/
def pinnedPage (s : State) (p : Page) : Bool :=
  (s.parts.any fun kp =>
    (kp.2.chans.toList.any fun c => c.reqs.any fun r => (r.pin s p (flatOf kp.1)).isSome) ||
      (kp.2.xfers.any fun x => (x.pin s p (flatOf kp.1)).isSome) ||
      (p.seen s (flatOf kp.1) && kp.2.streams.toList.any fun t => t.pinned.any p.meets)) ||
  (s.cores.any fun c => p.seen s c.1 && c.2.mat.queue.any fun o => o.pinned.any p.meets) ||
  (s.mus.any fun u => u.2.current.any fun l => p.seen s l.flat && l.pinned.any p.meets) ||
  s.devs.any fun d => p.seen s (d.1 * 1024) &&
    (d.2.colls.any (fun c => c.pinned.any p.meets) || d.2.hostqs.any fun q => q.2.pkts.any fun x => x.pinned.any p.meets)

/-- A pin held too long is broken: each engine that holds one stops with PINLIMIT at its next act. -/
def breakPins (s : State) (p : Page) : State :=
  let req (flat : Nat) (r : CReq) : CReq := { r with broken := r.broken.or (r.pin s p flat) }
  let chan (flat : Nat) (c : Chan) : Chan := { c with reqs := c.reqs.map (req flat) }
  let xfer (flat : Nat) (x : Xfer) : Xfer := { x with broken := x.broken.or (x.pin s p flat) }
  let coll (c : Coll) : Coll := if c.pinned.any p.meets then { c with broken := true } else c
  let pkt (x : Pkt) : Pkt := if x.pinned.any p.meets then { x with broken := true } else x
  let queue (q : Nat × HostQ) : Nat × HostQ := (q.1, { q.2 with pkts := q.2.pkts.map pkt })
  let stream (t : Stream) : Stream := if t.pinned.any p.meets then { t with broken := true } else t
  let op (o : MOp) : MOp := if o.pinned.any p.meets then { o with broken := true } else o
  let load (l : MLoad) : MLoad := if p.seen s l.flat && l.pinned.any p.meets then { l with broken := true } else l
  { s with
    parts := s.parts.map fun kp =>
      (kp.1, { kp.2 with
        chans := kp.2.chans.map (chan (flatOf kp.1)), xfers := kp.2.xfers.map (xfer (flatOf kp.1))
        streams := if p.seen s (flatOf kp.1) then kp.2.streams.map stream else kp.2.streams })
    cores := s.cores.map fun c => if p.seen s c.1 then (c.1, { c.2 with mat := { c.2.mat with queue := c.2.mat.queue.map op } }) else c
    mus := s.mus.map fun u =>
      (u.1, { u.2 with current := u.2.current.map load, loads := u.2.loads.map fun l => if u.2.current = some l then load l else l })
    devs := s.devs.map fun d => if p.seen s (d.1 * 1024) then (d.1, { d.2 with colls := d.2.colls.map coll, hostqs := d.2.hostqs.map queue }) else d }

def execPinLimit (dev : Nat) (va : W64) (s : State) : Host.Outcome State Fault Refusal :=
  .next (match pageAt s dev va with
    | some p => breakPins s p
    | none => s)

/-! ## The translation table (R214) -/

/-- Levels 1 to 4: low bit and bits of the index. -/
def transLevels : List (Nat × Nat) := [(39, 18), (30, 9), (21, 9), (16, 5)]

/-- Write a leaf at a depth (0 is level 1); table entries that are missing on the way are written from a list. None where an entry is malformed, or a leaf
is met on the way. -/
def writeLeaf (m : List Host.Cell) (dev : Nat) (va leaf : W64) (kind addr : Nat) : List (Nat × Nat) → Nat → List W64 → Option (List Host.Cell)
  | [], _, _ => none
  | (lo, n) :: _, 0, _ => some (memWriteBytes m (keyOf kind dev (addr + va.toNat / 2 ^ lo % 2 ^ n * 8)) (bytesOf 8 leaf.toNat))
  | (lo, n) :: ls, d + 1, ts =>
    let key := keyOf kind dev (addr + va.toNat / 2 ^ lo % 2 ^ n * 8)
    let e := phys64 m key
    let e1 := if e % 4 = 0 then (ts.headD 0).toNat else e
    if e1 % 4 ≠ 1 then none
    else match tableOf e1 with
    | some (k, a) => writeLeaf (if e % 4 = 0 then memWriteBytes m key (bytesOf 8 e1) else m) dev va leaf k a ls d (if e % 4 = 0 then ts.tail else ts)
    | none => none

def depthOf (log2 : Nat) : Nat := if log2 = 30 then 1 else if log2 = 21 then 2 else 3

/-- The home translation units of a page's module forget its leaf (R214, R223). -/
def dropLeaves (s : State) (p : Page) : State :=
  { s with dies := s.dies.map fun d => if d.1 / 4 = p.dev then (d.1, { d.2 with leaves := d.2.leaves.filter fun c => !p.has c.base }) else d }

/-- Replace the leaf word of a mapped page. -/
def setLeafWord (s : State) (p : Page) (leaf : W64) : State :=
  match writeLeaf s.mem p.dev p.base leaf 0 (s.dev p.dev).transRoot transLevels (depthOf p.log2) [] with
  | some m =>
    let s1 := dropLeaves s p
    { s1 with mem := m }
  | none => s

/-- The leaf word of a page as it stands. -/
def leafWordFrom (m : List Host.Cell) (dev : Nat) (va : W64) (kind addr : Nat) : List (Nat × Nat) → Nat → Nat
  | [], _ => 0
  | (lo, n) :: _, 0 => phys64 m (keyOf kind dev (addr + va.toNat / 2 ^ lo % 2 ^ n * 8))
  | (lo, n) :: ls, d + 1 =>
    match tableOf (phys64 m (keyOf kind dev (addr + va.toNat / 2 ^ lo % 2 ^ n * 8))) with
    | some (k, a) => leafWordFrom m dev va k a ls d
    | none => 0
def leafWord (s : State) (p : Page) : W64 := BitVec.ofNat 64 (leafWordFrom s.mem p.dev p.base 0 (s.dev p.dev).transRoot transLevels (depthOf p.log2))

/-- A leaf word that maps a page with a home. -/
def goodLeaf (leaf : W64) (log2 home : Nat) : Bool := leaf.toNat % 4 = 2 && (leafOf leaf.toNat log2 (some (home / 256 % 4))).isSome

/-! ## Map and unmap (R205) -/

/-- The outcome of a firmware command on a page (R205): a rejected one changes nothing else. -/
def pageStatus (s : State) (dev : Nat) (ok : Bool) : State := s.modDev dev fun d => { d with rejected := !ok }

/-- MAP: rejected where a leaf stands already or the leaf is malformed. The home is the directory slice of the page's first granule. -/
def execMap (dev : Nat) (va : W64) (level : Fin 3) (leaf : W64) (tables : List W64) (s : State) : Host.Outcome State Fault Refusal :=
  let log2 := [30, 21, 16].getD level.val 16
  let base : W64 := BitVec.ofNat 64 (va.toNat / 2 ^ log2 * 2 ^ log2)
  let home := dirSlice dev base
  let p : Page := { base, log2, dev, state := .resident, home, total := 0, quad := [0, 0, 0, 0], newLeaf := 0, newHome := 0, filling := false, replicas := []
                    unmapDue := false, lost := [], idle := 0 }
  let clash := s.pages.any fun q => q.dev = dev && q.state ≠ .absent && (q.has base || p.has q.base)
  .next (if !led s dev then s
    else if clash || !goodLeaf leaf log2 home || regionOf base ≠ .shared then pageStatus s dev false
    else match writeLeaf s.mem dev base leaf 0 (s.dev dev).transRoot transLevels (level.val + 1) tables with
    | some m => pageStatus { s with mem := m, pages := s.pages ++ [p] } dev true
    | none => pageStatus s dev false)

/-- Home hints, presence-cache entries and the translation units' leaves of a page are invalidated (R213, R214, R215, R223). -/
def dropHints (s : State) (p : Page) : State :=
  let mine (g : Nat) : Bool := decide (g / 2 ^ (p.log2 - 16) = p.base.toNat / 2 ^ p.log2)
  let s1 := dropLeaves s p
  { s1 with cores := s.cores.map fun c =>
      if p.seen s c.1 then (c.1, { c.2 with hints := c.2.hints.filter (fun h => !mine h.1), pres := c.2.pres.filter fun g => !mine g }) else c }

/-- Dirty copies of a page's lines elsewhere are written back and dropped: stash lines and guest copies. -/
def dropCopies (s : State) (p : Page) : State :=
  let lines (t : Part) : List W64 := t.stash.flatMap fun m => m.lines.map fun l => BitVec.ofNat 64 l.1
  let held := (((s.parts.filter fun kp => p.seen s (flatOf kp.1)).flatMap fun kp => lines kp.2) ++
    ((s.away.filter fun a => p.seen s a.1).flatMap fun a => lines a.2)).filter p.has
  let s1 := held.dedup.foldl (fun s l => recallOthers s none (p.dev * 1024) l) s
  (s1.guests.filter fun g => g.dk / 4 = p.dev && p.has g.line).foldl (fun s g => guestDrop s g.dk g.line) s1

/-- A page becomes ABSENT: its leaf goes, its frame is free. -/
def unmapPage (s : State) (p : Page) : State :=
  let s1 := setLeafWord (dropHints (dropCopies s p) p) p 0
  { s1 with pages := s1.pages.filter (· ≠ p) }

/-- UNMAP: once its pins have dropped; of a MIGRATING page once the migration is done; of an ABSENT page with no effect. The status word follows the
command's end. -/
def execUnmap (dev : Nat) (va : W64) (s : State) : Host.Outcome State Fault Refusal :=
  .next (if !led s dev then s
    else match pageAt s dev va with
    | some p =>
      if p.state = .migrating then modPage s p fun p => { p with unmapDue := true }
      else if pinnedPage s p then s
      else pageStatus (unmapPage s p) dev true
    | none => pageStatus s dev true)

/-! ## Migration (R223) -/

/-- The cells of a page under a leaf word, moved to another. -/
def moveCells (m : List Host.Cell) (a b n : Nat) : List Host.Cell :=
  if a = b then m
  else
    let moved := m.filter fun c => decide (a ≤ c.1) && decide (c.1 < a + n)
    let rest := m.filter fun c => !(decide (b ≤ c.1) && decide (c.1 < b + n))
    moved.foldl (fun m c => memWrite m (c.1 - a + b) c.2) rest

/-- The first cell of a page under a leaf word. -/
def frameKey (p : Page) (leaf : W64) : Option Nat := (leafOf leaf.toNat p.log2 none).map fun l => l.key p.dev p.base

/-- Copy a page's bytes into a frame. -/
def copyFrame (s : State) (p : Page) (leaf : W64) : State :=
  match frameKey p (leafWord s p), frameKey p leaf with
  | some a, some b => { s with mem := moveCells s.mem a b (2 ^ p.log2) }
  | _, _ => s

/-- A page enters MIGRATING towards a leaf and a home. -/
def startMove (s : State) (p : Page) (leaf : W64) (home : Nat) : State :=
  let begun (q : Page) : Page := { q with state := .migrating, newLeaf := leaf, newHome := home, filling := false, replicas := [] }
  modPage (dropHints s p) p begun

/-- MIGRATE of a page, with its outcome: only a RESIDENT page moves. -/
def migratePage (s : State) (p : Page) (leaf : W64) (home : Nat) : State :=
  if p.state = .resident && ordOf home = p.dev && goodLeaf leaf p.log2 home then pageStatus (startMove s p leaf home) p.dev true else pageStatus s p.dev false

def execMigrate (dev : Nat) (va leaf : W64) (home : Nat) (s : State) : Host.Outcome State Fault Refusal :=
  .next (if !led s dev then s
    else match pageAt s dev va with
    | some p =>
      migratePage s p leaf home
    | none => pageStatus s dev false)

/-- REPLICATE: a frame on every die is reserved and filled. The replicas lie in GDDR 7; a leaf of another tier is rejected. (DESIGN CHOICE: log 199.) -/
def execReplicate (dev : Nat) (va : W64) (frames : List W64) (s : State) : Host.Outcome State Fault Refusal :=
  let filled (q : Page) : Page := { q with state := .migrating, newLeaf := leafWord s q, newHome := q.home, filling := true, replicas := frames }
  .next (if !led s dev then s
    else match pageAt s dev va with
    | some p =>
      if p.state = .replicated then pageStatus s dev true
      else if p.state = .resident && frames.length = 4 &&
          ((List.range 4).all fun i => goodLeaf (frames.getD i 0) p.log2 (i * 256) && (frames.getD i 0).toNat / 2 ^ 62 = 0) then
        pageStatus (modPage (dropHints s p) p filled) dev true
      else pageStatus s dev false
    | none => pageStatus s dev false)

/-- COLLAPSE: once its pins have dropped, stash lines are recalled and the replicas are discarded (R225, R240). -/
def execCollapse (dev : Nat) (va : W64) (s : State) : Host.Outcome State Fault Refusal :=
  let alone (q : Page) : Page := { q with state := .resident, replicas := [] }
  .next (if !led s dev then s
    else match pageAt s dev va with
    | some p =>
      match p.state with
      | .replicated =>
        if pinnedPage s p then s
        else pageStatus (modPage (setLeafWord (dropCopies s p) p (leafWord s p &&& ~~~(0x80 : W64))) p alone) dev true
      | .migrating => pageStatus s dev false
      | _ => pageStatus s dev true
    | none => pageStatus s dev false)

/-- Watches of a page move to its new home and are evaluated there once (R252). -/
def moveWatches (s : State) (p : Page) (home : Nat) : State :=
  let mine (w : Watch) : Bool := !w.spad && p.has w.va && devFor s w.flat w.va = p.dev
  let s1 : State := { s with watches := s.watches.map fun w => if mine w then { w with home } else w }
  (s1.watches.filter mine).foldl (fun s w => if s.watches.contains w && !w.polled && watchTrue s w then fireWatch s w else s) s1

/-- MIGRATION_DONE: the pins have dropped; the directory switches in one step (R223). A fill ends REPLICATED. An unmap that waited follows. -/
def execMigrationDone (dev : Nat) (va : W64) (s : State) : Host.Outcome State Fault Refusal :=
  .next (match pageAt s dev va with
    | some p =>
      if p.state ≠ .migrating || pinnedPage s p then s
      else
        let s0 := dropCopies s p
        let (s1, q) : State × Page :=
          if p.filling then
            (setLeafWord (p.replicas.foldl (fun s l => copyFrame s p l) s0) p (p.newLeaf ||| 0x80),
             { p with state := .replicated, filling := false, total := 0, quad := [0, 0, 0, 0], unmapDue := false })
          else
            (setLeafWord (copyFrame s0 p p.newLeaf) p p.newLeaf,
             { p with state := .resident, home := p.newHome, total := 0, quad := [0, 0, 0, 0], unmapDue := false })
        let s2 := moveWatches (modPage s1 p fun _ => q) q q.home
        if p.unmapDue then pageStatus (unmapPage s2 q) dev true else s2
    | none => s)

/-! ## Lost lines (R205, R206, R252) -/

/-- A line of a page's frame has an uncorrectable error. A RESIDENT page's lost line is marked and the page moves to a fresh frame; a REPLICATED page's line is
rebuilt. Watches of the line fire. (DEDUCED: log 74.) -/
def loseLine (s : State) (dev : Nat) (va leaf : W64) : State :=
  match pageAt s dev va with
  | none => s
  | some p =>
    let l := lineOf va
    let s0 := s.modDev dev fun d => { d with uncorr := d.uncorr + 1, retired := if p.state = .replicated || p.lost.contains l then d.retired else d.retired + 1 }
    if p.state = .replicated then s0
    else
      let s1 : State := modPage s0 p fun q => { q with lost := if q.lost.contains l then q.lost else q.lost ++ [l] }
      let s2 : State := match pageAt s1 dev va with
        | some (q : Page) => if q.state = .resident && goodLeaf leaf q.log2 q.home && leaf.toNat / 2 ^ 62 ≠ 2 then startMove s1 q leaf q.home else s1
        | none => s1
      (s2.watches.filter fun (w : Watch) => !w.spad && lineOf w.va = l && devFor s2 w.flat w.va = dev).foldl fireWatch s2

/-- A line of a scratchpad slice has an uncorrectable error: it is lost, and the watches of its words fire (R29, R252, R510). (DEDUCED: log 74.) -/
def loseSpad (s : State) (flat off : Nat) : State :=
  let l := off / 64 * 64
  let again := (s.core flat).spadLost.contains l
  let s1 := (s.modDev (ordOf flat) fun d => { d with uncorr := d.uncorr + 1, retired := if again then d.retired else d.retired + 1 }).modCore flat fun c =>
    { c with spadLost := if c.spadLost.contains l then c.spadLost else c.spadLost ++ [l] }
  (s1.watches.filter fun (w : Watch) =>
    match regionOf w.va with
    | .spad own pos o => spadAt w.flat own pos (o / 64 * 64) = (flat, l)
    | _ => false).foldl fireWatch s1

/-- An uncorrectable error in a line: of a page's frame or, at an address of the own-slice window, of the slice of the tile that the low bits of the leaf
argument number. (DEDUCED: log 74.) -/
def lineLoss (s : State) (dev : Nat) (va leaf : W64) : State :=
  match regionOf va with
  | .spad true _ off => loseSpad s (dev * 1024 + leaf.toNat % 1024) off
  | _ => loseLine s dev va leaf

def execLineLost (dev : Nat) (va leaf : W64) (s : State) : Host.Outcome State Fault Refusal := .next (lineLoss s dev va leaf)

/-- 24 hours, in ns. -/
def dayNs : Nat := 86400000000000

/-- A corrected error in a line: CORR rises, and the line's slice gathers one more (R510). -/
def noteCorrected (s : State) (dev : Nat) (va : W64) : State :=
  s.modDev dev fun d =>
    { d with corr := d.corr + 1, corrected := (d.corrected.filter fun x => since s x.2 < dayNs) ++ [(homeOf s (dev * 1024) va, s.ftime)] }

/-- Whether a slice has gathered 64 corrected errors within 24 hours: its way is spared (R510). -/
def gathered (s : State) (flat : Nat) : Bool :=
  decide (64 ≤ ((s.dev (ordOf flat)).corrected.filter fun x => x.1 = flat && decide (since s x.2 < dayNs)).length)

/-- A scrub visits a line: it corrects a soft error, or finds the line lost (R510). A sweep that is off finds nothing lost; what is corrected then is corrected at an
access. (DEDUCED: log 74.) -/
def execScrubSweep (dev : Nat) (va : W64) (corrected : Bool) (lost : Option W64) (s : State) : Host.Outcome State Fault Refusal :=
  .next (match lost with
    | some leaf => if (s.dev dev).scrub = 0 then s else lineLoss s dev va leaf
    | none => if corrected then noteCorrected s dev va else s)

/-! ## Hotness (R220, R221) -/

/-- A coordinate of the centre of gravity: the weighted mean of the quadrants' centres, to the nearest integer, halves down. -/
def gravity (low high : Nat) : Nat := (7 * low + 23 * high + (low + high) - 1) / (2 * (low + high))

/-- The tile at the centre of gravity of a page (R221), where its counters give one. -/
def Page.centre (p : Page) : Option Nat :=
  let q (i : Nat) : Nat := p.quad.getD i 0
  if q 0 + q 1 + q 2 + q 3 = 0 then none
  else some (gravity (q 0 + q 1) (q 2 + q 3) * 16 + gravity (q 0 + q 2) (q 1 + q 3))

/-- Hops between two tiles of a die. -/
def hops (a b : Nat) : Nat := (a / 16 - b / 16) + (b / 16 - a / 16) + ((a % 16 - b % 16) + (b % 16 - a % 16))

/-- The GDDR 7 frames of 64 KiB that are allocated on a die. -/
def allocated (s : State) (dk : Nat) : Nat :=
  (s.pages.filter (·.dev = dk / 4)).foldl (fun n p =>
    let on (leaf : W64) : Bool :=
      match leafOf leaf.toNat p.log2 none with
      | some l => l.tier = 0 && decide (l.addr / 2 ^ 16 / 786432 = dk % 4)
      | none => false
    n + 2 ^ (p.log2 - 16) * (([leafWord s p] ++ (if p.state = .migrating && !p.filling then [p.newLeaf] else []) ++ p.replicas).filter on).length) 0

/-- The frames of a page: of its leaf, of the leaf that it moves to, and of its replicas, as the keys of their first cells. -/
def Page.frames (p : Page) (s : State) : List Nat :=
  ([leafWord s p] ++ (if p.state = .migrating then [p.newLeaf] else []) ++ p.replicas).filterMap (frameKey p)

/-- Whether a frame for a page overlaps no frame in use (R222). -/
def freeAt (s : State) (p : Page) (leaf : W64) : Bool :=
  (frameKey p leaf).any fun a => s.pages.all fun q => q.dev ≠ p.dev || (q.frames s).all fun b => decide (a + 2 ^ p.log2 ≤ b) || decide (b + 2 ^ q.log2 ≤ a)

/-- What the policy on placement moves a RESIDENT page to: the leaf and home of the first row of R221 that holds, where firmware has such a frame to
give. (DEDUCED: log 75.) -/
def policyMove (s : State) (p : Page) : Option (W64 × Nat) :=
  let h := (s.dev p.dev).policy
  let leaf := leafWord s p
  let tier := leaf.toNat / 2 ^ 62
  let sum := p.quad.foldl (· + ·) 0
  let (frame, tile) := Config.freeFrame s.free
  let given (t home : Nat) : Option (W64 × Nat) :=
    if frame.toNat / 2 ^ 62 = t && goodLeaf frame p.log2 home && freeAt s p frame && frame.toNat / 2 ^ 6 % 2 = leaf.toNat / 2 ^ 6 % 2 then some (frame, home) else none
  let near := p.centre.bind fun t => if h.quads ≤ sum ∧ h.hops < hops (p.home % 256) t then some (leaf, p.home / 256 * 256 + t) else none
  let far := (Config.dieSample s.free).bind fun d =>
    if h.share * p.total < 100 * (p.total - sum) ∧ h.far ≤ p.total ∧ d % 4 ≠ p.home / 256 % 4 then given tier (p.dev * 1024 + d % 4 * 256 + tile % 256)
    else none
  let up := if tier = 1 ∧ h.up ≤ p.total then given 0 p.home else none
  let down := if tier = 0 ∧ h.idle ≤ p.idle ∧ h.full * 786432 < 100 * allocated s (p.home / 256) then given 1 p.home else none
  near.or (far.or (up.or down))

/-- The policy on placement is applied to a page: a move is a migrate command (R221). -/
def applyPolicy (s : State) (p : Page) : State :=
  let s1 := { s with free := s.free + 1 }
  if p.state = .resident then
    match policyMove s p with
    | some (leaf, home) => migratePage s1 p leaf home
    | none => s1
  else s1

/-- HOTNESS_HALVING: thresholds that management has set are in force, the policy is applied, and every counter halves (R220, R221). -/
def execHotnessHalving (h : Halving) (s : State) : Host.Outcome State Fault Refusal :=
  let dev := h.dev
  let s0 := s.modDev dev fun d => { d with policy := h.set.getD d.policy }
  let s1 : State := { s0 with pages := s0.pages.map fun p => if p.dev = dev then { p with idle := if p.total = 0 then p.idle + 1 else 0 } else p }
  let s2 := if led s dev then (s1.pages.filter (·.dev = dev)).foldl applyPolicy s1 else s1
  let halve (p : Page) : Page := { p with total := p.total / 2, quad := p.quad.map (· / 2) }
  .next { s2 with pages := s2.pages.map fun p => if p.dev = dev then halve p else p }

/-! ## Rights (R212) -/

/-- A rights shootdown, which firmware's leader commands: every core invalidates the PLB entries of the domain that meet the region, by address bits 56:0
(R212, R303). -/
def execRightsShootdown (domain : Half) (base : W64) (log2 : Nat) (s : State) : Host.Outcome State Fault Refusal :=
  let hit (e : PlbEnt) : Bool :=
    let l := max log2 e.log2
    e.dom = domain && decide (e.base.toNat % 2 ^ 57 / 2 ^ l = base.toNat % 2 ^ 57 / 2 ^ l)
  .next (if s.devs.any fun d => led s d.1 then
      { s with cores := s.cores.map fun c => (c.1, { c.2 with plb := c.2.plb.filter fun e => !hit e }) }
    else s)

end Sys2Proof.Machine
end

