-- ==== Sys2Proof/Machine/Service.lean ====
section
/-! DEFINITION. Spares, bring-up, the management interface, the identity block and eviction (R22 to R28, R503, R505 to R512). -/

namespace Sys2Proof.Machine

/-! ## Spares (R24 to R28) -/

/-- SPARE_CORE_MAP: the cluster is halted, the tile's state moves to the spare core, and the halt is released. The tile keeps its number. Of a cluster
that is halted already nothing is mapped. (DESIGN CHOICE: log 181.) -/
def execSpareCoreMap (cl : Nat) (_pos : Fin 16) (s : State) : Host.Outcome State Fault Refusal :=
  let dev := cl / 64
  .next (if !led s dev || (s.dev dev).spareCores.contains (cl % 64) || (s.cluster cl).halted then s
    else
      let before := (clusterParts s cl).filter fun k => (s.part k).st ≠ .halted
      let leaving := (clusterParts s cl).filter fun k => (s.part k).st = .evicting
      -- of a part that is leaving, halt and release are one: it is to arrive in the state it held
      let s1 := leaving.foldl (fun t k => t.modPart k fun p => { p with kept := (s.part k).kept, prev := (s.part k).prev }) (haltCluster s cl)
      let s2 := before.foldl releasePart (s1.modCluster cl fun c => { c with halted := false })
      writeHealth (s2.modDev dev fun d => { d with spareCores := d.spareCores ++ [cl % 64] }) dev)

/-- L2_WAY_RETIRE: what the way holds is written back, and the spare way takes its place: copies of lines homed at the slice, and the guest copies that the
slice holds (R26, R171). A way is spared once its slice has gathered 64 corrected errors within 24 hours (R510). -/
def execL2WayRetire (flat : Nat) (s : State) : Host.Outcome State Fault Refusal :=
  let dev := ordOf flat
  .next (if !led s dev || (s.dev dev).spareWays.contains flat || !gathered s flat then s
    else
      let here (g : Guest) : Bool :=
        let h := homeOf s flat g.line
        h = flat || (g.dk = dieOf flat && h % 256 = flat % 256)
      let s1 := (s.guests.filter here).foldl (fun s g => guestDrop s g.dk g.line) s
      writeHealth (s1.modDev dev fun d => { d with spareWays := d.spareWays ++ [flat] }) dev)

/-- The spares for what a unit contains are used up (R24, R28): the spare core of a tile's cluster, a spare way in a cluster's slices, both spare columns of a
matrix unit. -/
def noSpare (s : State) (dev : Nat) : Resource → Bool
  | .tile t => (s.dev dev).spareCores.contains (clOf (dev * 1024 + t) % 64)
  | .cluster c => (s.dev dev).spareWays.any fun f => clOf f % 64 = c
  | .matrix u => decide (2 ≤ (s.mu (dev * 128 + u)).remaps)
  | .link _ => true

/-- RESOURCE_WITHDRAWAL: a unit with no spare left is withdrawn; it keeps its number. -/
def execResourceWithdrawal (dev : Nat) (r : Resource) (s : State) : Host.Outcome State Fault Refusal :=
  let failed (l : Link) : Link := { l.train with st := .failed }
  .next (if !led s dev || !noSpare s dev r then s
    else
      let s1 := withdraw s dev r
      match r with
      | .link n => if h : n < 18 then modLink s1 dev ⟨n, h⟩ failed else s1
      | _ => s1)

/-- HEALTH_RECORD_WRITE. -/
def execHealthRecordWrite (dev : Nat) (s : State) : Host.Outcome State Fault Refusal := .next (if led s dev then writeHealth s dev else s)

/-! ## The identity block (R508) -/

/-- A bit set of n bytes from the numbers of its bits. -/
def bitSet (n : Nat) (l : List Nat) : List Byte :=
  (List.range n).map fun i => BitVec.ofNat 8 ((List.range 8).foldl (fun v b => if l.contains (8 * i + b) then v + 2 ^ b else v) 0)

/-- REV, SERIAL and MADE: SERIAL is 16 ASCII characters. -/
def identityBytes (dev : Nat) : List Byte :=
  let bs := bytesOf 26 (Config.identity dev).toNat
  bs.take 2 ++ (((bs.drop 2).take 16).map fun b => b &&& (0x7F : Byte)) ++ bs.drop 18

/-- The 2,048 bytes of the identity block. (DESIGN CHOICE: log 78.) -/
def identityBlock (s : State) (dev : Nat) : List Byte :=
  let d := s.dev dev
  let of (f : Resource → Option Nat) : List Nat := d.withdrawn.filterMap f
  bytesOf 4 0x42585648 ++ bytesOf 2 1 ++ identityBytes dev ++
    bitSet 8 d.spareCores ++
    bitSet 128 ((List.range 1024).filter fun t => d.withdrawn.contains (.tile t) || d.withdrawn.contains (.cluster (clOf (dev * 1024 + t) % 64))) ++
    bitSet 16 ((List.range 128).filter fun u => d.withdrawn.contains (.matrix u) || d.withdrawn.contains (.cluster (u / 2))) ++
    bitSet 4 (of fun r => match r with
      | .link n => some n
      | _ => none) ++
    bitSet 4 d.spareLanes ++ List.replicate 64 0 ++ d.healthA ++ d.healthB

/-! ## Reset and bring-up (R505) -/

/-- A module without power, or at its reset: what its identity block holds stays, and so do its health counts. -/
def Dev.off (d : Dev) : Dev :=
  { Dev.reset with
    withdrawn := d.withdrawn, spareCores := d.spareCores, spareWays := d.spareWays, spareLanes := d.spareLanes, healthA := d.healthA, healthB := d.healthB
    hseq := d.hseq, lost := d.lost, routedTo := d.routedTo, unrouted := d.unrouted, corrected := d.corrected, corr := d.corr, uncorr := d.uncorr, retired := d.retired, drops := d.drops, lastmc := d.lastmc, image := d.image, newImage := d.newImage
    groups := if d.routedTo.isSome then d.groups else [], colls := if d.routedTo.isSome then d.colls else []
    horizon := if d.routedTo.isSome then d.horizon else [], lastTicket := if d.routedTo.isSome then d.lastTicket else none }

/-- Every object of a module is as after reset: its cores, units, memories, contexts and what is on its way within it; the column
remaps of its matrix units go too. (DESIGN CHOICE: log 77.) -/
def clearDev (s : State) (dev : Nat) : State :=
  let gone := (s.ctxs.filter fun c => c.2.spr.all fun r => ordOf r.1 = dev).map (·.1)
  { s with
    parts := s.parts.filter fun p => ordOf (flatOf p.1) ≠ dev
    away := s.away.filter fun a => ordOf a.1 ≠ dev
    cores := s.cores.filter fun c => ordOf c.1 ≠ dev
    clusters := s.clusters.filter fun c => c.1 / 64 ≠ dev
    dies := s.dies.filter fun d => d.1 / 4 ≠ dev
    mus := s.mus.filter fun m => m.1 / 128 ≠ dev
    pages := s.pages.filter fun p => p.dev ≠ dev
    guests := s.guests.filter fun g => g.dk / 4 ≠ dev
    watches := s.watches.filter fun w => ordOf w.flat ≠ dev
    tasks := s.tasks.filter fun t => t.cl / 64 ≠ dev
    launches := s.launches.filter fun l => ordOf l.flat ≠ dev
    adds := s.adds.filter fun a => ordOf a.flat ≠ dev
    net := s.net.filter fun m => ordOf m.src ≠ dev
    mem := s.mem.filter fun c => c.1 / 2 ^ 58 ≠ dev
    ctxs := s.ctxs.filter fun c => !gone.contains c.1
    devs := s.devs.map fun d => if d.1 = dev then (d.1, d.2.off) else d
    sel := if s.sel.any fun k => ordOf (flatOf k) = dev then none else s.sel }

/-- Bring-up begins to train the links that are not withdrawn. -/
def Dev.training (d : Dev) : Dev :=
  (List.finRange 18).foldl (fun (d : Dev) (n : Fin 18) =>
    if d.withdrawn.contains (.link n.val) then d else { d with links := d.links.set n ({ (d.links[n]).train with after := .up } : Link) }) d

/-- A link ends the training of bring-up (R486, R505): UP, with its spare lane noted where it is in use, or FAILED and withdrawn. -/
def trainLink (b : BringUp) (dev : Nat) (s : State) (n : Fin 18) : State :=
  let up (l : Link) : Link := { l with st := .up, heard := s.ftime }
  let failed (l : Link) : Link := { l with st := .failed, fails := 0 }
  if (linkOf s dev n).st ≠ .training then s
  else if b.trainedOk.contains n then
    let s1 := modLink s dev n up
    if b.spares.contains n && !(s.dev dev).spareLanes.contains n.val then
      writeHealth (s1.modDev dev fun d => { d with spareLanes := d.spareLanes ++ [n.val] }) dev
    else s1
  else withdraw (modLink s dev n failed) dev (.link n.val)

/-- The first steps of bring-up (R505): BOOT is FIRMWARE, the core of die 0 takes the lease at epoch 1, a new firmware image takes effect, and the links train. TIME
counts from here. A step that fails writes its cause into the health record, and bring-up ends there. -/
def beginBoot (s : State) (dev : Nat) (b : BringUp) : State :=
  let start (d : Dev) : Dev :=
    { d with boot := 1, image := d.newImage.getD d.image, newImage := none, timeBase := s.time, lease := leaseWord s 1 0, leader := some 0, renewed := s.ftime, cause := b.cause
             starting := if b.cause = 0 then some b else none }
  let s1 := (clearDev s dev).modDev dev fun d => (start d).training
  if b.cause = 0 then s1 else writeHealth s1 dev

/-- The last steps of bring-up: root addresses, census ring, power table and cap are loaded, the links are trained, the module joins the partition that the fabric
manager names (another one: it is no member of this), and BOOT is READY. -/
def finishBoot (s : State) (dev : Nat) (b : BringUp) : State :=
  let ready (d : Dev) : Dev :=
    { d with
      domRoot := b.domRoot, transRoot := b.transRoot, censusBase := b.census, censusSlots := b.slots, censusAt := censusInstant s 1, power := b.power.getD defaultPower
      coordId := b.coordId, starting := none, boot := 2, lost := !b.joins, unrouted := false, routedTo := none }
  ((List.finRange 18).foldl (trainLink b dev) s).modDev dev ready

/-- MODULE_RESET: bring-up begins, and the module is in FIRMWARE. The event comes once more, with what bring-up has found, as it ends: the module is READY then.
(DEDUCED: log 12; DESIGN CHOICE: log 77.) -/
def execModuleReset (dev : Nat) (b : BringUp) (s : State) : Host.Outcome State Fault Refusal :=
  .next (if (mfind s.devs dev).isNone then s
    else if (s.dev dev).boot = 1 && (s.dev dev).starting = some b then finishBoot s dev b else beginBoot s dev b)

/-- POWER_OFF: every state of the module ends, and its links with it; the partition loses it as PEER_LOSS says (R493). -/
def execPowerOff (dev : Nat) (s : State) : Host.Outcome State Fault Refusal := .next (clearDev s dev)

/-- FIRMWARE_UPDATE (R506). -/
def execFirmwareUpdate (dev image : Nat) (s : State) : Host.Outcome State Fault Refusal :=
  .next (s.modDev dev fun d => { d with newImage := some image })

/-! ## Eviction (R511, R512) -/

/-- Whether collectives of a part are TICKETED or ADMITTED: its eviction waits for their end (R472). -/
def collsHeld (s : State) (flat c : Nat) : Bool := (collsOf s flat c).any fun x => x.st = .ticketed || x.st = .admitted

/-- What a part's entry into EVICTING does around it: its context's uncommitted tasks are aborted to PENDING (R435), its POSTED collectives are withdrawn (R472), and
the requests addressed to it are cancelled (R389). -/
def evictAround (s : State) (flat c : Nat) : State := tablaPartGone (withdrawColls (abortContext s c) flat c false) flat c

/-- A part enters EVICTING (R146). It waits while collectives of it are TICKETED or ADMITTED, and while a CHECKPOINT handler runs. -/
def evictPart (s : State) (k : Nat) : State :=
  let p := s.part k
  let flat := flatOf k
  if !(p.st = .resident || p.st = .preempted || p.st = .halted) || (p.st = .resident && p.quiescing) || collsHeld s flat p.ctx then s
  else
    let s1 := evictAround s flat p.ctx
    let s2 := returnTokens (if (s1.part k).fmode = .leading then releaseFollowers s1 k else s1) k true
    unselect (s2.modPart k fun p => { p with kept := p.st, st := .evicting, spillDue := false, blocked := none }) k

/-- A SPILLED part enters EVICTING: its frame is sent as it stands (R146). -/
def evictAway (s : State) (flat c : Nat) : State :=
  let leave (p : Part) : Part := if p.ctx = c && p.st = .spilled then { p with kept := .spilled, st := .evicting } else p
  if collsHeld s flat c then s
  else
    let s1 := evictAround s flat c
    { s1 with away := s1.away.map fun a => if a.1 = flat then (a.1, leave a.2) else a }

/-- The parts of a module that can enter EVICTING do. -/
def evictAll (s : State) (dev : Nat) : State :=
  let s1 := ((s.parts.filter fun kp => ordOf (flatOf kp.1) = dev && idxOf kp.1 ≠ 3).map (·.1)).foldl evictPart s
  (s1.away.filter fun a => ordOf a.1 = dev && a.2.st = .spilled).foldl (fun s a => evictAway s a.1 a.2.ctx) s1

/-- The number that a queue gets at the neighbour: its own, or the first that is free where that is taken. -/
def queueThere (s : State) (to_ q : Nat) : Option Nat :=
  (q :: List.range 1024).find? fun n => !((mfind (s.dev to_).hostqs n).any fun h => h.ctx.isSome)

/-- A host queue stops and moves: what it has started goes on, under its new name (R296, R511). -/
def moveQueue (dev to_ : Nat) (s : State) (q : Nat × HostQ) : State :=
  let stoppedQ : HostQ := { q.2 with st := .stopped, held := none, desc := none }
  match queueThere s to_ q.1 with
  | none => s.modDev dev fun d => { d with hostqs := mset d.hostqs q.1 { stoppedQ with desc := q.2.desc } }
  | some n =>
    let s1 := (s.modDev dev fun d => { d with hostqs := mdel d.hostqs q.1 }).modDev to_ fun d => { d with hostqs := mset d.hostqs n stoppedQ }
    let launch (l : Launch) : Launch := { l with queue := l.queue.map fun x => if x.1 = dev && x.2.1 = q.1 then (to_, n, x.2.2) else x }
    let msg (m : Msg) : Msg :=
      match m.sender with
      | .packet d p id => if d = dev && p = q.1 then { m with sender := .packet to_ n id } else m
      | _ => m
    { s1 with launches := s1.launches.map launch, net := s1.net.map msg }

/-- The host queues of a module stop, and their connections move to the neighbour (R511). (DEDUCED: log 79.) -/
def moveQueues (s : State) (dev to_ : Nat) : State := ((s.dev dev).hostqs.filter fun q => q.2.ctx.isSome).foldl (moveQueue dev to_) s

/-- Whether EVICT.GO is rejected: no neighbour of the partition, or a state in which no eviction starts (R511, R512). -/
def evictRefused (s : State) (dev ord : Nat) : Bool :=
  let d := s.dev dev
  d.boot ≠ 2 || !(d.svc = 0 || d.svc = 3) || ord = dev || !((mfind s.devs ord).any fun d => !d.lost)

/-- EVICT.GO with a neighbour of the partition; any other ordinal is rejected. (DEDUCED: log 79, 165.) -/
def evictGo (s : State) (dev ord : Nat) : State :=
  if evictRefused s dev ord then s
  else evictAll (moveQueues (s.modDev dev fun d => { d with svc := 1, evictOrd := ord, evictAt := s.ftime, sentCtxs := [] }) dev ord) dev

/-- The links of a module are enabled again. -/
def reLink (d : Dev) : Dev := { d with links := d.links.map Link.release }

/-- An eviction fails: parts not yet sent resume in their kept state, and take what their inboxes hold. A context of which a part has been sent leaves whole all the
same, since an eviction leaves no context on both modules (R512). (DEDUCED: log 79.) -/
def evictFails (s : State) (dev : Nat) : State :=
  let sent := (s.dev dev).sentCtxs
  let back (p : Part) : Part := if p.st = .evicting && !sent.contains p.ctx then { p with st := p.kept, kept := .free } else p
  let s1 := (s.parts.filter fun kp => ordOf (flatOf kp.1) = dev && kp.2.st = .evicting && !sent.contains kp.2.ctx).foldl (fun s kp =>
    let s1 := s.modPart kp.1 fun p => (back p).goto p.pc s.steps
    drainInbox (if kp.2.kept = .preempted then s1 else sendRequests s1 kp.1) (flatOf kp.1) kp.2.ctx) s
  let s2 : State := { s1 with away := s1.away.map fun a => if ordOf a.1 = dev then (a.1, back a.2) else a }
  s2.modDev dev fun d => reLink { d with svc := 3 }

/-- EVICT.ABORT. -/
def evictAbort (s : State) (dev : Nat) : State :=
  match (s.dev dev).svc with
  | 1 => evictFails s dev
  | 2 => s.modDev dev fun d => reLink { d with svc := 0, latchOk := false, routedTo := none }
  | 3 => s.modDev dev fun d => { d with svc := 0 }
  | _ => s

/-- The tables of a context name the part's new core: its scratchpad range with its bytes and lost lines, inbox, watches, places in waits for events,
collectives, tasks, launches. -/
def renameCore (s : State) (c src dst : Nat) : State :=
  let ctx := s.ctx c
  let ranges := ctx.spr.filter fun r => r.1 = src
  let mem := ranges.foldl (fun m r => moveCells m (spadKey src r.2.1) (spadKey dst r.2.1) r.2.2) s.mem
  let lost := (s.core src).spadLost.filter fun l => ranges.any fun r => decide (r.2.1 ≤ l + 63) && decide (l < r.2.1 + r.2.2)
  let flat (f : Nat) : Nat := if f = src then dst else f
  let home (w : Watch) : Nat := if w.spad then flat w.home else w.home
  let msg (m : Msg) : Msg := { m with dest := flat m.dest }
  let pending := (s.tasks.filter fun t => t.msg.ctx = c && t.msg.dest = src).map fun t => { msg t.msg with held := t.held }
  let s1 : State := { s with
    mem
    watches := s.watches.map fun (w : Watch) => if w.ctx = c && w.flat = src && !w.dpart then { w with flat := dst, home := home w } else w
    tasks := s.tasks.filter fun t => !(t.msg.ctx = c && t.msg.dest = src)
    launches := s.launches.map fun l => if l.ctx = c then { l with flat := flat l.flat, units := l.units.map flat } else l
    adds := s.adds.map fun a => if a.ctx = c then { a with flat := flat a.flat } else a
    clusters := s.clusters.map fun x => (x.1, { x.2 with events := x.2.events.map fun e =>
      if e.ctx = c then { e with wait := e.wait.map fun w => (flat w.1, w.2) } else e }) }
  let s1a := (s1.modCore src fun x => { x with spadLost := x.spadLost.filter fun l => !lost.contains l }).modCore dst fun x =>
    { x with spadLost := x.spadLost ++ lost.filter fun l => !x.spadLost.contains l }
  let s2 := s1a.modCtx c fun x =>
    { x with spr := x.spr.map fun r => (flat r.1, r.2.1, r.2.2), inbox := x.inbox.map msg ++ pending }
  let moved (x : Coll) : Coll := if x.flat = src && x.ctx = c then { x with flat := dst } else x
  { s2 with devs := s2.devs.map fun d => (d.1, { d.2 with colls := d.2.colls.map moved }) }

/-- Whether the grants of a context in a cluster meet none at another cluster: regions, leaves, holding-buffer slots (R379, R403). -/
def grantsFit (s : State) (c src dst : Nat) : Bool :=
  let e := (s.ctx c).egrants.filter (·.1 = src)
  let h := (s.ctx c).hbgrants.filter (·.1 = src)
  src = dst || s.ctxs.all fun o =>
    (e.all fun g => o.2.egrants.all fun q => q.1 ≠ dst || (q.2.1 &&& g.2.1 = 0 && !meet q.2.2.1 q.2.2.2 g.2.2.1 g.2.2.2)) &&
      h.all fun g => o.2.hbgrants.all fun q => q.1 ≠ dst || q.2 &&& g.2 = 0

/-- A part that is the last of its context in its cluster takes the cluster's grants along: they must fit at the destination. -/
def lastFits (s : State) (c src dst : Nat) : Bool :=
  let others := (s.parts.any fun kp => kp.2.ctx = c && kp.2.st ≠ .free && idxOf kp.1 ≠ 3 && clOf (flatOf kp.1) = clOf src && flatOf kp.1 ≠ src) ||
    s.away.any fun a => a.2.ctx = c && clOf a.1 = clOf src && a.1 ≠ src
  others || grantsFit s c (clOf src) (clOf dst)

/-- The regions, slots, events and barriers of a context in a cluster go with its last part there, and the waits at them name the new cluster (R403). -/
def renameCluster (s : State) (c src dst : Nat) : State :=
  let here := (s.parts.any fun kp => kp.2.ctx = c && kp.2.st ≠ .free && idxOf kp.1 ≠ 3 && clOf (flatOf kp.1) = src) || s.away.any fun a => a.2.ctx = c && clOf a.1 = src
  if here || src = dst then s
  else
    let g := ((s.ctx c).egrants.find? fun g => g.1 = src).getD (src, 0, 0, 0)
    let mineR (r : Nat × TreeRegion) : Bool := g.2.1.getLsbD r.1
    let mineL (l : Nat × Nat) : Bool := decide (g.2.2.1 ≤ l.1) && decide (l.1 < g.2.2.1 + g.2.2.2)
    let x := s.cluster src
    let s1 := s.modCluster src fun y =>
      { y with regions := y.regions.filter (fun r => !mineR r), leaves := y.leaves.filter (fun l => !mineL l), hb := y.hb.filter (·.2.ctx ≠ c)
               events := y.events.filter (·.ctx ≠ c), bars := y.bars.filter (·.2.owner ≠ c) }
    let s2 := s1.modCluster dst fun y =>
      { y with regions := (x.regions.filter mineR).foldl (fun m r => mset m r.1 r.2) y.regions
               leaves := (x.leaves.filter mineL).foldl (fun m l => mset m l.1 l.2) y.leaves
               hb := (x.hb.filter (·.2.ctx = c)).foldl (fun m h => mset m h.1 h.2) y.hb
               events := y.events ++ x.events.filter (·.ctx = c)
               bars := (x.bars.filter (·.2.owner = c)).foldl (fun m b => mset m b.1 b.2) y.bars }
    let cl (k : Nat) : Nat := if k = src then dst else k
    let wait (p : Part) : Part :=
      match p.sleep with
      | .event k x name limit began => if x = c then { p with sleep := .event (cl k) x name limit began } else p
      | .barrier k 0 i => if p.ctx = c then { p with sleep := .barrier (cl k) 0 i } else p
      | _ => p
    let s3 : State := { s2 with parts := s2.parts.map fun kp => (kp.1, wait kp.2), away := s2.away.map fun a => (a.1, wait a.2) }
    s3.modCtx c fun y => { y with egrants := y.egrants.map fun g => (cl g.1, g.2), hbgrants := y.hbgrants.map fun g => (cl g.1, g.2) }

/-- The state in which a part arrives: the one it held, or RESIDENT where a CHECKPOINT waits for it (R146). -/
def arrivalState (p : Part) : PState := if p.kept = .preempted && p.quiesce.isSome then .resident else p.kept

/-- An evicted part arrives at a core of the neighbour, once what ran for it has come to rest and there is room, for its mailbox entries too (R365); a wait at a
barrier of the old die or module begins anew. (DEDUCED: log 79.) -/
def arrive_ (s : State) (c src dst : Nat) : State :=
  let mail := (s.core src).mailbox.filter (·.ctx = c)
  let fits (p : Part) : Bool := decide (mailboxUsed s dst + p.reserved + (p.mbox ++ mail).length ≤ 64) && lastFits s c src dst
  match s.placed src c, freePartition s dst with
  | some k, some j =>
    if (s.part k).st ≠ .evicting then evictPart s k
    else if !partStill s k || !collsDone s src c || !freeOf s dst c || !fits (s.part k) then s
    else
      let (s1, p) := capture s k
      renameCluster (placePart (renameCore s1 c src dst) j { rewait p with kept := .free } (arrivalState p)) c (clOf src) (clOf dst)
  | none, _ =>
    match s.away.find? fun a => a.1 = src && a.2.ctx = c && (a.2.st = .spilled || a.2.st = .evicting || a.2.st = .created) with
    | some a =>
      if a.2.st = .spilled then evictAway s src c
      else if !fits a.2 || (a.2.st = .evicting && (!collsDone s src c || !freeOf s dst c)) then s
      else
        let p : Part := if a.2.st = .created then a.2 else { rewait a.2 with st := a.2.kept, kept := .free, mbox := a.2.mbox ++ mail }
        let s1 := (if a.2.st = .created then s else s.modCore src fun x => { x with mailbox := x.mailbox.filter (·.ctx ≠ c) })
        renameCluster (renameCore { s1 with away := s1.away.erase a ++ [(dst, p)] } c src dst) c (clOf src) (clOf dst)
    | none => s
  | _, none => s
where
  rewait (p : Part) : Part :=
    let q : Part := { p with under := some (p.under.getD (ordOf src)) }
    match p.sleep with
    | .barrier _ (_ + 1) _ => { q with sleep := .awake }
    | _ => q
  freeOf (s : State) (dst c : Nat) : Bool := (s.placed dst c).isNone && !(s.away.any fun a => a.1 = dst && a.2.ctx = c && a.2.st ≠ .created)

/-- Whether a context has a part on a core. -/
def partOn (s : State) (flat c : Nat) : Bool := (s.placed flat c).isSome || s.away.any fun a => a.1 = flat && a.2.ctx = c

/-- EVICTION_TRANSFER_DONE: the part of a context on a core of a module that is EVICTING arrives at a core of the neighbour; so do the other parts of a context of
which one has been sent, where the eviction has failed since (R512). -/
def execEvictionTransferDone (ctx src dst : Nat) (s : State) : Host.Outcome State Fault Refusal :=
  let d := s.dev (ordOf src)
  let on := d.svc = 1 || (d.sentCtxs.contains ctx && (d.svc = 3 || d.svc = 0))
  .next (if !on || d.lost || ordOf dst ≠ d.evictOrd || !((mfind s.devs (ordOf dst)).any fun e => !e.lost) then s
    else
      let s1 := arrive_ s ctx src dst
      if partOn s src ctx && !partOn s1 src ctx && !d.sentCtxs.contains ctx then s1.modDev (ordOf src) fun d => { d with sentCtxs := ctx :: d.sentCtxs } else s1)

def execEvictGo (dev ord : Nat) (s : State) : Host.Outcome State Fault Refusal := .next (evictGo s dev ord)
def execEvictAbort (dev : Nat) (s : State) : Host.Outcome State Fault Refusal := .next (evictAbort s dev)

/-- 30 s have passed since the write of EVICT.GO. -/
def execEvictTimeout (dev : Nat) (s : State) : Host.Outcome State Fault Refusal :=
  .next (if (s.dev dev).svc = 1 && decide (30000000000 ≤ since s (s.dev dev).evictAt) then evictFails s dev else s)

/-- The regions, slots, events and barriers of the contexts in the clusters of a module that no part has taken along go to clusters of the neighbour, each to one where
its grants meet no other (R403, R511): none where one finds no room. -/
def carryRest (s : State) (dev to_ : Nat) : Option State :=
  let one (o : Option State) (x : Nat × Nat) : Option State :=
    o.bind fun s => ((List.range 64).find? fun i => grantsFit s x.1 x.2 (to_ * 64 + i)).map fun i => renameCluster s x.1 x.2 (to_ * 64 + i)
  let here (c : Nat × Ctx) : List (Nat × Nat) :=
    (((c.2.egrants.map (·.1)) ++ (c.2.hbgrants.map (·.1))).dedup.filter fun cl => cl / 64 = dev).map fun cl => (c.1, cl)
  (s.ctxs.flatMap here).foldl one (some s)

/-- EVICT_RELEASED: the ordinal and its ranks in groups are the neighbour's from now on (R472): every part has been sent, with regions that no part took along, and all 18
links are QUIESCED, within 30 s of the write; the ordinal is routed to the neighbour and LATCHOK is set. -/
def execEvictReleased (dev : Nat) (s : State) : Host.Outcome State Fault Refusal :=
  let d := s.dev dev
  let coming := s.launches.any fun l => l.st = .waking && (List.range l.units.length).any fun i => !l.started.contains i && (l.units[i]?).any fun f => ordOf f = dev
  let empty := !(s.parts.any fun kp => ordOf (flatOf kp.1) = dev && idxOf kp.1 ≠ 3 && kp.2.st ≠ .free) && !(s.away.any fun a => ordOf a.1 = dev) && !coming
  let free (l : Link) : Bool := l.st = .quiesced
  let re (m : Msg) : Msg := if ordOf m.dest = dev then { m with dest := d.evictOrd * 1024 + m.dest % 1024 } else m
  .next (if d.svc = 1 && empty && d.links.toList.all free && decide (since s d.evictAt < 30000000000) then
      match carryRest s dev d.evictOrd with
      | some s0 =>
        let s1 := s0.modDev dev fun d => { d with svc := 2, latchOk := true, routedTo := some d.evictOrd }
        { s1 with net := s1.net.map re }
      | none => s
    else s)

/-- LATCH_OPENED: permitted from RELEASED; else the module is lost, and transfers of an eviction are abandoned (R512). -/
def execLatchOpened (dev : Nat) (s : State) : Host.Outcome State Fault Refusal :=
  .next (if (s.dev dev).svc = 2 || (mfind s.devs dev).isNone then s
    else (loseModule s dev).modDev dev fun d => { d with svc := if d.svc = 1 then 0 else d.svc, sentCtxs := [] })

/-! ## Management writes (R503, R506, R507) -/

/-- A management message is answered with an error code, and changes nothing else (R506). -/
def mgmtRejects (s : State) (dev : Nat) : State := s.modDev dev fun d => { d with mgmtError := true }

/-- PCAP: a value from 1,200 to 3,000 in steps of 25 (R22); another is rejected. (DESIGN CHOICE: log 87.) -/
def pcapWrite (s : State) (dev v : Nat) : State :=
  if 1200 ≤ v && decide (v ≤ 3000) && v % 25 = 0 then s.modDev dev fun d => { d with cap := v, mgmtError := false } else mgmtRejects s dev

/-- FREEZE: every clock of the module stops, and the fabric sees it as lost (R493, R503). -/
def freezeDev (s : State) (dev : Nat) : State :=
  let s1 := if (mfind s.devs dev).any fun d => !d.lost then loseModule s dev else s
  { s1.modDev dev fun d => { d with boot := 3, mgmtError := false } with sel := if s1.sel.any fun k => ordOf (flatOf k) = dev then none else s1.sel }

def execPcapWrite (dev : Nat) (value : W32) (s : State) : Host.Outcome State Fault Refusal := .next (pcapWrite s dev (value.toNat % 65536))
def execFreeze (dev : Nat) (s : State) : Host.Outcome State Fault Refusal := .next (freezeDev s dev)

/-- A management write by its offset; an unlisted offset, a read-only register or a value outside a field's range is answered with an error code and changes nothing; so are
GO where an eviction may not start and GO with ABORT (R506, R507, R512). (DEDUCED: log 88.) -/
def execMgmtRegWrite (dev : Nat) (offset value : W32) (s : State) : Host.Outcome State Fault Refusal :=
  let v := value.toNat
  .next (match offset.toNat with
    | 0x04 => pcapWrite s dev (v % 65536)
    | 0x08 => s.modDev dev fun d => { d with scrub := v % 4, mgmtError := false }
    | 0x0C =>
      if 1 ≤ v % 128 && decide (v % 128 ≤ 100) then s.modDev dev fun d => { d with censusIvl := v % 128, censusAt := censusInstant s (v % 128), mgmtError := false }
      else mgmtRejects s dev
    | 0x10 =>
      let go := decide (2 ^ 31 ≤ v)
      let abort := v / 2 ^ 30 % 2 = 1
      let taken (t : State) : State := t.modDev dev fun d => { d with mgmtError := false }
      if go && abort then mgmtRejects s dev
      else if go then (if evictRefused s dev (v % 2 ^ 22) then mgmtRejects s dev else taken (evictGo s dev (v % 2 ^ 22)))
      else taken (if abort then evictAbort s dev else s)
    | 0x14 => if v % 2 = 1 then freezeDev s dev else s.modDev dev fun d => { d with mgmtError := false }
    | _ => mgmtRejects s dev)

end Sys2Proof.Machine
end

