-- ==== Sys2Proof/Machine/Sparse.lean ====
section
/-! DEFINITION. Scales, narrow quantisation, outlier channels and sparse metadata: major 0x5C (R337 to R347). -/

namespace Sys2Proof.Machine

/-- A register whose element j of width w is `f j`, or the old element where `f j` is none. -/
def updElems (old : VReg) (w : Nat) (f : Nat → Option Nat) : VReg :=
  BitVec.ofNat 2048 (packElems w (fun j => (f j).getD (elemOf old w j)) (2048 / w))

/-! ## BSCALE (R340, R343) -/

/-- The largest magnitude among FP32 codes: its code, or the canonical NaN, with NV where one is a signalling NaN. -/
def amax32 (codes : List Nat) : FRes :=
  let ms := codes.map (· % 2 ^ 31)
  let fl := codes.foldl (fun f c => f ||| sigFlag (decodeF fmt32 c)) 0
  if ms.any fun m => decide (0x7F800000 < m) then ⟨0x7FC00000, fl⟩ else ⟨ms.foldl max 0, fl⟩

/-- The band code for an absolute maximum: the smallest power of two, at least 2^-133, that is no smaller than a / 186. -/
def bandCode (a : Nat) : FRes :=
  match decodeF fmt32 (a % 2 ^ 31) with
  | .nan sig => ⟨0x7FC0, if sig then flagNV else 0⟩
  | .inf _ => ⟨0x7F80, 0⟩
  | .fin _ 0 _ => ⟨0x3F80, 0⟩
  | v =>
    let e := ((List.range 261).map fun (i : Nat) => (Int.ofNat i - 133)).find? fun e => cmpV (.fin false 186 e) v ≠ some .lt
    ⟨(encodeF fmtBf rcRNE (.fin false 1 (e.getD 127)) 0).code, 0⟩

/-- The code of a block with absolute maximum m (an FP32 code) under a band scale: the smallest whose value is at least m / (6 × β). -/
def blockCode (m : FRes) (beta : Nat) : FRes :=
  match decodeF fmt32 m.code, decodeF fmtBf beta with
  | .nan _, _ => ⟨0xFF, flagNV⟩
  | .fin _ 0 _, .fin false (_ + 1) _ => ⟨0x01, 0⟩
  | v, .fin false (b + 1) e =>
    let ge (c : Nat) : Bool := cmpV (mulV (decodeE3 c) (.fin false (6 * (b + 1)) e)).1 v ≠ some .lt
    match (List.range 254).find? fun i => ge (i + 1) with
    | some i => ⟨i + 1, 0⟩
    | none => ⟨0xFE, flagOF⟩
  | _, _ => ⟨0xFF, flagNV⟩

def execBscaleBlk (h : Hd) (o : OpC) (s : State) : Host.Outcome State Fault Refusal :=
  issue { h, reads := rds [o.s1, o.s2], writes := wr o.d none } (fun _ => do
    let p ← myPart
    let beta := p.srcT (.flt fmtBf) o.s2
    let v := p.vreg o.s1
    let part := o.mod.toNat / 4 % 32
    let r (b : Nat) : FRes := blockCode (amax32 ((List.range 8).map fun i => elemOf v 32 (8 * b + i))) beta
    putV o.d (updElems (p.oldV o.d) 8 fun j => if 8 * part ≤ j ∧ j < 8 * part + 8 then some (r (j - 8 * part)).code else none)
    setMine fun p => p.orFlags ((List.range 8).foldl (fun f b => f ||| (r b).flags) 0)
    pure .done) s

def execBscaleAmax (h : Hd) (o : OpC) (s : State) : Host.Outcome State Fault Refusal :=
  issue { h, reads := rds [o.s1, o.s2], writes := wr o.d none } (fun _ => do
    let p ← myPart
    let v := p.vreg o.s1
    let r := amax32 (p.srcT (.flt fmt32) o.s2 :: (List.range 64).map fun L => elemOf v 32 L)
    putM o.d (BitVec.ofNat 64 r.code)
    setMine fun p => p.orFlags r.flags
    pure .done) s

def execBscaleBand (h : Hd) (o : OpC) (s : State) : Host.Outcome State Fault Refusal :=
  issue { h, reads := rds [o.s1], writes := wr o.d none } (fun _ => do
    let p ← myPart
    let r := bandCode (p.srcT (.flt fmt32) o.s1)
    putM o.d (BitVec.ofNat 64 r.code)
    setMine fun p => p.orFlags r.flags
    pure .done) s

/-! ## QNT and DQNT (R57, R344) -/

/-- A scale: invalid, zero (with its sign), or a value; with the flags of forming it. -/
inductive QScale where
  | bad
  | zero (neg : Bool)
  | val (v : FV) (flags : Nat)

/-- The scale s = sb × β (R340). -/
def qscale (sb : Option Nat) (beta : Nat) : QScale :=
  if sb = some 0xFF then .bad
  else
    let b := decodeF fmtBf beta
    let a := match sb with
      | some c => decodeE3 c
      | none => .fin false 1 0
    match a, b with
    | .fin _ 0 _, _ => .zero b.negative
    | _, .fin n 0 _ => .zero n
    | _, _ => let (v, f) := mulV a b; .val v f

/-- The quotient of two values rounded to an integer type (R56, R57). -/
def divInt (c : RCtl) (w : Nat) (x y : FV) : FRes :=
  match x, y with
  | .fin a m e, .fin b n g =>
    -- 2^400 keeps every fraction bit that can decide a rounding of a 24-bit by a 16-bit significand
    let k := m * 2 ^ 400
    toIntV c true w (.fin (a != b) (2 * (k / n) + (if k % n = 0 then 0 else 1)) (e - g - 401))
  | .fin _ _ _, .inf _ => ⟨0, 0⟩
  | .inf a, .fin b _ _ => toIntV c true w (.inf (a != b))
  | _, _ => ⟨0, flagNV⟩

/-- QNT of one lane. (DEDUCED: log 52.) -/
def qnt1 (t : CTy) (c : RCtl) (x : FV) : QScale → FRes
  | .bad =>
    match t with
    | .flt f => ⟨f.nanCode, flagNV⟩
    | _ => ⟨0, flagNV⟩
  | .zero _ => ⟨0, flagNV⟩
  | .val s fl =>
    match t with
    | .flt f => let r := divF f { c with fz := false } x s; ⟨r.code, r.flags ||| fl⟩
    | _ => let r := divInt c 8 x s; ⟨r.code, r.flags ||| fl⟩

/-- DQNT of one element. (DEDUCED: log 52.) -/
def dqnt1 (t : CTy) (c : RCtl) (code : Nat) : QScale → FRes
  | .bad => ⟨0x7FC00000, flagNV⟩
  | .zero n => let (v, f) := mulV (valueOf t false code) (.fin n 0 0); encodeF fmt32 c v f
  | .val s fl => let (v, f) := mulV (valueOf t false code) s; encodeF fmt32 c v (f ||| fl)

/-- Type, PART and BS of QNT and DQNT. -/
def qType (mod : BitVec 8) : CTy := ctyOf (mod.toNat % 16)
def qPart (mod : BitVec 8) : Nat := mod.toNat / 32
def qScaleOf (p : Part) (o : OpC) (L : Nat) : QScale :=
  qscale (if o.mod.getLsbD 4 then some (elemOf (p.vreg o.s2) 8 (8 * qPart o.mod + L / 8)) else none) (p.srcT (.flt fmtBf) o.s3)

def qReads (o : OpC) : List Src := [o.s1] ++ (if o.mod.getLsbD 4 then [o.s2] else []) ++ [o.s3]

def execQnt (h : Hd) (o : OpC) (s : State) : Host.Outcome State Fault Refusal :=
  issue { h, reads := rds (qReads o), writes := wr o.d none, sr := 1 } (fun _ => do
    let p ← myPart
    let t := qType o.mod
    let e0 := 64 * qPart o.mod
    let x := p.vreg o.s1
    let r (L : Nat) : FRes := qnt1 t (p.rctl L 0) (decodeFZ fmt32 p.fz (elemOf x 32 L)) (qScaleOf p o L)
    putV o.d (updElems (p.oldV o.d) t.width fun j => if e0 ≤ j ∧ j < e0 + 64 then some (r (j - e0)).code else none)
    setMine fun p => p.orFlags ((List.range 64).foldl (fun f L => f ||| (r L).flags) 0)
    pure .done) s

def execDqnt (h : Hd) (o : OpC) (s : State) : Host.Outcome State Fault Refusal :=
  issue { h, reads := rds (qReads o), writes := wr o.d none, sr := 1 } (fun _ => do
    let p ← myPart
    let t := qType o.mod
    let e0 := 64 * qPart o.mod
    let x := p.vreg o.s1
    let r (L : Nat) : FRes := dqnt1 t (p.rctl L 0) (elemOf x t.width (e0 + L)) (qScaleOf p o L)
    putV o.d (updElems 0 32 fun L => some (r L).code)
    setMine fun p => p.orFlags ((List.range 64).foldl (fun f L => f ||| (r L).flags) 0)
    pure .done) s

/-! ## QSPLIT (R341, R345) -/

def execQsplit (h : Hd) (o : OpC) (s : State) : Host.Outcome State Fault Refusal :=
  issue { h, reads := rds [o.s1, o.s2, o.s3], writes := wr o.d none, store := true } (fun _ => do
    let p ← myPart
    let x := p.vreg o.s1
    let m := p.src 0 o.s2
    let a := p.src 0 o.s3
    if a.toNat % 256 ≠ 0 then trapM 0x04 a
    match regionOf a with
    | .spad false _ _ => pure ()
    | _ => stop (.trap ⟨3, 0, a, some (256 + 0x02)⟩)
    checkM .write [(a, 256)]
    let rec64 := updElems 0 32 fun L => some (if m.getLsbD L then elemOf x 32 L else 0)
    if !(← writeM a ((bytesAt a 256).zip (bytesOf 256 rec64.toNat))) then return .wait
    putV o.d (updElems 0 32 fun L => some (if m.getLsbD L then 0 else elemOf x 32 L))
    pure .done) s

/-! ## SPCOMP and SPCHK (R338, R346, R347) -/

/-- The rank of an element's magnitude (R338): larger ranks first. -/
def magRank (ty code : Nat) : Nat :=
  match ctyOf ty with
  | .int sg w => (intOf sg w code).natAbs
  | .flt f =>
    let m := code % f.signBit
    match f.cls with
    | .ieee => min m (f.infCode + 1)
    | _ => m
  | .e3m5 => code

/-- Whether element b is in the kept set of a group of ranks: fewer than four elements come before it. -/
def keptIn (ranks : List Nat) (b : Nat) : Bool :=
  let r := ranks.getD b 0
  decide ((((List.range 8).filter fun a =>
    let q := ranks.getD a 0
    decide (r < q) || (q = r && decide (a < b)))).length < 4)

/-- The kept indexes of group i. -/
def keptSet (ty w : Nat) (x : VReg) (i : Nat) : List Nat :=
  let ranks := (List.range 8).map fun b => magRank ty (elemOf x w (8 * i + b))
  (List.range 8).filter (keptIn ranks)

def execSpcomp (h : Hd) (o : OpC) (s : State) : Host.Outcome State Fault Refusal :=
  let ty := o.mod.toNat % 16
  let masks := o.mod.getLsbD 4
  let w := (ctyOf ty).width
  let n := 2048 / w
  let g := n / 8
  let part := ((s.part s.cur).src 0 o.s2).toNat
  issue { h, reads := rds [o.s1], writes := wr o.d none, bad := if masks then decide (256 / g ≤ part) else decide (2 ≤ part) } (fun _ => do
    let p ← myPart
    let x := p.vreg o.s1
    if masks then
      putV o.d (updElems (p.oldV o.d) 8 fun j =>
        if part * g ≤ j ∧ j < part * g + g then some ((keptSet ty w x (j - part * g)).foldl (fun m b => m + 2 ^ b) 0) else none)
    else
      putV o.d (updElems (p.oldV o.d) w fun j =>
        if part * (n / 2) ≤ j ∧ j < part * (n / 2) + n / 2 then
          let i := j - part * (n / 2)
          some (elemOf x w (8 * (i / 4) + (keptSet ty w x (i / 4)).getD (i % 4) 0))
        else none)
    pure .done) s

def execSpchk (h : Hd) (o : OpC) (s : State) : Host.Outcome State Fault Refusal :=
  issue { h, reads := rds [o.s1], writes := wr o.d none } (fun _ => do
    let p ← myPart
    let v := p.vreg o.s1
    let bad := (List.range 256).find? fun g => ((List.range 8).filter fun b => elemOf v 8 g / 2 ^ b % 2 = 1).length ≠ 4
    putM o.d (match o.d, bad with
      | .p _, none => ones64
      | .p _, some _ => 0
      | _, none => ones64
      | _, some g => BitVec.ofNat 64 g)
    pure .done) s

end Sys2Proof.Machine
end

