-- ==== Sys2Proof/Machine/Sregs.lean ====
section
/-! DEFINITION. The special registers (R93 to R96, R48 to R52, R162, R174, R195, R216, R261, R285, R383, R404, R444, R496) and MFS and MTS
(R121). A number that answers `none` traps ILLEGAL with reason VALUE. -/

namespace Sys2Proof.Machine

def bit (b : Bool) (i : Nat) : Nat := if b then 2 ^ i else 0

/-- CLUSTER_ID (R94). (DEDUCED: log 8.) -/
def clusterId (s : State) (flat : Nat) : Nat :=
  bit (muWithdrawn s flat) 13 + posOf flat / 8 * 2 ^ 12 + posOf flat * 2 ^ 8 + clOf flat % 64

/-- FETCH (R95). -/
def Part.fetchWord (p : Part) : Nat :=
  match p.fmode with
  | .free => 0
  | .leading => 1 + p.fmask.toNat * 2 ^ 16
  | .joining => 2 + p.leader.val * 16
  | .following => 3 + p.leader.val * 16

/-- HBSTAT (R383). -/
def hbStat (s : State) (k : Nat) : Nat :=
  let cl := clOf (flatOf k)
  let c := (s.part k).ctx
  (hbGrant s c cl).toNat * 2 ^ 56 +
    (s.cluster cl).hb.foldl (fun n e =>
      n + bit (e.2.flat = flatOf k && e.2.ctx = c) (48 + e.1) + (if e.2.parked then 2 else 1) * 2 ^ (2 * e.1)) 0

/-- MBXSTAT (R383). -/
def mbxStat (s : State) (k : Nat) : Nat :=
  (s.part k).reserved * 2 ^ 8 + ((s.core (flatOf k)).mailbox.filter fun e => e.ctx = (s.part k).ctx).length

/-- TSTAT (R444). -/
def tstat (s : State) (k : Nat) : Nat :=
  bit ((s.part k).sleep = .task false || (s.part k).sleep = .task true) 2 + bit ((taskOn s k).any fun t => irrevocable s t) 1 + bit (taskOn s k).isSome 0

/-- The key of the running task (R444). -/
def taskKey (s : State) (k : Nat) : BitVec 128 :=
  match taskOn s k with
  | some t => t.msg.key
  | none => 0

/-- EVSTAT (R261). -/
def evstat (s : State) (k : Nat) : Nat :=
  let p := s.part k
  (watchesOf s k).length * 2 ^ 8 + bit p.damask.xovf 2 +
    bit ((s.cluster (clOf (flatOf k))).events.any fun e => e.slot.isSome && e.ctx = p.ctx) 1 + bit p.latch 0

/-- CLKG (R285). -/
def clkWord (d : Dev) : Nat := d.cap * 2 ^ 32 + d.grant.mem * 2 ^ 24 + d.grant.net * 2 ^ 16 + d.grant.vec * 2 ^ 8 + d.grant.mat

/-- DBGCTL (R496). -/
def Part.dbgctl (p : Part) : Nat := bit p.tren 8 + bit p.pass 7 + p.bkm.val * 2 ^ 5 + bit p.step 4 + p.bpen.toNat

/-- TIME and FTIME are recorded by a logged cluster, and follow the log in a replayed one (R500, R502). -/
def clockRead (s : State) (k : Nat) (now : W64) : W64 :=
  match replayNext s (flatOf k) (idxOf k) 7 with
  | some e => e.payload
  | none => now

/-- Whether a number is refused to partition D (R157, R216, R261, R383, R496). -/
def engineOnlySr (n : Nat) : Bool :=
  (0x020 ≤ n && n ≤ 0x029) || (0x040 ≤ n && n ≤ 0x04C) || (0x070 ≤ n && n ≤ 0x076) || n = 0x080 || n = 0x088

/-- The value of a special register. (DEDUCED: log 8, 81.) -/
def srRead (s : State) (k n : Nat) : Option W64 :=
  let p := s.part k
  let flat := flatOf k
  let d := s.dev (ordOf flat)
  let c := s.ctx p.ctx
  let w (x : Nat) : Option W64 := some (BitVec.ofNat 64 x)
  if idxOf k = 3 && engineOnlySr n then none
  else match n with
  | 0x000 => some (clockRead s k (timeAt s k))
  | 0x001 => w flat
  | 0x002 => w (clusterId s flat)
  | 0x003 => w p.unitIdx.toNat
  | 0x004 => w p.unitCnt.toNat
  | 0x005 => some p.launchPtr
  | 0x006 => some p.cbankPtr
  | 0x007 => w c.domain.toNat
  | 0x008 => w (idxOf k)
  | 0x009 => w p.fetchWord
  | 0x010 => w p.fpctl.toNat
  | 0x011 => w p.fpflags.toNat
  | 0x012 => w (bit p.stallchk 0)
  | 0x013 => some p.srseed
  | 0x014 => some p.srctr
  | 0x020 => some p.trapcause
  | 0x021 => some p.trappc
  | 0x022 => some p.trapval
  | 0x023 => some p.trapvec
  | 0x024 => some p.upcallVec
  | 0x025 => w p.upcallInfo.toNat
  | 0x026 => some p.chkptVec
  | 0x027 => some p.fibframe
  | 0x028 => some p.tstate
  | 0x029 => some p.upcallAddr
  | 0x030 => w 0x08101020
  | 0x031 => w (clkWord d)
  | 0x032 => some d.clkseq
  | 0x033 => some (clockRead s k (BitVec.ofNat 64 (s.ftime % 2 ^ 48)))
  | 0x040 => w p.chans[0].done
  | 0x041 => w p.chans[1].done
  | 0x042 => w p.chans[2].done
  | 0x043 => w p.chans[3].done
  | 0x044 => w p.chans[0].next
  | 0x045 => w p.chans[1].next
  | 0x046 => w p.chans[2].next
  | 0x047 => w p.chans[3].next
  | 0x048 => w p.rpDone
  | 0x049 => w p.rpNext
  | 0x04A => w (hbStat s k)
  | 0x04B => w (mbxStat s k)
  | 0x04C => w p.rxpri
  | 0x050 => if idxOf k = 3 then some 0 else some ((taskKey s k).setWidth 64)
  | 0x051 => if idxOf k = 3 then some 0 else some ((taskKey s k).extractLsb' 64 64)
  | 0x052 => some (c.gvt.setWidth 64)
  | 0x053 => some (c.gvt.extractLsb' 64 64)
  | 0x054 => if idxOf k = 3 then some 0 else w (tstat s k)
  | 0x055 => w c.gvtIvl
  | 0x05C => some (egrantOf s p.ctx (clOf flat)).1
  | 0x05D => w ((egrantOf s p.ctx (clOf flat)).2.1 * 2 ^ 32 + (egrantOf s p.ctx (clOf flat)).2.2)
  | 0x070 => w p.dbgctl
  | 0x071 => some p.bpaddr[0]
  | 0x072 => some p.bpaddr[1]
  | 0x073 => some p.bpaddr[2]
  | 0x074 => some p.bpaddr[3]
  | 0x075 => some (p.trcBase ||| BitVec.ofNat 64 p.trcLog)
  | 0x076 => some p.trcIdx
  | 0x080 => w p.faultinfo.toNat
  | 0x084 => some c.errq
  | 0x088 => w (evstat s k)
  | _ => none

/-- An address register whose bit 0 reads zero (R162, R496). -/
def evenPart (v : W64) : W64 := v &&& ~~~(1 : W64)

/-- A part after a write of a special register (R4, R121): read-only fields keep their values. (DEDUCED: log 81.) -/
def Part.srWrite (p : Part) (idx n : Nat) (v : W64) : Option Part :=
  if idx = 3 && engineOnlySr n then none
  else match n with
  | 0x000 | 0x001 | 0x002 | 0x003 | 0x004 | 0x005 | 0x006 | 0x007 | 0x008 | 0x009 => some p
  | 0x010 => if 4 < bits v 2 0 then none else some { p with fpctl := v.setWidth 4 }
  | 0x011 => some { p with fpflags := v.setWidth 5 }
  | 0x012 => some { p with stallchk := v.getLsbD 0 }
  | 0x013 => some { p with srseed := v }
  | 0x014 => some { p with srctr := v }
  | 0x020 | 0x022 | 0x025 | 0x028 | 0x029 => some p
  | 0x021 => some { p with trappc := evenPart v }
  | 0x023 => some { p with trapvec := evenPart v }
  | 0x024 => some { p with upcallVec := evenPart v }
  | 0x026 => some { p with chkptVec := evenPart v }
  | 0x027 => some { p with fibframe := v &&& ~~~(15 : W64) }
  | 0x030 | 0x031 | 0x032 | 0x033 => some p
  | 0x040 | 0x041 | 0x042 | 0x043 | 0x044 | 0x045 | 0x046 | 0x047 | 0x048 | 0x049 | 0x04A | 0x04B | 0x04C => some p
  | 0x070 =>
    if bits v 6 5 = 3 then none
    else some { p with bpen := v.setWidth 4, step := v.getLsbD 4, bkm := ⟨bits v 6 5 % 4, Nat.mod_lt _ (by decide)⟩, pass := v.getLsbD 7,
                       tren := v.getLsbD 8 }
  | 0x071 => some { p with bpaddr := p.bpaddr.set 0 (evenPart v) }
  | 0x072 => some { p with bpaddr := p.bpaddr.set 1 (evenPart v) }
  | 0x073 => some { p with bpaddr := p.bpaddr.set 2 (evenPart v) }
  | 0x074 => some { p with bpaddr := p.bpaddr.set 3 (evenPart v) }
  | 0x075 =>
    let l := bits v 4 0
    if (1 ≤ l && l ≤ 5) || 16 < l then none else some { p with trcBase := v &&& ~~~(0xFFF : W64), trcLog := l }
  | 0x076 => some p
  | 0x080 => some p
  | 0x088 => some (if v.getLsbD 2 then { p with damask := { p.damask with xovf := false } } else p)
  | _ => none

/-- Whether the result of an MFS is interlocked: the registers that engines and clocks change (R84, R96, R121, R285, R383). -/
def srLive (n : Nat) : Bool := n = 0x000 || n = 0x011 || n = 0x033 || (0x040 ≤ n && n ≤ 0x043) || n = 0x048

/-- What reading a register does beside its value: TIME and FTIME are logged; reading CPY_DONE or RP_DONE is the pop of the IDs below it (R383). -/
def srSeen (s : State) (k n : Nat) (v : W64) : State :=
  if n = 0x000 || n = 0x033 then logOrTake s (flatOf k) (idxOf k) 7 0 v
  else if n = 0x040 then acquireAt s (flatOf k) (s.part k).chans[0].scope
  else if n = 0x041 then acquireAt s (flatOf k) (s.part k).chans[1].scope
  else if n = 0x042 then acquireAt s (flatOf k) (s.part k).chans[2].scope
  else if n = 0x043 then acquireAt s (flatOf k) (s.part k).chans[3].scope
  else if n = 0x048 then acquireAt s (flatOf k) 4
  else s

def execMfs (h : Hd) (o : OpL) (s : State) : Host.Outcome State Fault Refusal :=
  let n := o.lit.toNat
  issue { h, writes := wr o.d (if srLive n then none else some 1) } (fun _ => do
    let k ← me
    match srRead (← get) k n with
    | none => illegalValue
    | some v =>
      modify fun s => srSeen s k n v
      putM o.d v
      pure .done) s

def execMts (h : Hd) (o : OpL) (s : State) : Host.Outcome State Fault Refusal :=
  let n := o.lit.toNat
  issue { h, reads := rds [o.s1], keepPass := n = 0x070 } (fun _ => do
    let k ← me
    let p ← myPart
    match p.srWrite (idxOf k) n (p.src 0 o.s1) with
    | none => illegalValue
    | some p1 =>
      setMine fun _ => p1
      pure .done) s

end Sys2Proof.Machine
end

