-- ==== Sys2Proof/Machine/Vector.lean ====
section
/-! DEFINITION. The vector families (R125 to R143). -/

namespace Sys2Proof.Machine

/-- The element width of majors 0x30 to 0x32 (R128). -/
def widthOf (mod : BitVec 8) : Nat :=
  match mod.toNat % 4 with
  | 0 => 32
  | 1 => 16
  | _ => 8
def modN (mod : BitVec 8) : Bool := mod.getLsbD 2
def modSat (mod : BitVec 8) : Bool := mod.getLsbD 3

/-- Fit an exact result (R129). -/
def fitInt (mod : BitVec 8) (x : Int) : Nat :=
  if modSat mod then satInt (!modN mod) (widthOf mod) x else wrapInt (widthOf mod) x

/-- An integer element operation: its vector sources as elements of the width, lane by lane (R130). -/
def vInt (h : Hd) (o : OpC) (srcs : List Src) (f : List Nat → Nat) (s : State) : Host.Outcome State Fault Refusal :=
  issue { h, reads := rds srcs, writes := wr o.d (some 2), lanes := true } (fun mask => do
    let p ← myPart
    let w := widthOf o.mod
    let xs := srcs.map (p.vsrc (.int true w))
    putV o.d (mapElems (p.oldV o.d) mask w fun j => f (xs.map fun x => x.elem w j))
    pure .done) s

def elemInt (mod : BitVec 8) (x : Nat) : Int := intOf (!modN mod) (widthOf mod) x

def vInt2 (h : Hd) (o : OpC) (f : Int → Int → Int) (s : State) : Host.Outcome State Fault Refusal :=
  vInt h o [o.s1, o.s2] (fun l =>
    match l with
    | [x, y] => fitInt o.mod (f (elemInt o.mod x) (elemInt o.mod y))
    | _ => 0) s

def execVadd (h : Hd) (o : OpC) (s : State) := vInt2 h o (· + ·) s
def execVsub (h : Hd) (o : OpC) (s : State) := vInt2 h o (· - ·) s
def execVmul (h : Hd) (o : OpC) (s : State) := vInt2 h o (· * ·) s
def execVmin (h : Hd) (o : OpC) (s : State) := vInt2 h o min s
def execVmax (h : Hd) (o : OpC) (s : State) := vInt2 h o max s
def execVmad (h : Hd) (o : OpC) (s : State) : Host.Outcome State Fault Refusal :=
  vInt h o [o.s1, o.s2, o.s3] (fun l =>
    match l with
    | [x, y, z] => fitInt o.mod (elemInt o.mod x * elemInt o.mod y + elemInt o.mod z)
    | _ => 0) s
def execVabs (h : Hd) (o : OpC) (s : State) : Host.Outcome State Fault Refusal :=
  vInt h o [o.s1] (fun l =>
    match l with
    | [x] => fitInt o.mod ((elemInt o.mod x).natAbs : Int)
    | _ => 0) s

/-- A bitwise or shift operation on codes (R131): width, x, y. -/
def vBit (h : Hd) (o : OpC) (f : Nat → Nat → Nat → Nat) (s : State) : Host.Outcome State Fault Refusal :=
  vInt h o [o.s1, o.s2] (fun l =>
    match l with
    | [x, y] => f (widthOf o.mod) x y
    | _ => 0) s

def execVand (h : Hd) (o : OpC) (s : State) := vBit h o (fun _ x y => x &&& y) s
def execVor (h : Hd) (o : OpC) (s : State) := vBit h o (fun _ x y => x ||| y) s
def execVxor (h : Hd) (o : OpC) (s : State) := vBit h o (fun _ x y => x ^^^ y) s
def execVshl (h : Hd) (o : OpC) (s : State) :=
  vBit h o (fun w x y => fitInt o.mod (elemInt o.mod x * ((2 ^ (y % w) : Nat) : Int))) s
def execVshr (h : Hd) (o : OpC) (s : State) := vBit h o (fun w x y => x % 2 ^ w / 2 ^ (y % w)) s
def execVsar (h : Hd) (o : OpC) (s : State) := vBit h o (fun w x y => wrapInt w (intOf true w x / ((2 ^ (y % w) : Nat) : Int))) s

/-- Write a lane-wise condition (R132, R142): bits of a predicate, or elements of all ones or zero; a lane without effect keeps its own. -/
def putCond (d : Dst) (mask : W64) (w : Nat) (f : Nat → Bool) : M Unit := setMine fun p =>
  match d with
  | .p i => p.setP i (mapBits (p.getP i) mask f)
  | .v i => p.setV i (mapElems (p.getV i) mask w fun j => if f j then 2 ^ w - 1 else 0)
  | _ => p

def execVcmp (h : Hd) (c : ICond) (o : OpC) (s : State) : Host.Outcome State Fault Refusal :=
  issue { h, reads := rds [o.s1, o.s2], writes := wr o.d (some 2), lanes := true } (fun mask => do
    let p ← myPart
    let w := widthOf o.mod
    let x := p.vsrc (.int true w) o.s1
    let y := p.vsrc (.int true w) o.s2
    putCond o.d mask w fun j => icond c w (x.elem w j) (y.elem w j)
    pure .done) s

/-! ## Moves and selects (R133) -/

def execVmov (h : Hd) (o : OpC) (s : State) : Host.Outcome State Fault Refusal :=
  issue { h, reads := rds [o.s1], writes := wr o.d (some 2), lanes := true } (fun mask => do
    let p ← myPart
    let x := p.vsrc (.int true 32) o.s1
    putV o.d (mapElems (p.oldV o.d) mask 32 fun L => x.elem 32 L)
    pure .done) s

def execVbcast (h : Hd) (o : OpC) (s : State) : Host.Outcome State Fault Refusal :=
  issue { h, reads := rds [o.s1, o.s2], writes := wr o.d (some 2), lanes := true } (fun mask => do
    let p ← myPart
    let x := p.vreg o.s1
    let i := (p.src 0 o.s2).toNat % 64
    putV o.d (mapElems (p.oldV o.d) mask 32 fun _ => elemOf x 32 i)
    pure .done) s

def execVsel (h : Hd) (o : OpC) (s : State) : Host.Outcome State Fault Refusal :=
  issue { h, reads := rds [o.s1, o.s2] ++ [.p (selReg o.mod)], writes := wr o.d (some 2), lanes := true } (fun mask => do
    let p ← myPart
    let x := p.vsrc (.int true 32) o.s1
    let y := p.vsrc (.int true 32) o.s2
    let q := p.rdP (selReg o.mod)
    putV o.d (mapElems (p.oldV o.d) mask 32 fun L => if q.getLsbD L != o.mod.getLsbD 3 then x.elem 32 L else y.elem 32 L)
    pure .done) s

/-! ## VCVT (R134) -/

/-- The source element that supplies destination element d of part pt, if the instruction writes that element, and its number within its lane. -/
def cvtSrc (sw dw pt d : Nat) : Option Nat :=
  let n := 2048 / max sw dw
  if dw < sw then (if pt * n ≤ d ∧ d < pt * n + n then some (d - pt * n) else none)
  else if d < n then some (pt * n + d) else none

def execVcvt (h : Hd) (o : OpC) (s : State) : Host.Outcome State Fault Refusal :=
  let dst := ctyOf (o.mod.toNat / 16)
  let src := ctyOf (o.mod.toNat % 16)
  let dw := dst.width
  let sw := src.width
  let bnd := match o.d with
    | .v i => (s.part s.cur).bound i
    | _ => false
  issue { h, reads := rds [o.s1] ++ (if bnd then [] else (dstReg o.d).toList), writes := wr o.d (some 4), lanes := true
          sr := if cvtRounds dst src then 32 / dw else 0 } (fun mask => do
    let pt : Int := match o.s2 with
      | .lit n => litInt n
      | _ => 0
    if pt < 0 ∨ max sw dw / min sw dw ≤ pt.toNat then illegalValue
    let p ← myPart
    let x := p.vsrc src o.s1
    let old := p.rdDstV o.d
    let r := mapElemsF old mask dw fun d =>
      match cvtSrc sw dw pt.toNat d with
      | none => ⟨elemOf old dw d, 0⟩
      | some e => convertC (p.rctl (d * dw / 32) (d * dw % 32 / dw)) dst src (x.elem sw e)
    putV o.d r.1
    setMine fun p => p.orFlags r.2
    pure .done) s

/-! ## Cross-lane operations (R135 to R139) -/

def execVperm (h : Hd) (o : OpC) (s : State) : Host.Outcome State Fault Refusal :=
  issue { h, reads := rds [o.s1, o.s2], writes := wr o.d (some 6), lanes := true } (fun mask => do
    let p ← myPart
    let t := p.vreg o.s1
    let ix := p.vsrc (.int true 32) o.s2
    putV o.d (mapElems (p.oldV o.d) mask 32 fun L => elemOf t 32 (ix.elem 32 L % 64))
    pure .done) s

/-- Combine two lanes under an OP of R136; `.fadd` rounds under the control of its node. -/
def redOp (op : Nat) (c : RCtl) (a b : Nat) : FRes :=
  match op with
  | 0 => ⟨(a + b) % 2 ^ 32, 0⟩
  | 1 => ⟨if intOf true 32 a ≤ intOf true 32 b then a else b, 0⟩
  | 2 => ⟨if intOf true 32 a ≤ intOf true 32 b then b else a, 0⟩
  | 3 => ⟨min a b, 0⟩
  | 4 => ⟨max a b, 0⟩
  | 5 => ⟨a &&& b, 0⟩
  | 6 => ⟨a ||| b, 0⟩
  | 7 => ⟨a ^^^ b, 0⟩
  | 8 => addF fmt32 c a b
  | 9 => minMaxF fmt32 c.fz false a b
  | _ => minMaxF fmt32 c.fz true a b

/-- The identity written where a result would be empty (R136). -/
def redIdentity (op : Nat) : Nat :=
  match op with
  | 1 => 0x7FFFFFFF
  | 2 => 0x80000000
  | 3 => 0xFFFFFFFF
  | 5 => 0xFFFFFFFF
  | 8 => 0x80000000
  | 9 => 0x7FC00000
  | 10 => 0x7FC00000
  | _ => 0

/-- A lane's term, or empty, with the flags so far. -/
def combine (op : Nat) (c : RCtl) (a b : Option Nat × Nat) : Option Nat × Nat :=
  match a.1, b.1 with
  | some x, some y => let r := redOp op c x y; (some r.code, a.2 ||| b.2 ||| r.flags)
  | some x, none => (some x, a.2 ||| b.2)
  | none, o => (o, a.2 ||| b.2)

/-- Pair neighbours at level k (R59): node i takes the control of lane i * 2^k, result k − 1. -/
def redLevel (op : Nat) (ctl : Nat → Nat → RCtl) (k : Nat) : Nat → List (Option Nat × Nat) → List (Option Nat × Nat)
  | i, a :: b :: rest => combine op (ctl (i * 2 ^ k) (k - 1)) a b :: redLevel op ctl k (i + 1) rest
  | _, l => l

def redTree (op : Nat) (ctl : Nat → Nat → RCtl) : Nat → Nat → List (Option Nat × Nat) → List (Option Nat × Nat)
  | 0, _, l => l
  | n + 1, k, l => redTree op ctl n (k + 1) (redLevel op ctl k 0 l)

/-- The active lanes of a register as terms. -/
def terms (v : VReg) (mask : W64) : List (Option Nat × Nat) :=
  (List.range 64).map fun L => (if mask.getLsbD L then some (elemOf v 32 L) else none, 0)

def execVred (h : Hd) (o : OpC) (s : State) : Host.Outcome State Fault Refusal :=
  let op := o.mod.toNat % 16
  issue { h, reads := rds [o.s1], writes := wr o.d (some 6), lanes := true, sr := if op = 8 then 6 else 0 } (fun mask => do
    let p ← myPart
    match redTree op p.rctl 6 1 (terms (p.vreg o.s1) mask) with
    | (some r, fl) :: _ =>
      setMine fun p => (p.put o.d (if op ≤ 2 then sext64 32 r else BitVec.ofNat 64 r)).orFlags fl
      pure .done
    | _ => pure .done) s

/-- Step k of the scan (R137): lane L takes the random word of result k of lane L. (DEDUCED: log 28.) -/
def scanStep (op : Nat) (ctl : Nat → Nat → RCtl) (k : Nat) (l : List (Option Nat × Nat)) : List (Option Nat × Nat) :=
  (List.range 64).map fun L =>
    let x := l.getD L (none, 0)
    if 2 ^ k ≤ L then combine op (ctl L k) ((l.getD (L - 2 ^ k) (none, 0)).1, 0) x else x

/-- DEDUCED: log 28. -/
def execVscan (h : Hd) (o : OpC) (s : State) : Host.Outcome State Fault Refusal :=
  let op := o.mod.toNat % 16
  issue { h, reads := rds [o.s1], writes := wr o.d (some 6), lanes := true, sr := if op = 8 then 6 else 0 } (fun mask => do
    let p ← myPart
    let l := (List.range 6).foldl (fun l k => scanStep op p.rctl k l) (terms (p.vreg o.s1) mask)
    let at' (L : Nat) : Option Nat :=
      if o.mod.getLsbD 4 then (if L = 0 then none else (l.getD (L - 1) (none, 0)).1) else (l.getD L (none, 0)).1
    putV o.d (mapElems (p.oldV o.d) mask 32 fun L => (at' L).getD (redIdentity op))
    setMine fun p => p.orFlags ((List.range 64).foldl (fun a L => if mask.getLsbD L then a ||| (l.getD L (none, 0)).2 else a) 0)
    pure .done) s

/-- VEXT writes a scalar: bit 0 of its predicate governs (R138). -/
def execVext (h : Hd) (o : OpC) (s : State) : Host.Outcome State Fault Refusal :=
  issue { h, reads := rds [o.s1, o.s2], writes := wr o.d (some 6) } (fun _ => do
    let p ← myPart
    let x := elemOf (p.vreg o.s1) 32 ((p.src 0 o.s2).toNat % 64)
    putM o.d (if o.mod.getLsbD 0 then BitVec.ofNat 64 x else sext64 32 x)
    pure .done) s

/-- VINS takes effect only when the predicate bit of the lane it writes holds (R138): otherwise nothing is pushed and nothing written. Where S2 is read early, the lane that it names is not known: the early read counts then as that of a vector instruction with an active lane, before it is
decided whether the named lane is active. (DESIGN CHOICE: log 191.) -/
def execVins (h : Hd) (o : OpC) (s : State) : Host.Outcome State Fault Refusal :=
  let p := s.part s.cur
  let bnd := match o.d with
    | .v i => p.bound i
    | _ => false
  let lane := (p.src 0 o.s2).toNat % 64
  let unknown := p.stallchk && (rds [o.s2]).any fun r => tracked p r && sbEarly p.sb r
  issue { h, reads := rds [o.s1, o.s2] ++ (if bnd then [] else (dstReg o.d).toList), writes := wr o.d (some 6), lanes := true
          lane := if unknown then none else some lane } (fun _ => do
    let p ← myPart
    let x := (p.src 0 o.s1).toNat % 2 ^ 32
    putV o.d (mapElems (p.rdDstV o.d) (BitVec.ofNat 64 (2 ^ lane)) 32 fun _ => x)
    pure .done) s

/-- The selected lanes of a register, in order (R139). -/
def selected (v : VReg) (sel : W64) : List Nat :=
  (List.range 64).filterMap fun L => if sel.getLsbD L then some (elemOf v 32 L) else none

def execVcomp (h : Hd) (o : OpC) (s : State) : Host.Outcome State Fault Refusal :=
  let bnd := match o.d with
    | .v i => (s.part s.cur).bound i
    | _ => false
  issue { h, reads := rds [o.s1] ++ (if o.mod.getLsbD 0 && !bnd then (dstReg o.d).toList else []), writes := wr o.d (some 6), lanes := true }
    (fun sel => do
      let p ← myPart
      let t := selected (p.vreg o.s1) sel
      let old := p.rdDstV o.d
      putV o.d (mapElems old ones64 32 fun L =>
        match t[L]? with
        | some x => x
        | none => if o.mod.getLsbD 0 then elemOf old 32 L else 0)
      pure .done) s

/-- The number of selected lanes below L. -/
def rankBelow (sel : W64) (L : Nat) : Nat := ((List.range L).filter fun i => sel.getLsbD i).length

def execVexpd (h : Hd) (o : OpC) (s : State) : Host.Outcome State Fault Refusal :=
  issue { h, reads := rds [o.s1], writes := wr o.d (some 6), lanes := true } (fun sel => do
    let p ← myPart
    let x := p.vreg o.s1
    putV o.d (mapElems (p.oldV o.d) sel 32 fun L => elemOf x 32 (rankBelow sel L))
    pure .done) s

/-! ## Floating-point elements (R140 to R143) -/

def fmtV (mod : BitVec 8) : Fmt :=
  match mod.toNat % 4 with
  | 0 => fmt32
  | 1 => fmt16
  | _ => fmtBf

/-- An element-wise floating-point operation: `f` takes the control of the element's lane and result. -/
def vFp (h : Hd) (o : OpC) (srcs : List Src) (fm : Fmt) (lat sr : Nat) (f : RCtl → List Nat → FRes) (s : State) :
    Host.Outcome State Fault Refusal :=
  issue { h, reads := rds srcs, writes := wr o.d (some lat), lanes := true, sr } (fun mask => do
    let p ← myPart
    let w := fm.width
    let xs := srcs.map (p.vsrc (.flt fm))
    let r := mapElemsF (p.oldV o.d) mask w fun j => f (p.rctl (j * w / 32) (j * w % 32 / w)) (xs.map fun x => x.elem w j)
    putV o.d r.1
    setMine fun p => p.orFlags r.2
    pure .done) s

def execVfadd (h : Hd) (o : OpC) (s : State) :=
  let fm := fmtV o.mod; vFp h o [o.s1, o.s2] fm 4 (32 / fm.width) (fun c => op2 (addF fm c)) s
def execVfsub (h : Hd) (o : OpC) (s : State) :=
  let fm := fmtV o.mod; vFp h o [o.s1, o.s2] fm 4 (32 / fm.width) (fun c => op2 (subF fm c)) s
def execVfmul (h : Hd) (o : OpC) (s : State) :=
  let fm := fmtV o.mod; vFp h o [o.s1, o.s2] fm 4 (32 / fm.width) (fun c => op2 (mulF fm c)) s
def execVfma (h : Hd) (o : OpC) (s : State) :=
  let fm := fmtV o.mod; vFp h o [o.s1, o.s2, o.s3] fm 4 (32 / fm.width) (fun c => op3 (fmaF fm c)) s
def execVfmin (h : Hd) (o : OpC) (s : State) :=
  let fm := fmtV o.mod; vFp h o [o.s1, o.s2] fm 4 0 (fun c => op2 (minMaxF fm c.fz false)) s
def execVfmax (h : Hd) (o : OpC) (s : State) :=
  let fm := fmtV o.mod; vFp h o [o.s1, o.s2] fm 4 0 (fun c => op2 (minMaxF fm c.fz true)) s

def execVfcmp (h : Hd) (c : FCond) (o : OpC) (s : State) : Host.Outcome State Fault Refusal :=
  issue { h, reads := rds [o.s1, o.s2], writes := wr o.d (some 4), lanes := true } (fun mask => do
    let p ← myPart
    let fm := fmtV o.mod
    let w := fm.width
    let x := p.vsrc (.flt fm) o.s1
    let y := p.vsrc (.flt fm) o.s2
    let v (o : VSrc) (j : Nat) := decodeFZ fm p.fz (o.elem w j)
    putCond o.d mask w fun j => fcondV c (v x j) (v y j)
    setMine fun p => p.orFlags ((List.range (2048 / w)).foldl (fun a j =>
      if mask.getLsbD (j * w / 32) then a ||| fcmpFlags c (v x j) (v y j) else a) 0)
    pure .done) s

/-- An FP32 function of one operand (R143). -/
def vFn (h : Hd) (o : OpC) (f : Fmt → RCtl → FV → FRes) (s : State) : Host.Outcome State Fault Refusal :=
  vFp h o [o.s1] fmt32 8 1 (fun c => op1 fun a => f fmt32 c (decodeFZ fmt32 c.fz a)) s

def execVrcp (h : Hd) (o : OpC) (s : State) := vFn h o (fun f c x => divF f c (.fin false 1 0) x) s
def execVrsq (h : Hd) (o : OpC) (s : State) := vFn h o rsqrtF s
def execVexp2 (h : Hd) (o : OpC) (s : State) := vFn h o exp2F s
def execVlog2 (h : Hd) (o : OpC) (s : State) := vFn h o log2F s

end Sys2Proof.Machine
end

