-- ==== Sys2Proof/Machine/Dispatch.lean ====
section
/-! DEFINITION. The dispatch: one arm per operation and event of the table. -/

namespace Sys2Proof.Machine

def exec (i : Instr) (s : State) : Host.Outcome State Fault Refusal :=
  match i with
  | .lineEnd => Sys2Proof.Machine.execLineEnd s
  | .nop h => Sys2Proof.Machine.execNop h s
  | .nopPred h q => Sys2Proof.Machine.execNopPred h q s
  | .exit h => Sys2Proof.Machine.execExit h s
  | .exitPred h q => Sys2Proof.Machine.execExitPred h q s
  | .yield h => Sys2Proof.Machine.execYield h s
  | .yieldPred h q => Sys2Proof.Machine.execYieldPred h q s
  | .unfollow h => Sys2Proof.Machine.execUnfollow h s
  | .unfollowPred h q => Sys2Proof.Machine.execUnfollowPred h q s
  | .bra h o => Sys2Proof.Machine.execBra h o s
  | .call h o => Sys2Proof.Machine.execCall h o s
  | .loop h o => Sys2Proof.Machine.execLoop h o s
  | .jmpi h o => Sys2Proof.Machine.execJmpi h o s
  | .ret h => Sys2Proof.Machine.execRet h s
  | .align h o => Sys2Proof.Machine.execAlign h o s
  | .follow h o => Sys2Proof.Machine.execFollow h o s
  | .add h o => Sys2Proof.Machine.execAdd h o s
  | .sub h o => Sys2Proof.Machine.execSub h o s
  | .mul h o => Sys2Proof.Machine.execMul h o s
  | .mulh h o => Sys2Proof.Machine.execMulh h o s
  | .div h o => Sys2Proof.Machine.execDiv h o s
  | .rem h o => Sys2Proof.Machine.execRem h o s
  | .min h o => Sys2Proof.Machine.execMin h o s
  | .max h o => Sys2Proof.Machine.execMax h o s
  | .mulhN h o => Sys2Proof.Machine.execMulhN h o s
  | .divN h o => Sys2Proof.Machine.execDivN h o s
  | .remN h o => Sys2Proof.Machine.execRemN h o s
  | .minN h o => Sys2Proof.Machine.execMinN h o s
  | .maxN h o => Sys2Proof.Machine.execMaxN h o s
  | .and h o => Sys2Proof.Machine.execAnd h o s
  | .or h o => Sys2Proof.Machine.execOr h o s
  | .xor h o => Sys2Proof.Machine.execXor h o s
  | .andn h o => Sys2Proof.Machine.execAndn h o s
  | .shl h o => Sys2Proof.Machine.execShl h o s
  | .shr h o => Sys2Proof.Machine.execShr h o s
  | .sar h o => Sys2Proof.Machine.execSar h o s
  | .clz h o => Sys2Proof.Machine.execClz h o s
  | .popc h o => Sys2Proof.Machine.execPopc h o s
  | .mov h o => Sys2Proof.Machine.execMov h o s
  | .cmp h c o => Sys2Proof.Machine.execCmp h c o s
  | .pand h o => Sys2Proof.Machine.execPand h o s
  | .por h o => Sys2Proof.Machine.execPor h o s
  | .pxor h o => Sys2Proof.Machine.execPxor h o s
  | .pnot h o => Sys2Proof.Machine.execPnot h o s
  | .pmov h o => Sys2Proof.Machine.execPmov h o s
  | .trap h o => Sys2Proof.Machine.execTrap h o s
  | .trapret h o => Sys2Proof.Machine.execTrapret h o s
  | .upret h o => Sys2Proof.Machine.execUpret h o s
  | .chkpt h o => Sys2Proof.Machine.execChkpt h o s
  | .fibset h o => Sys2Proof.Machine.execFibset h o s
  | .li h o => Sys2Proof.Machine.execLi h o s
  | .lih h o => Sys2Proof.Machine.execLih h o s
  | .mfs h o => Sys2Proof.Machine.execMfs h o s
  | .mts h o => Sys2Proof.Machine.execMts h o s
  | .bfx h o => Sys2Proof.Machine.execBfx h o s
  | .bfi h o => Sys2Proof.Machine.execBfi h o s
  | .sel h o => Sys2Proof.Machine.execSel h o s
  | .fadd h o => Sys2Proof.Machine.execFadd h o s
  | .fsub h o => Sys2Proof.Machine.execFsub h o s
  | .fmul h o => Sys2Proof.Machine.execFmul h o s
  | .fma h o => Sys2Proof.Machine.execFma h o s
  | .fdiv h o => Sys2Proof.Machine.execFdiv h o s
  | .fsqrt h o => Sys2Proof.Machine.execFsqrt h o s
  | .fmin h o => Sys2Proof.Machine.execFmin h o s
  | .fmax h o => Sys2Proof.Machine.execFmax h o s
  | .fcmp h c o => Sys2Proof.Machine.execFcmp h c o s
  | .fcvt h o => Sys2Proof.Machine.execFcvt h o s
  | .vadd h o => Sys2Proof.Machine.execVadd h o s
  | .vsub h o => Sys2Proof.Machine.execVsub h o s
  | .vmul h o => Sys2Proof.Machine.execVmul h o s
  | .vmad h o => Sys2Proof.Machine.execVmad h o s
  | .vmin h o => Sys2Proof.Machine.execVmin h o s
  | .vmax h o => Sys2Proof.Machine.execVmax h o s
  | .vabs h o => Sys2Proof.Machine.execVabs h o s
  | .vand h o => Sys2Proof.Machine.execVand h o s
  | .vor h o => Sys2Proof.Machine.execVor h o s
  | .vxor h o => Sys2Proof.Machine.execVxor h o s
  | .vshl h o => Sys2Proof.Machine.execVshl h o s
  | .vshr h o => Sys2Proof.Machine.execVshr h o s
  | .vsar h o => Sys2Proof.Machine.execVsar h o s
  | .vcmp h c o => Sys2Proof.Machine.execVcmp h c o s
  | .vmov h o => Sys2Proof.Machine.execVmov h o s
  | .vbcast h o => Sys2Proof.Machine.execVbcast h o s
  | .vsel h o => Sys2Proof.Machine.execVsel h o s
  | .vcvt h o => Sys2Proof.Machine.execVcvt h o s
  | .vperm h o => Sys2Proof.Machine.execVperm h o s
  | .vred h o => Sys2Proof.Machine.execVred h o s
  | .vscan h o => Sys2Proof.Machine.execVscan h o s
  | .vext h o => Sys2Proof.Machine.execVext h o s
  | .vins h o => Sys2Proof.Machine.execVins h o s
  | .vcomp h o => Sys2Proof.Machine.execVcomp h o s
  | .vexpd h o => Sys2Proof.Machine.execVexpd h o s
  | .vfadd h o => Sys2Proof.Machine.execVfadd h o s
  | .vfsub h o => Sys2Proof.Machine.execVfsub h o s
  | .vfmul h o => Sys2Proof.Machine.execVfmul h o s
  | .vfma h o => Sys2Proof.Machine.execVfma h o s
  | .vfmin h o => Sys2Proof.Machine.execVfmin h o s
  | .vfmax h o => Sys2Proof.Machine.execVfmax h o s
  | .vfcmp h c o => Sys2Proof.Machine.execVfcmp h c o s
  | .vrcp h o => Sys2Proof.Machine.execVrcp h o s
  | .vrsq h o => Sys2Proof.Machine.execVrsq h o s
  | .vexp2 h o => Sys2Proof.Machine.execVexp2 h o s
  | .vlog2 h o => Sys2Proof.Machine.execVlog2 h o s
  | .ld h o => Sys2Proof.Machine.execLd h o s
  | .st h o => Sys2Proof.Machine.execSt h o s
  | .vld h o => Sys2Proof.Machine.execVld h o s
  | .vst h o => Sys2Proof.Machine.execVst h o s
  | .vgath h o => Sys2Proof.Machine.execVgath h o s
  | .vscat h o => Sys2Proof.Machine.execVscat h o s
  | .fence h o => Sys2Proof.Machine.execFence h o s
  | .pref h o => Sys2Proof.Machine.execPref h o s
  | .amoAdd h o => Sys2Proof.Machine.execAmoAdd h o s
  | .amoAnd h o => Sys2Proof.Machine.execAmoAnd h o s
  | .amoOr h o => Sys2Proof.Machine.execAmoOr h o s
  | .amoXor h o => Sys2Proof.Machine.execAmoXor h o s
  | .amoMin h o => Sys2Proof.Machine.execAmoMin h o s
  | .amoMax h o => Sys2Proof.Machine.execAmoMax h o s
  | .amoMinn h o => Sys2Proof.Machine.execAmoMinn h o s
  | .amoMaxn h o => Sys2Proof.Machine.execAmoMaxn h o s
  | .amoSwap h o => Sys2Proof.Machine.execAmoSwap h o s
  | .amoFadd h o => Sys2Proof.Machine.execAmoFadd h o s
  | .cas h o => Sys2Proof.Machine.execCas h o s
  | .stm h o => Sys2Proof.Machine.execStm h o s
  | .stred h o => Sys2Proof.Machine.execStred h o s
  | .sbind h o => Sys2Proof.Machine.execSbind h o s
  | .sbindx h o => Sys2Proof.Machine.execSbindx h o s
  | .sdone h o => Sys2Proof.Machine.execSdone h o s
  | .sskip h o => Sys2Proof.Machine.execSskip h o s
  | .sstat h o => Sys2Proof.Machine.execSstat h o s
  | .stash h o => Sys2Proof.Machine.execStash h o s
  | .unstash h o => Sys2Proof.Machine.execUnstash h o s
  | .flush h o => Sys2Proof.Machine.execFlush h o s
  | .mload h o => Sys2Proof.Machine.execMload h o s
  | .mswap h o => Sys2Proof.Machine.execMswap h o s
  | .mzero h o => Sys2Proof.Machine.execMzero h o s
  | .mdrain h o => Sys2Proof.Machine.execMdrain h o s
  | .mmul h pair o => Sys2Proof.Machine.execMmul h pair o s
  | .mmuls h pair o => Sys2Proof.Machine.execMmuls h pair o s
  | .mpri h o => Sys2Proof.Machine.execMpri h o s
  | .mfence h o => Sys2Proof.Machine.execMfence h o s
  | .mstat h o => Sys2Proof.Machine.execMstat h o s
  | .bscaleBlk h o => Sys2Proof.Machine.execBscaleBlk h o s
  | .bscaleAmax h o => Sys2Proof.Machine.execBscaleAmax h o s
  | .bscaleBand h o => Sys2Proof.Machine.execBscaleBand h o s
  | .qnt h o => Sys2Proof.Machine.execQnt h o s
  | .dqnt h o => Sys2Proof.Machine.execDqnt h o s
  | .qsplit h o => Sys2Proof.Machine.execQsplit h o s
  | .spcomp h o => Sys2Proof.Machine.execSpcomp h o s
  | .spchk h o => Sys2Proof.Machine.execSpchk h o s
  | .evsig h o => Sys2Proof.Machine.execEvsig h o s
  | .evwait h o => Sys2Proof.Machine.execEvwait h o s
  | .evclr h o => Sys2Proof.Machine.execEvclr h o s
  | .bararr h o => Sys2Proof.Machine.execBararr h o s
  | .bararrInit h o => Sys2Proof.Machine.execBararrInit h o s
  | .bararrFree h o => Sys2Proof.Machine.execBararrFree h o s
  | .barwait h o => Sys2Proof.Machine.execBarwait h o s
  | .watch h o => Sys2Proof.Machine.execWatch h o s
  | .watchX h o => Sys2Proof.Machine.execWatchX h o s
  | .wfe h o => Sys2Proof.Machine.execWfe h o s
  | .sev h o => Sys2Proof.Machine.execSev h o s
  | .xbsetCtr h o => Sys2Proof.Machine.execXbsetCtr h o s
  | .xbsetTerm h o => Sys2Proof.Machine.execXbsetTerm h o s
  | .xbsetTimer h o => Sys2Proof.Machine.execXbsetTimer h o s
  | .xbsetReset h o => Sys2Proof.Machine.execXbsetReset h o s
  | .launch h o => Sys2Proof.Machine.execLaunch h o s
  | .cntadd h o => Sys2Proof.Machine.execCntadd h o s
  | .cancel h o => Sys2Proof.Machine.execCancel h o s
  | .clkreq h o => Sys2Proof.Machine.execClkreq h o s
  | .pop h o => Sys2Proof.Machine.execPop h o s
  | .pushw h o => Sys2Proof.Machine.execPushw h o s
  | .qclose h o => Sys2Proof.Machine.execQclose h o s
  | .amsg h o => Sys2Proof.Machine.execAmsg h o s
  | .amret h o => Sys2Proof.Machine.execAmret h o s
  | .amwait h o => Sys2Proof.Machine.execAmwait h o s
  | .cpy h o => Sys2Proof.Machine.execCpy h o s
  | .cpytry h o => Sys2Proof.Machine.execCpytry h o s
  | .cpywait h o => Sys2Proof.Machine.execCpywait h o s
  | .mcfill h o => Sys2Proof.Machine.execMcfill h o s
  | .mcfillPark h o => Sys2Proof.Machine.execMcfillPark h o s
  | .mcdrain h o => Sys2Proof.Machine.execMcdrain h o s
  | .mbxpop h o => Sys2Proof.Machine.execMbxpop h o s
  | .rput h o => Sys2Proof.Machine.execRput h o s
  | .grantp h o => Sys2Proof.Machine.execGrantp h o s
  | .rcancel h o => Sys2Proof.Machine.execRcancel h o s
  | .etinit h o => Sys2Proof.Machine.execEtinit h o s
  | .etinitFree h o => Sys2Proof.Machine.execEtinitFree h o s
  | .eloadv h o => Sys2Proof.Machine.execEloadv h o s
  | .eset h o => Sys2Proof.Machine.execEset h o s
  | .eadd h o => Sys2Proof.Machine.execEadd h o s
  | .eget h o => Sys2Proof.Machine.execEget h o s
  | .esum h o => Sys2Proof.Machine.execEsum h o s
  | .enext h o => Sys2Proof.Machine.execEnext h o s
  | .eseed h o => Sys2Proof.Machine.execEseed h o s
  | .etab h o => Sys2Proof.Machine.execEtab h o s
  | .eclk h o => Sys2Proof.Machine.execEclk h o s
  | .eclkSet h o => Sys2Proof.Machine.execEclkSet h o s
  | .tsend h o => Sys2Proof.Machine.execTsend h o s
  | .tend h o => Sys2Proof.Machine.execTend h o s
  | .tabort h o => Sys2Proof.Machine.execTabort h o s
  | .tgvt h o => Sys2Proof.Machine.execTgvt h o s
  | .tkey h o => Sys2Proof.Machine.execTkey h o s
  | .twait h o => Sys2Proof.Machine.execTwait h o s
  | .gpost h o => Sys2Proof.Machine.execGpost h o s
  | .gwait h o => Sys2Proof.Machine.execGwait h o s
  | .gtkt h o => Sys2Proof.Machine.execGtkt h o s
  | .gcancel h o => Sys2Proof.Machine.execGcancel h o s
  | .gstat h o => Sys2Proof.Machine.execGstat h o s
  | .bkpt h o => Sys2Proof.Machine.execBkpt h o s
  | .trace h o => Sys2Proof.Machine.execTrace h o s
  | .perfRd h o => Sys2Proof.Machine.execPerfRd h o s
  | .perfCfg h o => Sys2Proof.Machine.execPerfCfg h o s
  | .perfClr h o => Sys2Proof.Machine.execPerfClr h o s
  | .rmark h o => Sys2Proof.Machine.execRmark h o s
  | .alignWindowExpiry k => Sys2Proof.Machine.execAlignWindowExpiry k s
  | .joinWindowExpiry k => Sys2Proof.Machine.execJoinWindowExpiry k s
  | .twillForwardIssue k => Sys2Proof.Machine.execTwillForwardIssue k s
  | .issueSelect flat => Sys2Proof.Machine.execIssueSelect flat s
  | .fetchLine cl => Sys2Proof.Machine.execFetchLine cl s
  | .storePerformed flat => Sys2Proof.Machine.execStorePerformed flat s
  | .destCheckAtHome flat => Sys2Proof.Machine.execDestCheckAtHome flat s
  | .errorRecordReserve ctx record => Sys2Proof.Machine.execErrorRecordReserve ctx record s
  | .streamServe k r => Sys2Proof.Machine.execStreamServe k r s
  | .streamFault k r => Sys2Proof.Machine.execStreamFault k r s
  | .stashRecall k va => Sys2Proof.Machine.execStashRecall k va s
  | .guestCopyExpiry dk line => Sys2Proof.Machine.execGuestCopyExpiry dk line s
  | .planeLoadStart mu => Sys2Proof.Machine.execPlaneLoadStart mu s
  | .planeLoadDone mu => Sys2Proof.Machine.execPlaneLoadDone mu s
  | .arbiterGrant mu => Sys2Proof.Machine.execArbiterGrant mu s
  | .kstepBoundary mu => Sys2Proof.Machine.execKstepBoundary mu s
  | .lastRow mu => Sys2Proof.Machine.execLastRow mu s
  | .matrixRetire mu => Sys2Proof.Machine.execMatrixRetire mu s
  | .matrixFault mu row why => Sys2Proof.Machine.execMatrixFault mu row why s
  | .matrixAgeing mu pos => Sys2Proof.Machine.execMatrixAgeing mu pos s
  | .columnRemap mu => Sys2Proof.Machine.execColumnRemap mu s
  | .evwaitTimeout k => Sys2Proof.Machine.execEvwaitTimeout k s
  | .watchPoll dk => Sys2Proof.Machine.execWatchPoll dk s
  | .wfeTimeout k => Sys2Proof.Machine.execWfeTimeout k s
  | .damaskTermFire k => Sys2Proof.Machine.execDamaskTermFire k s
  | .damaskTimer k => Sys2Proof.Machine.execDamaskTimer k s
  | .unitStart launch unit => Sys2Proof.Machine.execUnitStart launch unit s
  | .unitWithdrawn launch flat => Sys2Proof.Machine.execUnitWithdrawn launch flat s
  | .counterAdd => Sys2Proof.Machine.execCounterAdd s
  | .grantChange dev => Sys2Proof.Machine.execGrantChange dev s
  | .tailWrite dev conn offset size value => Sys2Proof.Machine.execTailWrite dev conn offset size value s
  | .packetRead dev q => Sys2Proof.Machine.execPacketRead dev q s
  | .holdEnds dev q => Sys2Proof.Machine.execHoldEnds dev q s
  | .packetComplete dev q idx => Sys2Proof.Machine.execPacketComplete dev q idx s
  | .queueStop dev q => Sys2Proof.Machine.execQueueStop dev q s
  | .queueResume dev q rdidx => Sys2Proof.Machine.execQueueResume dev q rdidx s
  | .leaseRenew dev die => Sys2Proof.Machine.execLeaseRenew dev die s
  | .leaseTakeover dev die => Sys2Proof.Machine.execLeaseTakeover dev die s
  | .messageArrival n => Sys2Proof.Machine.execMessageArrival n s
  | .handlerStart flat => Sys2Proof.Machine.execHandlerStart flat s
  | .htimeout flat => Sys2Proof.Machine.execHtimeout flat s
  | .replyArrival n => Sys2Proof.Machine.execReplyArrival n s
  | .bounce n => Sys2Proof.Machine.execBounce n s
  | .copyStart k ch => Sys2Proof.Machine.execCopyStart k ch s
  | .copyDone k ch => Sys2Proof.Machine.execCopyDone k ch s
  | .copyFault k ch => Sys2Proof.Machine.execCopyFault k ch s
  | .hbFillEnd cl slot => Sys2Proof.Machine.execHbFillEnd cl slot s
  | .transferAnnounce k id => Sys2Proof.Machine.execTransferAnnounce k id s
  | .tokenGrant dk => Sys2Proof.Machine.execTokenGrant dk s
  | .tokenArrival k id => Sys2Proof.Machine.execTokenArrival k id s
  | .tablaAgeing dk entry => Sys2Proof.Machine.execTablaAgeing dk entry s
  | .tokenExpiry dk entry => Sys2Proof.Machine.execTokenExpiry dk entry s
  | .keepalive k id => Sys2Proof.Machine.execKeepalive k id s
  | .reclaim dk entry => Sys2Proof.Machine.execReclaim dk entry s
  | .reclaimNotice k id => Sys2Proof.Machine.execReclaimNotice k id s
  | .transferComplete k id => Sys2Proof.Machine.execTransferComplete k id s
  | .transferFault k id => Sys2Proof.Machine.execTransferFault k id s
  | .expiryNotice k id => Sys2Proof.Machine.execExpiryNotice k id s
  | .transferSendDone k id => Sys2Proof.Machine.execTransferSendDone k id s
  | .taskArrival n => Sys2Proof.Machine.execTaskArrival n s
  | .taskDispatch k => Sys2Proof.Machine.execTaskDispatch k s
  | .gvtRound ctx => Sys2Proof.Machine.execGvtRound ctx s
  | .groupCreate gid ctx members coord plane => Sys2Proof.Machine.execGroupCreate gid ctx members coord plane s
  | .groupDestroy gid => Sys2Proof.Machine.execGroupDestroy gid s
  | .ticketIssue gid seq => Sys2Proof.Machine.execTicketIssue gid seq s
  | .ticketArrival dev gid seq => Sys2Proof.Machine.execTicketArrival dev gid seq s
  | .horizonBeacon dev coord => Sys2Proof.Machine.execHorizonBeacon dev coord s
  | .collectiveAdmit dev => Sys2Proof.Machine.execCollectiveAdmit dev s
  | .collectiveFinish dev gid seq => Sys2Proof.Machine.execCollectiveFinish dev gid seq s
  | .collectiveWithdraw gid seq => Sys2Proof.Machine.execCollectiveWithdraw gid seq s
  | .cancelNotice dev gid seq => Sys2Proof.Machine.execCancelNotice dev gid seq s
  | .abandonNotice dev gid seq => Sys2Proof.Machine.execAbandonNotice dev gid seq s
  | .mismatchNotice dev gid seq => Sys2Proof.Machine.execMismatchNotice dev gid seq s
  | .ticketAgeBreach dev gid seq => Sys2Proof.Machine.execTicketAgeBreach dev gid seq s
  | .breakpoint k => Sys2Proof.Machine.execBreakpoint k s
  | .crossTriggerHalt cl package => Sys2Proof.Machine.execCrossTriggerHalt cl package s
  | .debugRelease cl => Sys2Proof.Machine.execDebugRelease cl s
  | .issueLogFreed cl n => Sys2Proof.Machine.execIssueLogFreed cl n s
  | .replayModeSet cl mode log => Sys2Proof.Machine.execReplayModeSet cl mode log s
  | .admitPart flat ctx => Sys2Proof.Machine.execAdmitPart flat ctx s
  | .preempt k => Sys2Proof.Machine.execPreempt k s
  | .resume k => Sys2Proof.Machine.execResume k s
  | .spill k => Sys2Proof.Machine.execSpill k s
  | .restore flat ctx => Sys2Proof.Machine.execRestore flat ctx s
  | .halt k => Sys2Proof.Machine.execHalt k s
  | .release k => Sys2Proof.Machine.execRelease k s
  | .liveDump ctx => Sys2Proof.Machine.execLiveDump ctx s
  | .quiesce q => Sys2Proof.Machine.execQuiesce q s
  | .checkpoint k => Sys2Proof.Machine.execCheckpoint k s
  | .quiesceWithdraw rebuild => Sys2Proof.Machine.execQuiesceWithdraw rebuild s
  | .checkpointLimit k => Sys2Proof.Machine.execCheckpointLimit k s
  | .evictionTransferDone ctx src dst => Sys2Proof.Machine.execEvictionTransferDone ctx src dst s
  | .destroy ctx flat => Sys2Proof.Machine.execDestroy ctx flat s
  | .asyncMcheck k => Sys2Proof.Machine.execAsyncMcheck k s
  | .contextCreate c => Sys2Proof.Machine.execContextCreate c s
  | .map dev va level leaf tables => Sys2Proof.Machine.execMap dev va level leaf tables s
  | .unmap dev va => Sys2Proof.Machine.execUnmap dev va s
  | .migrate dev va leaf home => Sys2Proof.Machine.execMigrate dev va leaf home s
  | .replicate dev va frames => Sys2Proof.Machine.execReplicate dev va frames s
  | .collapse dev va => Sys2Proof.Machine.execCollapse dev va s
  | .migrationDone dev va => Sys2Proof.Machine.execMigrationDone dev va s
  | .lineLost dev va leaf => Sys2Proof.Machine.execLineLost dev va leaf s
  | .pinLimit dev va => Sys2Proof.Machine.execPinLimit dev va s
  | .hotnessHalving h => Sys2Proof.Machine.execHotnessHalving h s
  | .rightsShootdown domain base log2 => Sys2Proof.Machine.execRightsShootdown domain base log2 s
  | .spareCoreMap cl pos => Sys2Proof.Machine.execSpareCoreMap cl pos s
  | .l2WayRetire flat => Sys2Proof.Machine.execL2WayRetire flat s
  | .scrubSweep dev va corrected lost => Sys2Proof.Machine.execScrubSweep dev va corrected lost s
  | .resourceWithdrawal dev r => Sys2Proof.Machine.execResourceWithdrawal dev r s
  | .linkEnable dev n => Sys2Proof.Machine.execLinkEnable dev n s
  | .linkDisable dev n => Sys2Proof.Machine.execLinkDisable dev n s
  | .linkTrained dev n spareLane => Sys2Proof.Machine.execLinkTrained dev n spareLane s
  | .trainingFailed dev n => Sys2Proof.Machine.execTrainingFailed dev n s
  | .retrain dev n => Sys2Proof.Machine.execRetrain dev n s
  | .frameReceive dev n f => Sys2Proof.Machine.execFrameReceive dev n f s
  | .nakReceive dev n ack => Sys2Proof.Machine.execNakReceive dev n ack s
  | .idleFrame dev n => Sys2Proof.Machine.execIdleFrame dev n s
  | .rekey dev n epoch => Sys2Proof.Machine.execRekey dev n epoch s
  | .retire dev n => Sys2Proof.Machine.execRetire dev n s
  | .oldKeyTimeout dev n => Sys2Proof.Machine.execOldKeyTimeout dev n s
  | .endToEndAck dev dst cls => Sys2Proof.Machine.execEndToEndAck dev dst cls s
  | .linkDrain dev n => Sys2Proof.Machine.execLinkDrain dev n s
  | .linkDrained dev n => Sys2Proof.Machine.execLinkDrained dev n s
  | .linkEncryptionSet dev n on => Sys2Proof.Machine.execLinkEncryptionSet dev n on s
  | .censusSnapshot dev => Sys2Proof.Machine.execCensusSnapshot dev s
  | .peerLoss dev => Sys2Proof.Machine.execPeerLoss dev s
  | .moduleReset dev b => Sys2Proof.Machine.execModuleReset dev b s
  | .mgmtRegWrite dev offset value => Sys2Proof.Machine.execMgmtRegWrite dev offset value s
  | .pcapWrite dev value => Sys2Proof.Machine.execPcapWrite dev value s
  | .evictGo dev ord => Sys2Proof.Machine.execEvictGo dev ord s
  | .evictAbort dev => Sys2Proof.Machine.execEvictAbort dev s
  | .evictTimeout dev => Sys2Proof.Machine.execEvictTimeout dev s
  | .evictReleased dev => Sys2Proof.Machine.execEvictReleased dev s
  | .latchOpened dev => Sys2Proof.Machine.execLatchOpened dev s
  | .freeze dev => Sys2Proof.Machine.execFreeze dev s
  | .leaseLapse dev => Sys2Proof.Machine.execLeaseLapse dev s
  | .healthRecordWrite dev => Sys2Proof.Machine.execHealthRecordWrite dev s
  | .firmwareUpdate dev image => Sys2Proof.Machine.execFirmwareUpdate dev image s
  | .powerOff dev => Sys2Proof.Machine.execPowerOff dev s

end Sys2Proof.Machine
end

