-- ==== Sys2Proof/Machine/Step.lean ====
section
/-! DEFINITION. One step of the module, and the placing of an instruction where the next step fetches. -/

namespace Sys2Proof.Machine

/-- An event may change what another agent waits for; a look of a scheduler changes nothing for it but what it says itself. -/
def touched (i : Instr) (s : State) : State :=
  match i with
  | .issueSelect _ | .twillForwardIssue _ => s
  | _ => { s with epoch := s.epoch + 1 }

/-- One step: the next event of the agenda; else the instruction of the partition that the scheduler has chosen; else the event that the
free order of agents gives. (DESIGN CHOICE: log 4; DEDUCED: log 6, 86.) -/
def step (s0 : State) : Host.Outcome State Fault Refusal :=
  let s := tick s0
  match s.agenda with
  | i :: is => exec (eventOf s (some i)) (touched (eventOf s (some i)) { s with agenda := is })
  | [] =>
    match s.sel with
    | none => exec (eventOf s (Config.nextEvent s.steps)) (touched (eventOf s (Config.nextEvent s.steps)) s)
    | some k =>
      match fetchAt s k with
      | .ended t => .next t
      | .run i t =>
        match exec i t with
        | .next u => .next (afterIssue t i k u)
        | .fault r => .fault r
        | .refused r => .refused r

/-- The address that `withFetchWord` gives the line. (DEDUCED: log 1.) -/
def fetchWordAt : W64 := 0x10000

/-- The state with an instruction stored where the next step fetches it: partition A of core 0 is RESIDENT, stands at the head of a code line,
holds that line in its fetch buffer and a PLB entry for it, and is the partition chosen to issue. (DEDUCED: log 1.) -/
def State.withFetchWord (s : State) (nbits w : Nat) : State :=
  let line := if nbits ≤ 16 then lineWith (BitVec.ofNat 16 w) [] else lineWith (BitVec.ofNat 16 (w / 65536)) [BitVec.ofNat 16 w]
  let s1 := s.modPart 0 fun p =>
    { p with st := .resident, pc := fetchWordAt, fbuf := [⟨fetchWordAt, some line⟩], freq := [], sb := [], stall := 0, blocked := none
             sleep := .awake, fmode := .free, fwdNow := none, quiesce := none, asyncMcheck := 0 }
  let dom := (s.ctx (s1.part 0).ctx).domain
  let s2 := s1.modCore 0 fun c => { c with plb := ⟨dom, fetchWordAt, 16, true, true, true, true, true, false⟩ :: c.plb }
  { s2 with agenda := [], sel := some 0, cur := 0 }

end Sys2Proof.Machine
end

