-- ==== Sys2Proof/Safety.lean ====
section
/-! DEFINITION. What counts as a safe step and a sound state, and the words in which claims speak of an instruction that completes. -/

namespace Sys2Proof.Machine

/-- A step that neither faults nor refuses. -/
def runs (s : State) : Prop := ∃ t, step s = .next t

/-- The invariant of a sound state: memory stands in its canonical form. -/
def Inv (s : State) : Prop := Memory.wf s.mem = true

/-- An instruction that issues as `i` reaches its effect: the acting partition is one that the state lists, no source is read early (R82), the
predicate holds where it governs (R75), no operand value is ILLEGAL before STREAM (R342), and no register that it reads or writes is bound to a stream (R231). -/
def issues (s : State) (i : Iss) : Bool :=
  let p := s.part s.cur
  (mfind s.parts s.cur).isSome &&
  (!p.stallchk || i.allReads.all fun r => !(tracked p r && sbEarly p.sb r)) &&
  i.effective p && !i.bad &&
  (streamsIn p i.reads).isEmpty && (streamsIn p (i.writes.map (·.1))).isEmpty

/-- The lanes on which an instruction acts (R75). -/
def lanesFor (s : State) (i : Iss) : W64 := predVal (s.part s.cur) i.pred

/-- The outcome of an instruction that leaves `u` and goes on to next(PC). -/
def done (i : Iss) (s u : State) : Host.Outcome State Fault Refusal :=
  .next (retire i (s.part s.cur) u s.cur (some (s.part s.cur).npc))

/-- As `done`, where the effect is a change of the acting part alone: everything else the state holds stays. -/
def doneWith (i : Iss) (s : State) (f : Part → Part) : Host.Outcome State Fault Refusal := done i s (s.modPart s.cur f)

/-- The outcome of an instruction that leaves `u` and goes to an address. -/
def jumped (i : Iss) (s u : State) (a : W64) : Host.Outcome State Fault Refusal := .next (retire i (s.part s.cur) u s.cur (some a))

/-- The outcome of an instruction that has placed its partition itself. -/
def placedAt (i : Iss) (s u : State) : Host.Outcome State Fault Refusal := .next (retire i (s.part s.cur) u s.cur none)

/-- Where it issues as `i`, an instruction completes with the acting part changed by `f`, and nothing else but what retirement keeps. -/
def Gives (ins : Instr) (i : Iss) (s : State) (f : Part → Part) : Prop := issues s i = true → exec ins s = doneWith i s f

/-- Where it issues as `i`, an instruction leaves `u` and goes on to next(PC). -/
def Leaves (ins : Instr) (i : Iss) (s u : State) : Prop := issues s i = true → exec ins s = done i s u

/-- Write a vector destination. -/
def Part.putVec (p : Part) (d : Dst) (v : VReg) : Part :=
  match d with
  | .v i => p.setV i v
  | _ => p

/-- A part without what its scheduler, its fetch and its scoreboard keep for themselves: PC and next(PC), the fetch buffer, the scoreboard, STALL,
the wait counts, the last issue, whether it was found waiting and at what, PASS, SRCTR and the performance counters. -/
def Part.arch (p : Part) : Part :=
  { p with pc := 0, npc := 0, fbuf := [], freq := [], sb := [], stall := 0, waitCount := 0, lastIssue := 0, blocked := none, heldCount := 0, storeWait := false, pass := false, srctr := 0,
           perf := Vector.replicate 8 .reset }

end Sys2Proof.Machine
end

