-- ==== Sys2Proof/WellFormed.lean ====
section
/-! DEFINITION. Well-formed instructions: the ones the encoding admits. An event carries no encoding and is well-formed as it stands. -/

namespace Sys2Proof

/-- A literal that the code 0b11_100000 does not take from the literal slot (R70). -/
def Src.canon : Src → Bool
  | .lit n => decide (n.toNat ≠ 32)
  | _ => true

/-- The fields of format M that its member does not have stand at rest: a load has no source DATA, a store no destination. -/
def Opnds.canon (major sub : Nat) (o : Opnds) : Bool :=
  (srcsOf o).all Src.canon &&
  (match o with
    | .m x => if dataDst major sub then x.data = .v 0 else x.dst = .none
    | .j x => major = 0x05 || x.cond = 0
    | _ => true)

/-- An instruction is well-formed when its operands pass every check of R77 and stand in the form its encoding gives back. -/
def Instr.wf (i : Instr) : Bool :=
  match partsOf i with
  | none => true
  | some (maj, sb, hd, o) =>
    decide (build maj sb hd o = some i) && o.canon maj sb && (checkOps (sigOf i) o false).isNone && !extraUnused i

end Sys2Proof
end

