-- ==== Sys2Proof/Certificates/Slice0/Obligations.lean ====
section
/-! DEFINITION. The statements for the provers: each is a proposition about the model, taken from the numbered rules of the spec. -/

open Sys2Proof Sys2Proof.Machine

/-- R75: an instruction whose predicate does not hold has no effect but its retirement, and takes no other fault; in a lane-governed one that is when no lane
holds, in VINS when the lane that it writes does not (R138). R52, R82: with STALLCHK.EN = 1 an early read of the predicate, and under a predicate that holds the
first source that is read early, raises STALL_SHORT with the register's specifier as TRAPVAL, and the instruction has no other effect; with EN = 0 none does.
The model's own choices that it rests on: log entries 17, 18, 19 and 170. -/
def Obligations.IssueFrame : Prop :=
  (∀ (i : Iss) (body : W64 → M Flow) (s : State),
     let p := s.part s.cur
     let early (r : Reg) : Bool := p.stallchk && tracked p r && sbEarly p.sb r
     let pred := predVal p i.pred
     let holds : Prop := match i.lane with
       | some l => pred.getLsbD l = true
       | none => if i.lanes then pred ≠ 0 else pred.getLsbD 0 = true
     let short (r : Reg) : Host.Outcome State Fault Refusal := .next (takeTrap s s.cur ⟨0x02, 0, BitVec.ofNat 64 r.spec, none⟩)
     (∀ r ∈ i.predReads, early r = true → issue i body s = short r) ∧
     ((∀ r ∈ i.predReads, early r = false) → ¬ holds → issue i body s = done { i with yields := false, keepPass := false } s s) ∧
     (∀ (before after : List Reg) (r : Reg), (∀ q ∈ i.predReads ++ before, early q = false) → holds → i.reads = before ++ r :: after → early r = true →
       issue i body s = short r)) ∧
  ((∀ (p : Part) (r : Reg), sbEarly p.sb r = false → p.rd r = rawReg p r) ∧
   (∀ (p : Part) (r : Reg) (es : List SbEntry) (e : SbEntry), tracked p r = true → p.sb = e :: es → e.reg = r → e.age < e.lat → p.rd r = sbPeek es r e.old))

/-- What retirement changes: of the acting part, nothing but what its scheduler, fetch and scoreboard keep; of its core, the scheduler's history; of the state,
who has been selected and the model's epoch.
The model's own choices that it rests on: log entries 17 and 171. -/
def Obligations.RetireFrame : Prop :=
  ∀ (i : Iss) (b : Part) (s : State) (k : Nat) (next : Option W64),
    let t := retire i b s k next
    (∀ j, j ≠ k → t.part j = s.part j) ∧ (t.part k).arch = (s.part k).arch ∧
    (∀ f, f ≠ flatOf k → t.core f = s.core f) ∧
    t.core (flatOf k) = noteIssue (s.core (flatOf k)) (idxOf k) i.h.y i.yields ∧
    (∀ a, next = some a → (t.part k).pc = a) ∧ (next = none → (t.part k).pc = (s.part k).pc) ∧
    (t.part k).stall = i.h.stall.toNat ∧ t.sel = none ∧ t.issued = true ∧
    { t with parts := [], cores := [], sel := none, issued := false, epoch := 0 } =
      { s with parts := [], cores := [], sel := none, issued := false, epoch := 0 }

/-- R72, R230, R231: a stream-bound source is popped once, before the effect; the popped vector stands in its register, which the effect reads, and the position
is one more. A stream-bound destination is emptied before the effect and what the effect leaves there is pushed after it, once. With several, the sources are
popped in order, and an access that stops or waits leaves every stream as it was.
R231, R232: an access of a stream-bound register that the stream does not serve raises STREAM with the reason and the register: CAPTURED, DIRECTION,
EXHAUSTED; a faulted stream raises its own fault.
The model's own choices that it rests on: log entries 17, 18, 19, 20, 23 and 43. -/
def Obligations.StreamRegisters : Prop :=
  (∀ (p : Part) (r : Fin 8) (x : Slot),
     let t := p.streams[r]
     t.captured = false → t.write = false → t.state = .ready → t.slots.find? (fun y => y.idx = t.pos) = some x →
     ∃ q, popStream p r = .ok q ∧ q.v[56 + r.val]'(by omega) = x.v ∧ q.streams[r].pos = t.pos + 1 ∧ q.s = p.s ∧ q.p = p.p ∧
       (∀ j : Fin 64, j.val ≠ 56 + r.val → q.v[j] = p.v[j]) ∧ (∀ j : Fin 8, j ≠ r → q.streams[j] = p.streams[j])) ∧
  (∀ (p : Part) (r : Fin 8),
     let t := p.streams[r]
     (t.captured = false → t.write = true → t.state = .ready → pushReady p r = .ok p) ∧
     p.push r = { p with streams := p.streams.set r (Stream.settle { t with slots := t.slots ++ [⟨t.pos, p.v[56 + r.val]'(by omega), []⟩], pos := t.pos + 1 }) } ∧
     (t.captured = true → popStream p r = .stop (streamTrap (56 + r.val) 0x03) ∧ pushReady p r = .stop (streamTrap (56 + r.val) 0x03)) ∧
     (t.captured = false → t.write = true → popStream p r = .stop (streamTrap (56 + r.val) 0x02)) ∧
     (t.captured = false → t.write = false → pushReady p r = .stop (streamTrap (56 + r.val) 0x02)) ∧
     (t.captured = false → t.state = .exhausted →
       (t.write = false → popStream p r = .stop (streamTrap (56 + r.val) 0x01)) ∧ (t.write = true → pushReady p r = .stop (streamTrap (56 + r.val) 0x01))) ∧
     (∀ f, t.captured = false → t.state = .faulted → t.fault = some f →
       (t.write = false → popStream p r = .stop (streamFaultTrap f)) ∧ (t.write = true → pushReady p r = .stop (streamFaultTrap f)))) ∧
  -- the pops of an instruction's sources, in order
  (∀ (s0 s : State) (k : Nat) (r : Fin 8) (rs : List (Fin 8)), taskOn s k = none →
     (∀ q, popStream (s.part k) r = .ok q → popFrom s0 s k (r :: rs) = popFrom s0 (pulse (s.setPart k q) k (8 + r.val)) k rs) ∧
     (∀ e, popStream (s.part k) r = .stop e → popFrom s0 s k (r :: rs) = (.stop e, s0)) ∧
     (popStream (s.part k) r = .wait → popFrom s0 s k (r :: rs) = (.wait, s0)) ∧ popFrom s0 s k [] = (.ok (s.part k), s)) ∧
  -- the instruction: pop, effect, push
  (∀ (i : Iss) (body : W64 → M Flow) (s s1 : State),
     let k := s.cur
     let p := s.part k
     let mask := predVal p i.pred
     let ins := streamsIn p i.reads
     let outs := streamsIn p (i.writes.map (·.1))
     (p.stallchk = false ∨ ∀ r ∈ i.allReads, (tracked p r && sbEarly p.sb r) = false) → i.effective p = true → i.bad = false → p.sleep = .awake → taskOn s k = none →
     (∀ e, popFrom s s k ins = (.stop e, s1) → issue i body s = .next (stopped s1 k e)) ∧
     (popFrom s s k ins = (.wait, s1) → issue i body s = .next (waiting s k)) ∧
     (∀ q, popFrom s s k ins = (.ok q, s1) →
       (∀ r e, outs = [r] → pushReady (s1.part k) r = .stop e → issue i body s = .next (stopped s k e)) ∧
       (∀ r, outs = [r] → pushReady (s1.part k) r = .wait → issue i body s = .next (waiting s k)) ∧
       ((∀ r ∈ outs, pushReady (s1.part k) r = .ok (s1.part k)) → outs ≠ [] → storesDone s k = false → issue i body s = .next (waiting s k)) ∧
       ((∀ r ∈ outs, pushReady (s1.part k) r = .ok (s1.part k)) → (outs = [] ∨ storesDone s k = true) →
         let u := (outs.foldl (fun t r => releaseAt t (flatOf k) (p.streams[r]).scope) s1).modPart k fun q =>
           outs.foldl (fun q r => { q with v := q.v.set (56 + r.val) 0 (by omega) }) q
         (∀ e, body mask u = .error e → issue i body s = .next (stopped s k e)) ∧
         (∀ t, body mask u = .ok (.done, t) →
           issue i body s = .next (retire i p (t.modPart k fun q => outs.foldl (fun q r => q.push r) q) k (some p.npc))))))

/-- R70, R73, R90: s0 and p0 read as zero and as all ones, and discard what is written to them; every other register holds what was written last. -/
def Obligations.HardwiredRegisters : Prop :=
  ∀ (p : Part) (v : W64),
    p.getS 0 = 0 ∧ p.setS 0 v = p ∧ p.getP 0 = ones64 ∧ p.setP 0 v = p ∧ p.put .none v = p ∧
    (∀ i : Fin 64, i ≠ 0 → (p.setS i v).getS i = v ∧ ∀ j, j ≠ i → (p.setS i v).getS j = p.getS j) ∧
    (∀ i : Fin 8, i ≠ 0 → (p.setP i v).getP i = v ∧ ∀ j, j ≠ i → (p.setP i v).getP j = p.getP j)

/-- R114, R40: the integer arithmetic of format B and its .n forms; division by zero gives all ones, and its remainder the dividend. -/
def Obligations.IntegerArithmetic : Prop :=
  ∀ (h : Hd) (o : OpB) (s : State),
    let x := (s.part s.cur).src 0 o.s1
    let y := (s.part s.cur).src 0 o.s2
    let i (lat : Option Nat) : Iss := { h, reads := rds [o.s1, o.s2], writes := wr o.d lat }
    Gives (.add h o) (i (some 1)) s (·.put o.d (x + y)) ∧
    Gives (.sub h o) (i (some 1)) s (·.put o.d (x - y)) ∧
    Gives (.mul h o) (i (some 3)) s (·.put o.d (x * y)) ∧
    Gives (.mulh h o) (i (some 3)) s (·.put o.d ((x.signExtend 128 * y.signExtend 128).extractLsb' 64 64)) ∧
    Gives (.mulhN h o) (i (some 3)) s (·.put o.d ((x.setWidth 128 * y.setWidth 128).extractLsb' 64 64)) ∧
    Gives (.div h o) (i none) s (·.put o.d (if y = 0 then ones64 else x.sdiv y)) ∧
    Gives (.rem h o) (i none) s (·.put o.d (if y = 0 then x else x.srem y)) ∧
    Gives (.divN h o) (i none) s (·.put o.d (if y = 0 then ones64 else x / y)) ∧
    Gives (.remN h o) (i none) s (·.put o.d (if y = 0 then x else x % y)) ∧
    Gives (.min h o) (i (some 1)) s (·.put o.d (if x.toInt < y.toInt then x else y)) ∧
    Gives (.max h o) (i (some 1)) s (·.put o.d (if x.toInt < y.toInt then y else x)) ∧
    Gives (.minN h o) (i (some 1)) s (·.put o.d (if x.toNat < y.toNat then x else y)) ∧
    Gives (.maxN h o) (i (some 1)) s (·.put o.d (if x.toNat < y.toNat then y else x)) ∧
    -- R40: truncation toward zero, the remainder with the sign of the dividend, and the one quotient that does not fit
    (y ≠ 0 → ¬ (x = BitVec.intMin 64 ∧ y = ones64) → (x.sdiv y).toInt = x.toInt.tdiv y.toInt ∧ (x.srem y).toInt = x.toInt.tmod y.toInt) ∧
    (BitVec.intMin 64).sdiv ones64 = BitVec.intMin 64 ∧ (BitVec.intMin 64).srem ones64 = 0

/-- R115 to R118: logic, shifts (bits 63:6 of the amount ignored), CLZ, POPC and MOV; the bit fields (their width cut at bit 63), SEL, LI and LIH. -/
def Obligations.IntegerLogicAndFields : Prop :=
  (∀ (h : Hd) (o : OpB) (s : State),
     let x := (s.part s.cur).src 0 o.s1
     let y := (s.part s.cur).src 0 o.s2
     let i : Iss := { h, reads := rds [o.s1, o.s2], writes := wr o.d (some 1) }
     let j : Iss := { h, reads := rds [o.s1], writes := wr o.d (some 1) }
     Gives (.and h o) i s (·.put o.d (x &&& y)) ∧
     Gives (.or h o) i s (·.put o.d (x ||| y)) ∧
     Gives (.xor h o) i s (·.put o.d (x ^^^ y)) ∧
     Gives (.andn h o) i s (·.put o.d (x &&& ~~~y)) ∧
     Gives (.shl h o) i s (·.put o.d (x <<< (y &&& 63).toNat)) ∧
     Gives (.shr h o) i s (·.put o.d (x >>> (y &&& 63).toNat)) ∧
     Gives (.sar h o) i s (·.put o.d (x.sshiftRight (y &&& 63).toNat)) ∧
     Gives (.mov h o) j s (·.put o.d x) ∧
     (∀ n : Nat, n ≤ 64 → (∀ b : Nat, 64 - n ≤ b → b < 64 → x.getLsbD b = false) → (n < 64 → x.getLsbD (63 - n) = true) →
       Gives (.clz h o) j s (·.put o.d (BitVec.ofNat 64 n))) ∧
     Gives (.popc h o) j s (·.put o.d (BitVec.ofNat 64 ((List.range 64).filter fun b => x.getLsbD b).length))) ∧
  ((∀ (h : Hd) (o : OpC) (s : State),
     let p := s.part s.cur
     let x := p.src 0 o.s1
     let pos := (p.src 0 o.s2).toNat % 64
     let w := min ((p.src 0 o.s3).toNat % 128) (64 - pos)
     let old := match o.d with
       | .s n => p.rdS n
       | .p n => p.rdP n
       | _ => 0
     let i : Iss := { h, reads := rds [o.s1, o.s2, o.s3], writes := wr o.d (some 1) }
     let q : Fin 8 := ⟨o.mod.toNat % 8, Nat.mod_lt _ (by decide)⟩
     (∃ v : W64, Gives (.bfx h o) i s (·.put o.d v) ∧
       ∀ b : Nat, b < 64 → v.getLsbD b = if b < w then x.getLsbD (pos + b) else (o.mod.getLsbD 0 && decide (w ≠ 0) && x.getLsbD (pos + w - 1))) ∧
     (∃ v : W64, Gives (.bfi h o) { i with reads := i.reads ++ (dstReg o.d).toList } s (·.put o.d v) ∧
       ∀ b : Nat, b < 64 → v.getLsbD b = if pos ≤ b ∧ b < pos + w then x.getLsbD (b - pos) else old.getLsbD b) ∧
     Gives (.sel h o) { h, reads := rds [o.s1, o.s2] ++ [.p q], writes := wr o.d (some 1) } s
       (·.put o.d (if (p.rdP q).getLsbD 0 = o.mod.getLsbD 3 then p.src 0 o.s2 else x))) ∧
   (∀ (h : Hd) (o : OpL) (s : State),
     let p := s.part s.cur
     let old := match o.d with
       | .s n => p.rdS n
       | .p n => p.rdP n
       | _ => 0
     Gives (.li h o) { h, reads := rds [o.s1], writes := wr o.d (some 1) } s (·.put o.d (p.src o.lit o.s1)) ∧
     (o.s1 = .slot → p.src o.lit o.s1 = o.lit.signExtend 64) ∧
     Gives (.lih h o) { h, reads := rds [o.s1] ++ (dstReg o.d).toList, writes := wr o.d (some 1) } s
       (·.put o.d ((p.src o.lit o.s1 <<< 32) ||| (old.setWidth 32).setWidth 64))))

/-- R85, R119, R120: CMP writes every lane of a predicate or 0 or 1 into a scalar; the predicate logic. -/
def Obligations.ComparesAndPredicates : Prop :=
  ∀ (h : Hd) (c : ICond) (o : OpB) (s : State),
    let p := s.part s.cur
    let x := p.src 0 o.s1
    let y := p.src 0 o.s2
    let holds : Bool := match c with
      | .eq => x = y
      | .ne => x ≠ y
      | .lt => x.toInt < y.toInt
      | .ge => y.toInt ≤ x.toInt
      | .le => x.toInt ≤ y.toInt
      | .gt => y.toInt < x.toInt
      | .ltn => x.toNat < y.toNat
      | .gen => y.toNat ≤ x.toNat
      | .len => x.toNat ≤ y.toNat
      | .gtn => y.toNat < x.toNat
    let truth : W64 := match o.d with
      | .p _ => if holds then ones64 else 0
      | _ => if holds then 1 else 0
    let i : Iss := { h, reads := rdsP [o.s1, o.s2], writes := wr o.d (some 1) }
    let j : Iss := { h, reads := rdsP [o.s1], writes := wr o.d (some 1) }
    Gives (.cmp h c o) { h, reads := rds [o.s1, o.s2], writes := wr o.d (some 1) } s (·.put o.d truth) ∧
    Gives (.pand h o) i s (·.put o.d (p.srcP o.s1 &&& p.srcP o.s2)) ∧
    Gives (.por h o) i s (·.put o.d (p.srcP o.s1 ||| p.srcP o.s2)) ∧
    Gives (.pxor h o) i s (·.put o.d (p.srcP o.s1 ^^^ p.srcP o.s2)) ∧
    Gives (.pnot h o) j s (·.put o.d (~~~(p.srcP o.s1))) ∧
    Gives (.pmov h o) j s (·.put o.d (p.srcP o.s1))

/-- R122 to R124: the scalar floating-point instructions: one rounding under FPCTL, the code zero-extended, the flags ORed into FPFLAGS.
The model's own choices that it rests on: log entry 29. -/
def Obligations.ScalarFloat : Prop :=
  ∀ (h : Hd) (c : FCond) (o : OpC) (s : State),
    let p := s.part s.cur
    let f : Fmt := if o.mod.getLsbD 0 then fmt32 else fmt64
    let a := p.srcT (.flt f) o.s1
    let b := p.srcT (.flt f) o.s2
    let d := p.srcT (.flt f) o.s3
    let ctl := p.rctl 64 0
    let x := decodeFZ f p.fz a
    let y := decodeFZ f p.fz b
    let i (l : List Src) (lat : Option Nat) (sr : Nat) : Iss := { h, reads := rds l, writes := wr o.d lat, sr }
    let puts (r : FRes) (q : Part) : Part := (q.put o.d (BitVec.ofNat 64 r.code)).orFlags r.flags
    let dt := ctyOf (o.mod.toNat / 16)
    let st := ctyOf (o.mod.toNat % 16)
    let r := convertC ctl dt st (p.srcT st o.s1)
    Gives (.fadd h o) (i [o.s1, o.s2] (some 4) 1) s (puts (addF f ctl a b)) ∧
    Gives (.fsub h o) (i [o.s1, o.s2] (some 4) 1) s (puts (subF f ctl a b)) ∧
    Gives (.fmul h o) (i [o.s1, o.s2] (some 4) 1) s (puts (mulF f ctl a b)) ∧
    Gives (.fma h o) (i [o.s1, o.s2, o.s3] (some 4) 1) s (puts (fmaF f ctl a b d)) ∧
    Gives (.fdiv h o) (i [o.s1, o.s2] none 1) s (puts (divF f ctl x y)) ∧
    Gives (.fsqrt h o) (i [o.s1] none 1) s (puts (sqrtF f ctl x)) ∧
    Gives (.fmin h o) (i [o.s1, o.s2] (some 4) 0) s (puts (minMaxF f p.fz false a b)) ∧
    Gives (.fmax h o) (i [o.s1, o.s2] (some 4) 0) s (puts (minMaxF f p.fz true a b)) ∧
    Gives (.fcmp h c o) (i [o.s1, o.s2] (some 4) 0) s (fun q => (q.put o.d (truth o.d (fcondV c x y))).orFlags (fcmpFlags c x y)) ∧
    Gives (.fcvt h o) (i [o.s1] (some 4) (if dt.isInt && st.isInt then 0 else 1)) s (fun q => (q.put o.d (extendTo dt r.code)).orFlags r.flags)

/-- R125, R127: an element whose lane is active takes its result, another keeps the destination's value.
R128 to R133: the element-wise integer instructions, whose results saturate or wrap, and the lane-wise conditions and moves.
The model's own choices that it rests on: log entry 170. -/
def Obligations.VectorInteger : Prop :=
  ((∀ (old : VReg) (mask : W64) (w j : Nat) (f : Nat → Nat), (w = 8 ∨ w = 16 ∨ w = 32) → j < 2048 / w →
     elemOf (mapElems old mask w f) w j = if mask.getLsbD (j * w / 32) then f j % 2 ^ w else elemOf old w j) ∧
   -- R129: wrapping reduces the exact result modulo 2^w, saturating clamps it to the range of its signedness
   (∀ (w : Nat) (v : Int), 0 < w → ((wrapInt w v : Nat) : Int) = v % 2 ^ w ∧
     intOf true w (satInt true w v) = max (-(2 ^ (w - 1))) (min (2 ^ (w - 1) - 1) v) ∧ ((satInt false w v : Nat) : Int) = max 0 (min (2 ^ w - 1) v))) ∧
  (∀ (h : Hd) (c : ICond) (o : OpC) (s : State),
     let p := s.part s.cur
     let w := widthOf o.mod
     let x (j : Nat) : Nat := (p.vsrc (.int true w) o.s1).elem w j
     let y (j : Nat) : Nat := (p.vsrc (.int true w) o.s2).elem w j
     let z (j : Nat) : Nat := (p.vsrc (.int true w) o.s3).elem w j
     let X (j : Nat) : Int := intOf (!modN o.mod) w (x j)
     let Y (j : Nat) : Int := intOf (!modN o.mod) w (y j)
     let Z (j : Nat) : Int := intOf (!modN o.mod) w (z j)
     let fit (v : Int) : Nat := if modSat o.mod then satInt (!modN o.mod) w v else wrapInt w v
     let i (l : List Src) : Iss := { h, reads := rds l, writes := wr o.d (some 2), lanes := true }
     let gives (ins : Instr) (l : List Src) (f : Nat → Nat) : Prop :=
       Gives ins (i l) s fun q => q.putVec o.d (mapElems (q.oldV o.d) (lanesFor s (i l)) w f)
     let lane (v : VSrc) (L : Nat) : Nat := v.elem 32 L
     let gives32 (ins : Instr) (j : Iss) (f : Nat → Nat) : Prop :=
       Gives ins j s fun q => q.putVec o.d (mapElems (q.oldV o.d) (lanesFor s j) 32 f)
     let sel : Fin 8 := ⟨o.mod.toNat % 8, Nat.mod_lt _ (by decide)⟩
     gives (.vadd h o) [o.s1, o.s2] (fun j => fit (X j + Y j)) ∧
     gives (.vsub h o) [o.s1, o.s2] (fun j => fit (X j - Y j)) ∧
     gives (.vmul h o) [o.s1, o.s2] (fun j => fit (X j * Y j)) ∧
     gives (.vmad h o) [o.s1, o.s2, o.s3] (fun j => fit (X j * Y j + Z j)) ∧
     gives (.vmin h o) [o.s1, o.s2] (fun j => fit (min (X j) (Y j))) ∧
     gives (.vmax h o) [o.s1, o.s2] (fun j => fit (max (X j) (Y j))) ∧
     gives (.vabs h o) [o.s1] (fun j => fit (X j).natAbs) ∧
     gives (.vand h o) [o.s1, o.s2] (fun j => x j &&& y j) ∧
     gives (.vor h o) [o.s1, o.s2] (fun j => x j ||| y j) ∧
     gives (.vxor h o) [o.s1, o.s2] (fun j => x j ^^^ y j) ∧
     gives (.vshl h o) [o.s1, o.s2] (fun j => fit (X j * ((2 ^ (y j % w) : Nat) : Int))) ∧
     gives (.vshr h o) [o.s1, o.s2] (fun j => x j % 2 ^ w / 2 ^ (y j % w)) ∧
     gives (.vsar h o) [o.s1, o.s2] (fun j => wrapInt w (intOf true w (x j) / ((2 ^ (y j % w) : Nat) : Int))) ∧
     Gives (.vcmp h c o) (i [o.s1, o.s2]) s (fun q => match o.d with
       | .p n => q.setP n (mapBits (q.getP n) (lanesFor s (i [o.s1, o.s2])) fun j => icond c w (x j) (y j))
       | .v n => q.setV n (mapElems (q.getV n) (lanesFor s (i [o.s1, o.s2])) w fun j => if icond c w (x j) (y j) then 2 ^ w - 1 else 0)
       | _ => q) ∧
     gives32 (.vmov h o) (i [o.s1]) (lane (p.vsrc (.int true 32) o.s1)) ∧
     gives32 (.vbcast h o) (i [o.s1, o.s2]) (fun _ => elemOf (p.vreg o.s1) 32 ((p.src 0 o.s2).toNat % 64)) ∧
     gives32 (.vsel h o) { i [o.s1, o.s2] with reads := rds [o.s1, o.s2] ++ [.p sel] }
       (fun L => if (p.rdP sel).getLsbD L = o.mod.getLsbD 3 then lane (p.vsrc (.int true 32) o.s2) L else lane (p.vsrc (.int true 32) o.s1) L))

/-- R134: VCVT converts the elements of one part, each rounded under the control of its lane; a part that does not exist traps ILLEGAL, reason VALUE.
The model's own choices that it rests on: log entries 29 and 170. -/
def Obligations.VectorConvert : Prop :=
  ∀ (h : Hd) (o : OpC) (n : BitVec 6) (s : State),
    let p := s.part s.cur
    let dt := ctyOf (o.mod.toNat / 16)
    let st := ctyOf (o.mod.toNat % 16)
    let i : Iss := { h, reads := rds [o.s1] ++ (dstReg o.d).toList, writes := wr o.d (some 4), lanes := true
                     sr := if dt.isInt && st.isInt then 0 else 32 / dt.width }
    let r := mapElemsF (p.rdDstV o.d) (lanesFor s i) dt.width fun d =>
      match cvtSrc st.width dt.width (litInt n).toNat d with
      | none => ⟨elemOf (p.rdDstV o.d) dt.width d, 0⟩
      | some e => convertC (p.rctl (d * dt.width / 32) (d * dt.width % 32 / dt.width)) dt st ((p.vsrc st o.s1).elem st.width e)
    (∃ v : Fin 64, o.d = .v v ∧ p.bound v = false) → o.s2 = .lit n →
    (0 ≤ litInt n → (litInt n).toNat < max st.width dt.width / min st.width dt.width →
      Gives (.vcvt h o) i s fun q => (q.putVec o.d r.1).orFlags r.2) ∧
    ((litInt n < 0 ∨ max st.width dt.width / min st.width dt.width ≤ (litInt n).toNat) → issues s i = true →
      exec (.vcvt h o) s = .next (takeTrap s s.cur ⟨0x01, 0, BitVec.ofNat 64 (0x0D + p.pc.toNat / 2 % 32 * 256), none⟩))

/-- R135 to R139: the cross-lane instructions.
The model's own choices that it rests on: log entries 28, 170 and 191. -/
def Obligations.VectorCrossLane : Prop :=
  ∀ (h : Hd) (o : OpC) (s : State),
    let p := s.part s.cur
    let i (l : List Src) : Iss := { h, reads := rds l, writes := wr o.d (some 6), lanes := true }
    let op := o.mod.toNat % 16
    let one : Iss := { i [o.s1] with sr := if op = 8 then 6 else 0 }
    let gives (ins : Instr) (j : Iss) (mask : W64) (f : Nat → Nat) : Prop :=
      Gives ins j s fun q => q.putVec o.d (mapElems (q.oldV o.d) mask 32 f)
    let t := p.vreg o.s1
    let bare : Bool := match o.d with
      | .v n => !p.bound n
      | _ => true
    -- VPERM
    gives (.vperm h o) (i [o.s1, o.s2]) (lanesFor s (i [o.s1, o.s2])) (fun L => elemOf t 32 ((p.vsrc (.int true 32) o.s2).elem 32 L % 64)) ∧
    -- VRED: the fixed tree of R59 over the active lanes
    (∀ r fl rest, redTree op p.rctl 6 1 (terms t (lanesFor s one)) = (some r, fl) :: rest →
      Gives (.vred h o) one s fun q => (q.put o.d (if op ≤ 2 then sext64 32 r else BitVec.ofNat 64 r)).orFlags fl) ∧
    -- VSCAN: six steps, inclusive or exclusive
    (let l := (List.range 6).foldl (fun l k => scanStep op p.rctl k l) (terms t (lanesFor s one))
     let res (L : Nat) : Option Nat :=
       if o.mod.getLsbD 4 then (if L = 0 then none else (l.getD (L - 1) (none, 0)).1) else (l.getD L (none, 0)).1
     Gives (.vscan h o) one s fun q =>
       (q.putVec o.d (mapElems (q.oldV o.d) (lanesFor s one) 32 fun L => (res L).getD (redIdentity op))).orFlags
         ((List.range 64).foldl (fun a L => if (lanesFor s one).getLsbD L then a ||| (l.getD L (none, 0)).2 else a) 0)) ∧
    -- VEXT
    (let x := elemOf t 32 ((p.src 0 o.s2).toNat % 64)
     Gives (.vext h o) { h, reads := rds [o.s1, o.s2], writes := wr o.d (some 6) } s
       (·.put o.d (if o.mod.getLsbD 0 then BitVec.ofNat 64 x else sext64 32 x))) ∧
    -- VINS: governed by the predicate bit of the lane that it writes
    (let lane := (p.src 0 o.s2).toNat % 64
     let j : Iss := { h, reads := rds [o.s1, o.s2] ++ (dstReg o.d).toList, writes := wr o.d (some 6), lanes := true, lane := some lane }
     bare = true →
       (Gives (.vins h o) j s fun q => q.putVec o.d (mapElems (q.rdDstV o.d) (BitVec.ofNat 64 (2 ^ lane)) 32 fun _ => (p.src 0 o.s1).toNat % 2 ^ 32)) ∧
       ((predVal p j.pred).getLsbD lane = false → (p.stallchk = false ∨ ∀ r ∈ j.predReads ++ rds [o.s2], (tracked p r && sbEarly p.sb r) = false) → exec (.vins h o) s = done j s s)) ∧
    -- VCOMP: the selected lanes in order, then zeros, or with .m the old elements
    (let j : Iss := { i [o.s1] with reads := rds [o.s1] ++ (if o.mod.getLsbD 0 then (dstReg o.d).toList else []) }
     bare = true → Gives (.vcomp h o) j s fun q => q.putVec o.d (mapElems (q.rdDstV o.d) ones64 32 fun L =>
       match (selected t (lanesFor s j))[L]? with
       | some x => x
       | none => if o.mod.getLsbD 0 then elemOf (q.rdDstV o.d) 32 L else 0)) ∧
    -- VEXPD
    gives (.vexpd h o) (i [o.s1]) (lanesFor s (i [o.s1])) (fun L => elemOf t 32 (rankBelow (lanesFor s (i [o.s1])) L))

/-- R140 to R143: the element-wise floating-point instructions and the FP32 functions.
The model's own choices that it rests on: log entry 30. -/
def Obligations.VectorFloat : Prop :=
  ∀ (h : Hd) (c : FCond) (o : OpC) (s : State),
    let p := s.part s.cur
    let f := fmtV o.mod
    let i (l : List Src) (lat sr : Nat) : Iss := { h, reads := rds l, writes := wr o.d (some lat), lanes := true, sr }
    let gives (ins : Instr) (g : Fmt) (j : Iss) (op : RCtl → Nat → FRes) : Prop :=
      Gives ins j s fun q =>
        let r := mapElemsF (q.oldV o.d) (lanesFor s j) g.width fun e => op (p.rctl (e * g.width / 32) (e * g.width % 32 / g.width)) e
        (q.putVec o.d r.1).orFlags r.2
    let x (g : Fmt) (e : Nat) : Nat := (p.vsrc (.flt g) o.s1).elem g.width e
    let y (g : Fmt) (e : Nat) : Nat := (p.vsrc (.flt g) o.s2).elem g.width e
    let z (g : Fmt) (e : Nat) : Nat := (p.vsrc (.flt g) o.s3).elem g.width e
    let X (e : Nat) : FV := decodeFZ f p.fz (x f e)
    let Y (e : Nat) : FV := decodeFZ f p.fz (y f e)
    let two := [o.s1, o.s2]
    let n := 32 / f.width
    gives (.vfadd h o) f (i two 4 n) (fun ctl e => addF f ctl (x f e) (y f e)) ∧
    gives (.vfsub h o) f (i two 4 n) (fun ctl e => subF f ctl (x f e) (y f e)) ∧
    gives (.vfmul h o) f (i two 4 n) (fun ctl e => mulF f ctl (x f e) (y f e)) ∧
    gives (.vfma h o) f (i [o.s1, o.s2, o.s3] 4 n) (fun ctl e => fmaF f ctl (x f e) (y f e) (z f e)) ∧
    gives (.vfmin h o) f (i two 4 0) (fun _ e => minMaxF f p.fz false (x f e) (y f e)) ∧
    gives (.vfmax h o) f (i two 4 0) (fun _ e => minMaxF f p.fz true (x f e) (y f e)) ∧
    (let fl := (List.range (2048 / f.width)).foldl (fun a j =>
       if (lanesFor s (i two 4 0)).getLsbD (j * f.width / 32) then a ||| fcmpFlags c (X j) (Y j) else a) 0
     Gives (.vfcmp h c o) (i two 4 0) s fun q => Part.orFlags (match o.d with
       | .p d => q.setP d (mapBits (q.getP d) (lanesFor s (i two 4 0)) fun j => fcondV c (X j) (Y j))
       | .v d => q.setV d (mapElems (q.getV d) (lanesFor s (i two 4 0)) f.width fun j => if fcondV c (X j) (Y j) then 2 ^ f.width - 1 else 0)
       | _ => q) fl) ∧
    gives (.vrcp h o) fmt32 (i [o.s1] 8 1) (fun ctl e => divF fmt32 ctl (.fin false 1 0) (decodeFZ fmt32 p.fz (x fmt32 e))) ∧
    gives (.vrsq h o) fmt32 (i [o.s1] 8 1) (fun ctl e => rsqrtF fmt32 ctl (decodeFZ fmt32 p.fz (x fmt32 e))) ∧
    gives (.vexp2 h o) fmt32 (i [o.s1] 8 1) (fun ctl e => exp2F fmt32 ctl (decodeFZ fmt32 p.fz (x fmt32 e))) ∧
    gives (.vlog2 h o) fmt32 (i [o.s1] 8 1) (fun ctl e => log2F fmt32 ctl (decodeFZ fmt32 p.fz (x fmt32 e)))

/-- R64, R106 to R111, R103: the control family. END passes to the next line; CALL and JMPI write next(PC); JMPI at an odd target traps MISALIGN (an
instruction that was forwarded neither reads the target nor traps); LOOP counts down and branches while the count is not zero.
The model's own choices that it rests on: log entry 171. -/
def Obligations.ControlFlow : Prop :=
  (∀ s : State, exec .lineEnd s = .next { (s.modPart s.cur fun p => p.goto ((p.pc &&& ~~~(63 : W64)) + 64) s.steps) with issued := false }) ∧
  (∀ (h : Hd) (q : Pred) (s : State),
    Leaves (.nop h) { h } s s ∧ Leaves (.nopPred h q) { h, q := some q } s s ∧
    Leaves (.yield h) { h, yields := true } s s ∧ Leaves (.yieldPred h q) { h, q := some q, yields := true } s s) ∧
  (∀ (h : Hd) (o : OpJ) (s : State),
    let p := s.part s.cur
    let a : W64 := (p.pc &&& ~~~(63 : W64)) + (o.off.signExtend 64 <<< 6) + BitVec.ofNat 64 (2 * o.head.val)
    let l : Iss := { h, reads := [.s o.cond], writes := [(.s o.cond, some 1)] }
    (issues s { h } = true → exec (.bra h o) s = jumped { h } s s a) ∧
    (issues s { h, writes := [(.s 1, some 1)] } = true →
      exec (.call h o) s = jumped { h, writes := [(.s 1, some 1)] } s (s.modPart s.cur (·.setS 1 p.npc)) a) ∧
    (issues s l = true →
      exec (.loop h o) s = (if p.rdS o.cond - 1 ≠ 0 then jumped l s (s.modPart s.cur (·.setS o.cond (p.rdS o.cond - 1))) a
        else doneWith l s (·.setS o.cond (p.rdS o.cond - 1))))) ∧
  (∀ (h : Hd) (o : OpA) (s : State),
    let p := s.part s.cur
    let t := p.src 0 o.s1
    let i : Iss := { h, reads := rds [o.s1], writes := wr o.d (some 1) }
    let r : Iss := { h, reads := [.s 1] }
    let j : Iss := { h, writes := wr o.d (some 1) }
    (p.fwdNow = none →
      (issues s i = true → t.getLsbD 0 = false → exec (.jmpi h o) s = jumped i s (s.modPart s.cur (·.put o.d p.npc)) t) ∧
      (issues s i = true → t.getLsbD 0 = true → exec (.jmpi h o) s = .next (takeTrap s s.cur ⟨0x04, 0, t, none⟩)) ∧
      (issues s r = true → (p.rdS 1).getLsbD 0 = false → exec (.ret h) s = jumped r s s (p.rdS 1)) ∧
      (issues s r = true → (p.rdS 1).getLsbD 0 = true → exec (.ret h) s = .next (takeTrap s s.cur ⟨0x04, 0, p.rdS 1, none⟩))) ∧
    (p.fwdNow.isSome = true →
      (issues s j = true → exec (.jmpi h o) s = jumped j s (s.modPart s.cur (·.put o.d p.npc)) t) ∧
      (issues s { h } = true → exec (.ret h) s = jumped { h } s s (p.rdS 1))))

/-- R155, R156: taking a trap in a partition A to C outside a trap handler, with a vector: the cause, the saved PC (next(PC) for TRAP, for a follower its next forwarded instruction), the value and the
time stand in the special registers and in s60 to s63, the part is in its trap handler at TRAPVEC, STALL is 3, and the scoreboard is drained.
R156: a trap inside a trap handler, or with TRAPVEC 0, halts the part: it resumes at TRAPPC; the second trap of a handler leaves its code in
TRAPCAUSE.CODE2 with DBL set, and the first trap's registers as they were.
The model's own choices that it rests on: log entries 25 and 84. -/
def Obligations.TakeTrap : Prop :=
  (∀ (s : State) (k : Nat) (t : Trap),
     let p := s.part k
     let u := takeTrap s k t
     let q := u.part k
     idxOf k ≠ 3 → p.inTrap = false → p.trapvec ≠ 0 → p.fmode ≠ .joining → t.code < 256 → t.cls < 4 →
     q.pc = p.trapvec ∧ q.inTrap = true ∧ q.tcCode.toNat = t.code ∧ q.tcClass.toNat = t.cls ∧ q.tcDbl = false ∧ q.tcCode2 = 0 ∧
     q.trappc = (if t.code = 0x0D then p.npc else nextForward s k) ∧ q.trapval = t.val ∧
     q.s[60] = BitVec.ofNat 64 (t.code + t.cls * 256) ∧ q.s[61] = q.trappc ∧ q.s[62] = t.val ∧ q.s[63] = timeAt s k ∧
     (∀ i : Fin 64, i.val < 60 → q.s[i] = p.s[i]) ∧ q.v = p.v ∧ q.p = p.p ∧ q.sb = [] ∧ q.stall = 3 ∧ q.sleep = .awake ∧ q.st = p.st ∧
     (∀ f, t.fi = some f → q.faultinfo = BitVec.ofNat 11 f) ∧ (t.fi = none → q.faultinfo = p.faultinfo) ∧
     u.mem = s.mem ∧ (p.fmode ≠ .following → ∀ j, j ≠ k → u.part j = s.part j) ∧ u.sel = none) ∧
  (∀ (s : State) (k : Nat) (t : Trap),
     let p := s.part k
     let q := (takeTrap s k t).part k
     idxOf k ≠ 3 → (p.fmode = .free ∨ p.fmode = .leading) → t.code < 256 →
     (p.inTrap = true →
       q.st = .halted ∧ q.prev = p.st ∧ q.pc = p.trappc ∧ q.tcDbl = true ∧ q.tcCode2.toNat = t.code ∧ q.tcCode = p.tcCode ∧ q.trappc = p.trappc ∧
       q.trapval = p.trapval ∧ q.inTrap = true ∧ q.s = p.s) ∧
     (p.inTrap = false → p.trapvec = 0 → t.code ≠ 0x0D →
       q.st = .halted ∧ q.prev = p.st ∧ q.pc = nextForward s k ∧ q.tcDbl = false ∧ q.tcCode.toNat = t.code ∧ q.trappc = nextForward s k ∧ q.trapval = t.val ∧ q.s = p.s)) ∧
  -- where a part stands: a follower at the next instruction forwarded to it
  (∀ (s : State) (k : Nat),
     let p := s.part k
     (p.fwdNow.isSome = true → nextForward s k = p.pc) ∧ (∀ f fs, p.fwdNow = none → p.twill = f :: fs → nextForward s k = f.addr) ∧
     (p.fmode ≠ .following → p.twill = [] → nextForward s k = p.pc))

/-- R158: a page that is not present raises the upcall where UPCALL_VEC is set and the part is in no handler, else the trap PAGE. A TFORMAT condition (reason
0x12) is always the trap.
R165, R166: a return from a trap handler or from the upcall runtime leaves that handler's state, drains, and goes on at the target.
The model's own choices that it rests on: log entries 25, 84 and 190. -/
def Obligations.UpcallAndReturns : Prop :=
  (∀ (s : State) (k acc reason : Nat) (addr : W64),
     let p := s.part k
     let q := (pageFault s k acc reason addr).part k
     (idxOf k ≠ 3 → p.upcallVec ≠ 0 → p.inUp = false → p.inTrap = false → reason ≠ 0x12 → p.fmode ≠ .joining → acc * 256 + reason < 2048 →
       q.pc = p.upcallVec ∧ q.inUp = true ∧ q.inTrap = false ∧ q.upcallInfo.toNat = acc * 256 + reason ∧ q.upcallAddr = addr ∧
       q.faultinfo.toNat = acc * 256 + reason ∧ q.s[3] = p.fibframe ∧ q.s[60] = nextForward s k ∧ q.s[61] = BitVec.ofNat 64 (acc * 256 + reason) ∧ q.s[62] = addr ∧
       q.s[63] = timeAt s k ∧ q.stall = 3 ∧ q.trappc = p.trappc ∧ q.trapval = p.trapval ∧
       (∀ i : Fin 64, i.val < 60 → i.val ≠ 3 → q.s[i] = p.s[i]) ∧ q.v = p.v ∧ q.p = p.p ∧ (pageFault s k acc reason addr).mem = s.mem) ∧
     ((idxOf k = 3 ∨ p.upcallVec = 0 ∨ p.inUp = true ∨ p.inTrap = true ∨ reason = 0x12) →
       pageFault s k acc reason addr = takeTrap s k ⟨0x10, 0, addr, some (acc * 256 + reason)⟩)) ∧
  (∀ (s : State) (k : Nat) (a : W64),
     let t := (trapReturn s k a).part k
     let u := (upcallReturn s k a).part k
     t.pc = a ∧ t.inTrap = false ∧ t.inUp = (s.part k).inUp ∧ t.sb = [] ∧ t.s = (s.part k).s ∧ t.trappc = (s.part k).trappc ∧
     u.pc = a ∧ u.inUp = false ∧ u.inTrap = (s.part k).inTrap ∧ u.sb = [] ∧ u.s = (s.part k).s ∧
     (trapReturn s k a).mem = s.mem ∧ (upcallReturn s k a).mem = s.mem ∧
     ∀ j, j ≠ k → (trapReturn s k a).part j = s.part j ∧ (upcallReturn s k a).part j = s.part j)

/-- R163 to R168, R77: TRAP takes the trap with its operand and resumes after itself; TRAPRET and UPRET return from their handlers, and outside one trap
ILLEGAL, reason VALUE, as do CHKPT outside CHECKPOINT and FIBSET in partition D; CHKPT reports its operand and halts the part; FIBSET gives the old frame.
The model's own choices that it rests on: log entries 21 and 25. -/
def Obligations.TrapInstructions : Prop :=
  ∀ (h : Hd) (o : OpB) (s : State),
    let p := s.part s.cur
    let x := p.src 0 o.s1
    let r : Iss := { h, reads := rds [o.s1] }
    let w : Iss := { h, reads := rds [o.s1], writes := wr o.d none }
    let tr : Iss := { h, reads := if o.s1 = .v 0 then [] else rds [o.s1], keepPass := true }
    let value := takeTrap s s.cur ⟨0x01, 0, BitVec.ofNat 64 (0x0D + p.pc.toNat / 2 % 32 * 256), none⟩
    let target : W64 := match o.s1 with
      | .v _ => p.trappc
      | _ => x &&& ~~~(1 : W64)
    (issues s r = true → exec (.trap h o) s = .next (takeTrap s s.cur ⟨0x0D, 0, x, none⟩)) ∧
    (issues s tr = true → p.inTrap = true → exec (.trapret h o) s = placedAt tr s (trapReturn s s.cur target)) ∧
    (issues s tr = true → p.inTrap = false → exec (.trapret h o) s = .next value) ∧
    (issues s r = true → p.inUp = true → exec (.upret h o) s = placedAt r s (upcallReturn s s.cur (x &&& ~~~(1 : W64)))) ∧
    (issues s r = true → p.inUp = false → exec (.upret h o) s = .next value) ∧
    (issues s w = true → p.inChk = true → idxOf s.cur ≠ 3 → storesDone s s.cur = true →
      ∃ u, exec (.chkpt h o) s = done w s u ∧ (u.part s.cur).st = .halted ∧ (u.part s.cur).chkDst = o.d ∧ (u.part s.cur).chkDone = true ∧
        (u.part s.cur).prev = .checkpointing ∧ (s.cur, some x) ∈ u.chkReports) ∧
    (issues s w = true → p.inChk = true → idxOf s.cur ≠ 3 → storesDone s s.cur = false → exec (.chkpt h o) s = .next (waitingStore w s s.cur)) ∧
    (issues s w = true → (p.inChk = false ∨ idxOf s.cur = 3) → exec (.chkpt h o) s = .next value) ∧
    (issues s w = true → idxOf s.cur ≠ 3 →
      exec (.fibset h o) s = doneWith w s fun q => Part.put { q with fibframe := x &&& ~~~(15 : W64) } o.d p.fibframe) ∧
    (issues s w = true → idxOf s.cur = 3 → exec (.fibset h o) s = .next value)

/-- The canonical form of memory: reading after a write gives the byte written there and leaves every other byte, and a write keeps the form.
The model's own choices that it rests on: log entry 2. -/
def Obligations.MemoryCells : Prop :=
  ∀ (m : List Host.Cell) (k : Nat) (v : Byte), Memory.wf m = true →
    memRead (memWrite m k v) k = v ∧ (∀ j, j ≠ k → memRead (memWrite m k v) j = memRead m j) ∧ Memory.wf (memWrite m k v) = true ∧
    ∀ n, Memory.wf n = true → (∀ j, memRead n j = memRead m j) → n = m

/-- R29, R176, R177, R196, R197: LD outside a task: an ordered one at a misaligned address traps MISALIGN; PROT and PAGE of a failed check; where a byte of the
range waits in a buffered store of the partition and another does not, it waits; a line that is lost and not forwarded gives MCHECK with its record; else it
completes, with the value of the partition's own buffered stores, or of memory, zero- or sign-extended.
R198, R199: VLD and VGATH read the four bytes of every active lane, and leave the other elements, under the same rules.
The model's own choices that it rests on: log entries 34, 35 and 83. -/
def Obligations.Loads : Prop :=
  (∀ (h : Hd) (o : OpM) (s : State),
     let p := s.part s.cur
     let k := s.cur
     let w := whoOf s k
     let a := p.addrM o
     let n := 2 ^ (o.mod.toNat / 2 % 4)
     let i : Iss := { h, reads := rds [o.base], writes := wr o.dst none }
     issues s i = true →
     (ordOfMod o.mod ≠ 0 → a.toNat % n ≠ 0 → exec (.ld h o) s = .next (takeTrap s k ⟨0x04, 0, a, none⟩)) ∧
     ((ordOfMod o.mod = 0 ∨ a.toNat % n = 0) → taskOn s k = none →
       match checkAccess s w .read [(a, n)] with
       | .error e => exec (.ld h o) s = .next (stopped s k (stopOf .read e))
       | .ok s1 =>
         let s2 := if ordOfMod o.mod = 1 then acquireAt s1 (flatOf k) (scopeOfMod o.mod) else s1
         let s3 := prepLines s2 w (linesOf a n).dedup
         let fw := forwardOf s2 k (bytesAt a n)
         let v := ofBytes (match fw with
           | .all bs => bs
           | _ => (bytesAt a n).map (loadByte s3 w))
         onLost s1 w.flat [(a, n)] = false →
           (fw = .mixed → exec (.ld h o) s = .next (waitingStore i s k)) ∧
           (∀ x l, fw ≠ .mixed → lostRead s2 w [(a, n)] = some (x, l) → exec (.ld h o) s = .next (lostTrap s k 0 x l)) ∧
           (fw ≠ .mixed → lostRead s2 w [(a, n)] = none →
             exec (.ld h o) s = done i s (s3.modPart k fun q => q.put o.dst (if o.mod.getLsbD 0 then BitVec.ofNat 64 v else sext64 (8 * n) v))))) ∧
  (∀ (h : Hd) (s : State),
     let p := s.part s.cur
     let k := s.cur
     let w := whoOf s k
     let laneOf (b m : State) (a : W64) : Nat := ofBytes (match forwardOf b k (bytesAt a 4) with
       | .all bs => bs
       | _ => (bytesAt a 4).map (loadByte m w))
     (∀ (o : OpM) (d : Fin 64),
       let i : Iss := { h, reads := rds [o.base], writes := wr o.dst none, lanes := true }
       let ls := lanesOf (lanesFor s i)
       let rs := ls.map fun L => (p.addrM o + BitVec.ofNat 64 (4 * L), 4)
       o.dst = .v d → issues s i = true →
       (ordOfMod o.mod ≠ 0 → (p.addrM o).toNat % 4 ≠ 0 → exec (.vld h o) s = .next (takeTrap s k ⟨0x04, 0, p.addrM o, none⟩)) ∧
       ((ordOfMod o.mod = 0 ∨ (p.addrM o).toNat % 4 = 0) → taskOn s k = none →
         match checkAccess s w .read rs with
         | .error e => exec (.vld h o) s = .next (stopped s k (stopOf .read e))
         | .ok s1 =>
           let s2 := if ordOfMod o.mod = 1 then acquireAt s1 (flatOf k) (scopeOfMod o.mod) else s1
           let s3 := prepLines s2 w (rs.flatMap fun r => linesOf r.1 r.2).dedup
           let fw := forwardOf s2 k (rs.flatMap fun r => bytesAt r.1 r.2)
           onLost s1 w.flat rs = false →
             (fw = .mixed → exec (.vld h o) s = .next (waitingStore i s k)) ∧
             (∀ x l, fw ≠ .mixed → lostRead s2 w rs = some (x, l) → exec (.vld h o) s = .next (lostTrap s k 0 x l)) ∧
             (fw ≠ .mixed → lostRead s2 w rs = none → ∃ u, exec (.vld h o) s = done i s u ∧ u.mem = s3.mem ∧
               ∀ L, L < 64 → elemOf ((u.part k).getV d) 32 L = if (lanesFor s i).getLsbD L
                 then laneOf s2 s3 (p.addrM o + BitVec.ofNat 64 (4 * L))
                 else elemOf (p.getV d) 32 L))) ∧
     (∀ (o : OpC) (d : Fin 64),
       let i : Iss := { h, reads := rds [o.s1, o.s2], writes := wr o.d none, lanes := true }
       let ls := lanesOf (lanesFor s i)
       let addr := gatherAddr o.mod (p.src 0 o.s1) (p.vreg o.s2)
       let rs := ls.map fun L => (addr L, 4)
       o.d = .v d → issues s i = true →
       (∀ L, ls.find? (fun L => (addr L).toNat % 4 ≠ 0) = some L → exec (.vgath h o) s = .next (takeTrap s k ⟨0x04, 0, addr L, none⟩)) ∧
       ((∀ L ∈ ls, (addr L).toNat % 4 = 0) → taskOn s k = none →
         match checkAccess s w .read rs with
         | .error e => exec (.vgath h o) s = .next (stopped s k (stopOf .read e))
         | .ok s1 =>
           let s3 := prepLines s1 w (rs.flatMap fun r => linesOf r.1 r.2).dedup
           onLost s1 w.flat rs = false →
             ((∃ r ∈ rs, forwardOf s1 k (bytesAt r.1 r.2) = .mixed) → exec (.vgath h o) s = .next (waitingStore i s k)) ∧
             ((∀ r ∈ rs, forwardOf s1 k (bytesAt r.1 r.2) ≠ .mixed) →
               (∀ x l, lostRead s1 w rs = some (x, l) → exec (.vgath h o) s = .next (lostTrap s k 0 x l)) ∧
               (lostRead s1 w rs = none → ∃ u, exec (.vgath h o) s = done i s u ∧ u.mem = s3.mem ∧
                 ∀ L, L < 64 → elemOf ((u.part k).getV d) 32 L = if (lanesFor s i).getLsbD L
                   then laneOf s1 s3 (addr L)
                   else elemOf (p.getV d) 32 L))))) ∧
  -- what is lost to a load: a range that is not forwarded whole and touches a lost line
  (∀ (s : State) (k : Nat) (a : W64) (n : Nat), taskOn s k = none →
    (∀ x l, lostRead s (whoOf s k) [(a, n)] = some (x, l) → x = a ∧ l ∈ linesOf a n ∧ lostTo s (whoOf s k) l = true) ∧
    (lostRead s (whoOf s k) [(a, n)] = none ↔ (∃ bs, forwardOf s k (bytesAt a n) = .all bs) ∨ ∀ l ∈ linesOf a n, lostTo s (whoOf s k) l = false))

/-- R176, R177, R197 to R199: a store outside a task whose bytes are writable and finds room enters its core's store buffer, the youngest, with its bytes at
the addresses that the form computes, and its own bytes reach memory only when the store is performed (a release form first writes back the guest copies that
its scope asks for, and waits for the partition's earlier stores). Where the buffer is full it waits. R240: a store that would fill a line of the part's stash
which the home has lost takes MCHECK.
The model's own choices that it rests on: log entries 34, 174 and 184. -/
def Obligations.Stores : Prop :=
  ∀ (h : Hd) (s : State),
    let p := s.part s.cur
    let k := s.cur
    let w := whoOf s k
    let enters (ins : Instr) (i : Iss) (u : State) (addr : W64) (bytes : List (W64 × Byte)) (ordered : Bool) : Prop :=
      (∀ l, fillLost u k bytes = some l → exec ins s = .next (lostTrap s k 1 addr l)) ∧
      (fillLost u k bytes = none →
        (32 ≤ (u.core (flatOf k)).sbuf.length → exec ins s = .next (waitingStore i s k)) ∧
        ((u.core (flatOf k)).sbuf.length < 32 →
          exec ins s = done i s (u.modCore (flatOf k) fun c => { c with sbuf := c.sbuf ++ [⟨k, p.ctx, p.pc, addr, bytes, bytes, false, ordered⟩] })))
    let checked (ins : Instr) (rs : List (W64 × Nat)) (q : State → Prop) : Prop :=
      taskOn s k = none →
      match checkAccess s w .write rs with
      | .error e => exec ins s = .next (stopped s k (stopOf .write e))
      | .ok s1 => onLost s1 w.flat rs = false → q s1
    let released (ins : Instr) (i : Iss) (mod : BitVec 8) (q : State → Prop) (s1 : State) : Prop :=
      (ordOfMod mod = 2 → storesDone s1 k = false → exec ins s = .next (waitingStore i s k)) ∧
      ((ordOfMod mod = 2 → storesDone s1 k = true) → q (if ordOfMod mod = 2 then releaseAt s1 (flatOf k) (scopeOfMod mod) else s1))
    (∀ o : OpM,
      let a := p.addrM o
      let n := 2 ^ (o.mod.toNat / 2 % 4)
      let i : Iss := { h, store := true, reads := rds [o.data, o.base] }
      issues s i = true →
      (ordOfMod o.mod ≠ 0 → a.toNat % n ≠ 0 → exec (.st h o) s = .next (takeTrap s k ⟨0x04, 0, a, none⟩)) ∧
      ((ordOfMod o.mod = 0 ∨ a.toNat % n = 0) → checked (.st h o) [(a, n)] (released (.st h o) i o.mod fun u =>
        enters (.st h o) i u a ((bytesAt a n).zip (bytesOf n (p.src 0 o.data).toNat)) false))) ∧
    (∀ o : OpM,
      let a := p.addrM o
      let i : Iss := { h, store := true, reads := rds [o.data, o.base], lanes := true }
      let ls := lanesOf (lanesFor s i)
      issues s i = true →
      (ordOfMod o.mod ≠ 0 → a.toNat % 4 ≠ 0 → exec (.vst h o) s = .next (takeTrap s k ⟨0x04, 0, a, none⟩)) ∧
      ((ordOfMod o.mod = 0 ∨ a.toNat % 4 = 0) → checked (.vst h o) (ls.map fun L => (a + BitVec.ofNat 64 (4 * L), 4)) (released (.vst h o) i o.mod fun u =>
        enters (.vst h o) i u a (ls.flatMap fun L => (bytesAt (a + BitVec.ofNat 64 (4 * L)) 4).zip (bytesOf 4 (elemOf (p.vreg o.data) 32 L))) false))) ∧
    (∀ o : OpC,
      let i : Iss := { h, store := true, reads := rds [o.s1, o.s2, o.s3], lanes := true }
      let ls := lanesOf (lanesFor s i)
      let addr := gatherAddr o.mod (p.src 0 o.s1) (p.vreg o.s2)
      issues s i = true →
      (∀ L, ls.find? (fun L => (addr L).toNat % 4 ≠ 0) = some L → exec (.vscat h o) s = .next (takeTrap s k ⟨0x04, 0, addr L, none⟩)) ∧
      ((∀ L ∈ ls, (addr L).toNat % 4 = 0) → checked (.vscat h o) (ls.map fun L => (addr L, 4)) fun u =>
        enters (.vscat h o) i u ((ls.head?.map addr).getD 0) (ls.flatMap fun L => (bytesAt (addr L) 4).zip (bytesOf 4 (elemOf (p.vreg o.s3) 32 L))) true))

/-- R175, R177, R192 to R195, R206, R225, R185, R240: the events of memory, each of which completes in every state and does the following.
STORE_PERFORMED: the oldest store of a core's buffer performs one granule of its path, which the state's free value picks (of a VSCAT its bytes in their order:
R199), and leaves the buffer with its last granule; what is written of a scratchpad line, where no watch is armed, are exactly the cells of the granule's bytes.
A store to a replicated page, and a partial one to a lost line, is dropped there with its record and its deferred trap.
DEST_CHECK_AT_HOME: the next destination of a core's oldest multicast store is written, or denied with its bit and its reason, and the store ends with its last
destination; a denied one leaves memory as it was. ERROR_RECORD_RESERVE: a record takes the slot at PROD, or is dropped where the ring is full.
GUEST_COPY_EXPIRY: a die's guest copy of a line is written to its home and dropped, and every stash line of it under the guest rules is recalled: written back
where it is dirty, and INVALID.
The model's own choices that it rests on: log entries 2, 35, 37, 38, 176, 183, 184, 187 and 188. -/
def Obligations.MemoryEvents : Prop :=
  ((∀ (flat : Nat) (s : State), ∃ t, exec (.storePerformed flat) s = .next t ∧
     ((s.core flat).sbuf = [] → t = s) ∧
     (∀ e es, (s.core flat).sbuf = e :: es →
       let r := storeAct { s with free := s.free + 1 } e (Config.nextGranule s.free)
       t = r.1.modCore flat fun c => { c with sbuf := if r.2.left.isEmpty then c.sbuf.tail else r.2 :: c.sbuf.tail })) ∧
   (∀ (s : State) (e : StoreEnt) (pick : Nat),
     let w : Who := ⟨flatOf e.k, e.k, e.ctx⟩
     let gs := (e.left.map fun b => granuleAt s w.flat b.1).dedup
     ∀ g, (if e.ordered then e.left.head?.map fun b => granuleAt s w.flat b.1 else gs[pick % gs.length]?) = some g →
       let line := lineOf g
       let here := e.left.filter fun b => lineOf b.1 = line
       let rest : StoreEnt := { e with left := e.left.filter fun b => lineOf b.1 ≠ line }
       let whole : Prop := e.ordered = false ∧ ∀ j, j < 64 → ∃ b ∈ e.bytes, b.1 = line + BitVec.ofNat 64 j
       let sc := scopeOf w.flat (homeOf s w.flat line)
       let dropped := writeRecord s w.ctx w.flat
         (record64 [(0, 1, 0x0D), (1, 1, 0x03), (2, 1, 1), (3, 1, sc), (8, 8, e.pc.toNat), (16, 1, 10), (24, 8, e.addr.toNat)])
       let lost := mcheckWrite s w.ctx w.flat (mcheckRecord 1 1 w.flat e.pc e.addr line)
       (cutOff s w.flat line = true → storeAct s e pick = (s, e)) ∧
       (cutOff s w.flat line = false →
         (isReplicated s w.flat line = true → storeAct s e pick =
           if e.told then (s, rest) else (addDeferred dropped.1 w.k ⟨false, sc, 0x03, 0x06, dropped.2⟩, { rest with told := true })) ∧
         (isReplicated s w.flat line = false → isLost s w.flat line = true →
           (whole → storeAct s e pick = (performLine (healLines s w.flat [line]) w line here, rest)) ∧
           (¬ whole → storeAct s e pick = (addDeferred lost.1 w.k ⟨false, scopeTo s w.flat line, 0x0C, 0, lost.2⟩, rest))) ∧
         (isReplicated s w.flat line = false → isLost s w.flat line = false →
           (e.ordered = false → storeAct s e pick = (performLine s w line (here.filter fun b => granuleAt s w.flat b.1 = g),
             { e with left := e.left.filter fun b => granuleAt s w.flat b.1 ≠ g })) ∧
           (e.ordered = true → ∃ first later, e.left = first ++ later ∧ first ≠ [] ∧ (∀ b ∈ first, granuleAt s w.flat b.1 = g) ∧
             storeAct s e pick = (performLine s w line first, { e with left := later }))))) ∧
   (∀ (s : State) (w : Who) (line : W64) (bs : List (W64 × Byte)), inSpad line = true → (∀ b ∈ bs, lineOf b.1 = line) → s.watches = [] → Memory.wf s.mem = true →
     (∀ key, (∀ b ∈ bs, homeKey s w.flat b.1 ≠ some key) → memRead (performLine s w line bs).mem key = memRead s.mem key) ∧
     (∀ before va b after key, bs = before ++ (va, b) :: after → homeKey s w.flat va = some key → (∀ c ∈ after, homeKey s w.flat c.1 ≠ some key) →
       memRead (performLine s w line bs).mem key = b))) ∧
  ((∀ (flat : Nat) (s : State), ∃ t, exec (.destCheckAtHome flat) s = .next t ∧
     ((s.core flat).mcast = [] → t = s) ∧
     (∀ m ms, (s.core flat).mcast = m :: ms →
       (m.todo = [] → t = mcEnd (s.modCore flat fun c => { c with mcast := ms }) m) ∧
       (∀ j a todo, m.todo = (j, a) :: todo →
         (cutOff s flat a = true → t = s) ∧
         (cutOff s flat a = false →
           (mcDeny s m a = 0 → todo ≠ [] → t = (mcPerform s m a).modCore flat fun c => { c with mcast := { m with todo } :: ms }) ∧
           (mcDeny s m a = 0 → todo = [] → t = mcEnd ((mcPerform s m a).modCore flat fun c => { c with mcast := ms }) { m with todo }) ∧
           (mcDeny s m a ≠ 0 →
             let m1 := { m with todo, deny := m.deny ||| 2 ^ j, reasons := m.reasons ++ [(j, mcDeny s m a)] }
             (todo ≠ [] → t = (s.modCore flat fun c => { c with mcast := m1 :: ms }) ∧ t.mem = s.mem) ∧
             (todo = [] → t = mcEnd (s.modCore flat fun c => { c with mcast := ms }) m1)))))) ∧
   (∀ (ctx : Nat) (record : List Byte) (s : State), ∃ t, exec (.errorRecordReserve ctx record) s = .next t ∧
     (record.length = 64 →
       let q := (s.ctx ctx).errq
       let u := toHome s 0 (lineOf q)
       let prod := homeNum u 0 q 8
       let room := (prod + 2 ^ 64 - homeNum u 0 (q + 8) 8) % 2 ^ 64 < 64
       t = (writeRecord s ctx 0 record).1 ∧
       (homeKey s 0 q = none → t = s) ∧
       (homeKey s 0 q ≠ none → room → (writeRecord s ctx 0 record).2 = q + 64 + BitVec.ofNat 64 (64 * (prod % 64))) ∧
       (homeKey s 0 q ≠ none → ¬ room → t = homeWrite u 0 (q + 16) (bytesOf 8 (homeNum u 0 (q + 16) 8 + 1)) ∧ (writeRecord s ctx 0 record).2 = 0))) ∧
   (∀ (dk line : Nat) (s : State),
     let l := lineOf (BitVec.ofNat 64 line)
     let u := guestDrop s dk l
     ∃ t, exec (.guestCopyExpiry dk line) s = .next t ∧ guestOf t dk l = none ∧
       t = (stashGuestLines u dk).foldl (fun s e => if e.2.2.1 = l then stashRecallLine s e.1 l else s) u) ∧
   -- a stash line that is recalled, and a guest copy that is dropped
   (∀ (s : State) (k : Nat) (line : W64) (m : Stash), stashOf (s.part k) line = some m →
     (∀ d, mfind m.lines line.toNat = some d → stashRecallLine s k line = stashMark (if d then stashWriteBack s k m line else s) k m.g line none) ∧
     (mfind m.lines line.toNat = none → stashRecallLine s k line = s) ∧
     (m.lineLost s (flatOf k) line = false →
       stashWriteBack s k m line = homeWrite s (flatOf k) line (physBytes s.mem (spadKey (flatOf k) (m.p + (line.toNat - m.g.toNat))) 64))) ∧
   (∀ (s : State) (dk : Nat) (g : Guest), guestOf s dk g.line = some g →
     { guestDrop s dk g.line with guests := [] } = { guestWriteThrough s g with guests := [] } ∧
     (g.dirty = 0 → guestWriteThrough s g = s) ∧
     (g.dirty ≠ 0 → { guestWriteThrough s g with guests := [] } =
       { (runsOf g.stored).foldl (fun s r => homeWriteAll s (dieBase g.dk) r) (recallOthers s none (dieBase g.dk) g.line) with guests := [] })))

/-- R200, R201, R193, R431: PREF never faults and completes; it may fill a guest copy of a line that the core may read, whose stash lines in other parts are then
recalled, and changes no register; in a task nothing. FENCE, but for .acq, waits for the partition's stores, and writes the guest copies of its die; but for .rel
it invalidates them; it raises the deferred trap of the first record in its scope; inside a task it has no effect.
The model's own choices that it rests on: log entries 24, 31 and 34. -/
def Obligations.Fences : Prop :=
  ∀ (h : Hd) (o : OpC) (s : State),
    let p := s.part s.cur
    let k := s.cur
    let rel := decide (ordOfMod o.mod ≠ 1)
    let scope := scopeOfMod o.mod
    let s1 := if rel then releaseAt s (flatOf k) scope else s
    (let line := lineOf (p.src 0 o.s1 + p.src 0 o.s2)
     let i : Iss := { h, reads := rds [o.s1, o.s2] }
     (taskOn s k = none → Leaves (.pref h o) i s (match checkAccess s (whoOf s k) .read [(line, 1)] with
       | .ok _ => if (stashOf p line).isSome then s else fillGuest (recallOthers s (some k) (flatOf k) line) (flatOf k) line
       | .error _ => s)) ∧
     ((taskOn s k).isSome = true → Leaves (.pref h o) i s s) ∧
     (∀ t : State, { fillGuest t (flatOf k) line with guests := t.guests, free := t.free } = t) ∧
     ((∀ kp ∈ s.parts, kp.1 = k ∨ kp.2.stash = []) → s.away = [] → recallOthers s (some k) (flatOf k) line = s) ∧
     (∀ j, let r := (recallOthers s (some k) (flatOf k) line).part j
       r.s = (s.part j).s ∧ r.v = (s.part j).v ∧ r.p = (s.part j).p ∧ r.pc = (s.part j).pc)) ∧
    ((taskOn s k).isSome = true → Leaves (.fence h o) { h } s s) ∧
    (taskOn s k = none → issues s { h } = true →
      (rel = true → storesDone s k = false → exec (.fence h o) s = .next (waitingStore { h } s k)) ∧
      (rel = false → ((s.core (flatOf k)).mcast.any fun e => e.k = k && decide (e.scope ≤ scope)) = true →
        exec (.fence h o) s = .next (waitingStore { h } s k)) ∧
      ((rel = true → storesDone s k = true) →
        (rel = false → ((s.core (flatOf k)).mcast.any fun e => e.k = k && decide (e.scope ≤ scope)) = false) →
        (fenceRecord (s1.part k) scope rel = none → exec (.fence h o) s = done { h } s (if ordOfMod o.mod ≠ 2 then acquireAt s1 (flatOf k) scope else s1)) ∧
        (∀ d, fenceRecord (s1.part k) scope rel = some d → exec (.fence h o) s =
          .next (takeTrap (markTaken (s1.modPart k fun q => { q with deferred := q.deferred.erase d }) (s1.part k).ctx (flatOf k) d.record) k
            ⟨d.code, 1, d.record, if d.code = 3 then some ((if d.mcast then 3 else 1) * 256 + d.reason % 256) else none⟩))))

/-- R189 to R191, R202: an atomic acts at the owner of its location, in one act: D receives the old value, the location the new one; the predicate form
sets its predicate. A location whose owner lacks the operation traps UNSUPPORTED, or clears the predicate; a misaligned address traps MISALIGN; inside a
task an atomic traps TASK, reason NONSPEC.
R191, R202: what an atomic leaves at its location, by operation, for numbers of its width.
The model's own choices that it rests on: log entries 34, 35, 176 and 185. -/
def Obligations.Atomics : Prop :=
  (∀ (h : Hd) (o : OpE) (s s1 : State),
     let p := s.part s.cur
     let k := s.cur
     let flat := flatOf k
     let slot := o.lit.getD 0
     let a := p.src slot o.s1
     let n := if o.mod.toNat % 4 = 2 then 4 else 8
     let q := o.mod.getLsbD 2
     let pd : Dst := match o.s4 with
       | .c i => if q then .p ⟨i.val % 8, Nat.mod_lt _ (by decide)⟩ else .none
       | _ => .none
     let ord := ordOfMod o.mod
     let does (ins : Instr) (sub : Nat) (srcs : List Src) : Prop :=
       let i : Iss := { h, reads := rds srcs, writes := wr o.d none ++ wr pd none }
       let s2 := if ord = 2 ∨ ord = 3 then releaseAt s1 flat (scopeOfMod o.mod) else s1
       let x := if sub = 9 then p.srcF (.flt (if n = 4 then fmt32 else fmt64)) slot o.s2 else (p.src slot o.s2).toNat
       let r := atomicAt s2 flat a sub n x (p.src slot o.s3).toNat
       issues s i = true →
       ((taskOn s k).isSome = true → exec ins s = .next (takeTrap s k ⟨0x15, 0, 0x300, none⟩)) ∧
       (taskOn s k = none → a.toNat % n ≠ 0 → exec ins s = .next (takeTrap s k ⟨0x04, 0, a, none⟩)) ∧
       (taskOn s k = none → a.toNat % n = 0 → checkAccess s (whoOf s k) .atomic [(a, n)] = .ok s1 → onLost s1 flat [(a, n)] = false →
         (bufOverlaps s k a n = false → isLost s flat a = true → exec ins s = .next (lostTrap s k 3 a (lineOf a))) ∧
         (isLost s flat a = false → bufOverlaps s k a n = false → (ord = 2 ∨ ord = 3 → storesDone s1 k = true) →
         (ownerDoes s flat a sub n = true →
           let u := (r.1.modPart k fun z => z.put o.d (BitVec.ofNat 64 r.2)).modPart k fun z => z.put pd ones64
           exec ins s = done i s (if ord = 1 ∨ ord = 3 then acquireAt u flat (scopeOfMod o.mod) else u)) ∧
         (ownerDoes s flat a sub n = false → q = true → exec ins s = done i s (s2.modPart k fun z => z.put pd 0)) ∧
         (ownerDoes s flat a sub n = false → q = false → exec ins s = .next (takeTrap s k ⟨0x08, 0, a, none⟩))))
     does (.amoAdd h o) 0 [o.s1, o.s2] ∧ does (.amoAnd h o) 1 [o.s1, o.s2] ∧ does (.amoOr h o) 2 [o.s1, o.s2] ∧ does (.amoXor h o) 3 [o.s1, o.s2] ∧
     does (.amoMin h o) 4 [o.s1, o.s2] ∧ does (.amoMax h o) 5 [o.s1, o.s2] ∧ does (.amoMinn h o) 6 [o.s1, o.s2] ∧ does (.amoMaxn h o) 7 [o.s1, o.s2] ∧
     does (.amoSwap h o) 8 [o.s1, o.s2] ∧ does (.amoFadd h o) 9 [o.s1, o.s2] ∧ does (.cas h o) 16 [o.s1, o.s2, o.s3]) ∧
  (∀ (n old x y : Nat), (n = 4 ∨ n = 8) → old < 2 ^ (8 * n) → x < 2 ^ (8 * n) → y < 2 ^ (8 * n) →
     let sg (v : Nat) : Int := intOf true (8 * n) v
     amoNew 0 n old x y = (old + x) % 2 ^ (8 * n) ∧ amoNew 1 n old x y = old &&& x ∧ amoNew 2 n old x y = old ||| x ∧
     amoNew 3 n old x y = old ^^^ x ∧ sg (amoNew 4 n old x y) = min (sg old) (sg x) ∧ sg (amoNew 5 n old x y) = max (sg old) (sg x) ∧
     amoNew 6 n old x y = min old x ∧ amoNew 7 n old x y = max old x ∧ amoNew 8 n old x y = x ∧
     amoNew 16 n old x y = (if old = x then y else old) ∧
     (∀ sub, sub ≤ 8 ∨ sub = 16 → amoNew sub n old x y < 2 ^ (8 * n)))

/-- R192, R203: STM and STRED send a destination for each bit of their mask, in order, and go on; STM takes its datum as it is, STRED one of a floating-point TYPE as a number of that type; a zero mask sends nothing; inside a task they trap TASK.
The model's own choices that it rests on: log entry 183. -/
def Obligations.MulticastStores : Prop :=
  ∀ (h : Hd) (o : OpE) (s : State),
    let p := s.part s.cur
    let k := s.cur
    let i : Iss := { h, reads := rds [o.s1, o.s2, o.s3] }
    let mask := (p.src 0 o.s3).toNat % 256
    let typ := o.mod.toNat % 8
    let data (red : Bool) :=
      if 4 ≤ typ then bytesOf 256 (p.vreg o.s1).toNat
      else if red = true ∧ (typ = 2 ∨ typ = 3) then bytesOf (mcSize typ) (p.srcF (.flt (if typ = 2 then fmt32 else fmt64)) (o.lit.getD 0) o.s1)
      else bytesOf (mcSize typ) (p.src (o.lit.getD 0) o.s1).toNat
    let todo := ((List.range 8).filter fun j => mask / 2 ^ j % 2 = 1).map fun j =>
      (j, BitVec.ofNat 64 (elemOf (p.vreg o.s2) 32 (2 * j) + 2 ^ 32 * elemOf (p.vreg o.s2) 32 (2 * j + 1)))
    let s1 := if o.mod.getLsbD 6 then releaseAt s (flatOf k) (scopeOfMod o.mod) else s
    let sends (ins : Instr) (red : Bool) : Prop :=
      issues s i = true →
      ((taskOn s k).isSome = true → exec ins s = .next (takeTrap s k ⟨0x15, 0, 0x300, none⟩)) ∧
      (taskOn s k = none → mask = 0 → exec ins s = done i s s) ∧
      (taskOn s k = none → mask ≠ 0 → o.mod.getLsbD 6 = true → storesDone s k = false → exec ins s = .next (waitingStore i s k)) ∧
      (taskOn s k = none → mask ≠ 0 → (o.mod.getLsbD 6 = true → storesDone s k = true) →
        exec ins s = done i s (s1.modCore (flatOf k) fun c =>
          { c with mcast := c.mcast ++ [⟨k, p.ctx, p.pc, red, scopeOfMod o.mod, typ, data red, mask, todo, 0, []⟩] }))
    sends (.stm h o) false ∧ sends (.stred h o) true

/-- R121: MFS reads a special register, MTS writes one as its table says; a number that is none, and a value that a register refuses, trap ILLEGAL,
reason VALUE, with no other effect.
R48 to R53, R93 to R95, R162, R174, R216: what numbers of special registers read as, in a partition A to C; and the numbers that partition D refuses.
R48 to R53, R121, R162: what MTS does to the writable fields: read-only numbers keep their values, an address register drops its bit 0, FIBFRAME its low
four bits, and FPCTL refuses a rounding mode above 4.
The model's own choices that it rests on: log entries 8 and 81. -/
def Obligations.SpecialRegisters : Prop :=
  (∀ (h : Hd) (o : OpL) (s : State),
     let p := s.part s.cur
     let n := o.lit.toNat
     let live := n = 0x000 || n = 0x011 || n = 0x033 || (0x040 ≤ n && n ≤ 0x043) || n = 0x048
     let r : Iss := { h, writes := wr o.d (if live then none else some 1) }
     let w : Iss := { h, reads := rds [o.s1], keepPass := n = 0x070 }
     let value := takeTrap s s.cur ⟨0x01, 0, BitVec.ofNat 64 (0x0D + p.pc.toNat / 2 % 32 * 256), none⟩
     (∀ v, srRead s s.cur n = some v → Leaves (.mfs h o) r s ((srSeen s s.cur n v).modPart s.cur (·.put o.d v))) ∧
     (srRead s s.cur n = none → issues s r = true → exec (.mfs h o) s = .next value) ∧
     (∀ q, p.srWrite (idxOf s.cur) n (p.src 0 o.s1) = some q → Gives (.mts h o) w s fun _ => q) ∧
     (p.srWrite (idxOf s.cur) n (p.src 0 o.s1) = none → issues s w = true → exec (.mts h o) s = .next value)) ∧
  (∀ (s : State) (k : Nat),
     let p := s.part k
     let num (x : Nat) : Option W64 := some (BitVec.ofNat 64 x)
     (idxOf k ≠ 3 →
       srRead s k 0x001 = num (flatOf k) ∧ srRead s k 0x003 = num p.unitIdx.toNat ∧ srRead s k 0x004 = num p.unitCnt.toNat ∧
       srRead s k 0x005 = some p.launchPtr ∧ srRead s k 0x006 = some p.cbankPtr ∧ srRead s k 0x007 = num (s.ctx p.ctx).domain.toNat ∧
       srRead s k 0x008 = num (idxOf k) ∧ srRead s k 0x010 = num p.fpctl.toNat ∧ srRead s k 0x011 = num p.fpflags.toNat ∧
       srRead s k 0x012 = num (if p.stallchk then 1 else 0) ∧ srRead s k 0x013 = some p.srseed ∧ srRead s k 0x014 = some p.srctr ∧
       srRead s k 0x021 = some p.trappc ∧ srRead s k 0x022 = some p.trapval ∧ srRead s k 0x023 = some p.trapvec ∧ srRead s k 0x024 = some p.upcallVec ∧
       srRead s k 0x025 = num p.upcallInfo.toNat ∧ srRead s k 0x026 = some p.chkptVec ∧ srRead s k 0x027 = some p.fibframe ∧
       srRead s k 0x028 = num ((if p.inTrap then 1 else 0) + (if p.inUp then 2 else 0) + (if p.inChk then 4 else 0)) ∧
       srRead s k 0x029 = some p.upcallAddr ∧ srRead s k 0x080 = num p.faultinfo.toNat ∧ srRead s k 0x084 = some (s.ctx p.ctx).errq) ∧
     (idxOf k = 3 → ∀ n v, (0x020 ≤ n ∧ n ≤ 0x029) ∨ (0x040 ≤ n ∧ n ≤ 0x04C) ∨ (0x070 ≤ n ∧ n ≤ 0x076) ∨ n = 0x080 ∨ n = 0x088 →
       srRead s k n = none ∧ p.srWrite 3 n v = none)) ∧
  (∀ (p : Part) (idx : Nat) (v : W64), idx < 3 →
     (∀ n, n ≤ 0x009 ∨ n = 0x020 ∨ n = 0x022 ∨ n = 0x025 ∨ n = 0x028 ∨ n = 0x029 ∨ (0x030 ≤ n ∧ n ≤ 0x033) ∨ (0x040 ≤ n ∧ n ≤ 0x04C) ∨ n = 0x076 ∨ n = 0x080 →
       p.srWrite idx n v = some p) ∧
     ((v &&& 7).toNat ≤ 4 → p.srWrite idx 0x010 v = some { p with fpctl := v.setWidth 4 }) ∧
     (4 < (v &&& 7).toNat → p.srWrite idx 0x010 v = none) ∧
     p.srWrite idx 0x011 v = some { p with fpflags := v.setWidth 5 } ∧
     p.srWrite idx 0x012 v = some { p with stallchk := v.getLsbD 0 } ∧
     p.srWrite idx 0x013 v = some { p with srseed := v } ∧ p.srWrite idx 0x014 v = some { p with srctr := v } ∧
     p.srWrite idx 0x021 v = some { p with trappc := v &&& ~~~(1 : W64) } ∧
     p.srWrite idx 0x023 v = some { p with trapvec := v &&& ~~~(1 : W64) } ∧
     p.srWrite idx 0x024 v = some { p with upcallVec := v &&& ~~~(1 : W64) } ∧
     p.srWrite idx 0x026 v = some { p with chkptVec := v &&& ~~~(1 : W64) } ∧
     p.srWrite idx 0x027 v = some { p with fibframe := v &&& ~~~(15 : W64) })

/-- R226, R232, R233, R237: SBIND and SBINDX read their descriptor and bind the stream that it describes, once the partition's stores are performed; a stream that is
bound traps STREAM, reason BOUND, a malformed descriptor, or an index stream that cannot serve, DESCRIPTOR. SDONE unbinds a drained stream and gives its
position, and waits for one that is not drained; SSKIP skips and gives what it skipped; SSTAT gives the status. SDONE, SSKIP and SSTAT of a captured stream trap
STREAM, reason CAPTURED.
R239 to R241: STASH adds a mapping, UNSTASH writes its dirty lines back and removes it, FLUSH writes back the dirty lines of a range; a mapping that breaks
the rules traps. A running task may execute none of the three (R431).
The model's own choices that it rests on: log entries 34, 83, 160, 162, 163, 187 and 195. -/
def Obligations.StreamInstructions : Prop :=
  (∀ (h : Hd) (o : OpE) (s : State),
     let p := s.part s.cur
     let k := s.cur
     let w := whoOf s k
     let a := p.src (o.lit.getD 0) o.s1
     let b : Iss := { h, reads := rds [o.s1] }
     let r := streamOfDst o.d
     let q := streamOfSrc o.s1
     let t := p.streams[q]
     let d : Iss := { h, writes := wr o.d none }
     let stream (n : Fin 8) (reason : Nat) := takeTrap s k ⟨0x05, 0, BitVec.ofNat 64 (reason * 256 + (56 + n.val)), none⟩
     -- the descriptor's bytes, read as LD reads them
     let reads (ins : Instr) (q : State → List Byte → Prop) : Prop :=
       issues s b = true →
       (a.toNat % 64 ≠ 0 → exec ins s = .next (takeTrap s k ⟨0x04, 0, a, none⟩)) ∧
       (a.toNat % 64 = 0 → taskOn s k = none → match checkAccess s w .read [(a, 64)] with
         | .error e => exec ins s = .next (stopped s k (stopOf .read e))
         | .ok s1 => onLost s1 w.flat [(a, 64)] = false →
           (forwardOf s1 k (bytesAt a 64) = .mixed → exec ins s = .next (waitingStore b s k)) ∧
           (forwardOf s1 k (bytesAt a 64) ≠ .mixed → lostRead s1 w [(a, 64)] = none →
             let s3 := prepLines s1 w (linesOf a 64).dedup
             q s3 (match forwardOf s1 k (bytesAt a 64) with
               | .all bs => bs
               | _ => (bytesAt a 64).map (loadByte s3 w))))
     -- SBIND
     (reads (.sbind h o) fun s3 bs =>
       let x := streamFrom bs (o.mod.getLsbD 0) p.pc
       let sc := engineScope s3 (flatOf k) x.ranges
       (p.streams[r].state ≠ .unbound → exec (.sbind h o) s = .next (stream r 0x04)) ∧
       (p.streams[r].state = .unbound → descBad bs false = true → exec (.sbind h o) s = .next (stream r 0x05)) ∧
       (p.streams[r].state = .unbound → descBad bs false = false →
         (storesDone s3 k = false → exec (.sbind h o) s = .next (waitingStore b s k)) ∧
         (storesDone s3 k = true → exec (.sbind h o) s = done b s ((releaseAt s3 (flatOf k) sc).modPart k fun z =>
           { z.forget r with streams := z.streams.set r { x with scope := sc } })))) ∧
     -- SBINDX
     (let i := streamOfSrc o.s2
      let x := p.streams[i]
      let serves : Prop := x.state ≠ .unbound ∧ x.write = false ∧ x.elw = 0 ∧ x.captured = false ∧ i ≠ r
      reads (.sbindx h o) fun s3 bs =>
        (p.streams[r].state ≠ .unbound → exec (.sbindx h o) s = .next (stream r 0x04)) ∧
        (p.streams[r].state = .unbound → (descBad bs true = true ∨ ¬ serves) → exec (.sbindx h o) s = .next (stream r 0x05)) ∧
        (p.streams[r].state = .unbound → descBad bs true = false → serves →
          (storesDone s3 k = false → exec (.sbindx h o) s = .next (waitingStore b s k)) ∧
          (storesDone s3 k = true → exec (.sbindx h o) s = done b s ((releaseAt s3 (flatOf k) 5).modPart k fun z => { z.forget r with
            streams := (p.streams.set i { x with captured := true }).set r
              { streamFrom bs false p.pc with n := x.n - x.pos * 64, index := some i, ibase := x.pos, scope := 5 } })))) ∧
     -- SDONE
     (t.state = .unbound → Gives (.sdone h o) d s (·.put o.d 0)) ∧
     (t.state ≠ .unbound → t.captured = true → issues s d = true → exec (.sdone h o) s = .next (stream q 0x03)) ∧
     (t.state ≠ .unbound → t.captured = false → t.undrained = true → issues s d = true → exec (.sdone h o) s = .next (waitingStore d s k)) ∧
     (t.state ≠ .unbound → t.captured = false → t.write = false → Gives (.sdone h o) d s fun z => (z.unbind q).put o.d (BitVec.ofNat 64 t.pos)) ∧
     (t.state ≠ .unbound → t.captured = false → t.write = true → t.undrained = false →
       Leaves (.sdone h o) d s ((acquireAt (s.modPart k (·.unbind q)) (flatOf k) t.scope).modPart k (·.put o.d (BitVec.ofNat 64 t.pos)))) ∧
     -- SSKIP
     (let n := t.skip ((p.src (o.lit.getD 0) o.s2).toNat % 2 ^ 32)
      let e : Iss := { h, reads := rds [o.s2], writes := wr o.d none }
      (t.state = .unbound → Gives (.sskip h o) e s (·.put o.d 0)) ∧
      (t.state ≠ .unbound → t.captured = true → issues s e = true → exec (.sskip h o) s = .next (stream q 0x03)) ∧
      (t.state ≠ .unbound → t.captured = false → Gives (.sskip h o) e s fun z => (z.replace 8 q n.1).put o.d (BitVec.ofNat 64 n.2)) ∧
      (n.1.index = none → p.replace 8 q n.1 = { p with streams := p.streams.set q n.1 }) ∧
      (∀ i, n.1.index = some i → p.streams[i].index = none →
        p.replace 8 q n.1 = { p with streams := (p.streams.set q { n.1 with ixs := [] }).set i (p.streams[i].reindex n.1) })) ∧
     -- SSTAT
     (t.captured = false → Gives (.sstat h o) d s (·.put o.d t.stat)) ∧
     (t.captured = true → issues s d = true → exec (.sstat h o) s = .next (stream q 0x03))) ∧
  (∀ (h : Hd) (o : OpC) (s : State),
     let p := s.part s.cur
     let k := s.cur
     let g := p.src 0 o.s1
     let a := p.src 0 o.s2
     let size := (p.src 0 o.s3).toNat
     let i (l : List Src) : Iss := { h, reads := rds l }
     let value := takeTrap s k ⟨0x01, 0, BitVec.ofNat 64 (0x0D + p.pc.toNat / 2 % 32 * 256), none⟩
     let meets (l : Nat) : Bool := a.toNat = 0 || (decide (g.toNat / 64 * 64 ≤ l) && decide (l < g.toNat + a.toNat))
     ((taskOn s k).isSome = true →
       (issues s (i [o.s1, o.s2, o.s3]) = true → exec (.stash h o) s = .next value) ∧ (issues s (i [o.s1]) = true → exec (.unstash h o) s = .next value) ∧
       (issues s (i [o.s1, o.s2]) = true → exec (.flush h o) s = .next value)) ∧
     (taskOn s k = none →
       (∀ off, g.toNat % 4096 = 0 → a.toNat % 4096 = 0 → regionOf g = .shared →
         (regionOf a = .spad true 0 off ∨ regionOf a = .spad false (posOf (flatOf k)) off) →
         (sprOf s p.ctx (flatOf k)).1 ≤ off → off + size ≤ (sprOf s p.ctx (flatOf k)).1 + (sprOf s p.ctx (flatOf k)).2 →
         (stashOk p g off size = true → Gives (.stash h o) (i [o.s1, o.s2, o.s3]) s fun q => { q with stash := q.stash ++ [⟨g, off, size, []⟩] }) ∧
         (stashOk p g off size = false → issues s (i [o.s1, o.s2, o.s3]) = true → exec (.stash h o) s = .next value)) ∧
       (issues s (i [o.s1, o.s2, o.s3]) = true → g.toNat % 4096 ≠ 0 → exec (.stash h o) s = .next (takeTrap s k ⟨0x04, 0, g, none⟩)) ∧
       (∀ m, p.stash.find? (fun m => m.g = g) = some m → stashCut s k m (fun _ => true) = false →
         Leaves (.unstash h o) (i [o.s1]) s ((stashFlush s k m fun _ => true).modPart k fun q => { q with stash := q.stash.filter fun m => m.g ≠ g })) ∧
       (p.stash.find? (fun m => m.g = g) = none → issues s (i [o.s1]) = true → exec (.unstash h o) s = .next value) ∧
       ((p.stash.any fun m => stashCut s k m meets) = false →
         Leaves (.flush h o) (i [o.s1, o.s2]) s (p.stash.foldl (fun s m => stashFlush s k m meets) s)) ∧
       (∀ (m : Stash) (l : Nat) (f : Nat → Bool), m.lines = [(l, true)] → f l = true → stashFlush s k m f =
         stashMark (stashWriteBack s k m (BitVec.ofNat 64 l)) k m.g (BitVec.ofNat 64 l) (some false))))

/-- R230, R234, R235, R238: a stream engine fetches the rest of its next vector, takes an index vector, or writes the oldest vector pushed; where its next element
meets a fault, or its pin is broken (R224), the fault is recorded and kept, with what was fetched or written before it; at an element whose home no link reaches it waits. R240: a stash line is recalled.
The model's own choices that it rests on: log entries 43, 161, 164 and 187. -/
def Obligations.StreamEvents : Prop :=
  ∀ (k : Nat) (r : Fin 8) (s : State),
    let w := whoOf s k
    let t := (s.part k).streams[r]
    let cut := streamCut s w.flat t
    let whole := t.state ≠ .unbound ∧ cut = false ∧ (t.broken && t.atWork) = false
    (cut = true → exec (.streamServe k r) s = .next s ∧ exec (.streamFault k r) s = .next s) ∧
    (t.state = .unbound → exec (.streamServe k r) s = .next s ∧ exec (.streamFault k r) s = .next s) ∧
    (t.state ≠ .unbound → cut = false → (t.broken && t.atWork) = true → exec (.streamServe k r) s = .next s ∧
      exec (.streamFault k r) s = .next (faultStream s k r t t.next.1 t.next.2.1 ⟨0x10, 0x20, t.next.2.2, none, false⟩).1) ∧
    (whole → t.write = false → t.mayFetch = true → (t.index = none ∨ t.needIx ≤ t.ixs.length) →
      (∀ u vs, readElems w t t.ixs t.eng ((t.elems t.eng).drop t.got.length) s = (u, vs, none) →
        exec (.streamServe k r) s = .next (setStream u k r (Stream.settle { t with
          slots := t.slots ++ [⟨t.eng, packVals t.width (t.got ++ vs), t.ixs⟩], eng := t.eng + 1, ixs := [], got := [] })) ∧
        exec (.streamFault k r) s = .next s) ∧
      (∀ u vs e f, readElems w t t.ixs t.eng ((t.elems t.eng).drop t.got.length) s = (u, vs, some (e, f)) →
        exec (.streamServe k r) s = .next s ∧ exec (.streamFault k r) s = .next (faultStream u k r { t with got := t.got ++ vs } t.eng e f).1)) ∧
    (∀ i x xs, whole → t.write = false → t.mayFetch = true → t.index = some i → t.ixs.length < t.needIx → (s.part k).streams[i].slots = x :: xs →
      exec (.streamServe k r) s = .next (setStream (setStream s k i (Stream.settle { (s.part k).streams[i] with slots := xs, pos := (s.part k).streams[i].pos + 1 }))
        k r { t with ixs := t.ixs ++ [x.v] })) ∧
    (∀ x xs, whole → t.write = true → t.slots = x :: xs → t.fault = none →
      (∀ u, writeElems w t x.idx x.v ((t.elems x.idx).drop t.elem) s = (u, none) →
        exec (.streamServe k r) s = .next (pulse (setStream u k r (Stream.settle { t with slots := xs, elem := 0 })) k (8 + r.val)) ∧
        exec (.streamFault k r) s = .next s) ∧
      (∀ u e f, writeElems w t x.idx x.v ((t.elems x.idx).drop t.elem) s = (u, some (e, f)) →
        exec (.streamServe k r) s = .next s ∧ exec (.streamFault k r) s = .next (faultStream u k r { t with elem := e } x.idx e f).1)) ∧
    (∀ va m d, stashOf (s.part k) (lineOf va) = some m → mfind m.lines (lineOf va).toNat = some d →
      exec (.stashRecall k va) s = .next (stashMark (if d then stashWriteBack s k m (lineOf va) else s) k m.g (lineOf va) none))

/-- R313, R334 to R336: the instructions of a part that holds its core's matrix resources, or finds them free and claims them: MLOAD enters the load queue,
MSWAP, MZERO, MMUL and MMULS the command queue, MPRI sets priority and weight, MSTAT reads the state, and MFENCE, once no MLOAD and no operation of its core is left (an MSWAP or MZERO may be),
completes, or takes the deferred trap of a recorded plane load. MMULS takes its masks from a vector register, or draws the vectors that it needs from a bound stream;
a mask that has not four bits set traps METADATA. In a task or in partition D they trap ILLEGAL, reason VALUE; on a withdrawn unit UNSUPPORTED.
R312, R329, R334: MDRAIN enters the command queue; at its head, once the operations of its tile have retired, it writes the rows of the tile, converted column by
column, gives the count of retired operations, and moves the tile's flags into FPFLAGS; with .z it clears the tile; where the tile has a record it takes its trap.
The model's own choices that it rests on: log entries 20, 29, 34, 36, 43, 51, 107, 108, 112, 114 and 164. -/
def Obligations.MatrixInstructions : Prop :=
  (∀ (h : Hd) (pair : MPair) (o : OpE) (c : OpC) (s : State),
     let k := s.cur
     let flat := flatOf k
     let m := muOf flat
     let lit := o.lit.getD 0
     let claimed := if (mcore s flat).holder = none then claimCore s k else s
     let p := claimed.part k
     let q := (mcore claimed flat).queue
     let enters (u : State) (f : Nat → MOp) : State :=
       settleMu (modMcore (u.modMu m fun x => { x with seq := x.seq + 1 }) flat fun x => { x with queue := x.queue ++ [f (u.mu m).seq] }) m
     let ready := muWithdrawn s flat = false ∧ idxOf k ≠ 3 ∧ taskOn s k = none ∧ ((mcore s flat).holder = none ∨ (mcore s flat).holder = some k)
     let drainSr : Nat := if o.mod.toNat / 2 % 8 = 0 then 0 else 2 * (((s.part k).src lit o.s2).toNat % 128)
     let none_ : Iss := { h }
     let two : Iss := { h, reads := rds [o.s1, o.s2] }
     let pri : Iss := { h, reads := rds [c.s1, c.s2] }
     let stat : Iss := { h, writes := wr c.d none }
     let mul : Iss := { h, reads := rds [o.s1, o.s2, o.s3, o.s4] }
     let muls : Iss := { h, reads := rds ([o.s1, o.s2, o.s3, o.s4] ++ metaRead s o.s5) }
     (∀ ins i, (ins, i) ∈ [(Instr.mload h o, two), (.mswap h o, none_), (.mzero h o, none_), (.mdrain h o, { two with writes := wr o.d none, sr := drainSr }),
         (.mmul h pair o, mul), (.mmuls h pair o, muls), (.mpri h c, pri), (.mfence h c, none_), (.mstat h c, stat)] →
       issues s i = true →
       (muWithdrawn s flat = true → exec ins s = .next (takeTrap s k ⟨0x08, 0, 0, none⟩)) ∧
       (muWithdrawn s flat = false → (idxOf k = 3 ∨ (taskOn s k).isSome = true) →
         exec ins s = .next (takeTrap s k ⟨0x01, 0, BitVec.ofNat 64 (0x0D + (s.part k).pc.toNat / 2 % 32 * 256), none⟩))) ∧
     (ready → q.length < 8 →
       Leaves (.mswap h o) none_ s (enters claimed (MOp.plain .swap false)) ∧
       Leaves (.mzero h o) none_ s (enters claimed (MOp.plain .zero (o.mod.getLsbD 0)))) ∧
     (let a := (p.src 0 c.s1).toNat
      let x := (p.src 0 c.s2).toNat
      ready → a ≤ 3 → 1 ≤ x → x ≤ 15 → Leaves (.mpri h c) pri s (modMcore claimed flat fun z => { z with prio := a, weight := x })) ∧
     (ready → (claimed.mu m).loads.any (·.flat = flat) = false → q.any (·.cmd = .op) = false → (claimed.mu m).drain.any (·.1 = flat) = false →
       (((mcore claimed flat).recs.find? fun x => x.tile = none) = none → Leaves (.mfence h c) none_ s claimed) ∧
       (∀ x, (mcore claimed flat).recs.find? (fun x => x.tile = none) = some x → issues s none_ = true →
         exec (.mfence h c) s = .next (takeTrap (markTaken (modMcore claimed flat fun c => { c with recs := c.recs.erase x }) p.ctx flat x.slot) k
           ⟨x.code, 1, x.slot, if x.code = 0x0C then none else some x.reason⟩))) ∧
     (ready → Leaves (.mstat h c) stat s (claimed.modPart k (·.put c.d (mstatWord claimed flat)))) ∧
     (let a := p.src lit o.s1
      let t := (p.src lit o.s2).toNat
      let bs := o.mod.getLsbD 0
      ready → 1 ≤ t → t < 65536 → a.toNat % 64 = 0 → (∀ r ∈ piecesOf a (if bs then 61440 else 49152), regionOf r.1 ≠ .nonCanon ∧ regionOf r.1 ≠ .window) →
        ((claimed.mu m).loads.filter (·.flat = flat)).length < 2 → storesDone claimed k = true →
        Leaves (.mload h o) two s (settleMu (claimed.modMu m fun u => { u with loads := u.loads ++ [⟨flat, k, p.ctx, p.pc, a, t, bs, false⟩] }) m)) ∧
     (let a := p.src lit o.s1
      let sh := (p.src lit o.s2).toNat
      let t := p.src lit o.s4
      let op (sparse : Bool) (masks : List Nat) (id : Nat) : MOp :=
        { cmd := .op, id, pc := p.pc, acc := o.mod.getLsbD 0, pair, sparse, base := a, stride := sh / 65536 % 2 ^ 32, ks := sh / 256 % 128
          rows := sh % 128, tag := t.toNat, next := 0, bands := (p.src lit o.s3).setWidth 32, mode := if p.fpctl.toNat % 8 = 4 then 0 else p.fpctl.toNat % 8
          fz := p.fpctl.getLsbD 3, masks, held := o.mod.getLsbD 1, state := .queued, since := none, broken := false }
      ready → shapeOk sh t = true → a.toNat % 32 = 0 → regionOf a ≠ .nonCanon → regionOf a ≠ .window → q.length < 8 → storesDone claimed k = true →
        Leaves (.mmul h pair o) mul s (enters claimed (op false [])) ∧
        (∀ v : Fin 64, o.s5 = .v v → p.bound v = false →
          (badMask (masksOf (p.rdV v)) = none → Leaves (.mmuls h pair o) muls s (enters claimed (op true (masksOf (p.rdV v))))) ∧
          (∀ x, badMask (masksOf (p.rdV v)) = some (.trap x) → issues s muls = true → exec (.mmuls h pair o) s = .next (takeTrap s k x))) ∧
        (∀ (v : Fin 64) (r : Fin 8), o.s5 = .v v → v.val = 56 + r.val → p.bound v = true → sh / 256 % 128 = 1 →
          let n := 2 * pairK pair / 16
          let was : Stream × List VReg := match p.mdraw with
            | some (_, t, vs) => (t, vs)
            | none => (p.streams[r], [])
          let from_ : Part := { p with streams := p.streams.set r { p.streams[r] with captured := was.1.captured } }
          (∀ z vs all, drawGo r n (n + 1) from_ was.2 = (z, vs, .all all) → badMask (all.flatMap masksOf) = none →
            Leaves (.mmuls h pair o) muls s (enters ((List.range n).foldl (fun u _ => pulse u k (8 + r.val)) (claimed.setPart k { z with mdraw := none }))
              (op true (all.flatMap masksOf)))) ∧
          (∀ z vs, drawGo r n (n + 1) from_ was.2 = (z, vs, .more) → issues s muls = true →
            exec (.mmuls h pair o) s = .next (waiting (claimed.setPart k
              { z with streams := z.streams.set r { z.streams[r] with captured := true }, mdraw := some (r, was.1, vs) }) k))))) ∧
  (∀ (h : Hd) (o : OpE) (s s1 : State),
     let k := s.cur
     let flat := flatOf k
     let lit := o.lit.getD 0
     let claimed := if (mcore s flat).holder = none then claimCore s k else s
     let p := claimed.part k
     let b := p.src lit o.s1
     let shape := (p.src lit o.s2).toNat
     let rows := shape % 128
     let stride := shape / 65536 % 2 ^ 32
     let fmt := o.mod.toNat / 2 % 8
     let acc := o.mod.getLsbD 0
     let z := o.mod.getLsbD 4
     let rowBytes := 128 * (drainType fmt).1
     let rs := (List.range rows).map fun r => (b + BitVec.ofNat 64 (r * stride), rowBytes)
     let i : Iss := { h, reads := rds [o.s1, o.s2], writes := wr o.d none
                      sr := if fmt = 0 then 0 else 2 * (((s.part k).src lit o.s2).toNat % 128) }
     let waits := (mcore s1 flat).queue.any (·.cmd = .drain)
     let s2 := if waits then s1 else
       settleMu (modMcore (s1.modMu (muOf flat) fun x => { x with seq := x.seq + 1 }) flat fun x =>
         { x with queue := x.queue ++ [MOp.plain .drain acc (s1.mu (muOf flat)).seq] }) (muOf flat)
     let t := (mcore s2 flat).tile acc
     let out := (List.range rows).map fun r => drainRow p t fmt r
     let written := modMcore ((rs.zip out).foldl (fun u ro => engineWrite u flat ro.1.1 ro.2.1) s2) flat fun c => c.modTile acc fun t =>
       { t with vals := if z then [] else t.vals, flags := 0, retired := if z then 0 else t.retired }
     let told := (written.modPart k (·.orFlags (out.foldl (fun f ro => f ||| ro.2) t.flags))).modPart k (·.put o.d (BitVec.ofNat 64 t.retired))
     issues s i = true → muWithdrawn s flat = false → idxOf k ≠ 3 → taskOn s k = none → ((mcore s flat).holder = none ∨ (mcore s flat).holder = some k) →
     1 ≤ rows → rows ≤ 64 → stride % 64 = 0 → rowBytes ≤ stride → shape / 128 % 512 = 0 → shape / 2 ^ 48 = 0 → b.toNat % 64 = 0 →
     checkAccess claimed (whoOf claimed k) .write rs = .ok s1 → onLost s1 flat rs = false → (∀ r ∈ rs, isReplicated s1 flat r.1 = false) →
     (waits = true ∨ (mcore s1 flat).queue.length < 8) → (mcore s2 flat).queue.head?.any (·.cmd = .drain) = true → busyOn s2 flat acc = false →
     (((mcore s2 flat).recs.find? fun x => x.tile = some acc) = none →
       exec (.mdrain h o) s = done i s (settleMu (pulse (popHead told flat) k 7) (muOf flat))) ∧
     (∀ x, (mcore s2 flat).recs.find? (fun x => x.tile = some acc) = some x →
       exec (.mdrain h o) s = .next (takeTrap (markTaken (modMcore (popHead s2 flat) flat fun c => { c with recs := c.recs.erase x }) p.ctx flat x.slot) k
         ⟨x.code, 1, x.slot, if x.code = 0x0C then none else some x.reason⟩))) ∧
  (∀ (p : Part) (t : MTile) (fmt r : Nat),
     let x (c : Nat) : Nat := (mfind t.vals (r * 128 + c)).getD 0
     let y (c : Nat) : FRes := convertC (p.rctl (c % 64) (2 * r + c / 64)) (drainType fmt).2 (.flt fmt32) (x c)
     drainRow p t fmt r = ((List.range 128).flatMap fun c => bytesOf (drainType fmt).1 (if fmt = 0 then x c else (y c).code),
       (List.range 128).foldl (fun f c => f ||| (if fmt = 0 then 0 else (y c).flags)) 0))

/-- R316, R317, R322 to R327: the events of a matrix unit: a plane load starts and completes, or meets a fault or a broken pin; the arbiter grants where nothing
streams, or the swap that waited is made; the last row of a k-step enters, and the operation streams on or waits for its plane; the last row of all enters and it
drains and retires; an activation read faults or a column fails, in the streaming operation or in the oldest that drains; a column is remapped, with the health record (R509). What lies where no link reaches waits.
The model's own choices that it rests on: log entries 5, 36, 50, 109, 110, 111 and 113. -/
def Obligations.MatrixEvents : Prop :=
  ∀ (m : Nat) (s : State),
    let u := s.mu m
    let running := (s.cluster (m / 2)).halted = false
    let size (l : MLoad) : Nat := if l.bs then 61440 else 49152
    (∀ l, u.current = none → nextLoad s m = some l → (u.shadow.tag = 0 ∨ needed s m u.shadow.tag = false) →
      exec (.planeLoadStart m) s = .next (settleMu (s.modMu m fun u => { u with shadow := ⟨l.tag, true, l.bs, []⟩, current := some l }) m)) ∧
    (∀ l s1, u.current = some l → l.broken = false → engineCut s l.flat l.addr (size l) = false → engineCheck s ⟨l.flat, l.k, l.ctx⟩ .read l.addr (size l) = .ok s1 →
      exec (.planeLoadDone m) s =
        .next (settleMu (loadEnds ((engineRead s1 l.flat l.addr (size l)).1.modMu m fun u =>
          { u with shadow := ⟨l.tag, false, l.bs, (engineRead s1 l.flat l.addr (size l)).2⟩, current := none }) l) m)) ∧
    (∀ l, u.current = some l → l.broken = false → engineCut s l.flat l.addr (size l) = true → exec (.planeLoadDone m) s = .next s) ∧
    (∀ l f, u.current = some l →
      (l.broken = true ∧ f = ⟨0x10, 0x20, l.addr, none, false⟩ ∨ l.broken = false ∧ engineCut s l.flat l.addr (size l) = false ∧ engineCheck s ⟨l.flat, l.k, l.ctx⟩ .read l.addr (size l) = .error f) →
      exec (.planeLoadDone m) s =
        .next (settleMu (addMrec ((f.note s l.flat).modMu m fun u => { u with shadow := .reset, current := none, loads := u.loads.erase l }) l.flat none f.code f.reason
          (matrixRecord f.code f.reason 0 0 0 l.pc f.addr)) m)) ∧
    (streamingAt s m = none → running →
      (∀ pos, pending s m = some pos → exec (.arbiterGrant m) s = .next (settleMu (beginStream s m pos) m)) ∧
      (pending s m = none →
        let s1 := s.modMu m fun u => { u with pend := none }
        (swapWaits s1 m = true → exec (.arbiterGrant m) s = .next (settleMu (s1.modMu m fun u => { u with inArray := false }) m)) ∧
        (swapWaits s1 m = false → exec (.arbiterGrant m) s = .next (settleMu (grant s1 m) m)))) ∧
    (∀ pos o, streamingAt s m = some (pos, o) →
      let flat := muFlat m pos
      let sw := swapped s m o
      let reads := readRows (holderWho sw flat) o (sw.mu m).active
      (rowsCut sw flat o = true → exec (.kstepBoundary m) s = .next s ∧ exec (.lastRow m) s = .next s) ∧
      (∀ s1 as, o.next + 1 < o.ks → o.broken = false → running → rowsCut sw flat o = false → reads (List.range o.rows) sw = (s1, as, none) →
        let s2 := (modHead (addSums s1 flat o.acc as) flat fun o => { o with next := o.next + 1 }).modMu m fun u => { u with inArray := true }
        ((s2.mu m).held ((o.tag + o.next + 1) % 65536) = false →
          exec (.kstepBoundary m) s = .next (settleMu (modHead s2 flat fun o => { o with state := .queued }) m)) ∧
        ((s2.mu m).held ((o.tag + o.next + 1) % 65536) = true →
          let higher := (topCands s2 m).any fun q =>
            match candidate (s2.mu m) (mcore s2 (muFlat m q)) with
            | some x => decide ((mcore s2 flat).prio < effPrio s2.time (mcore s2 (muFlat m q)) x)
            | none => false
          let s3 := settleMu (modHead s2 flat fun o => { o with state := .overtaken }) m
          (higher = false → exec (.kstepBoundary m) s = .next (settleMu s2 m)) ∧
          (higher = true → swapWaits s3 m = true → exec (.kstepBoundary m) s = .next s3) ∧
          (higher = true → swapWaits s3 m = false → exec (.kstepBoundary m) s = .next (settleMu (grant s3 m) m)))) ∧
      (∀ s1 as, o.ks ≤ o.next + 1 → o.broken = false → rowsCut sw flat o = false → reads (List.range o.rows) sw = (s1, as, none) →
        exec (.lastRow m) s = .next (settleMu ((popHead (addSums s1 flat o.acc as) flat).modMu m fun u =>
          { u with inArray := true, drain := u.drain ++ [(flat, { o with state := .draining })] }) m)) ∧
      (∀ row s1 as r f, o.broken = false → rowsCut sw flat o = false → reads (List.range o.rows) sw = (s1, as, some (r, f)) →
        exec (.matrixFault m row .access) s = .next (settleMu (faultOp (popHead (addSums s1 flat o.acc as) flat) flat o r f.code f.reason f.addr) m)) ∧
      (∀ row (col : Bool) s1 as, (col = true ∨ o.broken = true) → row < o.rows → rowsCut sw flat o = false → reads ((List.range o.rows).filter (· < row)) sw = (s1, as, none) →
        exec (.matrixFault m row (if col then .column else .access)) s = .next (settleMu (faultOp (popHead (addSums s1 flat o.acc as) flat) flat o row
          (if col then 0x0C else 0x10) (if col then 0x30 else 0x20) (if col then 0 else o.rowAddr row)) m))) ∧
    (∀ flat o ds, u.drain = (flat, o) :: ds →
      exec (.matrixRetire m) s = .next (settleMu (retireOp (s.modMu m fun u =>
        { u with drain := ds, inArray := u.inArray && !(ds.isEmpty && (streamingAt s m).isNone) }) flat o.acc) m) ∧
      ∀ row, row < o.rows → exec (.matrixFault m row .drained) s =
        .next (settleMu (faultOp (modMcore (s.modMu m fun u => { u with drain := ds }) flat fun c => c.modTile o.acc fun t =>
          { t with adds := t.adds.filter fun a => !(a.id = o.id && a.kstep = o.next && decide (row ≤ a.row)) }) flat o row 0x0C 0x30 0) m)) ∧
    (∀ pos, exec (.matrixAgeing m pos) s = .next (settleMu s m)) ∧
    (∀ (now : W64) (c : MCore) (o : MOp), (∀ t, o.since = some t → effPrio now c o = min (c.prio + (now - t).toNat / 4096) 7) ∧
      (o.since = none → effPrio now c o = c.prio)) ∧
    (((List.range 8).any fun pos => (mcore s (muFlat m pos)).queue.any fun o => o.state = .streaming || o.state = .overtaken) = false → u.remaps < 2 →
      exec (.columnRemap m) s = .next (writeHealth (s.modMu m fun u => { u with remaps := u.remaps + 1 }) (m / 128)))

/-- R337 to R347: major 0x5C: block and band scales, quantisation, outlier channels, sparse metadata.
The model's own choices that it rests on: log entries 34, 52 and 174. -/
def Obligations.SparseInstructions : Prop :=
  ∀ (h : Hd) (o : OpC) (s s1 : State),
    let p := s.part s.cur
    let k := s.cur
    let v := p.vreg o.s1
    let two : Iss := { h, reads := rds [o.s1, o.s2], writes := wr o.d none }
    let one : Iss := { h, reads := rds [o.s1], writes := wr o.d none }
    let q : Iss := { h, reads := rds (qReads o), writes := wr o.d none, sr := 1 }
    (let r (b : Nat) : FRes := blockCode (amax32 ((List.range 8).map fun i => elemOf v 32 (8 * b + i))) (p.srcT (.flt fmtBf) o.s2)
     let e0 := 8 * (o.mod.toNat / 4 % 32)
     Gives (.bscaleBlk h o) two s fun z => Part.orFlags
       (z.putVec o.d (updElems (p.oldV o.d) 8 fun j => if e0 ≤ j ∧ j < e0 + 8 then some (r (j - e0)).code else none))
       ((List.range 8).foldl (fun f b => f ||| (r b).flags) 0)) ∧
    (let r := amax32 (p.srcT (.flt fmt32) o.s2 :: (List.range 64).map fun L => elemOf v 32 L)
     Gives (.bscaleAmax h o) two s fun z => (z.put o.d (BitVec.ofNat 64 r.code)).orFlags r.flags) ∧
    (let r := bandCode (p.srcT (.flt fmt32) o.s1)
     Gives (.bscaleBand h o) one s fun z => (z.put o.d (BitVec.ofNat 64 r.code)).orFlags r.flags) ∧
    (let t := ctyOf (o.mod.toNat % 16)
     let e0 := 64 * (o.mod.toNat / 32)
     let r (L : Nat) : FRes := qnt1 t (p.rctl L 0) (decodeFZ fmt32 p.fz (elemOf v 32 L)) (qScaleOf p o L)
     let r' (L : Nat) : FRes := dqnt1 t (p.rctl L 0) (elemOf v t.width (e0 + L)) (qScaleOf p o L)
     (Gives (.qnt h o) q s fun z => Part.orFlags
       (z.putVec o.d (updElems (p.oldV o.d) t.width fun j => if e0 ≤ j ∧ j < e0 + 64 then some (r (j - e0)).code else none))
       ((List.range 64).foldl (fun f L => f ||| (r L).flags) 0)) ∧
     (Gives (.dqnt h o) q s fun z => Part.orFlags (z.putVec o.d (updElems 0 32 fun L => some (r' L).code))
       ((List.range 64).foldl (fun f L => f ||| (r' L).flags) 0))) ∧
    (let i : Iss := { h, reads := rds [o.s1, o.s2, o.s3], writes := wr o.d none, store := true }
     let mask := p.src 0 o.s2
     let a := p.src 0 o.s3
     let kept := updElems 0 32 fun L => some (if mask.getLsbD L then elemOf v 32 L else 0)
     issues s i = true →
     (a.toNat % 256 ≠ 0 → exec (.qsplit h o) s = .next (takeTrap s k ⟨0x04, 0, a, none⟩)) ∧
     (∀ pos off, a.toNat % 256 = 0 → regionOf a = .spad false pos off → taskOn s k = none → checkAccess s (whoOf s k) .write [(a, 256)] = .ok s1 →
       onLost s1 (flatOf k) [(a, 256)] = false → 
       let bs := (bytesAt a 256).zip (bytesOf 256 kept.toNat)
       (∀ l, fillLost s1 k bs = some l → exec (.qsplit h o) s = .next (lostTrap s k 1 a l)) ∧
       (fillLost s1 k bs = none → 32 ≤ (s1.core (flatOf k)).sbuf.length → exec (.qsplit h o) s = .next (waitingStore i s k)) ∧
       (fillLost s1 k bs = none → (s1.core (flatOf k)).sbuf.length < 32 → exec (.qsplit h o) s = done i s
         ((s1.modCore (flatOf k) fun c => { c with sbuf := c.sbuf ++ [⟨k, p.ctx, p.pc, a, bs, bs, false, false⟩] }).modPart k fun z =>
           z.putVec o.d (updElems 0 32 fun L => some (if mask.getLsbD L then 0 else elemOf v 32 L)))))) ∧
    (let ty := o.mod.toNat % 16
     let w := (ctyOf ty).width
     let n := 2048 / w
     let part := (p.src 0 o.s2).toNat
     let masks := o.mod.getLsbD 4
     let i : Iss := { one with bad := if masks then decide (256 / (n / 8) ≤ part) else decide (2 ≤ part) }
     -- R342: a part out of range is taken before STREAM
     (i.bad = true → i.effective p = true → (p.stallchk = true → ∀ r ∈ i.allReads, (tracked p r && sbEarly p.sb r) = false) →
       exec (.spcomp h o) s = .next (takeTrap s k ⟨0x01, 0, BitVec.ofNat 64 (0x0D + p.pc.toNat / 2 % 32 * 256), none⟩)) ∧
     (masks = true → Gives (.spcomp h o) i s fun z => z.putVec o.d (updElems (p.oldV o.d) 8 fun j =>
       if part * (n / 8) ≤ j ∧ j < part * (n / 8) + n / 8 then some ((keptSet ty w v (j - part * (n / 8))).foldl (fun m b => m + 2 ^ b) 0) else none)) ∧
     (masks = false → Gives (.spcomp h o) i s fun z => z.putVec o.d (updElems (p.oldV o.d) w fun j =>
       if part * (n / 2) ≤ j ∧ j < part * (n / 2) + n / 2 then
         some (elemOf v w (8 * ((j - part * (n / 2)) / 4) + (keptSet ty w v ((j - part * (n / 2)) / 4)).getD ((j - part * (n / 2)) % 4) 0))
       else none))) ∧
    (let bad := (List.range 256).find? fun g => ((List.range 8).filter fun b => elemOf v 8 g / 2 ^ b % 2 = 1).length ≠ 4
     Gives (.spchk h o) one s (·.put o.d (match o.d, bad with
       | .p _, none => ones64
       | .p _, some _ => 0
       | _, none => ones64
       | _, some g => BitVec.ofNat 64 g)))

/-- R243, R244: a signal to an event that no part waits for sets it; to a SET event it changes nothing; to a waiting one it releases the waiters in order up to
and including the first that consumes, and leaves the event SET where none consumed.
R243 to R267: the synchronisation instructions where they complete at once: EVSIG, EVWAIT on a SET event or with .test, EVCLR, the barrier instructions, WATCH and
its removal, WFE with the latch set or its timeout passed, SEV; in replay a timed wait that the issue log gives 0 completes with 0 (log entry 169).
The model's own choices that it rests on: log entries 34, 40, 41, 42, 56, 169 and 196. -/
def Obligations.SyncInstructions : Prop :=
  (∀ (s : State) (cl c name scope : Nat),
     (findEv s cl c name = none → ∀ slot, evPlace s cl c name = some slot →
       ∃ t, evsig s cl c name scope = some t ∧ findEv t cl c name = some ⟨c, name, true, scope, [], slot⟩ ∧ t.parts = s.parts ∧ t.mem = s.mem) ∧
     (∀ e, findEv s cl c name = some e → e.set = true → evsig s cl c name scope = some s) ∧
     (∀ e, findEv s cl c name = some e → e.set = false → evsig s cl c name scope =
       some ((evSplit e.wait).1.foldl (fun s f => evRelease s f c scope)
         (evPut s cl { e with wait := (evSplit e.wait).2.1, set := !(evSplit e.wait).2.2, scope }))) ∧
     (∀ (before after : List (Nat × Bool)) (f : Nat), (∀ w ∈ before, w.2 = false) →
       evSplit (before ++ (f, true) :: after) = (before.map (·.1) ++ [f], after, true) ∧ evSplit before = (before.map (·.1), [], false))) ∧
  (∀ (h : Hd) (o : OpC) (s s1 : State),
     let p := s.part s.cur
     let k := s.cur
     let flat := flatOf k
     let cl := clOf flat
     let x := p.src 0 o.s1
     let y := p.src 0 o.s2
     let name := x.toNat % 65536
     let i1 : Iss := { h, reads := rds [o.s1] }
     let i2 : Iss := { h, reads := rds [o.s1, o.s2] }
     let w1 : Iss := { i1 with writes := wr o.d none }
     let w2 : Iss := { i2 with writes := wr o.d none }
     let w3 : Iss := { h, reads := rds [o.s1, o.s2, o.s3], writes := wr o.d none }
     let iE : Iss := { h, reads := if o.mod.getLsbD 0 then rds [o.s1, o.s2] else rds [o.s1] }
     let wE : Iss := { h, reads := if o.mod.getLsbD 1 then rds [o.s1] else rds [o.s1, o.s2], writes := wr o.d none }
     let noted (u : State) (d : Nat) : State := logOrTake u flat (idxOf k) 8 0 (BitVec.ofNat 64 d)
     let timed (limit : Nat) (u : State) (d : Nat) : State := if limit = 0 then u else noted u d
     let lx := x.toNat % 2 ^ 32
     let ly := if o.mod.getLsbD 1 then 0 else y.toNat % 2 ^ 32
     taskOn s k = none →
     -- EVSIG
     (issues s iE = true → storesDone s k = false → exec (.evsig h o) s = .next (waitingStore iE s k)) ∧
     (let tgt := if o.mod.getLsbD 0 then y.toNat else flat
      let scope := if clOf tgt = cl then 1 else scopeOf flat tgt
      storesDone s k = true →
        (∀ u, signalTo (releaseAt s flat scope) p.ctx flat tgt name scope p.pc = some u → Leaves (.evsig h o) iE s u) ∧
        (signalTo (releaseAt s flat scope) p.ctx flat tgt name scope p.pc = none → issues s iE = true →
          exec (.evsig h o) s = .next (takeTrap s k ⟨0x11, 0, BitVec.ofNat 64 (name % 2 ^ 32 * 2 ^ 32 + 0x100), none⟩))) ∧
     -- EVWAIT
     (p.sleep = .awake → (idxOf k ≠ 3 ∨ o.mod.getLsbD 1 = true) →
       ((ly = 0 ∨ replaysZero s k = false) →
         (∀ e, findEv s cl p.ctx name = some e → e.set = true →
           Leaves (.evwait h o) wE s
             (acquireAt ((timed ly (if o.mod.getLsbD 0 then evPut s cl { e with set := false } else s) 1).modPart k (·.put o.d 1)) flat e.scope)) ∧
         (o.mod.getLsbD 1 = true → (∀ e, findEv s cl p.ctx name = some e → e.set = false) → Gives (.evwait h o) wE s (·.put o.d 0))) ∧
       (ly ≠ 0 → replaysZero s k = true → Leaves (.evwait h o) wE s ((noted s 0).modPart k (·.put o.d 0)))) ∧
     (∀ how v, p.sleep = .woken how v → (idxOf k ≠ 3 ∨ o.mod.getLsbD 1 = true) →
       let u := (timed ly (s.modPart k fun q => { q with sleep := .awake }) how).modPart k (·.put o.d (BitVec.ofNat 64 how))
       Leaves (.evwait h o) wE s (if how = 1 then acquireAt u flat v.toNat else u)) ∧
     -- EVCLR
     (∀ e, findEv s cl p.ctx name = some e → e.set = true → Leaves (.evclr h o) i1 s (evPut s cl { e with set := false })) ∧
     (findEv s cl p.ctx name = none → Leaves (.evclr h o) i1 s s) ∧
     -- barriers
     (∀ level index, barId x = some (level, index) →
       (∀ b, barFind s flat level index = some b → b.owner = p.ctx →
         (storesDone s k = true →
           let u := releaseAt s flat (level + 1)
           (b.arrived + 1 < b.count → Leaves (.bararr h o) w1 s
             ((barSet u flat level index (some { b with arrived := b.arrived + 1 })).modPart k (·.put o.d (b.phase.setWidth 64)))) ∧
           (b.count ≤ b.arrived + 1 → Leaves (.bararr h o) w1 s
             ((barRelease (barSet u flat level index (some { b with arrived := 0, phase := b.phase + 1 })) flat level index (b.phase + 1)).modPart k
               (·.put o.d (b.phase.setWidth 64))))) ∧
         (b.count = y.toNat → y.toNat < 65536 → Gives (.bararrInit h o) w2 s (·.put o.d (b.phase.setWidth 64))) ∧
         (b.arrived = 0 → Leaves (.bararrFree h o) w1 s ((barFreed (barSet s flat level index none) flat level index).modPart k (·.put o.d (b.phase.setWidth 64)))) ∧
         (b.arrived ≠ 0 → issues s w1 = true →
           exec (.bararrFree h o) s = .next (takeTrap s k ⟨0x11, 0, BitVec.ofNat 64 (x.toNat % 2 ^ 32 * 2 ^ 32 + 0x400), none⟩)) ∧
         (idxOf k ≠ 3 → p.sleep = .awake → b.phase = y.setWidth 32 → issues s w2 = true →
           exec (.barwait h o) s = .next (waitingKept p (s.modPart k fun q => { q with sleep := .barrier (barHome flat level) level index }) k)) ∧
         (idxOf k ≠ 3 → p.sleep = .awake → b.phase ≠ y.setWidth 32 →
           Leaves (.barwait h o) w2 s (acquireAt (s.modPart k (·.put o.d (b.phase.setWidth 64))) flat (level + 1)))) ∧
       (∀ how v, idxOf k ≠ 3 → p.sleep = .woken how v →
         Leaves (.barwait h o) w2 s (acquireAt ((s.modPart k fun q => { q with sleep := .awake }).modPart k (·.put o.d v)) flat (level + 1))) ∧
       (barFind s flat level index = none → 0 < y.toNat → y.toNat < 65536 →
         Leaves (.bararrInit h o) w2 s ((barSet s flat level index (some ⟨p.ctx, y.toNat, 0, 0⟩)).modPart k (·.put o.d 0)))) ∧
     -- WATCH
     (let n := watchSize o.mod
      let s2 := toHome s1 flat (lineOf x)
      (x.toNat % n ≠ 0 → issues s w3 = true → exec (.watch h o) s = .next (takeTrap s k ⟨0x04, 0, x, none⟩)) ∧
      (x.toNat % n = 0 → checkAccess s (whoOf s k) .read [(x, n)] = .ok s1 → onLost s1 flat [(x, n)] = false →
       (isLost s1 flat x = true → issues s w3 = true → exec (.watch h o) s = .next (lostTrap s k 0 x (lineOf x))) ∧
       (isLost s1 flat x = false →
        (let w : Watch := { flat, dpart := idxOf k = 3, ctx := p.ctx, va := x, size := n, cond := icondOf (o.mod.toNat % 16), mask := y
                            value := p.src 0 o.s3, polled := false, home := homeOf s2 flat x, spad := inSpad x }
         (4 ≤ (watchesOf s2 k).length → issues s w3 = true →
           exec (.watch h o) s = .next (takeTrap s k ⟨0x11, 0, BitVec.ofNat 64 (x.toNat % 2 ^ 32 * 2 ^ 32 + 0x500), none⟩)) ∧
         ((watchesOf s2 k).length < 4 →
           (watchTrue s2 w = true →
             let d := if replaysZero s2 k then 0 else 1
             Leaves (.watch h o) w3 s ((noted (wakeWatcher s2 w) d).modPart k (·.put o.d (BitVec.ofNat 64 d)))) ∧
           (watchTrue s2 w = false → mayTimeOut s2 k = true → Leaves (.watch h o) w3 s ((noted (armWatch s2 w) 0).modPart k (·.put o.d 0))))) ∧
        Leaves (.watchX h o) i1 s { s2 with watches := s2.watches.filter fun w => !(w.va = x && (watchesOf s2 k).contains w) }))) ∧
     -- WFE
     (idxOf k ≠ 3 →
       ((lx = 0 ∨ replaysZero s k = false) →
         (p.latch = true → Leaves (.wfe h o) w1 s
           (acquireAt ((timed lx (s.modPart k fun q => { q with latch := false, latchScope := 0, sleep := .awake }) 1).modPart k (·.put o.d 1)) flat p.latchScope)) ∧
         (∀ how v, p.latch = false → p.sleep = .woken how v → Leaves (.wfe h o) w1 s
           ((timed lx (s.modPart k fun q => { q with sleep := .awake }) 0).modPart k (·.put o.d 0)))) ∧
       (lx ≠ 0 → replaysZero s k = true → Leaves (.wfe h o) w1 s ((noted (s.modPart k fun q => { q with sleep := .awake }) 0).modPart k (·.put o.d 0)))) ∧
     -- SEV
     (let r := o.mod.getLsbD 0
      let scope := if r then scopeOf flat x.toNat else 1
      storesDone s k = true → Leaves (.sev h o) i1 s (sevTo (releaseAt s flat scope) p.ctx scope (sevTargets flat r x.toNat))))

/-- R244, R253, R255, R257 to R260: the events of waits and of Damask: a timeout passes only after its limit, in a partition or in a spill frame, and the wait then completes with 0; polled watches of
a die are evaluated; the terms that fire in one evaluation drive their targets, in order, and pulse their inputs; the timer pulses its input.
The model's own choices that it rests on: log entry 43. -/
def Obligations.SyncEvents : Prop :=
  ∀ (k : Nat) (s : State),
    (mayTimeOut s k = true → exec (.evwaitTimeout k) s =
      .next ((s.away.filter fun a => a.1 = flatOf k && a.2.st = .spilled).foldl (fun s a => waitExpires s a.1 a.2)
        (if idxOf k = 3 then s else waitExpires s (flatOf k) (s.part k)))) ∧
    (mayTimeOut s k = false → exec (.evwaitTimeout k) s = .next s) ∧
    (∀ (flat : Nat) (p : Part) cl c name limit began, p.sleep = .event cl c name limit began →
      (limitPassed s limit began = false → waitExpires s flat p = s) ∧
      (limitPassed s limit began = true →
        (∀ e, findEv (waitExpires s flat p) cl c name = some e → ∀ w ∈ e.wait, w.1 ≠ flat) ∧
        (∀ j, s.placed flat p.ctx = some j → ((waitExpires s flat p).part j).sleep = .woken 0 0))) ∧
    (∀ (flat : Nat) (p : Part), p.sleep = .awake → waitExpires s flat p = s) ∧
    (∀ limit began, (s.part k).sleep = .wfe limit began → mayTimeOut s k = true →
      (limitPassed s limit began = true → exec (.wfeTimeout k) s = .next (s.modPart k fun p => { p with sleep := .woken 0 0, blocked := none })) ∧
      (limitPassed s limit began = false → exec (.wfeTimeout k) s = .next s)) ∧
    (∀ dk w, s.watches = [w] → w.polled = true → dieOf w.home = dk →
      let u := toHome s w.flat (lineOf w.va)
      exec (.watchPoll dk) s = .next (if watchTrue u w then fireWatch u w else u)) ∧
    (∀ dk, (∀ w ∈ s.watches, w.polled = false ∨ dieOf w.home ≠ dk) → exec (.watchPoll dk) s = .next s) ∧
    (idxOf k ≠ 3 → (s.part k).st ≠ .free →
      let u := s.modPart k fun p => { p with damask := p.damask.seen }
      ((u.part k).damask.fired = [] → exec (.damaskTermFire k) s = .next u) ∧
      (∀ fs rest, (u.part k).damask.fired = fs :: rest → exec (.damaskTermFire k) s =
        .next (fs.foldl (fun s f => pulse (driveTarget s k f.2) k (24 + f.1.val)) (u.modPart k fun p => { p with damask := { p.damask with fired := rest } })))) ∧
    ((s.part k).damask.period ≠ 0 → exec (.damaskTimer k) s = .next (pulse s k 19))

/-- R258, R268: XBSET writes a counter, a term or the timer's period, gives the old word, and .reset clears the programme; an index or a word out of its range, partition
D and a running task trap ILLEGAL, reason VALUE.
The model's own choices that it rests on: log entries 43 and 44. -/
def Obligations.DamaskProgramme : Prop :=
  ∀ (h : Hd) (o : OpE) (s : State),
    let p := s.part s.cur
    let k := s.cur
    let n := (p.src (o.lit.getD 0) o.s1).toNat
    let w := p.src (o.lit.getD 0) o.s2
    let i : Iss := { h, reads := rds [o.s1, o.s2], writes := wr o.d none }
    let value := takeTrap s k ⟨0x01, 0, BitVec.ofNat 64 (0x0D + p.pc.toNat / 2 % 32 * 256), none⟩
    (taskOn s k = none → idxOf k ≠ 3 →
      (n < 16 → bits w 39 24 = 0 → bits w 6 5 = 0 → (w.getLsbD 7 = true → bits w 23 8 ≠ 0) → Gives (.xbsetCtr h o) i s fun q =>
        let q := q.put o.d ((p.damask.seen.ctrs.toList.getD n .reset).word)
        { q with damask := Damask.seen { q.damask.seen with ctrs := q.damask.seen.ctrs.set! n ⟨bits w 4 0, w.getLsbD 7, bits w 23 8, 0, 0⟩ } }) ∧
      (n < 8 → bits w 62 56 = 0 → bits w 39 32 ≤ 0x0A → Gives (.xbsetTerm h o) i s fun q =>
        let q := q.put o.d ((p.damask.terms.toList.getD n .reset).word)
        let term : DTerm := ⟨BitVec.ofNat 16 (bits w 15 0), BitVec.ofNat 16 (bits w 31 16), bits w 39 32, BitVec.ofNat 16 (bits w 55 40), w.getLsbD 63⟩
        { q with damask := Damask.seen { q.damask.seen with terms := q.damask.seen.terms.set! n term } }) ∧
      (n = 0 → w.toNat < 2 ^ 32 → Gives (.xbsetTimer h o) i s fun q =>
        let q := q.put o.d (p.damask.period.setWidth 64)
        { q with damask := { q.damask with period := w.setWidth 32 } }) ∧
      (n = 0 → w = 0 → Gives (.xbsetReset h o) i s fun q =>
        let q := q.put o.d 0
        { q with damask := { q.damask.seen with ctrs := Vector.replicate 16 .reset, terms := Vector.replicate 8 .reset, period := 0 } })) ∧
    (issues s i = true → ((taskOn s k).isSome = true ∨ idxOf k = 3 ∨ 16 ≤ n) →
      exec (.xbsetCtr h o) s = .next value ∧ exec (.xbsetTerm h o) s = .next value ∧ exec (.xbsetTimer h o) s = .next value ∧
      exec (.xbsetReset h o) s = .next value) ∧
    -- the pulses of one cc count before the terms see them
    (∀ (d : Damask) (now input : Nat),
      (∀ is, d.fresh = some (now, is) → input ∉ is → d.pulse now input = { d.count input with fresh := some (now, input :: is) }) ∧
      ((∀ is, d.fresh ≠ some (now, is)) → d.pulse now input = { d.seen.count input with fresh := some (now, [input]) })) ∧
    (∀ (d : Damask) (input : Nat) (j : Fin 16),
      let c := d.ctrs[j]
      ((c.en && c.input = input) = false → (d.count input).ctrs[j] = c) ∧
      ((c.en && c.input = input) = true → c.pend ≤ 255 → (d.count input).ctrs[j] =
        if c.thresh ≤ c.count + 1 then { c with count := 0, pend := min 255 (c.pend + 1) } else { c with count := c.count + 1 })) ∧
    (∀ (d : Damask) (t : DTerm),
      let met (m : BitVec 16) : Prop := m ≠ 0 ∧ ∀ j : Fin 16, m.getLsbD j.val = true → 1 ≤ (d.ctrs[j]).pend
      ((d.term t).2 = true ↔ t.en = true ∧ (met t.maskA ∨ met t.maskB)) ∧
      (t.en = true → met t.maskA → (d.term t).1 = d.spend t.maskA) ∧
      (t.en = true → ¬ met t.maskA → met t.maskB → (d.term t).1 = d.spend t.maskB) ∧
      ∀ (m : BitVec 16) (j : Fin 16), (d.spend m).ctrs[j] = if m.getLsbD j.val then { d.ctrs[j] with pend := (d.ctrs[j]).pend - 1 } else d.ctrs[j])

/-- R271 to R279, R287 to R291: LAUNCH reads its block and gives 0 where the launch is accepted, else the reason; CNTADD gives the old word of a counter; CANCEL that has
nothing left to stop gives the old word; CLKREQ records the unit's request and gives CLKSEQ.
R276, R277: an add to a counter adds to its count, up to 2^31 − 1, sets DONE when a target is reached, keeps the target, and sends one add to the next counter
exactly when it sets DONE; the word before is answered.
The model's own choices that it rests on: log entries 3, 34, 92 and 94. -/
def Obligations.LaunchInstructions : Prop :=
  (∀ (h : Hd) (o : OpE) (s s1 : State),
     let p := s.part s.cur
     let k := s.cur
     let flat := flatOf k
     let w := whoOf s k
     let l := o.lit.getD 0
     let a := p.src l o.s1
     let i : Iss := { h, reads := rds [o.s1], writes := wr o.d none }
     let j : Iss := { h, reads := rds [o.s1, o.s2, o.s3], writes := wr o.d none }
     idxOf k ≠ 3 → taskOn s k = none →
     (a.toNat % 256 = 0 → checkAccess s w .read [(a, 256)] = .ok s1 → onLost s1 flat [(a, 256)] = false → (linesOf a 256).any (isLost s1 flat) = false →
       storesDone s1 k = true →
       let r := engineRead s1 flat a 256
       let q := launchAccept (releaseAt r.1 flat (launchFrom (whoOf r.1 k) none none a r.2).scope) (whoOf r.1 k) p.launch none a r.2
       Leaves (.launch h o) i s (q.1.modPart k (·.put o.d (BitVec.ofNat 64 q.2)))) ∧
     (issues s i = true → a.toNat % 256 ≠ 0 → exec (.launch h o) s = .next (takeTrap s k ⟨0x04, 0, a, none⟩)) ∧
     (let n := (p.src l o.s2).toNat
      let next := p.src l o.s3
      a.toNat % 8 = 0 → next.toNat % 8 = 0 → n < 2 ^ 31 → checkAccess s w .atomic [(a, 8)] = .ok s1 → onLost s1 flat [(a, 8)] = false →
      isReplicated s1 flat a = false → isLost s1 flat a = false → inSpad a = false → isHostVa s1 flat a = false → storesDone s1 k = true →
        let q := counterStep (releaseAt s1 flat (scopeOfMod o.mod)) p.ctx flat 0 [next] n a
        Leaves (.cntadd h o) j s (q.1.modPart k (·.put o.d (BitVec.ofNat 64 q.2)))) ∧
     (∀ old ids, p.sleep = .cancel old ids → allStopped s ids = true →
       Gives (.cancel h o) i s fun q => Part.put { q with sleep := .awake } o.d old) ∧
     (p.sleep = .awake → a.toNat % 8 = 0 → checkAccess s w .atomic [(a, 8)] = .ok s1 → onLost s1 flat [(a, 8)] = false →
      isReplicated s1 flat a = false → isLost s1 flat a = false → inSpad a = false → isHostVa s1 flat a = false → storesDone s1 k = true →
        let q := cancelWord (releaseAt s1 flat 4) flat a
        (q.1.part k).st ≠ .free → (q.1.part k).sleep ≠ .ending → allStopped q.1 q.2.2 = true →
        Leaves (.cancel h o) i s (q.1.modPart k (·.put o.d q.2.1))) ∧
     (badRatio a = false →
       (∀ id, p.launch = some id →
         Leaves (.clkreq h o) i s ((modLaunch s id fun x => { x with asks := mset x.asks (ordOf flat) a }).modPart k (·.put o.d (s.dev (ordOf flat)).clkseq))) ∧
       (p.launch = none → Gives (.clkreq h o) i s (·.put o.d (s.dev (ordOf flat)).clkseq)))) ∧
  (∀ (s : State) (c flat : Nat) (blk : W64) (n : Nat) (a b : W64),
     let r := counterWord s flat a
     let w := r.2
     let count := min (w % 2 ^ 31 + n) (2 ^ 31 - 1)
     let target := w / 2 ^ 31 % 2 ^ 31
     let done := w / 2 ^ 62 = 0 ∧ target ≠ 0 ∧ target ≤ count
     (counterStep s c flat blk [b] n a).2 = w ∧
     (done → b ≠ 0 → (counterStep s c flat blk [b] n a).1.adds = s.adds ++ [⟨c, flat, blk, [b], 1, none⟩]) ∧
     (¬ done ∨ b = 0 → (counterStep s c flat blk [b] n a).1.adds = s.adds) ∧
     (counterStep s c flat blk [] n a).1 = homeWrite r.1 flat a (bytesOf 8 (w / 2 ^ 31 * 2 ^ 31 + count + if done then 2 ^ 62 else 0)))

/-- R273, R274, R278, R284: a unit starts in a free partition with the registers of its launch; the oldest counter add whose counter can be reached is performed; a unit whose core is withdrawn
cancels its launch; a changed grant takes effect with the next CLKSEQ.
The model's own choices that it rests on: log entries 1, 3, 36, 45, 46, 56, 87, 92, 93, 94, 95, 96, 104 and 105. -/
def Obligations.LaunchEvents : Prop :=
  (∀ (s : State) (id unit flat : Nat) (l : Launch), launchOf s id = some l → l.units[unit]? = some flat → l.st = .waking → l.started.contains unit = false →
    coreGone s (l.flag 4) flat = false → exec (.unitStart id unit) s = .next (wakeUnit s l unit flat)) ∧
  (∀ (l : Launch) (unit : Nat),
    let p := unitPart l unit
    p.pc = l.code ∧ p.unitIdx = BitVec.ofNat 32 unit ∧ p.unitCnt = BitVec.ofNat 32 l.units.length ∧ p.launchPtr = l.blk ∧ p.cbankPtr = l.cbank ∧
    p.s = Vector.replicate 64 0 ∧ p.v = Vector.replicate 64 0 ∧ p.p = Vector.replicate 8 0 ∧ p.fpctl = 0 ∧ p.fpflags = 0 ∧ p.trapvec = 0 ∧ p.upcallVec = 0 ∧
    p.chkptVec = 0 ∧ p.inTrap = false ∧ p.stallchk = !l.flag 1 ∧ p.st = .resident ∧ p.ctx = l.ctx ∧ p.fmode = .free) ∧
  (∀ (s : State) (x : CAdd) (xs : List CAdd) (a : W64) (next : List W64), s.adds = x :: xs → x.ready s = true → x.ctrs = a :: next → x.launch = none →
    counterBad { s with adds := xs } ⟨x.flat, x.flat * 4, x.ctx⟩ .atomic a = false →
    exec .counterAdd s = .next (counterStep { s with adds := xs } x.ctx x.flat x.blk next x.n a).1) ∧
  (∀ (s : State), (∀ x ∈ s.adds, x.ready s = false) → exec .counterAdd s = .next s) ∧
  (∀ (s : State) (id flat : Nat) (l : Launch), launchOf s id = some l → l.st = .waking → coreGone s (l.flag 4) flat = true →
    ((List.range l.units.length).any fun i => l.units[i]? = some flat && !l.started.contains i) = true →
    exec (.unitWithdrawn id flat) s = .next (packetStatus (writeRecord (cancelLaunches s (withChildren s s.launches.length [l.id])) l.ctx l.flat
      (launchRecord 6 l.blk 0)).1 l.queue 6)) ∧
  (∀ (s : State) (dev : Nat), bestGrant s dev ≠ (s.dev dev).grant → (s.dev dev).granted = none → s.launches = [] →
    exec (.grantChange dev) s = .next (s.modDev dev fun d => { d with grant := bestGrant s dev, clkseq := d.clkseq + 1, granted := some s.ftime }))

/-- R306 to R311: POP, PUSHW and QCLOSE on a work queue of the context: the oldest item; the item appended; CLOSED, or DRAINED where it is empty. A queue that is not the
context's traps QUEUE, reason UNASSIGNED, and a PUSHW to a CLOSED one reason CLOSED.
The model's own choices that it rests on: log entries 3 and 90. -/
def Obligations.WorkQueues : Prop :=
  ∀ (h : Hd) (o : OpC) (s : State),
    let p := s.part s.cur
    let k := s.cur
    let flat := flatOf k
    let dev := ordOf flat
    let id := (p.src 0 o.s1).toNat % 256
    let nb := o.mod.getLsbD 3
    let pd : Fin 8 := ⟨o.mod.toNat % 8, Nat.mod_lt _ (by decide)⟩
    let ip : Iss := { h, reads := rds [o.s1], writes := wr o.d none ++ [(.p pd, none)] }
    let iw : Iss := { h, reads := rds [o.s1, o.s2], writes := wr o.d none }
    let ic : Iss := { h, reads := rds [o.s1], writes := wr o.d none }
    let trap (reason : Nat) := Host.Outcome.next (φ := Fault) (ρ := Refusal) (takeTrap s k ⟨0x09, 0, BitVec.ofNat 64 (reason * 256 + id), none⟩)
    let ends (u : State) (out : Nat) (v pv : W64) : State :=
      ((logOrTake u flat (idxOf k) 3 out (if out = 0 then v else 0)).modPart k fun z => { z with sleep := .awake }).modPart k fun z => (z.put o.d v).put (.p pd) pv
    taskOn s k = none → p.sleep = .awake → (idxOf k ≠ 3 ∨ nb = true) → replayNext s flat (idxOf k) 3 = none →
    ((∀ q, mfind (s.dev dev).wqs id = some q → q.ctx ≠ p.ctx) →
      (issues s ip = true → exec (.pop h o) s = trap 1) ∧ (issues s iw = true → exec (.pushw h o) s = trap 1) ∧
      (issues s ic = true → exec (.qclose h o) s = trap 1)) ∧
    (∀ q, mfind (s.dev dev).wqs id = some q → q.ctx = p.ctx →
      (∀ x xs, q.st ≠ .drained → q.items = x :: xs →
        Leaves (.pop h o) ip s (acquireAt (ends (wqTaken s dev id { q with items := xs }) 0 x.1 ones64) flat (max x.2 (wqScope flat id)))) ∧
      (q.st = .drained → Leaves (.pop h o) ip s (acquireAt (ends s 2 1 0) flat (max q.endScope (wqScope flat id)))) ∧
      (q.st ≠ .drained → q.items = [] → nb = true → Leaves (.pop h o) ip s (ends s 1 0 0)) ∧
      (q.st ≠ .opened → issues s iw = true → exec (.pushw h o) s = trap 2) ∧
      (q.st = .opened → storesDone s k = true → q.items.length < 2 ^ q.log2n →
        Leaves (.pushw h o) iw s ((wqAppend (releaseAt s flat (wqScope flat id)) dev id q flat (p.src 0 o.s2)).modPart k (·.put o.d 1))) ∧
      (q.st = .opened → storesDone s k = true → 2 ^ q.log2n ≤ q.items.length → nb = true →
        Leaves (.pushw h o) iw s ((releaseAt s flat (wqScope flat id)).modPart k (·.put o.d 0))) ∧
      (q.st = .opened → storesDone s k = true → q.pushers = [] → q.items ≠ [] →
        Leaves (.qclose h o) ic s ((setWq (releaseAt s flat (wqScope flat id)) dev id { q with st := .closed, endScope := wqScope flat id, pushers := [] }).modPart k
          (·.put o.d (BitVec.ofNat 64 q.items.length)))) ∧
      (q.st ≠ .opened → storesDone s k = true →
        Leaves (.qclose h o) ic s ((releaseAt s flat (wqScope flat id)).modPart k (·.put o.d (BitVec.ofNat 64 q.items.length)))))

/-- R112, R101, R113, R110: ALIGN goes on where its window is 0, where its condition holds, or where its wait has ended; FOLLOW joins a leader or becomes
one, and UNFOLLOW leaves; EXIT ends the unit; in partition D it traps ILLEGAL, reason VALUE.
The model's own choices that it rests on: log entries 22, 25, 97 and 173. -/
def Obligations.ConvergeAndExit : Prop :=
  ∀ (h : Hd) (q : Pred) (o : OpB) (s : State),
    let p := s.part s.cur
    let k := s.cur
    let i : Iss := { h, reads := rds [o.s1, o.s2] }
    let m := (p.src 0 o.s1).toNat % 65536
    let window := (p.src 0 o.s2).toNat % 65536
    let lead : Fin 16 := ⟨(p.src 0 o.s1).toNat % 16, Nat.mod_lt _ (by decide)⟩
    let s1 := s.modPart k fun p => { p with sleep := .align p.pc m }
    let value := takeTrap s k ⟨0x01, 0, BitVec.ofNat 64 (0x0D + p.pc.toNat / 2 % 32 * 256), none⟩
    let leaves (ins : Instr) (j : Iss) : Prop :=
      (p.fmode = .leading → Gives ins j s fun p => { p.drain with fmode := .free, fmask := 0 }) ∧
      (p.fmode = .following → issues s j = true → exec ins s = jumped j s (leaveGroup (s.modPart k Part.drain) k) p.npc) ∧
      (p.fmode = .free ∨ p.fmode = .joining → Gives ins j s Part.drain)
    let ends (ins : Instr) (j : Iss) : Prop :=
      issues s j = true → (idxOf k ≠ 3 → exec ins s = placedAt j s (exitUnit s k)) ∧ (idxOf k = 3 → exec ins s = .next value)
    (p.fwdNow.isSome = true → Leaves (.align h o) i s s) ∧
    (∀ w v, p.fwdNow = none → p.sleep = .woken w v → Gives (.align h o) i s fun p => { p with sleep := .awake }) ∧
    (p.fwdNow = none → p.sleep = .awake → (window = 0 ∨ alignMet s1 k p.pc m = true) →
      Leaves (.align h o) i s ((alignWake s1 (clOf (flatOf k))).modPart k fun p => { p with sleep := .awake })) ∧
    (p.fmode = .free → p.fwdNow = none →
      (lead.val = posOf (flatOf k) → Gives (.follow h o) i s fun p => { p.drain with fmode := .leading, fmask := 0 }) ∧
      (lead.val ≠ posOf (flatOf k) → window ≠ 0 → Gives (.follow h o) i s fun p => { p.drain with fmode := .joining, leader := lead, joinAt := p.npc }) ∧
      (lead.val ≠ posOf (flatOf k) → window = 0 → Gives (.follow h o) i s Part.drain)) ∧
    (p.fmode ≠ .free ∨ p.fwdNow.isSome = true → Gives (.follow h o) i s Part.drain) ∧
    leaves (.unfollow h) { h } ∧ leaves (.unfollowPred h q) { h, q := some q } ∧ ends (.exit h) { h } ∧ ends (.exitPred h q) { h, q := some q }

/-- R112, R113: the window of an ALIGN or of a FOLLOW ends its wait. R97 to R99, R103, R111: one cc of a core's scheduler, and of one whose choice is a follower:
the partition chosen runs next; after its issue, or where none is eligible, STALL counts down in every other partition, and an eligible partition A to C that has not
issued counts its wait; a partition that is found waiting is not eligible, and the scheduler chooses again in the same cc. R68, R100: the fetch port serves the
oldest request, and a unit of a launch finds a line as it was visible when the launch was issued, where the launch has not stored to it. R98, R99, R111: only an eligible partition is chosen, one is chosen where any is eligible, the longest wait of 128 or more comes first, then a handler
that has not issued three times in a row, and one that has yielded comes last.
The model's own choices that it rests on: log entries 1, 3, 5, 17, 18, 19, 20, 23, 27, 39, 149, 172 and 192. -/
def Obligations.IssueEvents : Prop :=
  (∀ (s : State) (k : Nat),
     let p := s.part k
     (∀ a m, p.sleep = .align a m → exec (.alignWindowExpiry k) s = .next (s.modPart k fun p => { p with sleep := .woken 0 0, blocked := none })) ∧
     ((∀ a m, p.sleep ≠ .align a m) → exec (.alignWindowExpiry k) s = .next s) ∧
     (p.fmode = .joining → exec (.joinWindowExpiry k) s = .next (s.modPart k fun p => ({ p with fmode := .free }).goto p.joinAt s.steps)) ∧
     (p.fmode ≠ .joining → exec (.joinWindowExpiry k) s = .next s) ∧
     (∀ flat,
       let s1 := coreCc s flat
       let chosen (q : Nat) : State := { s1 with sel := some (flat * 4 + q), cur := flat * 4 + q }
       ((s.dev (ordOf flat)).boot ≠ 3 →
         (∀ q, chooseLogged s1 flat = some q → exec (.issueSelect flat) s = .next (chosen q)) ∧
         (chooseLogged s1 flat = none → ∃ t, exec (.issueSelect flat) s = .next t ∧ t.sel = none ∧ t.cur = flat * 4 ∧ (t.core flat).yielded = none ∧ t.mem = s1.mem ∧
           ∀ q, q < 4 → (t.part (flat * 4 + q)).stall = (s1.part (flat * 4 + q)).stall - 1 ∧
             (t.part (flat * 4 + q)).waitCount = (s1.part (flat * 4 + q)).waitCount + if q < 3 ∧ eligible s1 (flat * 4 + q) = true then 1 else 0)) ∧
       ((s.dev (ordOf flat)).boot = 3 → exec (.issueSelect flat) s = .next s) ∧
       (∀ q, k = flat * 4 + q → q < 4 →
         ((s1.part k).fwdNow.isSome = true ∨ (s1.part k).twill ≠ [] → chooseLogged s1 flat = some q → exec (.twillForwardIssue k) s = .next (chosen q)) ∧
         ((s1.part k).fwdNow = none ∧ (s1.part k).twill = [] ∨ chooseLogged s1 flat ≠ some q → exec (.twillForwardIssue k) s = .next s))) ∧
     (∀ cl j l age, oldestFetch s cl = some (j, l, age) →
       let s1 := hotLoad (recallOthers { s with free := s.free + 1 } none (flatOf j) l) (flatOf j) l
       ∃ t, exec (.fetchLine cl) s = .next t ∧ (∀ r ∈ (t.part j).freq, r.1 ≠ l) ∧ (t.part j).fbuf = (s1.part j).fbuf ++ [⟨l, readLine s1 j l⟩]) ∧
     (∀ cl, oldestFetch s cl = none → exec (.fetchLine cl) s = .next s)) ∧
  -- the line that a unit of a launch fetches is that of its launch's image, where the launch has not stored to it
  (∀ (s : State) (k : Nat) (l : W64) (id : Nat) (x : Launch) (v : BitVec 512), (s.part k).launch = some id → launchOf s id = some x →
    let leaves : Map Die := x.image.leaves.map fun d => (d.1, { Die.reset with leaves := d.2 })
    let t : State := { s with mem := x.image.mem, guests := x.image.guests, pages := x.image.pages, dies := leaves }
    homeKey t (flatOf k) l ≠ none → vaId s (flatOf k) l ∉ x.own → readLine s k l = some v → v = bv512 ((bytesAt l 64).map (loadByte t (whoOf s k)))) ∧
  -- the end of a cc: an issue, or a try that found its partition waiting
  (∀ (t s : State) (k : Nat),
     let flat := flatOf k
     (s.sel ≠ some k → s.issued = true → ccEnds t s k = ccPassed t (noteRun s flat (idxOf k)) flat (some (idxOf k))) ∧
     (s.sel ≠ some k → s.issued = false → (s.part k).blocked = some s.epoch → ccEnds t s k = selectNow s flat (chooseLogged s flat)) ∧
     (∀ j q, q < 4 →
       let u := (ccPassed t s flat (some j)).part (flat * 4 + q)
       let p := s.part (flat * 4 + q)
       u.stall = (if q = j then p.stall else p.stall - 1) ∧
       u.waitCount = (if q < 3 ∧ q ≠ j ∧ eligible t (flat * 4 + q) = true then p.waitCount + 1 else p.waitCount)) ∧
     eligible (waiting s k) k = false) ∧
  (∀ (s : State) (flat : Nat),
     let c := s.core flat
     let el (q : Nat) : Prop := eligible s (flat * 4 + q) = true
     let wait (q : Nat) : Nat := (s.part (flat * 4 + q)).waitCount
     (∀ q, choose s flat = some q → q < 4 ∧ el q) ∧
     ((∀ q, q < 4 → ¬ el q) → choose s flat = none) ∧
     (c.last < 3 → (∃ q, q < 4 ∧ el q) → (choose s flat).isSome = true) ∧
     ((∀ q, q < 3 → el q → wait q < 128) → el 3 → (c.dRun < 3 ∧ c.yielded ≠ some 3 ∨ ∀ q, q < 3 → ¬ el q) → choose s flat = some 3) ∧
     (∀ q, q < 3 → el q → 128 ≤ wait q → (∀ r, r < 3 → r ≠ q → wait r < wait q) → choose s flat = some q) ∧
     (∀ y, c.yielded = some y → (∀ q, q < 3 → el q → wait q < 128) → (∃ q, q < 4 ∧ q ≠ y ∧ el q) → choose s flat ≠ some y))

/-- R348 to R369: AMSG sends a message with its operands and answers 1; in partition D it answers 0 where the outbound queue is full; AMRET ends the
handler and replies; AMWAIT gives the reply's word, clears the predicate, or raises the deferred trap of a failed one.
The model's own choices that it rests on: log entries 22, 58, 80 and 176. -/
def Obligations.MessageInstructions : Prop :=
  ∀ (h : Hd) (o : OpE) (s : State),
    let p := s.part s.cur
    let k := s.cur
    let flat := flatOf k
    let l := o.lit.getD 0
    let rp := o.mod.getLsbD 1
    let i : Iss := { h, reads := rds [o.s1, o.s2, o.s3, o.s4], writes := wr o.d none }
    let r : Iss := { h, reads := if o.s1 = .v 0 then [] else rds [o.s1] }
    let w : Iss := { h, reads := rds [o.s1], writes := wr o.d none ++ wr (predDst o.s4) none }
    let tag : Half := (p.src l o.s4).setWidth 16
    let dest := (p.src l o.s1).toNat % 2 ^ 32
    let m : Msg := { dest, tag, cls := if o.mod.getLsbD 0 then 3 else 0, rp, bnc := false, status := 0, handler := p.src l o.s2
                     args := (List.range 4).map fun j => (p.vreg o.s3).extractLsb' (64 * j) 64, key := 0, src := flat
                     srcPart := ⟨idxOf k, by unfold idxOf; omega⟩, ctx := p.ctx, task := false, parent := none, sender := .nobody }
    let s1 := if rp then s.modPart k fun p => { p with replies := p.replies ++ [⟨tag, dest, none⟩] } else s
    let value := takeTrap s k ⟨0x01, 0, BitVec.ofNat 64 (0x0D + p.pc.toNat / 2 % 32 * 256), none⟩
    taskOn s k = none →
    (storesDone s k = true → (rp = true → idxOf k ≠ 3 ∧ (∀ x ∈ p.replies, x.tag ≠ tag) ∧ p.replies.length < 32) →
      (outbound s flat < 16 →
        Leaves (.amsg h o) i s ((perf (sendMsg (releaseAt s1 flat (msgScope s1 flat dest)) m) k 9 1).modPart k (·.put o.d 1))) ∧
      (16 ≤ outbound s flat → idxOf k = 3 → Leaves (.amsg h o) i s ((releaseAt s1 flat (msgScope s1 flat dest)).modPart k (·.put o.d 0)))) ∧
    (issues s i = true → rp = true → (idxOf k = 3 ∨ ∃ x ∈ p.replies, x.tag = tag) → exec (.amsg h o) s = .next value) ∧
    (idxOf k = 3 → p.drained = true →
      -- AMRET first acquires what the handler's write streams wrote, as EXIT does (R233)
      let u := streamsAcquired s k
      (∀ x, (u.core flat).dmsg = some x → x.rp = true → storesDone u k = true → issues s r = true →
        exec (.amret h o) s = placedAt r s (dIdle (sendMsg (releaseAt u flat (msgScope u x.src flat)) (replyTo x 0 (match o.s1 with
          | .v _ => 0
          | y => p.src l y) 0 0)) flat)) ∧
      (∀ x, (u.core flat).dmsg = some x → x.rp = false → issues s r = true → exec (.amret h o) s = placedAt r s (dIdle u flat))) ∧
    ((∀ r : Fin 8, (p.streams[r]).state = .unbound ∨ (p.streams[r]).write = false) → streamsAcquired s k = s) ∧
    (idxOf k ≠ 3 → issues s r = true → exec (.amret h o) s = .next value) ∧
    (idxOf k ≠ 3 → ∀ x st w0 w1 reason, p.replies.find? (fun x => x.tag = (p.src l o.s1).setWidth 16) = some x → x.reply = some (st, w0, w1, reason) →
      let t := s.modPart k fun p => { p with replies := p.replies.erase x }
      (st = 0 → Leaves (.amwait h o) w s (acquireAt (t.modPart k fun p => (p.put o.d w0).put (predDst o.s4) ones64) flat (msgScope s flat x.dest))) ∧
      (st ≠ 0 → o.mod.getLsbD 0 = true → Leaves (.amwait h o) w s (t.modPart k (·.put (predDst o.s4) 0))) ∧
      (st ≠ 0 → o.mod.getLsbD 0 = false → issues s w = true →
        exec (.amwait h o) s = .next (takeTrap t k (replyTrap ((p.src l o.s1).setWidth 16) st w1 reason)))) ∧
    (issues s w = true → (idxOf k = 3 ∨ ∀ x ∈ p.replies, x.tag ≠ (p.src l o.s1).setWidth 16) → exec (.amwait h o) s = .next value) ∧
    -- the traps of R363, and MESSAGE of R364
    (∀ (tg : Half) (st : Nat) (w1 : W64) (reason : Nat),
      replyTrap tg 1 w1 reason = ⟨0x08, 1, w1, none⟩ ∧ replyTrap tg 2 w1 reason = ⟨0x03, 1, w1, some (0x300 + reason)⟩ ∧
      replyTrap tg 3 w1 reason = ⟨0x10, 1, w1, some (0x300 + reason)⟩ ∧ replyTrap tg 4 w1 reason = ⟨0x0C, 1, w1, none⟩ ∧
      (5 ≤ st → st < 16 → (replyTrap tg st w1 reason).code = 0x12 ∧ (replyTrap tg st w1 reason).cls = 1 ∧ (replyTrap tg st w1 reason).fi = none ∧
        (replyTrap tg st w1 reason).val.toNat = tg.toNat * 65536 + st * 256))

/-- R352 to R362: a message that leads its lane arrives: bounced where it is refused, carried out where it is built in, else queued in partition D; a handler
starts with the message's words in its registers; a handler of 100 µs is ended; a reply reaches the slot of its tag; a bounce is recorded.
The model's own choices that it rests on: log entries 57, 80, 120, 123, 125, 126, 127, 138 and 176. -/
def Obligations.MessageEvents : Prop :=
  (∀ (n : Nat) (s : State) (m : Msg), s.net[n]? = some m → firstOfLane s n = true →
    let t := takeMsg s n
    (m.task = false → m.cls = 3 → exec (.messageArrival n) s = .next (serviceArrive t m)) ∧
    (m.task = false → m.cls = 0 →
      (((s.ctx m.ctx).live = false ∨ inPartition s m.dest = false) → exec (.messageArrival n) s = .next (bounceMsg t m 5)) ∧
      ((s.ctx m.ctx).live = true → inPartition s m.dest = true →
        (m.handler.toNat % 2 = 1 ∨ (m.handler.toNat < 0x100 ∧ m.handler.toNat ∉ [0x08, 0x10, 0x18, 0x20, 0x28]) →
          exec (.messageArrival n) s = .next (bounceMsg t m 7)) ∧
        (0x100 ≤ m.handler.toNat → m.handler.toNat % 2 = 0 →
          (fateOf t m.dest m.ctx = .exited → exec (.messageArrival n) s = .next (bounceMsg t m 5)) ∧
          (fateOf t m.dest m.ctx = .live → inboxHolds t m.dest m.ctx = false → (t.core m.dest).dq.length < 32 →
            exec (.messageArrival n) s = .next (t.modCore m.dest fun c => { c with dq := c.dq ++ [m] }))) ∧
        -- the built-ins: carried out, or left in the tree while what they act on cannot be reached or is halted
        (m.handler = 0x20 → m.arg 2 = 0 → m.arg 3 = 0 →
          exec (.messageArrival n) s = .next (if (t.cluster (clOf m.dest)).halted then s else builtin t m)) ∧
        (m.handler = 0x28 → exec (.messageArrival n) s = .next (builtin t m)) ∧
        (m.handler = 0x10 → m.arg 1 < 4 → m.arg 0 % 2 ^ m.arg 1 = 0 → m.arg 3 = 0 →
          exec (.messageArrival n) s = .next (if engineCut t m.src (m.args.getD 0 0) (2 ^ m.arg 1) then s else builtin t m)))) ∧
    (m.isReply = true → fateOf t m.dest m.ctx = .live → exec (.replyArrival n) s = .next (fillSlot t m)) ∧
    (m.cls = 1 → m.bnc = true → m.rp = false → fateOf t m.dest m.ctx = .live → exec (.bounce n) s = .next (execBounce.record t m))) ∧
  (∀ (s : State) (m : Msg) (k : Nat) (x : RSlot), s.placed m.dest m.ctx = some k → (s.part k).replies = [x] → x.tag = m.tag → x.reply = none →
    fillSlot s m = s.modPart k fun p => { p with replies := [{ x with reply := some (m.status, m.args.getD 0 0, m.args.getD 1 0, m.arg 2 % 256) }] }) ∧
  (∀ (flat : Nat) (s : State) (m : Msg) (ms : List Msg), (s.core flat).dmsg = none → (s.core flat).dq = m :: ms →
    let s1 := s.modCore flat fun c => { c with dq := ms }
    (fateOf s1 flat m.ctx = .exited → exec (.handlerStart flat) s = .next (drainInboxes (bounceMsg s1 m 5) flat)) ∧
    (∀ k, fateOf s1 flat m.ctx = .live → s1.placed flat m.ctx = some k →
      let s2 := (s1.modCore flat fun c => { c with dmsg := some m, dStart := s1.ftime }).modPart (flat * 4 + 3) fun d => handlerPart d (s1.part k) m s1.steps
      exec (.handlerStart flat) s = .next (drainInboxes (acquireAt s2 flat (msgScope s2 m.src flat)) flat))) ∧
  (∀ (d a : Part) (m : Msg) (seq : Nat),
    let q := handlerPart d a m seq
    q.pc = m.handler ∧ q.st = .resident ∧ q.ctx = m.ctx ∧ q.stallchk = true ∧ q.fpctl = 0 ∧ q.stall = 0 ∧
    (∀ j : Fin 4, q.s[4 + j.val] = m.args.getD j.val 0) ∧ q.s[56] = m.header ∧ q.s[57].toNat = m.src % 2 ^ 32 + m.srcPart.val * 2 ^ 32) ∧
  (∀ (flat : Nat) (s : State), (s.core flat).dmsg ≠ none →
    (100000 ≤ since s (s.core flat).dStart → exec (.htimeout flat) s = .next { handlerFault s flat 0x17 0 0 with sel := none, issued := false }) ∧
    (since s (s.core flat).dStart < 100000 → exec (.htimeout flat) s = .next s))

/-- R370 to R382, R393 to R397: CPY, CPYTRY, MCFILL and its .park form push a request on a channel and answer its ID; CPYWAIT answers CPY_DONE or takes the deferred
trap of the first untaken record; MCDRAIN writes a parked slot; MBXPOP gives the oldest mailbox entry.
The model's own choices that it rests on: log entries 20, 34, 36, 131, 132, 133, 136 and 156. -/
def Obligations.CopyInstructions : Prop :=
  ∀ (h : Hd) (o : OpE) (s : State),
    let p := s.part s.cur
    let k := s.cur
    let flat := flatOf k
    let cl := clOf flat
    let l := o.lit.getD 0
    let ch := chanOf o.mod
    let i : Iss := { h, reads := rds [o.s1, o.s2, o.s3, o.s4], writes := wr o.d none }
    let w : Iss := { h, reads := rds [o.s1], writes := wr o.d none }
    let dr : Iss := { h, reads := rds [o.s1, o.s2], writes := wr o.d none }
    let mb : Iss := { h, writes := wr o.d none ++ wr (predDst o.s4) none }
    let formOk (a : W64) (n : Nat) : Prop := ∀ r ∈ piecesOf a n, regionOf r.1 ≠ .nonCanon ∧ regionOf r.1 ≠ .window
    -- a request enters its channel: held where it asks so and no credit is kept
    let pushed (r : CReq) : State :=
      let t := releaseAt s flat r.scope
      modChan t k ch fun c => { c with next := c.next + 1, reqs := c.reqs ++ [{ r with id := c.next, st := if o.mod.getLsbD 5 then .held else .queued }] }
    let pushes (ins : Instr) (r : CReq) (f : State → State) : Prop :=
      storesDone s k = true → (p.chans[ch]).reqs.length < 8 →
      (o.mod.getLsbD 5 = true → ((releaseAt s flat r.scope).part k).spend ⟨ch.val + 1, by have := ch.isLt; omega⟩ = none) →
      Leaves ins i s ((f (pushed r)).modPart k (·.put o.d (BitVec.ofNat 64 (((releaseAt s flat r.scope).part k).chans[ch]).next)))
    let value := takeTrap s k ⟨0x01, 0, BitVec.ofNat 64 (0x0D + p.pc.toNat / 2 % 32 * 256), none⟩
    (idxOf k ≠ 3 → taskOn s k = none →
      -- CPY, CPYTRY
      (let r := copyReq p o
       r.bad (p.src l o.s3) = false → r.src.toNat % r.ew = 0 → r.dst.toNat % r.ew = 0 → formOk r.src r.ew → formOk r.dst r.ew →
         let rs : CReq := { r with scope := engineScope s flat r.ranges }
         ((r.clip = false ∨ mailboxUsed s flat < 64) → pushes (.cpy h o) rs id ∧ pushes (.cpytry h o) rs id) ∧
         (8 ≤ (p.chans[ch]).reqs.length → Gives (.cpytry h o) i s (·.put o.d 0))) ∧
      -- MCFILL
      (let src := p.src l o.s1
       let dst := p.src l o.s2
       let len := (p.src l o.s3).toNat
       let mask := (p.src l o.s4).toNat
       let r : CReq := { id := 0, pc := p.pc, kind := .fill, st := .queued, src, dst, ew := 64, rows := 0, cols := 0, x0 := 0, y0 := 0, w := 0, h := 0
                         sstride := 0, dstride := 0, clip := false, len, mask, slot := 0, scope := engineScope s flat [(src, len)], ack := 0
                         home := none, broken := none }
       len ≠ 0 → mask < 65536 → inSpad src = false → src.toNat % 64 = 0 → formOk src len →
         (len ≤ 65536 → (∃ x off, regionOf dst = .spad true x off) → dst.toNat % 64 = 0 → pushes (.mcfill h o) r id) ∧
         (len ≤ 49152 → dst.toNat < 8 → (hbGrant s p.ctx cl).getLsbD dst.toNat = true → mfind (s.cluster cl).hb dst.toNat = none →
           pushes (.mcfillPark h o) { r with kind := .park, dst := 0, slot := dst.toNat }
             (setSlot · cl dst.toNat ⟨false, false, flat, p.ctx, mask, r.scope, []⟩))) ∧
      -- CPYWAIT on a channel
      (o.mod.getLsbD 2 = false →
        let id := (p.src l o.s1).toNat
        let c := p.chans[ch]
        (c.next ≤ id → issues s w = true → exec (.cpywait h o) s = .next value) ∧
        (id < c.done → c.done ≤ c.next → (∀ x ∈ c.recs, id < x.id) → Leaves (.cpywait h o) w s (acquireAt (s.modPart k (·.put o.d (BitVec.ofNat 64 c.done))) flat c.scope)) ∧
        (∀ x, id < c.next → c.recs.find? (fun x => x.id ≤ id) = some x → issues s w = true →
          exec (.cpywait h o) s = .next (takeTrap (markTaken (modChan s k ch fun c => { c with recs := c.recs.erase x }) p.ctx flat x.slot) k x.trap))) ∧
      -- CPYWAIT.r on the transfers
      (o.mod.getLsbD 2 = true →
        let id := (p.src l o.s1).toNat
        id < p.rpNext → id < p.rpDone → (∀ x ∈ p.rpRecs, id < x.id) →
          Leaves (.cpywait h o) w s (acquireAt (s.modPart k (·.put o.d (BitVec.ofNat 64 p.rpDone))) flat 4)) ∧
      -- MCDRAIN
      (let slot := (p.src l o.s1).toNat
       let dst := p.src l o.s2
       let clean := s.modPart k fun q => { q with hbWait := none }
       slot < 8 → dst.toNat % 64 = 0 → formOk dst 1 →
         (p.hbWait = some (slot, true) → Leaves (.mcdrain h o) dr s (clean.modPart k (·.put o.d 0))) ∧
         (p.hbWait ≠ some (slot, true) →
           (∀ x, mfind (s.cluster cl).hb slot = some x → x.parked = true → x.ctx = p.ctx → x.mask / 2 ^ posOf flat % 2 = 1 →
             (x.failed = true → Leaves (.mcdrain h o) dr s ((clearBit clean cl slot (posOf flat)).modPart k (·.put o.d 0))) ∧
             (∀ s1, x.failed = false → bufOverlaps s k dst x.data.length = false → checkAccess s (whoOf s k) .write [(dst, x.data.length)] = .ok s1 →
               (∀ y ∈ linesOf dst x.data.length, isReplicated s1 flat y = false ∧ (isLost s1 flat y && !wholeLine dst x.data.length y) = false) →
               let u := s1.modPart k fun q => { q with hbWait := none }
               Leaves (.mcdrain h o) dr s (acquireAt ((clearBit (engineWrite u flat dst x.data) cl slot (posOf flat)).modPart k
                 (·.put o.d (BitVec.ofNat 64 x.data.length))) flat 1))) ∧
           ((∀ x, mfind (s.cluster cl).hb slot = some x → x.parked = false ∨ x.ctx ≠ p.ctx ∨ x.mask / 2 ^ posOf flat % 2 ≠ 1) →
             (o.mod.getLsbD 0 = true → Leaves (.mcdrain h o) dr s (clean.modPart k (·.put o.d 0))) ∧
             (o.mod.getLsbD 0 = false → issues s dr = true →
               exec (.mcdrain h o) s = .next (waiting (clean.modPart k fun q => { q with hbWait := some (slot, false) }) k))))) ∧
      -- MBXPOP
      (∀ e v, (s.core flat).mailbox.find? (fun e => e.ctx = p.ctx) = some e → o.d = .v v → p.bound v = false →
        let t := (s.modCore flat fun c => { c with mailbox := c.mailbox.erase e }).modPart k fun p => (p.setV v (e.data.setWidth 2048)).put (predDst o.s4) ones64
        Leaves (.mbxpop h o) mb s (if e.scope ≠ 0 then acquireAt t flat e.scope else t)) ∧
      ((∀ e ∈ (s.core flat).mailbox, e.ctx ≠ p.ctx) → o.mod.getLsbD 0 = true → (∀ v, o.d = .v v → p.bound v = false) →
        Gives (.mbxpop h o) mb s (·.put (predDst o.s4) 0))) ∧
    (idxOf k = 3 ∨ (taskOn s k).isSome = true →
      (issues s i = true → exec (.cpy h o) s = .next value ∧ exec (.cpytry h o) s = .next value ∧ exec (.mcfill h o) s = .next value ∧
        exec (.mcfillPark h o) s = .next value) ∧
      (issues s w = true → exec (.cpywait h o) s = .next value) ∧ (issues s dr = true → exec (.mcdrain h o) s = .next value) ∧
      (issues s mb = true → exec (.mbxpop h o) s = .next value))

/-- R373 to R380: the events of copies: the next request of a channel runs, or is DONE at once where it is a fill with no receiver; its next
elements, in row-major order, as many as one granule of the destination takes, are read and written; after the last the request is DONE, at its own die at once, else
with the COPYACK of the home of its last write; at its first element with a fault, all before it written, or where its pin was broken (R224), it is DONE with a record; a
fill of a slot ends PARKED.
The model's own choices that it rests on: log entries 36, 59, 60, 128, 129, 130, 131 and 176. -/
def Obligations.CopyEvents : Prop :=
  ∀ (k : Nat) (ch : Fin 4) (s : State), (s.cluster (clOf (flatOf k))).halted = false →
    (∀ r rs, ((s.part k).chans[ch]).reqs = r :: rs → r.st = .queued →
      let t := modChan s k ch fun c => { c with reqs := { r with st := .running } :: rs }
      exec (.copyStart k ch) s = .next (if r.kind = .fill && r.mask = 0 then copyFinish t k ch r else t)) ∧
    (∀ r, runningHead s k ch = some r → r.kind ≠ .park →
      (r.broken = none →
        (r.count ≤ r.ack → exec (.copyDone k ch) s = .next (copyEnd s k ch r)) ∧
        (r.ack < r.count → copyReady s (whoOf s k) r = [] → exec (.copyDone k ch) s = .next s) ∧
        (r.ack < r.count → copyReady s (whoOf s k) r ≠ [] →
          let m := copyMove s k ch r
          let x := (copyReady s (whoOf s k) r).foldl (copyStep (whoOf s k)) (s, r)
          exec (.copyDone k ch) s = .next (if m.2.count ≤ m.2.ack then copyEnd m.1 k ch m.2 else m.1) ∧
          m = (modChan x.1 k ch fun c => { c with reqs := x.2 :: c.reqs.drop 1 }, x.2))) ∧
      (∀ e acc, copyStop s (whoOf s k) r = some (e, acc) →
        exec (.copyFault k ch) s =
          .next (copyFinish (copyRecord (fillDenied (e.note s (flatOf k)) k ch r) k ch r e.code e.reason acc e.addr 0) k ch r)) ∧
      (copyStop s (whoOf s k) r = none → exec (.copyFault k ch) s = .next s)) ∧
    -- the elements of one act, and one of them
    (∀ (w : Who) (r : CReq),
      (∀ j i, (copyReady s w r)[j]? = some i → i = r.ack + j ∧ i < r.count ∧ granuleAt s w.flat (r.elem i).2.1 = granuleAt s w.flat (r.elem r.ack).2.1 ∧
        copyCut s w.flat r i = false ∧ ∃ s1, copyCheck s w r i = .ok s1) ∧
      (∀ s1, copyCheck s w r r.ack = .ok s1 →
        let n := if r.kind = .copy then r.ew else (r.elem r.ack).2.2 *
          ((List.range 16).filter fun q => r.mask / 2 ^ q % 2 = 1 && deniedSlices s1 w r / 2 ^ q % 2 = 0).length
        copyStep w (s, r) r.ack = (perf (moveElem s1 w r r.ack) w.k 10 n,
          { r with ack := r.ack + 1, home := some (if r.kind = .copy then homeOf s1 w.flat (r.elem r.ack).2.1 else w.flat) }))) ∧
    (∀ r : CReq,
      (dieOf (r.home.getD (flatOf k)) = dieOf (flatOf k) → copyEnd s k ch r = copyGood (fillDenied s k ch r) k ch r) ∧
      (dieOf (r.home.getD (flatOf k)) ≠ dieOf (flatOf k) → ∃ m,
        copyEnd s k ch r = sendMsg (modChan s k ch fun c => { c with reqs := { r with st := .acking } :: c.reqs.drop 1 }) m ∧ m.dest = flatOf k ∧
          m.src = r.home.getD (flatOf k) ∧ m.handler = 0x20 ∧ m.args = [BitVec.ofNat 64 ch.val, BitVec.ofNat 64 r.id, 0, 0])) ∧
    (∀ (w : Who) (r : CReq),
      (∀ acc, r.broken = some acc → copyStop s w r = some (⟨0x10, 0x20, if acc = 0 then (r.elem r.ack).1 else (r.elem r.ack).2.1, none, false⟩, acc)) ∧
      (∀ e acc, r.broken = none → r.ack < r.count → copyCheck s w r r.ack = .error (e, acc) → copyStop s w r = some (e, acc)) ∧
      (∀ i e, engineCheck s w .read (r.elem i).1 (r.elem i).2.2 = .error e → copyCheck s w r i = .error (e, 0)) ∧
      (∀ i s1 e, r.kind = .copy → engineCheck s w .read (r.elem i).1 (r.elem i).2.2 = .ok s1 → engineCheck s1 w .write (r.elem i).2.1 (r.elem i).2.2 = .error e →
        copyCheck s w r i = .error ({ e with walked := e.walked || walks s w (r.elem i).1 }, 1))) ∧
    -- a park: the lines it read stand in its slot, which is PARKED, or PARKED and failed with a record; with no receiver left the slot frees
    (∀ (slot : Fin 8) j c r h, parkOf s (clOf (flatOf k)) slot.val = some (j, c, r) → mfind (s.cluster (clOf (flatOf k))).hb slot.val = some h →
      let cl := clOf (flatOf k)
      let add (s : State) (_ : Nat) (bs : List Byte) : State :=
        match mfind (s.cluster cl).hb slot.val with
        | some h => setSlot s cl slot.val { h with data := h.data ++ bs }
        | none => s
      let ends (s2 : State) (failed : Bool) : Prop := ∀ g, mfind ((copyFinish s2 j c r).cluster cl).hb slot.val = some g →
        (g.mask ≠ 0 → exec (.hbFillEnd cl slot) s = .next (setSlot (copyFinish s2 j c r) cl slot.val { g with parked := true, failed })) ∧
        (g.mask = 0 → exec (.hbFillEnd cl slot) s = .next (freeSlot (copyFinish s2 j c r) cl slot.val { g with parked := true, failed }))
      (r.broken.isSome = true → ends (copyRecord s j c r 0x10 0x20 0 r.src 0) true) ∧
      (r.broken = none → engineCut s (flatOf j) r.src r.len = true → exec (.hbFillEnd cl slot) s = .next s) ∧
      (∀ s1, r.broken = none → engineCut s (flatOf j) r.src r.len = false → readLines (setSlot s cl slot.val { h with data := [] }) (whoOf s j) add (fillLines r.src r.len) = (s1, none) → ends s1 false) ∧
      (∀ s1 e, r.broken = none → engineCut s (flatOf j) r.src r.len = false → readLines (setSlot s cl slot.val { h with data := [] }) (whoOf s j) add (fillLines r.src r.len) = (s1, some e) →
        ends (copyRecord s1 j c r e.code e.reason 0 e.addr 0) true))

/-- R384, R385, R389, R398, R399: RPUT enters a request and answers its ID; GRANTP sets RXPRI and answers the old one; RCANCEL cancels a transfer and answers its
acknowledged count, or all ones for one that has ended. In partition D and inside a task they trap ILLEGAL, reason VALUE. -/
def Obligations.TransferInstructions : Prop :=
  ∀ (h : Hd) (o : OpE) (s : State),
    let p := s.part s.cur
    let k := s.cur
    let l := o.lit.getD 0
    let i : Iss := { h, reads := rds [o.s1, o.s2, o.s3, o.s4, o.s5], writes := wr o.d none }
    let j : Iss := { h, reads := rds [o.s1], writes := wr o.d none }
    let value := takeTrap s k ⟨0x01, 0, BitVec.ofNat 64 (0x0D + p.pc.toNat / 2 % 32 * 256), none⟩
    (idxOf k ≠ 3 → taskOn s k = none →
      (let len := (p.src l o.s4).toNat
       let t := releaseAt s (flatOf k) 4
       let q := t.part k
       let x : Xfer := { id := q.rpNext, pc := q.pc, dest := (q.src l o.s1).toNat % 2 ^ 32, src := p.src l o.s2, dst := q.src l o.s3, len
                         sig := if o.mod.getLsbD 0 then some ((q.src l o.s5).toNat % 65536) else none, st := .requested, announced := false
                         ack := 0, tok := 0, tokId := 0, notes := [], owes := false, broken := none }
       (issues s i = true → (len = 0 ∨ 2 ^ 32 < len) → exec (.rput h o) s = .next value) ∧
       (len ≠ 0 → len ≤ 2 ^ 32 → (∀ r ∈ piecesOf (p.src l o.s2) 1, regionOf r.1 ≠ .nonCanon ∧ regionOf r.1 ≠ .window) → p.xfers.length < 32 →
         storesDone s k = true →
         (o.mod.getLsbD 1 = false →
           Leaves (.rput h o) i s (t.modPart k fun r => Part.put { r with rpNext := q.rpNext + 1, xfers := q.xfers ++ [x] } o.d (BitVec.ofNat 64 q.rpNext))) ∧
         (o.mod.getLsbD 1 = true → q.spend 6 = none →
           Leaves (.rput h o) i s
             (t.modPart k fun r => Part.put { r with rpNext := q.rpNext + 1, xfers := q.xfers ++ [{ x with st := .held }] } o.d (BitVec.ofNat 64 q.rpNext))) ∧
         (∀ z, o.mod.getLsbD 1 = true → q.spend 6 = some z →
           Leaves (.rput h o) i s
             (t.modPart k fun _ => Part.put { z with rpNext := q.rpNext + 1, xfers := q.xfers ++ [x] } o.d (BitVec.ofNat 64 q.rpNext))))) ∧
      (let v := (p.src l o.s1).toNat
       (v ≤ 3 → Gives (.grantp h o) j s fun r => Part.put { r with rxpri := v } o.d (BitVec.ofNat 64 p.rxpri)) ∧
       (3 < v → issues s j = true → exec (.grantp h o) s = .next value)) ∧
      (let id := (p.src l o.s1).toNat
       id ≠ 0 → id < p.rpNext →
         (∀ x, xferOf s k id = some x → x.final = false → Leaves (.rcancel h o) j s ((cancelXfer s k x).modPart k (·.put o.d (BitVec.ofNat 64 x.ack)))) ∧
         ((∀ x, xferOf s k id = some x → x.final = true) → Gives (.rcancel h o) j s (·.put o.d ones64)))) ∧
    (idxOf k = 3 ∨ (taskOn s k).isSome = true →
      (issues s i = true → exec (.rput h o) s = .next value) ∧
      (issues s j = true → exec (.grantp h o) s = .next value ∧ exec (.rcancel h o) s = .next value))

/-- R384 to R391: what passes between a sender and Tabla: announcement, granules of the prefix or of a token (how many in one event is a free value: log entry 61), a
token's arrival and return, expiry, keepalive, reclaim, completion, and the early end of a transfer.
R386, R387, R388: Tabla gives a token, with a number of its own, to an eligible request, whose effective priority rises by 1 every 200 µs from the base priority to 4; a
token whose first byte is not there within 50 µs expires; a request that is silent for 1 ms, its prefix arrived and no token out, is reclaimed.
The model's own choices that it rests on: log entries 37, 43, 56, 61, 128, 137, 138, 139 and 175. -/
def Obligations.TransferEvents : Prop :=
  (∀ (k id : Nat) (s : State) (x : Xfer), idxOf k ≠ 3 → xferOf s k id = some x →
    (x.st = .requested → x.announced = false →
      (fateOf s x.dest (s.part k).ctx = .live → tablaFull s x = false →
        exec (.transferAnnounce k id) s = .next (modXfer (enterTabla s k x false) k id fun x => { x with announced := true })) ∧
      (fateOf s x.dest (s.part k).ctx = .exited → exec (.transferAnnounce k id) s = .next (failXfer s k x 0x13 0x41 0 0))) ∧
    (x.due ≠ 0 → x.broken = none → tentOf s k x ≠ none →
      let m := xferMove { s with free := s.free + 1 } k x (1 + Config.nextGranule s.free % 8192)
      exec (.transferSendDone k id) s = .next (if m.2.1 ≤ x.ack then s else arrived m.1 k x m.2.1)) ∧
    (∀ i upto ns, x.notes = .token i upto :: ns →
      let s1 := modXfer s k id fun x => { x with notes := ns }
      let takes := (x.st = .prefixed ∨ x.st = .expired ∨ x.st = .orphaned) ∧ tentOf s k x ≠ none
      (¬ takes → exec (.tokenArrival k id) s = .next s1) ∧
      (takes → (sends s k = false ∨ upto ≤ x.ack) → exec (.tokenArrival k id) s =
        .next (modXfer (modTent s1 k x fun t => t.back i s.ftime) k id fun x => { x with owes := x.owes || !sends s k })) ∧
      (takes → sends s k = true → x.ack < upto →
        let x1 : Xfer := { x with st := .granted, tokId := i, tok := upto - x.ack, notes := ns }
        let s2 := modXfer s1 k id fun _ => x1
        let m := xferMove { s2 with free := s.free + 1 } k x1 (if x.broken.isSome then 0 else Config.nextGranule s.free % 8192)
        exec (.tokenArrival k id) s = .next (if m.2.1 ≤ x.ack then s2 else arrived m.1 k x1 m.2.1))) ∧
    (∀ i ns, x.notes = .expiry i :: ns →
      ((x.st = .granted ∨ x.st = .sending) → x.tokId = i →
        exec (.expiryNotice k id) s = .next (askOrOwe (modXfer s k id fun x => { x with notes := ns, st := .expired, tok := 0 }) k id)) ∧
      (x.tokId ≠ i → exec (.expiryNotice k id) s = .next (modXfer s k id fun x => { x with notes := ns }))) ∧
    (∀ ns, x.notes = .reclaimed :: ns → (x.st = .prefixed ∨ x.st = .expired) →
      exec (.reclaimNotice k id) s =
        .next (askOrOwe (modXfer (modXfer s k id fun x => { x with notes := ns }) k id fun x => { x with st := .orphaned, owes := true }) k id)) ∧
    (x.final = false → x.announced = true → ((s.part k).st = .resident ∨ (s.part k).st = .preempted ∨ (s.part k).st = .halted) → tentOf s k x ≠ none →
      exec (.keepalive k id) s = .next (modTent s k x fun t => { t with heard := s.ftime })) ∧
    (∀ t, tentOf s k x = some t → t.prefixed = true → t.ack = x.len → (x.st = .prefixed ∨ x.st = .expired ∨ x.st = .orphaned) →
      let s1 := pulse (modXfer (dropTent s k x) k id fun x => { x with st := .complete, notes := [], owes := false }) k 21
      exec (.transferComplete k id) s = .next (match x.sig with
        | some name => (evsig (releaseAt s1 x.dest 4) (clOf x.dest) (s.part k).ctx name 4).getD s1
        | none => s1)) ∧
    (x.final = false →
      (.gone ∈ x.notes → exec (.transferFault k id) s = .next (failXfer s k x 0x13 0x41 0 0)) ∧
      (∀ acc, .gone ∉ x.notes → x.broken = some acc →
        exec (.transferFault k id) s = .next (failXfer s k x 0x10 0x20 acc ((if acc = 0 then x.src else x.dst) + BitVec.ofNat 64 x.ack))) ∧
      (∀ e acc, .gone ∉ x.notes → x.broken = none → (xferMove s k x 1).2.2 = some (e, acc) →
        exec (.transferFault k id) s = .next (failXfer (e.note s (if acc = 0 then flatOf k else x.dest)) k x e.code e.reason acc e.addr)) ∧
      (.gone ∉ x.notes → x.broken = none → (xferMove s k x 1).2.2 = none → exec (.transferFault k id) s = .next s))) ∧
  -- the same events of a part that is SPILLED (R391): the event names its place among those kept away, and it acts on the part there
  (∀ (flat j n : Nat) (s : State) (p : Part) (e : Nat → Nat → Instr) (f : Nat → Nat → State → State),
     (e, f) ∈ [(Instr.transferAnnounce, announceXfer), (.transferSendDone, sendXfer), (.tokenArrival, takeToken), (.expiryNotice, expireXfer),
       (.reclaimNotice, reclaimXfer), (.transferComplete, completeXfer), (.transferFault, stopXfer)] →
     s.away[j]? = some (flat, p) → p.st ≠ .created → n < 2 ^ 48 →
     let k := flat * 4 + 3
     let s1 := f k n (s.setPart k p)
     let q := s1.part k
     exec (e k (j * 2 ^ 48 + n)) s = .next { s1.setPart k (s.part k) with
       away := s1.away.mapIdx fun m b => if m = j then (b.1, { b.2 with xfers := q.xfers, rpRecs := q.rpRecs, damask := q.damask, perf := q.perf }) else b }) ∧
  (∀ (dk : Nat) (s : State) (t : TEnt), (s.die dk).tabla = [t] →
    let put (v : TEnt) : State := s.modDie dk fun d => { d with tabla := [v] }
    (t.eligible s = true →
      (s.placed t.src t.ctx ≠ none → exec (.tokenGrant dk) s = .next (notify
        (put { t with token := some (t.issued + 1, s.ftime, false), issued := t.issued + 1 }) t
          (.token (t.issued + 1) (t.ack + min 65536 (t.len - t.ack))))) ∧
      (s.placed t.src t.ctx = none → exec (.tokenGrant dk) s = .next (put { t with issued := t.issued + 1, since := s.ftime }))) ∧
    (∀ j, s.placed t.dest t.ctx = some j → t.prio s = min ((s.part j).rxpri + since s t.since / 200000) 4) ∧
    (∀ n, exec (.tablaAgeing dk n) s = .next s) ∧
    (∀ i at_, t.token = some (i, at_, false) →
      (50000 ≤ since s at_ → exec (.tokenExpiry dk 0) s = .next (notify (put { t with token := none, since := s.ftime }) t (.expiry i))) ∧
      (since s at_ < 50000 → exec (.tokenExpiry dk 0) s = .next s)) ∧
    (t.token = none → t.prefixed = true → 1000000 ≤ since s t.heard → exec (.reclaim dk 0) s = .next (s.modDie dk fun d => { d with tabla := [] })) ∧
    ((since s t.heard < 1000000 ∨ t.prefixed = false ∨ t.token ≠ none) → exec (.reclaim dk 0) s = .next s))

/-- R400 to R421: the tree instructions of a granted, active region, outside a task: a leaf is a nonnegative finite FP32, a node the FP64 sum of its two children, a draw
counts EC and answers a leaf and its time; each region not granted or not active traps TREE.
The model's own choices that it rests on: log entries 34, 35, 43, 53 and 83. -/
def Obligations.TreeInstructions : Prop :=
  ∀ (h : Hd) (o : OpE) (s : State),
    let p := s.part s.cur
    let k := s.cur
    let cl := clOf (flatOf k)
    let c := s.cluster cl
    let l := o.lit.getD 0
    let g := (p.src l o.s1).toNat % 64
    let x := p.src l o.s2
    let i1 : Iss := { h, reads := rds [o.s1] }
    let i2 : Iss := { h, reads := rds [o.s1, o.s2] }
    let i3 : Iss := { h, reads := rds [o.s1, o.s2, o.s3] }
    let w1 : Iss := { h, reads := rds [o.s1], writes := wr o.d none }
    let w2 : Iss := { h, reads := rds [o.s1, o.s2], writes := wr o.d none }
    let w3 : Iss := { h, reads := rds [o.s1, o.s2, o.s3], writes := wr o.d none }
    let nx : Iss := { h, reads := rds [o.s1], writes := wr o.d none ++ wr (tauDst o.s2) none }
    let tree (obj reason : Nat) := takeTrap s k ⟨0x14, 0, BitVec.ofNat 64 (obj % 2 ^ 32 * 2 ^ 32 + reason * 256 + g), none⟩
    let grant := egrantOf s p.ctx cl
    let putRegion (t : State) (r : TreeRegion) : State := t.modCluster cl fun c => { c with regions := mset c.regions g r }
    let putLeaves (vs : List (Nat × Nat)) : State := s.modCluster cl fun c => vs.foldl (fun c v => setLeaf c v.1 (storedRate v.2)) c
    let keepTo (lo n : Nat) (c : Cluster) : List (Nat × Nat) := c.leaves.filter fun v => !(decide (lo ≤ v.1) && decide (v.1 < lo + n))
    -- R419: EGET and ESUM of a region that the instruction may name
    (∀ r, grant.1.getLsbD g = true → mfind c.regions g = some r →
      ((∀ t, taskOn s k = some t → t.region = r.regid) →
        (x.toNat < 2 ^ r.log2n → Gives (.eget h o) w2 s (·.put o.d (BitVec.ofNat 64 (leafCode c (r.lbase + x.toNat))))) ∧
        (2 ^ r.log2n ≤ x.toNat → issues s w2 = true → exec (.eget h o) s = .next (tree x.toNat 3)) ∧
        (0 < x.toNat → x.toNat < 2 ^ (r.log2n + 1) → Gives (.esum h o) w2 s (·.put o.d (BitVec.ofNat 64 (r.node c x.toNat)))) ∧
        ((x.toNat = 0 ∨ 2 ^ (r.log2n + 1) ≤ x.toNat) → issues s w2 = true → exec (.esum h o) s = .next (tree x.toNat 3)) ∧
        Gives (.eclk h o) w1 s (·.put o.d r.clk)) ∧
      (∀ t, taskOn s k = some t → t.region ≠ r.regid → issues s w2 = true → exec (.eget h o) s = .next (takeTrap s k ⟨0x15, 0, 0x400, none⟩))) ∧
    -- a leaf read as a node is widened, and a node is the sum of its two children
    (∀ base d, nodeAt c base 0 = widen32 (leafCode c base) ∧ nodeAt c base (d + 1) = addRne (nodeAt c base d) (nodeAt c (base + 2 ^ d) d)) ∧
    (taskOn s k = none →
    -- a region that is not the context's, or not active
    (grant.1.getLsbD g = false →
      (issues s w2 = true → exec (.eget h o) s = .next (tree 0 1)) ∧ (issues s nx = true → exec (.enext h o) s = .next (tree 0 1)) ∧
      (issues s i1 = true → exec (.etinitFree h o) s = .next (tree 0 1))) ∧
    (grant.1.getLsbD g = true →
      -- ETINIT and its .free form
      (let w := x.toNat
       let n := w / 65536 % 32
       let base := w / 2 ^ 32 % 65536
       w / 2 ^ 48 = 0 → w / 2 ^ 21 % 2 ^ 11 = 0 → n ≤ 16 → base % 2 ^ n = 0 → base + 2 ^ n ≤ 65536 →
         ((base < grant.2.1 ∨ grant.2.1 + grant.2.2 < base + 2 ^ n) → issues s i2 = true → exec (.etinit h o) s = .next (tree base 3)) ∧
         (grant.2.1 ≤ base → base + 2 ^ n ≤ grant.2.1 + grant.2.2 →
           (∀ y ∈ c.regions, y.1 ≠ g → grant.1.getLsbD y.1 = true → base + 2 ^ n ≤ y.2.lbase ∨ y.2.lbase + 2 ^ y.2.log2n ≤ base) →
           Leaves (.etinit h o) i2 s (putRegion (s.modCluster cl fun c => { c with leaves := keepTo base (2 ^ n) c })
             { lbase := base, log2n := n, regid := w % 65536, clk := 0, ec := 0, seed := 0, table := false, tbase := 0, tcount := 0, tec0 := 0 }))) ∧
      (mfind c.regions g = none → issues s w2 = true → exec (.eget h o) s = .next (tree 0 2)) ∧
      (∀ r, mfind c.regions g = some r →
        let j := x.toNat
        let old := leafCode c (r.lbase + j)
        let fl := p.srcT (.flt fmt32) o.s3
        let sum := (addF fmt32 rcRNE old fl).code
        Leaves (.etinitFree h o) i1 s (s.modCluster cl fun c => { c with regions := mdel c.regions g, leaves := keepTo r.lbase (2 ^ r.log2n) c }) ∧
        (j < 2 ^ r.log2n →
          (badRate fl = false → Leaves (.eset h o) w3 s ((putLeaves [(r.lbase + j, fl)]).modPart k (·.put o.d (BitVec.ofNat 64 old)))) ∧
          (badRate fl = true → issues s w3 = true →
            exec (.eset h o) s = .next (takeTrap s k ⟨0x07, 0, BitVec.ofNat 64 (fl % 2 ^ 32 * 2 ^ 32 + j % 65536 * 65536 + g), none⟩)) ∧
          (badRate sum = false → Leaves (.eadd h o) w3 s ((putLeaves [(r.lbase + j, sum)]).modPart k (·.put o.d (BitVec.ofNat 64 (storedRate sum))))) ∧
          ((∀ e, e < min 64 (2 ^ r.log2n - j) → badRate (elemOf (p.vreg o.s3) 32 e) = false) →
            Leaves (.eloadv h o) i3 s
              (putLeaves ((List.range (min 64 (2 ^ r.log2n - j))).map fun e => (r.lbase + (j + e), elemOf (p.vreg o.s3) 32 e))))) ∧
        -- ENEXT: no event, a draw from Philox, a draw from the table
        (let hold := o.mod.getLsbD 1
         let used (t : State) : State := if hold then t.modPart k fun q => { q with damask := { q.damask with credits := q.damask.credits.set 7 (q.damask.credits[7] - 1) } } else t
         let drawn (t : State) (wa wb : Nat) : State :=
           let d := r.draw c wa wb
           let clk := if o.mod.getLsbD 0 then BitVec.ofNat 64 (addRne r.clk.toNat d.2) else r.clk
           pulse ((putRegion (used t) { r with ec := r.ec + 1, clk }).modPart k fun q =>
             (((q.count 7 1).put o.d (BitVec.ofNat 64 d.1)).put (tauDst o.s2) (BitVec.ofNat 64 d.2))) k 16
         -- ENEXT.hold first waits for a pulse at its start input, whatever the region holds (R420)
         (hold = true → p.damask.credits[7] = 0 → issues s nx = true → exec (.enext h o) s = .next (waitingStore nx s k)) ∧
         ((hold = true → p.damask.credits[7] ≠ 0) →
           (r.node c 1 = 0 → Leaves (.enext h o) nx s (pulse ((used s).modPart k fun q => (q.put o.d ones64).put (tauDst o.s2) 0x7FF0000000000000) k 16)) ∧
           (r.node c 1 ≠ 0 → r.table = false → Leaves (.enext h o) nx s (drawn s (philoxWords r).1 (philoxWords r).2)) ∧
           (r.node c 1 ≠ 0 → r.table = true → r.tcount ≤ 2 * (r.ec - r.tec0).toNat + 1 → issues s nx = true →
             exec (.enext h o) s = .next (tree r.ec.toNat 5)) ∧
           (∀ s1, r.node c 1 ≠ 0 → r.table = true → 2 * (r.ec - r.tec0).toNat + 1 < r.tcount →
             let a := r.tbase + BitVec.ofNat 64 (8 * (r.ec - r.tec0).toNat)
             checkAccess s (whoOf s k) .read [(a, 8)] = .ok s1 → onLost s1 (flatOf k) [(a, 8)] = false → lostRead s1 (whoOf s1 k) [(a, 8)] = none →
             forwardOf s1 k (bytesAt a 8) = .none →
             let s3 := prepLines s1 (whoOf s k) (linesOf a 8).dedup
             let bs := (bytesAt a 8).map (loadByte s3 (whoOf s k))
             Leaves (.enext h o) nx s (drawn s3 (fieldAt bs 0 4) (fieldAt bs 4 4))))) ∧
        -- ESEED, ETAB, ECLK
        Leaves (.eseed h o) w3 s ((putRegion s { r with seed := x, ec := p.src l o.s3, table := false }).modPart k (·.put o.d r.ec)) ∧
        (2 ≤ (p.src l o.s3).toNat → (p.src l o.s3).toNat < 2 ^ 32 → x.toNat % 8 = 0 → regionOf x ≠ .nonCanon → regionOf x ≠ .window →
          Leaves (.etab h o) i3 s (putRegion s { r with tbase := x, tcount := (p.src l o.s3).toNat, tec0 := r.ec, table := true })) ∧
        (o.s2 ≠ .slot → (decodeF fmt64 (p.srcT (.flt fmt64) o.s2)).isNan = false →
          Leaves (.eclkSet h o) w2 s ((putRegion s { r with clk := BitVec.ofNat 64 (p.srcT (.flt fmt64) o.s2) }).modPart k (·.put o.d r.clk))) ∧
        (o.s2 ≠ .slot → (decodeF fmt64 (p.srcT (.flt fmt64) o.s2)).isNan = true → issues s w2 = true → exec (.eclkSet h o) s = .next (tree 0 7)))))

/-- R422 to R451: TSEND sends a task message and then answers whether it was accepted; TEND commits to the next task or answers 0; TABORT, TGVT, TKEY and TWAIT.
The model's own choices that it rests on: log entries 121, 122, 176 and 179. -/
def Obligations.TaskInstructions : Prop :=
  ∀ (h : Hd) (o : OpE) (s : State),
    let p := s.part s.cur
    let k := s.cur
    let l := o.lit.getD 0
    let i : Iss := { h, reads := rds [o.s1, o.s2, o.s3, o.s4, o.s5], writes := wr o.d none }
    let e : Iss := { h, writes := wr o.d none }
    let w : Iss := { h, reads := rds [o.s1, o.s2], writes := wr o.d none }
    let trap (v : W64) := takeTrap s k ⟨0x15, 0, v, none⟩
    let value := takeTrap s k ⟨0x01, 0, BitVec.ofNat 64 (0x0D + p.pc.toNat / 2 % 32 * 256), none⟩
    let gvt := (s.ctx p.ctx).gvt
    let part := o.mod.toNat % 4
    let bitsOf (x : Src) : W64 := BitVec.ofNat 64 (match x with
      | .slot => (p.src l x).toNat
      | _ => p.srcT (.flt fmt64) x)
    let hi (x : Src) : W64 := if o.mod.getLsbD 0 then p.src l x else orderedImage (bitsOf x)
    let keyOf (k : BitVec 128) : W64 := if part = 0 then k.extractLsb' 0 64 else if part = 1 then k.extractLsb' 64 64 else timeOf (k.extractLsb' 64 64)
    (idxOf k ≠ 3 →
      -- TSEND
      (∀ how v, p.sleep = .woken how v → Gives (.tsend h o) i s fun q => Part.put { q with sleep := .awake } o.d (BitVec.ofNat 64 how)) ∧
      (p.sleep = .awake → issues s i = true → o.mod.getLsbD 0 = false → nan64 (bitsOf o.s4) = true → exec (.tsend h o) s = .next (trap 0x100)) ∧
      (p.sleep = .awake → issues s i = true → (o.mod.getLsbD 0 = true ∨ nan64 (bitsOf o.s4) = false) → taskOn s k = none → storesDone s k = true →
        let key : BitVec 128 := BitVec.ofNat 128 ((hi o.s4).toNat * 2 ^ 64 + (p.src l o.s5).toNat)
        (key = BitVec.allOnes 128 → exec (.tsend h o) s = .next (trap 0x100)) ∧
        (key ≠ BitVec.allOnes 128 → ∃ t m, exec (.tsend h o) s = .next (waitingKept p t k) ∧
          t = ((sendMsg (releaseAt s (flatOf k) 4) m).modPart k fun q => { q.count 9 1 with sleep := .tsend }) ∧
          m.dest = (p.src l o.s1).toNat % 2 ^ 32 ∧ m.handler = p.src l o.s2 ∧ m.key = key ∧ m.task = true ∧ m.parent = none ∧ m.src = flatOf k ∧ m.rp = false ∧
          m.args = (List.range 4).map fun j => (p.vreg o.s3).extractLsb' (64 * j) 64)) ∧
      -- TEND
      (p.inTrap = false → p.inUp = false →
        (∀ v t, p.sleep = .woken 1 v → taskOn s k = some t → issues s e = true →
          exec (.tend h o) s = jumped e s (acquireAt (s.modPart k fun q => (Part.put { q with sleep := .awake } o.d 1).enterTask t.msg) (flatOf k) 4) t.msg.handler) ∧
        (∀ v, p.sleep = .woken 0 v → Gives (.tend h o) e s fun q => Part.put { q with sleep := .awake } o.d 0) ∧
        (p.sleep = .awake →
          let u := taborRefill (clOf (flatOf k)) 256 (match taskOn s k with
            | some t => modTask s t.id fun t => { t with state := .done, chk := none }
            | none => s)
          (o.mod.getLsbD 0 = true → nextTask u k = none → Leaves (.tend h o) e s (u.modPart k (·.put o.d 0))) ∧
          ((o.mod.getLsbD 0 = false ∨ nextTask u k ≠ none) → issues s e = true →
            exec (.tend h o) s = .next (waitingKept p (u.modPart k fun q => { q with sleep := .task (o.mod.getLsbD 0) }) k))) ∧
        -- TABORT
        (taskOn s k = none → issues s { h } = true → exec (.tabort h o) s = .next (trap 0x200)) ∧
        (∀ t, taskOn s k = some t → issues s { h } = true →
          (o.mod.getLsbD 0 = true → exec (.tabort h o) s = placedAt { h } s (taborRefill t.cl 256 (abortTasks s [] [t.id]))) ∧
          (o.mod.getLsbD 0 = false → irrevocable s t = false → exec (.tabort h o) s = placedAt { h } s (holdTask s k)) ∧
          (o.mod.getLsbD 0 = false → irrevocable s t = true → exec (.tabort h o) s = .next value))) ∧
      (p.inTrap = true ∨ p.inUp = true → (issues s e = true → exec (.tend h o) s = .next value) ∧ (issues s { h } = true → exec (.tabort h o) s = .next value)) ∧
      -- TWAIT
      ((taskOn s k).isSome = true → issues s w = true → exec (.twait h o) s = .next value) ∧
      (taskOn s k = none → o.mod.getLsbD 0 = false → nan64 (bitsOf o.s1) = true → issues s w = true → exec (.twait h o) s = .next (trap 0x100)) ∧
      ((o.mod.getLsbD 0 = true ∨ nan64 (bitsOf o.s1) = false) → taskOn s k = none → gvt.toNat ≤ (hi o.s1).toNat * 2 ^ 64 + (p.src l o.s2).toNat →
        issues s w = true → exec (.twait h o) s = .next (waitingStore w s k)) ∧
      ((o.mod.getLsbD 0 = true ∨ nan64 (bitsOf o.s1) = false) → taskOn s k = none → (hi o.s1).toNat * 2 ^ 64 + (p.src l o.s2).toNat < gvt.toNat →
        Leaves (.twait h o) w s (acquireAt (s.modPart k (·.put o.d (gvt.extractLsb' 64 64))) (flatOf k) 4))) ∧
    -- TGVT, TKEY
    (part = 2 → gvt = BitVec.allOnes 128 → Gives (.tgvt h o) e s (·.put o.d 0x7FF0000000000000)) ∧
    (part ≠ 2 ∨ gvt ≠ BitVec.allOnes 128 → Gives (.tgvt h o) e s (·.put o.d (keyOf gvt))) ∧
    (∀ t, taskOn s k = some t → Gives (.tkey h o) e s (·.put o.d (keyOf t.msg.key))) ∧
    (taskOn s k = none → issues s e = true → exec (.tkey h o) s = .next (trap 0x200))

/-- R427 to R429, R439, R440: a task message enters a Tabor with room, displaces the last task of a full one or is held itself, or bounces; a serving partition is given the
next task, and a TEND.nb ends where there is none (R448); a round publishes the least key of what is not done, and ends every serving TEND where nothing is left.
The model's own choices that it rests on: log entries 5, 38, 55, 56, 124, 125, 138 and 176. -/
def Obligations.TaskEvents : Prop :=
  (∀ (n : Nat) (s : State) (m : Msg), s.net[n]? = some m → m.task = true → m.cls = 0 → firstOfLane s n = true →
    (tieTurn s m = false → exec (.taskArrival n) s = .next s) ∧
    (tieTurn s m = true →
    (∀ st, m.reject s = some st → exec (.taskArrival n) s = .next (bounceMsg (takeMsg s n) m st)) ∧
    (m.reject s = none → fateOf (takeMsg s n) m.dest m.ctx = .live →
      let u := taborRefill (clOf m.dest) 256 (takeMsg s n)
      ((taborOf u (clOf m.dest)).length < 256 → exec (.taskArrival n) s = .next (acceptSend (enterTabor u m) m)) ∧
      (∀ t, 256 ≤ (taborOf u (clOf m.dest)).length → lastTask (taborOf u (clOf m.dest)) = some t → exec (.taskArrival n) s =
        .next (if t.before { t with id := u.taskSeq, msg := m } then holdTaskMsg u m
          else acceptSend (enterTabor (displace u t) m) m))) ∧
    (m.reject s = none → fateOf (takeMsg s n) m.dest m.ctx = .exited → exec (.taskArrival n) s = .next (bounceMsg (takeMsg s n) m 5)))) ∧
  -- in replay one whose key stands in the Tabor enters when the log names its source (R502)
  (∀ (s : State) (m : Msg), (∀ u ∈ s.tasks, u.cl = clOf m.dest → u.msg.key ≠ m.key) ∨ replayNext s m.dest 0 5 = none → tieTurn s m = true) ∧
  (∀ (k : Nat) (s : State), (s.part k).serving = true → (s.part k).st = .resident →
    let u := taborRefill (clOf (flatOf k)) 256 s
    (∀ t, nextTask u k = some t → exec (.taskDispatch k) s =
      .next ((modTask u t.id fun t => { t with state := .running, k, chk := some (u.part k) }).modPart k fun p => { p with sleep := .woken 1 0 })) ∧
    (nextTask u k = none → exec (.taskDispatch k) s =
      .next (if (u.part k).sleep = .task true then u.modPart k fun p => { p with sleep := .woken 0 0 } else u))) ∧
  (∀ (k : Nat) (s : State) (t : Task), nextTask s k = some t → t ∈ s.tasks ∧ dispatchable s t = true ∧ t.msg.dest = flatOf k ∧ t.state = .pending) ∧
  (∀ (c : Nat) (s : State), ∃ t, exec (.gvtRound c) s = .next t ∧ (t.ctx c).gvt = minKey s c ∧
    (minKey s c = BitVec.allOnes 128 → ∀ k, (t.part k).ctx = c → (t.part k).st ≠ .free → (t.part k).serving = false)) ∧
  (∀ (c : Nat) (s : State),
    (∀ t ∈ s.tasks, t.msg.ctx = c → t.state ≠ .done → (minKey s c).toNat ≤ t.msg.key.toNat) ∧
    (∀ m ∈ s.net, m.task = true → m.ctx = c → (minKey s c).toNat ≤ m.key.toNat) ∧
    (∀ m ∈ (s.ctx c).inbox, m.task = true → (minKey s c).toNat ≤ m.key.toNat) ∧
    (minKey s c = BitVec.allOnes 128 ∨ (∃ t ∈ s.tasks, t.msg.ctx = c ∧ t.state ≠ .done ∧ t.msg.key = minKey s c) ∨
      (∃ m ∈ s.net, m.task = true ∧ m.ctx = c ∧ m.key = minKey s c) ∨ ∃ m ∈ (s.ctx c).inbox, m.task = true ∧ m.key = minKey s c))

/-- R452 to R458, R475 to R480: GPOST reads its descriptor and posts, answering the handle; GWAIT ends a collective, GTKT reads its ticket, GCANCEL withdraws it, GSTAT reads
its state. A handle or a group that is not the part's traps ILLEGAL, reason VALUE, as do partition D and a running task.
The model's own choices that it rests on: log entries 3, 20, 34, 35, 83, 94, 140, 142, 143 and 180. -/
def Obligations.CollectiveInstructions : Prop :=
  ∀ (h : Hd) (o : OpE) (s : State),
    let p := s.part s.cur
    let k := s.cur
    let flat := flatOf k
    let l := o.lit.getD 0
    let v := (p.src l o.s1).toNat
    let gid := v % 2 ^ 32
    let i : Iss := { h, reads := rds [o.s1, o.s2], writes := wr o.d none }
    let j : Iss := { h, reads := rds [o.s1], writes := wr o.d none }
    let value := takeTrap s k ⟨0x01, 0, BitVec.ofNat 64 (0x0D + p.pc.toNat / 2 % 32 * 256), none⟩
    let nb := o.mod.getLsbD 0
    (idxOf k ≠ 3 → taskOn s k = none →
      (groupAt s k gid = none → issues s i = true → exec (.gpost h o) s = .next value) ∧
      -- GPOST
      (∀ dev g s1, groupAt s k gid = some (dev, g) →
        let a := p.src l o.s2
        let w := whoOf s k
        let s3 := prepLines s1 w (linesOf a 64).dedup
        let bs := (bytesAt a 64).map (loadByte s3 w)
        let d := gdescOf bs
        let formOk (a : W64) : Prop := ∀ r ∈ piecesOf a 1, regionOf r.1 ≠ .nonCanon ∧ regionOf r.1 ≠ .window
        let s4 := releaseAt s3 flat 4
        let seq := (g.seq + 1) % 2 ^ 32
        let arrival := arrivalMode s4 p
        let c : Coll := { gid, seq, flat, ctx := p.ctx, pc := p.pc, d, arrival, st := .posted, ticket := none, reason := 0, slot := 0, taken := false
                          asked := false, faulted := false, broken := false }
        let t := s4.modDev dev fun x => { x with groups := mset x.groups gid { g with seq }, colls := x.colls ++ [c] }
        let handle (u : State) : State := u.modPart k (·.put o.d (BitVec.ofNat 64 (seq * 2 ^ 32 + gid)))
        (a.toNat % 64 ≠ 0 → issues s i = true → exec (.gpost h o) s = .next (takeTrap s k ⟨0x04, 0, a, none⟩)) ∧
        (a.toNat % 64 = 0 → checkAccess s w .read [(a, 64)] = .ok s1 → onLost s1 flat [(a, 64)] = false → lostRead s1 (whoOf s1 k) [(a, 64)] = none →
          forwardOf s1 k (bytesAt a 64) = .none → d.bad bs g.nmem = false → (d.op = 1 → d.count % g.nmem = 0) →
          (d.op ≠ 4 → d.src.toNat % d.width = 0 ∧ d.dst.toNat % d.width = 0 ∧ formOk d.src ∧ formOk d.dst) →
          (s3.dev dev).colls.length < 64 → storesDone s3 k = true →
          (g.broken = true → Leaves (.gpost h o) i s (handle (cancelColl t dev c 2 0 noDevice 0))) ∧
          (g.broken = false → gcollOf s4 gid seq = none →
            Leaves (.gpost h o) i s (handle { t with gcolls := t.gcolls ++ [{ gid, seq, st := .gathering, posts := [(dev, d, arrival)], notes := [], asks := []
                                                                              data := [], seed := 0 }] })) ∧
          (∀ gc, g.broken = false → gcollOf s4 gid seq = some gc →
            Leaves (.gpost h o) i s (handle (modGcoll t gid seq fun x => { x with posts := x.posts ++ [(dev, d, arrival)]
                                                                                  notes := match x.st with
                                                                                    | .withdrawn w => x.notes ++ [(dev, .cancel (if w = dev then 3 else 4) w)]
                                                                                    | _ => x.notes }))))) ∧
      -- a handle that names nothing
      ((collsAt s flat p.ctx).find? (fun c => c.2.gid = gid && c.2.seq = v / 2 ^ 32) = none → issues s j = true →
        exec (.gwait h o) s = .next value ∧ exec (.gtkt h o) s = .next value ∧ exec (.gcancel h o) s = .next value) ∧
      -- GWAIT, GTKT, GCANCEL
      (∀ dev c, (collsAt s flat p.ctx).find? (fun c => c.2.gid = gid && c.2.seq = v / 2 ^ 32) = some (dev, c) →
        (c.st = .complete → Leaves (.gwait h o) j s (freeColl (acquireAt (s.modPart k (·.put o.d 0)) flat 4) dev c)) ∧
        (c.st = .cancelled → (c.reason = 3 ∨ c.taken = true ∨ o.mod.getLsbD 1 = true ∨ nb = true) →
          Leaves (.gwait h o) j s (freeColl (s.modPart k (·.put o.d (BitVec.ofNat 64 (0x10 + c.reason)))) dev c)) ∧
        (c.st = .cancelled → c.reason ≠ 3 → c.taken = false → o.mod.getLsbD 1 = false → nb = false → issues s j = true →
          exec (.gwait h o) s =
            .next (takeTrap (markTaken (takeColl s dev c) c.ctx c.flat c.slot) k ⟨0x16, 1, c.slot, none⟩)) ∧
        (c.st ≠ .complete → c.st ≠ .cancelled → nb = true → Gives (.gwait h o) j s (·.put o.d 1)) ∧
        (∀ t, c.ticket = some t → Gives (.gtkt h o) j s (·.put o.d (BitVec.ofNat 64 t))) ∧
        (c.ticket = none → (nb = false ∨ c.st = .cancelled) → Gives (.gtkt h o) j s (·.put o.d 0)) ∧
        (c.ticket = none → nb = true → c.st ≠ .cancelled → issues s j = true → exec (.gtkt h o) s = .next (waitingStore j s k)) ∧
        (c.st = .complete → Gives (.gcancel h o) j s (·.put o.d 1)) ∧
        (c.st = .cancelled → Gives (.gcancel h o) j s (·.put o.d 2)) ∧
        (c.st ≠ .complete → c.st ≠ .cancelled → issues s j = true → exec (.gcancel h o) s = .next (waiting (sendAsk s dev c none) k)))) ∧
    (idxOf k = 3 ∨ (taskOn s k).isSome = true →
      (issues s i = true → exec (.gpost h o) s = .next value) ∧
      (issues s j = true → exec (.gwait h o) s = .next value ∧ exec (.gtkt h o) s = .next value ∧ exec (.gcancel h o) s = .next value)) ∧
    -- GSTAT
    (nb = true →
      (∀ dev g, groupAt s k gid = some (dev, g) →
        Gives (.gstat h o) j s (·.put o.d (BitVec.ofNat 64 (g.coord * 2 ^ 48 + (if g.broken then 2 else 1) * 2 ^ 38 + g.plane * 2 ^ 33 + g.nmem * 65536 + g.rank)))) ∧
      (groupAt s k gid = none → Gives (.gstat h o) j s (·.put o.d 0))) ∧
    (nb = false →
      let cs := (groupDevs s k).flatMap fun d => (s.dev d).colls
      (∀ c, cs.find? (fun c => c.gid = gid && c.seq = v / 2 ^ 32 && c.ctx = p.ctx) = some c →
        Gives (.gstat h o) j s (·.put o.d (BitVec.ofNat 64 (c.seq * 2 ^ 32 + c.reason * 256 + c.st.code)))) ∧
      (cs.find? (fun c => c.gid = gid && c.seq = v / 2 ^ 32 && c.ctx = p.ctx) = none → Gives (.gstat h o) j s (·.put o.d 0))) ∧
    -- the group of a part: that of its own device, where no module has been evicted to it
    (p.under = none → (∀ d ∈ s.devs, d.2.routedTo ≠ some (ordOf flat)) →
      groupAt s k gid = (mfind (s.dev (ordOf flat)).groups gid).map fun g => (ordOf flat, g))

/-- R452, R453, R457 to R464, R471, R286: groups come and go; a coordinator that holds every post issues a ticket, or finds a mismatch; tickets arrive in order, and one
below a ticket already admitted quiesces the partition; a member admits, finishes, is cancelled or abandons.
The model's own choices that it rests on: log entries 36, 49, 62, 63, 73, 94, 140, 141 and 143. -/
def Obligations.CollectiveEvents : Prop :=
  (∀ (g : W32) (c : Nat) (members : List Nat) (coord : Half) (plane : Nat) (s : State), g ≠ 0 → grpOf s g.toNat = none → (s.ctx c).live = true →
    coordOk s g.toNat members coord plane = true → members ≠ [] → members.length ≤ 65536 → members.Nodup → (∀ d ∈ members, inPartition s (d * 1024) = true ∧ led s d = true ∧ (s.dev d).groups.length < 256) →
    ∃ t, exec (.groupCreate g c members coord plane) s = .next t ∧ t.groupStatus = some true ∧ t.groups = s.groups ++ [⟨g.toNat, c, members, coord.toNat, plane⟩] ∧
      ∀ r d, members[r]? = some d → mfind (t.dev d).groups g.toNat = some ⟨c, members.length, r, plane, coord.toNat, false, 0⟩) ∧
  -- a request that breaks R452 creates nothing, and its status says so
  (∀ (g : W32) (c : Nat) (members : List Nat) (coord : Half) (plane : Nat) (s : State), (∀ d ∈ members, mfind s.devs d = none ∨ led s d = true) →
    (g = 0 ∨ grpOf s g.toNat ≠ none ∨ (s.ctx c).live = false ∨ coordOk s g.toNat members coord plane = false ∨ members = [] ∨ 65536 < members.length ∨
      ¬ members.Nodup ∨ ∃ d ∈ members, inPartition s (d * 1024) = false ∨ 256 ≤ (s.dev d).groups.length) →
    exec (.groupCreate g c members coord plane) s = .next { s with groupStatus := some false }) ∧
  (∀ (g : W32) (s : State) (x : Grp), grpOf s g.toNat = some x → (∃ d ∈ x.members, led s d = true) →
    ∃ t, exec (.groupDestroy g) s = .next t ∧ grpOf t g.toNat = none) ∧
  (∀ (gid : W32) (seq : Nat) (s : State) (c : GColl) (g : Grp), gcollOf s gid.toNat seq = some c → grpOf s gid.toNat = some g →
    (c.st = .gathering → (∀ d ∈ g.members, collPath s d g.gid = true ∧ ∃ p ∈ c.posts, p.1 = d) →
      (postsAgree c.posts = false → exec (.ticketIssue gid seq) s = .next (modGcoll s c.gid seq fun c =>
        { c with st := .withdrawn noDevice, notes := c.notes ++ g.members.map fun d => (d, .mismatch) })) ∧
      (postsAgree c.posts = true → mfind s.coordTime g.coord ≠ some (s.ftime % 2 ^ 48) → ∃ t, exec (.ticketIssue gid seq) s = .next t ∧
        mfind t.coordTime g.coord = some (s.ftime % 2 ^ 48) ∧
        t.gcolls = (modGcoll s c.gid seq fun c => { c with st := .ticketed, seed := s.free, notes := c.notes ++ g.members.map fun d =>
          (d, .ticket (s.ftime % 2 ^ 48 * 65536 + g.coord)) }).gcolls)) ∧
    (∀ dev x as, c.asks = (dev, x) :: as → collPath s dev c.gid = true → c.st = .gathering → exec (.collectiveWithdraw gid seq) s = .next (modGcoll s c.gid seq fun c =>
      { c with st := .withdrawn dev, asks := as, notes := c.notes ++ c.posts.map fun p => (p.1, .cancel (if p.1 = dev then 3 else 4) dev) }))) ∧
  (∀ (dev : Nat) (gid : W32) (seq : Nat) (s s1 : State) (c : Coll), collOf s1 dev gid.toNat seq = some c →
    (∀ t, takeNote s dev gid.toNat seq = some (.ticket t, s1) → (∀ u ∈ ticketsTo s dev (t % 65536), ticketBefore u t = false) →
      let s2 := s1.modDev dev fun d => { d with horizon := mset d.horizon (t % 65536) (timeOfTicket t) }
      (∀ u, (s2.dev dev).lastTicket = some u → ticketBefore t u = true → exec (.ticketArrival dev gid seq) s = .next (quiesceAll s2 1)) ∧
      ((∀ u, (s2.dev dev).lastTicket = some u → ticketBefore t u = false) → exec (.ticketArrival dev gid seq) s =
        .next (modColl s2 dev gid.toNat seq fun c => if c.st = .posted then { c with st := .ticketed, ticket := some t } else c))) ∧
    (∀ reason cause, takeNote s dev gid.toNat seq = some (.cancel reason cause, s1) → c.st = .posted →
      exec (.cancelNotice dev gid seq) s = .next (cancelColl s1 dev c reason 0 cause 0)) ∧
    (∀ reason cause fr addr, takeNote s dev gid.toNat seq = some (.abandon reason cause fr addr, s1) → (c.st = .ticketed ∨ c.st = .admitted) →
      exec (.abandonNotice dev gid seq) s = .next (cancelColl s1 dev c reason fr cause addr)) ∧
    (takeNote s dev gid.toNat seq = some (.mismatch, s1) → c.st = .posted →
      exec (.mismatchNotice dev gid seq) s = .next (cancelColl s1 dev c 1 0 noDevice 0)) ∧
    (s1 = s → c.st = .ticketed → 2 ^ 46 ≤ (s.ftime % 2 ^ 48 + 2 ^ 48 - timeOfTicket c.time) % 2 ^ 48 →
      exec (.ticketAgeBreach dev gid seq) s = .next (quiesceAll s 1)) ∧
    (∀ gc g rank bs s2, s1 = s → gcollOf s gid.toNat seq = some gc → grpOf s gid.toNat = some g → g.members.idxOf? dev = some rank → c.st = .admitted → c.faulted = false →
      c.broken = false → c.d.op ≠ 3 → (∀ r, r < g.members.length → ∃ d ∈ gc.data, d.1 = r) →
      gc.result c.d c.arrival (g.members.map fun d => ((gc.posts.find? (·.1 = d)).map (·.2.1)).getD c.d) rank = bs → bs ≠ [] →
      collPath s dev c.gid = true → engineCut s c.flat c.d.dst bs.length = false → engineCheck s (collWho c) .write c.d.dst bs.length = .ok s2 →
      exec (.collectiveFinish dev gid seq) s =
        .next (pulseOf (modColl (engineWrite s2 c.flat c.d.dst bs) dev c.gid seq fun c => { c with st := .complete }) c.flat c.ctx 22))) ∧
  (∀ (dev : Nat) (coord : Half) (s : State), ticketsTo s dev coord.toNat = [] → (∃ g ∈ (s.dev dev).groups, g.2.coord = coord.toNat ∧ collPath s dev g.1 = true) →
    exec (.horizonBeacon dev coord) s = .next (s.modDev dev fun d => { d with horizon := mset d.horizon coord.toNat (s.ftime % 2 ^ 48) })) ∧
  (∀ (dev : Nat) (s : State) (c : Coll) (g : GEnt), lowestTicket s dev = some c → serialBefore (timeOfTicket c.time + 5000) s.ftime = true →
    (∀ g ∈ (s.dev dev).groups, g.2.broken = true ∨ ∃ h, mfind (s.dev dev).horizon g.2.coord = some h ∧ serialBefore (timeOfTicket c.time) h = true) →
    roomFor s dev c = true → engineCut s c.flat c.d.src (((mfind (s.dev dev).groups c.gid).map fun g => c.d.readBytes g.rank).getD 0) = false → mfind (s.dev dev).groups c.gid = some g →
    let s1 := (modColl s dev c.gid c.seq fun c => { c with st := .admitted }).modDev dev fun d => { d with lastTicket := some c.time }
    (c.d.readBytes g.rank = 0 →
      let r := engineRead s1 c.flat c.d.src 0
      exec (.collectiveAdmit dev) s = .next (modGcoll r.1 c.gid c.seq fun x => { x with data := x.data ++ [(g.rank, r.2)] })) ∧
    (∀ s2, c.d.readBytes g.rank ≠ 0 → engineCheck s1 (collWho c) .read c.d.src (c.d.readBytes g.rank) = .ok s2 →
      let r := engineRead s2 c.flat c.d.src (c.d.readBytes g.rank)
      exec (.collectiveAdmit dev) s = .next (modGcoll r.1 c.gid c.seq fun x => { x with data := x.data ++ [(g.rank, r.2)] })))

/-- R292 to R305, R505: a tail write advances WRIDX, stops the queue where it overruns, or is dropped and counted; the packet at RDIDX is read, refused, held or started;
a packet that can complete does; a queue stops and resumes at a leader's command; the lease passes on.
The model's own choices that it rests on: log entries 36, 47, 48, 49, 98, 99, 100, 101, 102, 103, 104 and 105. -/
def Obligations.QueueEvents : Prop :=
  ∀ (dev q : Nat) (s : State) (h : HostQ), hostqOf s dev q = some h →
    let d := s.dev dev
    let w := h.who dev
    let a := h.slot h.rdidx.toNat
    let r := engineRead (acquireAt s w.flat 5) w.flat a 64
    let p : Pkt := ⟨r.1.free, h.rdidx.toNat, r.2, 0, [], 0, false⟩
    let u : State := { r.1 with free := r.1.free + 1 }
    let stopAt (u : State) (idx op reason : Nat) : State := queueError (modQueue u dev q fun h => { h with st := .error }) dev q h idx op reason
    -- TAIL_WRITE
    (∀ conn (v : W64), q < 1024 → d.svc = 0 →
      let t := v.setWidth 32
      let ahead : Prop := h.size < (t - h.rdidx).toNat ∨ h.size < (t - h.wridx).toNat
      (d.boot = 2 → h.ctx ≠ none → h.conn = conn →
        (¬ ahead → exec (.tailWrite dev conn (8 * q) 8 v) s =
          .next (modQueue (releaseAt s w.flat 5) dev q fun h => { h with wridx := t, st := if h.st = .idle && t ≠ h.rdidx then .active else h.st })) ∧
        (ahead → h.st ≠ .error → h.st ≠ .stopped →
          exec (.tailWrite dev conn (8 * q) 8 v) s = .next (queueError (modQueue s dev q fun h => { h with st := .error, held := none }) dev q h t.toNat 0 3)) ∧
        (ahead → h.st = .stopped → exec (.tailWrite dev conn (8 * q) 8 v) s = .next (queueError s dev q h t.toNat 0 3)) ∧
        (ahead → h.st = .error → exec (.tailWrite dev conn (8 * q) 8 v) s = .next s)) ∧
      (d.boot ≠ 2 ∨ h.ctx = none ∨ h.conn ≠ conn → exec (.tailWrite dev conn (8 * q) 8 v) s = .next (s.modDev dev fun d => { d with drops := d.drops + 1 })) ∧
      (∀ size, size ≠ 8 → exec (.tailWrite dev conn (8 * q) size v) s = .next s)) ∧
    -- PACKET_READ
    (h.st = .active → h.rdidx ≠ h.wridx →
      ((cpFault s w true .read a 64).isSome = true → exec (.packetRead dev q) s = .next (stopAt s h.rdidx.toNat 0 4)) ∧
      (cpFault s w true .read a 64 = none →
        (8 ≤ p.op → exec (.packetRead dev q) s = .next (stopAt u h.rdidx.toNat p.op 1)) ∧
        (p.op < 8 → p.badFormat = true → exec (.packetRead dev q) s = .next (stopAt u h.rdidx.toNat p.op 2)) ∧
        (p.op < 8 → p.badFormat = false →
          (pktHeld u w h p = true → exec (.packetRead dev q) s = .next (modQueue u dev q fun h => { h with st := .waiting, held := some p })) ∧
          (pktHeld u w h p = false → exec (.packetRead dev q) s = .next (startPkt u dev q h p))))) ∧
    -- HOLD_ENDS
    (∀ x, h.st = .waiting → h.held = some x →
      (pktHeld s w h x = true → exec (.holdEnds dev q) s = .next s) ∧ (pktHeld s w h x = false → exec (.holdEnds dev q) s = .next (startPkt s dev q h x))) ∧
    -- PACKET_COMPLETE
    (∀ idx, h.pkts.find? (fun y => y.idx = idx && pktReady s dev q h y) = none → exec (.packetComplete dev q idx) s = .next s) ∧
    (∀ x, h.pkts.find? (fun y => y.idx = x.idx && pktReady s dev q h y) = some x →
        let u := pktAct s w x
        (u.2.2 = none → exec (.packetComplete dev q x.idx) s = .next (modQueue u.1 dev q fun h => { h with pkts := replaceFirst h.pkts x [{ x with ack := u.2.1 }] })) ∧
        (∀ st, u.2.2 = some st →
          let s2 := modQueue u.1 dev q fun h => { h with pkts := replaceFirst h.pkts x [] }
          cpFault s2 w true .write (h.slot x.idx + 2) 1 = none →
          let s3 := engineWrite s2 w.flat (h.slot x.idx + 2) [BitVec.ofNat 8 st]
          (x.addr 8 = 0 → exec (.packetComplete dev q x.idx) s = .next s3) ∧
          (x.addr 8 ≠ 0 → cpFault s3 w true .write (x.addr 8) 8 = none → exec (.packetComplete dev q x.idx) s =
            .next (engineWrite (releaseAt s3 w.flat 5) w.flat (x.addr 8) (bytesOf 8 (fieldAt x.bytes 16 8)))))) ∧
    -- QUEUE_STOP, QUEUE_RESUME
    (led s dev = true →
      exec (.queueStop dev q) s = .next (modQueue s dev q fun h => { h with st := .stopped, held := none }) ∧
      (∀ rd : W32, (h.wridx - rd).toNat ≤ h.size → h.st = .error →
        exec (.queueResume dev q rd) s = .next (modQueue s dev q fun h =>
          if h.st = .error then { h with rdidx := rd, st := if rd = h.wridx then .idle else .active } else h))) ∧
    -- the lease
    (∀ die : Fin 4,
      (d.leader = some die.val → leaseLapsed s dev = false → bits d.lease 39 38 = die.val →
        exec (.leaseRenew dev die) s = .next (s.modDev dev fun d => { d with lease := leaseWord s (bits d.lease 63 40) die.val, renewed := s.ftime })) ∧
      (d.leader = some die.val → leaseLapsed s dev = true → exec (.leaseRenew dev die) s = .next (s.modDev dev fun d => { d with leader := none })) ∧
      (d.leader ≠ some die.val → d.boot ≠ 0 → ftimeBefore (s.ftime / 65536 * 65536) (expiry d.lease) = false →
        exec (.leaseTakeover dev die) s =
          .next (writeHealth (s.modDev dev fun d =>
            { d with lease := leaseWord s (bits d.lease 63 40 + 1) die.val, leader := some die.val, renewed := s.ftime }) dev))) ∧
    (d.leader ≠ none → leaseLapsed s dev = true → exec (.leaseLapse dev) s = .next (s.modDev dev fun d => { d with leader := none }))

/-- R494 to R504: BKPT acts as its DBGCTL says; TRACE stores a record of 32 bytes; PERF reads, sets up and clears counters, and traps ILLEGAL, reason VALUE, for a counter that does not exist;
RMARK is logged, or checked in replay. In partition D, BKPT, TRACE and PERF trap VALUE.
The model's own choices that it rests on: log entries 20, 34, 70, 84, 145, 146, 148 and 174. -/
def Obligations.DebugInstructions : Prop :=
  ∀ (h : Hd) (o : OpC) (s : State),
    let p := s.part s.cur
    let k := s.cur
    let flat := flatOf k
    let cl := clOf flat
    let b : Iss := { h, reads := rds [o.s1] }
    let t : Iss := { h, reads := rds [o.s1, o.s2], store := true }
    let r1 : Iss := { h, reads := rds [o.s1], writes := wr o.d none }
    let r2 : Iss := { h, reads := rds [o.s1, o.s2], writes := wr o.d none }
    let r0 : Iss := { h, writes := wr o.d none }
    let value := takeTrap s k ⟨0x01, 0, BitVec.ofNat 64 (0x0D + p.pc.toNat / 2 % 32 * 256), none⟩
    (idxOf k ≠ 3 →
      (p.bkm = 0 ∨ p.pass = true → Leaves (.bkpt h o) b s s) ∧
      (p.bkm = 1 → p.pass = false → issues s b = true → exec (.bkpt h o) s = .next (takeTrap s k ⟨0x0A, 0, BitVec.ofNat 64 ((p.src 0 o.s1).toNat % 2 ^ 32), none⟩)) ∧
      (p.bkm = 2 → p.pass = false → issues s b = true → exec (.bkpt h o) s = .next (waiting (haltCluster s cl) k)) ∧
      (taskOn s k = none → (p.tren = false ∨ p.trcLog = 0) → Leaves (.trace h o) t s s) ∧
      (∀ s1, taskOn s k = none → p.tren = true → p.trcLog ≠ 0 →
        let a := p.trcBase + BitVec.ofNat 64 (32 * (p.trcIdx.toNat % 2 ^ p.trcLog))
        checkAccess s (whoOf s k) .write [(a, 32)] = .ok s1 → onLost s1 flat [(a, 32)] = false → (s1.core flat).sbuf.length < 32 →
          let bytes := bytesOf 2 ((p.src 0 o.s1).toNat % 65536) ++ bytesOf 2 (idxOf k) ++ bytesOf 4 flat ++ bytesOf 8 p.pc.toNat ++ bytesOf 8 (timeAt s1 k).toNat ++
            bytesOf 8 (p.src 0 o.s2).toNat
          fillLost s1 k ((bytesAt a 32).zip bytes) = none →
          Leaves (.trace h o) t s ((s1.modCore flat fun c => { c with sbuf := c.sbuf ++ [⟨k, (s1.part k).ctx, (s1.part k).pc, a, (bytesAt a 32).zip bytes, (bytesAt a 32).zip bytes, false, false⟩] }).modPart k fun p =>
            { p with trcIdx := p.trcIdx + 1 })) ∧
      (∀ n : Fin 8, (p.src 0 o.s1).toNat = n.val →
        Gives (.perfRd h o) r1 s (·.put o.d (p.perf[n].count.setWidth 64)) ∧
        (let w := (p.src 0 o.s2).toNat
         w < 512 → w % 256 ≤ 0x0B → Gives (.perfCfg h o) r2 s fun q =>
           Part.put { q with perf := q.perf.set n ⟨w % 256, decide (256 ≤ w), 0⟩ } o.d (p.perf[n].count.setWidth 64)) ∧
        ((512 ≤ (p.src 0 o.s2).toNat ∨ 0x0B < (p.src 0 o.s2).toNat % 256) → issues s r2 = true → exec (.perfCfg h o) s = .next value)) ∧
      (8 ≤ (p.src 0 o.s1).toNat → (issues s r1 = true → exec (.perfRd h o) s = .next value) ∧ (issues s r2 = true → exec (.perfCfg h o) s = .next value)) ∧
      Gives (.perfClr h o) r0 s (fun q => Part.put { q with perf := q.perf.map fun c => { c with count := 0 } } o.d 0)) ∧
    (idxOf k = 3 →
      (issues s b = true → exec (.bkpt h o) s = .next value) ∧ (issues s t = true → exec (.trace h o) s = .next value) ∧
      (issues s r1 = true → exec (.perfRd h o) s = .next value) ∧ (issues s r2 = true → exec (.perfCfg h o) s = .next value) ∧
      (issues s r0 = true → exec (.perfClr h o) s = .next value)) ∧
    (taskOn s k = none →
      (replayNext s flat (idxOf k) 6 = none → Leaves (.rmark h o) b s (logPut s flat (idxOf k) 6 0 (p.src 0 o.s1))) ∧
      (∀ e, replayNext s flat (idxOf k) 6 = some e →
        let u := replayTake s flat (idxOf k) 6
        Leaves (.rmark h o) b s (if e.payload ≠ p.src 0 o.s1 then haltCluster (u.modCluster cl fun c => { c with diverged := true }) cl else u)))

/-- R494 to R502: a cross-trigger halts its cluster and no partition of it is eligible; a release restarts it; a breakpoint acts at its boundary; firmware frees the issue log, and
the debug module sets its mode.
The model's own choices that it rests on: log entries 68, 69, 70, 71, 88, 147, 153 and 158. -/
def Obligations.DebugEvents : Prop :=
  (∀ (cl : Nat) (s : State), exec (.crossTriggerHalt cl false) s = .next (haltCluster s cl) ∧ ((haltCluster s cl).cluster cl).halted = true ∧
    ∀ k, clOf (flatOf k) = cl → eligible (haltCluster s cl) k = false) ∧
  (∀ (cl : Nat) (s : State),
    ((s.cluster cl).halted = false → exec (.debugRelease cl) s = .next s) ∧
    ((s.cluster cl).halted = true → ∃ t, exec (.debugRelease cl) s = .next t ∧ (t.cluster cl).halted = false)) ∧
  (∀ (k : Nat) (s : State), idxOf k ≠ 3 →
    -- a follower stands at the next instruction forwarded to it
    let u := takeForward s k
    let p := u.part k
    ((s.part k).twill = [] → u = s) ∧
    (∀ v, eligible s k = true → p.sleep = .awake → p.quiesce = none → p.asyncMcheck = 0 → p.breakHere = some v →
      (p.bkm = 1 → exec (.breakpoint k) s = .next (takeTrap u k ⟨0x0A, 0, v, none⟩)) ∧
      (p.bkm ≠ 1 → exec (.breakpoint k) s = .next (haltCluster u (clOf (flatOf k))))) ∧
    (eligible s k = false ∨ p.breakHere = none → exec (.breakpoint k) s = .next s)) ∧
  (∀ (p : Part), (p.bkm = 0 ∨ p.pass = true → p.breakHere = none) ∧
    (∀ i : Fin 4, p.bkm ≠ 0 → p.pass = false → p.bpen.getLsbD i.val = true → p.bpaddr[i] = p.pc →
      (∀ j : Fin 4, j < i → p.bpen.getLsbD j.val = false ∨ p.bpaddr[j] ≠ p.pc) → p.breakHere = some (BitVec.ofNat 64 (2 ^ 32 + i.val))) ∧
    (p.bkm ≠ 0 → p.pass = false → p.bpen = 0 → p.step = true → p.inTrap = false → p.breakHere = some (BitVec.ofNat 64 (2 * 2 ^ 32)))) ∧
  (∀ (cl n : Nat) (s : State), (s.cluster cl).logMode = .logging →
    exec (.issueLogFreed cl n) s = .next (s.modCluster cl fun c => { c with log := c.log.drop n })) ∧
  (∀ (cl : Nat) (log : List LogEntry) (s : State),
    (∃ t, exec (.replayModeSet cl .off log) s = .next t ∧ (t.cluster cl).logMode = .off) ∧
    (∃ t, exec (.replayModeSet cl .logging log) s = .next t ∧ (t.cluster cl).logMode = .logging) ∧
    (∃ t, exec (.replayModeSet cl .replay log) s = .next t ∧ (t.cluster cl).logMode = .replay ∧ (t.cluster cl).log = log ∧ (t.cluster cl).diverged = false))

/-- R146 to R161, R510: what a leader's commands do with a part, and what a quiesce does: a part that is told takes CHECKPOINT; a part halted, spilled, restored, released or
destroyed; an asynchronous MCHECK waits at the part's next boundary.
R159, R160: CHECKPOINT with a vector: the part stands at CHKPTVEC in CHECKPOINTING with the cause, its PC, the reason and the time in s60 to s63; without a vector it is
halted for firmware to capture, and reported.
The model's own choices that it rests on: log entries 1, 3, 8, 11, 25, 49, 71, 72, 73, 84, 91, 147, 151, 152, 153, 154, 155, 156, 157, 158, 159, 166, 177 and 190. -/
def Obligations.PartEvents : Prop :=
  (∀ (k : Nat) (s : State),
     let p := s.part k
     let flat := flatOf k
     (ledAt s flat = true → idxOf k ≠ 3 →
       (p.st = .resident → p.quiescing = false → exec (.preempt k) s = .next (unselect (returnTokens (s.modPart k fun p => { p with st := .preempted, blocked := none }) k false) k)) ∧
       (p.st = .resident → p.quiescing = true → exec (.preempt k) s = .next s) ∧
       (p.st = .preempted → p.spillDue = false →
         exec (.resume k) s = .next (sendRequests (s.modPart k fun p => ({ p with st := .resident }).goto p.pc s.steps) k)) ∧
       -- one whose spill is accepted stays to be saved
       (p.st = .preempted → p.spillDue = true → exec (.resume k) s = .next s) ∧
       (p.st = .halted → p.spillDue = true → exec (.release k) s = .next s) ∧
       (p.st = .preempted ∨ p.st = .halted →
         let u := s.modPart k fun p => { p with spillDue := true }
         let x := capture u k
         (partStill u k = true →
           exec (.spill k) s = .next { x.1 with away := x.1.away ++ [(flat, { x.2 with st := .spilled })], epoch := x.1.epoch + 1 }) ∧
         (partStill u k = false → exec (.spill k) s = .next u)) ∧
       (p.st = .checkpointing → exec (.spill k) s = .next (s.modPart k fun p => { p with spillLater := true })) ∧
       (p.fmode ≠ .leading → exec (.halt k) s = .next (unselect (s.modPart k Part.haltIt) k)) ∧
       (p.st = .halted → p.chkDone = false → p.spillDue = false → p.prev = .resident → p.quiesce = none →
         exec (.release k) s = .next (sendRequests (s.modPart k fun p => ({ p with st := .resident }).goto p.pc s.steps) k)) ∧
       (p.st = .halted → p.chkDone = true → exec (.release k) s = .next s)) ∧
     (ledAt s flat = true →
       (∀ a j, s.away.find? (fun a => a.1 = flat && a.2.ctx = p.ctx && a.2.st = .spilled) = some a → freePartition s flat = some j →
         mailboxUsed s flat + a.2.mbox.length ≤ 64 → runnable s flat p.ctx = true → s.placed flat p.ctx = none →
         exec (.restore flat p.ctx) s = .next (placePart { s with away := s.away.erase a } j a.2 (if a.2.chkDone then .halted else .resident))) ∧
       ((freePartition s flat).isSome = true →
         (∀ l unit, admitOf s flat p.ctx = .create l unit → exec (.admitPart flat p.ctx) s = .next (wakeUnit s l unit flat)) ∧
         (admitOf s flat p.ctx = .restore → exec (.admitPart flat p.ctx) s = .next (restorePart s flat p.ctx))) ∧
       (admitOf s flat p.ctx = .nothing → exec (.admitPart flat p.ctx) s = .next s) ∧
       ((s.away.any fun a => a.1 = flat && a.2.ctx = p.ctx && a.2.st = .spilled) = false → partPresent s flat p.ctx = false →
         ∀ l unit, createdOf s flat p.ctx = some (l, unit) → coreGone s (l.flag 4) flat = false → admitOf s flat p.ctx = .create l unit)) ∧
     (∃ t, exec (.liveDump p.ctx) s = .next t ∧ ∀ j, (s.part j).st = .halted ∨ ((s.part j).st = .resident ∧ (s.part j).chkDone = false ∧ (s.part j).spillDue = false) → (t.part j).st = (s.part j).st) ∧
     (∀ (r : Fin 2) (limit : Option Nat), ∃ t, exec (.quiesce ⟨r, limit⟩) s = .next t ∧ t.quiesced = true ∧ t.chkLimit = limit.getD s.chkLimit ∧
       (s.tasks = [] → idxOf k ≠ 3 → mfind s.parts k ≠ none → (p.st = .resident ∨ p.st = .halted) → p.inChk = false → (t.part k).quiesce = some r)) ∧
     (∀ r : Fin 2, p.quiesce = some r → p.st = .resident → p.inChk = false → idxOf k ≠ 3 → (s.cluster (clOf flat)).halted = false → p.sleep = .awake →
       exec (.checkpoint k) s = .next (enterCheckpoint s k r.val)) ∧
     (p.st = .checkpointing → idxOf k ≠ 3 → s.chkLimit ≤ since s p.chkAt → exec (.checkpointLimit k) s = .next { haltPart s k with chkFailed := s.chkFailed ++ [k] }) ∧
     (s.quiesced = true → ∀ rebuild, ∃ t, exec (.quiesceWithdraw rebuild) s = .next t ∧ t.quiesced = false) ∧
     (p.st ≠ .free → idxOf k ≠ 3 →
       exec (.asyncMcheck k) s = .next (withdrawWait ((s.modDev (ordOf flat) fun d => { d with uncorr := d.uncorr + 1 }).modPart k fun p =>
         { p with asyncMcheck := p.asyncMcheck + 1 }) k)) ∧
     -- its trap is taken at the next boundary, where its record is written with the PC that stands there (R514)
     (∀ n, p.asyncMcheck = n + 1 → p.sleep = .awake → p.quiesce = none →
       let r := mcheckWrite s p.ctx flat (mcheckRecord 2 0 flat (nextForward s k) 0 0)
       boundary s k = some (takeTrap (r.1.modPart k fun p => { p with asyncMcheck := n }) k ⟨0x0C, 2, r.2, none⟩)) ∧
     (p.fmode = .free → p.fwdNow = none → p.twill = [] → nextForward s k = p.pc) ∧
     ((s.devs.any fun d => led s d.1) = true → ∀ c,
       (∃ t, exec (.destroy c none) s = .next t ∧ (∀ l ∈ t.launches, l.ctx ≠ c) ∧ (∀ x ∈ t.tasks, x.msg.ctx ≠ c) ∧ ∀ x ∈ t.adds, x.ctx ≠ c) ∧
       (partsOfCtx s c = [k] → (destroyPart s k).away = [] → exec (.destroy c (some flat)) s = .next (destroyPart s k))) ∧
     (∀ c : CtxSpec, ctxBad s c = false → ∃ t, exec (.contextCreate c) s = .next t ∧
       t.ctx c.ctx = { Ctx.reset with live := true, domain := c.domain, errq := c.errq, spr := c.spranges, gvtIvl := c.gvtIvl, egrants := c.egrants
                                      hbgrants := c.hbgrants })) ∧
  (∀ (s : State) (k reason : Nat),
     let p := s.part k
     let q := (enterCheckpoint s k reason).part k
     p.fmode = .free → (∀ x ∈ s.tasks, x.msg.ctx = p.ctx → x.ran = false) →
     (p.chkptVec ≠ 0 →
       q.pc = p.chkptVec ∧ q.inChk = true ∧ q.st = .checkpointing ∧ q.quiesce = none ∧ q.stall = 3 ∧ q.sb = [] ∧ q.inTrap = p.inTrap ∧ q.inUp = p.inUp ∧
       q.s[60] = BitVec.ofNat 64 (0x0B + p.tstate.toNat * 256) ∧ q.s[61] = p.pc ∧ q.s[62] = BitVec.ofNat 64 reason ∧ q.s[63] = timeAt s k ∧
       (∀ i : Fin 64, i.val < 60 → q.s[i] = p.s[i]) ∧ q.p = p.p ∧ q.v = p.v) ∧
     (p.chkptVec = 0 → q.st = .halted ∧ q.prev = .checkpointing ∧ q.chkDone = true ∧ q.pc = p.pc ∧ q.s = p.s ∧ (k, none) ∈ (enterCheckpoint s k reason).chkReports))

/-- R204 to R206, R212, R220 to R225: firmware's commands on pages at a leader: MAP, UNMAP, MIGRATE, REPLICATE, COLLAPSE, each rejected where it does not apply, and waiting where a
pin holds the page; the end of a migration; a lost line; a broken pin; the counters' halving; a rights shootdown.
The model's own choices that it rests on: log entries 3, 5, 49, 74, 75, 82, 128 and 199. -/
def Obligations.PageEvents : Prop :=
  ∀ (dev : Nat) (va leaf : W64) (s : State),
    (led s dev = true →
      -- MAP
      (∀ (level : Fin 3) tables,
        let log2 := [30, 21, 16].getD level.val 16
        let base : W64 := BitVec.ofNat 64 (va.toNat / 2 ^ log2 * 2 ^ log2)
        let p : Page := { base, log2, dev, state := .resident, home := dirSlice dev base, total := 0, quad := [0, 0, 0, 0], newLeaf := 0, newHome := 0, filling := false
                          replicas := [], unmapDue := false, lost := [], idle := 0 }
        (∀ m, (∀ q ∈ s.pages, q.dev ≠ dev ∨ q.state = .absent ∨ (q.has base = false ∧ p.has q.base = false)) → goodLeaf leaf log2 (dirSlice dev base) = true →
          regionOf base = .shared → writeLeaf s.mem dev base leaf 0 (s.dev dev).transRoot transLevels (level.val + 1) tables = some m →
          exec (.map dev va level leaf tables) s = .next (pageStatus { s with mem := m, pages := s.pages ++ [p] } dev true)) ∧
        (goodLeaf leaf log2 (dirSlice dev base) = false → exec (.map dev va level leaf tables) s = .next (pageStatus s dev false))) ∧
      (pageAt s dev va = none → exec (.unmap dev va) s = .next (pageStatus s dev true)) ∧
      (∀ p, pageAt s dev va = some p →
        (p.state = .migrating → exec (.unmap dev va) s = .next (modPage s p fun p => { p with unmapDue := true })) ∧
        (p.state ≠ .migrating → pinnedPage s p = false → exec (.unmap dev va) s = .next (pageStatus (unmapPage s p) dev true)) ∧
        (p.state ≠ .migrating → pinnedPage s p = true → exec (.unmap dev va) s = .next s) ∧
        (∀ home, p.state = .resident → ordOf home = dev → goodLeaf leaf p.log2 home = true →
          exec (.migrate dev va leaf home) s = .next (pageStatus (startMove s p leaf home) dev true)) ∧
        (∀ home, p.state ≠ .resident → exec (.migrate dev va leaf home) s = .next (pageStatus s dev false)) ∧
        (∀ frames : List W64, p.state = .resident → frames.length = 4 →
          (∀ i, i < 4 → goodLeaf (frames.getD i 0) p.log2 (i * 256) = true ∧ (frames.getD i 0).toNat / 2 ^ 62 = 0) →
          ∃ t, exec (.replicate dev va frames) s = .next (pageStatus t dev true) ∧ t.mem = s.mem) ∧
        (∀ frames, p.state = .replicated → exec (.replicate dev va frames) s = .next (pageStatus s dev true)) ∧
        (p.state = .replicated → pinnedPage s p = false → ∃ t, exec (.collapse dev va) s = .next (pageStatus t dev true) ∧
          t.mem = (setLeafWord (dropCopies s p) p (leafWord s p &&& ~~~(0x80 : W64))).mem) ∧
        (p.state = .replicated → pinnedPage s p = true → exec (.collapse dev va) s = .next s) ∧
        (p.state = .resident → exec (.collapse dev va) s = .next (pageStatus s dev true)))) ∧
    (∀ p, pageAt s dev va = some p →
      (p.state = .migrating → pinnedPage s p = false → p.filling = false → p.unmapDue = false →
        let q : Page := { p with state := .resident, home := p.newHome, total := 0, quad := [0, 0, 0, 0], unmapDue := false }
        exec (.migrationDone dev va) s =
          .next (moveWatches (modPage (setLeafWord (copyFrame (dropCopies s p) p p.newLeaf) p p.newLeaf) p fun _ => q) q q.home)) ∧
      (p.state = .migrating → pinnedPage s p = false → p.filling = false → p.unmapDue = true →
        ∃ t, exec (.migrationDone dev va) s = .next (pageStatus t dev true)) ∧
      (p.state = .migrating → pinnedPage s p = true → exec (.migrationDone dev va) s = .next s) ∧
      exec (.pinLimit dev va) s = .next (breakPins s p) ∧
      (p.state = .replicated → regionOf va = .shared → exec (.lineLost dev va leaf) s = .next (s.modDev dev fun d => { d with uncorr := d.uncorr + 1 })) ∧
      (p.state = .migrating → regionOf va = .shared → s.watches = [] → s.pages = [p] → exec (.lineLost dev va leaf) s =
        .next { (s.modDev dev fun d => { d with uncorr := d.uncorr + 1, retired := if p.lost.contains (lineOf va) then d.retired else d.retired + 1 }) with
          pages := [{ p with lost := if p.lost.contains (lineOf va) then p.lost else p.lost ++ [lineOf va] }] })) ∧
    (∀ pos off, regionOf va = .spad true pos off → exec (.lineLost dev va leaf) s = .next (loseSpad s (dev * 1024 + leaf.toNat % 1024) off) ∧
      (off / 64 * 64) ∈ ((loseSpad { s with watches := [] } (dev * 1024 + leaf.toNat % 1024) off).core (dev * 1024 + leaf.toNat % 1024)).spadLost) ∧
    exec (.scrubSweep dev va true none) s = .next (noteCorrected s dev va) ∧ (∀ d, mfind s.devs dev = some d →
      ((noteCorrected s dev va).dev dev).corr = d.corr + 1 ∧ (homeOf s (dev * 1024) va, s.ftime) ∈ ((noteCorrected s dev va).dev dev).corrected) ∧
    exec (.scrubSweep dev va false none) s = .next s ∧
    ((s.dev dev).scrub ≠ 0 → exec (.scrubSweep dev va false (some leaf)) s = exec (.lineLost dev va leaf) s) ∧
    (∀ corrected, (s.dev dev).scrub = 0 → exec (.scrubSweep dev va corrected (some leaf)) s = .next s) ∧
    (∀ set : Option HotPolicy, ∃ t, exec (.hotnessHalving ⟨dev, set⟩) s = .next t ∧
      (mfind s.devs dev ≠ none → led s dev = false → (t.dev dev).policy = set.getD (s.dev dev).policy) ∧
      (led s dev = false → ∀ p ∈ t.pages, ∃ q ∈ s.pages, p.base = q.base ∧ p.home = q.home ∧ p.state = q.state ∧
        (p.dev = dev → p.total = q.total / 2 ∧ p.quad = q.quad.map (· / 2) ∧ p.idle = if q.total = 0 then q.idle + 1 else 0) ∧ (p.dev ≠ dev → p = q))) ∧
    (∀ (dom : Half) (base : W64) (log2 flat : Nat),
      ((s.devs.any fun d => led s d.1) = true → ∃ t, exec (.rightsShootdown dom base log2) s = .next t ∧ t.mem = s.mem ∧ t.parts = s.parts ∧
        ∀ e, e ∈ (t.core flat).plb ↔ e ∈ (s.core flat).plb ∧
          ¬ (e.dom = dom ∧ e.base.toNat % 2 ^ 57 / 2 ^ max log2 e.log2 = base.toNat % 2 ^ 57 / 2 ^ max log2 e.log2)) ∧
      ((s.devs.any fun d => led s d.1) = false → exec (.rightsShootdown dom base log2) s = .next s)) ∧
    -- the policy of R221 moves a RESIDENT page to the tile at its centre of gravity
    (∀ p t, p.state = .resident → p.centre = some t → (s.dev p.dev).policy.quads ≤ p.quad.foldl (· + ·) 0 → (s.dev p.dev).policy.hops < hops (p.home % 256) t →
      applyPolicy s p = migratePage { s with free := s.free + 1 } p (leafWord s p) (p.home / 256 * 256 + t)) ∧
    -- a move is a migrate command, whose outcome is recorded
    (∀ p w home, (p.state = .resident → ordOf home = p.dev → goodLeaf w p.log2 home = true → migratePage s p w home = pageStatus (startMove s p w home) p.dev true) ∧
      ((p.state ≠ .resident ∨ ordOf home ≠ p.dev ∨ goodLeaf w p.log2 home = false) → migratePage s p w home = pageStatus s p.dev false))

/-- R482 to R493: the events of the scale-up links, of the flow census, and of the loss of a module.
The model's own choices that it rests on: log entries 2, 64, 65, 66, 67, 167, 176 and 189. -/
def Obligations.LinkEvents : Prop :=
  ∀ (dev : Nat) (n : Fin 18) (s : State),
    let l := linkOf s dev n
    ((s.dev dev).boot = 0 → exec (.linkEnable dev n) s = .next s ∧ exec (.linkTrained dev n false) s = .next s ∧ exec (.trainingFailed dev n) s = .next s ∧
      exec (.retrain dev n) s = .next s) ∧
    ((s.dev dev).boot ≠ 0 →
    ((l.st = .down ∨ l.st = .failed) → .link n.val ∉ (s.dev dev).withdrawn → exec (.linkEnable dev n) s = .next (modLink s dev n fun l => { l.train with after := .up })) ∧
    ((l.st = .down ∨ l.st = .failed) → .link n.val ∈ (s.dev dev).withdrawn → ∃ t, exec (.linkEnable dev n) s = .next t ∧ (linkOf t dev n).st = .training ∧
      .link n.val ∉ (t.dev dev).withdrawn) ∧
    (l.st = .training → exec (.linkTrained dev n false) s = .next (modLink s dev n fun l =>
      Link.settleKey { l with st := l.after, after := .up, fails := 0, heard := s.ftime })) ∧
    (l.st = .training → l.fails = 0 → exec (.trainingFailed dev n) s = .next (modLink s dev n fun l => { l with fails := 1 })) ∧
    (l.st = .training → 2 ≤ l.fails → ∃ t, exec (.trainingFailed dev n) s = .next t ∧ (linkOf t dev n).st = .failed ∧ .link n.val ∈ (t.dev dev).withdrawn) ∧
    (l.st = .up → exec (.retrain dev n) s = .next (modLink s dev n Link.train))) ∧
    exec (.linkDisable dev n) s = .next (modLink s dev n fun l =>
      { l.train with st := .down, after := .up, epoch := l.train.waiting.getD l.train.epoch, waiting := none
                     count := if l.train.waiting.isSome then 0 else l.train.count }) ∧
    -- 10 µs without a valid frame retrain the link
    (∀ f : Frame, l.st = .up → l.silent s.ftime = true → exec (.frameReceive dev n f) s = .next (modLink s dev n Link.train)) ∧
    (l.silent s.ftime = false →
    (∀ f : Frame, l.st = .up → crcOk f = false → exec (.frameReceive dev n f) s = .next (modLink s dev n fun l => { l with nak := true })) ∧
    (∀ f : Frame, l.st = .up → l.enc = false → crcOk f = true → f.nval ≤ 8 → f.typ = 0 → f.seq = l.rxSeq →
      ∃ t, exec (.frameReceive dev n f) s = .next t ∧ (linkOf t dev n).rxSeq = (l.rxSeq + 1) % 1024 ∧ (linkOf t dev n).nak = false ∧
        (linkOf t dev n).partly = partlyLeft (l.partly ++ (f.data.take f.nval).map fun x => (f.vc, x)) f.vc) ∧
    (∀ f : Frame, l.st = .up → l.enc = false → crcOk f = true → f.nval ≤ 8 → f.typ = 0 → f.seq ≠ l.rxSeq →
      exec (.frameReceive dev n f) s = .next (modLink s dev n fun l => { l with nak := true })) ∧
    -- a link held for a quiesce takes no data of VC 0 to 2 (R489)
    (∀ f : Frame, l.st = .quiesced → l.enc = false → crcOk f = true → f.typ = 0 → f.vc ≠ 3 →
      exec (.frameReceive dev n f) s = .next (modLink s dev n fun l => { l with nak := true }))) ∧
    (∀ ack, exec (.nakReceive dev n ack) s = .next (modLink s dev n fun l => l.nakked (ack % 1024))) ∧
    exec (.idleFrame dev n) s = .next (modLink s dev n fun l => { l with nak := false }) ∧
    (∀ e, e ∈ l.used → exec (.rekey dev n e) s = .next s) ∧
    (∀ e, e ∉ l.used → l.st = .up → l.replay.length < 64 → ∃ t, exec (.rekey dev n e) s = .next t ∧ (linkOf t dev n).st = .rekeying ∧ (linkOf t dev n).epoch = e ∧
      (linkOf t dev n).old = some l.epoch ∧ (linkOf t dev n).rxOld = some l.epoch ∧ (linkOf t dev n).replay = l.replay ++ [frameOf l.txSeq l.rxSeq 0 (l.epoch.toNat % 4) 1 3 [e.setWidth 128]]) ∧
    -- RETIRE goes once no frame of the old epoch waits for its ACK; the link is REKEYING until both ends have dropped the old key
    (l.st = .rekeying → l.old.isSome = true → l.oldFrames = false → l.room = true → l.waiting = none → ∃ t, exec (.retire dev n) s = .next t ∧
      (linkOf t dev n).old = none ∧ (linkOf t dev n).st = (if l.rxOld = none then l.after else .rekeying)) ∧
    (l.st ≠ .rekeying ∨ l.old = none ∨ l.oldFrames = true ∨ l.room = false → exec (.retire dev n) s = .next s) ∧
    (∀ t0, l.newSeen = some t0 →
      (100000 ≤ since s t0 → exec (.oldKeyTimeout dev n) s = .next (modLink s dev n fun l => Link.settleKey { l with rxOld := none, newSeen := none })) ∧
      (since s t0 < 100000 → exec (.oldKeyTimeout dev n) s = .next s)) ∧
    (∀ dst (cls : Fin 4) e, mfind (s.dev dev).e2e (dst * 4 + cls.val) = some e →
      (e.unacked = [] → exec (.endToEndAck dev dst cls) s = .next s) ∧
      (∀ u us, e.unacked = u :: us →
        ((∃ m ∈ s.net, ordOf m.src = dev ∧ ordOf m.dest = dst ∧ m.cls = cls ∧ m.num = some u.1) → exec (.endToEndAck dev dst cls) s = .next s) ∧
        ((∀ m ∈ s.net, ordOf m.src ≠ dev ∨ ordOf m.dest ≠ dst ∨ m.cls ≠ cls ∨ m.num ≠ some u.1) → exec (.endToEndAck dev dst cls) s =
          .next (s.modDev dev fun d => { d with e2e := mset d.e2e (dst * 4 + cls.val) { e with unacked := us } })))) ∧
    -- the hub numbers what it sends on a stream, on the first UP plane of the stream's order (R482, R483)
    (∀ (m : Msg) (e : E2e) (n : Nat), rerouted s m.dest = m.dest → crosses s m.src m.dest = true →
      mfind (s.dev (ordOf m.src)).e2e (ordOf m.dest * 4 + m.cls.val) = some e → e.plane = none → planeOf s (ordOf m.src) (ordOf m.dest) m.cls.val = some n →
      (sendMsg s m).net = s.net ++ [{ m with num := some e.next }] ∧
      mfind ((sendMsg s m).dev (ordOf m.src)).e2e (ordOf m.dest * 4 + m.cls.val) =
        some ⟨some n, e.next + 1, e.unacked.map (fun u => (u.1, n)) ++ [(e.next, n)]⟩) ∧
    (∀ a b cls n, planeOf s a b cls = some n → cls ≠ 3 → n ∈ planeOrder a b cls ∧ bothEnds s a b n Link.choosable = true) ∧
    (l.st = .up → exec (.linkDrain dev n) s = .next (modLink s dev n fun l => { l with st := .draining })) ∧
    (l.st = .draining → l.replay = [] → (∀ e ∈ (s.dev dev).e2e, ∀ u ∈ e.2.unacked, u.2 ≠ n.val) →
      exec (.linkDrained dev n) s = .next (routeNowhere (modLink s dev n fun l => { l with st := .quiesced }) dev)) ∧
    ((s.dev dev).svc = 0 → (∀ n : Fin 18, (linkOf s dev n).st = .quiesced) → ((routeNowhere s dev).dev dev).unrouted = true) ∧
    (∀ on, exec (.linkEncryptionSet dev n on) s = .next (modLink s dev n fun l => { l with enc := on })) ∧
    ((s.dev dev).boot = 2 → (s.dev dev).censusSlots ≠ 0 → censusInstant s (s.dev dev).censusIvl ≠ (s.dev dev).censusAt → ∃ t, exec (.censusSnapshot dev) s = .next t ∧ (t.dev dev).rseq = (s.dev dev).rseq + 1 ∧
      (Memory.wf s.mem = true → ∀ i, i < 8 → memRead t.mem (keyOf 0 dev ((s.dev dev).censusBase.toNat + (s.dev dev).rseq % max (s.dev dev).censusSlots 1 * 134080) + 8 + i) =
        (bytesOf 8 (s.dev dev).rseq).getD i 0)) ∧
    ((∃ d, mfind s.devs dev = some d ∧ d.lost = false) → ∃ t, exec (.peerLoss dev) s = .next t ∧ (t.dev dev).lost = true ∧ t.quiesced = true ∧
      ∀ i, i < 4 → (t.die (dev * 4 + i)).tabla = []) ∧
    ((s.dev dev).lost = true → exec (.peerLoss dev) s = .next s) ∧
    -- a frame that is sent takes the next SEQ; an ACK frees what it passes
    (∀ (x : Link) typ data, (x.send typ data).txSeq = (x.txSeq + 1) % 1024 ∧ (x.send typ data).replay.length = x.replay.length + 1 ∧ (x.send typ data).st = x.st) ∧
    (∀ x : Link, x.replay.length ≤ x.txSeq → x.txSeq < 1024 → (x.acked x.txSeq).replay = []) ∧
    (∀ x : Link, x.train.st = .training ∧ x.train.replay = [] ∧ x.train.txSeq = 0 ∧ x.train.rxSeq = 0 ∧ x.train.partly = [] ∧ x.train.old = none ∧ x.train.fails = 0)

/-- R22 to R28, R503 to R512: spares and withdrawals, bring-up and power, management writes, eviction and its latch, the health record.
The model's own choices that it rests on: log entries 1, 3, 12, 49, 67, 71, 77, 78, 79, 85, 87, 88, 147, 153, 158, 165 and 181. -/
def Obligations.ServiceEvents : Prop :=
  ∀ (dev : Nat) (s : State),
    let d := s.dev dev
    (led s dev = true →
      exec (.healthRecordWrite dev) s = .next (writeHealth s dev) ∧
      (∀ pos cl, cl / 64 = dev → cl % 64 ∉ d.spareCores → (s.cluster cl).halted = false → ∃ t, exec (.spareCoreMap cl pos) s = .next t ∧
        (t.dev dev).spareCores = d.spareCores ++ [cl % 64] ∧ (t.cluster cl).halted = false) ∧
      (∀ flat, ordOf flat = dev → flat ∉ d.spareWays → gathered s flat = true → ∃ t, exec (.l2WayRetire flat) s = .next t ∧ (t.dev dev).spareWays = d.spareWays ++ [flat]) ∧
      (∀ flat, ordOf flat = dev → gathered s flat = false → exec (.l2WayRetire flat) s = .next s) ∧
      (∀ t0, .tile t0 ∉ d.withdrawn → noSpare s dev (.tile t0) = true → ∃ t, exec (.resourceWithdrawal dev (.tile t0)) s = .next t ∧ (t.dev dev).withdrawn = d.withdrawn ++ [.tile t0]) ∧
      (∀ r, noSpare s dev r = false → exec (.resourceWithdrawal dev r) s = .next s) ∧
      (∀ n : Fin 18, ∃ t, exec (.resourceWithdrawal dev (.link n.val)) s = .next t ∧ (linkOf t dev n).st = .failed)) ∧
    (mfind s.devs dev ≠ none →
      -- bring-up begins: every object of the module is as after reset, and BOOT is FIRMWARE
      (∀ b : BringUp, b.cause = 0 → d.boot ≠ 1 → ∃ t, exec (.moduleReset dev b) s = .next t ∧ (t.dev dev).boot = 1 ∧ (t.dev dev).svc = 0 ∧
        (t.dev dev).starting = some b ∧ (t.dev dev).leader = some 0 ∧
        (∀ k, ordOf (flatOf k) = dev → t.part k = .reset) ∧ (∀ p ∈ t.pages, p.dev ≠ dev)) ∧
      -- and it ends: BOOT is READY
      (∀ b : BringUp, d.boot = 1 → d.starting = some b → ∃ t, exec (.moduleReset dev b) s = .next t ∧ (t.dev dev).boot = 2 ∧ (t.dev dev).domRoot = b.domRoot ∧
        (t.dev dev).transRoot = b.transRoot ∧ (t.dev dev).censusSlots = b.slots ∧ (t.dev dev).lost = !b.joins ∧ (t.dev dev).starting = none ∧
        ∀ n : Fin 18, (linkOf s dev n).st = .training → (n ∈ b.trainedOk → (linkOf t dev n).st = .up) ∧
          (n ∉ b.trainedOk → (linkOf t dev n).st = .failed ∧ .link n.val ∈ (t.dev dev).withdrawn)) ∧
      (∀ b : BringUp, b.cause ≠ 0 → d.boot ≠ 1 → ∃ t, exec (.moduleReset dev b) s = .next t ∧ (t.dev dev).boot = 1 ∧ (t.dev dev).cause = b.cause) ∧
      (∃ t, exec (.powerOff dev) s = .next t ∧ (t.dev dev).boot = 0 ∧ (t.dev dev).healthA = d.healthA ∧ (t.dev dev).withdrawn = d.withdrawn ∧
        ∀ k, ordOf (flatOf k) = dev → t.part k = .reset)) ∧
    (∀ image, exec (.firmwareUpdate dev image) s = .next (s.modDev dev fun d => { d with newImage := some image })) ∧
    -- a management write that is rejected is answered with an error code and changes nothing else
    let rejected := s.modDev dev fun d => { d with mgmtError := true }
    (∀ v : W32, let c := v.toNat % 65536
      (1200 ≤ c → c ≤ 3000 → c % 25 = 0 → exec (.pcapWrite dev v) s = .next (s.modDev dev fun d => { d with cap := c, mgmtError := false })) ∧
      ((c < 1200 ∨ 3000 < c ∨ c % 25 ≠ 0) → exec (.pcapWrite dev v) s = .next rejected) ∧
      exec (.mgmtRegWrite dev 0x04 v) s = exec (.pcapWrite dev v) s ∧
      exec (.mgmtRegWrite dev 0x08 v) s = .next (s.modDev dev fun d => { d with scrub := v.toNat % 4, mgmtError := false }) ∧
      (v.toNat % 128 ≠ 0 → v.toNat % 128 ≤ 100 → exec (.mgmtRegWrite dev 0x0C v) s =
        .next (s.modDev dev fun d => { d with censusIvl := v.toNat % 128, censusAt := censusInstant s (v.toNat % 128), mgmtError := false })) ∧
      ((v.toNat % 128 = 0 ∨ 100 < v.toNat % 128) → exec (.mgmtRegWrite dev 0x0C v) s = .next rejected) ∧
      (let taken (u : State) : State := u.modDev dev fun d => { d with mgmtError := false }
       (v.getLsbD 31 = true → v.getLsbD 30 = false → evictRefused s dev (v.toNat % 2 ^ 22) = false →
         exec (.mgmtRegWrite dev 0x10 v) s = .next (taken (evictGo s dev (v.toNat % 2 ^ 22)))) ∧
       (v.getLsbD 31 = true → (v.getLsbD 30 = true ∨ evictRefused s dev (v.toNat % 2 ^ 22) = true) → exec (.mgmtRegWrite dev 0x10 v) s = .next rejected) ∧
       (v.getLsbD 31 = false → v.getLsbD 30 = true → exec (.mgmtRegWrite dev 0x10 v) s = .next (taken (evictAbort s dev)))) ∧
      (v.getLsbD 0 = true → exec (.mgmtRegWrite dev 0x14 v) s = exec (.freeze dev) s) ∧
      exec (.mgmtRegWrite dev 0x00 v) s = .next rejected) ∧
    (∃ t, exec (.freeze dev) s = .next t ∧ (t.dev dev).boot = 3 ∧ (mfind s.devs dev ≠ none → (t.dev dev).lost = true) ∧ ∀ k, ordOf (flatOf k) = dev → t.sel ≠ some k) ∧
    -- eviction
    (∀ ord e, d.boot = 2 → (d.svc = 0 ∨ d.svc = 3) → ord ≠ dev → mfind s.devs ord = some e → e.lost = false →
      ∃ t, exec (.evictGo dev ord) s = .next t ∧ (t.dev dev).svc = 1 ∧ (t.dev dev).evictOrd = ord ∧ (t.dev dev).evictAt = s.ftime) ∧
    (∀ ord, evictRefused s dev ord = true → exec (.evictGo dev ord) s = .next s) ∧
    (evictRefused s dev dev = true) ∧
    (d.svc = 1 → ∃ t, exec (.evictAbort dev) s = .next t ∧ (t.dev dev).svc = 3) ∧
    (d.svc = 2 → ∃ t, exec (.evictAbort dev) s = .next t ∧ (t.dev dev).svc = 0 ∧ (t.dev dev).latchOk = false) ∧
    (d.svc = 1 → (30000000000 ≤ since s d.evictAt → ∃ t, exec (.evictTimeout dev) s = .next t ∧ (t.dev dev).svc = 3) ∧
      (since s d.evictAt < 30000000000 → exec (.evictTimeout dev) s = .next s)) ∧
    (∀ u, d.svc = 1 → s.away = [] → s.launches = [] → since s d.evictAt < 30000000000 → carryRest s dev d.evictOrd = some u → (∀ n : Fin 18, (linkOf s dev n).st = .quiesced) → (∀ k ∈ s.parts, k.2.st ≠ .free → ordOf (flatOf k.1) ≠ dev) →
      ∃ t, exec (.evictReleased dev) s = .next t ∧ (t.dev dev).svc = 2 ∧ (t.dev dev).latchOk = true ∧ (t.dev dev).routedTo = some d.evictOrd) ∧
    (d.svc = 1 → 30000000000 ≤ since s d.evictAt → exec (.evictReleased dev) s = .next s) ∧
    (∀ c src dst e, ordOf src = dev → d.svc = 1 → d.lost = false → ordOf dst = d.evictOrd → mfind s.devs (ordOf dst) = some e → e.lost = false →
      let u := arrive_ s c src dst
      (c ∈ d.sentCtxs ∨ partOn s src c = false ∨ partOn u src c = true → exec (.evictionTransferDone c src dst) s = .next u) ∧
      (c ∉ d.sentCtxs → partOn s src c = true → partOn u src c = false →
        exec (.evictionTransferDone c src dst) s = .next (u.modDev dev fun d => { d with sentCtxs := c :: d.sentCtxs }))) ∧
    (∀ c src dst, ordOf src = dev → d.svc ≠ 1 → c ∉ d.sentCtxs → exec (.evictionTransferDone c src dst) s = .next s) ∧
    (d.svc = 2 → exec (.latchOpened dev) s = .next s) ∧
    (d.svc ≠ 2 → mfind s.devs dev ≠ none → exec (.latchOpened dev) s =
      .next ((loseModule s dev).modDev dev fun d => { d with svc := if d.svc = 1 then 0 else d.svc, sentCtxs := [] }))

/-- R66, R67, R77, R100: where nothing of the agenda comes first and a partition is chosen whose line is in its fetch buffer and executable, the step is exec of the
instruction that decodes at its address, with next(PC) found from the line, then what follows every issue; a head that decodes to none traps ILLEGAL. R103: a follower runs
the next instruction forwarded to it, and none of its own fetch.
The events of the agenda come before any instruction; with none and no partition chosen, the step is the event that the free order gives.
The model's own choices that it rests on: log entries 4, 5, 6, 23 and 86. -/
def Obligations.StepRunsDecoded : Prop :=
  (∀ (s s1 : State) (k : Nat) (l : FLine) (line : BitVec 512),
     let t : State := takeForward { tick s with cur := k } k
     let p := t.part k
     let q := s1.part k
     let ends (u : State) (i : Instr) : Prop := step s = match exec i u with
       | .next v => .next (afterIssue u i k v)
       | r => r
     s.agenda = [] → s.sel = some k →
     (∀ u, boundary t k = some u → step s = .next (ccEnds (tick s) u k)) ∧
     (boundary t k = none →
       (∀ f, p.fwdNow = some f → ends t f.ins) ∧
       (p.fwdNow = none → p.fmode = .following → step s = .next (ccEnds (tick s) { t with sel := none, issued := false } k)) ∧
       (p.fwdNow = none → p.fmode ≠ .following → p.fbuf.find? (fun l => l.addr = lineOf p.pc) = some l → l.data = some line →
         checkRightsPiece t (whoOf t k) .fetch p.pc 2 = .ok s1 →
         (∀ i last, decodeAt line (p.pc.toNat / 2 % 32) = .ins i last →
           ends (s1.modPart k fun r => { r with npc := if last then lineOf p.pc + 64 else p.pc + 2 }) i) ∧
         (decodeAt line (p.pc.toNat / 2 % 32) = .lineEnd → ends s1 .lineEnd) ∧
         (∀ r, decodeAt line (p.pc.toNat / 2 % 32) = .bad r →
           step s = .next (ccEnds (tick s) (takeTrap s1 k ⟨0x01, 0, BitVec.ofNat 64 (r + q.pc.toNat / 2 % 32 * 256), none⟩) k))) ∧
       (p.fwdNow = none → p.fmode ≠ .following → p.fbuf.find? (fun l => l.addr = lineOf p.pc) = none →
         step s = .next (ccEnds (tick s) { (t.modPart k fun r => r.refetch t.steps) with sel := none, issued := false } k)))) ∧
  (∀ s : State,
     (∀ i is, s.agenda = i :: is → step s = exec (eventOf (tick s) (some i)) (touched (eventOf (tick s) (some i)) { tick s with agenda := is })) ∧
     (s.agenda = [] → s.sel = none →
       step s = exec (eventOf (tick s) (Config.nextEvent (s.steps + 1))) (touched (eventOf (tick s) (Config.nextEvent (s.steps + 1))) (tick s))) ∧
     -- an event but a look of a scheduler lets those that wait look again
     (∀ i, (∀ x, i ≠ .issueSelect x ∧ i ≠ .twillForwardIssue x) → touched i s = { s with epoch := s.epoch + 1 }) ∧
     (∀ x, touched (.issueSelect x) s = s ∧ touched (.twillForwardIssue x) s = s))

/-- R69 to R75: instructions decoded from words written out from the encodings: YIELD (R111), NOP +5 (R105), MOV s3, s1 (R116), (p1) ADD s8, s9, #-1 (R114, R75),
SEL s2, s3, s4, !p5 (R117), LI s4, #0x01234567 (R118), LD s5, [s6-8] (R197), BRA to head 3 of the line before (R106), VADD.h.sat v1, v2, c3 (R128, R130). -/
def Obligations.DecodeWords : Prop :=
  let h0 : Hd := ⟨0, false, none⟩
  decodeInsn 0x0E00 true [] = .ok (.yield h0) ∧
  decodeInsn 0x0214 true [] = .ok (.nop ⟨5, false, none⟩) ∧
  decodeInsn 0x2480 true [0x4341, 0x0002] = .ok (.mov h0 ⟨.s 3, .s 1, .v 0⟩) ∧
  decodeInsn 0x20C1 true [0x0100, 0x4849, 0xFF00] = .ok (.add ⟨0, false, some ⟨false, 1⟩⟩ ⟨.s 8, .s 9, .lit 0x3F⟩) ∧
  decodeInsn 0x26C0 true [0x4243, 0x4400, 0x020D] = .ok (.sel h0 ⟨.s 2, .s 3, .s 4, .v 0, 0x0D⟩) ∧
  decodeInsn 0x2900 true [0x44E0, 0x0000, 0x4567, 0x0123] = .ok (.li h0 ⟨.s 4, .slot, 0x01234567⟩) ∧
  decodeInsn 0x90C0 true [0x4546, 0x0006, 0xFFF8] = .ok (.ld h0 ⟨.s 5, .v 0, .s 6, 0xFFF8, 0x06⟩) ∧
  decodeInsn 0x0480 true [0x001F, 0xFFFF] = .ok (.bra h0 ⟨0, 3, 0x7FFFF⟩) ∧
  decodeInsn 0x60C0 true [0x0102, 0x8300, 0x0009] = .ok (.vadd h0 ⟨.v 1, .v 2, .c 3, .v 0, 0x09⟩) ∧
  decodeInsn 0x0001 true [] = .error 0x01 ∧ decodeInsn 0x0E40 true [0] = .error 0x03

/-- R52, R53, R93, R162, R507: what reset leaves: no partition runs, memory lists nothing, STALLCHK.EN is 1, the control registers, the vectors and the handler state are 0, and
the module stands in RESET. (That memory lists nothing and every general register is 0 is the model's choice: log entries 2 and 10.)
The model's own choices that it rests on: log entries 2, 3, 7, 9, 10, 11 and 84. -/
def Obligations.ResetState : Prop :=
  Inv State.reset ∧ State.reset.mem = [] ∧ State.reset.sel = none ∧ State.reset.time = 0 ∧ (State.reset.dev 0).boot = 0 ∧
  ∀ k, let p := State.reset.part k
    p.st = .free ∧ p.stallchk = true ∧ p.fpctl = 0 ∧ p.fpflags = 0 ∧ p.srseed = 0 ∧ p.srctr = 0 ∧ p.trapvec = 0 ∧ p.upcallVec = 0 ∧ p.chkptVec = 0 ∧ p.trappc = 0 ∧
    p.trapval = 0 ∧ p.tstate = 0 ∧ p.trapcause = 0 ∧ p.fibframe = 0 ∧ p.faultinfo = 0 ∧ (∀ i, p.getS i = 0) ∧ p.sb = [] ∧
    (∀ r : Fin 8, p.streams[r].state = .unbound)

/-- Every step keeps the canonical form of memory.
The model's own choices that it rests on: log entries 2 and 4. -/
def Obligations.StepKeepsMemory : Prop :=
  ∀ s t : State, Inv s → step s = .next t → Inv t

/-- Decoding the words of a well-formed instruction gives it back, with every operand at every value that the encoding admits.
The model's own choices that it rests on: log entry 16. -/
def Obligations.DecodeEncode : Prop :=
  ∀ (i : Instr) (major sub : Nat) (h : Hd) (o : Opnds), i.wf = true → partsOf i = some (major, sub, h, o) →
    ∃ head tail, encode i = head :: tail ∧ tail.length ≤ 7 ∧ decodeInsn head true tail = .ok i ∧ decodeAt (lineWith head tail) 0 = .ins i false
end

