-- ==== Sys2Proof/Laws/State.lean ====
section
/-! SUPPORT. The laws of the maps that the state is made of, and one lemma per field per update of the state. -/

namespace Sys2Proof.Machine

/-! ## Maps -/

@[simp] theorem mfind_mset_self {α : Type} (m : Map α) (k : Nat) (v : α) : mfind (mset m k v) k = some v := by
  induction m with
  | nil => simp [mset, mfind]
  | cons x m ih =>
    obtain ⟨a, w⟩ := x
    by_cases h : a = k
    · simp [mset, mfind, h]
    · by_cases g : k < a
      · simp [mset, mfind, h, g]
      · simp [mset, mfind, h, g, ih]

theorem mfind_mset_ne {α : Type} (m : Map α) {k j : Nat} (v : α) (h : j ≠ k) : mfind (mset m k v) j = mfind m j := by
  induction m with
  | nil => simp [mset, mfind, Ne.symm h]
  | cons x m ih =>
    obtain ⟨a, w⟩ := x
    unfold mset
    split
    · rename_i e
      simp only [mfind, e, if_neg (Ne.symm h)]
    · split
      · rename_i e g
        simp only [mfind, if_neg (Ne.symm h)]
        split
        · rename_i i
          have : ¬ a = j := by omega
          have : j < a := by omega
          simp [*]
        · rfl
      · simp only [mfind, ih]

@[simp] theorem mset_mset {α : Type} (m : Map α) (k : Nat) (v w : α) : mset (mset m k v) k w = mset m k w := by
  induction m with
  | nil => simp [mset]
  | cons x m ih =>
    obtain ⟨a, u⟩ := x
    by_cases h : a = k
    · simp [mset, h]
    · by_cases g : k < a
      · simp [mset, h, g]
      · simp [mset, h, g, ih]

theorem mset_of_mfind {α : Type} (m : Map α) (k : Nat) (v : α) (h : mfind m k = some v) : mset m k v = m := by
  induction m with
  | nil => simp [mfind] at h
  | cons x m ih =>
    obtain ⟨a, w⟩ := x
    unfold mfind at h
    unfold mset
    split at h
    · rename_i e
      cases h
      subst e
      simp
    · split at h
      · cases h
      · simp [*]

theorem mfind_map {α β : Type} (m : Map α) (f : Nat → α → β) (k : Nat) : mfind (m.map fun x => (x.1, f x.1 x.2)) k = (mfind m k).map (f k) := by
  induction m with
  | nil => rfl
  | cons x m ih =>
    obtain ⟨a, w⟩ := x
    simp only [List.map_cons, mfind, ih]
    split
    · rename_i e
      subst e
      rfl
    · split <;> rfl

/-! ## The state's objects -/

namespace State

@[simp] theorem part_setPart (s : State) (k : Nat) (v : Part) : (s.setPart k v).part k = v := by simp [setPart, part]
theorem part_setPart_ne (s : State) {k j : Nat} (v : Part) (h : j ≠ k) : (s.setPart k v).part j = s.part j := by simp [setPart, part, mfind_mset_ne _ _ h]
@[simp] theorem setPart_setPart (s : State) (k : Nat) (v w : Part) : (s.setPart k v).setPart k w = s.setPart k w := by simp [setPart]
@[simp] theorem part_modPart (s : State) (k : Nat) (f : Part → Part) : (s.modPart k f).part k = f (s.part k) := by simp [modPart, setPart, part]
theorem part_modPart_ne (s : State) {k j : Nat} (f : Part → Part) (h : j ≠ k) : (s.modPart k f).part j = s.part j := by simp [modPart, setPart, part, mfind_mset_ne _ _ h]
@[simp] theorem modPart_modPart (s : State) (k : Nat) (f g : Part → Part) : (s.modPart k f).modPart k g = s.modPart k (fun x => g (f x)) := by simp [modPart, setPart, part]
@[simp] theorem core_modCore (s : State) (k : Nat) (f : Core → Core) : (s.modCore k f).core k = f (s.core k) := by simp [modCore, core]
theorem core_modCore_ne (s : State) {k j : Nat} (f : Core → Core) (h : j ≠ k) : (s.modCore k f).core j = s.core j := by simp [modCore, core, mfind_mset_ne _ _ h]
@[simp] theorem modCore_modCore (s : State) (k : Nat) (f g : Core → Core) : (s.modCore k f).modCore k g = s.modCore k (fun x => g (f x)) := by simp [modCore, core]
@[simp] theorem cluster_modCluster (s : State) (k : Nat) (f : Cluster → Cluster) : (s.modCluster k f).cluster k = f (s.cluster k) := by simp [modCluster, cluster]
theorem cluster_modCluster_ne (s : State) {k j : Nat} (f : Cluster → Cluster) (h : j ≠ k) : (s.modCluster k f).cluster j = s.cluster j := by simp [modCluster, cluster, mfind_mset_ne _ _ h]
@[simp] theorem modCluster_modCluster (s : State) (k : Nat) (f g : Cluster → Cluster) : (s.modCluster k f).modCluster k g = s.modCluster k (fun x => g (f x)) := by simp [modCluster, cluster]
@[simp] theorem die_modDie (s : State) (k : Nat) (f : Die → Die) : (s.modDie k f).die k = f (s.die k) := by simp [modDie, die]
theorem die_modDie_ne (s : State) {k j : Nat} (f : Die → Die) (h : j ≠ k) : (s.modDie k f).die j = s.die j := by simp [modDie, die, mfind_mset_ne _ _ h]
@[simp] theorem modDie_modDie (s : State) (k : Nat) (f g : Die → Die) : (s.modDie k f).modDie k g = s.modDie k (fun x => g (f x)) := by simp [modDie, die]
@[simp] theorem dev_modDev (s : State) (k : Nat) (f : Dev → Dev) : (s.modDev k f).dev k = f (s.dev k) := by simp [modDev, dev]
theorem dev_modDev_ne (s : State) {k j : Nat} (f : Dev → Dev) (h : j ≠ k) : (s.modDev k f).dev j = s.dev j := by simp [modDev, dev, mfind_mset_ne _ _ h]
@[simp] theorem modDev_modDev (s : State) (k : Nat) (f g : Dev → Dev) : (s.modDev k f).modDev k g = s.modDev k (fun x => g (f x)) := by simp [modDev, dev]
@[simp] theorem ctx_modCtx (s : State) (k : Nat) (f : Ctx → Ctx) : (s.modCtx k f).ctx k = f (s.ctx k) := by simp [modCtx, ctx]
theorem ctx_modCtx_ne (s : State) {k j : Nat} (f : Ctx → Ctx) (h : j ≠ k) : (s.modCtx k f).ctx j = s.ctx j := by simp [modCtx, ctx, mfind_mset_ne _ _ h]
@[simp] theorem modCtx_modCtx (s : State) (k : Nat) (f g : Ctx → Ctx) : (s.modCtx k f).modCtx k g = s.modCtx k (fun x => g (f x)) := by simp [modCtx, ctx]
@[simp] theorem mu_modMu (s : State) (k : Nat) (f : MUnit → MUnit) : (s.modMu k f).mu k = f (s.mu k) := by simp [modMu, mu]
theorem mu_modMu_ne (s : State) {k j : Nat} (f : MUnit → MUnit) (h : j ≠ k) : (s.modMu k f).mu j = s.mu j := by simp [modMu, mu, mfind_mset_ne _ _ h]
@[simp] theorem modMu_modMu (s : State) (k : Nat) (f g : MUnit → MUnit) : (s.modMu k f).modMu k g = s.modMu k (fun x => g (f x)) := by simp [modMu, mu]
@[simp] theorem setPart_modPart (s : State) (k : Nat) (f : Part → Part) (w : Part) : (s.modPart k f).setPart k w = s.setPart k w := by simp [modPart]
@[simp] theorem modPart_setPart (s : State) (k : Nat) (f : Part → Part) (w : Part) : (s.setPart k w).modPart k f = s.setPart k (f w) := by simp [modPart]
theorem setPart_part (s : State) (k : Nat) (h : (mfind s.parts k).isSome = true) : s.setPart k (s.part k) = s := by
  obtain ⟨p, hp⟩ := Option.isSome_iff_exists.mp h
  simp [setPart, part, hp, mset_of_mfind _ _ _ hp]
theorem modPart_id (s : State) (k : Nat) (f : Part → Part) (h : (mfind s.parts k).isSome = true) (e : f (s.part k) = s.part k) : s.modPart k f = s := by
  rw [modPart, e, setPart_part s k h]


/-! What `setPart` leaves. -/

@[simp] theorem setPart_time (s : State) (k : Nat) (p : Part) : (s.setPart k p).time = s.time := rfl
@[simp] theorem setPart_ftime (s : State) (k : Nat) (p : Part) : (s.setPart k p).ftime = s.ftime := rfl
@[simp] theorem setPart_steps (s : State) (k : Nat) (p : Part) : (s.setPart k p).steps = s.steps := rfl
@[simp] theorem setPart_free (s : State) (k : Nat) (p : Part) : (s.setPart k p).free = s.free := rfl
@[simp] theorem setPart_epoch (s : State) (k : Nat) (p : Part) : (s.setPart k p).epoch = s.epoch := rfl
@[simp] theorem setPart_agenda (s : State) (k : Nat) (p : Part) : (s.setPart k p).agenda = s.agenda := rfl
@[simp] theorem setPart_sel (s : State) (k : Nat) (p : Part) : (s.setPart k p).sel = s.sel := rfl
@[simp] theorem setPart_cur (s : State) (k : Nat) (p : Part) : (s.setPart k p).cur = s.cur := rfl
@[simp] theorem setPart_issued (s : State) (k : Nat) (p : Part) : (s.setPart k p).issued = s.issued := rfl
@[simp] theorem setPart_mem (s : State) (k : Nat) (p : Part) : (s.setPart k p).mem = s.mem := rfl
@[simp] theorem setPart_away (s : State) (k : Nat) (p : Part) : (s.setPart k p).away = s.away := rfl
@[simp] theorem setPart_pages (s : State) (k : Nat) (p : Part) : (s.setPart k p).pages = s.pages := rfl
@[simp] theorem setPart_guests (s : State) (k : Nat) (p : Part) : (s.setPart k p).guests = s.guests := rfl
@[simp] theorem setPart_watches (s : State) (k : Nat) (p : Part) : (s.setPart k p).watches = s.watches := rfl
@[simp] theorem setPart_net (s : State) (k : Nat) (p : Part) : (s.setPart k p).net = s.net := rfl
@[simp] theorem setPart_chkReports (s : State) (k : Nat) (p : Part) : (s.setPart k p).chkReports = s.chkReports := rfl
@[simp] theorem setPart_chkFailed (s : State) (k : Nat) (p : Part) : (s.setPart k p).chkFailed = s.chkFailed := rfl
@[simp] theorem setPart_tasks (s : State) (k : Nat) (p : Part) : (s.setPart k p).tasks = s.tasks := rfl
@[simp] theorem setPart_taskSeq (s : State) (k : Nat) (p : Part) : (s.setPart k p).taskSeq = s.taskSeq := rfl
@[simp] theorem setPart_fw (s : State) (k : Nat) (p : Part) : (s.setPart k p).fw = s.fw := rfl
@[simp] theorem setPart_launches (s : State) (k : Nat) (p : Part) : (s.setPart k p).launches = s.launches := rfl
@[simp] theorem setPart_launchSeq (s : State) (k : Nat) (p : Part) : (s.setPart k p).launchSeq = s.launchSeq := rfl
@[simp] theorem setPart_adds (s : State) (k : Nat) (p : Part) : (s.setPart k p).adds = s.adds := rfl
@[simp] theorem setPart_groups (s : State) (k : Nat) (p : Part) : (s.setPart k p).groups = s.groups := rfl
@[simp] theorem setPart_gcolls (s : State) (k : Nat) (p : Part) : (s.setPart k p).gcolls = s.gcolls := rfl
@[simp] theorem setPart_coordTime (s : State) (k : Nat) (p : Part) : (s.setPart k p).coordTime = s.coordTime := rfl
@[simp] theorem setPart_groupStatus (s : State) (k : Nat) (p : Part) : (s.setPart k p).groupStatus = s.groupStatus := rfl
@[simp] theorem setPart_quiesced (s : State) (k : Nat) (p : Part) : (s.setPart k p).quiesced = s.quiesced := rfl
@[simp] theorem setPart_chkLimit (s : State) (k : Nat) (p : Part) : (s.setPart k p).chkLimit = s.chkLimit := rfl
@[simp] theorem setPart_core (s : State) (k : Nat) (p : Part) (j : Nat) : (s.setPart k p).core j = s.core j := rfl
@[simp] theorem setPart_cores (s : State) (k : Nat) (p : Part) : (s.setPart k p).cores = s.cores := rfl
@[simp] theorem setPart_cluster (s : State) (k : Nat) (p : Part) (j : Nat) : (s.setPart k p).cluster j = s.cluster j := rfl
@[simp] theorem setPart_clusters (s : State) (k : Nat) (p : Part) : (s.setPart k p).clusters = s.clusters := rfl
@[simp] theorem setPart_die (s : State) (k : Nat) (p : Part) (j : Nat) : (s.setPart k p).die j = s.die j := rfl
@[simp] theorem setPart_dies (s : State) (k : Nat) (p : Part) : (s.setPart k p).dies = s.dies := rfl
@[simp] theorem setPart_dev (s : State) (k : Nat) (p : Part) (j : Nat) : (s.setPart k p).dev j = s.dev j := rfl
@[simp] theorem setPart_devs (s : State) (k : Nat) (p : Part) : (s.setPart k p).devs = s.devs := rfl
@[simp] theorem setPart_ctx (s : State) (k : Nat) (p : Part) (j : Nat) : (s.setPart k p).ctx j = s.ctx j := rfl
@[simp] theorem setPart_ctxs (s : State) (k : Nat) (p : Part) : (s.setPart k p).ctxs = s.ctxs := rfl
@[simp] theorem setPart_mu (s : State) (k : Nat) (p : Part) (j : Nat) : (s.setPart k p).mu j = s.mu j := rfl
@[simp] theorem setPart_mus (s : State) (k : Nat) (p : Part) : (s.setPart k p).mus = s.mus := rfl

/-! What `modPart` leaves. -/

@[simp] theorem modPart_time (s : State) (k : Nat) (f : Part → Part) : (s.modPart k f).time = s.time := rfl
@[simp] theorem modPart_ftime (s : State) (k : Nat) (f : Part → Part) : (s.modPart k f).ftime = s.ftime := rfl
@[simp] theorem modPart_steps (s : State) (k : Nat) (f : Part → Part) : (s.modPart k f).steps = s.steps := rfl
@[simp] theorem modPart_free (s : State) (k : Nat) (f : Part → Part) : (s.modPart k f).free = s.free := rfl
@[simp] theorem modPart_epoch (s : State) (k : Nat) (f : Part → Part) : (s.modPart k f).epoch = s.epoch := rfl
@[simp] theorem modPart_agenda (s : State) (k : Nat) (f : Part → Part) : (s.modPart k f).agenda = s.agenda := rfl
@[simp] theorem modPart_sel (s : State) (k : Nat) (f : Part → Part) : (s.modPart k f).sel = s.sel := rfl
@[simp] theorem modPart_cur (s : State) (k : Nat) (f : Part → Part) : (s.modPart k f).cur = s.cur := rfl
@[simp] theorem modPart_issued (s : State) (k : Nat) (f : Part → Part) : (s.modPart k f).issued = s.issued := rfl
@[simp] theorem modPart_mem (s : State) (k : Nat) (f : Part → Part) : (s.modPart k f).mem = s.mem := rfl
@[simp] theorem modPart_away (s : State) (k : Nat) (f : Part → Part) : (s.modPart k f).away = s.away := rfl
@[simp] theorem modPart_pages (s : State) (k : Nat) (f : Part → Part) : (s.modPart k f).pages = s.pages := rfl
@[simp] theorem modPart_guests (s : State) (k : Nat) (f : Part → Part) : (s.modPart k f).guests = s.guests := rfl
@[simp] theorem modPart_watches (s : State) (k : Nat) (f : Part → Part) : (s.modPart k f).watches = s.watches := rfl
@[simp] theorem modPart_net (s : State) (k : Nat) (f : Part → Part) : (s.modPart k f).net = s.net := rfl
@[simp] theorem modPart_chkReports (s : State) (k : Nat) (f : Part → Part) : (s.modPart k f).chkReports = s.chkReports := rfl
@[simp] theorem modPart_chkFailed (s : State) (k : Nat) (f : Part → Part) : (s.modPart k f).chkFailed = s.chkFailed := rfl
@[simp] theorem modPart_tasks (s : State) (k : Nat) (f : Part → Part) : (s.modPart k f).tasks = s.tasks := rfl
@[simp] theorem modPart_taskSeq (s : State) (k : Nat) (f : Part → Part) : (s.modPart k f).taskSeq = s.taskSeq := rfl
@[simp] theorem modPart_fw (s : State) (k : Nat) (f : Part → Part) : (s.modPart k f).fw = s.fw := rfl
@[simp] theorem modPart_launches (s : State) (k : Nat) (f : Part → Part) : (s.modPart k f).launches = s.launches := rfl
@[simp] theorem modPart_launchSeq (s : State) (k : Nat) (f : Part → Part) : (s.modPart k f).launchSeq = s.launchSeq := rfl
@[simp] theorem modPart_adds (s : State) (k : Nat) (f : Part → Part) : (s.modPart k f).adds = s.adds := rfl
@[simp] theorem modPart_groups (s : State) (k : Nat) (f : Part → Part) : (s.modPart k f).groups = s.groups := rfl
@[simp] theorem modPart_gcolls (s : State) (k : Nat) (f : Part → Part) : (s.modPart k f).gcolls = s.gcolls := rfl
@[simp] theorem modPart_coordTime (s : State) (k : Nat) (f : Part → Part) : (s.modPart k f).coordTime = s.coordTime := rfl
@[simp] theorem modPart_groupStatus (s : State) (k : Nat) (f : Part → Part) : (s.modPart k f).groupStatus = s.groupStatus := rfl
@[simp] theorem modPart_quiesced (s : State) (k : Nat) (f : Part → Part) : (s.modPart k f).quiesced = s.quiesced := rfl
@[simp] theorem modPart_chkLimit (s : State) (k : Nat) (f : Part → Part) : (s.modPart k f).chkLimit = s.chkLimit := rfl
@[simp] theorem modPart_core (s : State) (k : Nat) (f : Part → Part) (j : Nat) : (s.modPart k f).core j = s.core j := rfl
@[simp] theorem modPart_cores (s : State) (k : Nat) (f : Part → Part) : (s.modPart k f).cores = s.cores := rfl
@[simp] theorem modPart_cluster (s : State) (k : Nat) (f : Part → Part) (j : Nat) : (s.modPart k f).cluster j = s.cluster j := rfl
@[simp] theorem modPart_clusters (s : State) (k : Nat) (f : Part → Part) : (s.modPart k f).clusters = s.clusters := rfl
@[simp] theorem modPart_die (s : State) (k : Nat) (f : Part → Part) (j : Nat) : (s.modPart k f).die j = s.die j := rfl
@[simp] theorem modPart_dies (s : State) (k : Nat) (f : Part → Part) : (s.modPart k f).dies = s.dies := rfl
@[simp] theorem modPart_dev (s : State) (k : Nat) (f : Part → Part) (j : Nat) : (s.modPart k f).dev j = s.dev j := rfl
@[simp] theorem modPart_devs (s : State) (k : Nat) (f : Part → Part) : (s.modPart k f).devs = s.devs := rfl
@[simp] theorem modPart_ctx (s : State) (k : Nat) (f : Part → Part) (j : Nat) : (s.modPart k f).ctx j = s.ctx j := rfl
@[simp] theorem modPart_ctxs (s : State) (k : Nat) (f : Part → Part) : (s.modPart k f).ctxs = s.ctxs := rfl
@[simp] theorem modPart_mu (s : State) (k : Nat) (f : Part → Part) (j : Nat) : (s.modPart k f).mu j = s.mu j := rfl
@[simp] theorem modPart_mus (s : State) (k : Nat) (f : Part → Part) : (s.modPart k f).mus = s.mus := rfl

/-! What `modCore` leaves. -/

@[simp] theorem modCore_time (s : State) (k : Nat) (f : Core → Core) : (s.modCore k f).time = s.time := rfl
@[simp] theorem modCore_ftime (s : State) (k : Nat) (f : Core → Core) : (s.modCore k f).ftime = s.ftime := rfl
@[simp] theorem modCore_steps (s : State) (k : Nat) (f : Core → Core) : (s.modCore k f).steps = s.steps := rfl
@[simp] theorem modCore_free (s : State) (k : Nat) (f : Core → Core) : (s.modCore k f).free = s.free := rfl
@[simp] theorem modCore_epoch (s : State) (k : Nat) (f : Core → Core) : (s.modCore k f).epoch = s.epoch := rfl
@[simp] theorem modCore_agenda (s : State) (k : Nat) (f : Core → Core) : (s.modCore k f).agenda = s.agenda := rfl
@[simp] theorem modCore_sel (s : State) (k : Nat) (f : Core → Core) : (s.modCore k f).sel = s.sel := rfl
@[simp] theorem modCore_cur (s : State) (k : Nat) (f : Core → Core) : (s.modCore k f).cur = s.cur := rfl
@[simp] theorem modCore_issued (s : State) (k : Nat) (f : Core → Core) : (s.modCore k f).issued = s.issued := rfl
@[simp] theorem modCore_mem (s : State) (k : Nat) (f : Core → Core) : (s.modCore k f).mem = s.mem := rfl
@[simp] theorem modCore_away (s : State) (k : Nat) (f : Core → Core) : (s.modCore k f).away = s.away := rfl
@[simp] theorem modCore_pages (s : State) (k : Nat) (f : Core → Core) : (s.modCore k f).pages = s.pages := rfl
@[simp] theorem modCore_guests (s : State) (k : Nat) (f : Core → Core) : (s.modCore k f).guests = s.guests := rfl
@[simp] theorem modCore_watches (s : State) (k : Nat) (f : Core → Core) : (s.modCore k f).watches = s.watches := rfl
@[simp] theorem modCore_net (s : State) (k : Nat) (f : Core → Core) : (s.modCore k f).net = s.net := rfl
@[simp] theorem modCore_chkReports (s : State) (k : Nat) (f : Core → Core) : (s.modCore k f).chkReports = s.chkReports := rfl
@[simp] theorem modCore_chkFailed (s : State) (k : Nat) (f : Core → Core) : (s.modCore k f).chkFailed = s.chkFailed := rfl
@[simp] theorem modCore_tasks (s : State) (k : Nat) (f : Core → Core) : (s.modCore k f).tasks = s.tasks := rfl
@[simp] theorem modCore_taskSeq (s : State) (k : Nat) (f : Core → Core) : (s.modCore k f).taskSeq = s.taskSeq := rfl
@[simp] theorem modCore_fw (s : State) (k : Nat) (f : Core → Core) : (s.modCore k f).fw = s.fw := rfl
@[simp] theorem modCore_launches (s : State) (k : Nat) (f : Core → Core) : (s.modCore k f).launches = s.launches := rfl
@[simp] theorem modCore_launchSeq (s : State) (k : Nat) (f : Core → Core) : (s.modCore k f).launchSeq = s.launchSeq := rfl
@[simp] theorem modCore_adds (s : State) (k : Nat) (f : Core → Core) : (s.modCore k f).adds = s.adds := rfl
@[simp] theorem modCore_groups (s : State) (k : Nat) (f : Core → Core) : (s.modCore k f).groups = s.groups := rfl
@[simp] theorem modCore_gcolls (s : State) (k : Nat) (f : Core → Core) : (s.modCore k f).gcolls = s.gcolls := rfl
@[simp] theorem modCore_coordTime (s : State) (k : Nat) (f : Core → Core) : (s.modCore k f).coordTime = s.coordTime := rfl
@[simp] theorem modCore_groupStatus (s : State) (k : Nat) (f : Core → Core) : (s.modCore k f).groupStatus = s.groupStatus := rfl
@[simp] theorem modCore_quiesced (s : State) (k : Nat) (f : Core → Core) : (s.modCore k f).quiesced = s.quiesced := rfl
@[simp] theorem modCore_chkLimit (s : State) (k : Nat) (f : Core → Core) : (s.modCore k f).chkLimit = s.chkLimit := rfl
@[simp] theorem modCore_part (s : State) (k : Nat) (f : Core → Core) (j : Nat) : (s.modCore k f).part j = s.part j := rfl
@[simp] theorem modCore_parts (s : State) (k : Nat) (f : Core → Core) : (s.modCore k f).parts = s.parts := rfl
@[simp] theorem modCore_cluster (s : State) (k : Nat) (f : Core → Core) (j : Nat) : (s.modCore k f).cluster j = s.cluster j := rfl
@[simp] theorem modCore_clusters (s : State) (k : Nat) (f : Core → Core) : (s.modCore k f).clusters = s.clusters := rfl
@[simp] theorem modCore_die (s : State) (k : Nat) (f : Core → Core) (j : Nat) : (s.modCore k f).die j = s.die j := rfl
@[simp] theorem modCore_dies (s : State) (k : Nat) (f : Core → Core) : (s.modCore k f).dies = s.dies := rfl
@[simp] theorem modCore_dev (s : State) (k : Nat) (f : Core → Core) (j : Nat) : (s.modCore k f).dev j = s.dev j := rfl
@[simp] theorem modCore_devs (s : State) (k : Nat) (f : Core → Core) : (s.modCore k f).devs = s.devs := rfl
@[simp] theorem modCore_ctx (s : State) (k : Nat) (f : Core → Core) (j : Nat) : (s.modCore k f).ctx j = s.ctx j := rfl
@[simp] theorem modCore_ctxs (s : State) (k : Nat) (f : Core → Core) : (s.modCore k f).ctxs = s.ctxs := rfl
@[simp] theorem modCore_mu (s : State) (k : Nat) (f : Core → Core) (j : Nat) : (s.modCore k f).mu j = s.mu j := rfl
@[simp] theorem modCore_mus (s : State) (k : Nat) (f : Core → Core) : (s.modCore k f).mus = s.mus := rfl

/-! What `modCluster` leaves. -/

@[simp] theorem modCluster_time (s : State) (k : Nat) (f : Cluster → Cluster) : (s.modCluster k f).time = s.time := rfl
@[simp] theorem modCluster_ftime (s : State) (k : Nat) (f : Cluster → Cluster) : (s.modCluster k f).ftime = s.ftime := rfl
@[simp] theorem modCluster_steps (s : State) (k : Nat) (f : Cluster → Cluster) : (s.modCluster k f).steps = s.steps := rfl
@[simp] theorem modCluster_free (s : State) (k : Nat) (f : Cluster → Cluster) : (s.modCluster k f).free = s.free := rfl
@[simp] theorem modCluster_epoch (s : State) (k : Nat) (f : Cluster → Cluster) : (s.modCluster k f).epoch = s.epoch := rfl
@[simp] theorem modCluster_agenda (s : State) (k : Nat) (f : Cluster → Cluster) : (s.modCluster k f).agenda = s.agenda := rfl
@[simp] theorem modCluster_sel (s : State) (k : Nat) (f : Cluster → Cluster) : (s.modCluster k f).sel = s.sel := rfl
@[simp] theorem modCluster_cur (s : State) (k : Nat) (f : Cluster → Cluster) : (s.modCluster k f).cur = s.cur := rfl
@[simp] theorem modCluster_issued (s : State) (k : Nat) (f : Cluster → Cluster) : (s.modCluster k f).issued = s.issued := rfl
@[simp] theorem modCluster_mem (s : State) (k : Nat) (f : Cluster → Cluster) : (s.modCluster k f).mem = s.mem := rfl
@[simp] theorem modCluster_away (s : State) (k : Nat) (f : Cluster → Cluster) : (s.modCluster k f).away = s.away := rfl
@[simp] theorem modCluster_pages (s : State) (k : Nat) (f : Cluster → Cluster) : (s.modCluster k f).pages = s.pages := rfl
@[simp] theorem modCluster_guests (s : State) (k : Nat) (f : Cluster → Cluster) : (s.modCluster k f).guests = s.guests := rfl
@[simp] theorem modCluster_watches (s : State) (k : Nat) (f : Cluster → Cluster) : (s.modCluster k f).watches = s.watches := rfl
@[simp] theorem modCluster_net (s : State) (k : Nat) (f : Cluster → Cluster) : (s.modCluster k f).net = s.net := rfl
@[simp] theorem modCluster_chkReports (s : State) (k : Nat) (f : Cluster → Cluster) : (s.modCluster k f).chkReports = s.chkReports := rfl
@[simp] theorem modCluster_chkFailed (s : State) (k : Nat) (f : Cluster → Cluster) : (s.modCluster k f).chkFailed = s.chkFailed := rfl
@[simp] theorem modCluster_tasks (s : State) (k : Nat) (f : Cluster → Cluster) : (s.modCluster k f).tasks = s.tasks := rfl
@[simp] theorem modCluster_taskSeq (s : State) (k : Nat) (f : Cluster → Cluster) : (s.modCluster k f).taskSeq = s.taskSeq := rfl
@[simp] theorem modCluster_fw (s : State) (k : Nat) (f : Cluster → Cluster) : (s.modCluster k f).fw = s.fw := rfl
@[simp] theorem modCluster_launches (s : State) (k : Nat) (f : Cluster → Cluster) : (s.modCluster k f).launches = s.launches := rfl
@[simp] theorem modCluster_launchSeq (s : State) (k : Nat) (f : Cluster → Cluster) : (s.modCluster k f).launchSeq = s.launchSeq := rfl
@[simp] theorem modCluster_adds (s : State) (k : Nat) (f : Cluster → Cluster) : (s.modCluster k f).adds = s.adds := rfl
@[simp] theorem modCluster_groups (s : State) (k : Nat) (f : Cluster → Cluster) : (s.modCluster k f).groups = s.groups := rfl
@[simp] theorem modCluster_gcolls (s : State) (k : Nat) (f : Cluster → Cluster) : (s.modCluster k f).gcolls = s.gcolls := rfl
@[simp] theorem modCluster_coordTime (s : State) (k : Nat) (f : Cluster → Cluster) : (s.modCluster k f).coordTime = s.coordTime := rfl
@[simp] theorem modCluster_groupStatus (s : State) (k : Nat) (f : Cluster → Cluster) : (s.modCluster k f).groupStatus = s.groupStatus := rfl
@[simp] theorem modCluster_quiesced (s : State) (k : Nat) (f : Cluster → Cluster) : (s.modCluster k f).quiesced = s.quiesced := rfl
@[simp] theorem modCluster_chkLimit (s : State) (k : Nat) (f : Cluster → Cluster) : (s.modCluster k f).chkLimit = s.chkLimit := rfl
@[simp] theorem modCluster_part (s : State) (k : Nat) (f : Cluster → Cluster) (j : Nat) : (s.modCluster k f).part j = s.part j := rfl
@[simp] theorem modCluster_parts (s : State) (k : Nat) (f : Cluster → Cluster) : (s.modCluster k f).parts = s.parts := rfl
@[simp] theorem modCluster_core (s : State) (k : Nat) (f : Cluster → Cluster) (j : Nat) : (s.modCluster k f).core j = s.core j := rfl
@[simp] theorem modCluster_cores (s : State) (k : Nat) (f : Cluster → Cluster) : (s.modCluster k f).cores = s.cores := rfl
@[simp] theorem modCluster_die (s : State) (k : Nat) (f : Cluster → Cluster) (j : Nat) : (s.modCluster k f).die j = s.die j := rfl
@[simp] theorem modCluster_dies (s : State) (k : Nat) (f : Cluster → Cluster) : (s.modCluster k f).dies = s.dies := rfl
@[simp] theorem modCluster_dev (s : State) (k : Nat) (f : Cluster → Cluster) (j : Nat) : (s.modCluster k f).dev j = s.dev j := rfl
@[simp] theorem modCluster_devs (s : State) (k : Nat) (f : Cluster → Cluster) : (s.modCluster k f).devs = s.devs := rfl
@[simp] theorem modCluster_ctx (s : State) (k : Nat) (f : Cluster → Cluster) (j : Nat) : (s.modCluster k f).ctx j = s.ctx j := rfl
@[simp] theorem modCluster_ctxs (s : State) (k : Nat) (f : Cluster → Cluster) : (s.modCluster k f).ctxs = s.ctxs := rfl
@[simp] theorem modCluster_mu (s : State) (k : Nat) (f : Cluster → Cluster) (j : Nat) : (s.modCluster k f).mu j = s.mu j := rfl
@[simp] theorem modCluster_mus (s : State) (k : Nat) (f : Cluster → Cluster) : (s.modCluster k f).mus = s.mus := rfl

/-! What `modDie` leaves. -/

@[simp] theorem modDie_time (s : State) (k : Nat) (f : Die → Die) : (s.modDie k f).time = s.time := rfl
@[simp] theorem modDie_ftime (s : State) (k : Nat) (f : Die → Die) : (s.modDie k f).ftime = s.ftime := rfl
@[simp] theorem modDie_steps (s : State) (k : Nat) (f : Die → Die) : (s.modDie k f).steps = s.steps := rfl
@[simp] theorem modDie_free (s : State) (k : Nat) (f : Die → Die) : (s.modDie k f).free = s.free := rfl
@[simp] theorem modDie_epoch (s : State) (k : Nat) (f : Die → Die) : (s.modDie k f).epoch = s.epoch := rfl
@[simp] theorem modDie_agenda (s : State) (k : Nat) (f : Die → Die) : (s.modDie k f).agenda = s.agenda := rfl
@[simp] theorem modDie_sel (s : State) (k : Nat) (f : Die → Die) : (s.modDie k f).sel = s.sel := rfl
@[simp] theorem modDie_cur (s : State) (k : Nat) (f : Die → Die) : (s.modDie k f).cur = s.cur := rfl
@[simp] theorem modDie_issued (s : State) (k : Nat) (f : Die → Die) : (s.modDie k f).issued = s.issued := rfl
@[simp] theorem modDie_mem (s : State) (k : Nat) (f : Die → Die) : (s.modDie k f).mem = s.mem := rfl
@[simp] theorem modDie_away (s : State) (k : Nat) (f : Die → Die) : (s.modDie k f).away = s.away := rfl
@[simp] theorem modDie_pages (s : State) (k : Nat) (f : Die → Die) : (s.modDie k f).pages = s.pages := rfl
@[simp] theorem modDie_guests (s : State) (k : Nat) (f : Die → Die) : (s.modDie k f).guests = s.guests := rfl
@[simp] theorem modDie_watches (s : State) (k : Nat) (f : Die → Die) : (s.modDie k f).watches = s.watches := rfl
@[simp] theorem modDie_net (s : State) (k : Nat) (f : Die → Die) : (s.modDie k f).net = s.net := rfl
@[simp] theorem modDie_chkReports (s : State) (k : Nat) (f : Die → Die) : (s.modDie k f).chkReports = s.chkReports := rfl
@[simp] theorem modDie_chkFailed (s : State) (k : Nat) (f : Die → Die) : (s.modDie k f).chkFailed = s.chkFailed := rfl
@[simp] theorem modDie_tasks (s : State) (k : Nat) (f : Die → Die) : (s.modDie k f).tasks = s.tasks := rfl
@[simp] theorem modDie_taskSeq (s : State) (k : Nat) (f : Die → Die) : (s.modDie k f).taskSeq = s.taskSeq := rfl
@[simp] theorem modDie_fw (s : State) (k : Nat) (f : Die → Die) : (s.modDie k f).fw = s.fw := rfl
@[simp] theorem modDie_launches (s : State) (k : Nat) (f : Die → Die) : (s.modDie k f).launches = s.launches := rfl
@[simp] theorem modDie_launchSeq (s : State) (k : Nat) (f : Die → Die) : (s.modDie k f).launchSeq = s.launchSeq := rfl
@[simp] theorem modDie_adds (s : State) (k : Nat) (f : Die → Die) : (s.modDie k f).adds = s.adds := rfl
@[simp] theorem modDie_groups (s : State) (k : Nat) (f : Die → Die) : (s.modDie k f).groups = s.groups := rfl
@[simp] theorem modDie_gcolls (s : State) (k : Nat) (f : Die → Die) : (s.modDie k f).gcolls = s.gcolls := rfl
@[simp] theorem modDie_coordTime (s : State) (k : Nat) (f : Die → Die) : (s.modDie k f).coordTime = s.coordTime := rfl
@[simp] theorem modDie_groupStatus (s : State) (k : Nat) (f : Die → Die) : (s.modDie k f).groupStatus = s.groupStatus := rfl
@[simp] theorem modDie_quiesced (s : State) (k : Nat) (f : Die → Die) : (s.modDie k f).quiesced = s.quiesced := rfl
@[simp] theorem modDie_chkLimit (s : State) (k : Nat) (f : Die → Die) : (s.modDie k f).chkLimit = s.chkLimit := rfl
@[simp] theorem modDie_part (s : State) (k : Nat) (f : Die → Die) (j : Nat) : (s.modDie k f).part j = s.part j := rfl
@[simp] theorem modDie_parts (s : State) (k : Nat) (f : Die → Die) : (s.modDie k f).parts = s.parts := rfl
@[simp] theorem modDie_core (s : State) (k : Nat) (f : Die → Die) (j : Nat) : (s.modDie k f).core j = s.core j := rfl
@[simp] theorem modDie_cores (s : State) (k : Nat) (f : Die → Die) : (s.modDie k f).cores = s.cores := rfl
@[simp] theorem modDie_cluster (s : State) (k : Nat) (f : Die → Die) (j : Nat) : (s.modDie k f).cluster j = s.cluster j := rfl
@[simp] theorem modDie_clusters (s : State) (k : Nat) (f : Die → Die) : (s.modDie k f).clusters = s.clusters := rfl
@[simp] theorem modDie_dev (s : State) (k : Nat) (f : Die → Die) (j : Nat) : (s.modDie k f).dev j = s.dev j := rfl
@[simp] theorem modDie_devs (s : State) (k : Nat) (f : Die → Die) : (s.modDie k f).devs = s.devs := rfl
@[simp] theorem modDie_ctx (s : State) (k : Nat) (f : Die → Die) (j : Nat) : (s.modDie k f).ctx j = s.ctx j := rfl
@[simp] theorem modDie_ctxs (s : State) (k : Nat) (f : Die → Die) : (s.modDie k f).ctxs = s.ctxs := rfl
@[simp] theorem modDie_mu (s : State) (k : Nat) (f : Die → Die) (j : Nat) : (s.modDie k f).mu j = s.mu j := rfl
@[simp] theorem modDie_mus (s : State) (k : Nat) (f : Die → Die) : (s.modDie k f).mus = s.mus := rfl

/-! What `modDev` leaves. -/

@[simp] theorem modDev_time (s : State) (k : Nat) (f : Dev → Dev) : (s.modDev k f).time = s.time := rfl
@[simp] theorem modDev_ftime (s : State) (k : Nat) (f : Dev → Dev) : (s.modDev k f).ftime = s.ftime := rfl
@[simp] theorem modDev_steps (s : State) (k : Nat) (f : Dev → Dev) : (s.modDev k f).steps = s.steps := rfl
@[simp] theorem modDev_free (s : State) (k : Nat) (f : Dev → Dev) : (s.modDev k f).free = s.free := rfl
@[simp] theorem modDev_epoch (s : State) (k : Nat) (f : Dev → Dev) : (s.modDev k f).epoch = s.epoch := rfl
@[simp] theorem modDev_agenda (s : State) (k : Nat) (f : Dev → Dev) : (s.modDev k f).agenda = s.agenda := rfl
@[simp] theorem modDev_sel (s : State) (k : Nat) (f : Dev → Dev) : (s.modDev k f).sel = s.sel := rfl
@[simp] theorem modDev_cur (s : State) (k : Nat) (f : Dev → Dev) : (s.modDev k f).cur = s.cur := rfl
@[simp] theorem modDev_issued (s : State) (k : Nat) (f : Dev → Dev) : (s.modDev k f).issued = s.issued := rfl
@[simp] theorem modDev_mem (s : State) (k : Nat) (f : Dev → Dev) : (s.modDev k f).mem = s.mem := rfl
@[simp] theorem modDev_away (s : State) (k : Nat) (f : Dev → Dev) : (s.modDev k f).away = s.away := rfl
@[simp] theorem modDev_pages (s : State) (k : Nat) (f : Dev → Dev) : (s.modDev k f).pages = s.pages := rfl
@[simp] theorem modDev_guests (s : State) (k : Nat) (f : Dev → Dev) : (s.modDev k f).guests = s.guests := rfl
@[simp] theorem modDev_watches (s : State) (k : Nat) (f : Dev → Dev) : (s.modDev k f).watches = s.watches := rfl
@[simp] theorem modDev_net (s : State) (k : Nat) (f : Dev → Dev) : (s.modDev k f).net = s.net := rfl
@[simp] theorem modDev_chkReports (s : State) (k : Nat) (f : Dev → Dev) : (s.modDev k f).chkReports = s.chkReports := rfl
@[simp] theorem modDev_chkFailed (s : State) (k : Nat) (f : Dev → Dev) : (s.modDev k f).chkFailed = s.chkFailed := rfl
@[simp] theorem modDev_tasks (s : State) (k : Nat) (f : Dev → Dev) : (s.modDev k f).tasks = s.tasks := rfl
@[simp] theorem modDev_taskSeq (s : State) (k : Nat) (f : Dev → Dev) : (s.modDev k f).taskSeq = s.taskSeq := rfl
@[simp] theorem modDev_fw (s : State) (k : Nat) (f : Dev → Dev) : (s.modDev k f).fw = s.fw := rfl
@[simp] theorem modDev_launches (s : State) (k : Nat) (f : Dev → Dev) : (s.modDev k f).launches = s.launches := rfl
@[simp] theorem modDev_launchSeq (s : State) (k : Nat) (f : Dev → Dev) : (s.modDev k f).launchSeq = s.launchSeq := rfl
@[simp] theorem modDev_adds (s : State) (k : Nat) (f : Dev → Dev) : (s.modDev k f).adds = s.adds := rfl
@[simp] theorem modDev_groups (s : State) (k : Nat) (f : Dev → Dev) : (s.modDev k f).groups = s.groups := rfl
@[simp] theorem modDev_gcolls (s : State) (k : Nat) (f : Dev → Dev) : (s.modDev k f).gcolls = s.gcolls := rfl
@[simp] theorem modDev_coordTime (s : State) (k : Nat) (f : Dev → Dev) : (s.modDev k f).coordTime = s.coordTime := rfl
@[simp] theorem modDev_groupStatus (s : State) (k : Nat) (f : Dev → Dev) : (s.modDev k f).groupStatus = s.groupStatus := rfl
@[simp] theorem modDev_quiesced (s : State) (k : Nat) (f : Dev → Dev) : (s.modDev k f).quiesced = s.quiesced := rfl
@[simp] theorem modDev_chkLimit (s : State) (k : Nat) (f : Dev → Dev) : (s.modDev k f).chkLimit = s.chkLimit := rfl
@[simp] theorem modDev_part (s : State) (k : Nat) (f : Dev → Dev) (j : Nat) : (s.modDev k f).part j = s.part j := rfl
@[simp] theorem modDev_parts (s : State) (k : Nat) (f : Dev → Dev) : (s.modDev k f).parts = s.parts := rfl
@[simp] theorem modDev_core (s : State) (k : Nat) (f : Dev → Dev) (j : Nat) : (s.modDev k f).core j = s.core j := rfl
@[simp] theorem modDev_cores (s : State) (k : Nat) (f : Dev → Dev) : (s.modDev k f).cores = s.cores := rfl
@[simp] theorem modDev_cluster (s : State) (k : Nat) (f : Dev → Dev) (j : Nat) : (s.modDev k f).cluster j = s.cluster j := rfl
@[simp] theorem modDev_clusters (s : State) (k : Nat) (f : Dev → Dev) : (s.modDev k f).clusters = s.clusters := rfl
@[simp] theorem modDev_die (s : State) (k : Nat) (f : Dev → Dev) (j : Nat) : (s.modDev k f).die j = s.die j := rfl
@[simp] theorem modDev_dies (s : State) (k : Nat) (f : Dev → Dev) : (s.modDev k f).dies = s.dies := rfl
@[simp] theorem modDev_ctx (s : State) (k : Nat) (f : Dev → Dev) (j : Nat) : (s.modDev k f).ctx j = s.ctx j := rfl
@[simp] theorem modDev_ctxs (s : State) (k : Nat) (f : Dev → Dev) : (s.modDev k f).ctxs = s.ctxs := rfl
@[simp] theorem modDev_mu (s : State) (k : Nat) (f : Dev → Dev) (j : Nat) : (s.modDev k f).mu j = s.mu j := rfl
@[simp] theorem modDev_mus (s : State) (k : Nat) (f : Dev → Dev) : (s.modDev k f).mus = s.mus := rfl

/-! What `modCtx` leaves. -/

@[simp] theorem modCtx_time (s : State) (k : Nat) (f : Ctx → Ctx) : (s.modCtx k f).time = s.time := rfl
@[simp] theorem modCtx_ftime (s : State) (k : Nat) (f : Ctx → Ctx) : (s.modCtx k f).ftime = s.ftime := rfl
@[simp] theorem modCtx_steps (s : State) (k : Nat) (f : Ctx → Ctx) : (s.modCtx k f).steps = s.steps := rfl
@[simp] theorem modCtx_free (s : State) (k : Nat) (f : Ctx → Ctx) : (s.modCtx k f).free = s.free := rfl
@[simp] theorem modCtx_epoch (s : State) (k : Nat) (f : Ctx → Ctx) : (s.modCtx k f).epoch = s.epoch := rfl
@[simp] theorem modCtx_agenda (s : State) (k : Nat) (f : Ctx → Ctx) : (s.modCtx k f).agenda = s.agenda := rfl
@[simp] theorem modCtx_sel (s : State) (k : Nat) (f : Ctx → Ctx) : (s.modCtx k f).sel = s.sel := rfl
@[simp] theorem modCtx_cur (s : State) (k : Nat) (f : Ctx → Ctx) : (s.modCtx k f).cur = s.cur := rfl
@[simp] theorem modCtx_issued (s : State) (k : Nat) (f : Ctx → Ctx) : (s.modCtx k f).issued = s.issued := rfl
@[simp] theorem modCtx_mem (s : State) (k : Nat) (f : Ctx → Ctx) : (s.modCtx k f).mem = s.mem := rfl
@[simp] theorem modCtx_away (s : State) (k : Nat) (f : Ctx → Ctx) : (s.modCtx k f).away = s.away := rfl
@[simp] theorem modCtx_pages (s : State) (k : Nat) (f : Ctx → Ctx) : (s.modCtx k f).pages = s.pages := rfl
@[simp] theorem modCtx_guests (s : State) (k : Nat) (f : Ctx → Ctx) : (s.modCtx k f).guests = s.guests := rfl
@[simp] theorem modCtx_watches (s : State) (k : Nat) (f : Ctx → Ctx) : (s.modCtx k f).watches = s.watches := rfl
@[simp] theorem modCtx_net (s : State) (k : Nat) (f : Ctx → Ctx) : (s.modCtx k f).net = s.net := rfl
@[simp] theorem modCtx_chkReports (s : State) (k : Nat) (f : Ctx → Ctx) : (s.modCtx k f).chkReports = s.chkReports := rfl
@[simp] theorem modCtx_chkFailed (s : State) (k : Nat) (f : Ctx → Ctx) : (s.modCtx k f).chkFailed = s.chkFailed := rfl
@[simp] theorem modCtx_tasks (s : State) (k : Nat) (f : Ctx → Ctx) : (s.modCtx k f).tasks = s.tasks := rfl
@[simp] theorem modCtx_taskSeq (s : State) (k : Nat) (f : Ctx → Ctx) : (s.modCtx k f).taskSeq = s.taskSeq := rfl
@[simp] theorem modCtx_fw (s : State) (k : Nat) (f : Ctx → Ctx) : (s.modCtx k f).fw = s.fw := rfl
@[simp] theorem modCtx_launches (s : State) (k : Nat) (f : Ctx → Ctx) : (s.modCtx k f).launches = s.launches := rfl
@[simp] theorem modCtx_launchSeq (s : State) (k : Nat) (f : Ctx → Ctx) : (s.modCtx k f).launchSeq = s.launchSeq := rfl
@[simp] theorem modCtx_adds (s : State) (k : Nat) (f : Ctx → Ctx) : (s.modCtx k f).adds = s.adds := rfl
@[simp] theorem modCtx_groups (s : State) (k : Nat) (f : Ctx → Ctx) : (s.modCtx k f).groups = s.groups := rfl
@[simp] theorem modCtx_gcolls (s : State) (k : Nat) (f : Ctx → Ctx) : (s.modCtx k f).gcolls = s.gcolls := rfl
@[simp] theorem modCtx_coordTime (s : State) (k : Nat) (f : Ctx → Ctx) : (s.modCtx k f).coordTime = s.coordTime := rfl
@[simp] theorem modCtx_groupStatus (s : State) (k : Nat) (f : Ctx → Ctx) : (s.modCtx k f).groupStatus = s.groupStatus := rfl
@[simp] theorem modCtx_quiesced (s : State) (k : Nat) (f : Ctx → Ctx) : (s.modCtx k f).quiesced = s.quiesced := rfl
@[simp] theorem modCtx_chkLimit (s : State) (k : Nat) (f : Ctx → Ctx) : (s.modCtx k f).chkLimit = s.chkLimit := rfl
@[simp] theorem modCtx_part (s : State) (k : Nat) (f : Ctx → Ctx) (j : Nat) : (s.modCtx k f).part j = s.part j := rfl
@[simp] theorem modCtx_parts (s : State) (k : Nat) (f : Ctx → Ctx) : (s.modCtx k f).parts = s.parts := rfl
@[simp] theorem modCtx_core (s : State) (k : Nat) (f : Ctx → Ctx) (j : Nat) : (s.modCtx k f).core j = s.core j := rfl
@[simp] theorem modCtx_cores (s : State) (k : Nat) (f : Ctx → Ctx) : (s.modCtx k f).cores = s.cores := rfl
@[simp] theorem modCtx_cluster (s : State) (k : Nat) (f : Ctx → Ctx) (j : Nat) : (s.modCtx k f).cluster j = s.cluster j := rfl
@[simp] theorem modCtx_clusters (s : State) (k : Nat) (f : Ctx → Ctx) : (s.modCtx k f).clusters = s.clusters := rfl
@[simp] theorem modCtx_die (s : State) (k : Nat) (f : Ctx → Ctx) (j : Nat) : (s.modCtx k f).die j = s.die j := rfl
@[simp] theorem modCtx_dies (s : State) (k : Nat) (f : Ctx → Ctx) : (s.modCtx k f).dies = s.dies := rfl
@[simp] theorem modCtx_dev (s : State) (k : Nat) (f : Ctx → Ctx) (j : Nat) : (s.modCtx k f).dev j = s.dev j := rfl
@[simp] theorem modCtx_devs (s : State) (k : Nat) (f : Ctx → Ctx) : (s.modCtx k f).devs = s.devs := rfl
@[simp] theorem modCtx_mu (s : State) (k : Nat) (f : Ctx → Ctx) (j : Nat) : (s.modCtx k f).mu j = s.mu j := rfl
@[simp] theorem modCtx_mus (s : State) (k : Nat) (f : Ctx → Ctx) : (s.modCtx k f).mus = s.mus := rfl

/-! What `modMu` leaves. -/

@[simp] theorem modMu_time (s : State) (k : Nat) (f : MUnit → MUnit) : (s.modMu k f).time = s.time := rfl
@[simp] theorem modMu_ftime (s : State) (k : Nat) (f : MUnit → MUnit) : (s.modMu k f).ftime = s.ftime := rfl
@[simp] theorem modMu_steps (s : State) (k : Nat) (f : MUnit → MUnit) : (s.modMu k f).steps = s.steps := rfl
@[simp] theorem modMu_free (s : State) (k : Nat) (f : MUnit → MUnit) : (s.modMu k f).free = s.free := rfl
@[simp] theorem modMu_epoch (s : State) (k : Nat) (f : MUnit → MUnit) : (s.modMu k f).epoch = s.epoch := rfl
@[simp] theorem modMu_agenda (s : State) (k : Nat) (f : MUnit → MUnit) : (s.modMu k f).agenda = s.agenda := rfl
@[simp] theorem modMu_sel (s : State) (k : Nat) (f : MUnit → MUnit) : (s.modMu k f).sel = s.sel := rfl
@[simp] theorem modMu_cur (s : State) (k : Nat) (f : MUnit → MUnit) : (s.modMu k f).cur = s.cur := rfl
@[simp] theorem modMu_issued (s : State) (k : Nat) (f : MUnit → MUnit) : (s.modMu k f).issued = s.issued := rfl
@[simp] theorem modMu_mem (s : State) (k : Nat) (f : MUnit → MUnit) : (s.modMu k f).mem = s.mem := rfl
@[simp] theorem modMu_away (s : State) (k : Nat) (f : MUnit → MUnit) : (s.modMu k f).away = s.away := rfl
@[simp] theorem modMu_pages (s : State) (k : Nat) (f : MUnit → MUnit) : (s.modMu k f).pages = s.pages := rfl
@[simp] theorem modMu_guests (s : State) (k : Nat) (f : MUnit → MUnit) : (s.modMu k f).guests = s.guests := rfl
@[simp] theorem modMu_watches (s : State) (k : Nat) (f : MUnit → MUnit) : (s.modMu k f).watches = s.watches := rfl
@[simp] theorem modMu_net (s : State) (k : Nat) (f : MUnit → MUnit) : (s.modMu k f).net = s.net := rfl
@[simp] theorem modMu_chkReports (s : State) (k : Nat) (f : MUnit → MUnit) : (s.modMu k f).chkReports = s.chkReports := rfl
@[simp] theorem modMu_chkFailed (s : State) (k : Nat) (f : MUnit → MUnit) : (s.modMu k f).chkFailed = s.chkFailed := rfl
@[simp] theorem modMu_tasks (s : State) (k : Nat) (f : MUnit → MUnit) : (s.modMu k f).tasks = s.tasks := rfl
@[simp] theorem modMu_taskSeq (s : State) (k : Nat) (f : MUnit → MUnit) : (s.modMu k f).taskSeq = s.taskSeq := rfl
@[simp] theorem modMu_fw (s : State) (k : Nat) (f : MUnit → MUnit) : (s.modMu k f).fw = s.fw := rfl
@[simp] theorem modMu_launches (s : State) (k : Nat) (f : MUnit → MUnit) : (s.modMu k f).launches = s.launches := rfl
@[simp] theorem modMu_launchSeq (s : State) (k : Nat) (f : MUnit → MUnit) : (s.modMu k f).launchSeq = s.launchSeq := rfl
@[simp] theorem modMu_adds (s : State) (k : Nat) (f : MUnit → MUnit) : (s.modMu k f).adds = s.adds := rfl
@[simp] theorem modMu_groups (s : State) (k : Nat) (f : MUnit → MUnit) : (s.modMu k f).groups = s.groups := rfl
@[simp] theorem modMu_gcolls (s : State) (k : Nat) (f : MUnit → MUnit) : (s.modMu k f).gcolls = s.gcolls := rfl
@[simp] theorem modMu_coordTime (s : State) (k : Nat) (f : MUnit → MUnit) : (s.modMu k f).coordTime = s.coordTime := rfl
@[simp] theorem modMu_groupStatus (s : State) (k : Nat) (f : MUnit → MUnit) : (s.modMu k f).groupStatus = s.groupStatus := rfl
@[simp] theorem modMu_quiesced (s : State) (k : Nat) (f : MUnit → MUnit) : (s.modMu k f).quiesced = s.quiesced := rfl
@[simp] theorem modMu_chkLimit (s : State) (k : Nat) (f : MUnit → MUnit) : (s.modMu k f).chkLimit = s.chkLimit := rfl
@[simp] theorem modMu_part (s : State) (k : Nat) (f : MUnit → MUnit) (j : Nat) : (s.modMu k f).part j = s.part j := rfl
@[simp] theorem modMu_parts (s : State) (k : Nat) (f : MUnit → MUnit) : (s.modMu k f).parts = s.parts := rfl
@[simp] theorem modMu_core (s : State) (k : Nat) (f : MUnit → MUnit) (j : Nat) : (s.modMu k f).core j = s.core j := rfl
@[simp] theorem modMu_cores (s : State) (k : Nat) (f : MUnit → MUnit) : (s.modMu k f).cores = s.cores := rfl
@[simp] theorem modMu_cluster (s : State) (k : Nat) (f : MUnit → MUnit) (j : Nat) : (s.modMu k f).cluster j = s.cluster j := rfl
@[simp] theorem modMu_clusters (s : State) (k : Nat) (f : MUnit → MUnit) : (s.modMu k f).clusters = s.clusters := rfl
@[simp] theorem modMu_die (s : State) (k : Nat) (f : MUnit → MUnit) (j : Nat) : (s.modMu k f).die j = s.die j := rfl
@[simp] theorem modMu_dies (s : State) (k : Nat) (f : MUnit → MUnit) : (s.modMu k f).dies = s.dies := rfl
@[simp] theorem modMu_dev (s : State) (k : Nat) (f : MUnit → MUnit) (j : Nat) : (s.modMu k f).dev j = s.dev j := rfl
@[simp] theorem modMu_devs (s : State) (k : Nat) (f : MUnit → MUnit) : (s.modMu k f).devs = s.devs := rfl
@[simp] theorem modMu_ctx (s : State) (k : Nat) (f : MUnit → MUnit) (j : Nat) : (s.modMu k f).ctx j = s.ctx j := rfl
@[simp] theorem modMu_ctxs (s : State) (k : Nat) (f : MUnit → MUnit) : (s.modMu k f).ctxs = s.ctxs := rfl

end State

end Sys2Proof.Machine
end

