-- ==== Sys2Proof/Laws/Issue.lean ====
section
/-! SUPPORT. What an instruction that issues does, once and for all: the outcome of `issue` by how the body ends. -/

namespace Sys2Proof.Machine

/-- The state after an instruction's body. -/
def bodyEnd (i : Iss) (s : State) : Except Stop (Flow × State) → State
  | .error t => stopped s s.cur t
  | .ok (.wait, _) => waitingStore i s s.cur
  | .ok (.waitKeep, t) => waitingKept (s.part s.cur) t s.cur
  | .ok (.trapped e, t) => takeTrap t s.cur e
  | .ok (.placed, t) => retire i (s.part s.cur) t s.cur none
  | .ok (.done, t) => retire i (s.part s.cur) t s.cur (some (s.part s.cur).npc)
  | .ok (.jump a, t) => retire i (s.part s.cur) t s.cur (some a)

/-- Reads of which none is early find none (R82). -/
theorem early_none {p : Part} {rs : List Reg} (h : (!p.stallchk || rs.all fun r => !(tracked p r && sbEarly p.sb r)) = true) :
    (if p.stallchk then rs.find? fun r => tracked p r && sbEarly p.sb r else none) = none := by
  split
  · rename_i e
    rw [List.find?_eq_none]
    intro r hr
    simp only [e, Bool.not_true, Bool.false_or] at h
    simpa [← Bool.not_and] using List.all_eq_true.mp h r hr
  · rfl

/-- An instruction that issues runs its body in the state as it stands. -/
theorem issue_of_issues {s : State} {i : Iss} (body : W64 → M Flow) (h : issues s i = true) :
    issue i body s = .next (bodyEnd i s (body (lanesFor s i) s)) := by
  simp only [issues, Bool.and_eq_true, List.isEmpty_iff, Iss.allReads, List.all_append] at h
  obtain ⟨⟨⟨⟨⟨h1, h2⟩, h3⟩, hb⟩, h4⟩, h5⟩ := h
  have hp := early_none (p := s.part s.cur) (rs := i.predReads) (by
    simp only [Bool.or_eq_true, Bool.and_eq_true] at h2 ⊢
    exact h2.imp_right And.left)
  have hr := early_none (p := s.part s.cur) (rs := i.reads) (by
    simp only [Bool.or_eq_true, Bool.and_eq_true] at h2 ⊢
    exact h2.imp_right And.right)
  have hb' : i.bad = false := by simpa using hb
  have hpops : i.pops (s.part s.cur) = [] := by
    unfold Iss.pops
    split
    · exact h4
    · rfl
  simp only [issue, hp, hr, h3, hb', runBody, hpops, h5, popAll, popFrom]
  have hid : (s.modPart s.cur fun p => p) = s := State.modPart_id s s.cur _ h1 rfl
  simp only [Bool.not_true, Bool.false_eq_true, if_false, List.findSome?_nil, List.foldl_nil, ne_eq, not_true_eq_false, decide_false, Bool.false_and, hid]
  unfold lanesFor bodyEnd
  generalize body (predVal (s.part s.cur) i.pred) s = r
  rcases r with e | ⟨f, t⟩
  · rfl
  · cases f <;> simp [retire]

/-- An instruction whose body completes. -/
theorem issue_done {s t : State} {i : Iss} {body : W64 → M Flow} (h : issues s i = true) (hb : body (lanesFor s i) s = .ok (.done, t)) :
    issue i body s = done i s t := by
  rw [issue_of_issues body h, hb]
  rfl

theorem issue_stops {s : State} {i : Iss} {body : W64 → M Flow} {e : Stop} (h : issues s i = true) (hb : body (lanesFor s i) s = .error e) :
    issue i body s = .next (stopped s s.cur e) := by
  rw [issue_of_issues body h, hb]
  rfl

end Sys2Proof.Machine
end

