-- ==== Sys2Proof/Laws/Memory.lean ====
section
/-! SUPPORT. The laws of memory cells: every operation on them keeps the canonical form. -/

namespace Sys2Proof.Machine

/-- Every key of a list lies above a bound. -/
def Above (lo : Option Nat) (m : List Host.Cell) : Prop := ∀ l, lo = some l → ∀ c ∈ m, l < c.1

theorem memWfFrom_iff (lo : Option Nat) (m : List Host.Cell) :
    memWfFrom lo m = true ↔ Above lo m ∧ m.Pairwise (fun a b => a.1 < b.1) ∧ ∀ c ∈ m, c.2 ≠ memDefault := by
  induction m generalizing lo with
  | nil => simp [memWfFrom, Above]
  | cons c m ih =>
    obtain ⟨a, b⟩ := c
    simp only [memWfFrom, Bool.and_eq_true, ih, List.pairwise_cons, List.mem_cons, forall_eq_or_imp, Above]
    constructor
    · rintro ⟨⟨h1, h2⟩, h3, h4, h5⟩
      refine ⟨?_, ⟨fun c hc => h3 a rfl c hc, h4⟩, by simpa using h2, h5⟩
      intro l hl
      subst hl
      have hla : l < a := by simpa using h1
      exact ⟨hla, fun c hc => lt_trans hla (h3 a rfl c hc)⟩
    · rintro ⟨h1, ⟨h2, h3⟩, h4, h5⟩
      refine ⟨⟨?_, by simpa using h4⟩, ?_, h3, h5⟩
      · cases lo with
        | none => rfl
        | some l => simpa using (h1 l rfl).1
      · intro l hl c hc
        cases hl
        exact h2 c hc

theorem memory_wf_iff (m : List Host.Cell) :
    Memory.wf m = true ↔ m.Pairwise (fun a b => a.1 < b.1) ∧ ∀ c ∈ m, c.2 ≠ memDefault := by
  simp [Memory.wf, memWfFrom_iff, Above]

/-- What a list of cells holds at a key. -/
theorem mem_memWrite {m : List Host.Cell} {k : Nat} {v : Byte} {c : Host.Cell} (h : c ∈ memWrite m k v) : c ∈ m ∨ c = (k, v) := by
  induction m with
  | nil =>
    unfold memWrite at h
    split at h
    · cases h
    · simpa using h
  | cons x m ih =>
    obtain ⟨a, b⟩ := x
    unfold memWrite at h
    split at h
    · split at h
      · exact .inl (List.mem_cons_of_mem _ h)
      · rcases List.mem_cons.mp h with h | h
        · exact .inr h
        · exact .inl (List.mem_cons_of_mem _ h)
    · split at h
      · split at h
        · exact .inl h
        · rcases List.mem_cons.mp h with h | h
          · exact .inr h
          · exact .inl h
      · rcases List.mem_cons.mp h with h | h
        · exact .inl (by simp [h])
        · rcases ih h with h | h
          · exact .inl (List.mem_cons_of_mem _ h)
          · exact .inr h

theorem memWfFrom_memWrite (m : List Host.Cell) (k : Nat) (v : Byte) (lo : Option Nat) (h : memWfFrom lo m = true) (hk : ∀ l, lo = some l → l < k) :
    memWfFrom lo (memWrite m k v) = true := by
  induction m generalizing lo with
  | nil =>
    unfold memWrite
    split
    · simp [memWfFrom]
    · rename_i hv
      rw [memWfFrom_iff]
      refine ⟨?_, by simp, by simpa using hv⟩
      intro l hl c hc
      simp only [List.mem_singleton] at hc
      subst hc
      exact hk l hl
  | cons x m ih =>
    obtain ⟨a, b⟩ := x
    have h' := h
    simp only [memWfFrom, Bool.and_eq_true] at h
    obtain ⟨⟨h1, h2⟩, h3⟩ := h
    unfold memWrite
    split
    · rename_i e
      subst e
      split
      · rw [memWfFrom_iff] at h3 ⊢
        refine ⟨?_, h3.2⟩
        intro l hl c hc
        exact lt_trans (hk l hl) (h3.1 a rfl c hc)
      · rename_i hv
        simp only [memWfFrom, Bool.and_eq_true]
        exact ⟨⟨h1, by simpa using hv⟩, h3⟩
    · rename_i e
      split
      · rename_i g
        split
        · exact h'
        · rename_i hv
          have hlo : memWfFrom (some k) ((a, b) :: m) = true := by
            simp only [memWfFrom, Bool.and_eq_true]
            exact ⟨⟨by simpa using g, h2⟩, h3⟩
          show memWfFrom lo ((k, v) :: (a, b) :: m) = true
          simp only [memWfFrom, Bool.and_eq_true]
          simp only [memWfFrom, Bool.and_eq_true] at hlo
          refine ⟨⟨?_, by simpa using hv⟩, hlo⟩
          cases lo with
          | none => rfl
          | some l => simpa using hk l rfl
      · rename_i g
        show memWfFrom lo ((a, b) :: memWrite m k v) = true
        simp only [memWfFrom, Bool.and_eq_true]
        refine ⟨⟨h1, h2⟩, ih (some a) h3 ?_⟩
        intro l hl
        cases hl
        omega

/-- A write keeps the canonical form. -/
theorem memory_wf_memWrite {m : List Host.Cell} (k : Nat) (v : Byte) (h : Memory.wf m = true) : Memory.wf (memWrite m k v) = true :=
  memWfFrom_memWrite m k v none h (by simp)

theorem memory_wf_memWriteBytes {m : List Host.Cell} (k : Nat) (bs : List Byte) (h : Memory.wf m = true) : Memory.wf (memWriteBytes m k bs) = true := by
  induction bs generalizing m k with
  | nil => exact h
  | cons b bs ih => exact ih (k + 1) (memory_wf_memWrite k b h)

/-- Dropping cells keeps the canonical form. -/
theorem memory_wf_filter {m : List Host.Cell} (p : Host.Cell → Bool) (h : Memory.wf m = true) : Memory.wf (m.filter p) = true := by
  rw [memory_wf_iff] at h ⊢
  exact ⟨h.1.filter p, fun c hc => h.2 c (List.mem_filter.mp hc).1⟩

theorem memory_wf_foldl {α : Type} {f : List Host.Cell → α → List Host.Cell} (hf : ∀ m a, Memory.wf m = true → Memory.wf (f m a) = true) (l : List α)
    {m : List Host.Cell} (h : Memory.wf m = true) : Memory.wf (l.foldl f m) = true := by
  induction l generalizing m with
  | nil => exact h
  | cons a l ih => exact ih (hf m a h)

theorem memRead_of_above {m : List Host.Cell} {lo k : Nat} (h : memWfFrom (some lo) m = true) (hk : k ≤ lo) : memRead m k = memDefault := by
  cases m with
  | nil => rfl
  | cons x m =>
    obtain ⟨a, b⟩ := x
    have ha : lo < a := by
      rw [memWfFrom_iff] at h
      exact h.1 lo rfl (a, b) (by simp)
    unfold memRead
    rw [if_neg (by omega), if_pos (by omega)]

/-- A read after a write to the same cell gives the value written. -/
theorem memRead_memWrite_self {m : List Host.Cell} (k : Nat) (v : Byte) (h : Memory.wf m = true) : memRead (memWrite m k v) k = v := by
  suffices ∀ lo, memWfFrom lo m = true → memRead (memWrite m k v) k = v from this none h
  clear h
  intro lo h
  induction m generalizing lo with
  | nil =>
    unfold memWrite
    split
    · rename_i e
      simp [memRead, e]
    · simp [memRead]
  | cons x m ih =>
    obtain ⟨a, b⟩ := x
    have h3 : memWfFrom (some a) m = true := by
      simp only [memWfFrom, Bool.and_eq_true] at h
      exact h.2
    unfold memWrite
    split
    · rename_i e
      subst e
      split
      · rename_i hv
        rw [memRead_of_above h3 le_rfl, hv]
      · simp [memRead]
    · rename_i e
      split
      · rename_i g
        split
        · rename_i hv
          simp [memRead, e, g, hv]
        · simp [memRead]
      · rename_i g
        simp only [memRead, if_neg e, if_neg g]
        exact ih (some a) h3

/-- A write leaves every other cell alone. -/
theorem memRead_memWrite_ne {m : List Host.Cell} {k j : Nat} (v : Byte) (h : Memory.wf m = true) (hj : j ≠ k) :
    memRead (memWrite m k v) j = memRead m j := by
  suffices ∀ lo, memWfFrom lo m = true → memRead (memWrite m k v) j = memRead m j from this none h
  clear h
  intro lo h
  induction m generalizing lo with
  | nil =>
    unfold memWrite
    split
    · rfl
    · simp [memRead, Ne.symm hj]
  | cons x m ih =>
    obtain ⟨a, b⟩ := x
    have h3 : memWfFrom (some a) m = true := by
      simp only [memWfFrom, Bool.and_eq_true] at h
      exact h.2
    unfold memWrite
    split
    · rename_i e
      subst e
      split
      · simp only [memRead, if_neg (Ne.symm hj)]
        split
        · rename_i g
          exact memRead_of_above h3 (by omega)
        · rfl
      · simp only [memRead, if_neg (Ne.symm hj)]
    · rename_i e
      split
      · rename_i g
        split
        · rfl
        · simp only [memRead, if_neg (Ne.symm hj)]
          split
          · rename_i i
            rw [if_neg (by omega), if_pos (by omega)]
          · rfl
      · rename_i g
        simp only [memRead, ih (some a) h3]

end Sys2Proof.Machine
end

