-- ==== Sys2Proof/Tests/Slice0.lean ====
section
/-! SUPPORT. Tests: the decoder on words written out from the encodings, ill-formed instructions refused, and for every statement a witness of what it assumes. The
expected values are the spec's own examples, or worked by hand from its rules. -/

namespace Sys2Proof.Tests

set_option Elab.async false

open Sys2Proof.Machine

/-- A head without predicate, stall or hint. -/
def d0 : Hd := ⟨0, false, none⟩

/-! ## Words written out from the encodings of R69 to R75 decode to what they stand for -/

/-- A head and its tail halfwords decode to an instruction. -/
def decs (head : Half) (tail : List Half) (i : Instr) : Bool :=
  match decodeInsn head true tail with
  | .ok j => decide (j = i)
  | .error _ => false

/-- A head and its tail halfwords are refused for a reason. -/
def bad (head : Half) (tail : List Half) (r : Nat) : Bool :=
  match decodeInsn head true tail with
  | .ok _ => false
  | .error e => decide (e = r)

/-- Lines and control. -/
theorem test_decode_lines_and_control :
    (decs 0x0200 [] (.nop d0) &&
     decs 0x0680 [0x0028, 0x0001] (.call d0 ⟨0, 5, 1⟩) &&
     decs 0x0840 [0x4249] (.jmpi d0 ⟨.s 2, .s 9⟩) &&
     decs 0x0840 [0xC041] (.ret d0) &&
     decs 0x0A80 [0x4704, 0x0000] (.loop d0 ⟨7, 0, 0x40000⟩) &&
     decs 0x0C00 [] (.exit d0) &&
     decs 0x1080 [0xC041, 0x4200] (.align d0 ⟨.none, .s 1, .s 2⟩) &&
     decs 0x1280 [0xC041, 0x4200] (.follow d0 ⟨.none, .s 1, .s 2⟩) &&
     decs 0x1400 [] (.unfollow d0) &&
     decs 0x5080 [0x4344, 0x0003] (.chkpt d0 ⟨.s 3, .s 4, .v 0⟩)) = true := by decide +kernel

/-- Scalars. -/
theorem test_decode_scalars :
    (decs 0x2080 [0x4341, 0x420E] (.maxN d0 ⟨.s 3, .s 1, .s 2⟩) &&
     decs 0x2280 [0x4341, 0xFF06] (.sar d0 ⟨.s 3, .s 1, .lit 0x3F⟩) &&
     decs 0x2480 [0x43BF, 0x0001] (.popc d0 ⟨.s 3, .c 63, .v 0⟩) &&
     decs 0x26C0 [0x4341, 0x4244, 0x0100] (.bfi d0 ⟨.s 3, .s 1, .s 2, .s 4, 0⟩) &&
     decs 0x2900 [0x43E0, 0x0100, 0xCDEF, 0x89AB] (.lih d0 ⟨.s 3, .slot, 0x89ABCDEF⟩) &&
     decs 0x2A80 [0x8741, 0x4209] (.cmp d0 .gtn ⟨.p 7, .s 1, .s 2⟩) &&
     decs 0x2C80 [0x8182, 0x8302] (.pxor d0 ⟨.p 1, .c 2, .c 3⟩) &&
     decs 0x2F00 [0xC049, 0x0100, 0x0023, 0x0000] (.mts d0 ⟨.none, .s 9, 0x023⟩) &&
     decs 0x40C0 [0x4142, 0x4344, 0x0300] (.fma d0 ⟨.s 1, .s 2, .s 3, .s 4, 0⟩) &&
     decs 0x42C0 [0x8142, 0x4300, 0x0700] (.fcmp d0 .ord ⟨.p 1, .s 2, .s 3, .v 0, 0⟩)) = true := by decide +kernel

/-- Vectors. -/
theorem test_decode_vectors :
    (decs 0x60C0 [0x0102, 0x0304, 0x0300] (.vmad d0 ⟨.v 1, .v 2, .v 3, .v 4, 0⟩) &&
     decs 0x62C0 [0x0102, 0xC300, 0x0500] (.vsar d0 ⟨.v 1, .v 2, .lit 3, .v 0, 0⟩) &&
     decs 0x64C0 [0x8102, 0x0300, 0x0200] (.vcmp d0 .lt ⟨.p 1, .v 2, .v 3, .v 0, 0⟩) &&
     decs 0x66C0 [0x0102, 0x4300, 0x0100] (.vbcast d0 ⟨.v 1, .v 2, .s 3, .v 0, 0⟩) &&
     decs 0x68C0 [0x0102, 0x0000, 0x0500] (.vcomp d0 ⟨.v 1, .v 2, .v 0, .v 0, 0⟩) &&
     decs 0x80C0 [0x0102, 0x0300, 0x0500] (.vfmax d0 ⟨.v 1, .v 2, .v 3, .v 0, 0⟩) &&
     decs 0x82C0 [0x8102, 0x0300, 0x0600] (.vfcmp d0 .un ⟨.p 1, .v 2, .v 3, .v 0, 0⟩) &&
     decs 0x84C0 [0x0102, 0x0000, 0x0300] (.vlog2 d0 ⟨.v 1, .v 2, .v 0, .v 0, 0⟩)) = true := by decide +kernel

/-- Memory. -/
theorem test_decode_memory :
    (decs 0x92C0 [0x4546, 0x0096, 0x7FFF] (.st d0 ⟨.none, .s 5, .s 6, 0x7FFF, 0x96⟩) &&
     decs 0x94C0 [0x0546, 0x0100, 0x8000] (.vst d0 ⟨.none, .v 5, .s 6, 0x8000, 0⟩) &&
     decs 0x96C0 [0x0142, 0x0300, 0x0000] (.vgath d0 ⟨.v 1, .s 2, .v 3, .v 0, 0⟩) &&
     decs 0x98C0 [0xC041, 0xC000, 0x0101] (.pref d0 ⟨.none, .s 1, .lit 0, .v 0, 1⟩) &&
     decs 0x9B00 [0x4142, 0x4300, 0x084F, 0x8500] (.amoSwap d0 ⟨.s 1, .s 2, .s 3, .v 0, .c 5, .v 0, 0x4F, none⟩) &&
     decs 0x9B80 [0x4142, 0xE043, 0x1002, 0x0000, 0x0001, 0xFFFF] (.cas d0 ⟨.s 1, .s 2, .slot, .s 3, .v 0, .v 0, 2, some 0xFFFF0001⟩) &&
     decs 0xA900 [0x4138, 0x0000, 0x0400, 0x0000] (.sstat d0 ⟨.s 1, .v 56, .v 0, .v 0, .v 0, .v 0, 0, none⟩) &&
     decs 0xAAC0 [0xC041, 0x4200, 0x0200] (.flush d0 ⟨.none, .s 1, .s 2, .v 0, 0⟩)) = true := by decide +kernel

/-- Matrix units and codecs. -/
theorem test_decode_matrix_units_and_codecs :
    (decs 0xB100 [0xC000, 0x0000, 0x0100, 0x0000] (.mswap d0 ⟨.none, .v 0, .v 0, .v 0, .v 0, .v 0, 0, none⟩) &&
     decs 0xB300 [0xC041, 0x4243, 0x0600, 0x4400] (.mmul d0 .i8 ⟨.none, .s 1, .s 2, .s 3, .s 4, .v 0, 0, none⟩) &&
     decs 0xB300 [0xC041, 0x4243, 0x8000, 0x4405] (.mmuls d0 .f4 ⟨.none, .s 1, .s 2, .s 3, .s 4, .v 5, 0, none⟩) &&
     decs 0xB4C0 [0xC041, 0xCF00, 0x0000] (.mpri d0 ⟨.none, .s 1, .lit 15, .v 0, 0⟩) &&
     decs 0xB8C0 [0x8102, 0x0000, 0x0500] (.spchk d0 ⟨.p 1, .v 2, .v 0, .v 0, 0⟩)) = true := by decide +kernel

/-- Events, launches and queues. -/
theorem test_decode_events_launches_and_queues :
    (decs 0xC0C0 [0xC041, 0x0000, 0x0200] (.evclr d0 ⟨.none, .s 1, .v 0, .v 0, 0⟩) &&
     decs 0xC2C0 [0xC041, 0x4200, 0x0100] (.barwait d0 ⟨.none, .s 1, .s 2, .v 0, 0⟩) &&
     decs 0xC4C0 [0xC041, 0x0000, 0x0200] (.sev d0 ⟨.none, .s 1, .v 0, .v 0, 0⟩) &&
     decs 0xC700 [0xC041, 0x4200, 0x0000, 0x0000] (.xbsetCtr d0 ⟨.none, .s 1, .s 2, .v 0, .v 0, .v 0, 0, none⟩) &&
     decs 0xC900 [0x4142, 0x0000, 0x0200, 0x0000] (.cancel d0 ⟨.s 1, .s 2, .v 0, .v 0, .v 0, .v 0, 0, none⟩) &&
     decs 0xCCC0 [0x4341, 0x4200, 0x0100] (.pushw d0 ⟨.s 3, .s 1, .s 2, .v 0, 0⟩)) = true := by decide +kernel

/-- Messages, copies, transfers, trees, tasks, collectives, debug. -/
theorem test_decode_engines :
    (decs 0xD100 [0xC041, 0x0000, 0x0100, 0x0000] (.amret d0 ⟨.none, .s 1, .v 0, .v 0, .v 0, .v 0, 0, none⟩) &&
     decs 0xD500 [0x4241, 0x0000, 0x0200, 0x0000] (.cpywait d0 ⟨.s 2, .s 1, .v 0, .v 0, .v 0, .v 0, 0, none⟩) &&
     decs 0xD700 [0x4541, 0x4243, 0x0000, 0x4400] (.mcfill d0 ⟨.s 5, .s 1, .s 2, .s 3, .s 4, .v 0, 0, none⟩) &&
     decs 0xD900 [0x4241, 0x0000, 0x0100, 0x0000] (.grantp d0 ⟨.s 2, .s 1, .v 0, .v 0, .v 0, .v 0, 0, none⟩) &&
     decs 0xDD00 [0x4341, 0x4200, 0x0400, 0x0000] (.eget d0 ⟨.s 3, .s 1, .s 2, .v 0, .v 0, .v 0, 0, none⟩) &&
     decs 0xE100 [0x4300, 0x0000, 0x0402, 0x0000] (.tkey d0 ⟨.s 3, .v 0, .v 0, .v 0, .v 0, .v 0, 2, none⟩) &&
     decs 0xE500 [0x4341, 0x0000, 0x0300, 0x0000] (.gcancel d0 ⟨.s 3, .s 1, .v 0, .v 0, .v 0, .v 0, 0, none⟩) &&
     decs 0xE8C0 [0xC041, 0x0000, 0x0300] (.rmark d0 ⟨.none, .s 1, .v 0, .v 0, 0⟩)) = true := by decide +kernel

/-- The first failing check of R77 gives the reason. MAJOR0, MAJOR, TLEN; PRED: a reserved bit of the predicate halfword; SUB: 0x10 has no SUB 8; MOD: BFI has none;
KIND: D of ADD a vector; LITSLOT: in format B; UNUSED: S2 of CLZ. -/
theorem test_decode_reasons :
    (bad 0x0001 [] 1 && bad 0x1600 [] 2 && bad 0x0E40 [0] 3 && bad 0x0241 [0x0801] 5 && bad 0x2080 [0x4341, 0x4208] 6 && bad 0x26C0 [0x4341, 0x4244, 0x0101] 7 &&
     bad 0x2080 [0x0341, 0x4200] 8 && bad 0x2080 [0x4341, 0xE000] 9 && bad 0x2480 [0x4341, 0x4200] 0x0A && bad 0x0001 [] 1) = true := by decide +kernel

/-- OVERLAP; END, GAP after it, TARGET, and the second head of a line. -/
theorem test_decode_line :
    (decide (decodeInsn 0x2080 false [0, 0] = .error 4) && decide (decodeAt 0 0 = .lineEnd) && decide (decodeAt (2 ^ 32) 0 = .bad 0x0B) &&
     decide (decodeAt (0x2080 * 2 ^ 496) 31 = .bad 0x0C) && decide (decodeAt 0x02000200 1 = .ins (.nop d0) false)) = true := by decide +kernel

/-- An ill-formed term for each check is refused: KIND (D, a source), LITSLOT, MOD, UNUSED (a source, a destination, LIT of LI without the slot, DATA of a load's
source, COND of BRA), and the literal code that is the slot's. -/
theorem test_wf :
    ((Instr.add d0 ⟨.s 5, .s 5, .lit 0x1F⟩).wf && !(Instr.add d0 ⟨.v 5, .s 1, .s 2⟩).wf && !(Instr.add d0 ⟨.s 5, .v 1, .s 2⟩).wf && !(Instr.add d0 ⟨.s 5, .s 1, .slot⟩).wf &&
     !(Instr.add d0 ⟨.s 5, .s 1, .lit 0x20⟩).wf && !(Instr.bfi d0 ⟨.s 5, .s 1, .s 2, .s 3, 1⟩).wf && !(Instr.clz d0 ⟨.s 5, .s 1, .s 2⟩).wf &&
     !(Instr.align d0 ⟨.s 5, .s 1, .s 2⟩).wf && !(Instr.li d0 ⟨.s 5, .lit 3, 7⟩).wf && !(Instr.ld d0 ⟨.s 5, .s 1, .s 2, 0, 6⟩).wf && !(Instr.bra d0 ⟨1, 0, 0⟩).wf) = true := by decide +kernel

/-- The words of the table as `decodeTableWord` numbers them: NOP, its predicated form, END, RET. -/
theorem test_table_words :
    (decide (decodeTableWord 16 0x0200 = some (.nop d0)) && decide (decodeTableWord 32 0x02550700 = some (.nopPred ⟨5, false, none⟩ ⟨false, 7⟩)) && decide (decodeTableWord 16 0 = some .lineEnd) &&
     decide (decodeTableWord 32 0x0840C041 = some (.ret d0))) = true := by decide +kernel

/-! ## States and helpers -/

/-- A state with a RESIDENT part of context 0 in partition A of core 0, which maps the first GiB, owns its slice and stands at 0x10000. -/
def base : State :=
  let s : State := State.reset.setPart 0 { Part.reset with st := .resident, pc := 0x10000, npc := 0x10002 }
  let s := s.modCore 0 fun c => { c with plb := [⟨0, 0, 30, true, true, true, true, true, false⟩] }
  let s := s.modCtx 0 fun c => { c with live := true, spr := [(0, 0, 0x80000)] }
  let s := s.modDev 0 fun d => { d with boot := 2, leader := some 0, domRoot := 0x2000, lease := leaseWord State.reset 1 0 }
  { s with mem := [(0, 1), (1, 0x10), (0x1000, 2), (0x2000, 1), (0x2001, 0x30), (0x3000, 0x7E), (0x3001, 0x2B), (0x20000, 0x88), (spadKey 0 0, 0x88)] }

/-- `base` with its part changed. -/
def at_ (f : Part → Part) : State := base.modPart 0 f

/-- `base` with s1 to s4 set. -/
def regs (a b c d : W64) : State := at_ fun p => (((p.setS 1 a).setS 2 b).setS 3 c).setS 4 d

/-- The address of an offset of the core's own slice. -/
def own (n : Nat) : W64 := 0xFFFFFFFFE0000000 + BitVec.ofNat 64 n

/-- `s` with the page at 0x20000 homed on a module that is lost: no access of core 0 to it completes. -/
def cutFrom (s : State) : State :=
  { s with
    pages := [⟨0x20000, 12, 0, .resident, 1024, 0, [0, 0, 0, 0], 0, 0, false, [], false, [], 0⟩]
    devs := s.devs ++ [(1, { Dev.reset with lost := true })] }

def okAnd {ε α : Type} (x : Except ε α) (f : α → Bool) : Bool :=
  match x with
  | .ok a => f a
  | .error _ => false

def errAnd {ε α : Type} (x : Except ε α) (f : ε → Bool) : Bool :=
  match x with
  | .ok _ => false
  | .error e => f e

def someAnd {α : Type} (x : Option α) (f : α → Bool) : Bool := x.elim false f

def nextAnd (x : Host.Outcome State Fault Refusal) (f : State → Bool) : Bool :=
  match x with
  | .next t => f t
  | _ => false

/-- The frame of an instruction of `n` sources and a destination. -/
def iss (l : List Src) (d : Dst) : Iss := { h := d0, reads := rds l, writes := wr d none }

/-! ## The hypotheses of the statements can be met: a witness for each clause -/

theorem test_IssueFrame :
    (let i : Iss := { h := ⟨0, false, some ⟨false, 1⟩⟩, reads := [.s 1] }
     let p := base.part 0
     let q := { p with sb := [⟨.s 1, 2, 3, 7⟩] }
     decide (i.allReads = [.p 1, .s 1]) && i.allReads.all (fun r => !(tracked p r && sbEarly p.sb r)) && !(predVal p i.pred).getLsbD 0 &&
       decide (predVal p i.pred = 0) && q.stallchk && !(tracked q (.p 1) && sbEarly q.sb (.p 1)) && tracked q (.s 1) && sbEarly q.sb (.s 1) &&
       !sbEarly p.sb (.s 1) && decide (q.rd (.s 1) = 7) && (predVal ({ p with p := p.p.set 1 1 } : Part) i.pred).getLsbD 0 &&
       !(predVal p ({ i with lane := some 5 } : Iss).pred).getLsbD 5 && decide (i.predReads = [.p 1])) = true := by decide +kernel

/-- A stream bound to v56. -/
def stream (f : Stream → Stream) : Part := { Part.reset with streams := Part.reset.streams.set 0 (f { Stream.reset with n := 2, elw := 2 }) }

theorem test_StreamRegisters :
    ((let t := (stream fun t => { t with state := .ready, slots := [⟨0, 5, []⟩] }).streams[0]
      !t.captured && !t.write && decide (t.state = .ready) && decide (t.slots.find? (fun y => y.idx = t.pos) = some ⟨0, 5, []⟩)) &&
     (stream fun t => { t with captured := true }).streams[0].captured &&
     (stream fun t => { t with write := true, state := .exhausted }).streams[0].write &&
     (let f : StreamFault := ⟨0, 0, 0, 3, 1, 0, 0⟩
      decide ((stream fun t => { t with state := .faulted, fault := some f }).streams[0].fault = some f))) = true := by decide +kernel

/-- `base` with v56 bound to a read stream, v57 to a write stream. -/
def bound (f g : Stream → Stream) : State :=
  let t : Stream := { Stream.reset with n := 2, elw := 2, state := .ready, slots := [⟨0, 5, []⟩] }
  at_ fun p => { p with streams := (p.streams.set 0 (f t)).set 1 (g { t with write := true, slots := [] }) }

theorem test_StreamRegisters_issue :
    (let i : Iss := { h := d0, reads := rds [.v 56], writes := wr (.v 57) (some 2), lanes := true }
     let s := bound id id
     let p := s.part 0
     let popped (s : State) (f : State → Bool) : Bool := match popFrom s s 0 [0] with
       | (.ok q, t) => decide (q.v[56] = 5) && f t
       | _ => false
     let push (s : State) (f : Access → Bool) : Bool := popped s fun t => f (pushReady (t.part 0) 1)
     decide (streamsIn p i.reads = [0] ∧ streamsIn p (i.writes.map (·.1)) = [1]) && i.allReads.all (fun r => !(tracked p r && sbEarly p.sb r)) && i.effective p && !i.bad && decide (p.sleep = .awake) &&
       decide (taskOn s 0 = none) && storesDone s 0 && push s (fun a => match a with | .ok _ => true | _ => false) &&
       !storesDone (s.modCore 0 fun c => { c with sbuf := [⟨0, 0, 0, 0, [], [], false, false⟩] }) 0 &&
       push (bound id fun t => { t with state := .exhausted }) (fun a => match a with | .stop _ => true | _ => false) &&
       push (bound id fun t => { t with state := .filling }) (fun a => match a with | .wait => true | _ => false) &&
       (match popFrom (bound (fun t => { t with state := .exhausted }) id) (bound (fun t => { t with state := .exhausted }) id) 0 [0] with | (.stop _, _) => true | _ => false) &&
       (match popFrom (bound (fun t => { t with state := .filling, slots := [] }) id) (bound (fun t => { t with state := .filling, slots := [] }) id) 0 [0] with | (.wait, _) => true | _ => false)) = true := by
  decide +kernel

theorem test_HardwiredRegisters : (63 : Fin 64) ≠ 0 ∧ (7 : Fin 8) ≠ 0 := by decide +kernel

theorem test_IntegerArithmetic :
    (issues base (iss [.s 1, .s 2] (.s 3)) &&
     nextAnd (exec (.add d0 ⟨.s 3, .s 1, .s 2⟩) (regs ones64 1 9 0)) (fun t => decide ((t.part 0).getS 3 = 0)) &&
     nextAnd (exec (.div d0 ⟨.s 3, .s 1, .s 2⟩) (regs 7 0 0 0)) (fun t => decide ((t.part 0).getS 3 = ones64)) &&
     nextAnd (exec (.rem d0 ⟨.s 3, .s 1, .s 2⟩) (regs (-7) 2 0 0)) (fun t => decide ((t.part 0).getS 3 = -1)) &&
     nextAnd (exec (.mulh d0 ⟨.s 3, .s 1, .s 2⟩) (regs (-1) 2 0 0)) (fun t => decide ((t.part 0).getS 3 = ones64)) &&
     nextAnd (exec (.minN d0 ⟨.s 0, .s 1, .s 2⟩) (regs (-1) 2 0 0)) (fun t => decide ((t.part 0).getS 0 = 0 ∧ (t.part 0).pc = 0x10002))) = true := by decide +kernel

theorem test_IntegerLogicAndFields :
    (issues base (iss [.s 1, .s 2, .s 3] (.s 4)) && issues base { h := d0, reads := rds [.s 1, .s 2] ++ [.p 5], writes := wr (.s 4) (some 1) } &&
     issues base { h := d0, reads := rds [.s 1] ++ (dstReg (.s 4)).toList } &&
     -- CLZ: n = 0, 63 and 64
     (BitVec.intMin 64).getLsbD 63 && (1 : W64).getLsbD 0 &&
     nextAnd (exec (.clz d0 ⟨.s 3, .s 1, .v 0⟩) (regs 1 0 0 0)) (fun t => decide ((t.part 0).getS 3 = 63)) &&
     nextAnd (exec (.shl d0 ⟨.s 3, .s 1, .s 2⟩) (regs 1 65 0 0)) (fun t => decide ((t.part 0).getS 3 = 2)) &&
     nextAnd (exec (.bfx d0 ⟨.s 4, .s 1, .s 2, .s 3, 1⟩) (regs (BitVec.intMin 64) 60 20 0)) (fun t => decide ((t.part 0).getS 4 = -8)) &&
     nextAnd (exec (.lih d0 ⟨.s 4, .slot, 0x80000000⟩) (regs 0 0 0 5)) (fun t => decide ((t.part 0).getS 4 = 0x8000000000000005))) = true := by decide +kernel

theorem test_ComparesAndPredicates :
    (issues base { h := d0, reads := rdsP [.c 1, .c 2], writes := wr (.p 3) (some 1) } &&
     nextAnd (exec (.cmp d0 .ltn ⟨.p 3, .s 1, .s 2⟩) (regs 1 (-1) 0 0)) (fun t => decide ((t.part 0).getP 3 = ones64)) &&
     nextAnd (exec (.cmp d0 .lt ⟨.s 3, .s 1, .s 2⟩) (regs 1 (-1) 9 0)) (fun t => decide ((t.part 0).getS 3 = 0)) &&
     nextAnd (exec (.pnot d0 ⟨.p 3, .c 1, .v 0⟩) base) (fun t => decide ((t.part 0).getP 3 = ones64))) = true := by decide +kernel

theorem test_ScalarFloat :
    (issues base { h := d0, reads := rds [.s 1, .s 2, .s 3], writes := wr (.s 4) (some 4), sr := 1 } &&
     -- 1.5 + 2^-53 rounds to even: 1.5, inexact
     nextAnd (exec (.fadd d0 ⟨.s 3, .s 1, .s 2, .v 0, 0⟩) (regs 0x3FF8000000000000 0x3CA0000000000000 0 0)) (fun t =>
       decide ((t.part 0).getS 3 = 0x3FF8000000000000) && decide ((t.part 0).fpflags = 16))) = true := by decide +kernel
theorem test_VectorInteger :
    (issues base { h := d0, reads := rds [.v 1, .s 2, .c 3], writes := wr (.v 4) (some 2), lanes := true } &&
     issues base { h := d0, reads := rds [.v 1, .v 2] ++ [.p 7], writes := wr (.v 4) (some 2), lanes := true } &&
     nextAnd (exec (.vadd d0 ⟨.v 4, .v 1, .lit 0x3F, .v 0, 0⟩) base) (fun t => decide (elemOf ((t.part 0).getV 4) 8 255 = 255)) &&
     nextAnd (exec (.vcmp d0 .eq ⟨.p 2, .v 1, .v 2, .v 0, 2⟩) base) (fun t => decide ((t.part 0).getP 2 = ones64))) = true := by decide +kernel

theorem test_VectorConvert :
    -- from bf16 to FP32: two parts, so 1 is the last that exists
    (issues base { h := d0, reads := rds [.v 1] ++ (dstReg (.v 2)).toList, writes := wr (.v 2) (some 4), lanes := true, sr := 1 } &&
     !(base.part 0).bound 2 && decide (litInt 1 = 1) && decide (litInt 2 = 2) && decide (litInt 0x3F = -1) &&
     decide (max (ctyOf 3).width (ctyOf 1).width / min (ctyOf 3).width (ctyOf 1).width = 2)) = true := by decide +kernel

theorem test_VectorCrossLane :
    (let j : Iss := { h := d0, reads := rds [.v 1, .s 2] ++ (dstReg (.v 3)).toList, writes := wr (.v 3) (some 6), lanes := true }
     let e : Iss := { j with h := ⟨0, false, some ⟨false, 1⟩⟩, reads := rds [.v 1, .s 2] }
     let one := at_ fun p => p.setP 1 1
     issues base j && issues one e && issues one { e with lanes := false, lane := some 0 } && !(predVal (one.part 0) e.pred).getLsbD 63 &&
       (e.predReads ++ rds [.s 2]).all (fun r => !sbEarly (one.part 0).sb r) && (lanesFor one e).getLsbD 0 && !(lanesFor one e).getLsbD 63 && !(base.part 0).bound 3 &&
       (match redTree 0 (base.part 0).rctl 6 1 (terms ((base.part 0).vreg (.v 1)) ones64) with
        | (some _, _) :: _ => true
        | _ => false)) = true := by decide +kernel

theorem test_VectorFloat :
    (issues base { h := d0, reads := rds [.v 1, .v 2, .v 3], writes := wr (.v 4) (some 4), lanes := true, sr := 1 }) = true := by decide +kernel

theorem test_ControlFlow :
    (let l : Iss := { h := d0, reads := [.s 1], writes := [(.s 1, some 1)] }
     let f := at_ fun p => { p with fmode := .following, fwdNow := some ⟨0, 0x10000, 0x10002, 0x10002, .nop d0⟩ }
     issues base { h := d0 } && issues base { h := d0, q := some ⟨true, 7⟩, yields := true } && issues base { h := d0, q := some ⟨false, 0⟩ } && issues base l &&
       issues base (iss [.s 1] (.s 2)) && issues f { h := d0, writes := wr (.s 2) (some 1) } && issues f { h := d0 } && (f.part 0).fwdNow.isSome && decide ((base.part 0).fwdNow = none) &&
       !((base.part 0).rdS 1).getLsbD 0 && (((regs 3 0 0 0).part 0).rdS 1).getLsbD 0 &&
       nextAnd (exec (.loop d0 ⟨1, 3, 0x7FFFF⟩) (regs 2 0 0 0)) (fun t => decide ((t.part 0).pc = 0xFFC6 ∧ (t.part 0).getS 1 = 1)) &&
       nextAnd (exec (.loop d0 ⟨1, 3, 0x7FFFF⟩) (regs 1 0 0 0)) (fun t => decide ((t.part 0).pc = 0x10002 ∧ (t.part 0).getS 1 = 0)) &&
       nextAnd (exec .lineEnd base) (fun t => decide ((t.part 0).pc = 0x10040))) = true := by decide +kernel

theorem test_TakeTrap :
    (let p := base.part 0
     let v := (at_ fun p => { p with trapvec := 0x8000 }).part 0
     let t := (at_ fun p => { p with inTrap := true }).part 0
     decide (idxOf 0 ≠ 3) && !v.inTrap && decide (v.trapvec ≠ 0) && decide (v.fmode = .free) && decide (v.fmode ≠ .joining) && t.inTrap && decide (p.trapvec = 0)) = true := by
  decide +kernel

theorem test_UpcallAndReturns :
    (let p := (at_ fun p => { p with upcallVec := 0x8000 }).part 0
     decide (idxOf 2 ≠ 3) && decide (idxOf 3 = 3) && decide (p.upcallVec ≠ 0) && !p.inUp && !p.inTrap && decide (p.fmode ≠ .joining) && decide (3 * 256 + 0x11 < 2048) &&
       (at_ fun p => { p with inUp := true }).cur = 0 && decide ((base.part 0).upcallVec = 0)) = true := by decide +kernel

theorem test_TrapInstructions :
    (let i := iss [.s 1] (.s 2)
     let r : Iss := { h := d0, reads := rds [.s 1] }
     let d : State := { (base.setPart 3 Part.reset) with cur := 3 }
     issues base r && issues base { h := d0 } && issues base i && issues d r && issues d i && decide (idxOf d.cur = 3) && !(base.part 0).inTrap && !(base.part 0).inUp &&
       !(base.part 0).inChk && ((at_ fun p => { p with inTrap := true, inUp := true, inChk := true }).part 0).inChk && storesDone base 0) = true := by decide +kernel

theorem test_MemoryCells : Memory.wf base.mem = true ∧ memRead base.mem 0x20000 = 0x88 ∧ memRead (memWrite base.mem 0x20000 0) 0x20000 = 0 := by decide +kernel

/-- A task message that runs as a task in partition A of core 0. -/
def msg0 : Msg :=
  { dest := 0, tag := 0, cls := 0, rp := false, bnc := false, status := 0, handler := 0x100, args := [1, 2, 3, 4], key := 5, src := 0, srcPart := 0, ctx := 0
    task := true, parent := none, sender := .nobody }
def task0 : Task :=
  { id := 0, cl := 0, msg := msg0, state := .running, held := false, k := 0, reads := [], deps := [], writes := [], journal := [], acts := [], chk := none }
def inTask : State := { base with tasks := [task0], taskSeq := 1 }

/-- The checks of an access that the statements ask for. -/
def accessOk (s : State) (acc : Acc) (rs : List (W64 × Nat)) : Bool :=
  okAnd (checkAccess s (whoOf s 0) acc rs) fun s1 =>
    !onLost s1 0 rs && !((rs.flatMap fun r => linesOf r.1 r.2).any (isLost s1 0)) && decide (forwardOf s1 0 (rs.flatMap fun r => bytesAt r.1 r.2) = .none) &&
      rs.all (fun r => !isReplicated s1 0 r.1)

theorem test_Loads :
    (let s := regs 0x20000 0x20001 0xFFFFFFFFE0000000 0
     let ld (m : BitVec 8) (b : Fin 64) : OpM := ⟨.s 5, .v 0, .s b, 0, m⟩
     issues s { h := d0, reads := rds [.s 1], writes := wr (.s 5) none } && decide ((taskOn s 0) = none) && decide (ordOfMod 0x46 = 1) &&
       decide ((s.part 0).addrM (ld 0x46 2) = 0x20001) && accessOk s .read [(0x20000, 8)] &&
       errAnd (checkAccess s (whoOf s 0) .read [(0x0100000000000000, 1)]) (fun e => decide (e.code = 3)) &&
       nextAnd (exec (.ld d0 (ld 1 3)) s) (fun t => decide ((t.part 0).getS 5 = 0x88)) &&
       nextAnd (exec (.ld d0 (ld 0 3)) s) (fun t => decide ((t.part 0).getS 5 = BitVec.ofNat 64 (2 ^ 64 - 0x78)))) = true := by decide +kernel

/-- A line of the slice that is lost, and one that the part's own store covers in part. -/
theorem test_Loads_lost :
    (let s := (regs (own 0) 0 0 0).modCore 0 fun c => { c with spadLost := [0] }
     let b := (regs (own 0) 0 0 0).modCore 0 fun c => { c with sbuf := [⟨0, 0, 0, own 0, [(own 0, 1)], [(own 0, 1)], false, false⟩] }
     let x := b.modCore 0 fun c => { c with spadLost := [0] }
     issues s { h := d0, reads := rds [.s 1], writes := wr (.s 5) none } && okAnd (checkAccess s (whoOf s 0) .read [(own 0, 8)]) (fun t => decide (lostRead t (whoOf s 0) [(own 0, 8)] = some (own 0, own 0))) &&
       decide (forwardOf s 0 (bytesAt (own 0) 8) = .none) && decide (forwardOf b 0 (bytesAt (own 0) 8) = .mixed) && decide (forwardOf x 0 (bytesAt (own 0) 1) = .all [1]) &&
       decide (lostRead x (whoOf x 0) [(own 0, 1)] = none)) = true := by decide +kernel

theorem test_Loads_vector :
    (let s := at_ fun p => ((p.setS 1 0x20000).setS 3 0xFFFFFFFFE0000000).setP 1 3
     let h : Hd := ⟨0, false, some ⟨false, 1⟩⟩
     let i : Iss := { h, reads := rds [.s 1], writes := wr (.v 5) none, lanes := true }
     let g : Iss := { h, reads := rds [.s 1, .v 2], writes := wr (.v 5) none, lanes := true }
     issues s i && issues s g && decide (lanesOf (lanesFor s i) = [0, 1]) && accessOk s .read [(0x20000, 4), (0x20004, 4)] &&
       decide ((gatherAddr 0 0x20000 0 0) = 0x20000) && decide ((gatherAddr 0 0x20002 0 0).toNat % 4 ≠ 0) && decide ((0x20002 : W64).toNat % 4 ≠ 0) &&
       nextAnd (exec (.vld h ⟨.v 5, .v 0, .s 3, 0, 0⟩) s) (fun t => decide (elemOf ((t.part 0).getV 5) 32 0 = 0x88))) = true := by decide +kernel

theorem test_Stores :
    (let s := at_ fun p => (p.setS 1 0x20008).setP 1 1
     let h : Hd := ⟨0, false, some ⟨false, 1⟩⟩
     issues s { h := d0, store := true, reads := rds [.s 2, .s 1] } && issues s { h, store := true, reads := rds [.v 2, .s 1], lanes := true } &&
       issues s { h, store := true, reads := rds [.s 1, .v 2, .v 3], lanes := true } && accessOk s .write [(0x20008, 8)] && accessOk s .write [(0x20008, 4)] &&
       decide (ordOfMod 0x80 = 2) && storesDone s 0 && decide ((s.core 0).sbuf.length < 32) && decide ((0x20009 : W64).toNat % 4 ≠ 0) &&
       nextAnd (exec (.st d0 ⟨.none, .s 2, .s 1, 0xFFF8, 0⟩) s) (fun t => decide ((t.core 0).sbuf.map (·.bytes) = [[(0x20000, 0)]] ∧ t.mem = s.mem))) = true := by
  decide +kernel

theorem test_MemoryEvents :
    (let a : W64 := 0xFFFFFFFFE007FFFF
     let e : StoreEnt := ⟨0, 0, 0, a, [(a, 7)], [(a, 7)], false, false⟩
     let s := base.modCore 0 fun c => { c with sbuf := [e] }
     let g := granuleAt s 0 a
     let m : McStore := ⟨0, 0, 0, false, 5, 0, [1], 3, [(0, 0x20000), (1, 0x20001)], 0, []⟩
     let q (n : W64) := base.modCtx 0 fun c => { c with errq := n }
     let full := { q 0xFFFFFFFFE0001000 with mem := memWrite base.mem (spadKey 0 0x1000) 64 }
     decide (s.watches = []) && Memory.wf s.mem && inSpad a && inSpad (lineOf a) && decide (homeKey s 0 a = some (spadKey 0 0x7FFFF)) &&
       decide ((e.left.map fun b => granuleAt s 0 b.1).dedup = [g]) && !isReplicated s 0 (lineOf g) && !isLost s 0 (lineOf g) &&
       decide ((storeAct s e 0).2.left = [] ∧ memRead (storeAct s e 0).1.mem (spadKey 0 0x7FFFF) = 7) &&
       decide (((base.modCore 0 fun c => { c with mcast := [m] }).core 0).mcast = [m]) && decide (mcDeny base m 0x20000 = 0) &&
       decide (mcDeny base m 0x0100000000000000 ≠ 0) && decide ((writeRecord (q 0xFFFFFFFFE0001000) 0 0 (List.replicate 64 1)).2 = 0xFFFFFFFFE0001040) &&
       decide (homeKey (q 0x0100000000000000) 0 0x0100000000000000 = none) && decide (homeKey full 0 0xFFFFFFFFE0001000 ≠ none) &&
       decide (homeNum full 0 0xFFFFFFFFE0001000 8 = 64) && decide (stashGuestLines (guestDrop base 0 0) 0 = [])) = true := by decide +kernel

theorem test_Stores_stops :
    (let m : Stash := ⟨0x20000, 0, 0x1000, []⟩
     let lost := { (at_ fun p => { p with stash := [m] }) with pages := [⟨0x20000, 12, 0, .resident, 0, 0, [0, 0, 0, 0], 0, 0, false, [], false, [0x20000], 0⟩] }
     let full := base.modCore 0 fun c => { c with sbuf := List.replicate 32 ⟨0, 0, 0, 0, [], [], false, false⟩ }
     decide (fillLost base 0 [(own 0, 1)] = none) && decide (fillLost lost 0 [(0x20000, 1)] = some 0x20000) && decide (32 ≤ (full.core 0).sbuf.length) && !storesDone full 0) = true := by
  decide +kernel

/-- A store of two granules of one line: unordered and ordered; one to a lost line, in part and whole; one to a replicated page. -/
theorem test_MemoryEvents_stores :
    (let two : List (W64 × Byte) := [(own 31, 7), (own 32, 8)]
     let e (o : Bool) : StoreEnt := ⟨0, 0, 0, own 31, two, two, false, o⟩
     let line : List (W64 × Byte) := (bytesAt (own 0) 64).map fun a => (a, 1)
     let lost := base.modCore 0 fun c => { c with spadLost := [0] }
     let far : StoreEnt := ⟨0, 0, 0, 0x20000, [(0x20000, 1)], [(0x20000, 1)], false, false⟩
     let rep := { base with pages := [⟨0x20000, 12, 0, .replicated, 0, 0, [0, 0, 0, 0], 0, 0, false, [], false, [], 0⟩] }
     decide (((e false).left.map fun b => granuleAt base 0 b.1).dedup = [own 0, own 32]) && !cutOff base 0 (own 0) && isLost lost 0 (own 0) && !isReplicated lost 0 (own 0) &&
       (List.range 64).all (fun j => line.any fun b => b.1 = own 0 + BitVec.ofNat 64 j) && isReplicated rep 0 0x20000 && !cutOff rep 0 0x20000 && cutOff (cutFrom base) 0 0x20000 && decide (far.left = far.bytes) &&
       decide ((storeAct base (e true) 0).2.left = [(own 32, 8)] ∧ memRead (storeAct base (e true) 0).1.mem (spadKey 0 31) = 7) &&
       decide ((storeAct base (e false) 1).2.left = [(own 31, 7)] ∧ memRead (storeAct base (e false) 1).1.mem (spadKey 0 32) = 8)) = true := by decide +kernel

/-- A dirty line of a stash mapping is recalled, a dirty guest copy goes to its home. -/
theorem test_MemoryEvents_recall :
    (let m (d : Bool) : Stash := ⟨0x20000, 0, 0x1000, [(0x20040, d)]⟩
     let s (d : Bool) := at_ fun p => { p with stash := [m d] }
     let g (d : BitVec 64) : Guest := ⟨1, 0x20000, 5, d⟩
     let u (d : BitVec 64) : State := { base with guests := [g d] }
     ([true, false].all fun d => decide (stashOf ((s d).part 0) 0x20040 = some (m d)) && decide (mfind (m d).lines (0x20040 : W64).toNat = some d)) &&
       decide (mfind (m true).lines (0x20080 : W64).toNat = none) && !(m true).lineLost (s true) 0 0x20040 && decide (guestOf (u 0) 1 0x20000 = some (g 0)) &&
       decide (guestOf (u 1) 1 0x20000 = some (g 1) ∧ (g 1).dirty ≠ 0)) = true := by decide +kernel

theorem test_Fences :
    (let d : Deferred := ⟨true, 4, 3, 0, 0⟩
     let s := at_ fun p => { p with deferred := [d], trapvec := 0x8000 }
     accessOk base .read [(lineOf 0x20000, 1)] && errAnd (checkAccess base (whoOf base 0) .read [(lineOf 0x0100000000000000, 1)]) (fun _ => true) &&
       issues base { h := d0 } && issues base { h := d0, reads := rds [.s 1, .s 2] } && (taskOn inTask 0).isSome && decide (taskOn base 0 = none) && storesDone base 0 &&
       decide ((base.core 0).mcast = []) && decide (fenceRecord (base.part 0) 5 true = none) && decide (fenceRecord (s.part 0) 4 false = some d) &&
       decide ((s.part 0).fmode = .free) && !storesDone (base.modCore 0 fun c => { c with sbuf := [⟨0, 0, 0, 0, [], [], false, false⟩] }) 0 &&
       (let m : McStore := ⟨0, 0, 0, false, 5, 0, [1], 3, [(0, 0x20000)], 0, []⟩
        (((base.modCore 0 fun c => { c with mcast := [m] }).core 0).mcast.any fun e => e.k = 0 && decide (e.scope ≤ 5))) && decide (base.parts.all fun kp => kp.1 = 0) &&
       decide (base.away = [])) = true := by decide +kernel

theorem test_Atomics :
    (let s := regs 0x20000 1 0 0
     issues s { h := d0, reads := rds [.s 1, .s 2], writes := wr (.s 5) none ++ wr (.p 1) none } && issues inTask (iss [.s 1, .s 2, .s 3] (.s 5)) &&
       accessOk s .atomic [(0x20000, 8)] && !isReplicated s 0 0x20000 && !isLost s 0 0x20000 && !bufOverlaps s 0 0x20000 8 && ownerDoes s 0 0x20000 0 8 &&
       !ownerDoes s 0 0xFFFFFFFFF0080000 9 8 && decide ((0x20004 : W64).toNat % 8 ≠ 0) &&
       nextAnd (exec (.amoAdd d0 ⟨.s 5, .s 1, .s 2, .v 0, .v 0, .v 0, 3, none⟩) (regs 0xFFFFFFFFE0000000 1 0 0)) (fun t =>
         decide ((t.part 0).getS 5 = 0x88 ∧ memRead t.mem (spadKey 0 0) = 0x89))) = true := by
  decide +kernel

theorem test_Atomics_lost :
    (let s := (regs (own 0) 1 0 0).modCore 0 fun c => { c with spadLost := [0] }
     accessOk base .atomic [(own 0, 8)] && isLost s 0 (own 0) && !bufOverlaps s 0 (own 0) 8 && !onLost s 0 [(own 0, 8)] && decide (taskOn s 0 = none)) = true := by decide +kernel

theorem test_MulticastStores :
    (let s := at_ fun p => p.setS 1 0x80
     let i : Iss := { h := d0, reads := rds [.s 2, .v 3, .s 1] }
     issues s i && issues inTask i && decide (((base.part 0).src 0 (.s 1)).toNat % 256 = 0) && decide (((s.part 0).src 0 (.s 1)).toNat % 256 ≠ 0) && storesDone s 0) = true := by
  decide +kernel

/-- `base` with s1 to s4 set and bytes at an offset of its slice. -/
def withBytes (off : Nat) (bs : List Byte) (a b c d : W64) : State :=
  { regs a b c d with mem := memWriteBytes base.mem (spadKey 0 off) bs }

/-- A stream descriptor: base, four counts, four strides. -/
def sdesc (a : W64) (n : Nat) : List Byte :=
  bytesOf 8 a.toNat ++ bytesOf 8 0 ++ bytesOf 4 n ++ bytesOf 4 n ++ bytesOf 4 n ++ bytesOf 4 n ++ List.replicate 32 0

theorem test_StreamInstructions :
    (let s := withBytes 0x40 (sdesc (own 0) 1) (own 0x40) 0 0 0
     let x := withBytes 0x40 (sdesc (own 0) 0) (own 0x40) 0 0 0
     let bs (s : State) := (bytesAt (own 0x40) 64).map (loadByte (prepLines s (whoOf s 0) (linesOf (own 0x40) 64).dedup) (whoOf s 0))
     let t : Stream := streamFrom (sdesc (own 0) 1) false 0
     issues s { h := d0, reads := rds [.s 1] } && issues s { h := d0, writes := wr (.s 2) none } && issues s (iss [.s 3] (.s 2)) && accessOk s .read [(own 0x40, 64)] &&
       !descBad (bs s) false && !descBad (bs x) true && decide ((s.part 0).streams[7].state = .unbound) && storesDone s 0 &&
       decide (t.state ≠ .unbound ∧ t.captured = false ∧ t.write = false ∧ t.elw = 0) && !{ t with write := true, state := .exhausted }.undrained &&
       decide ((t.skip 1).1.index = none) && decide ((Stream.skip { t with index := some 3 } 1).1.index = some 3) &&
       decide ((s.part 0).streams[3].index = none)) = true := by decide +kernel

/-- Captured streams, a write stream that has not drained, an index stream that serves and one that does not. -/
theorem test_StreamInstructions_stops :
    (let t : Stream := streamFrom (sdesc (own 0) 1) false 0
     let c : Stream := { t with captured := true }
     let w : Stream := { streamFrom (sdesc (own 0) 1) true 0 with slots := [⟨0, 5, []⟩] }
     let s := at_ fun p => { p with streams := p.streams.set 0 c }
     let u := base.modCore 0 fun c => { c with sbuf := [⟨0, 0, 0, 0, [], [], false, false⟩] }
     decide (c.state ≠ .unbound ∧ c.captured = true) && w.undrained && decide (w.captured = false) && issues s { h := d0, writes := wr (.s 2) none } &&
       decide (t.write = false ∧ t.elw = 0 ∧ (1 : Fin 8) ≠ 0) && decide (c.captured = true) && !storesDone u 0 &&
       stashCut (cutFrom base) 0 ⟨0x20000, 0, 0x1000, [(0x20000, true)]⟩ (fun _ => true) && !stashCut base 0 ⟨0x20000, 0, 0x1000, [(0x20000, true)]⟩ (fun _ => true)) = true := by
  decide +kernel

theorem test_StreamInstructions_stash :
    (let s := regs 0x20000 (own 0x7F000) 0x1000 0x20001
     let m : Stash := ⟨0x20000, 0x7F000, 0x1000, []⟩
     decide (taskOn s 0 = none) && decide (regionOf 0x20000 = .shared) && decide (regionOf (own 0x7F000) = .spad true 0 0x7F000) &&
       decide (regionOf 0xFFFFFFFFF0000000 = .spad false (posOf 0) 0) && decide (sprOf s 0 0 = (0, 0x80000)) && stashOk (s.part 0) 0x20000 0x7F000 0x1000 &&
       !stashOk (s.part 0) 0x20000 0x7F000 0 && decide ((0x20001 : W64).toNat % 4096 ≠ 0) && issues s { h := d0, reads := rds [.s 1, .s 2, .s 3] } &&
       decide ([m].find? (fun m => m.g = 0x20000) = some m)) = true := by decide +kernel

theorem test_StreamEvents :
    (let t (a : W64) : Stream := { streamFrom (sdesc a 1) false 0 with state := .ready }
     let wt (a : W64) : Stream := { streamFrom (sdesc a 1) true 0 with state := .ready, slots := [⟨0, 5, []⟩] }
     let w := whoOf base 0
     let ix : Stream := { t (own 0) with index := some 3, slots := [] }
     let m : Stash := ⟨0x20000, 0, 0x1000, [(0x20040, true)]⟩
     let s := at_ fun p => { p with stash := [m] }
     (t (own 0)).mayFetch && decide ((t (own 0)).index = none) && ({ t (own 0) with broken := true } : Stream).atWork &&
       (readElems w (t (own 0)) [] 0 (((t (own 0)).elems 0).drop 0) base).2.2.isNone &&
       (readElems w (t 0x0100000000000000) [] 0 (((t 0x0100000000000000).elems 0).drop 0) base).2.2.isSome &&
       ix.mayFetch && decide (ix.ixs.length < ix.needIx) && decide ((wt (own 0)).fault = none ∧ (wt (own 0)).write = true) &&
       (writeElems w (wt (own 0)) 0 5 (((wt (own 0)).elems 0).drop 0) base).2.isNone &&
       (writeElems w (wt 0x0100000000000000) 0 5 (((wt 0x0100000000000000).elems 0).drop 0) base).2.isSome &&
       decide (stashOf (s.part 0) (lineOf 0x2007F) = some m) && decide (mfind m.lines (lineOf 0x2007F).toNat = some true)) = true := by decide +kernel

theorem test_StreamEvents_waits :
    (let t (a : W64) : Stream := { streamFrom (sdesc a 1) false 0 with state := .ready }
     streamCut (cutFrom base) 0 (t 0x20000) && !streamCut base 0 (t 0x20000) && !streamCut base 0 (t (own 0)) && (t (own 0)).atWork) = true := by decide +kernel

/-- Sixty-four masks of four of eight positions. -/
def fourOf8 : VReg := BitVec.ofNat 2048 (0x0F * ((2 ^ 2048 - 1) / 255))

theorem test_MatrixInstructions :
    (let s := at_ fun p => { p with v := p.v.set 5 fourOf8 }
     let c := base.modMu 0 fun m => m
     !muWithdrawn base 0 && muWithdrawn (base.modDev 0 fun d => { d with withdrawn := [.matrix 0] }) 0 && decide ((mcore base 0).holder = none) &&
       decide ((mcore (claimCore base 0) 0).queue.length < 8) && decide (((claimCore base 0).mu 0).loads = []) && storesDone (claimCore base 0) 0 &&
       decide ((mcore (claimCore base 0) 0).recs = []) && issues c { h := d0, reads := rds [.s 1, .s 2, .s 3, .s 4, .v 5] } &&
       decide (piecesOf (own 0) 61440 = [(own 0, 61440)]) && decide (regionOf (own 0) ≠ .nonCanon ∧ regionOf (own 0) ≠ .window) &&
       shapeOk (0x40 + 0x100 + 256 * 65536) 1 && decide (badMask (masksOf ((s.part 0).rdV 5)) = none) && !(s.part 0).bound 5 &&
       (badMask (masksOf ((s.part 0).rdV 6))).isSome) = true := by decide +kernel

/-- A part whose v56 is bound to a stream of masks of which `n` vectors have arrived. -/
def masksAt (n : Nat) : Part :=
  { (base.part 0) with streams := (base.part 0).streams.set 0 { streamFrom (sdesc (own 0) 4096) false 0 with
      state := if n = 0 then .filling else .ready, slots := (List.range n).map fun i => ⟨i, fourOf8, []⟩ } }

theorem four_of_eight : ∀ g ∈ masksOf fourOf8, (kept g).length = 4 := by decide +kernel

/-- Masks of four bits each are all good. -/
theorem badMask_none (ms : List Nat) (h : ∀ g ∈ ms, (kept g).length = 4) : badMask ms = none := by
  simp only [badMask, Option.map_eq_none_iff, List.find?_eq_none]
  intro x hx
  simpa using h x.2 (List.of_mem_zip hx).2

/-- MMULS draws its masks from the stream bound to v56: the last of the vectors that it needs, or none where none has arrived. -/
theorem test_MatrixInstructions_draw :
    ((masksAt 1).bound 56 && decide (2 * pairK .bf16 / 16 = 24) && (match drawGo 0 24 25 (masksAt 1) (List.replicate 23 fourOf8) with
      | (_, _, .all vs) => decide (vs = List.replicate 24 fourOf8)
      | _ => false) && (match drawGo 0 24 25 (masksAt 0) [] with
      | (_, _, .more) => true
      | _ => false)) = true ∧ badMask ((List.replicate 24 fourOf8).flatMap masksOf) = none := by
  refine ⟨by decide +kernel, badMask_none _ fun g hg => ?_⟩
  obtain ⟨v, hv, hg⟩ := List.mem_flatMap.1 hg
  exact four_of_eight g (List.eq_of_mem_replicate hv ▸ hg)

theorem test_MatrixInstructions_drain :
    (let s := claimCore (regs (own 0) (1 + 512 * 65536) 0 0) 0
     let rs := [(own 0, 512)]
     decide ((drainType 0).1 = 4) && issues s (iss [.s 1, .s 2] (.s 3)) && !muWithdrawn s 0 && decide ((mcore s 0).holder = some 0) && accessOk s .write rs &&
       decide ((mcore s 0).queue = []) && !busyOn s 0 true && decide (((mcore s 0).recs.find? fun x => x.tile = some true) = none) &&
       decide (1 ≤ 512 ∧ 512 % 64 = 0) && !((mcore s 0).queue.any (·.cmd = .drain)) &&
       (let d := modMcore s 0 fun c => { c with queue := [MOp.plain .drain true 0] }
        decide ((mcore d 0).queue = [MOp.plain .drain true 0]) &&
        (mcore d 0).queue.any (·.cmd = .drain) && (mcore d 0).queue.head?.any (·.cmd = .drain) && !busyOn d 0 true) &&
       nextAnd (exec (.mdrain d0 ⟨.s 3, .s 1, .s 2, .v 0, .v 0, .v 0, 0, none⟩) (modMcore s 0 fun c => { c with acc0 := { c.acc0 with retired := 3, flags := 1 } }))
         (fun t => decide ((t.part 0).getS 3 = 3 ∧ (t.part 0).fpflags = 1 ∧ (mcore t 0).acc0.flags = 0))) = true := by decide +kernel

/-- An operation that streams its first of two k-steps of one row. -/
def mop0 (a : W64) (ks : Nat) : MOp :=
  { cmd := .op, id := 0, pc := 0, acc := false, pair := .i8, sparse := false, base := a, stride := 256, ks, rows := 1, tag := 1, next := 0, bands := 0, mode := 0
    fz := false, masks := [], held := false, state := .streaming, since := none, broken := false }

theorem test_MatrixEvents :
    (let m (a : W64) (ks : Nat) := modMcore ((claimCore base 0).modMu 0 fun u => { u with active := ⟨1, false, false, []⟩ }) 0 fun c => { c with queue := [mop0 a ks] }
     let l : MLoad := ⟨0, 0, 0, 0, own 0, 1, false, false⟩
     let s := base.modMu 0 fun u => { u with loads := [l] }
     let rows (a : W64) := readRows (holderWho (m a 2) (muFlat 0 0)) (mop0 a 2) ((m a 2).mu 0).active (List.range 1) (m a 2)
     -- two cores: the second waits with a higher priority at its head, or with an MSWAP
     let both (prio : Nat) (o : MOp) := modMcore (m (own 0) 2) (muFlat 0 1) fun c => { c with queue := [o], prio }
     decide (nextLoad s 0 = some l) && decide ((s.mu 0).shadow.tag = 0) && okAnd (engineCheck s ⟨0, 0, 0⟩ .read 0x20000 49152) (fun _ => true) &&
       errAnd (engineCheck s ⟨0, 0, 0⟩ .read 0x0100000000000000 49152) (fun _ => true) && decide (streamingAt base 0 = none) && !(base.cluster 0).halted &&
       decide (pending base 0 = none) && decide (pending (base.modMu 0 fun u => { u with pend := some (0, 3) }) 0 = none) &&
       decide (pending ((modMcore (claimCore base 0) 0 fun c => { c with queue := [{ mop0 (own 0) 2 with state := .queued }] }).modMu 0 fun u =>
         { u with active := ⟨1, false, false, []⟩, pend := some (0, 0) }) 0 = some 0) &&
       !swapWaits base 0 && swapWaits ((modMcore base 0 fun c => { c with queue := [MOp.plain .swap false 0] }).modMu 0 fun u => { u with inArray := true }) 0 &&
       decide (streamingAt (m (own 0) 2) 0 = some (0, mop0 (own 0) 2)) && decide (streamingAt (m (own 0) 1) 0 = some (0, mop0 (own 0) 1)) &&
       decide (swapped (m (own 0) 2) 0 (mop0 (own 0) 2) = m (own 0) 2) && (rows (own 0)).2.2.isNone && (rows 0x0100000000000000).2.2.isSome &&
       !((m (own 0) 2).mu 0).held 2 && (((m (own 0) 2).modMu 0 fun u => { u with shadow := ⟨2, false, false, []⟩ }).mu 0).held 2 &&
       decide (topCands (both 3 { mop0 (own 0) 2 with state := .queued }) 0 = [1]) &&
       (match candidate ((m (own 0) 2).mu 0) (mcore (both 3 { mop0 (own 0) 2 with state := .queued }) (muFlat 0 1)) with
        | some x => decide (0 < effPrio 0 (mcore (both 3 { mop0 (own 0) 2 with state := .queued }) (muFlat 0 1)) x)
        | none => false) && decide (topCands (m (own 0) 2) 0 = []) &&
       decide (effPrio 8192 { MCore.reset with prio := 1 } { mop0 (own 0) 2 with since := some 0 } = 3) &&
       !((List.range 8).any fun pos => (mcore base (muFlat 0 pos)).queue.any fun o => o.state = .streaming || o.state = .overtaken) && decide ((base.mu 0).remaps < 2)) = true := by
  decide +kernel

/-- What lies on a lost module waits; a current plane load ends, waits, or meets a broken pin. -/
theorem test_MatrixEvents_waits :
    (let l (b : Bool) : MLoad := ⟨0, 0, 0, 0, 0x20000, 1, false, b⟩
     let u (b : Bool) (s : State) := s.modMu 0 fun u => { u with current := some (l b), loads := [l b] }
     engineCut (u false (cutFrom base)) 0 0x20000 49152 && !engineCut (u false base) 0 0x20000 49152 && decide (((u true base).mu 0).current = some (l true)) &&
       rowsCut (cutFrom base) 0 (mop0 0x20000 2) && !rowsCut base 0 (mop0 (own 0) 2)) = true := by decide +kernel

theorem test_SparseInstructions :
    (let s := regs 0xFFFFFFFFF0000000 0 0xFFFFFFFFF0000000 0
     issues s (iss [.v 1, .s 2] (.v 3)) && issues s (iss [.v 1, .s 2, .s 3] (.v 3)) && issues s { h := d0, reads := rds [.v 1, .v 2, .v 3], sr := 1 } &&
       decide (regionOf 0xFFFFFFFFF0000000 = .spad false 0 0) && accessOk s .write [(0xFFFFFFFFF0000000, 256)] && decide ((s.core 0).sbuf.length < 32) &&
       decide ((0xFFFFFFFFF0000001 : W64).toNat % 256 ≠ 0) && (0x10 : BitVec 8).getLsbD 4 && decide (7 < 256 / (2048 / (ctyOf 11).width / 8))) = true := by decide +kernel

/-- An event with a consuming waiter behind another. -/
def ev0 (set : Bool) : Ev := ⟨0, 7, set, 1, if set then [] else [(1, false), (2, true)], none⟩
def withEv (set : Bool) : State := base.modCluster 0 fun c => { c with events := [ev0 set] }

theorem test_SyncInstructions :
    (decide (findEv base 0 0 7 = none) && decide (evPlace base 0 0 7 = some none) && decide (findEv (withEv true) 0 0 7 = some (ev0 true)) &&
     decide (findEv (withEv false) 0 0 7 = some (ev0 false)) && decide (evSplit [(1, false), (2, true), (3, true)] = ([1, 2], [(3, true)], true)) &&
     decide (taskOn base 0 = none) && storesDone base 0 && (signalTo (releaseAt base 0 1) 0 0 0 7 1 0).isSome &&
     issues base (iss [.s 1, .s 2, .s 3] (.s 4)) && decide ((base.part 0).sleep = .awake)) = true := by decide +kernel

/-- `base` with `n` entries in its cluster's event table, and `n` records of context 0's overflow area taken. -/
def manyEvents (n : Nat) : State := base.modCluster 0 fun c => { c with
  events := List.replicate n ⟨1, 1, true, 1, [], none⟩ ++ (List.range n).map fun i => ⟨0, 1, true, 1, [], some i⟩ }

theorem evProbe_full (used : List Nat) (h : ∀ i, i < 4096 → i ∈ used) (n i : Nat) : evProbe used i n = none := by
  induction n generalizing i with
  | zero => rfl
  | succ n ih => simp [evProbe, h (i % 4096) (Nat.mod_lt _ (by decide)), ih]

theorem manyEvents_events (n : Nat) : ((manyEvents n).cluster 0).events =
    List.replicate n ⟨1, 1, true, 1, [], none⟩ ++ (List.range n).map fun i => ⟨0, 1, true, 1, [], some i⟩ := rfl

theorem manyEvents_used (n i : Nat) (h : i < n) : i ∈ evUsed (manyEvents n) 0 := by
  refine List.mem_flatMap.2 ⟨(0, (manyEvents n).cluster 0), List.mem_singleton.2 rfl, List.mem_filterMap.2 ⟨⟨0, 1, true, 1, [], some i⟩, ?_, rfl⟩⟩
  rw [List.mem_filter, manyEvents_events]
  exact ⟨List.mem_append_right _ (List.mem_map.2 ⟨i, List.mem_range.2 h, rfl⟩), rfl⟩

/-- With the table and the overflow area full, a signal that needs a record finds no room. -/
theorem test_SyncInstructions_full (n : Nat) (hn : 4096 ≤ n) : signalTo (manyEvents n) 0 0 0 7 1 0 = none := by
  have f : findEv (manyEvents n) 0 0 7 = none := by
    rw [findEv, manyEvents_events, List.find?_eq_none]
    intro e he
    rcases List.mem_append.1 he with he | he
    · simp [List.eq_of_mem_replicate he]
    · obtain ⟨i, -, rfl⟩ := List.mem_map.1 he
      simp
  have l : ¬ (((manyEvents n).cluster 0).events.filter fun e => e.slot.isNone).length < 4096 := by
    rw [manyEvents_events, List.filter_append, List.filter_replicate_of_pos rfl, List.length_append, List.length_replicate]
    omega
  have u : evProbe (evUsed (manyEvents n) 0) (0 * 4099 + 7) 4096 = none := evProbe_full _ (fun i h => manyEvents_used n i (by omega)) _ _
  have c : clOf 0 = 0 := by decide
  simp only [signalTo, evsig, evPlace, c, f, if_neg l, u, Option.map_none, ne_eq, not_true_eq_false, decide_false, Bool.false_and, Bool.false_eq_true, if_false]

theorem test_SyncInstructions_barriers :
    (let bar (n : Nat) : State := base.modCluster 0 fun c => { c with bars := [(63, ⟨0, 2, n, 4⟩)] }
     decide (barId 63 = some (0, 63)) && decide (barId 0x20F = some (2, 15)) && decide (barFind (bar 1) 0 0 63 = some ⟨0, 2, 1, 4⟩) && decide (barFind base 0 2 15 = none) &&
       decide (barFind (bar 0) 0 0 63 = some ⟨0, 2, 0, 4⟩) && decide ((4 : W32) ≠ (3 : W64).setWidth 32) &&
       nextAnd (exec (.bararr d0 ⟨.s 3, .s 1, .v 0, .v 0, 0⟩) ((bar 1).modPart 0 fun p => p.setS 1 63)) (fun t =>
         decide ((t.part 0).getS 3 = 4) && decide (barFind t 0 0 63 = some ⟨0, 2, 0, 5⟩))) = true := by decide +kernel

theorem test_SyncInstructions_waits :
    (let w (c : ICond) : Watch := ⟨0, false, 0, own 0, 4, c, ones64, 0x88, false, 0, true⟩
     accessOk base .read [(own 0, 4)] && decide ((watchesOf base 0).length < 4) && watchTrue base (w .eq) && !watchTrue base (w .ne) &&
       (at_ fun p => { p with latch := true }).cur = 0 && decide (((at_ fun p => { p with sleep := .woken 0 0 }).part 0).sleep = .woken 0 0) && !(base.part 0).latch &&
       decide (((at_ fun p => { p with sleep := .woken 1 0 }).part 0).sleep = .woken 1 0) && !replaysZero base 0 && mayTimeOut base 0 &&
       replaysZero (base.modCluster 0 fun c => { c with logMode := .replay, log := [⟨8, 0, 0, 0, 0⟩] }) 0) = true := by decide +kernel

theorem test_SyncInstructions_lost :
    (let s := base.modCore 0 fun c => { c with spadLost := [0] }
     let u := base.modCore 0 fun c => { c with sbuf := [⟨0, 0, 0, 0, [], [], false, false⟩] }
     isLost s 0 (own 0) && accessOk base .read [(own 0, 8)] && !storesDone u 0 && decide ((List.replicate 4 (⟨0, false, 0, own 0, 4, .eq, 0, 0, false, 0, true⟩ : Watch)).length = 4)) = true := by
  decide +kernel

/-- A timed wait of a part in a spill frame. -/
theorem test_SyncEvents_away :
    (let p : Part := { Part.reset with st := .spilled, sleep := .event 0 0 7 10 0 }
     let s : State := { base with away := [(0, p)], time := 10 }
     mayTimeOut s 3 && decide ((s.away.filter fun a => a.1 = flatOf 3 && a.2.st = .spilled) = [(0, p)]) && limitPassed s 10 0 && !limitPassed { s with time := 9 } 10 0) = true := by
  decide +kernel

theorem test_SyncEvents :
    (let s : State := { at_ fun p => { p with sleep := .event 0 0 7 10 0, damask := { p.damask with period := 1 } } with time := 10 }
     let w : Watch := ⟨0, false, 0, own 0, 4, .eq, ones64, 0x88, true, 0, true⟩
     decide ((s.part 0).sleep = .event 0 0 7 10 0) && mayTimeOut s 0 && limitPassed s 10 0 && !limitPassed { s with time := 9 } 10 0 && !limitPassed s 0 0 &&
       watchTrue { base with watches := [w] } w && decide (dieOf w.home = 0) && decide ((s.part 0).damask.period ≠ 0) && decide ((s.part 0).st ≠ .free ∧ (s.part 0).damask.fired = []) &&
       decide (((s.modPart 0 fun p => { p with damask := { p.damask with fired := [[(3, .reset)]] } }).part 0).damask.fired = [[(3, .reset)]])) = true := by
  decide +kernel

theorem test_DamaskProgramme :
    (let w : W64 := 0x000000000000FF1F ||| 0x80
     decide (taskOn base 0 = none) && issues base (iss [.s 1, .s 2] (.s 3)) && decide (bits w 39 24 = 0 ∧ bits w 6 5 = 0 ∧ bits w 23 8 ≠ 0) && w.getLsbD 7 &&
       decide (bits (0x80FFFF0AFFFFFFFF : W64) 62 56 = 0 ∧ bits (0x80FFFF0AFFFFFFFF : W64) 39 32 ≤ 0x0A) && issues inTask (iss [.s 1, .s 2] (.s 3)) &&
       (taskOn inTask 0).isSome && decide ((((regs 16 0 0 0).part 0).src 0 (.s 1)).toNat = 16) &&
       decide (Damask.reset.fresh = none) && decide (({ Damask.reset with fresh := some (5, [3]) } : Damask).fresh = some (5, [3]) ∧ 4 ∉ [3]) &&
       -- a counter of input 3 at its threshold, and the term that it meets
       (let d : Damask := { Damask.reset with ctrs := Damask.reset.ctrs.set 0 ⟨3, true, 2, 1, 1⟩ }
        decide ((d.count 3).ctrs[0] = ⟨3, true, 2, 0, 2⟩) && decide ((d.count 4).ctrs[0] = ⟨3, true, 2, 1, 1⟩) && (d.term ⟨1, 0, 0, 0, true⟩).2 &&
          (d.term ⟨2, 1, 0, 0, true⟩).2 && !(d.term ⟨2, 0, 0, 0, true⟩).2)) = true := by decide +kernel

/-- A launch of two units on cores 0 and 1, the first started. -/
def launch0 : Launch :=
  { id := 3, ctx := 0, flat := 0, parent := none, queue := none, st := .waking, blk := 0x20000, code := 0x30000, cbank := 0, first := 0, ncore := 2, prio := 0, flags := 0
    event := 0, lcnt := 0x20000, gcnt := 0, pcnt := 0, jcnt := 0, ratio := 0, notify := 0, scope := 2, bank := List.replicate 512 0, units := [0, 1], started := [0]
    exits := 0, added := 0, asks := [] }

theorem test_LaunchInstructions :
    (let s := regs 0x20000 1 0 0
     let c := regs 0x20000 ones64 0 0
     accessOk s .read [(0x20000, 256)] && storesDone s 0 && issues s (iss [.s 1] (.s 4)) && issues c (iss [.s 1, .s 2, .s 3] (.s 4)) && accessOk s .atomic [(0x20000, 8)] &&
       !isLost s 0 0x20000 && !inSpad 0x20000 && !isHostVa s 0 0x20000 && allStopped s [3] &&
       decide (((at_ fun p => { p with sleep := .cancel 5 [3] }).part 0).sleep = .cancel 5 [3]) && !badRatio 0 && !badRatio 0x184 && decide ((base.part 0).launch = none)) = true := by decide +kernel

/-- The state after an access to the line at 0x20000, as the free value for an L2 miss has it. -/
def hotAt (s : State) (miss : Bool) : State :=
  if miss then
    let s1 := keepLeaf s (devFor s 0 0x20000) 0x20000
    { s1 with
      free := s.free + 1
      pages := s1.pages.map fun p =>
        if p.dev = devFor s 0 0x20000 && p.has 0x20000 then
          { p with total := min (p.total + 1) 65535, quad := if p.home / 256 = dieOf 0 then p.quad.set 0 (min (p.quad.getD 0 0 + 1) 255) else p.quad }
        else p }
  else { s with free := s.free + 1 }

theorem hot_eq (s : State) : hot s 0 0x20000 = hotAt s (Config.l2Miss s.free) := by
  have r : regionOf 0x20000 = .shared := by decide
  simp only [hot, r, hotAt]
  rfl

/-- Whether or not the counter's line misses, a CANCEL of a word that no launch names has nothing left to stop. -/
theorem test_LaunchInstructions_cancel :
    let q := cancelWord (releaseAt (regs 0x20000 1 0 0) 0 4) 0 0x20000
    (q.1.part 0).st ≠ .free ∧ (q.1.part 0).sleep ≠ .ending ∧ allStopped q.1 q.2.2 = true := by
  simp only [cancelWord, counterWord, hot_eq]
  cases Config.l2Miss (releaseAt (regs 0x20000 1 0 0) 0 4).free <;> decide +kernel


/-- `base` with a counter of a count of 0x88 and a target at 0x20000. -/
def counterAt (target : Nat) : State := { base with mem := memWriteBytes base.mem 0x20000 (bytesOf 8 (target * 2 ^ 31 + 0x88)) }

/-- 0x88 without a target is not done; under a target of 0x89 it is, with one add. -/
theorem test_LaunchInstructions_counter :
    (counterWord (counterAt 0) 0 0x20000).2 = 0x88 ∧ (counterWord (counterAt 0x89) 0 0x20000).2 = 0x89 * 2 ^ 31 + 0x88 := by
  simp only [counterWord, hot_eq]
  constructor
  · cases Config.l2Miss (counterAt 0).free <;> decide +kernel
  · cases Config.l2Miss (counterAt 0x89).free <;> decide +kernel

theorem test_LaunchEvents :
    (let s := { base with launches := [launch0] }
     let x := s.modDev 0 fun d => { d with withdrawn := [.tile 1] }
     let a := { base with adds := [⟨0, 0, 0, [0x20000], 1, none⟩] }
     a.adds.all (·.ready a) && (let c := cutFrom a; c.adds.all fun x => !x.ready c) && decide (launchOf s 3 = some launch0) && decide (launch0.units[1]? = some 1) && !launch0.started.contains 1 && !coreGone s (launch0.flag 4) 1 &&
       coreGone x (launch0.flag 4) 1 && ((List.range launch0.units.length).any fun i => launch0.units[i]? = some 1 && !launch0.started.contains i) &&
       !counterBad { a with adds := [] } ⟨0, 0, 0⟩ .atomic 0x20000) = true := by decide +kernel

theorem test_LaunchEvents_grant :
    (let s := base.modDev 0 fun d => { d with cap := 1200 }
     decide (bestGrant s 0 ≠ (s.dev 0).grant) && decide ((s.dev 0).granted = none) && decide (s.launches = [])) = true := by decide +kernel

/-- `base` with a work queue. -/
def withWq (st : WqState) (items : List (W64 × Nat)) : State := base.modDev 0 fun d => { d with wqs := [(0, ⟨st, 0, 0x20000, 1, 0, items, 2, [], []⟩)] }

theorem test_WorkQueues :
    (decide (taskOn base 0 = none) && decide ((base.part 0).sleep = .awake) && decide (replayNext base 0 0 3 = none) && decide (mfind (base.dev 0).wqs 255 = none) &&
     issues base { h := d0, reads := rds [.s 1], writes := wr (.s 3) none ++ [(.p 1, none)] } && issues base (iss [.s 1, .s 2] (.s 3)) && storesDone base 0 &&
     ([(WqState.opened, [(5, 2)]), (.drained, []), (.closed, []), (.opened, [(5, 2), (6, 2)])].all fun x =>
       decide (mfind ((withWq x.1 x.2).dev 0).wqs 0 = some ⟨x.1, 0, 0x20000, 1, 0, x.2, 2, [], []⟩)) &&
     nextAnd (exec (.pop d0 ⟨.s 3, .s 1, .v 0, .v 0, 1⟩) (withWq .opened [(5, 2)])) (fun t => decide ((t.part 0).getS 3 = 5 ∧ (t.part 0).getP 1 = ones64))) = true := by
  decide +kernel

theorem test_SpecialRegisters :
    (let s := regs 5 0 0 0
     decide (srRead s 0 0x001 = some 0) && decide (srRead s 0 0x3FF = none) && decide ((s.part 0).srWrite 0 0x3FF 0 = none) && (((s.part 0).srWrite 0 0x013 9).isSome) &&
       issues s { h := d0, writes := wr (.s 2) (some 1) } && issues s { h := d0, writes := wr (.s 2) none } && issues s { h := d0, reads := rds [.s 1], keepPass := false } &&
       decide (((5 : W64) &&& 7).toNat > 4) && decide (((12 : W64) &&& 7).toNat ≤ 4) && decide (idxOf 3 = 3) && decide (idxOf 0 ≠ 3) &&
       nextAnd (exec (.mfs d0 ⟨.s 2, .v 0, 0x006⟩) s) (fun t => decide ((t.part 0).getS 2 = 0)) &&
       nextAnd (exec (.mts d0 ⟨.none, .s 1, 0x011⟩) s) (fun t => decide ((t.part 0).fpflags = 5))) = true := by decide +kernel

theorem test_ConvergeAndExit :
    (let f (m : FMode) : State := at_ fun p => { p with fmode := m }
     let i : Iss := { h := d0, reads := rds [.s 1, .s 2] }
     let met (m : Nat) : Bool := alignMet (base.modPart 0 fun p => { p with sleep := .align p.pc m }) 0 0x10000 m
     issues base i && issues (f .following) i && issues (f .leading) { h := d0 } && issues (f .following) { h := d0, q := some ⟨false, 0⟩ } && issues base { h := d0 } &&
       decide (((at_ fun p => { p with sleep := .woken 0 0 }).part 0).sleep = .woken 0 0) && decide ((base.part 0).sleep = .awake) && met 1 &&
       decide ((base.part 0).fmode = .free ∧ (base.part 0).fwdNow = none) &&
       ((at_ fun p => { p with fwdNow := some ⟨0, 0x10000, 0x10002, 0x10002, .nop d0⟩ }).part 0).fwdNow.isSome &&
       decide (posOf (flatOf 0) = 0) && decide ((1 : Nat) ≠ posOf (flatOf 0))) = true := by decide +kernel

theorem test_IssueEvents :
    (let j := (at_ fun p => { p with fmode := .joining, sleep := .align 0x10000 3 })
     let f : Fwd := ⟨0, 0x10000, 0x10002, 0x10002, .nop d0⟩
     let t := at_ fun p => { p with fmode := .following, twill := [f] }
     let w (n : Nat) := (at_ fun p => { p with fbuf := [⟨0x10000, some 0⟩], waitCount := n }).setPart 3 { Part.reset with st := .resident, fbuf := [⟨0, some 0⟩] }
     decide ((j.part 0).fmode = .joining) && decide ((j.part 0).sleep = .align 0x10000 3) && decide ((t.part 0).twill ≠ []) && decide (chooseLogged (coreCc t 0) 0 = some 0) && decide (chooseLogged (coreCc base 0) 0 ≠ some 1) &&
       decide ((base.dev 0).boot ≠ 3) && decide (oldestFetch (at_ fun p => { p with freq := [(0x10000, 4)] }) 0 = some (0, 0x10000, 4)) &&
       eligible (w 0) 0 && eligible (w 0) 3 && decide (choose (w 0) 0 = some 3) && decide (choose (w 128) 0 = some 0) && decide (choose base 0 = none) && decide (((w 0).core 0).last < 3 ∧ ((w 0).core 0).dRun < 3 ∧ ((w 0).core 0).yielded = none) &&
       decide (choose ((w 0).modCore 0 fun c => { c with yielded := some 3 }) 0 = some 0)) = true := by
  decide +kernel

theorem test_IssueEvents_cc :
    (let w := at_ fun p => { p with blocked := some base.epoch }
     decide (base.sel ≠ some 0) && decide (({ base with issued := true } : State).sel ≠ some 0) && decide (w.issued = false ∧ (w.part 0).blocked = some w.epoch) &&
       decide ((base.part 0).fwdNow = none ∧ (base.part 0).twill = []) && decide (oldestFetch base 0 = none)) = true := by decide +kernel

theorem test_IssueEvents_image :
    (let key := (homeKey base 0 0x20000).getD 0
     let l : Launch := { launch0 with image := ⟨memWrite base.mem key 7, [], base.pages, []⟩ }
     let s : State := { (at_ fun p => { p with launch := some l.id }) with launches := [l] }
     let t := l.image.on s
     decide (launchOf s l.id = some l) && decide (homeKey t 0 0x20000 ≠ none) && decide (vaId s 0 0x20000 ∉ l.own) &&
       decide ((readLine s 0 0x20000).map (·.toNat % 256) = some 7) && decide ((readLine base 0 0x20000).map (·.toNat % 256) = some 0x88)) = true := by decide +kernel

/-- A reply table of one slot. -/
def slotOf (st : Option Nat) : State := (regs 7 0 0 0).modPart 0 fun p => { p with replies := [⟨7, 0, st.map fun n => (n, 9, 4, 2)⟩] }
/-- Partition D of core 0 runs a handler. -/
def inHandler (rp : Bool) : State :=
  { (base.setPart 3 { Part.reset with st := .resident, npc := 2 }).modCore 0 (fun c => { c with dmsg := some { msg0 with task := false, rp } }) with cur := 3 }

theorem test_MessageInstructions :
    (let i := iss [.s 1, .s 2, .v 3, .s 4] (.s 5)
     let w : Iss := { h := d0, reads := rds [.s 1], writes := wr (.s 5) none ++ wr (predDst (.s 1)) none }
     let full : State := { inHandler false with net := List.replicate 16 { msg0 with task := false, src := 0 } }
     decide (taskOn base 0 = none) && storesDone base 0 && issues base i && decide ((base.part 0).replies = []) && decide (outbound base 0 < 16) &&
       decide (16 ≤ outbound full 0) && issues full i && storesDone full 3 && decide (taskOn full 3 = none) && issues (inHandler true) { h := d0, reads := rds [.s 1] } &&
       ((inHandler true).part 3).drained && storesDone (inHandler true) 3 && issues base { h := d0, reads := [] } && issues base w && issues (slotOf (some 0)) w &&
       ((slotOf (some 0)).part 0).replies.any (fun x => x.tag = (7 : Half)) &&
       ([0, 1, 5].all fun st => decide (((slotOf (some st)).part 0).replies.find? (fun x => x.tag = ((7 : W64)).setWidth 16) = some ⟨7, 0, some (st, 9, 4, 2)⟩)) &&
       !(0 : BitVec 8).getLsbD 0 && (1 : BitVec 8).getLsbD 0) = true := by decide +kernel

theorem test_MessageInstructions_amret :
    ([true, false].all fun rp =>
      let u := streamsAcquired (inHandler rp) 3
      ((inHandler rp).part 3).drained && decide (idxOf 3 = 3) && (u.core 0).dmsg.any (fun x => x.rp = rp) && storesDone u 3 && issues (inHandler rp) { h := d0, reads := [] } &&
        (List.finRange 8).all fun r => decide ((((inHandler rp).part 3).streams[r]).state = .unbound)) = true := by decide +kernel

theorem test_MessageEvents :
    (let m (h : W64) : Msg := { msg0 with task := false, handler := h, args := [1, 0, 0, 0] }
     let s (m : Msg) : State := { base with net := [m] }
     firstOfLane (s (m 0x100)) 0 && (base.ctx 0).live && inPartition base 0 && !inPartition base (2 ^ 31) && !(base.ctx 5).live && decide ((m 0x08).arg 2 = 0) &&
       decide (fateOf (takeMsg (s (m 0x100)) 0) 0 0 = .live) && decide (fateOf (takeMsg (s (m 0x100)) 0) 1 0 = .exited) && !inboxHolds (takeMsg (s (m 0x100)) 0) 0 0 &&
       { m 0x100 with cls := 1, bnc := false }.isReply && decide (base.placed 0 0 = some 0) &&
       nextAnd (exec (.messageArrival 0) (s (m 0x100))) (fun t => decide ((t.core 0).dq = [m 0x100] ∧ t.net = [])) &&
       nextAnd (exec (.handlerStart 0) (base.modCore 0 fun c => { c with dq := [m 0x100] })) (fun t =>
         decide ((t.part 3).pc = 0x100 ∧ (t.part 3).getS 4 = 1 ∧ (t.core 0).dq = [])) &&
       decide (fateOf base 0 0 = .live) && decide (fateOf base 3 0 = .exited) && decide (((inHandler false).core 0).dmsg ≠ none)) = true := by decide +kernel

/-- The built-ins: a COPYACK at a halted cluster, and one at a cluster that runs; a STORE whose home cannot be reached, and one whose can. -/
theorem test_MessageEvents_builtin :
    (let m (h : W64) (a : List W64) : Msg := { msg0 with task := false, handler := h, args := a }
     let s (m : Msg) : State := { base with net := [m] }
     let st := m 0x10 [0x20000, 3, 5, 0]
     ((haltCluster (takeMsg (s (m 0x20 [0, 1, 0, 0])) 0) 0).cluster 0).halted && !((takeMsg (s (m 0x20 [0, 1, 0, 0])) 0).cluster 0).halted &&
       decide ((m 0x20 [0, 1, 0, 0]).arg 2 = 0 ∧ (m 0x20 [0, 1, 0, 0]).arg 3 = 0 ∧ st.arg 1 < 4 ∧ st.arg 0 % 2 ^ st.arg 1 = 0 ∧ st.arg 3 = 0) &&
       engineCut (takeMsg (cutFrom (s st)) 0) 0 0x20000 8 && !engineCut (takeMsg (s st) 0) 0 0x20000 8 && firstOfLane (cutFrom (s st)) 0 &&
       decide (100000 ≤ since { base with ftime := 100000 } 0) && ((inHandler false).core 0).dmsg.isSome) = true := by decide +kernel

/-- A copy of eight bytes inside the slice. -/
def creq0 (src : W64) : CReq :=
  { id := 1, pc := 0x10000, kind := .copy, st := .running, src, dst := own 0x100, ew := 8, rows := 1, cols := 1, x0 := 0, y0 := 0, w := 1, h := 1
    sstride := 8, dstride := 8, clip := false, len := 0, mask := 0, slot := 0, scope := 1, ack := 0, home := none, broken := none }
def withReq (r : CReq) : State := modChan base 0 0 fun c => { c with next := 2, reqs := [r] }
/-- A slot of the holding buffer with 64 bytes for core 0. -/
def hb0 (parked : Bool) : HbSlot := ⟨parked, false, 0, 0, 1, 1, List.replicate 64 3⟩

theorem test_CopyInstructions :
    (let s := regs (own 0) (own 0x100) (1 + 2 ^ 12) 0
     let o : OpE := ⟨.s 5, .s 1, .s 2, .s 3, .v 0, .v 0, 0, some 3⟩
     let r := copyReq (s.part 0) o
     !r.bad ((s.part 0).src 3 (.s 3)) && decide (r.src.toNat % r.ew = 0 ∧ r.dst.toNat % r.ew = 0) && decide (mailboxUsed s 0 < 64) &&
       (piecesOf r.src r.ew).all (fun r => decide (regionOf r.1 ≠ .nonCanon ∧ regionOf r.1 ≠ .window)) && decide (taskOn s 0 = none) && storesDone s 0 &&
       issues s (iss [.s 1, .s 2, .s 3, .s 4] (.s 5)) && !inSpad 0x20000 && decide (regionOf (own 0x100) = .spad true 0 0x100) &&
       (hbGrant (base.modCtx 0 fun c => { c with hbgrants := [(0, 3)] }) 0 0).getLsbD 1 && decide (mfind (base.cluster 0).hb 1 = none)) = true := by decide +kernel

theorem test_CopyInstructions_waits :
    (let c (rs : List CRec) : State := modChan (regs 1 (own 0) 0 0) 0 0 fun c => { c with next := 3, recs := rs }
     let x : CRec := ⟨1, 3, 1, 0, 0⟩
     let h : State := (regs 2 (own 0) 0 0).modCluster 0 fun c => { c with hb := [(2, hb0 true)] }
     decide (((c []).part 0).chans[0].done = 3) && issues (c []) (iss [.s 1] (.s 5)) && decide (((c [x]).part 0).chans[0].recs.find? (fun x => x.id ≤ 1) = some x) &&
       decide ((base.part 0).rpNext = 1 ∧ (base.part 0).rpDone = 1) && decide (mfind (h.cluster 0).hb 2 = some (hb0 true)) && !bufOverlaps h 0 (own 0) 64 && decide ((h.part 0).hbWait = none) &&
       decide (((h.modPart 0 fun p => { p with hbWait := some (2, true) }).part 0).hbWait = some (2, true)) &&
       accessOk h .write [(own 0, 64)] && issues h (iss [.s 1, .s 2] (.s 5)) && decide (mfind (h.cluster 0).hb 3 = none) &&
       (let m := base.modCore 0 fun c => { c with mailbox := [⟨0, 0, 5⟩] }
        decide ((m.core 0).mailbox.find? (fun e => e.ctx = (m.part 0).ctx) = some ⟨0, 0, 5⟩) && !(m.part 0).bound 4 &&
          issues m { h := d0, writes := wr (.v 4) none ++ wr (predDst (.s 1)) none }) &&
       nextAnd (exec (.cpywait d0 ⟨.s 5, .s 1, .v 0, .v 0, .v 0, .v 0, 0, none⟩) (c [])) (fun t => decide ((t.part 0).getS 5 = 3))) = true := by decide +kernel

theorem test_CopyEvents :
    (let r := creq0 (own 0)
     let b := creq0 0x0100000000000000
     let far := { r with dst := 0x0100000000000000 }
     let q := withReq { r with st := .queued }
     let p := { r with kind := .park, src := own 0, len := 64, mask := 1, slot := 2 }
     let h := (withReq p).modCluster 0 fun c => { c with hb := [(2, hb0 false)] }
     let w := whoOf base 0
     !(q.cluster (clOf (flatOf 0))).halted && decide (((q.part 0).chans[0]).reqs = [{ r with st := .queued }]) && decide (runningHead (withReq r) 0 0 = some r) &&
       decide (r.broken = none ∧ r.ack < r.count) && decide (({ r with ack := 1 } : CReq).count ≤ 1) && decide (copyReady (withReq r) w r = [0]) &&
       decide (copyReady (withReq b) w b = []) && decide (copyStop (withReq r) w r = none) && (copyStop (withReq b) w b).isSome && (copyStop (withReq r) w { r with broken := some 0 }).isSome &&
       okAnd (copyCheck (withReq r) w r 0) (fun s => decide (memRead (moveElem s w r 0).mem (spadKey 0 0x100) = 0x88)) && errAnd (copyCheck base w b 0) (fun e => decide (e.2 = 0)) &&
       errAnd (copyCheck base w far 0) (fun e => decide (e.2 = 1)) && okAnd (engineCheck base w .read (own 0) 8) (fun _ => true) &&
       decide (dieOf (({ r with home := some 256 } : CReq).home.getD 0) ≠ dieOf 0) && decide (dieOf (r.home.getD 0) = dieOf 0) &&
       decide (parkOf h 0 2 = some (0, 0, p)) && decide (mfind (h.cluster 0).hb 2 = some (hb0 false)) &&
       decide (((copyFinish h 0 0 p).cluster 0).hb = [(2, hb0 false)]) &&
       (readLines h w (fun s _ _ => s) (fillLines (own 0) 64)).2.isNone && (readLines h w (fun s _ _ => s) (fillLines 0x0100000000000000 64)).2.isSome) = true := by
  decide +kernel

/-- Eight elements of eight bytes: as many as the granule of the first takes; a park whose pin is broken, and one whose source cannot be reached. -/
theorem test_CopyEvents_batch :
    (let r : CReq := { creq0 (own 0) with cols := 8, w := 8, sstride := 64, dstride := 64 }
     let p : CReq := { creq0 (own 0) with kind := .park, src := 0x20000, len := 64, mask := 1, slot := 2 }
     let h (p : CReq) (s : State) := (modChan s 0 0 fun c => { c with next := 2, reqs := [p] }).modCluster 0 fun c => { c with hb := [(2, hb0 false)] }
     decide (r.count = 8) && decide (copyReady (withReq r) (whoOf base 0) r = [0, 1, 2, 3]) && decide (runningHead (withReq r) 0 0 = some r) &&
       decide (({ r with kind := .fill, mask := 0, st := .queued } : CReq).mask = 0) &&
       decide (parkOf (h { p with broken := some 0 } base) 0 2 = some (0, 0, { p with broken := some 0 })) && decide (parkOf (h p (cutFrom base)) 0 2 = some (0, 0, p)) &&
       engineCut (h p (cutFrom base)) 0 0x20000 64 && !engineCut (h p base) 0 0x20000 64) = true := by decide +kernel

theorem test_TransferInstructions :
    (let s := regs 1 (own 0) 0 64
     issues s (iss [.s 1, .s 2, .s 3, .s 4, .v 0] (.s 5)) && decide ((s.part 0).xfers.length < 32) && storesDone s 0 && decide (taskOn s 0 = none) &&
       (piecesOf (own 0) 1).all (fun r => decide (regionOf r.1 ≠ .nonCanon ∧ regionOf r.1 ≠ .window)) &&
       (let p := (releaseAt s 0 4).part 0
        (p.spend 6).isNone && (Part.spend { p with damask := { p.damask with credits := p.damask.credits.set 6 1 } } 6).isSome) &&
       issues s (iss [.s 1] (.s 5)) && issues inTask (iss [.s 1] (.s 5)) && (taskOn inTask 0).isSome &&
       (let x := s.modPart 0 fun p => { p with rpNext := 3 }
        decide (1 < (x.part 0).rpNext) && decide (xferOf x 0 1 = none)) &&
       nextAnd (exec (.grantp d0 ⟨.s 5, .s 1, .v 0, .v 0, .v 0, .v 0, 0, none⟩) (regs 3 0 0 0)) (fun t => decide ((t.part 0).getS 5 = 0 ∧ (t.part 0).rxpri = 3)) &&
       nextAnd (exec (.rput d0 ⟨.s 5, .s 1, .s 2, .s 3, .s 4, .v 0, 0, none⟩) s) (fun t => decide ((t.part 0).getS 5 = 1 ∧ (t.part 0).xfers.map (·.len) = [64]))) = true := by
  decide +kernel

/-- A transfer of 64 bytes from the slice to core 1, and its entry in the die's Tabla. -/
def xfer0 (st : XState) : Xfer :=
  { id := 1, pc := 0x10000, dest := 1, src := own 0, dst := 0xFFFFFFFFF0080000, len := 64, sig := none, st, announced := true, ack := 0, tok := 64, tokId := 1, notes := [], owes := false
    broken := none }
def tent0 : TEnt := ⟨0, 0, 1, 1, 64, 0, true, none, 0, 0, 0⟩
def withXfer (x : Xfer) (t : Option TEnt) : State :=
  let s := base.modPart 0 fun p => { p with rpNext := 2, xfers := [x] }
  -- the receiving part, with its own slice
  let s := s.setPart 4 { Part.reset with st := .resident, pc := 0x10000 }
  (s.modCtx 0 fun c => { c with spr := [(0, 0, 0x80000), (1, 0, 0x80000)] }).modDie 0 fun d => { d with tabla := t.toList }

theorem test_TransferEvents :
    (let s := withXfer { xfer0 .requested with announced := false } none
     let e := withXfer { xfer0 .requested with announced := false, dest := 9 } none
     let tok (first : Bool) : TEnt := { tent0 with token := some (1, 0, first), issued := 1 }
     let b := { xfer0 .sending with src := 0x0100000000000000 }
     let x := { xfer0 .prefixed with notes := [.token 1 64] }
     decide (fateOf s 1 0 = .live) && !tablaFull s (xfer0 .requested) && decide (fateOf e 9 0 = .exited) && decide ((xfer0 .sending).due ≠ 0 ∧ (xfer0 .sending).broken = none) &&
       decide (tentOf (withXfer (xfer0 .sending) (some tent0)) 0 (xfer0 .sending) ≠ none) &&
       (let r := xferMove (withXfer (xfer0 .sending) (some tent0)) 0 (xfer0 .sending) 4096
        decide (r.2.1 = 64 ∧ r.2.2 = none ∧ memRead r.1.mem (spadKey 1 0) = 0x88)) &&
       (xferMove (withXfer b (some tent0)) 0 b 1).2.2.isSome &&
       decide (xferOf (withXfer x (some tent0)) 0 1 = some x) && sends (withXfer x (some tent0)) 0 && !sends ((withXfer x none).modPart 0 fun p => { p with st := .preempted }) 0 &&
       decide (x.ack < x.len) && decide (tentOf (withXfer x none) 0 x = none) &&
       decide (({ xfer0 .granted with notes := [.expiry 1] } : Xfer).final = false ∧ (xfer0 .granted).tokId = 1) &&
       decide (({ tent0 with ack := 64 } : TEnt).ack = (xfer0 .prefixed).len) && decide (({ xfer0 .prefixed with notes := [.gone] } : Xfer).notes.contains .gone) &&
       decide (({ xfer0 .prefixed with broken := some 3 } : Xfer).broken = some 3) &&
       tent0.eligible (withXfer (xfer0 .prefixed) (some tent0)) && decide ((withXfer (xfer0 .prefixed) (some tent0)).placed 0 0 ≠ none) &&
       ({ tent0 with src := 2 } : TEnt).eligible (withXfer (xfer0 .prefixed) none) && decide ((withXfer (xfer0 .prefixed) none).placed 2 0 = none) &&
       decide ((tok false).token = some (1, 0, false)) && decide (since { base with ftime := 50000 } 0 ≥ 50000) && decide (since base 0 < 50000) &&
       decide (tent0.token = none ∧ tent0.prefixed = true) && decide (1000000 ≤ since { base with ftime := 1000000 } 0) &&
       decide ((tent0.prio { withXfer (xfer0 .prefixed) (some tent0) with ftime := 600000 }) = 3) &&
       nextAnd (exec (.tokenGrant 0) (withXfer (xfer0 .prefixed) (some tent0))) (fun t => decide ((t.die 0).tabla.map (·.token) = [some (1, 0, false)]))) = true := by decide +kernel

/-- A transfer of a part that is in a spill frame. -/
theorem test_TransferEvents_away :
    (let p : Part := { Part.reset with st := .spilled, rpNext := 2, xfers := [xfer0 .sending] }
     let s : State := { base with away := [(0, p)] }
     decide (s.away[0]? = some (0, p)) && decide (p.st ≠ .created) && decide (1 < 2 ^ 48) && decide (xferOf (s.setPart 3 p) 3 1 = some (xfer0 .sending))) = true := by decide +kernel

/-- Region 3 of the cluster, of two leaves from 8, granted to context 0 with leaves 0 to 63. -/
def region0 (table : Bool) : TreeRegion :=
  { lbase := 8, log2n := 1, regid := 5, clk := 0, ec := 0, seed := 1, table, tbase := own 0, tcount := 2, tec0 := 0 }
def withTree (r : Option TreeRegion) (leaves : Map Nat) (a b c : W64) : State :=
  ((regs a b c 0).modCtx 0 fun x => { x with egrants := [(0, 8, 0, 64)] }).modCluster 0 fun x => { x with regions := (r.map fun r => (3, r)).toList, leaves }

theorem test_TreeInstructions :
    (let s := withTree (some (region0 false)) [(8, 0x3F800000), (9, 0x40000000)] 3 1 0x3F800000
     let c := s.cluster 0
     (egrantOf s 0 0).1.getLsbD 3 && !(egrantOf s 0 0).1.getLsbD 4 && decide (mfind c.regions 3 = some (region0 false)) && decide (taskOn s 0 = none) &&
       issues s (iss [.s 1, .s 2] (.s 5)) && issues s (iss [.s 1, .s 2, .s 3] (.s 5)) && issues s { h := d0, reads := rds [.s 1, .s 2] } &&
       decide ((region0 false).node c 1 ≠ 0) && decide ((region0 false).node (base.cluster 0) 1 = 0) && !badRate 0x3F800000 && badRate 0x7FC00000 &&
       !badRate (addF fmt32 rcRNE 0x40000000 0x3F800000).code && decide ((base.part 0).damask.credits[7] = 0) && decide ((0 : BitVec 8).getLsbD 1 = false) &&
       (let t := withTree (some (region0 true)) [] 3 0 0
        decide (mfind (t.cluster 0).regions 3 = some (region0 true)) && decide (2 * ((region0 true).ec - (region0 true).tec0).toNat + 1 < (region0 true).tcount) &&
          accessOk t .read [(own 0, 8)] && decide (lostRead t (whoOf t 0) [(own 0, 8)] = none) && decide (forwardOf t 0 (bytesAt (own 0) 8) = .none)) &&
       (let q := at_ fun p => { p with damask := { p.damask with credits := p.damask.credits.set 7 1 } }
        decide ((q.part 0).damask.credits[7] ≠ 0)) && (0x02 : BitVec 8).getLsbD 1 &&
       (let w := 5 + 65536 + 8 * 2 ^ 32
        decide (w / 2 ^ 48 = 0 ∧ w / 2 ^ 21 % 2 ^ 11 = 0 ∧ w / 65536 % 32 = 1 ∧ w / 2 ^ 32 % 65536 = 8)) && decide (regionOf (own 8) ≠ .nonCanon ∧ regionOf (own 8) ≠ .window) &&
       !(decodeF fmt64 ((s.part 0).srcT (.flt fmt64) (.s 3))).isNan && (decodeF fmt64 0x7FF8000000000000).isNan &&
       nextAnd (exec (.esum d0 ⟨.s 5, .s 1, .s 2, .v 0, .v 0, .v 0, 0, none⟩) s) (fun t => decide ((t.part 0).getS 5 = 0x4008000000000000))) = true := by decide +kernel

theorem test_TaskInstructions :
    (let s := regs 0x3FF0000000000000 0x100 0 0
     let i := iss [.s 1, .s 2, .v 3, .s 4, .s 0] (.s 5)
     let e : Iss := { h := d0, writes := wr (.s 5) none }
     let sl (z : Sleep) : State := at_ fun p => { p with sleep := z }
     issues s i && issues s e && issues s (iss [.s 1, .s 2] (.s 5)) && decide (taskOn s 0 = none) && storesDone s 0 && decide ((sl (.woken 1 0)).part 0 = { base.part 0 with sleep := .woken 1 0 }) &&
       nan64 0x7FF8000000000000 && !nan64 0x3FF0000000000000 && decide ((BitVec.ofNat 128 5) ≠ BitVec.allOnes 128) && decide (nextTask s 0 = none) &&
       decide (taskOn inTask 0 = some task0) && issues inTask e && issues inTask { h := d0 } && !irrevocable inTask task0 &&
       (let w := inTask.modPart 0 fun p => { p with sleep := .woken 1 0 }
        decide (taskOn w 0 = some task0) && issues w e) && decide ((s.ctx 0).gvt = BitVec.allOnes 128) && !(base.part 0).inTrap && !(base.part 0).inUp &&
       (let c := s.modCtx 0 fun x => { x with gvt := 5 }
        decide (5 < (0x3FF0000000000000 : W64).toNat * 2 ^ 64) && decide ((c.ctx 0).gvt ≠ BitVec.allOnes 128)) &&
       nextAnd (exec (.tkey d0 ⟨.s 5, .v 0, .v 0, .v 0, .v 0, .v 0, 0, none⟩) inTask) (fun t => decide ((t.part 0).getS 5 = 5)) &&
       nextAnd (exec (.tend d0 ⟨.s 5, .v 0, .v 0, .v 0, .v 0, .v 0, 1, none⟩) s) (fun t => decide ((t.part 0).getS 5 = 0))) = true := by decide +kernel

theorem test_TaskEvents :
    (let s : State := { base with net := [msg0] }
     let bad : Msg := { msg0 with handler := 0x101 }
     let p : Task := { task0 with state := .pending }
     let d : State := { (at_ fun p => { p with sleep := .task false }) with tasks := [p], taskSeq := 1 }
     decide (s.net[0]? = some msg0) && firstOfLane s 0 && decide (msg0.reject s = none) && (bad.reject { base with net := [bad] }).isSome && decide (fateOf (takeMsg s 0) 0 0 = .live) &&
       decide ((taborOf (takeMsg s 0) 0).length < 256) && decide (fateOf (takeMsg s 0) 9 0 = .exited) && decide (nextTask d 0 = some p) &&
       decide ((d.part 0).sleep = .task false ∧ (d.part 0).st = .resident) && decide (minKey d 0 = 5) && decide (minKey base 0 = BitVec.allOnes 128) &&
       nextAnd (exec (.taskArrival 0) s) (fun t => decide (t.tasks.map (·.msg.key) = [5] ∧ t.net = []))) = true := by decide +kernel

/-- In replay, a message whose key stands in its Tabor waits for its turn; a full Tabor. -/
theorem test_TaskEvents_tie :
    (let s : State := { base with net := [msg0], tasks := [{ task0 with state := .pending }] }
     let f : State := { base with net := [msg0], tasks := (List.range 256).map fun i => { task0 with id := i, state := .pending } }
     let u := taborRefill (clOf 0) 256 (takeMsg f 0)
     tieTurn s msg0 && !tieTurn (s.modCluster 0 fun c => { c with logMode := .replay, log := [⟨5, 0, 0, 0, 9⟩] }) msg0 && decide (replayNext s 0 0 5 = none) &&
       decide (256 ≤ (taborOf u 0).length) && (lastTask (taborOf u 0)).isSome) = true := by decide +kernel

/-- A descriptor of an all-reduce of eight FP32 values in the slice, and the group of device 0 alone. -/
def gdesc0 : GDesc := { op := 0, red := 0, typ := 8, gidx := false, count := 8, root := 0, total := 0, base := 0, src := own 0, dst := own 0x100 }
def gent0 (broken : Bool) : GEnt := ⟨0, 1, 0, 0, 0, broken, 0⟩
def coll0 (st : GState) (ticket : Option Nat) (reason : Nat) : Coll :=
  { gid := 7, seq := 1, flat := 0, ctx := 0, pc := 0x10000, d := gdesc0, arrival := false, st, ticket, reason, slot := 0, taken := false, asked := false, faulted := false, broken := false }
def gcoll0 (st : GcState) (notes : List (Nat × GNote)) : GColl :=
  { gid := 7, seq := 1, st, posts := [(0, gdesc0, false)], notes, asks := [], data := [(0, List.replicate 32 0)], seed := 0 }
def withColl (s : State) (c : Option Coll) (g : Option GColl) : State :=
  { s.modDev 0 fun d => { d with groups := [(7, gent0 false)], colls := c.toList } with groups := [⟨7, 0, [0], 0, 0⟩], gcolls := g.toList }

theorem test_CollectiveInstructions :
    (let s := withColl (regs 7 (own 0x40) (7 + 2 ^ 32) 0) (some (coll0 .complete (some 9) 0)) none
     let j := iss [.s 3] (.s 5)
     let a := own 0x40
     let bs := bytesOf 1 gdesc0.op ++ bytesOf 1 gdesc0.red ++ bytesOf 1 gdesc0.typ ++ bytesOf 1 0 ++ bytesOf 4 8 ++ List.replicate 24 0
     decide (taskOn s 0 = none) && storesDone s 0 && decide (mfind (s.dev 0).groups 7 = some (gent0 false)) && decide (mfind (s.dev 0).groups 8 = none) && issues s j &&
       issues s (iss [.s 1, .s 2] (.s 5)) && decide (a.toNat % 64 = 0) && accessOk s .read [(a, 64)] && decide ((gdescOf bs).op = 0 ∧ (gdescOf bs).count = 8) &&
       decide (gcollOf s 7 1 = none) && decide (gcollOf (withColl base none (some (gcoll0 .gathering []))) 7 1 = some (gcoll0 .gathering [])) &&
       ([coll0 .complete (some 9) 0, coll0 .cancelled none 2, coll0 .cancelled none 3, coll0 .posted none 0, coll0 .ticketed (some 9) 0].all fun c =>
         decide ((collsOf (withColl base (some c) none) 0 0).find? (fun c => c.gid = 7 && c.seq = (7 + 2 ^ 32) / 2 ^ 32) = some c)) &&
       nextAnd (exec (.gtkt d0 ⟨.s 5, .s 3, .v 0, .v 0, .v 0, .v 0, 0, none⟩) s) (fun t => decide ((t.part 0).getS 5 = 9)) &&
       nextAnd (exec (.gstat d0 ⟨.s 5, .s 1, .v 0, .v 0, .v 0, .v 0, 1, none⟩) s) (fun t => decide ((t.part 0).getS 5 = 2 ^ 38 + 65536))) = true := by decide +kernel

theorem test_CollectiveInstructions_handles :
    (let s := withColl (regs 7 (own 0x40) (7 + 2 ^ 32) 0) (some (coll0 .complete (some 9) 0)) none
     decide (groupAt s 0 7 = some (0, gent0 false)) && decide (groupAt base 0 7 = none) && decide ((s.part 0).under = none) && s.devs.all (fun d => decide (d.2.routedTo ≠ some 0)) &&
       decide (groupDevs s 0 = [0]) && decide ((collsAt base 0 0).find? (fun c => c.2.gid = 7 && c.2.seq = 1) = none) &&
       ([coll0 .complete (some 9) 0, coll0 .cancelled none 2, coll0 .cancelled none 3, coll0 .posted none 0, coll0 .ticketed (some 0) 0].all fun c =>
         decide ((collsAt (withColl base (some c) none) 0 0).find? (fun c => c.2.gid = 7 && c.2.seq = (7 + 2 ^ 32) / 2 ^ 32) = some (0, c)))) = true := by decide +kernel

theorem test_CollectiveInstructions_post :
    (let fields : List Byte := bytesOf 1 gdesc0.op ++ bytesOf 1 gdesc0.red ++ bytesOf 1 gdesc0.typ ++ bytesOf 1 0 ++ bytesOf 4 8 ++ bytesOf 16 0 ++ bytesOf 8 (own 0).toNat ++
       bytesOf 8 (own 0x100).toNat ++ bytesOf 24 0
     let s := withColl (withBytes 0x40 fields 7 (own 0x40) 0 0) none none
     let bs := (bytesAt (own 0x40) 64).map (loadByte (prepLines s (whoOf s 0) (linesOf (own 0x40) 64).dedup) (whoOf s 0))
     let d := gdescOf bs
     decide (d = gdesc0) && !d.bad bs 1 && decide (d.op ≠ 4 ∧ d.op ≠ 1) && decide ((s.dev 0).colls.length < 64) && decide (d.src.toNat % d.width = 0 ∧ d.dst.toNat % d.width = 0) &&
       issues s (iss [.s 1, .s 2] (.s 5)) && accessOk s .read [(own 0x40, 64)] &&
       nextAnd (exec (.gpost d0 ⟨.s 5, .s 1, .s 2, .v 0, .v 0, .v 0, 0, none⟩) s) (fun t =>
         decide ((t.part 0).getS 5 = 7 + 2 ^ 32 ∧ (t.dev 0).colls.map (·.st) = [.posted]))) = true := by decide +kernel

theorem test_CollectiveEvents :
    (let s (c : Coll) (g : GColl) := withColl base (some c) (some g)
     let n (note : GNote) := s (coll0 .posted none 0) (gcoll0 .ticketed [(0, note)])
     let took (note : GNote) : Bool := match takeNote (n note) 0 7 1 with
       | some (m, t) => m = note && (collOf t 0 7 1).isSome
       | none => false
     decide (grpOf base 7 = none) && (base.ctx 0).live && coordOk base 7 [0] 0 0 && ([0].all fun d => (mfind base.devs d).isSome && decide ((base.dev d).groups.length < 256)) && decide ([0].Nodup) &&
       decide (gcollOf (n .mismatch) 7 1 = some (gcoll0 .ticketed [(0, .mismatch)])) && decide (grpOf (n .mismatch) 7 = some ⟨7, 0, [0], 0, 0⟩) && postsAgree (gcoll0 .gathering []).posts &&
       !postsAgree [(0, gdesc0, false), (1, { gdesc0 with count := 9 }, false)] && decide (mfind base.coordTime 0 = none) &&
       took (.ticket 65536) && took (.cancel 3 0) && took (.abandon 5 0 0 0) && took .mismatch && decide (ticketsTo (n (.ticket 65536)) 0 0 = [65536]) &&
       !ticketBefore 65536 65536 && ticketBefore 65536 131072 && decide (ticketsTo base 0 0 = []) && ((gcoll0 .gathering []).posts.any fun p => p.1 = 0)) = true := by decide +kernel

theorem test_CollectiveEvents_paths :
    (let s := withColl base (some (coll0 .posted none 0)) (some (gcoll0 .gathering []))
     let l (u : Nat) := s.modDev 0 fun d => { d with lastTicket := some u }
     led s 0 && inPartition s 0 && collPath s 0 7 && !engineCut s 0 (own 0) 32 && (grpOf s 7).isSome && decide ((base.dev 0).lastTicket = none) && ticketBefore 65536 131072 &&
       decide (((l 131072).dev 0).lastTicket = some 131072) && decide (((gcoll0 .gathering []).asks = []) ∧ ({ gcoll0 .gathering [] with asks := [(0, none)] } : GColl).asks = [(0, none)]) &&
       decide (2 ^ 46 ≤ (2 ^ 46 + 5 + 2 ^ 48 - timeOfTicket (coll0 .ticketed (some 65536) 0).time) % 2 ^ 48) && !coordOk s 7 [0] 1 0) = true := by decide +kernel

theorem test_CollectiveEvents_admit :
    (let t := 2 ^ 46 * 65536
     let c := coll0 .ticketed (some 65536) 0
     let s0 : State := { withColl base (some c) (some (gcoll0 .ticketed [])) with ftime := 6000 }
     let s := s0.modDev 0 fun d => { d with horizon := [(0, 9000)] }
     let f := coll0 .admitted (some 65536) 0
     let g := withColl base (some f) (some (gcoll0 .ticketed []))
     decide (lowestTicket s 0 = some c) && decide (timeOfTicket t = 2 ^ 46) && serialBefore (timeOfTicket c.time + 5000) s.ftime &&
       serialBefore (timeOfTicket c.time) 9000 && roomFor s 0 c && decide (mfind (s.dev 0).groups 7 = some (gent0 false)) && decide (c.d.readBytes 0 ≠ 0) &&
       decide (({ gdesc0 with op := 3, root := 1 } : GDesc).readBytes 0 = 0) && okAnd (engineCheck s (collWho c) .read c.d.src (c.d.readBytes 0)) (fun _ => true) &&
       decide ([0].idxOf? 0 = some 0) && ((gcoll0 .ticketed []).data.any fun d => d.1 = 0) && decide (f.faulted = false ∧ f.broken = false ∧ f.d.op ≠ 3) &&
       (let bs := (gcoll0 .ticketed []).result f.d f.arrival [gdesc0] 0
        decide (bs ≠ []) && okAnd (engineCheck g (collWho f) .write f.d.dst bs.length) (fun _ => true)) &&
       decide (2 ^ 46 ≤ (2 ^ 46 + 5 + 2 ^ 48 - timeOfTicket 65536) % 2 ^ 48)) = true := by decide +kernel

/-- A host queue of sixteen packets in device 0's memory. -/
def hq0 (st : QState) (rd wr : W32) : HostQ := ⟨some 0, 1, 0x20000, 4, 0, rd, wr, 0, st, [], none, none⟩
def withHq (h : HostQ) : State := base.modDev 0 fun d => { d with hostqs := [(2, h)], leader := some 0 }

theorem test_QueueEvents :
    (let s := withHq (hq0 .active 0 1)
     let h := hq0 .active 0 1
     decide (hostqOf s 0 2 = some h) && decide ((s.dev 0).svc = 0 ∧ (s.dev 0).boot = 2) && decide (h.size = 16) && decide (¬ (h.size < (5 : Nat))) && decide (h.size < (17 : Nat)) &&
       decide (cpFault s (h.who 0) true .read (h.slot 0) 64 = none) && (cpFault (withHq { h with base := 0x0100000000000000 }) (h.who 0) true .read 0x0100000000000000 64).isSome &&
       (let p : Pkt := ⟨0, 0, [0x01] ++ List.replicate 63 0, 0, [], 0, false⟩
        decide (p.op < 8) && !p.badFormat) && decide (8 ≤ (⟨0, 0, [0x88] ++ List.replicate 63 0, 0, [], 0, false⟩ : Pkt).op) && led s 0 &&
       decide ((1 - (1 : W32)).toNat ≤ h.size) && decide ((s.dev 0).leader = some (0 : Fin 4).val) && decide (bits (s.dev 0).lease 39 38 = (0 : Fin 4).val) &&
       !leaseLapsed s 0 && leaseLapsed (s.modDev 0 fun d => { d with lease := 0 }) 0 && (cpFault s (h.who 0) true .write (h.slot 0 + 2) 1).isNone &&
       (cpFault s (h.who 0) true .write 0x20000 8).isNone &&
       (let b : Pkt := ⟨0, 0, [0, 1] ++ List.replicate 62 0, 0, [], 0, false⟩
        decide (hostqOf (withHq { h with st := .waiting, held := some b, pkts := [b] }) 0 2 = some { h with st := .waiting, held := some b, pkts := [b] }) &&
          pktHeld s (h.who 0) { h with pkts := [b] } b && !pktHeld s (h.who 0) h b) && decide ((s.dev 0).leader ≠ some (1 : Fin 4).val) &&
       !ftimeBefore ({ s with ftime := 65536 * 4 }.ftime / 65536 * 65536) (expiry 0) &&
       (let x : Pkt := ⟨0, 0, List.replicate 64 0, 0, [], 0, false⟩
        let t := withHq { h with pkts := [x] }
        decide (hostqOf t 0 2 = some { h with pkts := [x] }) && decide (h.pkts.find? (fun y => y.idx = 0) = none) && decide (x.addr 8 = 0) && pktReady t 0 2 { h with pkts := [x] } x &&
          decide ((pktAct t (h.who 0) x).2.2 = some 0) &&
          !pktReady { t with launches := [{ launch0 with queue := some (0, 2, 0) }] } 0 2 h { x with bytes := 1 :: List.replicate 63 0 }) &&
       nextAnd (exec (.tailWrite 0 1 16 8 3) s) (fun t => decide ((hostqOf t 0 2).map (·.wridx) = some 3))) = true := by decide +kernel

theorem pathGranule_le (s : State) (flat : Nat) (va : W64) : pathGranule s flat va ≤ 32 := by
  simp only [pathGranule]
  split
  · split
    · omega
    · split <;> omega
  · omega

theorem pktCopy_ack (w : Who) (p : Pkt) : ∀ (f : Nat) (s : State) (ack : Nat), ack ≤ (pktCopy s w p ack f).2.1 ∧ (pktCopy s w p ack f).2.1 ≤ ack + 32 * f
  | 0, _, _ => by simp [pktCopy]
  | f + 1, s, ack => by
    have g := pathGranule_le s w.flat (p.addr 32 + BitVec.ofNat 64 ack)
    simp only [pktCopy]
    split
    · simp
    · split
      · simp
      · refine ⟨le_trans ?_ (pktCopy_ack w p f _ _).1, le_trans (pktCopy_ack w p f _ _).2 ?_⟩ <;> omega

/-- A COPY packet of 1 MiB from 0x20000 to 0x200000, and the queue that has started it. -/
def copyPkt : Pkt := ⟨0, 0, [4] ++ List.replicate 23 0 ++ bytesOf 8 0x20000 ++ bytesOf 8 0x200000 ++ bytesOf 8 0x100000 ++ List.replicate 16 0, 0, [], 0, false⟩
def copyQ : State := withHq { hq0 .active 1 1 with pkts := [copyPkt] }

/-- One act of a COPY packet goes on as far as the free value says, and not to its end. -/
theorem test_QueueEvents_copy : (pktAct copyQ ((hq0 .active 1 1).who 0) copyPkt).2.2 = none := by
  have n (x : Nat) : x % 8192 < 8192 := Nat.mod_lt _ (by decide)
  have st : copyPkt.status = 0 := rfl
  have br : copyPkt.broken = false := rfl
  have op : copyPkt.op = 4 := by decide +kernel
  have len : fieldAt copyPkt.bytes 40 8 = 0x100000 := by decide +kernel
  have ack : copyPkt.ack = 0 := rfl
  simp only [pktAct, st, br, op, ack, len]
  generalize Config.nextGranule copyQ.free = x
  have hx := n x
  have first : ∃ s1, pktCopy { copyQ with free := copyQ.free + 1 } ((hq0 .active 1 1).who 0) copyPkt 0 (1 + x % 8192) =
      pktCopy s1 ((hq0 .active 1 1).who 0) copyPkt 32 (x % 8192) := by
    rw [Nat.add_comm 1]
    simp only [pktCopy]
    rw [if_neg (by decide +kernel), if_neg (by decide +kernel)]
    exact ⟨_, by congr 1⟩
  obtain ⟨s1, e⟩ := first
  rw [e]
  have b := pktCopy_ack ((hq0 .active 1 1).who 0) copyPkt (x % 8192) s1 32
  generalize pktCopy s1 ((hq0 .active 1 1).who 0) copyPkt 32 (x % 8192) = r at b
  obtain ⟨s2, a, bad⟩ := r
  simp only at b
  have h0 : ¬ a = 0 := by omega
  have h1 : ¬ 0x100000 ≤ a := by omega
  simp [h0, h1]

theorem test_DebugInstructions :
    (let s := regs 7 0x101 0 0
     let tr := s.modPart 0 fun p => { p with tren := true, trcLog := 4, trcBase := own 0x200 }
     issues s { h := d0, reads := rds [.s 1] } && issues s { h := d0, reads := rds [.s 1, .s 2], store := true } && issues s (iss [.s 1, .s 2] (.s 5)) &&
       decide ((s.part 0).bkm = 0 ∧ (s.part 0).trcLog = 0) && decide (taskOn tr 0 = none) && accessOk tr .write [(own 0x200, 32)] && decide ((tr.core 0).sbuf.length < 32) &&
       decide (((7 : Fin 8).val) = (7 : W64).toNat) && decide ((0x101 : Nat) < 512 ∧ 0x101 % 256 ≤ 0x0B) && decide (replayNext s 0 0 6 = none) &&
       decide (((at_ fun p => { p with bkm := 1 }).part 0).bkm = 1 ∧ ((at_ fun p => { p with bkm := 2 }).part 0).pass = false) &&
       nextAnd (exec (.perfCfg d0 ⟨.s 5, .s 1, .s 2, .v 0, 0⟩) s) (fun t => decide ((t.part 0).perf[7] = ⟨1, true, 0⟩ ∧ (t.part 0).getS 5 = 0)) &&
       nextAnd (exec (.trace d0 ⟨.none, .s 1, .s 2, .v 0, 0⟩) tr) (fun t => decide ((t.part 0).trcIdx = 1 ∧ (t.core 0).sbuf.length = 1))) = true := by decide +kernel

theorem test_DebugEvents :
    (let b (m : Fin 4) (en : BitVec 4) : State := at_ fun p => { p with bkm := m, bpen := en, step := true, bpaddr := p.bpaddr.set 3 0x10000, fbuf := [⟨0x10000, some 0⟩] }
     eligible (b 1 8) 0 && decide (idxOf 0 ≠ 3) && decide (((b 1 8).part 0).twill = []) && decide (((b 1 8).part 0).sleep = .awake ∧ ((b 1 8).part 0).quiesce = none ∧ ((b 1 8).part 0).asyncMcheck = 0) &&
       decide (((b 1 8).part 0).breakHere = some 0x100000003) && decide (((b 2 0).part 0).breakHere = some 0x200000000) &&
       !(base.cluster 0).halted && ((haltCluster base 0).cluster 0).halted && decide (((base.modCluster 0 fun c => { c with logMode := .logging }).cluster 0).logMode = .logging)) = true := by
  decide +kernel

theorem test_PartEvents :
    (let q (st : PState) : State := at_ fun p => { p with st, prev := .resident }
     let a : Part := { Part.reset with st := .spilled, pc := 0x10000 }
     let f : State := { (base.setPart 0 .reset) with away := [(0, a)] }
     ledAt base 0 && decide (idxOf 0 ≠ 3) && decide ((base.part 0).st = .resident ∧ (base.part 0).fmode ≠ .leading) && partStill (q .preempted) 0 &&
       !partStill ((q .preempted).modCore 0 fun c => { c with sbuf := [⟨0, 0, 0, 0, [], [], false, false⟩] }) 0 && decide (((q .halted).part 0).chkDone = false ∧ ((q .halted).part 0).prev = .resident) &&
       decide (f.away.find? (fun a => a.1 = 0 && a.2.ctx = (f.part 0).ctx && a.2.st = .spilled) = some (0, a)) && (freePartition f 0).isSome && decide (mailboxUsed f 0 + a.mbox.length ≤ 64) &&
       !partPresent f 0 3 && decide ((base.part 0).quiesce = none) && !(base.part 0).quiescing && (at_ fun p => { p with quiesce := some 0 }).sel.isNone &&
       ((at_ fun p => { p with quiesce := some 0 }).part 0).quiescing && runnable f 0 0 && decide (admitOf f 0 0 = .restore) && decide (admitOf base 0 0 = .nothing) &&
       decide ((q .checkpointing).chkLimit ≤ since { q .checkpointing with ftime := 200000000 } 0) && (base.devs.any fun d => led base d.1) &&
       decide ((destroyPart base 0).away = []) && !(base.cluster (clOf 0)).halted && decide ((base.part 0).sleep = .awake) && !(base.part 0).inChk && decide (base.tasks = []) && (mfind base.parts 0).isSome &&
       (base.devs.any fun d => d.2.leader.isSome) && decide (partsOfCtx base 0 = [0]) && decide ((base.part 0).fmode = .free ∧ (base.part 0).chkptVec = 0) &&
       nextAnd (exec (.preempt 0) base) (fun t => decide ((t.part 0).st = .preempted)) &&
       nextAnd (exec (.restore 0 0) f) (fun t => decide ((t.part 0).st = .resident ∧ t.away = []))) = true := by decide +kernel

theorem test_PartEvents_create :
    (let c : CtxSpec := { ctx := 5, domain := 1, errq := 0, spranges := [], wqueues := [], hostqs := [], egrants := [], hbgrants := [], gvtIvl := 2, rights := [] }
     let l : Launch := { launch0 with started := [], units := [0], first := 0, ncore := 1 }
     let a : Part := { Part.reset with st := .created, launch := some 3 }
     let s : State := { base with away := [(0, a)], launches := [l], parts := [] }
     !ctxBad base c && decide ((s.part 0).ctx = 0) && (freePartition s 0).isSome && !partPresent s 0 0 && decide ((createdOf s 0 0).isSome) && !coreGone s (l.flag 4) 0 && decide (admitOf s 0 0 = .create l 0)) = true := by decide +kernel

/-- A part whose spill is accepted, and one with an asynchronous MCHECK that waits. -/
theorem test_PartEvents_spill :
    (let q (st : PState) := at_ fun p => { p with st, prev := .resident, spillDue := true }
     let a := at_ fun p => { p with asyncMcheck := 1 }
     partStill (q .preempted) 0 && decide (((q .preempted).part 0).st = .preempted ∧ ((q .preempted).part 0).spillDue = true) && decide (((q .halted).part 0).st = .halted) &&
       decide ((a.part 0).asyncMcheck = 0 + 1 ∧ (a.part 0).sleep = .awake ∧ (a.part 0).quiesce = none) && decide ((base.part 0).fmode = .free ∧ (base.part 0).twill = []) &&
       decide (base.tasks = [])) = true := by decide +kernel

/-- A page of 64 KiB of device 0 at 0x30000. -/
def page0 (st : PageState) : Page :=
  { base := 0x30000, log2 := 16, dev := 0, state := st, home := 0, total := 6, quad := [2, 2, 2, 0], newLeaf := 0x40000, newHome := 0, filling := false, replicas := [], unmapDue := false, lost := [], idle := 0 }
def withPage (st : PageState) : State := { base with pages := [page0 st] }

theorem test_PageEvents :
    (let s := withPage .resident
     let good : W64 := 0x300002
     led s 0 && !led (s.modDev 0 fun d => { d with leader := none }) 0 && decide (pageAt s 0 0x30000 = some (page0 .resident)) && decide (pageAt s 0 0x40000 = none) &&
       ([PageState.resident, .migrating, .replicated].all fun st => decide (pageAt (withPage st) 0 0x3FFFF = some (page0 st)) && !pinnedPage (withPage st) (page0 st)) &&
       (let pin := (withPage .migrating).modPart 0 fun p => { p with chans := p.chans.set 0 { Chan.reset with reqs := [{ creq0 0x30000 with dst := 0x30100 }] } }
        pinnedPage pin (page0 .migrating)) &&
       goodLeaf good 16 0 && !goodLeaf 0 16 0 && decide (good.toNat / 2 ^ 62 ≠ 2) && decide ((leafWord s (page0 .resident)).toNat / 2 ^ 62 ≠ 2) &&
       (writeLeaf [] 0 0x30000 good 0 0x8000 transLevels 3 [0x10001, 0x20001, 0x30001, 0x40001]).isSome &&
       decide (regionOf 0x30000 = .shared) && decide (regionOf 0xFFFFFFFFE0001234 = .spad true 0 0x1234) && decide ((s.dev 0).scrub ≠ 0) && decide (s.watches = []) &&
       (let p : Page := { page0 .resident with quad := [0, 0, 0, 255] }
        decide (p.centre = some 187) && decide ((s.dev 0).policy.quads ≤ 255) && decide ((s.dev 0).policy.hops < hops (p.home % 256) 187)) &&
       nextAnd (exec (.scrubSweep 0 0x30000 true none) s) (fun t => decide ((t.dev 0).corr = 1))) = true := by decide +kernel

/-- Four frames, one of each die's memory; the end of a migration; a device without a leader. -/
theorem test_PageEvents_moves :
    (let fs : List W64 := (List.range 4).map fun i => BitVec.ofNat 64 ((i * 786432 + 0x30) * 65536 + 2)
     let n : State := { base with devs := [(0, .reset)] }
     decide (fs.length = 4) && (List.range 4).all (fun i => goodLeaf (fs.getD i 0) 16 (i * 256) && decide ((fs.getD i 0).toNat / 2 ^ 62 = 0)) &&
       !pinnedPage (withPage .migrating) (page0 .migrating) && decide ((page0 .migrating).filling = false ∧ (page0 .migrating).unmapDue = false) &&
       decide (({ page0 .migrating with unmapDue := true } : Page).unmapDue = true) && decide ((withPage .migrating).pages = [page0 .migrating]) && base.devs.any (fun d => led base d.1) &&
       !(n.devs.any fun d => led n d.1) && decide (mfind base.devs 0 ≠ none) && decide (ordOf 256 = 0)) = true := by decide +kernel

theorem test_LinkEvents :
    (let u (f : Link → Link) : State := base.modDev 0 fun d => { d with links := d.links.set 17 (f d.links[17]) }
     let n : Fin 18 := 17
     let up := u fun l => { l with st := .up, enc := false }
     let f : Frame := frameOf 0 0 2 0 8 0 (List.replicate 8 0)
     decide ((linkOf base 0 n).st = .down) && !((base.dev 0).withdrawn.contains (.link 17)) && decide ((linkOf up 0 n).st = .up ∧ (linkOf up 0 n).enc = false ∧ f.seq = (linkOf up 0 n).rxSeq) &&
       decide ((linkOf (u Link.train) 0 n).st = .training ∧ (linkOf (u Link.train) 0 n).fails = 0) && decide ((1 : W32) ≠ (linkOf up 0 n).epoch) &&
       (let r := u fun l => { l with st := .rekeying }
        !(linkOf r 0 n).oldFrames && decide ((linkOf r 0 n).waiting = none)) && decide ((linkOf (u fun l => { l with newSeen := some 0 }) 0 n).newSeen = some 0) &&
       decide (since base 0 < 100000) && decide (100000 ≤ since { base with ftime := 100000 } 0) && decide (censusInstant { base with ftime := 20000 } 1 ≠ (base.dev 0).censusAt) && ((base.dev 0).e2e.all fun e => e.2.unacked.all fun u => decide (u.2 ≠ n.val)) && decide ((linkOf (u fun l => { l with st := .draining }) 0 n).replay = []) &&
       (let e (us : List (W32 × Nat)) := base.modDev 0 fun d => { d with e2e := [(6, ⟨none, 4, us⟩)] }
        decide (mfind ((e [(3, 18)]).dev 0).e2e (1 * 4 + 2) = some ⟨none, 4, [(3, 18)]⟩) && decide ((e [(3, 18)]).net = []) &&
          decide (({ e [(3, 18)] with net := [{ msg0 with dest := 1024, cls := 2, num := some 3 }] } : State).net.map (fun m => (ordOf m.src, ordOf m.dest, m.cls, m.num)) = [(0, 1, 2, some 3)]) &&
          decide (mfind ((e []).dev 0).e2e 6 = some ⟨none, 4, []⟩)) && decide ((mfind base.devs 0).isSome ∧ (base.dev 0).lost = false ∧ (base.dev 0).boot = 2) &&
       Memory.wf base.mem && nextAnd (exec (.frameReceive 0 n f) up) (fun t => decide ((linkOf t 0 n).rxSeq = 1)) &&
       nextAnd (exec (.linkEnable 0 n) base) (fun t => decide ((linkOf t 0 n).st = .training)) &&
       (let w := (u fun l => { l with st := .failed }).modDev 0 fun d => { d with withdrawn := [.link n.val] }
        decide ((linkOf w 0 n).st = .failed ∧ .link n.val ∈ (w.dev 0).withdrawn))) = true := by decide +kernel

/-- A frame whose CRC fails, one out of sequence, a silent link, a link held for a quiesce, a link at RETIRE, a stream that its hub numbers, a module held whole. -/
theorem test_LinkEvents_frames :
    (let n : Fin 18 := 17
     let u (f : Link → Link) : State := base.modDev 0 fun d => { d with links := d.links.set 17 (f d.links[17]) }
     let l := linkOf (u fun l => { l with st := .up, enc := false }) 0 n
     let f := frameOf 0 0 2 0 8 0 (List.replicate 8 0)
     let r := linkOf (u fun l => { l with st := .rekeying, old := some 0, waiting := none }) 0 n
     let q := base.modDev 0 fun d => { d with links := d.links.map fun l => { l with st := .quiesced } }
     crcOk f && decide (f.nval ≤ 8 ∧ f.typ = 0 ∧ f.seq = l.rxSeq ∧ f.vc = 2) && !l.silent base.ftime && l.silent 10000 && !crcOk { f with flit := f.flit ^^^ 1 } &&
       decide ((frameOf 5 0 2 0 8 0 (List.replicate 8 0)).seq ≠ l.rxSeq) && r.old.isSome && !r.oldFrames && r.room && decide (r.waiting = none ∧ r.st = .rekeying) &&
       !{ r with count := 2 ^ 48 }.room && decide ((7 : W32) ∈ ({ l with used := [7] } : Link).used ∧ (8 : W32) ∉ ({ l with used := [7] } : Link).used ∧ l.replay.length < 64) &&
       decide ((State.reset.dev 0).boot = 0 ∧ (base.dev 0).boot ≠ 0) && decide ((q.dev 0).svc = 0) && (List.finRange 18).all (fun n => decide ((linkOf q 0 n).st = .quiesced))) = true := by
  decide +kernel

theorem test_LinkEvents_streams :
    (let up (s : State) (d : Nat) := s.modDev d fun d => { d with links := d.links.map fun l => { l with st := .up } }
     let s := (up (up { base with devs := base.devs ++ [(1, { Dev.reset with boot := 2 })] } 0) 1).modDev 0 fun d => { d with e2e := [(4, ⟨none, 4, [(3, 18)]⟩)] }
     let m : Msg := { msg0 with dest := 1024 }
     decide (rerouted s m.dest = m.dest) && crosses s m.src m.dest && decide (mfind (s.dev 0).e2e 4 = some ⟨none, 4, [(3, 18)]⟩) && (planeOf s 0 1 0).isSome &&
       decide ((sendMsg s m).net.map (·.num) = [some 4])) = true := by decide +kernel

theorem test_ServiceEvents :
    (let v (n : Nat) : State := base.modDev 0 fun d => { d with svc := n, evictOrd := 1 }
     let two : State := { base with devs := base.devs ++ [(1, .reset)] }
     led base 0 && (mfind base.devs 0).isSome && decide ((base.dev 0).spareCores = [] ∧ (base.dev 0).spareWays = [] ∧ (base.dev 0).withdrawn = [] ∧ (base.dev 0).boot = 2) &&
       decide ((1225 : W32).toNat % 65536 % 25 = 0) && decide ((3025 : W32).toNat % 65536 > 3000) && (0x80000001 : W32).getLsbD 31 && decide (((v 1).dev 0).svc = 1) &&
       decide (((mfind two.devs 1).map (·.lost)) = some false) && decide (base.away = []) && decide (ordOf 0 = 0 ∧ ordOf 1024 = 1) && !noSpare base 0 (.tile 3) && !(base.cluster 0).halted &&
       noSpare (base.modDev 0 fun d => { d with spareCores := [0] }) 0 (.tile 3) && noSpare base 0 (.link 3) && decide (30000000000 ≤ since { base with ftime := 30000000000 } 0) &&
       decide ((({ base with parts := [] } : State).modDev 0 fun d => { d with links := d.links.map fun l => { l with st := .quiesced } }).parts = []) &&
       nextAnd (exec (.pcapWrite 0 1225) base) (fun t => decide ((t.dev 0).cap = 1225)) &&
       nextAnd (exec (.evictGo 0 1) two) (fun t => decide ((t.dev 0).svc = 1 ∧ (t.dev 0).evictOrd = 1)) &&
       nextAnd (exec (.freeze 0) base) (fun t => decide ((t.dev 0).boot = 3))) = true := by decide +kernel

/-- A slice with 64 corrected errors, a module at the end of its bring-up, and evictions: one that goes on, one refused, one that failed after a part was sent. -/
theorem test_ServiceEvents_steps :
    (let g := base.modDev 0 fun d => { d with corrected := List.replicate 64 (5, 0) }
     let b : BringUp := ⟨0, 0x2000, 0x3000, [17], 0, 4, none, 0, [], true⟩
     let s := base.modDev 0 fun d => { d with boot := 1, starting := some b, links := d.links.map Link.train }
     let two : State := { base with devs := base.devs ++ [(1, .reset)] }
     let v := (two.modDev 0 fun d => { d with svc := 1, evictOrd := 1 }).modPart 0 fun p => { p with st := .evicting, kept := .resident, prev := .resident }
     let e : State := { v with parts := [] }
     gathered g 5 && !gathered base 5 && decide ((s.dev 0).boot = 1 ∧ (s.dev 0).starting = some b) && (List.finRange 18).all (fun n => decide ((linkOf s 0 n).st = .training)) &&
       decide ((17 : Fin 18) ∈ b.trainedOk ∧ (0 : Fin 18) ∉ b.trainedOk) && decide (b.cause = 0 ∧ (base.dev 0).boot ≠ 1) && (carryRest e 0 1).isSome && decide (e.launches = [] ∧ e.away = []) &&
       decide (since e (e.dev 0).evictAt < 30000000000) && !evictRefused two 0 1 && evictRefused base 0 1 && partOn v 0 0 && !partOn (arrive_ v 0 0 1024) 0 0 && decide ((v.dev 0).sentCtxs = []) &&
       decide ((v.dev 0).lost = false ∧ (v.dev 0).svc = 1 ∧ ordOf 1024 = (v.dev 0).evictOrd) && decide ((base.dev 0).svc ≠ 2 ∧ (base.dev 0).svc ≠ 1)) = true := by decide +kernel

/-- The words 0x0E00 (YIELD) and then zeros as the line at 0x10000. -/
theorem test_StepRunsDecoded :
    (let s : State := { (at_ fun p => { p with fbuf := [⟨0x10000, some 0x0E00⟩] }) with sel := some 0 }
     let t : State := { tick s with cur := 0 }
     decide (s.agenda = [] ∧ boundary t 0 = none ∧ (t.part 0).fwdNow = none) && decide ((t.part 0).fbuf.find? (fun l => l.addr = lineOf 0x10000) = some ⟨0x10000, some 0x0E00⟩) &&
       okAnd (checkRightsPiece t (whoOf t 0) .fetch 0x10000 2) (fun _ => true) && decide ((t.part 0).twill = [] ∧ (t.part 0).fmode ≠ .following) &&
       (boundary (t.modPart 0 fun p => { p with quiesce := some 0 }) 0).isSome &&
       decide (((takeForward (t.modPart 0 fun p => { p with fmode := .following, twill := [⟨0, 0x20000, 0x20002, 0x20002, .nop d0⟩] }) 0).part 0).fwdNow =
         some ⟨0, 0x20000, 0x20002, 0x20002, .nop d0⟩) && decide (decodeAt 0x0E00 0 = .ins (.yield d0) false) && decide (decodeAt 1 0 = .bad 1) &&
       nextAnd (step s) (fun u => decide ((u.part 0).pc = 0x10002 ∧ u.sel = none))) = true := by decide +kernel

theorem test_StepRunsDecoded_missing :
    (let s : State := { base with sel := some 0 }
     let t : State := takeForward { tick s with cur := 0 } 0
     decide (s.agenda = [] ∧ boundary t 0 = none) && decide ((t.part 0).fwdNow = none ∧ (t.part 0).fmode ≠ .following) && decide ((t.part 0).fbuf.find? (fun l => l.addr = lineOf (t.part 0).pc) = none) &&
       nextAnd (step s) (fun u => decide (u.sel ≠ some 0))) = true := by decide +kernel

/-- From reset, with (p7) NOP +5 where step fetches: the step completes, and the next one stands at the next head. -/
theorem test_step_from_reset :
    nextAnd (step (State.reset.withFetchWord 32 0x02550700)) (fun t => decide ((t.part 0).pc = 0x10002 ∧ (t.part 0).stall = 5)) = true := by decide +kernel

theorem test_StepKeepsMemory : Memory.wf State.reset.mem = true ∧ Memory.wf base.mem = true := by decide +kernel

theorem test_DecodeEncode :
    (let i : Instr := .add ⟨3, true, some ⟨true, 7⟩⟩ ⟨.s 63, .s 1, .lit 0x21⟩
     i.wf && (partsOf i).isSome && decide ((encode i).length ≤ 8) &&
       (match encode i with
        | w :: ws => decide (decodeInsn w true ws = .ok i)
        | [] => false)) = true := by decide +kernel

end Sys2Proof.Tests
end

section
/-! PROOFS. Integer arithmetic of format B (R114, R40). -/

namespace Sys2Proof.Machine

/-! ## The members of R114 as format-B operations -/

theorem exec_add (h : Hd) (o : OpB) (s : State) : exec (.add h o) s = aluB h o (some 1) (· + ·) s := rfl
theorem exec_sub (h : Hd) (o : OpB) (s : State) : exec (.sub h o) s = aluB h o (some 1) (· - ·) s := rfl
theorem exec_mul (h : Hd) (o : OpB) (s : State) : exec (.mul h o) s = aluB h o (some 3) (· * ·) s := rfl
theorem exec_mulh (h : Hd) (o : OpB) (s : State) : exec (.mulh h o) s = aluB h o (some 3) mulHigh s := rfl
theorem exec_mulhN (h : Hd) (o : OpB) (s : State) : exec (.mulhN h o) s = aluB h o (some 3) mulHighN s := rfl
theorem exec_div (h : Hd) (o : OpB) (s : State) : exec (.div h o) s = aluB h o none divS s := rfl
theorem exec_rem (h : Hd) (o : OpB) (s : State) : exec (.rem h o) s = aluB h o none remS s := rfl
theorem exec_divN (h : Hd) (o : OpB) (s : State) : exec (.divN h o) s = aluB h o none divU s := rfl
theorem exec_remN (h : Hd) (o : OpB) (s : State) : exec (.remN h o) s = aluB h o none remU s := rfl

/-! MIN and MAX compare words; R114 speaks of the integers that they stand for. -/

theorem exec_min (h : Hd) (o : OpB) (s : State) : exec (.min h o) s = aluB h o (some 1) (fun x y => if x.toInt < y.toInt then x else y) s := by
  simp only [← BitVec.slt_iff_toInt_lt]
  rfl

theorem exec_max (h : Hd) (o : OpB) (s : State) : exec (.max h o) s = aluB h o (some 1) (fun x y => if x.toInt < y.toInt then y else x) s := by
  simp only [← BitVec.slt_iff_toInt_lt]
  rfl

theorem exec_minN (h : Hd) (o : OpB) (s : State) : exec (.minN h o) s = aluB h o (some 1) (fun x y => if x.toNat < y.toNat then x else y) s := by
  simp only [← BitVec.lt_def, ← BitVec.ult_iff_lt]
  rfl

theorem exec_maxN (h : Hd) (o : OpB) (s : State) : exec (.maxN h o) s = aluB h o (some 1) (fun x y => if x.toNat < y.toNat then y else x) s := by
  simp only [← BitVec.lt_def, ← BitVec.ult_iff_lt]
  rfl

/-! ## What a format-B operation does -/

/-- A format-B operation that issues writes its value into the destination, and changes nothing else of the state before it retires. -/
theorem aluB_of_issues {h : Hd} {o : OpB} {lat : Option Nat} {f : W64 → W64 → W64} {s : State}
    (hi : issues s { h, reads := rds [o.s1, o.s2], writes := wr o.d lat } = true) :
    aluB h o lat f s = doneWith { h, reads := rds [o.s1, o.s2], writes := wr o.d lat } s
      (·.put o.d (f ((s.part s.cur).src 0 o.s1) ((s.part s.cur).src 0 o.s2))) :=
  issue_done hi rfl

/-- An instruction that is the format-B operation `f` completes with the value of `f` at its sources. -/
theorem gives_of_exec_eq_aluB {ins : Instr} {h : Hd} {o : OpB} {lat : Option Nat} {f : W64 → W64 → W64} {s : State}
    (he : exec ins s = aluB h o lat f s) :
    Gives ins { h, reads := rds [o.s1, o.s2], writes := wr o.d lat } s
      (·.put o.d (f ((s.part s.cur).src 0 o.s1) ((s.part s.cur).src 0 o.s2))) :=
  fun hi => he.trans (aluB_of_issues hi)

/-! ## Division (R40) -/

/-- The quotient truncates toward zero, but for the one that does not fit. -/
theorem toInt_sdiv_eq_tdiv {x y : W64} (hfit : ¬ (x = BitVec.intMin 64 ∧ y = ones64)) : (x.sdiv y).toInt = x.toInt.tdiv y.toInt :=
  BitVec.toInt_sdiv_of_ne_or_ne x y (not_and_or.mp hfit)

/-- Settles O5: each member is a format-B operation, whose value is the operation's at the two sources; the signed quotient and remainder are those of the integers
that the words stand for. -/
theorem integerArithmetic : Obligations.IntegerArithmetic := by
  unfold Obligations.IntegerArithmetic
  intro h o s x y i
  refine ⟨?add, ?sub, ?mul, ?mulh, ?mulhN, ?div, ?rem, ?divN, ?remN, ?min, ?max, ?minN, ?maxN, ?signed, ?quotient, ?remainder⟩
  -- `( … :)` fixes the operation before the goal is met, which else is matched by unfolding `exec`.
  case add => exact (gives_of_exec_eq_aluB (exec_add h o s) :)
  case sub => exact (gives_of_exec_eq_aluB (exec_sub h o s) :)
  case mul => exact (gives_of_exec_eq_aluB (exec_mul h o s) :)
  case mulh => exact (gives_of_exec_eq_aluB (exec_mulh h o s) :)
  case mulhN => exact (gives_of_exec_eq_aluB (exec_mulhN h o s) :)
  case div => exact (gives_of_exec_eq_aluB (exec_div h o s) :)
  case rem => exact (gives_of_exec_eq_aluB (exec_rem h o s) :)
  case divN => exact (gives_of_exec_eq_aluB (exec_divN h o s) :)
  case remN => exact (gives_of_exec_eq_aluB (exec_remN h o s) :)
  case min => exact (gives_of_exec_eq_aluB (exec_min h o s) :)
  case max => exact (gives_of_exec_eq_aluB (exec_max h o s) :)
  case minN => exact (gives_of_exec_eq_aluB (exec_minN h o s) :)
  case maxN => exact (gives_of_exec_eq_aluB (exec_maxN h o s) :)
  case signed => exact fun _ hfit => ⟨toInt_sdiv_eq_tdiv hfit, BitVec.toInt_srem x y⟩
  case quotient | remainder => decide

end Sys2Proof.Machine
end

section
/-! PROOFS. Element-wise integer operations of vectors (R125 to R133). -/

namespace Sys2Proof.Machine

/-! ## Elements of a register (R125) -/

theorem elemOf_lt (v : VReg) (w j : Nat) : elemOf v w j < 2 ^ w := BitVec.isLt _

theorem packElems_lt (w : Nat) (f : Nat → Nat) (n : Nat) : packElems w f n < 2 ^ (w * n) := by
  induction n with
  | zero => simp [packElems]
  | succ n ih =>
    have hf : f n % 2 ^ w < 2 ^ w := Nat.mod_lt _ (by positivity)
    calc packElems w f (n + 1) < 2 ^ (w * n) + f n % 2 ^ w * 2 ^ (w * n) := Nat.add_lt_add_right ih _
      _ = (f n % 2 ^ w + 1) * 2 ^ (w * n) := by ring
      _ ≤ 2 ^ w * 2 ^ (w * n) := Nat.mul_le_mul_right _ hf
      _ = 2 ^ (w * (n + 1)) := by rw [← pow_add]; ring

/-- The element at index j of a packed string is the j-th one packed. -/
theorem packElems_div_mod (w : Nat) (f : Nat → Nat) {n j : Nat} (h : j < n) : packElems w f n / 2 ^ (w * j) % 2 ^ w = f j % 2 ^ w := by
  induction n with
  | zero => omega
  | succ n ih =>
    rw [packElems]
    obtain hj | rfl := Nat.lt_succ_iff_lt_or_eq.mp h
    · -- a higher element adds a multiple of 2^w above the one asked for
      obtain ⟨m, rfl⟩ := Nat.exists_eq_add_of_lt hj
      have hsplit : f (j + m + 1) % 2 ^ w * 2 ^ (w * (j + m + 1)) = 2 ^ (w * j) * (2 ^ w * (f (j + m + 1) % 2 ^ w * 2 ^ (w * m))) := by ring
      rw [hsplit, Nat.add_mul_div_left _ _ (by positivity), Nat.add_mul_mod_self_left, ih hj]
    · rw [Nat.add_mul_div_right _ _ (by positivity), Nat.div_eq_of_lt (packElems_lt w f j), Nat.zero_add, Nat.mod_mod]

/-- Elements are read back as they were packed. -/
theorem toNat_extract_packElems (w : Nat) (f : Nat → Nat) {n j : Nat} (h : j < n) :
    ((BitVec.ofNat (w * n) (packElems w f n)).extractLsb' (j * w) w).toNat = f j % 2 ^ w := by
  rw [BitVec.extractLsb'_toNat, BitVec.toNat_ofNat, Nat.mod_eq_of_lt (packElems_lt w f n), Nat.shiftRight_eq_div_pow, Nat.mul_comm j w, packElems_div_mod w f h]

theorem elemOf_packElems {w : Nat} (hw : w ∣ 2048) (f : Nat → Nat) {j : Nat} (h : j < 2048 / w) :
    elemOf (BitVec.ofNat 2048 (packElems w f (2048 / w))) w j = f j % 2 ^ w := by
  have hread := toNat_extract_packElems w f h
  rwa [Nat.mul_div_cancel' hw] at hread

/-- R127: an element whose lane is active takes its result, another keeps the destination's value. -/
theorem elemOf_mapElems {w : Nat} (hw : w ∣ 2048) (old : VReg) (mask : W64) (f : Nat → Nat) {j : Nat} (h : j < 2048 / w) :
    elemOf (mapElems old mask w f) w j = if mask.getLsbD (j * w / 32) then f j % 2 ^ w else elemOf old w j := by
  rw [mapElems, elemOf_packElems hw _ h]
  split
  · rfl
  · exact Nat.mod_eq_of_lt (elemOf_lt old w j)

/-! ## Fitting (R129) -/

theorem natCast_wrapInt (w : Nat) (v : Int) : ((wrapInt w v : Nat) : Int) = v % 2 ^ w := by
  rw [wrapInt, Int.toNat_of_nonneg (Int.emod_nonneg _ (by positivity))]
  push_cast
  rfl

theorem wrapInt_lt (w : Nat) (v : Int) : wrapInt w v < 2 ^ w := by
  have h : ((wrapInt w v : Nat) : Int) < 2 ^ w := natCast_wrapInt w v ▸ Int.emod_lt_of_pos v (by positivity)
  exact_mod_cast h

/-- A signed number that w bits hold comes back from its code. -/
theorem intOf_wrapInt {w : Nat} (hw : 0 < w) {v : Int} (hlo : -(2 ^ (w - 1)) ≤ v) (hhi : v < 2 ^ (w - 1)) : intOf true w (wrapInt w v) = v := by
  have hdouble : (2 : Int) ^ w = 2 * 2 ^ (w - 1) := by rw [← pow_succ', Nat.sub_add_cancel hw]
  have hcode : ((wrapInt w v : Nat) : Int) = if v < 0 then v + 2 ^ w else v := by
    rw [natCast_wrapInt]
    split
    · rw [← Int.add_emod_right, Int.emod_eq_of_lt] <;> omega
    · rw [Int.emod_eq_of_lt] <;> omega
  have hsign : 2 ^ (w - 1) ≤ wrapInt w v ↔ v < 0 := by
    zify
    rw [hcode]
    split <;> omega
  simp only [intOf, Nat.mod_eq_of_lt (wrapInt_lt w v), Bool.true_and, decide_eq_true_eq, hsign, hcode]
  push_cast
  split <;> omega

theorem intOf_satInt {w : Nat} (hw : 0 < w) (v : Int) : intOf true w (satInt true w v) = max (-(2 ^ (w - 1))) (min (2 ^ (w - 1) - 1) v) := by
  have hpos : (0 : Int) < 2 ^ (w - 1) := by positivity
  have hmin : intMin true w = -(2 ^ (w - 1)) := by simp [intMin]
  have hmax : intMax true w = 2 ^ (w - 1) - 1 := by simp [intMax]
  rw [satInt, hmin, hmax]
  exact intOf_wrapInt hw (by omega) (by omega)

theorem natCast_satInt (w : Nat) (v : Int) : ((satInt false w v : Nat) : Int) = max 0 (min (2 ^ w - 1) v) := by
  have hpos : (0 : Int) < 2 ^ w := by positivity
  have hmin : intMin false w = 0 := by simp [intMin]
  have hmax : intMax false w = 2 ^ w - 1 := by simp [intMax]
  rw [satInt, hmin, hmax, natCast_wrapInt]
  exact Int.emod_eq_of_lt (by omega) (by omega)

/-! ## What an element-wise operation does (R126, R127) -/

/-- How an instruction of majors 0x30 to 0x33 issues: its sources, and a predicate that governs lanes. -/
abbrev elemIss (h : Hd) (o : OpC) (l : List Src) : Iss := { h, reads := rds l, writes := wr o.d (some 2), lanes := true }

/-- Element j of a source, at the width of the instruction's MOD. -/
abbrev Part.srcElem (p : Part) (o : OpC) (x : Src) (j : Nat) : Nat := (p.vsrc (.int true (widthOf o.mod)) x).elem (widthOf o.mod) j

/-- The elements `f` in the active lanes of a vector destination. -/
abbrev Part.putElems (p : Part) (d : Dst) (mask : W64) (w : Nat) (f : Nat → Nat) : Part := p.putVec d (mapElems (p.oldV d) mask w f)

/-- Where it issues, an instruction over the sources `l` completes with the elements `f`, of the width of its MOD, in the active lanes of its destination. -/
abbrev GivesElems (ins : Instr) (h : Hd) (o : OpC) (l : List Src) (s : State) (f : Nat → Nat) : Prop :=
  Gives ins (elemIss h o l) s fun q => q.putElems o.d (lanesFor s (elemIss h o l)) (widthOf o.mod) f

/-- A body that computes its destination from the acting part changes that part alone. -/
theorem putV_done (d : Dst) (v : Part → VReg) (s : State) :
    (do let p ← myPart
        putV d (v p)
        pure .done : M Flow) s = .ok (.done, s.setPart s.cur ((s.part s.cur).putVec d (v (s.part s.cur)))) := rfl

theorem doneWith_eq_setPart (i : Iss) (s : State) (f : Part → Part) : doneWith i s f = done i s (s.setPart s.cur (f (s.part s.cur))) := rfl

/-- An element operation gathers the elements of its sources at each index. -/
theorem vInt_eq_issue (h : Hd) (o : OpC) (l : List Src) (f : List Nat → Nat) (s : State) :
    vInt h o l f s = issue (elemIss h o l) (fun mask => do
      let p ← myPart
      putV o.d (mapElems (p.oldV o.d) mask (widthOf o.mod) fun j => f (l.map fun x => p.srcElem o x j))
      pure .done) s := by
  have hmap (p : Part) (j : Nat) : (l.map (p.vsrc (.int true (widthOf o.mod)))).map (fun x => x.elem (widthOf o.mod) j) = l.map fun x => p.srcElem o x j :=
    List.map_map
  simp only [vInt, hmap]

section
variable {ins : Instr} {h : Hd} {o : OpC} {s : State}

theorem gives_of_exec_eq_mapElems {i : Iss} {w : Nat} {f : Part → Nat → Nat}
    (he : exec ins s = issue i (fun mask => do
      let p ← myPart
      putV o.d (mapElems (p.oldV o.d) mask w (f p))
      pure .done) s) :
    Gives ins i s fun q => q.putElems o.d (lanesFor s i) w (f (s.part s.cur)) := by
  intro hi
  rw [he, doneWith_eq_setPart]
  exact issue_done hi (putV_done ..)

theorem givesElems_of_exec_eq_vInt {l : List Src} {f : List Nat → Nat} (he : exec ins s = vInt h o l f s) :
    GivesElems ins h o l s fun j => f (l.map fun x => (s.part s.cur).srcElem o x j) :=
  (gives_of_exec_eq_mapElems (f := fun p j => f (l.map fun x => p.srcElem o x j)) (he.trans (vInt_eq_issue h o l f s)) :)

theorem givesElems_of_exec_eq_vInt2 {f : Int → Int → Int} (he : exec ins s = vInt2 h o f s) :
    GivesElems ins h o [o.s1, o.s2] s fun j =>
      fitInt o.mod (f (elemInt o.mod ((s.part s.cur).srcElem o o.s1 j)) (elemInt o.mod ((s.part s.cur).srcElem o o.s2 j))) :=
  (givesElems_of_exec_eq_vInt he :)

theorem givesElems_of_exec_eq_vBit {f : Nat → Nat → Nat → Nat} (he : exec ins s = vBit h o f s) :
    GivesElems ins h o [o.s1, o.s2] s fun j => f (widthOf o.mod) ((s.part s.cur).srcElem o o.s1 j) ((s.part s.cur).srcElem o o.s2 j) :=
  (givesElems_of_exec_eq_vInt he :)
end

/-! ## The members of R130 and R131 as element operations -/

theorem exec_vadd (h : Hd) (o : OpC) (s : State) : exec (.vadd h o) s = vInt2 h o (· + ·) s := rfl
theorem exec_vsub (h : Hd) (o : OpC) (s : State) : exec (.vsub h o) s = vInt2 h o (· - ·) s := rfl
theorem exec_vmul (h : Hd) (o : OpC) (s : State) : exec (.vmul h o) s = vInt2 h o (· * ·) s := rfl
theorem exec_vmin (h : Hd) (o : OpC) (s : State) : exec (.vmin h o) s = vInt2 h o min s := rfl
theorem exec_vmax (h : Hd) (o : OpC) (s : State) : exec (.vmax h o) s = vInt2 h o max s := rfl
theorem exec_vand (h : Hd) (o : OpC) (s : State) : exec (.vand h o) s = vBit h o (fun _ x y => x &&& y) s := rfl
theorem exec_vor (h : Hd) (o : OpC) (s : State) : exec (.vor h o) s = vBit h o (fun _ x y => x ||| y) s := rfl
theorem exec_vxor (h : Hd) (o : OpC) (s : State) : exec (.vxor h o) s = vBit h o (fun _ x y => x ^^^ y) s := rfl
theorem exec_vshl (h : Hd) (o : OpC) (s : State) :
    exec (.vshl h o) s = vBit h o (fun w x y => fitInt o.mod (elemInt o.mod x * ((2 ^ (y % w) : Nat) : Int))) s := rfl
theorem exec_vshr (h : Hd) (o : OpC) (s : State) : exec (.vshr h o) s = vBit h o (fun w x y => x % 2 ^ w / 2 ^ (y % w)) s := rfl
theorem exec_vsar (h : Hd) (o : OpC) (s : State) :
    exec (.vsar h o) s = vBit h o (fun w x y => wrapInt w (intOf true w x / ((2 ^ (y % w) : Nat) : Int))) s := rfl

/-! The members of another number of sources, and R132 and R133, are operations of their own. -/

theorem exec_vmad (h : Hd) (o : OpC) (s : State) : exec (.vmad h o) s = execVmad h o s := rfl
theorem exec_vabs (h : Hd) (o : OpC) (s : State) : exec (.vabs h o) s = execVabs h o s := rfl
theorem exec_vcmp (h : Hd) (c : ICond) (o : OpC) (s : State) : exec (.vcmp h c o) s = execVcmp h c o s := rfl
theorem exec_vmov (h : Hd) (o : OpC) (s : State) : exec (.vmov h o) s = execVmov h o s := rfl
theorem exec_vbcast (h : Hd) (o : OpC) (s : State) : exec (.vbcast h o) s = execVbcast h o s := rfl
theorem exec_vsel (h : Hd) (o : OpC) (s : State) : exec (.vsel h o) s = execVsel h o s := rfl

theorem givesElems_vmad (h : Hd) (o : OpC) (s : State) :
    GivesElems (.vmad h o) h o [o.s1, o.s2, o.s3] s fun j =>
      fitInt o.mod (elemInt o.mod ((s.part s.cur).srcElem o o.s1 j) * elemInt o.mod ((s.part s.cur).srcElem o o.s2 j) + elemInt o.mod ((s.part s.cur).srcElem o o.s3 j)) :=
  (givesElems_of_exec_eq_vInt (exec_vmad h o s) :)

theorem givesElems_vabs (h : Hd) (o : OpC) (s : State) :
    GivesElems (.vabs h o) h o [o.s1] s fun j => fitInt o.mod (elemInt o.mod ((s.part s.cur).srcElem o o.s1 j)).natAbs :=
  (givesElems_of_exec_eq_vInt (exec_vabs h o s) :)

/-- R132: a predicate takes the condition's bits, a vector register elements of all ones or zero. -/
theorem gives_vcmp (h : Hd) (c : ICond) (o : OpC) (s : State) :
    Gives (.vcmp h c o) (elemIss h o [o.s1, o.s2]) s fun q => match o.d with
      | .p n => q.setP n (mapBits (q.getP n) (lanesFor s (elemIss h o [o.s1, o.s2])) fun j =>
          icond c (widthOf o.mod) ((s.part s.cur).srcElem o o.s1 j) ((s.part s.cur).srcElem o o.s2 j))
      | .v n => q.setV n (mapElems (q.getV n) (lanesFor s (elemIss h o [o.s1, o.s2])) (widthOf o.mod) fun j =>
          if icond c (widthOf o.mod) ((s.part s.cur).srcElem o o.s1 j) ((s.part s.cur).srcElem o o.s2 j) then 2 ^ widthOf o.mod - 1 else 0)
      | _ => q :=
  fun hi => (exec_vcmp h c o s).trans (issue_done hi rfl)

/-- R133: a lane takes the second source where its bit of the selector has the sense of MOD, and the first elsewhere. -/
abbrev Part.selLane (p : Part) (o : OpC) (L : Nat) : Nat :=
  if (p.rdP (selReg o.mod)).getLsbD L = o.mod.getLsbD 3 then (p.vsrc (.int true 32) o.s2).elem 32 L else (p.vsrc (.int true 32) o.s1).elem 32 L

theorem gives_vsel (h : Hd) (o : OpC) (s : State) :
    let j : Iss := { elemIss h o [o.s1, o.s2] with reads := rds [o.s1, o.s2] ++ [.p (selReg o.mod)] }
    Gives (.vsel h o) j s fun q => q.putElems o.d (lanesFor s j) 32 ((s.part s.cur).selLane o) := by
  have he := exec_vsel h o s
  simp only [execVsel, bne_iff_ne, ite_not] at he
  exact (gives_of_exec_eq_mapElems (f := fun p => p.selLane o) he :)

/-- Settles O9: an element of a packed register is the one put there, fitting is arithmetic modulo 2^w or a clamp, and each member is an element operation whose
values are those of its sources' elements. -/
theorem vectorInteger : Obligations.VectorInteger := by
  unfold Obligations.VectorInteger
  refine ⟨⟨fun old mask w j f hw hj => ?elements, fun w v hw => ⟨natCast_wrapInt w v, intOf_satInt hw v, natCast_satInt w v⟩⟩, ?members⟩
  case elements =>
    have hdvd : w ∣ 2048 := by rcases hw with rfl | rfl | rfl <;> decide
    exact elemOf_mapElems hdvd old mask f hj
  case members =>
    intro h c o s
    refine ⟨?vadd, ?vsub, ?vmul, givesElems_vmad h o s, ?vmin, ?vmax, givesElems_vabs h o s, ?vand, ?vor, ?vxor, ?vshl, ?vshr, ?vsar, gives_vcmp h c o s,
      ?vmov, ?vbcast, gives_vsel h o s⟩
    -- `( … :)` fixes the operation before the goal is met, as for the scalar members.
    case vadd => exact (givesElems_of_exec_eq_vInt2 (exec_vadd h o s) :)
    case vsub => exact (givesElems_of_exec_eq_vInt2 (exec_vsub h o s) :)
    case vmul => exact (givesElems_of_exec_eq_vInt2 (exec_vmul h o s) :)
    case vmin => exact (givesElems_of_exec_eq_vInt2 (exec_vmin h o s) :)
    case vmax => exact (givesElems_of_exec_eq_vInt2 (exec_vmax h o s) :)
    case vand => exact (givesElems_of_exec_eq_vBit (exec_vand h o s) :)
    case vor => exact (givesElems_of_exec_eq_vBit (exec_vor h o s) :)
    case vxor => exact (givesElems_of_exec_eq_vBit (exec_vxor h o s) :)
    case vshl => exact (givesElems_of_exec_eq_vBit (exec_vshl h o s) :)
    case vshr => exact (givesElems_of_exec_eq_vBit (exec_vshr h o s) :)
    case vsar => exact (givesElems_of_exec_eq_vBit (exec_vsar h o s) :)
    case vmov => exact (gives_of_exec_eq_mapElems (exec_vmov h o s) :)
    case vbcast => exact (gives_of_exec_eq_mapElems (exec_vbcast h o s) :)

end Sys2Proof.Machine
end

section
/-! PROOFS. How the body of an instruction runs, step by step: what each step hands to what follows it, and the state in which that goes on. -/

namespace Sys2Proof.Machine

/-! ## A step and what follows it -/

section
variable {α β : Type} {s t : State}

theorem bind_of_ok {x : M α} {a : α} (f : α → M β) (h : x s = .ok (a, t)) : (x >>= f) s = f a t := by
  show (x s >>= fun r => f r.1 r.2) = f a t
  rw [h]
  rfl

@[simp] theorem pureM_run (a : α) : (pure a : M α) s = .ok (a, s) := rfl
@[simp] theorem illegalValue_run : (illegalValue : M α) s = .error (.trap (valueTrap (s.part s.cur))) := rfl

@[simp] theorem illegalValue_bind (f : β → M α) : (illegalValue >>= f) s = .error (.trap (valueTrap (s.part s.cur))) := rfl
@[simp] theorem me_bind (f : Nat → M α) : (me >>= f) s = f s.cur s := rfl
@[simp] theorem myPart_bind (f : Part → M α) : (myPart >>= f) s = f (s.part s.cur) s := rfl
@[simp] theorem getState_bind (f : State → M α) : ((get : M State) >>= f) s = f s s := rfl
@[simp] theorem modifyState_bind (g : State → State) (f : PUnit → M α) : ((modify g : M PUnit) >>= f) s = f ⟨⟩ (g s) := rfl
@[simp] theorem setMine_bind (g : Part → Part) (f : Unit → M α) : (setMine g >>= f) s = f () (s.modPart s.cur g) := rfl
@[simp] theorem putM_bind (d : Dst) (v : W64) (f : Unit → M α) : (putM d v >>= f) s = f () (s.modPart s.cur (·.put d v)) := rfl
@[simp] theorem acquireM_bind (scope : Nat) (f : Unit → M α) : (acquireM scope >>= f) s = f () (acquireAt s (flatOf s.cur) scope) := rfl

/-! A release waits for the stores before it; outside a task nothing is held. -/

theorem releaseNow_bind (hs : storesDone s s.cur = true) (scope : Nat) (f : Bool → M α) :
    (releaseNow scope >>= f) s = f true (releaseAt s (flatOf s.cur) scope) :=
  bind_of_ok f (by simp only [releaseNow, me_bind, getState_bind, hs, if_true, modifyState_bind, pureM_run])

theorem releaseM_bind (ht : taskOn s s.cur = none) (hs : storesDone s s.cur = true) (scope : Nat) (f : Bool → M α) :
    (releaseM scope >>= f) s = f true (releaseAt s (flatOf s.cur) scope) := by
  have hnow : releaseM scope s = releaseNow scope s := by
    simp only [releaseM, me_bind, getState_bind, ht, Option.isSome_none, Bool.false_eq_true, if_false]
  rw [← releaseNow_bind hs scope f]
  show (releaseM scope s >>= fun r => f r.1 r.2) = (releaseNow scope s >>= fun r => f r.1 r.2)
  rw [hnow]

theorem heldWaits_bind (ht : taskOn s s.cur = none) (f : Bool → M α) : (heldWaits >>= f) s = f false s :=
  bind_of_ok f (by simp only [heldWaits, me_bind, getState_bind, ht, Option.isSome_none, Bool.false_and, pureM_run])

theorem holdM_bind (ht : taskOn s s.cur = none) (a : HeldAct) (f : Bool → M α) : (holdM a >>= f) s = f false s :=
  bind_of_ok f (by simp only [holdM, me_bind, getState_bind, ht, pureM_run])
end

/-! ## How an instruction that issues ends -/

/-- The outcome of an operand value that is ILLEGAL (R77, R78). -/
abbrev valueOutcome (s : State) : Host.Outcome State Fault Refusal := .next (takeTrap s s.cur (valueTrap (s.part s.cur)))

section
variable {s t : State} {i : Iss} {body : W64 → M Flow}

theorem issue_placed (hi : issues s i = true) (hb : body (lanesFor s i) s = .ok (.placed, t)) : issue i body s = placedAt i s t := by
  rw [issue_of_issues body hi, hb]
  rfl

theorem issue_value (hi : issues s i = true) (hb : body (lanesFor s i) s = .error (.trap (valueTrap (s.part s.cur)))) :
    issue i body s = valueOutcome s :=
  issue_stops hi hb
end

end Sys2Proof.Machine
end

section
/-! PROOFS. What memory and messages leave of the instruction that acts: the acting partition, and the tasks. -/

namespace Sys2Proof.Machine

/-- What the rest of a body asks of the state that a step has left: who acts, and the tasks of which one may run there. -/
def issuer (s : State) : Nat × List Task := (s.cur, s.tasks)

theorem cur_of_issuer {s t : State} (h : issuer t = issuer s) : t.cur = s.cur := congrArg Prod.fst h

theorem taskOn_of_issuer {s t : State} (h : issuer t = issuer s) (k : Nat) : taskOn t k = taskOn s k :=
  congrArg (fun i : Nat × List Task => i.2.find? fun x : Task => x.state = .running && x.k = k) h

theorem issuer_foldl {β : Type} {f : State → β → State} (hf : ∀ s b, issuer (f s b) = issuer s) (l : List β) (s : State) :
    issuer (l.foldl f s) = issuer s := by
  induction l generalizing s with
  | nil => rfl
  | cons b l ih => exact (ih (f s b)).trans (hf s b)

/-! ## Writes at a home, and the watches that they fire -/

theorem issuer_modPart (s : State) (k : Nat) (f : Part → Part) : issuer (s.modPart k f) = issuer s := rfl

theorem issuer_modPartOf (s : State) (flat c : Nat) (f : Part → Part) : issuer (s.modPartOf flat c f) = issuer s := by
  unfold State.modPartOf
  split <;> rfl

theorem issuer_wakeWatcher (s : State) (w : Watch) : issuer (wakeWatcher s w) = issuer s := by
  unfold wakeWatcher
  split
  · exact issuer_modPart ..
  · exact (issuer_modPartOf ..).trans (issuer_modPartOf ..)

theorem issuer_fireWatches (s : State) (keys : List Nat) : issuer (fireWatches s keys) = issuer s := by
  refine issuer_foldl (fun s w => ?_) _ s
  split
  · split
    · exact issuer_wakeWatcher _ w
    · rfl
  · rfl

theorem issuer_homeWriteAll (s : State) (flat : Nat) (bs : List (W64 × Byte)) : issuer (homeWriteAll s flat bs) = issuer s := by
  have hput := issuer_foldl (f := fun s (b : W64 × Byte) => match homeKey s flat b.1 with
    | some k => { s with mem := memWrite s.mem k b.2 }
    | none => s) (fun s b => by split <;> rfl) bs s
  unfold homeWriteAll
  dsimp only
  split
  · exact hput
  · exact (issuer_fireWatches ..).trans hput

/-! ## Stash lines and guest copies -/

theorem issuer_stashMark (s : State) (k : Nat) (g line : W64) (v : Option Bool) : issuer (stashMark s k g line v) = issuer s := issuer_modPart ..

theorem issuer_stashWriteBack (s : State) (k : Nat) (m : Stash) (line : W64) : issuer (stashWriteBack s k m line) = issuer s := by
  unfold stashWriteBack markLost homeWrite
  split
  · split <;> rfl
  · exact issuer_homeWriteAll ..

theorem issuer_stashRecallLine (s : State) (k : Nat) (line : W64) : issuer (stashRecallLine s k line) = issuer s := by
  unfold stashRecallLine
  split
  · rfl
  · split
    · rfl
    · rw [issuer_stashMark]
      split
      · exact issuer_stashWriteBack ..
      · rfl

theorem issuer_recallOthers (s : State) (except : Option Nat) (flat : Nat) (line : W64) : issuer (recallOthers s except flat line) = issuer s := by
  refine issuer_foldl (fun s kp => ?_) s.parts s
  split
  · rfl
  · exact issuer_stashRecallLine ..

theorem issuer_guestWriteThrough (s : State) (g : Guest) : issuer (guestWriteThrough s g) = issuer s := by
  unfold guestWriteThrough
  split
  · rfl
  · exact (issuer_foldl (fun _ _ => issuer_homeWriteAll ..) _ _).trans (issuer_recallOthers ..)

/-! ## Releases and acquires -/

theorem issuer_releaseDie (s : State) (dk : Nat) : issuer (releaseDie s dk) = issuer s := by
  refine (issuer_foldl (fun s e => ?stash) _ _).trans (issuer_foldl (fun s g => ?guest) _ s)
  case guest =>
    split
    · exact issuer_guestWriteThrough s g
    · rfl
  case stash =>
    split
    · split
      · exact (issuer_stashMark ..).trans (issuer_stashWriteBack ..)
      · rfl
    · rfl

theorem issuer_acquireDie (s : State) (dk : Nat) : issuer (acquireDie s dk) = issuer s :=
  (issuer_foldl (fun _ _ => issuer_stashMark ..) (stashGuestLines _ dk) _).trans (issuer_releaseDie s dk)

theorem issuer_releaseAt (s : State) (flat scope : Nat) : issuer (releaseAt s flat scope) = issuer s := by
  unfold releaseAt
  split
  · exact issuer_releaseDie ..
  · rfl

theorem issuer_acquireAt (s : State) (flat scope : Nat) : issuer (acquireAt s flat scope) = issuer s := by
  unfold acquireAt
  split
  · exact issuer_acquireDie ..
  · rfl

theorem issuer_streamsAcquired (s : State) (k : Nat) : issuer (streamsAcquired s k) = issuer s := by
  refine issuer_foldl (fun t r => ?_) _ s
  dsimp only
  split
  · exact issuer_acquireAt ..
  · rfl

theorem issuer_sendMsg (s : State) (m : Msg) : issuer (sendMsg s m) = issuer s := by
  unfold sendMsg
  dsimp only
  split <;> rfl

/-! ## The acting partition and its task, by operation -/

@[simp] theorem perf_cur (s : State) (k event n : Nat) : (perf s k event n).cur = s.cur := rfl
@[simp] theorem releaseAt_cur (s : State) (flat scope : Nat) : (releaseAt s flat scope).cur = s.cur := cur_of_issuer (issuer_releaseAt ..)
@[simp] theorem sendMsg_cur (s : State) (m : Msg) : (sendMsg s m).cur = s.cur := cur_of_issuer (issuer_sendMsg ..)
@[simp] theorem streamsAcquired_cur (s : State) (k : Nat) : (streamsAcquired s k).cur = s.cur := cur_of_issuer (issuer_streamsAcquired ..)
@[simp] theorem taskOn_streamsAcquired (s : State) (k j : Nat) : taskOn (streamsAcquired s k) j = taskOn s j := taskOn_of_issuer (issuer_streamsAcquired ..) j
@[simp] theorem msgScope_modPart (s : State) (k : Nat) (f : Part → Part) (a b : Nat) : msgScope (s.modPart k f) a b = msgScope s a b := rfl

end Sys2Proof.Machine
end

section
/-! PROOFS. AMSG, AMRET and AMWAIT (R363, R364, R367 to R369). -/

namespace Sys2Proof.Machine

/-! ## AMSG (R367) -/

theorem exec_amsg (h : Hd) (o : OpE) (s : State) : exec (.amsg h o) s = execAmsg h o s := rfl

abbrev amsgIss (h : Hd) (o : OpE) : Iss := { h, reads := rds [o.s1, o.s2, o.s3, o.s4], writes := wr o.d none }

/-- The message of an AMSG in partition k. -/
abbrev Part.amsg (p : Part) (o : OpE) (k : Nat) : Msg :=
  let l := o.lit.getD 0
  { dest := (p.src l o.s1).toNat % 2 ^ 32, tag := (p.src l o.s4).setWidth 16, cls := if o.mod.getLsbD 0 then 3 else 0
    rp := o.mod.getLsbD 1, bnc := false, status := 0, handler := p.src l o.s2, args := argsOf (p.vreg o.s3), key := 0, src := flatOf k
    srcPart := ⟨idxOf k, by unfold idxOf; omega⟩, ctx := p.ctx, task := false, parent := none, sender := .nobody }

/-- A message with RP takes a slot of the reply table. -/
def keepSlot (s : State) (rp : Bool) (x : RSlot) : State := if rp then s.modPart s.cur fun p => { p with replies := p.replies ++ [x] } else s

section
variable (s : State) (rp : Bool) (x : RSlot)

theorem keepSlot_bind {α : Type} (f : Unit → M α) :
    (if rp then setMine (fun p => { p with replies := p.replies ++ [x] }) >>= f else f ()) s = f () (keepSlot s rp x) := by
  cases rp <;> rfl

@[simp] theorem keepSlot_cur : (keepSlot s rp x).cur = s.cur := by cases rp <;> rfl
@[simp] theorem taskOn_keepSlot (k : Nat) : taskOn (keepSlot s rp x) k = taskOn s k := by cases rp <;> rfl
@[simp] theorem storesDone_keepSlot (k : Nat) : storesDone (keepSlot s rp x) k = storesDone s k := by cases rp <;> rfl
@[simp] theorem outbound_keepSlot (flat : Nat) : outbound (keepSlot s rp x) flat = outbound s flat := by cases rp <;> rfl
end

/-- What an AMSG with RP needs: a partition with a reply table, in which the tag is unused and a slot is left. -/
def ReplyFree (p : Part) (o : OpE) (k : Nat) : Prop :=
  o.mod.getLsbD 1 = true → idxOf k ≠ 3 ∧ (∀ x ∈ p.replies, x.tag ≠ (p.amsg o k).tag) ∧ p.replies.length < 32

/-- The three checks of AMSG pass. -/
theorem replyFree_iff (p : Part) (o : OpE) (k : Nat) :
    ReplyFree p o k ↔ (o.mod.getLsbD 1 && decide (idxOf k = 3)) = false ∧ (o.mod.getLsbD 1 && p.replies.any fun r => r.tag = (p.amsg o k).tag) = false ∧
      (o.mod.getLsbD 1 && decide (32 ≤ p.replies.length)) = false := by
  unfold ReplyFree
  cases o.mod.getLsbD 1 <;> simp

/-- The state from which an AMSG sends: its slot is kept, and what it releases is performed. -/
abbrev sendFrom (o : OpE) (s : State) : State :=
  let m := (s.part s.cur).amsg o s.cur
  let s1 := keepSlot s m.rp ⟨m.tag, m.dest, none⟩
  releaseAt s1 (flatOf s.cur) (msgScope s1 (flatOf s.cur) m.dest)

section
variable {h : Hd} {o : OpE} {s : State}

/-- An AMSG that may send does so unless the outbound queue is full: partition D then is told so, another partition waits (R360). -/
theorem exec_amsg_of_replyFree (hi : issues s (amsgIss h o) = true) (ht : taskOn s s.cur = none) (hs : storesDone s s.cur = true)
    (hfree : ReplyFree (s.part s.cur) o s.cur) :
    exec (.amsg h o) s = .next (bodyEnd (amsgIss h o) s (
      if 16 ≤ outbound s (flatOf s.cur) then
        if idxOf s.cur = 3 then .ok (.done, (sendFrom o s).modPart s.cur (·.put o.d 0)) else .ok (.wait, sendFrom o s)
      else .ok (.done, (perf (sendMsg (sendFrom o s) ((s.part s.cur).amsg o s.cur)) s.cur 9 1).modPart s.cur (·.put o.d 1)))) := by
  obtain ⟨hD, htag, hlen⟩ := (replyFree_iff ..).mp hfree
  rw [exec_amsg, execAmsg, issue_of_issues _ hi]
  congr 2
  simp only [me_bind, myPart_bind, hD, htag, hlen, Bool.false_eq_true, if_false, keepSlot_bind, heldWaits_bind, holdM_bind, releaseNow_bind, getState_bind,
    keepSlot_cur, taskOn_keepSlot, storesDone_keepSlot, outbound_keepSlot, ht, hs, Bool.not_true]
  split
  · split <;> simp only [putM_bind, pureM_run, releaseAt_cur, keepSlot_cur]
  · simp only [modifyState_bind, putM_bind, pureM_run, perf_cur, sendMsg_cur, releaseAt_cur, keepSlot_cur]

theorem leaves_amsg_sent (ht : taskOn s s.cur = none) (hs : storesDone s s.cur = true) (hfree : ReplyFree (s.part s.cur) o s.cur)
    (hroom : outbound s (flatOf s.cur) < 16) :
    Leaves (.amsg h o) (amsgIss h o) s ((perf (sendMsg (sendFrom o s) ((s.part s.cur).amsg o s.cur)) s.cur 9 1).modPart s.cur (·.put o.d 1)) := by
  intro hi
  rw [exec_amsg_of_replyFree hi ht hs hfree, if_neg (not_le.mpr hroom)]
  rfl

theorem leaves_amsg_full (ht : taskOn s s.cur = none) (hs : storesDone s s.cur = true) (hfree : ReplyFree (s.part s.cur) o s.cur)
    (hfull : 16 ≤ outbound s (flatOf s.cur)) (hk : idxOf s.cur = 3) :
    Leaves (.amsg h o) (amsgIss h o) s ((sendFrom o s).modPart s.cur (·.put o.d 0)) := by
  intro hi
  rw [exec_amsg_of_replyFree hi ht hs hfree, if_pos hfull, if_pos hk]
  rfl

theorem exec_amsg_value (hi : issues s (amsgIss h o) = true) (hrp : o.mod.getLsbD 1 = true)
    (hbad : idxOf s.cur = 3 ∨ ∃ x ∈ (s.part s.cur).replies, x.tag = ((s.part s.cur).amsg o s.cur).tag) : exec (.amsg h o) s = valueOutcome s := by
  rw [exec_amsg, execAmsg]
  refine issue_value hi ?_
  simp only [me_bind, myPart_bind, hrp, Bool.true_and, decide_eq_true_eq]
  by_cases hk : idxOf s.cur = 3
  · simp only [hk, if_true, illegalValue_bind]
  · have hused : ((s.part s.cur).replies.any fun r => r.tag = ((s.part s.cur).amsg o s.cur).tag) = true := by simpa using hbad.resolve_left hk
    simp only [hk, if_false, hused, if_true, illegalValue_bind]

/-! ## AMRET (R368) -/

theorem exec_amret (h : Hd) (o : OpE) (s : State) : exec (.amret h o) s = execAmret h o s := rfl

abbrev amretIss (h : Hd) (o : OpE) : Iss := { h, reads := if o.s1 = .v 0 then [] else rds [o.s1] }

/-- Word 0 of the reply of an AMRET. -/
abbrev Part.amretWord (p : Part) (o : OpE) : W64 :=
  match o.s1 with
  | .v _ => 0
  | x => p.src (o.lit.getD 0) x

theorem exec_amret_value (hi : issues s (amretIss h o) = true) (hk : idxOf s.cur ≠ 3) : exec (.amret h o) s = valueOutcome s := by
  rw [exec_amret, execAmret]
  refine issue_value hi ?_
  simp only [me_bind, myPart_bind, ne_eq, hk, not_false_eq_true, if_true, illegalValue_bind]

/-- The state in which a handler's message has been answered, where it wants a reply. -/
abbrev answered (o : OpE) (s : State) (x : Msg) : State :=
  let u := streamsAcquired s s.cur
  if x.rp then sendMsg (releaseAt u (flatOf s.cur) (msgScope u x.src (flatOf s.cur))) (replyTo x 0 ((s.part s.cur).amretWord o) 0 0) else u

theorem exec_amret_of_drained {x : Msg} (hi : issues s (amretIss h o) = true) (ht : taskOn s s.cur = none) (hk : idxOf s.cur = 3)
    (hdrained : (s.part s.cur).drained = true) (hx : ((streamsAcquired s s.cur).core (flatOf s.cur)).dmsg = some x)
    (hs : x.rp = true → storesDone (streamsAcquired s s.cur) s.cur = true) :
    exec (.amret h o) s = placedAt (amretIss h o) s (dIdle (answered o s x) (flatOf s.cur)) := by
  rw [exec_amret, execAmret]
  refine issue_placed hi ?_
  simp only [me_bind, myPart_bind, ne_eq, hk, not_true_eq_false, if_false, hdrained, Bool.not_true, Bool.false_eq_true, modifyState_bind, getState_bind, hx]
  cases hrp : x.rp with
  | false => simp only [answered, hrp, Bool.false_eq_true, if_false, modifyState_bind, pureM_run]
  | true =>
    simp only [answered, hrp, if_true, releaseM_bind, streamsAcquired_cur, taskOn_streamsAcquired, ht, hs hrp, Bool.not_true, Bool.false_eq_true, if_false, modifyState_bind,
      pureM_run] <;> rfl

/-- Without a bound write stream there is nothing to acquire. -/
theorem streamsAcquired_of_no_write {k : Nat} (hr : ∀ r : Fin 8, ((s.part k).streams[r]).state = .unbound ∨ ((s.part k).streams[r]).write = false) :
    streamsAcquired s k = s := by
  have hstep (t : State) (r : Fin 8) :
      (if ((s.part k).streams[r]).state ≠ .unbound && ((s.part k).streams[r]).write then acquireAt t (flatOf k) ((s.part k).streams[r]).scope else t) = t := by
    obtain hunbound | hread := hr r
    · simp only [hunbound, ne_eq, not_true_eq_false, decide_false, Bool.false_and, Bool.false_eq_true, if_false]
    · simp only [hread, Bool.and_false, Bool.false_eq_true, if_false]
  simp only [streamsAcquired, hstep, List.foldl_fixed]

/-! ## AMWAIT (R363, R364, R369) -/

theorem exec_amwait (h : Hd) (o : OpE) (s : State) : exec (.amwait h o) s = execAmwait h o s := rfl

abbrev amwaitIss (h : Hd) (o : OpE) : Iss := { h, reads := rds [o.s1], writes := wr o.d none ++ wr (predDst o.s4) none }

/-- The tag for whose reply an AMWAIT waits. -/
abbrev Part.waitTag (p : Part) (o : OpE) : Half := (p.src (o.lit.getD 0) o.s1).setWidth 16

theorem exec_amwait_value (hi : issues s (amwaitIss h o) = true)
    (hbad : idxOf s.cur = 3 ∨ ∀ x ∈ (s.part s.cur).replies, x.tag ≠ (s.part s.cur).waitTag o) : exec (.amwait h o) s = valueOutcome s := by
  rw [exec_amwait, execAmwait]
  refine issue_value hi ?_
  simp only [me_bind, myPart_bind]
  by_cases hk : idxOf s.cur = 3
  · simp only [hk, if_true, illegalValue_bind]
  · have hnone : ((s.part s.cur).replies.find? fun r => r.tag = (s.part s.cur).waitTag o) = none := by simpa using hbad.resolve_left hk
    simp only [hk, if_false, hnone, illegalValue_run]

/-- A reply leaves its slot: a good one gives its word under an acquire, a failed one clears the predicate or raises its trap. -/
theorem exec_amwait_of_reply {x : RSlot} {st reason : Nat} {w0 w1 : W64} (hi : issues s (amwaitIss h o) = true) (hk : idxOf s.cur ≠ 3)
    (hx : ((s.part s.cur).replies.find? fun r => r.tag = (s.part s.cur).waitTag o) = some x) (hr : x.reply = some (st, w0, w1, reason)) :
    let t := s.modPart s.cur fun p => { p with replies := p.replies.erase x }
    exec (.amwait h o) s = .next (bodyEnd (amwaitIss h o) s (.ok (
      if st = 0 then
        (.done, acquireAt (t.modPart s.cur fun p => (p.put o.d w0).put (predDst o.s4) ones64) (flatOf s.cur) (msgScope s (flatOf s.cur) x.dest))
      else if o.mod.getLsbD 0 then (.done, t.modPart s.cur (·.put (predDst o.s4) 0))
      else (.trapped (replyTrap ((s.part s.cur).waitTag o) st w1 reason), t)))) := by
  rw [exec_amwait, execAmwait, issue_of_issues _ hi]
  congr 2
  simp only [me_bind, myPart_bind, hk, if_false, hx, hr, setMine_bind]
  split
  · simp only [putM_bind, getState_bind, acquireM_bind, pureM_run, State.modPart_modPart, State.modPart_cur, msgScope_modPart]
  · split <;> simp only [putM_bind, pureM_run, State.modPart_cur]

/-- R364: a status that is no failed access is MESSAGE. -/
theorem replyTrap_of_five_le (tg : Half) {st : Nat} (w1 : W64) (reason : Nat) (hst : 5 ≤ st) :
    replyTrap tg st w1 reason = ⟨0x12, 1, BitVec.ofNat 64 (tg.toNat * 65536 + st * 256), none⟩ := by
  obtain ⟨n, rfl⟩ := Nat.exists_eq_add_of_le' hst
  rfl

end

/-- Settles O38: an AMSG whose checks pass turns on the outbound queue alone, an AMRET on whether its message wants a reply, an AMWAIT on the reply's status. -/
theorem messageInstructions : Obligations.MessageInstructions := by
  unfold Obligations.MessageInstructions
  intro h o s p k flat l rp i r w tag dest m s1 value ht
  refine ⟨fun hs hfree => ⟨fun hroom => ?sent, fun hfull hk => ?full⟩, ?amsgValue, fun hk hd => ⟨fun x hx hrp hs hi => ?reply, fun x hx hrp hi => ?noReply⟩,
    ?noWrite, ?amretValue, fun hk x st w0 w1 reason hx hr => ⟨fun hst hi => ?word, fun hst hpred hi => ?cleared, fun hst hpred hi => ?raised⟩, ?amwaitValue,
    fun tg st w1 reason => ⟨rfl, rfl, rfl, rfl, fun hlo hhi => ?message⟩⟩
  case sent => exact leaves_amsg_sent ht hs hfree hroom
  case full => exact leaves_amsg_full ht hs hfree hfull hk
  case amsgValue => exact exec_amsg_value
  case reply =>
    have hret := exec_amret_of_drained hi ht hk hd hx fun _ => hs
    rw [answered, if_pos hrp] at hret
    exact hret
  case noReply =>
    have hplain : ¬ x.rp = true := ne_true_of_eq_false hrp
    rw [exec_amret_of_drained hi ht hk hd hx (absurd · hplain), answered, if_neg hplain]
  case noWrite => exact streamsAcquired_of_no_write
  case amretValue => exact fun hk hi => exec_amret_value hi hk
  case word =>
    rw [exec_amwait_of_reply hi hk hx hr, if_pos hst]
    rfl
  case cleared =>
    rw [exec_amwait_of_reply hi hk hx hr, if_neg hst, if_pos hpred]
    rfl
  case raised =>
    rw [exec_amwait_of_reply hi hk hx hr, if_neg hst, if_neg (ne_true_of_eq_false hpred)]
    rfl
  case amwaitValue => exact exec_amwait_value
  case message =>
    have htg := tg.isLt
    rw [replyTrap_of_five_le tg w1 reason hlo]
    exact ⟨rfl, rfl, rfl, Nat.mod_eq_of_lt (by omega)⟩

end Sys2Proof.Machine
end

section
/-! PROOFS. What the checks of an access and the reading of its lines leave of the instruction that acts. -/

namespace Sys2Proof.Machine

/-! ## The checks of an access -/

theorem issuer_plbFind {s t : State} {flat : Nat} {dom : Half} {va : W64} {e : PlbEnt} (h : plbFind s flat dom va = .ok (t, e)) : issuer t = issuer s := by
  simp only [plbFind] at h
  split at h
  · cases h
    rfl
  · split at h
    · cases h
    · cases h
      exact issuer_acquireAt s flat 3

theorem issuer_checkRightsPiece {s t : State} {w : Who} {acc : Acc} {a : W64} {n : Nat} (h : checkRightsPiece s w acc a n = .ok t) : issuer t = issuer s := by
  unfold checkRightsPiece at h
  split at h
  case h_1 | h_2 => cases h
  case h_3 =>
    dsimp only at h
    split at h
    · cases h
    · split at h
      · cases h
      · cases h
        rfl
  case h_4 =>
    split at h
    · cases h
    · next hfound =>
      split at h
      · cases h
      · split at h
        · cases h
        · cases h
          exact issuer_plbFind hfound

theorem issuer_checkPresentPiece {s t : State} {w : Who} {acc : Acc} {a : W64} (h : checkPresentPiece s w acc a = .ok t) : issuer t = issuer s := by
  unfold checkPresentPiece at h
  split at h
  case h_1 =>
    split at h
    · cases h
    · split at h
      · cases h
      · split at h <;> cases h <;> rfl
  case h_2 =>
    cases h
    rfl

theorem issuer_foldRights {w : Who} {acc : Acc} {ps : List (W64 × Nat)} {s t : State} {wk wk' : Bool} (h : foldRights w acc ps s wk = .ok (t, wk')) :
    issuer t = issuer s := by
  induction ps generalizing s wk with
  | nil =>
    cases h
    rfl
  | cons p ps ih =>
    simp only [foldRights] at h
    split at h
    · cases h
    · next hp => exact (ih h).trans (issuer_checkRightsPiece hp)

theorem issuer_foldPieces {f : State → W64 → Nat → Except AErr State} (hf : ∀ {s t a n}, f s a n = .ok t → issuer t = issuer s)
    {ps : List (W64 × Nat)} {s t : State} (h : foldPieces f s ps = .ok t) : issuer t = issuer s := by
  induction ps generalizing s with
  | nil =>
    cases h
    rfl
  | cons p ps ih =>
    simp only [foldPieces] at h
    split at h
    · cases h
    · next hp => exact (ih h).trans (hf hp)

theorem issuer_checkAccess {s t : State} {w : Who} {acc : Acc} {rs : List (W64 × Nat)} (h : checkAccess s w acc rs = .ok t) : issuer t = issuer s := by
  simp only [checkAccess] at h
  split at h
  · cases h
  · next hrights =>
    split at h
    · cases h
    · split at h
      · cases h
      · next hpresent =>
        cases h
        exact (issuer_foldPieces issuer_checkPresentPiece hpresent).trans (issuer_foldRights hrights)

/-! ## The lines of an access -/

theorem issuer_keepLeaf (s : State) (dev : Nat) (va : W64) : issuer (keepLeaf s dev va) = issuer s := by
  unfold keepLeaf
  split <;> rfl

theorem issuer_hot (s : State) (flat : Nat) (va : W64) : issuer (hot s flat va) = issuer s := by
  unfold hot
  split
  · split
    · exact issuer_keepLeaf ..
    · rfl
  · rfl

theorem issuer_hotLoad (s : State) (flat : Nat) (va : W64) : issuer (hotLoad s flat va) = issuer s := by
  unfold hotLoad
  split
  · rfl
  · exact issuer_hot ..

theorem issuer_hint (s : State) (flat : Nat) (va : W64) : issuer (hint s flat va) = issuer s := by
  unfold hint
  split
  · split <;> rfl
  · rfl

theorem issuer_visit (s : State) (w : Who) (line : W64) : issuer (visit s w line) = issuer s := by
  refine (issuer_hint ..).trans ((issuer_hotLoad ..).trans ?_)
  split <;> rfl

theorem issuer_fillGuest (s : State) (flat : Nat) (line : W64) : issuer (fillGuest s flat line) = issuer s := by
  unfold fillGuest
  split
  · split <;> rfl
  · rfl

theorem issuer_guestDrop (s : State) (dk : Nat) (line : W64) : issuer (guestDrop s dk line) = issuer s := by
  unfold guestDrop
  split
  · rfl
  · exact issuer_guestWriteThrough ..

theorem issuer_spadHeal (s : State) (flat off : Nat) : issuer (spadHeal s flat off) = issuer s := by
  unfold spadHeal
  split <;> rfl

/-- With this rule the bytes that a fill writes stay folded. -/
theorem issuer_withMem (s : State) (m : List Host.Cell) : issuer { s with mem := m } = issuer s := rfl

theorem issuer_stashFill (s : State) (w : Who) (m : Stash) (line : W64) : issuer (stashFill s w m line) = issuer s := by
  rw [stashFill, issuer_stashMark, issuer_spadHeal, issuer_withMem, issuer_hint, issuer_guestDrop]

theorem issuer_prepLine (s : State) (w : Who) (line : W64) : issuer (prepLine s w line) = issuer s := by
  unfold prepLine
  split
  · refine Eq.trans ?_ (issuer_recallOthers s (some w.k) w.flat line)
    dsimp only
    split
    · split
      · exact issuer_visit ..
      · split
        · rfl
        · exact issuer_stashFill ..
    · exact (issuer_fillGuest ..).trans (issuer_visit ..)
  · rfl

theorem issuer_prepLines (s : State) (w : Who) (ls : List W64) : issuer (prepLines s w ls) = issuer s :=
  issuer_foldl (fun s l => issuer_prepLine s w l) ls s

end Sys2Proof.Machine
end

section
/-! PROOFS. The rules of Carillon's operations: what each hands to what follows it, or how it stops (R402 to R416). -/

namespace Sys2Proof.Machine

/-! ## What stops a body -/

section
variable {α β : Type} {s : State} {e : Stop}

theorem bind_of_error {x : M α} (f : α → M β) (h : x s = .error e) : (x >>= f) s = .error e := by
  show (x s >>= fun r => f r.1 r.2) = .error e
  rw [h]
  rfl

@[simp] theorem stop_run : (stop e : M α) s = .error e := rfl
@[simp] theorem stop_bind (f : α → M β) : (stop e >>= f) s = .error e := rfl
@[simp] theorem myCl_bind (f : Nat → M β) : (myCl >>= f) s = f (clOf (flatOf s.cur)) s := rfl
end

/-! ## Records and leaves of a cluster that are written (R402, R405) -/

/-- Region g of a cluster has the record r. -/
abbrev putRegion (s : State) (cl g : Nat) (r : TreeRegion) : State := s.modCluster cl fun c => { c with regions := mset c.regions g r }

/-- Leaves of a cluster, each a unit leaf and a code, are written. -/
abbrev putLeaves (s : State) (cl : Nat) (vs : List (Nat × Nat)) : State := s.modCluster cl fun c => vs.foldl (fun c v => setLeaf c v.1 (storedRate v.2)) c

/-- The leaves of a cluster but for 2^n from lo on. -/
abbrev Cluster.leavesBut (c : Cluster) (lo n : Nat) : Map Nat := c.leaves.filter fun v => !(decide (lo ≤ v.1) && decide (v.1 < lo + 2 ^ n))

@[simp] theorem setRegion_bind {α : Type} (s : State) (cl g : Nat) (r : TreeRegion) (f : Unit → M α) :
    (setRegion cl g r >>= f) s = f () (putRegion s cl g r) := rfl

/-! ## The regions that an instruction may name (R403, R405, R416, R424) -/

/-- The cluster of the acting partition. -/
abbrev actingCl (s : State) : Nat := clOf (flatOf s.cur)

/-- The grant of the acting partition's context in its cluster. -/
abbrev actingGrant (s : State) : W64 × Nat × Nat := egrantOf s (s.part s.cur).ctx (actingCl s)

/-- Region g is granted to the acting partition's context. -/
def Granted (s : State) (g : Nat) : Prop := (actingGrant s).1.getLsbD g = true

/-- Region g is granted and ACTIVE, with the record r. -/
structure Active (s : State) (g : Nat) (r : TreeRegion) : Prop where
  granted : Granted s g
  record : mfind (s.cluster (actingCl s)).regions g = some r

/-- A task that runs in the acting partition has the region of the record r. -/
def OwnRegion (s : State) (r : TreeRegion) : Prop := ∀ t, taskOn s s.cur = some t → t.region = r.regid

theorem ownRegion_of_no_task {s : State} (ht : taskOn s s.cur = none) (r : TreeRegion) : OwnRegion s r := by
  simp [OwnRegion, ht]

section
variable {α : Type} {s : State} {g : Nat} {r : TreeRegion}

theorem ownedRegion_bind (hg : Granted s g) (f : Unit → M α) : (ownedRegion g >>= f) s = f () s :=
  bind_of_ok f (by simp only [ownedRegion, myCl_bind, myPart_bind, getState_bind, show (egrantOf s _ _).1.getLsbD g = true from hg, Bool.not_true,
    Bool.false_eq_true, if_false, pureM_run])

theorem ownedRegion_notOwned (hg : (actingGrant s).1.getLsbD g = false) : ownedRegion g s = .error (treeTrap 0 1 g) := by
  simp only [ownedRegion, myCl_bind, myPart_bind, getState_bind, hg, Bool.not_false, if_true, stop_run]

theorem regionM_notOwned (hg : (actingGrant s).1.getLsbD g = false) : regionM g s = .error (treeTrap 0 1 g) :=
  bind_of_error _ (ownedRegion_notOwned hg)

theorem regionM_inactive (hg : Granted s g) (hr : mfind (s.cluster (actingCl s)).regions g = none) : regionM g s = .error (treeTrap 0 2 g) := by
  simp only [regionM, ownedRegion_bind hg, myCl_bind, me_bind, getState_bind, hr, stop_run]

theorem regionM_otherRegion (ha : Active s g r) {t : Task} (ht : taskOn s s.cur = some t) (hreg : t.region ≠ r.regid) :
    regionM g s = .error (.trap ⟨0x15, 0, 0x400, none⟩) := by
  simp only [regionM, ownedRegion_bind ha.granted, myCl_bind, me_bind, getState_bind, ha.record, ht, if_neg hreg, stop_run]

theorem regionM_bind (ha : Active s g r) (hown : OwnRegion s r) (f : TreeRegion → M α) : (regionM g >>= f) s = f r s := by
  refine bind_of_ok f ?_
  simp only [regionM, ownedRegion_bind ha.granted, myCl_bind, me_bind, getState_bind, ha.record]
  cases ht : taskOn s s.cur with
  | none => rfl
  | some t => simp only [if_pos (hown t ht), pureM_run]

theorem leafM_bind {v : W64} (hv : v.toNat < 2 ^ r.log2n) (f : Nat → M α) : (leafM r g v >>= f) s = f v.toNat s :=
  bind_of_ok f (by simp only [leafM, if_neg (not_le.mpr hv), pureM_run])

theorem leafM_range {v : W64} (hv : 2 ^ r.log2n ≤ v.toNat) : leafM r g v s = .error (treeTrap v.toNat 3 g) := by
  simp only [leafM, if_pos hv, stop_bind]

/-! Outside a task nothing is speculative, and no update is journalled (R412). -/

theorem notSpeculative_bind (ht : taskOn s s.cur = none) (f : Unit → M α) : (notSpeculative g >>= f) s = f () s :=
  bind_of_ok f (by simp only [notSpeculative, me_bind, myCl_bind, getState_bind, ht, Option.isSome_none, Bool.false_and, Bool.false_eq_true, if_false, pureM_run])

theorem journalM_bind (ht : taskOn s s.cur = none) (es : List JEntry) (f : Bool → M α) : (journalM es >>= f) s = f true s :=
  bind_of_ok f (by simp only [journalM, me_bind, myCl_bind, getState_bind, ht, pureM_run])

theorem writeLeaves_bind (ht : taskOn s s.cur = none) (ls : List (Nat × Nat)) (f : Bool → M α) :
    (writeLeaves r ls >>= f) s = f true (putLeaves s (actingCl s) (ls.map fun l => (r.lbase + l.1, l.2))) :=
  bind_of_ok f (by simp only [writeLeaves, myCl_bind, getState_bind, journalM_bind ht, if_true, modifyState_bind, pureM_run, putLeaves, List.foldl_map])
end

/-! ## How the instructions of the unit end -/

/-- The outcome of a TREE trap (R415). -/
abbrev treeOutcome (s : State) (obj reason g : Nat) : Host.Outcome State Fault Refusal :=
  .next (takeTrap s s.cur ⟨0x14, 0, BitVec.ofNat 64 (obj % 2 ^ 32 * 2 ^ 32 + reason * 256 + g), none⟩)

/-- The outcome of a RATE trap (R414). -/
abbrev rateOutcome (s : State) (code leaf g : Nat) : Host.Outcome State Fault Refusal :=
  .next (takeTrap s s.cur ⟨0x07, 0, BitVec.ofNat 64 (code % 2 ^ 32 * 2 ^ 32 + leaf % 65536 * 65536 + g), none⟩)

section
variable {s : State} {i : Iss} {body : W64 → M Flow}

theorem issue_tree {obj reason g : Nat} (hi : issues s i = true) (hb : body (lanesFor s i) s = .error (treeTrap obj reason g)) :
    issue i body s = treeOutcome s obj reason g :=
  issue_stops hi hb

theorem issue_rate {code leaf g : Nat} (hi : issues s i = true) (hb : body (lanesFor s i) s = .error (rateTrap code leaf g)) :
    issue i body s = rateOutcome s code leaf g :=
  issue_stops hi hb
end

end Sys2Proof.Machine
end

section
/-! PROOFS. The instructions of Carillon on one region, but for the draw (R417 to R419, R421). -/

namespace Sys2Proof.Machine

/-- How a member issues that reads the given sources and writes no register. -/
abbrev treeIss (h : Hd) (srcs : List Src) : Iss := { h, reads := rds srcs }

/-- How a member issues that reads the given sources and writes D. -/
abbrev treeIssTo (h : Hd) (o : OpE) (srcs : List Src) : Iss := { h, reads := rds srcs, writes := wr o.d none }

/-! The operands of a member, as the acting partition reads them. -/

abbrev regionOp (o : OpE) (s : State) : Nat := regionNo (s.part s.cur) o
abbrev wordOp2 (o : OpE) (s : State) : W64 := (s.part s.cur).src (o.lit.getD 0) o.s2
abbrev wordOp3 (o : OpE) (s : State) : W64 := (s.part s.cur).src (o.lit.getD 0) o.s3
abbrev rateOp (o : OpE) (s : State) : Nat := (s.part s.cur).srcT (.flt fmt32) o.s3
abbrev clockOp (o : OpE) (s : State) : Nat := (s.part s.cur).srcT (.flt fmt64) o.s2

/-! ## EGET, ESUM and ECLK (R419, R421) -/

theorem exec_eget (h : Hd) (o : OpE) (s : State) : exec (.eget h o) s = execEget h o s := rfl
theorem exec_esum (h : Hd) (o : OpE) (s : State) : exec (.esum h o) s = execEsum h o s := rfl
theorem exec_eclk (h : Hd) (o : OpE) (s : State) : exec (.eclk h o) s = execEclk h o s := rfl

section
variable {h : Hd} {o : OpE} {s : State} {r : TreeRegion}

/-- An EGET whose region may not be named stops as the region does. -/
theorem exec_eget_of_regionM {e : Stop} (hstop : regionM (regionOp o s) s = .error e) (hi : issues s (treeIssTo h o [o.s1, o.s2]) = true) :
    exec (.eget h o) s = .next (stopped s s.cur e) := by
  rw [exec_eget, execEget]
  refine issue_stops hi ?_
  simp only [myPart_bind, myCl_bind, bind_of_error _ hstop]

theorem exec_eget_notOwned (hg : (actingGrant s).1.getLsbD (regionOp o s) = false) (hi : issues s (treeIssTo h o [o.s1, o.s2]) = true) :
    exec (.eget h o) s = treeOutcome s 0 1 (regionOp o s) :=
  exec_eget_of_regionM (regionM_notOwned hg) hi

theorem exec_eget_inactive (hg : Granted s (regionOp o s)) (hr : mfind (s.cluster (actingCl s)).regions (regionOp o s) = none)
    (hi : issues s (treeIssTo h o [o.s1, o.s2]) = true) : exec (.eget h o) s = treeOutcome s 0 2 (regionOp o s) :=
  exec_eget_of_regionM (regionM_inactive hg hr) hi

theorem exec_eget_otherRegion (ha : Active s (regionOp o s) r) {t : Task} (ht : taskOn s s.cur = some t) (hreg : t.region ≠ r.regid)
    (hi : issues s (treeIssTo h o [o.s1, o.s2]) = true) : exec (.eget h o) s = .next (takeTrap s s.cur ⟨0x15, 0, 0x400, none⟩) :=
  exec_eget_of_regionM (regionM_otherRegion ha ht hreg) hi

section
variable (ha : Active s (regionOp o s) r) (hown : OwnRegion s r)
include ha hown

theorem gives_eget (hj : (wordOp2 o s).toNat < 2 ^ r.log2n) :
    Gives (.eget h o) (treeIssTo h o [o.s1, o.s2]) s
      (·.put o.d (BitVec.ofNat 64 (leafCode (s.cluster (actingCl s)) (r.lbase + (wordOp2 o s).toNat)))) := by
  intro hi
  rw [exec_eget, execEget]
  refine issue_done hi ?_
  simp only [myPart_bind, myCl_bind, regionM_bind ha hown, leafM_bind hj, getState_bind, putM_bind, pureM_run]

theorem exec_eget_range (hj : 2 ^ r.log2n ≤ (wordOp2 o s).toNat) (hi : issues s (treeIssTo h o [o.s1, o.s2]) = true) :
    exec (.eget h o) s = treeOutcome s (wordOp2 o s).toNat 3 (regionOp o s) := by
  rw [exec_eget, execEget]
  refine issue_tree hi ?_
  simp only [myPart_bind, myCl_bind, regionM_bind ha hown, bind_of_error _ (leafM_range hj)]

theorem gives_esum (hpos : 0 < (wordOp2 o s).toNat) (hlt : (wordOp2 o s).toNat < 2 ^ (r.log2n + 1)) :
    Gives (.esum h o) (treeIssTo h o [o.s1, o.s2]) s (·.put o.d (BitVec.ofNat 64 (r.node (s.cluster (actingCl s)) (wordOp2 o s).toNat))) := by
  intro hi
  rw [exec_esum, execEsum]
  refine issue_done hi ?_
  have hin : ¬ ((wordOp2 o s).toNat = 0 ∨ 2 ^ (r.log2n + 1) ≤ (wordOp2 o s).toNat) := by omega
  simp only [myPart_bind, myCl_bind, regionM_bind ha hown, if_neg hin, getState_bind, putM_bind, pureM_run]

theorem exec_esum_range (hout : (wordOp2 o s).toNat = 0 ∨ 2 ^ (r.log2n + 1) ≤ (wordOp2 o s).toNat)
    (hi : issues s (treeIssTo h o [o.s1, o.s2]) = true) : exec (.esum h o) s = treeOutcome s (wordOp2 o s).toNat 3 (regionOp o s) := by
  rw [exec_esum, execEsum]
  refine issue_tree hi ?_
  simp only [myPart_bind, myCl_bind, regionM_bind ha hown, if_pos hout, stop_bind]

theorem gives_eclk : Gives (.eclk h o) (treeIssTo h o [o.s1]) s (·.put o.d r.clk) := by
  intro hi
  rw [exec_eclk, execEclk]
  refine issue_done hi ?_
  simp only [myPart_bind, regionM_bind ha hown, putM_bind, pureM_run]
end

/-! ## ETINIT (R417) -/

theorem exec_etinit (h : Hd) (o : OpE) (s : State) : exec (.etinit h o) s = execEtinit h o s := rfl
theorem exec_etinitFree (h : Hd) (o : OpE) (s : State) : exec (.etinitFree h o) s = execEtinitFree h o s := rfl

/-! The fields of the configuration word. -/

abbrev configLog2n (w : Nat) : Nat := w / 65536 % 32
abbrev configBase (w : Nat) : Nat := w / 2 ^ 32 % 65536

/-- A configuration word that no operand check refuses. -/
structure GoodConfig (w : Nat) : Prop where
  top : w / 2 ^ 48 = 0
  middle : w / 2 ^ 21 % 2 ^ 11 = 0
  levels : configLog2n w ≤ 16
  aligned : configBase w % 2 ^ configLog2n w = 0
  fits : configBase w + 2 ^ configLog2n w ≤ 65536

theorem GoodConfig.not_refused {w : Nat} (hw : GoodConfig w) :
    ¬ (w / 2 ^ 48 ≠ 0 ∨ w / 2 ^ 21 % 2 ^ 11 ≠ 0 ∨ 16 < configLog2n w ∨ configBase w % 2 ^ configLog2n w ≠ 0 ∨ 65536 < configBase w + 2 ^ configLog2n w) := by
  simp only [hw.top, hw.middle, hw.aligned, not_lt.mpr hw.levels, not_lt.mpr hw.fits, ne_eq, not_true_eq_false, or_self, not_false_eq_true]

/-- The record of a region that a configuration word has made ACTIVE (R405). -/
abbrev freshRegion (w : Nat) : TreeRegion :=
  { lbase := configBase w, log2n := configLog2n w, regid := w % 65536, clk := 0, ec := 0, seed := 0, table := false, tbase := 0, tcount := 0, tec0 := 0 }

/-- 2^n leaves from a base on lie apart from those of every other granted region. -/
abbrev ApartFromOthers (s : State) (g base n : Nat) : Prop :=
  ∀ y ∈ (s.cluster (actingCl s)).regions, y.1 ≠ g → (actingGrant s).1.getLsbD y.1 = true → base + 2 ^ n ≤ y.2.lbase ∨ y.2.lbase + 2 ^ y.2.log2n ≤ base

theorem ApartFromOthers.no_overlap {g base n : Nat} (hap : ApartFromOthers s g base n) :
    ((s.cluster (actingCl s)).regions.any fun x => x.1 ≠ g && (actingGrant s).1.getLsbD x.1 && decide (x.2.lbase < base + 2 ^ n) &&
      decide (base < x.2.lbase + 2 ^ x.2.log2n)) = false := by
  rw [List.any_eq_false]
  intro y hy hov
  simp only [Bool.and_eq_true, decide_eq_true_eq] at hov
  obtain ⟨⟨⟨hne, hgr⟩, hlo⟩, hhi⟩ := hov
  have := hap y hy hne hgr
  omega

section
variable (ht : taskOn s s.cur = none) (hg : Granted s (regionOp o s)) (hw : GoodConfig (wordOp2 o s).toNat)
include ht hg hw

theorem exec_etinit_range
    (hout : configBase (wordOp2 o s).toNat < (actingGrant s).2.1 ∨
      (actingGrant s).2.1 + (actingGrant s).2.2 < configBase (wordOp2 o s).toNat + 2 ^ configLog2n (wordOp2 o s).toNat)
    (hi : issues s (treeIss h [o.s1, o.s2]) = true) :
    exec (.etinit h o) s = treeOutcome s (configBase (wordOp2 o s).toNat) 3 (regionOp o s) := by
  rw [exec_etinit, execEtinit]
  refine issue_tree hi ?_
  simp only [myPart_bind, myCl_bind, if_neg hw.not_refused, ownedRegion_bind hg, me_bind, getState_bind, ht, Option.isSome_none, Bool.false_eq_true, if_false,
    if_pos hout, stop_bind]

theorem leaves_etinit (hlo : (actingGrant s).2.1 ≤ configBase (wordOp2 o s).toNat)
    (hhi : configBase (wordOp2 o s).toNat + 2 ^ configLog2n (wordOp2 o s).toNat ≤ (actingGrant s).2.1 + (actingGrant s).2.2)
    (hap : ApartFromOthers s (regionOp o s) (configBase (wordOp2 o s).toNat) (configLog2n (wordOp2 o s).toNat)) :
    Leaves (.etinit h o) (treeIss h [o.s1, o.s2]) s
      (putRegion (s.modCluster (actingCl s) fun c =>
        { c with leaves := c.leavesBut (configBase (wordOp2 o s).toNat) (configLog2n (wordOp2 o s).toNat) })
        (actingCl s) (regionOp o s) (freshRegion (wordOp2 o s).toNat)) := by
  intro hi
  rw [exec_etinit, execEtinit]
  refine issue_done hi ?_
  have hin := not_or.mpr ⟨not_lt.mpr hlo, not_lt.mpr hhi⟩
  simp only [myPart_bind, myCl_bind, if_neg hw.not_refused, ownedRegion_bind hg, me_bind, getState_bind, ht, Option.isSome_none, Bool.false_eq_true, if_false,
    if_neg hin, hap.no_overlap, modifyState_bind, setRegion_bind, pureM_run]
end

theorem exec_etinitFree_notOwned (hg : (actingGrant s).1.getLsbD (regionOp o s) = false) (hi : issues s (treeIss h [o.s1]) = true) :
    exec (.etinitFree h o) s = treeOutcome s 0 1 (regionOp o s) := by
  rw [exec_etinitFree, execEtinitFree]
  refine issue_tree hi ?_
  simp only [myPart_bind, myCl_bind, bind_of_error _ (ownedRegion_notOwned hg)]

theorem leaves_etinitFree (ht : taskOn s s.cur = none) (ha : Active s (regionOp o s) r) :
    Leaves (.etinitFree h o) (treeIss h [o.s1]) s (s.modCluster (actingCl s) fun c =>
      { c with regions := mdel c.regions (regionOp o s), leaves := c.leavesBut r.lbase r.log2n }) := by
  intro hi
  rw [exec_etinitFree, execEtinitFree]
  refine issue_done hi ?_
  simp only [myPart_bind, myCl_bind, ownedRegion_bind ha.granted, me_bind, getState_bind, ht, Option.isSome_none, Bool.false_eq_true, if_false, modifyState_bind,
    State.modCluster, ha.record, pureM_run]

/-! ## ELOADV, ESET and EADD (R418) -/

theorem exec_eloadv (h : Hd) (o : OpE) (s : State) : exec (.eloadv h o) s = execEloadv h o s := rfl
theorem exec_eset (h : Hd) (o : OpE) (s : State) : exec (.eset h o) s = leafUpdate h o (fun _ x => x) true s := rfl
theorem exec_eadd (h : Hd) (o : OpE) (s : State) : exec (.eadd h o) s = leafUpdate h o (fun was x => (addF fmt32 rcRNE was x).code) false s := rfl

/-- The code that the leaf of an update held. -/
abbrev oldRate (o : OpE) (s : State) (r : TreeRegion) : Nat := leafCode (s.cluster (actingCl s)) (r.lbase + (wordOp2 o s).toNat)

/-- The rate that an EADD makes. -/
abbrev rateSum (o : OpE) (s : State) (r : TreeRegion) : Nat := (addF fmt32 rcRNE (oldRate o s r) (rateOp o s)).code

/-- The local leaves that an ELOADV writes, with their rates: none lies beyond the region's end. -/
abbrev loadedRates (o : OpE) (s : State) (r : TreeRegion) : List (Nat × Nat) :=
  (List.range (min 64 (2 ^ r.log2n - (wordOp2 o s).toNat))).map fun e => (r.lbase + ((wordOp2 o s).toNat + e), elemOf ((s.part s.cur).vreg o.s3) 32 e)

section
variable (ht : taskOn s s.cur = none) (ha : Active s (regionOp o s) r) (hj : (wordOp2 o s).toNat < 2 ^ r.log2n)
include ht ha hj

/-- An update with a rate that a leaf may hold stores it, and answers the old rate or the one stored. -/
theorem leafUpdate_stores {new : Nat → Nat → Nat} (old : Bool) (hgood : badRate (new (oldRate o s r) (rateOp o s)) = false)
    (hi : issues s (treeIssTo h o [o.s1, o.s2, o.s3]) = true) :
    leafUpdate h o new old s = done (treeIssTo h o [o.s1, o.s2, o.s3]) s
      ((putLeaves s (actingCl s) [(r.lbase + (wordOp2 o s).toNat, new (oldRate o s r) (rateOp o s))]).modPart s.cur
        (·.put o.d (BitVec.ofNat 64 (if old then oldRate o s r else storedRate (new (oldRate o s r) (rateOp o s)))))) := by
  rw [leafUpdate]
  refine issue_done hi ?_
  simp only [myPart_bind, myCl_bind, regionM_bind ha (ownRegion_of_no_task ht r), leafM_bind hj, getState_bind, hgood, Bool.false_eq_true, if_false,
    writeLeaves_bind ht, Bool.not_true, putM_bind, pureM_run, List.map_cons, List.map_nil]
  rfl

theorem leafUpdate_rate {new : Nat → Nat → Nat} (old : Bool) (hbad : badRate (new (oldRate o s r) (rateOp o s)) = true)
    (hi : issues s (treeIssTo h o [o.s1, o.s2, o.s3]) = true) :
    leafUpdate h o new old s = rateOutcome s (new (oldRate o s r) (rateOp o s)) (wordOp2 o s).toNat (regionOp o s) := by
  rw [leafUpdate]
  refine issue_rate hi ?_
  simp only [myPart_bind, myCl_bind, regionM_bind ha (ownRegion_of_no_task ht r), leafM_bind hj, getState_bind, hbad, if_true, stop_bind]

theorem leaves_eset (hgood : badRate (rateOp o s) = false) :
    Leaves (.eset h o) (treeIssTo h o [o.s1, o.s2, o.s3]) s
      ((putLeaves s (actingCl s) [(r.lbase + (wordOp2 o s).toNat, rateOp o s)]).modPart s.cur (·.put o.d (BitVec.ofNat 64 (oldRate o s r)))) :=
  fun hi => (exec_eset h o s).trans (leafUpdate_stores ht ha hj (new := fun _ x => x) true hgood hi)

theorem exec_eset_rate (hbad : badRate (rateOp o s) = true) (hi : issues s (treeIssTo h o [o.s1, o.s2, o.s3]) = true) :
    exec (.eset h o) s = rateOutcome s (rateOp o s) (wordOp2 o s).toNat (regionOp o s) :=
  (exec_eset h o s).trans (leafUpdate_rate ht ha hj (new := fun _ x => x) true hbad hi)

theorem leaves_eadd (hgood : badRate (rateSum o s r) = false) :
    Leaves (.eadd h o) (treeIssTo h o [o.s1, o.s2, o.s3]) s
      ((putLeaves s (actingCl s) [(r.lbase + (wordOp2 o s).toNat, rateSum o s r)]).modPart s.cur (·.put o.d (BitVec.ofNat 64 (storedRate (rateSum o s r))))) :=
  fun hi => (exec_eadd h o s).trans (leafUpdate_stores ht ha hj (new := fun was x => (addF fmt32 rcRNE was x).code) false hgood hi)

theorem leaves_eloadv (hgood : ∀ e, e < min 64 (2 ^ r.log2n - (wordOp2 o s).toNat) → badRate (elemOf ((s.part s.cur).vreg o.s3) 32 e) = false) :
    Leaves (.eloadv h o) (treeIss h [o.s1, o.s2, o.s3]) s (putLeaves s (actingCl s) (loadedRates o s r)) := by
  intro hi
  rw [exec_eloadv, execEloadv]
  refine issue_done hi ?_
  have hnone : ((List.range (min 64 (2 ^ r.log2n - (wordOp2 o s).toNat))).map fun e => ((wordOp2 o s).toNat + e, elemOf ((s.part s.cur).vreg o.s3) 32 e)).find?
      (fun l => badRate l.2) = none := by
    simpa using hgood
  simp only [myPart_bind, regionM_bind ha (ownRegion_of_no_task ht r), leafM_bind hj, hnone, writeLeaves_bind ht, if_true, pureM_run, List.map_map]
  rfl
end

/-! ## ESEED, ETAB and ECLK.set (R421) -/

theorem exec_eseed (h : Hd) (o : OpE) (s : State) : exec (.eseed h o) s = execEseed h o s := rfl
theorem exec_etab (h : Hd) (o : OpE) (s : State) : exec (.etab h o) s = execEtab h o s := rfl
theorem exec_eclkSet (h : Hd) (o : OpE) (s : State) : exec (.eclkSet h o) s = execEclkSet h o s := rfl

section
variable (ht : taskOn s s.cur = none) (ha : Active s (regionOp o s) r)
include ht ha

theorem leaves_eseed :
    Leaves (.eseed h o) (treeIssTo h o [o.s1, o.s2, o.s3]) s
      ((putRegion s (actingCl s) (regionOp o s) { r with seed := wordOp2 o s, ec := wordOp3 o s, table := false }).modPart s.cur (·.put o.d r.ec)) := by
  intro hi
  rw [exec_eseed, execEseed]
  refine issue_done hi ?_
  simp only [myPart_bind, myCl_bind, ownedRegion_bind ha.granted, notSpeculative_bind ht, regionM_bind ha (ownRegion_of_no_task ht r), setRegion_bind, putM_bind,
    pureM_run]
  rfl

theorem leaves_etab (hlo : 2 ≤ (wordOp3 o s).toNat) (hhi : (wordOp3 o s).toNat < 2 ^ 32) (hal : (wordOp2 o s).toNat % 8 = 0)
    (hcanon : regionOf (wordOp2 o s) ≠ .nonCanon) (hwin : regionOf (wordOp2 o s) ≠ .window) :
    Leaves (.etab h o) (treeIss h [o.s1, o.s2, o.s3]) s
      (putRegion s (actingCl s) (regionOp o s) { r with tbase := wordOp2 o s, tcount := (wordOp3 o s).toNat, tec0 := r.ec, table := true }) := by
  intro hi
  rw [exec_etab, execEtab]
  refine issue_done hi ?_
  have hcount := not_or.mpr ⟨not_le.mpr hhi, not_lt.mpr hlo⟩
  have haligned := not_not.mpr hal
  simp only [myPart_bind, myCl_bind, if_neg hcount, if_neg haligned]
  cases hr : regionOf (wordOp2 o s)
  case nonCanon => exact absurd hr hcanon
  case window => exact absurd hr hwin
  case spad | shared =>
    simp only [ownedRegion_bind ha.granted, notSpeculative_bind ht, regionM_bind ha (ownRegion_of_no_task ht r), setRegion_bind, pureM_run]

/-! The operand of ECLK.set that stands in no literal slot is read as FP64. -/

theorem leaves_eclkSet (hs : o.s2 ≠ .slot) (hnum : (decodeF fmt64 (clockOp o s)).isNan = false) :
    Leaves (.eclkSet h o) (treeIssTo h o [o.s1, o.s2]) s
      ((putRegion s (actingCl s) (regionOp o s) { r with clk := BitVec.ofNat 64 (clockOp o s) }).modPart s.cur (·.put o.d r.clk)) := by
  intro hi
  rw [exec_eclkSet, execEclkSet]
  refine issue_done hi ?_
  cases hs2 : o.s2
  case slot => exact absurd hs2 hs
  case v | s | c | lit =>
    rw [clockOp, hs2] at hnum
    simp only [myPart_bind, myCl_bind, regionM_bind ha (ownRegion_of_no_task ht r), hnum, Bool.false_eq_true, if_false, journalM_bind ht, Bool.not_true,
      setRegion_bind, putM_bind, pureM_run, clockOp, hs2]
    rfl

theorem exec_eclkSet_clock (hs : o.s2 ≠ .slot) (hnan : (decodeF fmt64 (clockOp o s)).isNan = true) (hi : issues s (treeIssTo h o [o.s1, o.s2]) = true) :
    exec (.eclkSet h o) s = treeOutcome s 0 7 (regionOp o s) := by
  rw [exec_eclkSet, execEclkSet]
  refine issue_tree hi ?_
  cases hs2 : o.s2
  case slot => exact absurd hs2 hs
  case v | s | c | lit =>
    rw [clockOp, hs2] at hnan
    simp only [myPart_bind, myCl_bind, regionM_bind ha (ownRegion_of_no_task ht r), hnan, if_true, stop_bind]
end
end

end Sys2Proof.Machine
end

section
/-! PROOFS. ENEXT: its start pulse, its words, the draw (R407 to R409, R413, R420). -/

namespace Sys2Proof.Machine

/-! ## The load of a tabled draw (R408) -/

section
variable {α : Type} {s t : State}

theorem checkM_bind {acc : Acc} {rs : List (W64 × Nat)} (ht : taskOn s s.cur = none) (hc : checkAccess s (whoOf s s.cur) acc rs = .ok t)
    (hl : onLost t (flatOf s.cur) rs = false) (f : Unit → M α) : (checkM acc rs >>= f) s = f () t :=
  bind_of_ok f (by
    simp only [checkM, ht, hc]
    exact if_neg (ne_true_of_eq_false hl))

/-- Outside a task, a range that no buffered store meets and whose lines are not lost is read from memory. Which context the partition holds does not matter. -/
theorem readM_bind {a : W64} {n : Nat} (u : State) (ht : taskOn s s.cur = none) (hf : forwardOf s s.cur (bytesAt a n) = .none)
    (hl : lostRead s (whoOf s s.cur) [(a, n)] = none) (f : Option (List (List Byte)) → M α) :
    let t := prepLines s (whoOf u s.cur) (linesOf a n).dedup
    (readM [(a, n)] >>= f) s = f (some [(bytesAt a n).map (loadByte t (whoOf u s.cur))]) t :=
  bind_of_ok f (by
    simp only [readM, me_bind, getState_bind, List.map_cons, List.map_nil, hf, ht, hl, List.any_cons, List.any_nil, Option.isSome_none,
      List.flatMap_cons, List.flatMap_nil, List.append_nil, List.zip_cons_cons, List.zip_nil_right]
    rfl)
end

/-! ## The parts of ENEXT (R409, R413, R420)

The body is cut where a draw's words, and then its leaf and τ, are taken apart: each part is run on a pair that is a variable, since the kernel would else compute the
draw to compare its components. -/

abbrev enextIss (h : Hd) (o : OpE) : Iss := { h, reads := rds [o.s1], writes := wr o.d none ++ wr (tauDst o.s2) none }

/-- A part that has used up a pulse at its start input. -/
abbrev Part.spendStart (p : Part) : Part := { p with damask := { p.damask with credits := p.damask.credits.set 7 (p.damask.credits[7] - 1) } }

/-- The record of a region after a draw of τ (R409, R411). -/
abbrev TreeRegion.drawn (r : TreeRegion) (adv : Bool) (tau : Nat) : TreeRegion :=
  { r with ec := r.ec + 1, clk := if adv then BitVec.ofNat 64 (addRne r.clk.toNat tau) else r.clk }

/-- The address of the next words of a table. -/
abbrev TreeRegion.wordsAt (r : TreeRegion) : W64 := r.tbase + BitVec.ofNat 64 (8 * (r.ec - r.tec0).toNat)

/-- An ENEXT.hold uses up a start pulse. -/
def useStart (o : OpE) : M Unit := if o.mod.getLsbD 1 then setMine Part.spendStart else pure ()

/-- Answer that a region has no event. -/
def answerNone (o : OpE) (k : Nat) : M Flow := do
  useStart o
  putM o.d ones64
  putM (tauDst o.s2) 0x7FF0000000000000
  modify fun s => pulse s k 16
  pure .done

/-- Enter a draw, a leaf and τ, in region g of a cluster and answer it. -/
def enterDraw (o : OpE) (k cl g : Nat) (r : TreeRegion) : Nat × Nat → M Flow
  | (i, tau) => do
    if !(← journalM [.clk g r.clk, .ec g r.ec]) then return .wait
    useStart o
    setRegion cl g (r.drawn (o.mod.getLsbD 0) tau)
    setMine fun p => p.count 7 1
    putM o.d (BitVec.ofNat 64 i)
    putM (tauDst o.s2) (BitVec.ofNat 64 tau)
    modify fun s => pulse s k 16
    pure .done

/-- Draw from two words. -/
def drawFrom (o : OpE) (k cl g : Nat) (r : TreeRegion) (c : Cluster) : Nat × Nat → M Flow
  | (wa, wb) => enterDraw o k cl g r (r.draw c wa wb)

/-- What an ENEXT does on a region that it may name. -/
def enextOn (o : OpE) (k cl : Nat) (p : Part) (r : TreeRegion) (c : Cluster) : M Flow := do
  let g := regionNo p o
  if o.mod.getLsbD 1 && p.damask.credits[7] = 0 then return .wait
  if r.node c 1 ≠ 0 && r.table && decide (r.tcount ≤ 2 * (r.ec - r.tec0).toNat + 1) then stop (treeTrap r.ec.toNat 0x05 g)
  if r.node c 1 = 0 then answerNone o k
  else
    if r.table then checkM .read [(r.wordsAt, 8)]
    match ← if r.table then readM [(r.wordsAt, 8)] else pure (some []) with
    | none => pure .wait
    | some bs => drawFrom o k cl g r c (if r.table then (fieldAt bs.flatten 0 4, fieldAt bs.flatten 4 4) else philoxWords r)

/-- What an ENEXT that issues does. -/
def enextBody (o : OpE) : M Flow := do
  let k ← me
  let p ← myPart
  let cl ← myCl
  let r ← regionM (regionNo p o)
  let s ← get
  enextOn o k cl p r (s.cluster cl)

theorem exec_enext (h : Hd) (o : OpE) (s : State) : exec (.enext h o) s = issue (enextIss h o) (fun _ => enextBody o) s := rfl

/-! ## The states that ENEXT leaves -/

/-- In partition k an ENEXT.hold has used up a start pulse. -/
abbrev startUsed (o : OpE) (k : Nat) (t : State) : State := if o.mod.getLsbD 1 then t.modPart k Part.spendStart else t

/-- A draw, a leaf and τ, has been entered in region g and answered in partition k. -/
abbrev drawnState (o : OpE) (k cl g : Nat) (r : TreeRegion) (d : Nat × Nat) (t : State) : State :=
  pulse ((putRegion (startUsed o k t) cl g (r.drawn (o.mod.getLsbD 0) d.2)).modPart k fun q =>
    (((q.count 7 1).put o.d (BitVec.ofNat 64 d.1)).put (tauDst o.s2) (BitVec.ofNat 64 d.2))) k 16

section
variable {h : Hd} {o : OpE} {s : State} {r : TreeRegion} {cl g : Nat} {c : Cluster}

@[simp] theorem startUsed_cur (k : Nat) : (startUsed o k s).cur = s.cur := by
  unfold startUsed
  split <;> rfl

theorem useStart_bind {α : Type} (f : Unit → M α) : (useStart o >>= f) s = f () (startUsed o s.cur s) := by
  unfold useStart startUsed
  split <;> rfl

theorem answerNone_run :
    answerNone o s.cur s =
      .ok (.done, pulse ((startUsed o s.cur s).modPart s.cur fun q => (q.put o.d ones64).put (tauDst o.s2) 0x7FF0000000000000) s.cur 16) := by
  simp only [answerNone, useStart_bind, putM_bind, modifyState_bind, pureM_run, startUsed_cur, State.modPart_cur, State.modPart_modPart]

theorem enterDraw_run (ht : taskOn s s.cur = none) (d : Nat × Nat) : enterDraw o s.cur cl g r d s = .ok (.done, drawnState o s.cur cl g r d s) := by
  obtain ⟨i, tau⟩ := d
  simp only [enterDraw, journalM_bind ht, Bool.not_true, Bool.false_eq_true, if_false, useStart_bind, setRegion_bind, setMine_bind, putM_bind, modifyState_bind,
    pureM_run, State.modPart_cur, State.modCluster_cur, startUsed_cur, State.modPart_modPart]

theorem drawFrom_run {k : Nat} (hk : s.cur = k) (ht : taskOn s k = none) (words : Nat × Nat) :
    drawFrom o k cl g r c words s = .ok (.done, drawnState o k cl g r (r.draw c words.1 words.2) s) := by
  subst hk
  exact enterDraw_run ht (r.draw c words.1 words.2)

/-! ## ENEXT by the region's root and mode -/

/-- No ENEXT.hold without a start pulse. -/
def Started (o : OpE) (p : Part) : Prop := o.mod.getLsbD 1 = true → p.damask.credits[7] ≠ 0

theorem Started.not_waits {p : Part} (hs : Started o p) : (o.mod.getLsbD 1 && decide (p.damask.credits[7] = 0)) = false := by
  simpa [Started] using hs

theorem exec_enext_notOwned (hg : (actingGrant s).1.getLsbD (regionOp o s) = false) (hi : issues s (enextIss h o) = true) :
    exec (.enext h o) s = treeOutcome s 0 1 (regionOp o s) := by
  rw [exec_enext]
  refine issue_tree hi ?_
  simp only [enextBody, me_bind, myPart_bind, myCl_bind, bind_of_error _ (regionM_notOwned hg)]

section
variable (ht : taskOn s s.cur = none) (ha : Active s (regionOp o s) r)
include ht ha

theorem enextBody_run : enextBody o s = enextOn o s.cur (actingCl s) (s.part s.cur) r (s.cluster (actingCl s)) s := by
  simp only [enextBody, me_bind, myPart_bind, myCl_bind, regionM_bind ha (ownRegion_of_no_task ht r), getState_bind]

theorem leaves_enext {t : State} (hb : enextOn o s.cur (actingCl s) (s.part s.cur) r (s.cluster (actingCl s)) s = .ok (.done, t)) :
    Leaves (.enext h o) (enextIss h o) s t := by
  intro hi
  rw [exec_enext]
  exact issue_done hi ((enextBody_run ht ha).trans hb)

theorem exec_enext_waits (hhold : o.mod.getLsbD 1 = true) (hno : (s.part s.cur).damask.credits[7] = 0) (hi : issues s (enextIss h o) = true) :
    exec (.enext h o) s = .next (waitingStore (enextIss h o) s s.cur) := by
  rw [exec_enext, issue_of_issues _ hi, enextBody_run ht ha]
  simp only [enextOn, hhold, hno, decide_true, Bool.and_self, if_true, pureM_run]
  rfl

variable (hs : Started o (s.part s.cur))
include hs

theorem leaves_enext_none (hroot : r.node (s.cluster (actingCl s)) 1 = 0) :
    Leaves (.enext h o) (enextIss h o) s
      (pulse ((startUsed o s.cur s).modPart s.cur fun q => (q.put o.d ones64).put (tauDst o.s2) 0x7FF0000000000000) s.cur 16) := by
  refine leaves_enext ht ha ?_
  simp only [enextOn, hs.not_waits, hroot, ne_eq, not_true_eq_false, decide_false, Bool.false_and, Bool.false_eq_true, if_false, if_true, answerNone_run]

variable (hroot : r.node (s.cluster (actingCl s)) 1 ≠ 0)
include hroot

theorem leaves_enext_philox (htab : r.table = false) :
    Leaves (.enext h o) (enextIss h o) s
      (drawnState o s.cur (actingCl s) (regionOp o s) r (r.draw (s.cluster (actingCl s)) (philoxWords r).1 (philoxWords r).2) s) := by
  refine leaves_enext ht ha ?_
  simp only [enextOn, hs.not_waits, hroot, htab, Bool.and_false, Bool.false_and, Bool.false_eq_true, if_false]
  exact drawFrom_run rfl ht (philoxWords r)

theorem exec_enext_tableEnd (htab : r.table = true) (hend : r.tcount ≤ 2 * (r.ec - r.tec0).toNat + 1) (hi : issues s (enextIss h o) = true) :
    exec (.enext h o) s = treeOutcome s r.ec.toNat 5 (regionOp o s) := by
  rw [exec_enext]
  refine issue_tree hi ((enextBody_run ht ha).trans ?_)
  simp only [enextOn, hs.not_waits, hroot, htab, hend, ne_eq, not_false_eq_true, decide_true, Bool.and_self, Bool.false_eq_true, if_false, if_true, stop_bind]

/-- A tabled draw takes the words at its address from memory. -/
theorem leaves_enext_table {s1 : State} (htab : r.table = true) (hmore : 2 * (r.ec - r.tec0).toNat + 1 < r.tcount)
    (hc : checkAccess s (whoOf s s.cur) .read [(r.wordsAt, 8)] = .ok s1) (hcut : onLost s1 (flatOf s.cur) [(r.wordsAt, 8)] = false)
    (hl : lostRead s1 (whoOf s1 s.cur) [(r.wordsAt, 8)] = none) (hf : forwardOf s1 s.cur (bytesAt r.wordsAt 8) = .none) :
    let s3 := prepLines s1 (whoOf s s.cur) (linesOf r.wordsAt 8).dedup
    let bs := (bytesAt r.wordsAt 8).map (loadByte s3 (whoOf s s.cur))
    Leaves (.enext h o) (enextIss h o) s
      (drawnState o s.cur (actingCl s) (regionOp o s) r (r.draw (s.cluster (actingCl s)) (fieldAt bs 0 4) (fieldAt bs 4 4)) s3) := by
  intro s3 bs
  refine leaves_enext ht ha ?_
  have hcur : s1.cur = s.cur := cur_of_issuer (issuer_checkAccess hc)
  have ht1 : taskOn s1 s1.cur = none := by rw [taskOn_of_issuer (issuer_checkAccess hc), hcur, ht]
  have hcur3 : s3.cur = s.cur := (cur_of_issuer (issuer_prepLines ..)).trans hcur
  have ht3 : taskOn s3 s.cur = none := by rw [taskOn_of_issuer (issuer_prepLines ..), ← hcur, ht1]
  rw [← hcur] at hl hf
  simp only [enextOn, hs.not_waits, htab, not_le.mpr hmore, hroot, decide_false, Bool.and_false, Bool.false_eq_true, if_false, if_true, checkM_bind ht hc hcut,
    readM_bind s ht1 hf hl, hcur, List.flatten_cons, List.flatten_nil, List.append_nil]
  exact drawFrom_run hcur3 ht3 (fieldAt bs 0 4, fieldAt bs 4 4)
end
end

end Sys2Proof.Machine
end

section
/-! PROOFS. The event-tree instructions (R400 to R421), assembled. -/

namespace Sys2Proof.Machine

/-- A node is the sum of its two children, and a leaf read as a node is widened (R401). -/
theorem nodeAt_leaf_and_sum (c : Cluster) (base d : Nat) :
    nodeAt c base 0 = widen32 (leafCode c base) ∧ nodeAt c base (d + 1) = addRne (nodeAt c base d) (nodeAt c (base + 2 ^ d) d) := ⟨rfl, rfl⟩

/-- Settles O44: each member ends as its rules above say, by whether its region is granted, ACTIVE and the task's own, and by its operands; ENEXT by its start pulse,
the region's root and its mode. -/
theorem treeInstructions : Obligations.TreeInstructions := by
  unfold Obligations.TreeInstructions
  intro h o s p k cl c l g x i1 i2 i3 w1 w2 w3 nx tree grant putRegion putLeaves keepTo
  refine ⟨fun r hg hr => ⟨fun hown => ?reads, fun t ht hreg hi => ?otherRegion⟩, nodeAt_leaf_and_sum c, fun ht => ⟨fun hg => ?notOwned, fun hg => ?granted⟩⟩
  case reads =>
    exact ⟨gives_eget ⟨hg, hr⟩ hown, exec_eget_range ⟨hg, hr⟩ hown, gives_esum ⟨hg, hr⟩ hown, exec_esum_range ⟨hg, hr⟩ hown, gives_eclk ⟨hg, hr⟩ hown⟩
  case otherRegion => exact exec_eget_otherRegion ⟨hg, hr⟩ ht hreg hi
  case notOwned => exact ⟨exec_eget_notOwned hg, exec_enext_notOwned hg, exec_etinitFree_notOwned hg⟩
  case granted =>
    refine ⟨?config, exec_eget_inactive hg, fun r hr => ?active⟩
    case config =>
      intro w n base htop hmiddle hlevels haligned hfits
      have hw : GoodConfig w := ⟨htop, hmiddle, hlevels, haligned, hfits⟩
      exact ⟨exec_etinit_range ht hg hw, leaves_etinit ht hg hw⟩
    case active =>
      intro j old fl sum
      have ha : Active s g r := ⟨hg, hr⟩
      refine ⟨leaves_etinitFree ht ha, fun hj => ?updates, ?draw, leaves_eseed ht ha, leaves_etab ht ha, leaves_eclkSet ht ha, exec_eclkSet_clock ht ha⟩
      case updates =>
        exact ⟨leaves_eset ht ha hj, exec_eset_rate ht ha hj, leaves_eadd ht ha hj, leaves_eloadv ht ha hj⟩
      case draw =>
        intro hold used drawn
        exact ⟨exec_enext_waits ht ha, fun hs => ⟨leaves_enext_none ht ha hs, leaves_enext_philox ht ha hs, exec_enext_tableEnd ht ha hs,
          fun s1 hroot htab hmore hc hcut hl hf => leaves_enext_table ht ha hs hroot htab hmore hc hcut hl hf⟩⟩

end Sys2Proof.Machine
end

section
/-! PROOFS. What Tabor leaves of the instruction that acts: the acting partition (R427, R435 to R438). -/

namespace Sys2Proof.Machine

@[simp] theorem modTask_cur (s : State) (id : Nat) (f : Task → Task) : (modTask s id f).cur = s.cur := rfl

@[simp] theorem modPartOf_cur (s : State) (flat c : Nat) (f : Part → Part) : (s.modPartOf flat c f).cur = s.cur := cur_of_issuer (issuer_modPartOf ..)

theorem cur_foldl {β : Type} {f : State → β → State} (hf : ∀ s b, (f s b).cur = s.cur) (l : List β) (s : State) : (l.foldl f s).cur = s.cur := by
  induction l generalizing s with
  | nil => rfl
  | cons b l ih => exact (ih (f s b)).trans (hf s b)

@[simp] theorem logPut_cur (s : State) (flat part kind outcome : Nat) (payload : W64) : (logPut s flat part kind outcome payload).cur = s.cur := by
  unfold logPut
  dsimp only
  split <;> rfl

@[simp] theorem replayTake_cur (s : State) (flat part kind : Nat) : (replayTake s flat part kind).cur = s.cur := by
  unfold replayTake
  split <;> rfl

@[simp] theorem logOrTake_cur (s : State) (flat part kind outcome : Nat) (payload : W64) : (logOrTake s flat part kind outcome payload).cur = s.cur :=
  (replayTake_cur ..).trans (logPut_cur ..)

@[simp] theorem undoTask_cur (s : State) (t : Task) : (undoTask s t).cur = s.cur := by
  unfold undoTask
  extract_lets s1 s2 s3
  -- of what a task held, a message with RP gives up its reply slot
  have hacts : s2.cur = s.cur := by
    refine cur_foldl (fun s a => ?_) t.acts s1
    split
    · split
      · exact modPartOf_cur ..
      · rfl
    · rfl
  have hcount : s3.cur = s.cur := (modPartOf_cur ..).trans hacts
  split
  · exact hcount
  · exact hcount

@[simp] theorem abortTasks_cur (s : State) (back gone : List Nat) : (abortTasks s back gone).cur = s.cur := cur_foldl undoTask_cur _ s

@[simp] theorem enterTabor_cur (s : State) (m : Msg) : (enterTabor s m).cur = s.cur := by
  unfold enterTabor
  extract_lets t tie s0 s1 ids
  have hlog : s1.cur = s.cur := by
    show s0.cur = s.cur
    unfold s0
    split
    · exact logOrTake_cur ..
    · rfl
  split
  · exact hlog
  · exact (abortTasks_cur ..).trans hlog

@[simp] theorem taborRefill_cur (cl n : Nat) (s : State) : (taborRefill cl n s).cur = s.cur := by
  induction n generalizing s with
  | zero => rfl
  | succ n ih =>
    unfold taborRefill
    split
    · rfl
    · split
      · exact (ih _).trans (enterTabor_cur ..)
      · rfl

end Sys2Proof.Machine
end

section
/-! PROOFS. The task instructions (R422, R423, R431, R446 to R451). -/

namespace Sys2Proof.Machine

/-! ## Where a task instruction stops -/

/-- The outcome of a TASK trap (R445). -/
abbrev taskOutcome (s : State) (v : W64) : Host.Outcome State Fault Refusal := .next (takeTrap s s.cur ⟨0x15, 0, v, none⟩)

section
variable {s t : State} {i : Iss} {body : W64 → M Flow}

theorem issue_task {v : W64} (hi : issues s i = true) (hb : body (lanesFor s i) s = .error (.trap ⟨0x15, 0, v, none⟩)) : issue i body s = taskOutcome s v :=
  issue_stops hi hb

theorem issue_wait (hi : issues s i = true) (hb : body (lanesFor s i) s = .ok (.wait, t)) : issue i body s = .next (waitingStore i s s.cur) := by
  rw [issue_of_issues body hi, hb]
  rfl

theorem issue_waitKeep (hi : issues s i = true) (hb : body (lanesFor s i) s = .ok (.waitKeep, t)) :
    issue i body s = .next (waitingKept (s.part s.cur) t s.cur) := by
  rw [issue_of_issues body hi, hb]
  rfl

theorem issue_jump {a : W64} (hi : issues s i = true) (hb : body (lanesFor s i) s = .ok (.jump a, t)) : issue i body s = jumped i s t a := by
  rw [issue_of_issues body hi, hb]
  rfl
end

/-! ## The guards of the task instructions (R431) -/

/-- Neither a trap handler nor the upcall runtime runs. -/
structure Part.InProgram (p : Part) : Prop where
  trap : p.inTrap = false
  upcall : p.inUp = false

section
variable {α : Type} {s : State}

theorem notInD_bind (hk : idxOf s.cur ≠ 3) (f : Unit → M α) : (notInD >>= f) s = f () s :=
  bind_of_ok f (by simp only [notInD, me_bind, if_neg hk, pureM_run])

theorem noTask_bind (ht : taskOn s s.cur = none) (f : Unit → M α) : (noTask >>= f) s = f () s :=
  bind_of_ok f (by simp only [noTask, ht, Option.isSome_none, Bool.false_eq_true, if_false])

theorem noTask_value (ht : (taskOn s s.cur).isSome = true) : noTask s = .error (.trap (valueTrap (s.part s.cur))) := by
  simp only [noTask, ht, if_true, illegalValue_run]

theorem notInHandler_bind (hp : (s.part s.cur).InProgram) (f : Unit → M α) : (notInHandler >>= f) s = f () s :=
  bind_of_ok f (by simp only [notInHandler, myPart_bind, hp.trap, hp.upcall, Bool.or_self, Bool.false_eq_true, if_false, pureM_run])

theorem notInHandler_value (hp : (s.part s.cur).inTrap = true ∨ (s.part s.cur).inUp = true) :
    notInHandler s = .error (.trap (valueTrap (s.part s.cur))) := by
  simp only [notInHandler, myPart_bind, Bool.or_eq_true, hp, if_true, illegalValue_run]
end

/-! ## The key of an instruction (R422, R446) -/

/-- The FP64 bits of a time operand: the literal slot's are those of the sign-extended integer. -/
abbrev Part.timeBits (p : Part) (l : W32) (x : Src) : W64 :=
  BitVec.ofNat 64 (match x with
    | .slot => (p.src l x).toNat
    | _ => p.srcT (.flt fmt64) x)

/-- The upper half of a key: an ordered image as it stands, or that of a time. -/
abbrev Part.timeImage (p : Part) (l : W32) (ordered : Bool) (x : Src) : W64 := if ordered then p.src l x else orderedImage (p.timeBits l x)

/-- An operand has an ordered image: it is one, or a time that is no NaN. -/
def Part.HasImage (p : Part) (l : W32) (ordered : Bool) (x : Src) : Prop := ordered = true ∨ nan64 (p.timeBits l x) = false

section
variable {α : Type} {s : State} {p : Part} {l : W32} {x : Src}

theorem timeM_of_time : timeM p l false x = (do
    if nan64 (p.timeBits l x) then stop (taskTrap 1)
    pure (orderedImage (p.timeBits l x))) := rfl

theorem timeM_bind {ordered : Bool} (hx : p.HasImage l ordered x) (f : W64 → M α) : (timeM p l ordered x >>= f) s = f (p.timeImage l ordered x) s := by
  refine bind_of_ok f ?_
  cases ordered with
  | true => rfl
  | false =>
    have hnan : nan64 (p.timeBits l x) = false := hx.resolve_left Bool.false_ne_true
    simp only [timeM_of_time, hnan, Part.timeImage, Bool.false_eq_true, if_false, pureM_run]

theorem timeM_nan (hx : nan64 (p.timeBits l x) = true) : timeM p l false x s = .error (.trap ⟨0x15, 0, 0x100, none⟩) := by
  simp only [timeM_of_time, hx, if_true, stop_bind]
  rfl
end

/-- The part of a key that MOD names: low, high, or the time. -/
theorem keyPart_eq (k : BitVec 128) (n : Nat) :
    keyPart k n = if n = 0 then k.extractLsb' 0 64 else if n = 1 then k.extractLsb' 64 64 else timeOf (k.extractLsb' 64 64) := by
  match n with
  | 0 | 1 | _ + 2 => rfl

/-! ## TSEND (R447) -/

theorem exec_tsend (h : Hd) (o : OpE) (s : State) : exec (.tsend h o) s = execTsend h o s := rfl

abbrev tsendIss (h : Hd) (o : OpE) : Iss := { h, reads := rds [o.s1, o.s2, o.s3, o.s4, o.s5], writes := wr o.d none }

/-- The key of the message of a TSEND. -/
abbrev Part.tsendKey (p : Part) (o : OpE) : BitVec 128 :=
  BitVec.ofNat 128 ((p.timeImage (o.lit.getD 0) (o.mod.getLsbD 0) o.s4).toNat * 2 ^ 64 + (p.src (o.lit.getD 0) o.s5).toNat)

/-- The message of a TSEND in partition k, outside a task. -/
abbrev Part.tsendMsg (p : Part) (o : OpE) (k : Nat) : Msg :=
  { dest := (p.src (o.lit.getD 0) o.s1).toNat % 2 ^ 32, tag := 0, cls := 0, rp := false, bnc := false, status := 0, handler := p.src (o.lit.getD 0) o.s2
    args := argsOf (p.vreg o.s3), key := p.tsendKey o, src := flatOf k, srcPart := ⟨idxOf k, by unfold idxOf; omega⟩, ctx := p.ctx, task := true
    parent := none, sender := .tsend }

/-- A TSEND has sent its message, and waits for the answer. -/
abbrev tsent (o : OpE) (s : State) : State :=
  (sendMsg (releaseAt s (flatOf s.cur) 4) ((s.part s.cur).tsendMsg o s.cur)).modPart s.cur fun q => { q.count 9 1 with sleep := .tsend }

section
variable {h : Hd} {o : OpE} {s : State} (hk : idxOf s.cur ≠ 3)
include hk

theorem gives_tsend_answered {how : Nat} {v : W64} (hw : (s.part s.cur).sleep = .woken how v) :
    Gives (.tsend h o) (tsendIss h o) s fun q => Part.put { q with sleep := .awake } o.d (BitVec.ofNat 64 how) := by
  intro hi
  rw [exec_tsend, execTsend]
  refine issue_done hi ?_
  simp only [notInD_bind hk, me_bind, myPart_bind, hw, setMine_bind, putM_bind, pureM_run, State.modPart_modPart, State.modPart_cur]

section
variable (hs : (s.part s.cur).sleep = .awake) (hi : issues s (tsendIss h o) = true)
include hs hi

theorem exec_tsend_nan (hm : o.mod.getLsbD 0 = false) (hnan : nan64 ((s.part s.cur).timeBits (o.lit.getD 0) o.s4) = true) :
    exec (.tsend h o) s = taskOutcome s 0x100 := by
  rw [exec_tsend, execTsend]
  refine issue_task hi ?_
  simp only [notInD_bind hk, me_bind, myPart_bind, hs, hm, bind_of_error _ (timeM_nan hnan)]

variable (hx : (s.part s.cur).HasImage (o.lit.getD 0) (o.mod.getLsbD 0) o.s4)
include hx

theorem exec_tsend_reserved (hkey : (s.part s.cur).tsendKey o = reservedKey) : exec (.tsend h o) s = taskOutcome s 0x100 := by
  rw [exec_tsend, execTsend]
  refine issue_task hi ?_
  simp only [notInD_bind hk, me_bind, myPart_bind, hs, timeM_bind hx, hkey, if_true, stop_bind]
  rfl

theorem exec_tsend_sent (ht : taskOn s s.cur = none) (hd : storesDone s s.cur = true) (hkey : (s.part s.cur).tsendKey o ≠ reservedKey) :
    exec (.tsend h o) s = .next (waitingKept (s.part s.cur) (tsent o s) s.cur) := by
  rw [exec_tsend, execTsend]
  refine issue_waitKeep hi ?_
  simp only [notInD_bind hk, me_bind, myPart_bind, hs, timeM_bind hx, if_neg hkey, getState_bind, ht, releaseM_bind ht hd, Bool.not_true, Bool.false_eq_true,
    if_false, modifyState_bind, setMine_bind, pureM_run, Option.map_none, sendMsg_cur, releaseAt_cur]
end
end

/-! ## TEND (R448, R429) -/

theorem exec_tend (h : Hd) (o : OpE) (s : State) : exec (.tend h o) s = execTend h o s := rfl

/-- How an instruction issues that reads nothing and writes D. -/
abbrev taskIss (h : Hd) (o : OpE) : Iss := { h, writes := wr o.d none }

/-- The task of the acting partition, where one runs, is DONE. -/
abbrev taskDone (s : State) : State :=
  match taskOn s s.cur with
  | some t => modTask s t.id fun t => { t with state := .done, chk := none }
  | none => s

/-- The state in which a TEND that begins looks for the next task. -/
abbrev tendFrom (s : State) : State := taborRefill (clOf (flatOf s.cur)) 256 (taskDone s)

/-- A body that changes the acting part in three steps changes it once, and acquires. -/
theorem setMine_putM_setMine_acquireM (f g : Part → Part) (d : Dst) (v : W64) (scope : Nat) (r : Flow) (s : State) :
    (do setMine f
        putM d v
        setMine g
        acquireM scope
        pure r : M Flow) s = .ok (r, acquireAt (s.modPart s.cur fun q => g ((f q).put d v)) (flatOf s.cur) scope) := by
  simp only [setMine_bind, putM_bind, acquireM_bind, pureM_run, State.modPart_modPart, State.modPart_cur]

section
variable {h : Hd} {o : OpE} {s : State} (hk : idxOf s.cur ≠ 3)
include hk

theorem exec_tend_value (hin : (s.part s.cur).inTrap = true ∨ (s.part s.cur).inUp = true) (hi : issues s (taskIss h o) = true) :
    exec (.tend h o) s = valueOutcome s := by
  rw [exec_tend, execTend]
  refine issue_value hi ?_
  simp only [notInD_bind hk, bind_of_error _ (notInHandler_value hin)]

section
variable (hp : (s.part s.cur).InProgram)
include hp

theorem exec_tend_dispatched {v : W64} {t : Task} (hw : (s.part s.cur).sleep = .woken 1 v) (ht : taskOn s s.cur = some t)
    (hi : issues s (taskIss h o) = true) :
    exec (.tend h o) s = jumped (taskIss h o) s
      (acquireAt (s.modPart s.cur fun q => (Part.put { q with sleep := .awake } o.d 1).enterTask t.msg) (flatOf s.cur) 4) t.msg.handler := by
  rw [exec_tend, execTend]
  refine issue_jump hi ?_
  simp only [notInD_bind hk, notInHandler_bind hp, me_bind, myPart_bind, getState_bind, hw, ht]
  exact setMine_putM_setMine_acquireM ..

theorem gives_tend_ended {v : W64} (hw : (s.part s.cur).sleep = .woken 0 v) :
    Gives (.tend h o) (taskIss h o) s fun q => Part.put { q with sleep := .awake } o.d 0 := by
  intro hi
  rw [exec_tend, execTend]
  refine issue_done hi ?_
  simp only [notInD_bind hk, notInHandler_bind hp, me_bind, myPart_bind, getState_bind, hw, setMine_bind, putM_bind, pureM_run, State.modPart_modPart,
    State.modPart_cur]

variable (hs : (s.part s.cur).sleep = .awake)
include hs

/-- A TEND that begins ends the task that runs and refills Tabor; it then serves, but for a TEND.nb that finds no task. -/
theorem exec_tend_begun (hi : issues s (taskIss h o) = true) :
    exec (.tend h o) s = .next (bodyEnd (taskIss h o) s (
      if (o.mod.getLsbD 0 && (nextTask (tendFrom s) s.cur).isNone) = true then .ok (.done, (tendFrom s).modPart s.cur (·.put o.d 0))
      else .ok (.waitKeep, (tendFrom s).modPart s.cur fun q => { q with sleep := .task (o.mod.getLsbD 0) }))) := by
  rw [exec_tend, execTend, issue_of_issues _ hi]
  congr 2
  simp only [notInD_bind hk, notInHandler_bind hp, me_bind, myPart_bind, getState_bind, hs, tendFrom, taskDone]
  cases taskOn s s.cur with
  | some t | none =>
    simp only [modifyState_bind, getState_bind]
    split <;> simp only [putM_bind, setMine_bind, pureM_run, taborRefill_cur, modTask_cur]

theorem leaves_tend_none (hm : o.mod.getLsbD 0 = true) (hn : nextTask (tendFrom s) s.cur = none) :
    Leaves (.tend h o) (taskIss h o) s ((tendFrom s).modPart s.cur (·.put o.d 0)) := by
  intro hi
  rw [exec_tend_begun hk hp hs hi, if_pos (by simp only [hm, hn, Option.isNone_none, Bool.and_self])]
  rfl

theorem exec_tend_serves (hor : o.mod.getLsbD 0 = false ∨ nextTask (tendFrom s) s.cur ≠ none) (hi : issues s (taskIss h o) = true) :
    exec (.tend h o) s = .next (waitingKept (s.part s.cur) ((tendFrom s).modPart s.cur fun q => { q with sleep := .task (o.mod.getLsbD 0) }) s.cur) := by
  have hgo : ¬ (o.mod.getLsbD 0 && (nextTask (tendFrom s) s.cur).isNone) = true := by
    simpa [← Bool.not_eq_true, imp_iff_not_or] using hor
  rw [exec_tend_begun hk hp hs hi, if_neg hgo]
  rfl
end
end

/-! ## TABORT (R449) -/

theorem exec_tabort (h : Hd) (o : OpE) (s : State) : exec (.tabort h o) s = execTabort h o s := rfl

section
variable {h : Hd} {o : OpE} {s : State} (hk : idxOf s.cur ≠ 3) (hi : issues s { h } = true)
include hk hi

theorem exec_tabort_value (hin : (s.part s.cur).inTrap = true ∨ (s.part s.cur).inUp = true) : exec (.tabort h o) s = valueOutcome s := by
  rw [exec_tabort, execTabort]
  refine issue_value hi ?_
  simp only [notInD_bind hk, bind_of_error _ (notInHandler_value hin)]

section
variable (hp : (s.part s.cur).InProgram)
include hp

theorem exec_tabort_none (ht : taskOn s s.cur = none) : exec (.tabort h o) s = taskOutcome s 0x200 := by
  rw [exec_tabort, execTabort]
  refine issue_task hi ?_
  simp only [notInD_bind hk, notInHandler_bind hp, me_bind, getState_bind, ht, stop_run]
  rfl

variable {t : Task} (ht : taskOn s s.cur = some t)
include ht

theorem exec_tabort_discard (hm : o.mod.getLsbD 0 = true) :
    exec (.tabort h o) s = placedAt { h } s (taborRefill t.cl 256 (abortTasks s [] [t.id])) := by
  rw [exec_tabort, execTabort]
  refine issue_placed hi ?_
  simp only [notInD_bind hk, notInHandler_bind hp, me_bind, getState_bind, ht, hm, if_true, modifyState_bind, pureM_run]

theorem exec_tabort_hold (hm : o.mod.getLsbD 0 = false) (hirr : irrevocable s t = false) : exec (.tabort h o) s = placedAt { h } s (holdTask s s.cur) := by
  rw [exec_tabort, execTabort]
  refine issue_placed hi ?_
  simp only [notInD_bind hk, notInHandler_bind hp, me_bind, getState_bind, ht, hm, hirr, Bool.false_eq_true, if_false, modifyState_bind, pureM_run]

theorem exec_tabort_irrevocable (hm : o.mod.getLsbD 0 = false) (hirr : irrevocable s t = true) : exec (.tabort h o) s = valueOutcome s := by
  rw [exec_tabort, execTabort]
  refine issue_value hi ?_
  simp only [notInD_bind hk, notInHandler_bind hp, me_bind, getState_bind, ht, hm, hirr, Bool.false_eq_true, if_false, if_true, illegalValue_bind]
end
end

/-! ## TGVT and TKEY (R450) -/

theorem exec_tgvt (h : Hd) (o : OpE) (s : State) : exec (.tgvt h o) s = execTgvt h o s := rfl
theorem exec_tkey (h : Hd) (o : OpE) (s : State) : exec (.tkey h o) s = execTkey h o s := rfl

/-- The GVT of the acting partition's context. -/
abbrev actingGvt (s : State) : BitVec 128 := (s.ctx (s.part s.cur).ctx).gvt

section
variable {h : Hd} {o : OpE} {s : State}

/-- The time of the reserved key is infinite. -/
theorem gives_tgvt_infinite (hm : o.mod.toNat % 4 = 2) (hg : actingGvt s = reservedKey) :
    Gives (.tgvt h o) (taskIss h o) s (·.put o.d 0x7FF0000000000000) := by
  intro hi
  rw [exec_tgvt, execTgvt]
  refine issue_done hi ?_
  simp only [myPart_bind, getState_bind, hm, hg, decide_true, Bool.and_self, if_true, putM_bind, pureM_run]

theorem gives_tgvt (hor : o.mod.toNat % 4 ≠ 2 ∨ actingGvt s ≠ reservedKey) :
    Gives (.tgvt h o) (taskIss h o) s (·.put o.d (keyPart (actingGvt s) (o.mod.toNat % 4))) := by
  intro hi
  rw [exec_tgvt, execTgvt]
  refine issue_done hi ?_
  have hfinite : ¬ (actingGvt s = reservedKey ∧ o.mod.toNat % 4 = 2) := fun ⟨hg, hm⟩ => hor.elim (· hm) (· hg)
  simp only [myPart_bind, getState_bind, Bool.and_eq_true, decide_eq_true_eq, if_neg hfinite, putM_bind, pureM_run]

theorem gives_tkey {t : Task} (ht : taskOn s s.cur = some t) :
    Gives (.tkey h o) (taskIss h o) s (·.put o.d (keyPart t.msg.key (o.mod.toNat % 4))) := by
  intro hi
  rw [exec_tkey, execTkey]
  refine issue_done hi ?_
  simp only [me_bind, getState_bind, ht, putM_bind, pureM_run]

theorem exec_tkey_none (ht : taskOn s s.cur = none) (hi : issues s (taskIss h o) = true) : exec (.tkey h o) s = taskOutcome s 0x200 := by
  rw [exec_tkey, execTkey]
  refine issue_task hi ?_
  simp only [me_bind, getState_bind, ht, stop_run]
  rfl
end

/-! ## TWAIT (R451) -/

theorem exec_twait (h : Hd) (o : OpE) (s : State) : exec (.twait h o) s = execTwait h o s := rfl

abbrev twaitIss (h : Hd) (o : OpE) : Iss := { h, reads := rds [o.s1, o.s2], writes := wr o.d none }

/-- The key that the GVT of a TWAIT has to pass. -/
abbrev Part.twaitKey (p : Part) (o : OpE) : Nat := (p.timeImage (o.lit.getD 0) (o.mod.getLsbD 0) o.s1).toNat * 2 ^ 64 + (p.src (o.lit.getD 0) o.s2).toNat

section
variable {h : Hd} {o : OpE} {s : State} (hk : idxOf s.cur ≠ 3)
include hk

theorem exec_twait_value (ht : (taskOn s s.cur).isSome = true) (hi : issues s (twaitIss h o) = true) : exec (.twait h o) s = valueOutcome s := by
  rw [exec_twait, execTwait]
  refine issue_value hi ?_
  simp only [notInD_bind hk, bind_of_error _ (noTask_value ht)]

theorem exec_twait_nan (ht : taskOn s s.cur = none) (hm : o.mod.getLsbD 0 = false)
    (hnan : nan64 ((s.part s.cur).timeBits (o.lit.getD 0) o.s1) = true) (hi : issues s (twaitIss h o) = true) : exec (.twait h o) s = taskOutcome s 0x100 := by
  rw [exec_twait, execTwait]
  refine issue_task hi ?_
  simp only [notInD_bind hk, noTask_bind ht, myPart_bind, hm, bind_of_error _ (timeM_nan hnan)]

section
variable (hx : (s.part s.cur).HasImage (o.lit.getD 0) (o.mod.getLsbD 0) o.s1) (ht : taskOn s s.cur = none)
include hx ht

theorem exec_twait_waits (hle : (actingGvt s).toNat ≤ (s.part s.cur).twaitKey o) (hi : issues s (twaitIss h o) = true) :
    exec (.twait h o) s = .next (waitingStore (twaitIss h o) s s.cur) := by
  rw [exec_twait, execTwait]
  refine issue_wait hi (t := s) ?_
  simp only [notInD_bind hk, noTask_bind ht, myPart_bind, timeM_bind hx, getState_bind, if_pos hle, pureM_run]

theorem leaves_twait (hlt : (s.part s.cur).twaitKey o < (actingGvt s).toNat) :
    Leaves (.twait h o) (twaitIss h o) s (acquireAt (s.modPart s.cur (·.put o.d (keyHi (actingGvt s)))) (flatOf s.cur) 4) := by
  intro hi
  rw [exec_twait, execTwait]
  refine issue_done hi ?_
  simp only [notInD_bind hk, noTask_bind ht, myPart_bind, timeM_bind hx, getState_bind, if_neg (not_le.mpr hlt), putM_bind, acquireM_bind, pureM_run,
    State.modPart_cur]
end
end

/-- Settles O45: TSEND and TEND end as their sleep says, a TEND that begins by what Tabor holds for it, TABORT by its task, TWAIT by the GVT; TGVT and TKEY give a part
of a key. -/
theorem taskInstructions : Obligations.TaskInstructions := by
  unfold Obligations.TaskInstructions
  intro h o s p k l i e w trap value gvt part bitsOf hi keyOf
  refine ⟨fun hk => ⟨?answered, ?tsendNan, fun hs hiss hx ht hd => ⟨?reserved, ?sent⟩, fun htrap hup => ⟨?dispatched, ?ended, fun hs => ⟨?nothing, ?serves⟩, ?noTask,
    fun t ht hiss => ⟨?discard, ?hold, ?irrevocable⟩⟩, fun hin => ⟨exec_tend_value hk hin, (exec_tabort_value hk · hin)⟩, exec_twait_value hk, ?twaitNan, ?twaits,
    ?passed⟩, gives_tgvt_infinite, ?gvt, fun t ht => ?key, exec_tkey_none⟩
  case answered => exact fun how v hw => gives_tsend_answered hk hw
  case tsendNan => exact fun hs hiss hm hnan => exec_tsend_nan hk hs hiss hm hnan
  case reserved => exact fun hkey => exec_tsend_reserved hk hs hiss hx hkey
  case sent =>
    exact fun hkey => ⟨tsent o s, p.tsendMsg o k, exec_tsend_sent hk hs hiss hx ht hd hkey, rfl, rfl, rfl, rfl, rfl, rfl, rfl, rfl, rfl⟩
  case dispatched => exact fun v t hw ht hiss => exec_tend_dispatched hk ⟨htrap, hup⟩ hw ht hiss
  case ended => exact fun v hw => gives_tend_ended hk ⟨htrap, hup⟩ hw
  case nothing => exact leaves_tend_none hk ⟨htrap, hup⟩ hs
  case serves => exact exec_tend_serves hk ⟨htrap, hup⟩ hs
  case noTask => exact fun ht hiss => exec_tabort_none hk hiss ⟨htrap, hup⟩ ht
  case discard => exact exec_tabort_discard hk hiss ⟨htrap, hup⟩ ht
  case hold => exact exec_tabort_hold hk hiss ⟨htrap, hup⟩ ht
  case irrevocable => exact exec_tabort_irrevocable hk hiss ⟨htrap, hup⟩ ht
  case twaitNan => exact exec_twait_nan hk
  case twaits => exact fun hx ht hle hiss => exec_twait_waits hk hx ht hle hiss
  case passed => exact fun hx ht hlt => leaves_twait hk hx ht hlt
  case gvt =>
    intro hor
    have hgives := gives_tgvt (h := h) hor
    rwa [keyPart_eq] at hgives
  case key =>
    have hgives := gives_tkey (h := h) (o := o) ht
    rwa [keyPart_eq] at hgives

end Sys2Proof.Machine
end

section
/-! PROOFS. Task messages, dispatch and GVT rounds (R427 to R429, R439, R440, R448). -/

namespace Sys2Proof.Machine

/-! ## A task message arrives (R354, R427) -/

theorem exec_taskArrival (n : Nat) (s : State) : exec (.taskArrival n) s = execTaskArrival n s := rfl

/-- A task message of class 0 that comes first in its lane is taken when its turn has come. -/
theorem arrival_not_put_off {n : Nat} {s : State} {m : Msg} (htask : m.task = true) (hcls : m.cls = 0) (hfirst : firstOfLane s n = true)
    (htie : tieTurn s m = true) : (!m.task || decide (m.cls ≠ 0) || !firstOfLane s n || !tieTurn s m) = false := by
  simp only [htask, hcls, hfirst, htie, ne_eq, not_true_eq_false, decide_false, Bool.not_true, Bool.or_self]

section
variable {n : Nat} {s : State} {m : Msg} (hm : s.net[n]? = some m)
include hm

/-- A task message whose turn has not come stays in the network. -/
theorem exec_taskArrival_tie (htie : tieTurn s m = false) : exec (.taskArrival n) s = .next s := by
  simp only [exec_taskArrival, execTaskArrival, hm, htie, Bool.not_false, Bool.or_true, if_true]

section
variable (htask : m.task = true) (hcls : m.cls = 0) (hfirst : firstOfLane s n = true) (htie : tieTurn s m = true)
include htask hcls hfirst htie

theorem exec_taskArrival_rejected {st : Nat} (hr : m.reject s = some st) : exec (.taskArrival n) s = .next (bounceMsg (takeMsg s n) m st) := by
  simp only [exec_taskArrival, execTaskArrival, hm, arrival_not_put_off htask hcls hfirst htie, Bool.false_eq_true, if_false, hr]

theorem exec_taskArrival_live (hr : m.reject s = none) (hf : fateOf (takeMsg s n) m.dest m.ctx = .live) :
    exec (.taskArrival n) s = .next (offerTabor (takeMsg s n) m) := by
  simp only [exec_taskArrival, execTaskArrival, hm, arrival_not_put_off htask hcls hfirst htie, Bool.false_eq_true, if_false, hr, hf]

theorem exec_taskArrival_exited (hr : m.reject s = none) (hf : fateOf (takeMsg s n) m.dest m.ctx = .exited) :
    exec (.taskArrival n) s = .next (bounceMsg (takeMsg s n) m 5) := by
  simp only [exec_taskArrival, execTaskArrival, hm, arrival_not_put_off htask hcls hfirst htie, Bool.false_eq_true, if_false, hr, hf]
end
end

/-- A Tabor as a message meets it: its free slots have taken what the inboxes hold. -/
abbrev refilled (s : State) (cl : Nat) : State := taborRefill cl 256 s

section
variable {s : State} {m : Msg}

theorem offerTabor_room (hroom : (taborOf (refilled s (clOf m.dest)) (clOf m.dest)).length < 256) :
    offerTabor s m = acceptSend (enterTabor (refilled s (clOf m.dest)) m) m := by
  simp only [offerTabor, refilled, if_pos hroom]

/-- A full Tabor keeps the lower of its last task and the message. -/
theorem offerTabor_full {t : Task} (hfull : 256 ≤ (taborOf (refilled s (clOf m.dest)) (clOf m.dest)).length)
    (ht : lastTask (taborOf (refilled s (clOf m.dest)) (clOf m.dest)) = some t) :
    offerTabor s m =
      if t.before { t with id := (refilled s (clOf m.dest)).taskSeq, msg := m } then holdTaskMsg (refilled s (clOf m.dest)) m
      else acceptSend (enterTabor (displace (refilled s (clOf m.dest)) t) m) m := by
  simp only [offerTabor, refilled, if_neg (not_lt.mpr hfull), ht]

/-- The turn of a message is its own where no task of its Tabor has its key, or the log names no source for it (R502). -/
theorem tieTurn_of_free (hfree : (∀ u ∈ s.tasks, u.cl = clOf m.dest → u.msg.key ≠ m.key) ∨ replayNext s m.dest 0 5 = none) : tieTurn s m = true := by
  rw [tieTurn, Bool.or_eq_true]
  refine hfree.imp (fun hkey => ?_) fun hlog => by rw [hlog, Option.all_none]
  simpa using hkey
end

/-! ## Dispatch (R428, R429, R448) -/

theorem exec_taskDispatch (k : Nat) (s : State) : exec (.taskDispatch k) s = execTaskDispatch k s := rfl

section
variable {k : Nat} {s : State} (hserv : (s.part k).serving = true) (hst : (s.part k).st = .resident)
include hserv hst

theorem exec_taskDispatch_some {t : Task} (ht : nextTask (refilled s (clOf (flatOf k))) k = some t) :
    exec (.taskDispatch k) s = .next ((modTask (refilled s (clOf (flatOf k))) t.id fun t =>
      { t with state := .running, k, chk := some ((refilled s (clOf (flatOf k))).part k) }).modPart k fun p => { p with sleep := .woken 1 0 }) := by
  simp only [exec_taskDispatch, execTaskDispatch, hserv, hst, decide_true, Bool.and_self, if_true, ht]

theorem exec_taskDispatch_none (ht : nextTask (refilled s (clOf (flatOf k))) k = none) :
    exec (.taskDispatch k) s = .next (if ((refilled s (clOf (flatOf k))).part k).sleep = .task true then
      (refilled s (clOf (flatOf k))).modPart k fun p => { p with sleep := .woken 0 0 } else refilled s (clOf (flatOf k))) := by
  simp only [exec_taskDispatch, execTaskDispatch, hserv, hst, decide_true, Bool.and_self, if_true, ht]
end

/-- One step of the search for the first task in the order of Tabor. -/
abbrev firstTask (b : Option Task) (t : Task) : Option Task :=
  match b with
  | none => some t
  | some u => if t.before u then some t else b

theorem nextTask_eq_foldl (s : State) (k : Nat) :
    nextTask s k = (s.tasks.filter fun t => t.msg.dest = flatOf k && t.msg.ctx = (s.part k).ctx && dispatchable s t).foldl firstTask none := rfl

theorem eq_or_eq_of_firstTask {b : Option Task} {x t : Task} (h : firstTask b x = some t) : x = t ∨ b = some t := by
  cases b with
  | none => exact .inl (Option.some.inj h)
  | some u =>
    change (if x.before u then some x else some u) = some t at h
    split at h
    · exact .inl (Option.some.inj h)
    · exact .inr h

theorem mem_or_eq_of_foldl_firstTask {l : List Task} {b : Option Task} {t : Task} (h : l.foldl firstTask b = some t) : t ∈ l ∨ b = some t := by
  induction l generalizing b with
  | nil => exact .inr h
  | cons x l ih =>
    obtain hl | hx := ih h
    · exact .inl (List.mem_cons_of_mem _ hl)
    · exact (eq_or_eq_of_firstTask hx).imp_left fun hxt => List.mem_cons.mpr (.inl hxt.symm)

theorem pending_of_dispatchable {s : State} {t : Task} (h : dispatchable s t = true) : t.state = .pending := by
  simp only [dispatchable, Bool.and_eq_true, decide_eq_true_eq] at h
  obtain ⟨⟨hpending, -⟩, -⟩ := h
  exact hpending

/-- The task that Tabor dispatches is one of its own for the partition, and may be dispatched. -/
theorem nextTask_spec {k : Nat} {s : State} {t : Task} (h : nextTask s k = some t) :
    t ∈ s.tasks ∧ dispatchable s t = true ∧ t.msg.dest = flatOf k ∧ t.state = .pending := by
  rw [nextTask_eq_foldl] at h
  obtain hmem | hnone := mem_or_eq_of_foldl_firstTask h
  · rw [List.mem_filter] at hmem
    obtain ⟨hin, hcond⟩ := hmem
    simp only [Bool.and_eq_true, decide_eq_true_eq] at hcond
    obtain ⟨⟨hdest, -⟩, hdisp⟩ := hcond
    exact ⟨hin, hdisp, hdest, pending_of_dispatchable hdisp⟩
  · cases hnone

/-! ## A GVT round (R440) -/

theorem exec_gvtRound (c : Nat) (s : State) : exec (.gvtRound c) s = execGvtRound c s := rfl

/-- A part of a context that serves in TEND. -/
abbrev Part.servesIn (p : Part) (c : Nat) : Bool := decide (p.ctx = c) && decide (p.st ≠ .free) && p.serving

/-- The end of a TEND that serves for a context. -/
def Part.endServing (c : Nat) (p : Part) : Part := if p.servesIn c then { p with sleep := .woken 0 0 } else p

/-- Every TEND that serves for a context ends. -/
def endServing (s : State) (c : Nat) : State :=
  { s with parts := s.parts.map fun kp => if kp.2.servesIn c then (kp.1, { kp.2 with sleep := .woken 0 0 }) else kp }

/-- What a round has done before it publishes the least key. -/
def gvtCommitted (s : State) (c : Nat) : State :=
  let done := (s.tasks.filter fun t => t.msg.ctx = c && t.state = .done && decide (t.msg.key.toNat < (minKey s c).toNat)).mergeSort fun a b => a.before b
  let s1 := done.foldl commitTask s
  ((done.map (·.cl)) ++ ((s1.ctx c).inbox.filter (·.task)).map fun m => clOf m.dest).dedup.foldl (fun s cl => taborRefill cl 256 s) s1

/-- A round publishes the least key, and ends every serving TEND where that is the reserved one. -/
theorem execGvtRound_eq (c : Nat) (s : State) :
    execGvtRound c s = .next (
      let s3 := (gvtCommitted s c).modCtx c fun x => { x with gvt := minKey s c }
      if minKey s c = reservedKey then endServing s3 c else s3) := rfl

@[simp] theorem endServing_ctx (s : State) (c d : Nat) : (endServing s c).ctx d = s.ctx d := rfl

/-- A partition that the state does not list is free. -/
theorem Part.endServing_reset (c : Nat) : Part.reset.endServing c = Part.reset :=
  if_neg (by simp only [Part.servesIn, Part.reset, ne_eq, not_true_eq_false, decide_false, Bool.and_false, Bool.false_and, Bool.false_eq_true, not_false_eq_true])

theorem endServing_part (s : State) (c k : Nat) : (endServing s c).part k = (s.part k).endServing c := by
  have hmap : (s.parts.map fun kp => if kp.2.servesIn c then (kp.1, { kp.2 with sleep := .woken 0 0 }) else kp) =
      s.parts.map fun kp => (kp.1, kp.2.endServing c) := by
    refine List.map_congr_left fun kp _ => ?_
    unfold Part.endServing
    split <;> rfl
  have hfind := mfind_map s.parts (fun _ => Part.endServing c) k
  simp only [endServing, State.part, hmap, hfind]
  cases mfind s.parts k with
  | none => exact (Part.endServing_reset c).symm
  | some p => rfl

/-- No part of the context serves any more. -/
theorem Part.endServing_serving {p : Part} {c : Nat} (hc : (p.endServing c).ctx = c) (hst : (p.endServing c).st ≠ .free) : (p.endServing c).serving = false := by
  unfold Part.endServing at hc hst ⊢
  split
  · rfl
  · next hno =>
    rw [if_neg hno] at hc hst
    simpa [Part.servesIn, hc, hst] using hno

/-- A round gives a state in which the least key is published, and where it is the reserved one no TEND serves. -/
theorem exec_gvtRound_spec (c : Nat) (s : State) :
    ∃ t, exec (.gvtRound c) s = .next t ∧ (t.ctx c).gvt = minKey s c ∧
      (minKey s c = reservedKey → ∀ k, (t.part k).ctx = c → (t.part k).st ≠ .free → (t.part k).serving = false) := by
  refine ⟨_, (exec_gvtRound c s).trans (execGvtRound_eq c s), ?published, fun hres k hc hst => ?ended⟩
  case published =>
    dsimp only
    split <;> simp only [endServing_ctx, State.ctx_modCtx]
  case ended =>
    simp only [if_pos hres, endServing_part] at hc hst ⊢
    exact Part.endServing_serving hc hst

/-! ## The least key (R439) -/

/-- The keys of the tasks and the task messages of a context that bound its GVT. -/
abbrev boundingKeys (s : State) (c : Nat) : List (BitVec 128) :=
  ((s.tasks.filter fun t => t.msg.ctx = c && t.state ≠ .done).map fun t => t.msg.key) ++ ((s.net.filter fun m => m.task && m.ctx = c).map (·.key)) ++
    (((s.ctx c).inbox.filter (·.task)).map (·.key))

/-- The lower of two keys, the first where they are equal. -/
abbrev lowerKey (a b : BitVec 128) : BitVec 128 := if b.toNat < a.toNat then b else a

theorem minKey_eq_foldl (s : State) (c : Nat) : minKey s c = (boundingKeys s c).foldl lowerKey reservedKey := rfl

theorem foldl_lowerKey_le (l : List (BitVec 128)) (a : BitVec 128) :
    (l.foldl lowerKey a).toNat ≤ a.toNat ∧ ∀ k ∈ l, (l.foldl lowerKey a).toNat ≤ k.toNat := by
  induction l generalizing a with
  | nil => simp
  | cons b l ih =>
    obtain ⟨hhead, htail⟩ := ih (lowerKey a b)
    have hlower : (lowerKey a b).toNat ≤ a.toNat ∧ (lowerKey a b).toNat ≤ b.toNat := by
      unfold lowerKey
      split <;> omega
    exact ⟨hhead.trans hlower.1, List.forall_mem_cons.mpr ⟨hhead.trans hlower.2, htail⟩⟩

theorem foldl_lowerKey_mem (l : List (BitVec 128)) (a : BitVec 128) : l.foldl lowerKey a = a ∨ l.foldl lowerKey a ∈ l := by
  induction l generalizing a with
  | nil => exact .inl rfl
  | cons b l ih =>
    obtain hhead | htail := ih (lowerKey a b)
    · rw [List.foldl_cons, hhead]
      unfold lowerKey
      split
      · exact .inr List.mem_cons_self
      · exact .inl rfl
    · exact .inr (List.mem_cons_of_mem _ htail)

section
variable {s : State} {c : Nat}

theorem mem_boundingKeys {k : BitVec 128} :
    k ∈ boundingKeys s c ↔ (∃ t ∈ s.tasks, t.msg.ctx = c ∧ t.state ≠ .done ∧ t.msg.key = k) ∨ (∃ m ∈ s.net, m.task = true ∧ m.ctx = c ∧ m.key = k) ∨
      ∃ m ∈ (s.ctx c).inbox, m.task = true ∧ m.key = k := by
  simp [boundingKeys, and_assoc]

theorem minKey_le {k : BitVec 128} (h : k ∈ boundingKeys s c) : (minKey s c).toNat ≤ k.toNat := (foldl_lowerKey_le _ reservedKey).2 k h

/-- The least key is the reserved one or is the key of something not done. -/
theorem minKey_attained : minKey s c = reservedKey ∨ minKey s c ∈ boundingKeys s c := foldl_lowerKey_mem _ reservedKey
end

/-- Settles O46: an arrival is a case of the checks and of what Tabor holds, a dispatch of the task that it finds, and the key of a round is the minimum of a fold. -/
theorem taskEvents : Obligations.TaskEvents := by
  unfold Obligations.TaskEvents
  refine ⟨fun n s m hm htask hcls hfirst => ⟨?tie, fun htie => ⟨?rejected, fun hr hf => ⟨?room, ?full⟩, ?exited⟩⟩, fun s m => tieTurn_of_free,
    fun k s hserv hst => ⟨?dispatched, ?idle⟩, fun k s t => nextTask_spec, exec_gvtRound_spec, fun c s => ⟨?tasks, ?net, ?inbox, ?attained⟩⟩
  case tie => exact exec_taskArrival_tie hm
  case rejected => exact fun st => exec_taskArrival_rejected hm htask hcls hfirst htie
  case room =>
    intro hroom
    rw [exec_taskArrival_live hm htask hcls hfirst htie hr hf, offerTabor_room hroom]
  case full =>
    intro t hfull ht
    rw [exec_taskArrival_live hm htask hcls hfirst htie hr hf, offerTabor_full hfull ht]
  case exited => exact exec_taskArrival_exited hm htask hcls hfirst htie
  case dispatched => exact fun t => exec_taskDispatch_some hserv hst
  case idle => exact exec_taskDispatch_none hserv hst
  case tasks => exact fun t ht hc hd => minKey_le (mem_boundingKeys.mpr (.inl ⟨t, ht, hc, hd, rfl⟩))
  case net => exact fun m hm htask hc => minKey_le (mem_boundingKeys.mpr (.inr (.inl ⟨m, hm, htask, hc, rfl⟩)))
  case inbox => exact fun m hm htask => minKey_le (mem_boundingKeys.mpr (.inr (.inr ⟨m, hm, htask, rfl⟩)))
  case attained => exact minKey_attained.imp_right mem_boundingKeys.mp

end Sys2Proof.Machine
end

section
/-! PROOFS. What an error record and the tables of the collectives leave of the instruction that acts (R195, R458, R471). -/

namespace Sys2Proof.Machine

theorem issuer_toHome (s : State) (flat : Nat) (line : W64) : issuer (toHome s flat line) = issuer s :=
  (issuer_recallOthers ..).trans (issuer_guestDrop ..)

theorem issuer_homeWrite (s : State) (flat : Nat) (va : W64) (bs : List Byte) : issuer (homeWrite s flat va bs) = issuer s := issuer_homeWriteAll ..

theorem issuer_writeRecord (s : State) (c flat : Nat) (rec : List Byte) : issuer (writeRecord s c flat rec).1 = issuer s := by
  unfold writeRecord
  dsimp only
  split
  · rfl
  · split <;> simp only [issuer_homeWrite, issuer_releaseAt, issuer_toHome]

@[simp] theorem modColl_cur (s : State) (dev gid seq : Nat) (f : Coll → Coll) : (modColl s dev gid seq f).cur = s.cur := rfl
@[simp] theorem modGcoll_cur (s : State) (gid seq : Nat) (f : GColl → GColl) : (modGcoll s gid seq f).cur = s.cur := rfl

@[simp] theorem cancelColl_cur (s : State) (dev : Nat) (c : Coll) (reason freason cause : Nat) (addr : W64) :
    (cancelColl s dev c reason freason cause addr).cur = s.cur := by
  simp only [cancelColl, modColl_cur]
  split
  · rfl
  · exact cur_of_issuer (issuer_writeRecord ..)

/-- A withdrawal changes no part. -/
@[simp] theorem sendAsk_part (s : State) (dev : Nat) (c : Coll) (f : Option (Nat × W64)) (k : Nat) : (sendAsk s dev c f).part k = s.part k := by
  unfold sendAsk
  split <;> split <;> rfl

end Sys2Proof.Machine
end

section
/-! PROOFS. The instructions of the collectives (R475 to R480). -/

namespace Sys2Proof.Machine

/-! ## What the members share -/

/-- The word of an instruction's first source: a handle, or a group. -/
abbrev handleOp (o : OpE) (s : State) : W64 := (s.part s.cur).src (o.lit.getD 0) o.s1

/-- The group that the word names. -/
abbrev groupOp (o : OpE) (s : State) : Nat := (handleOp o s).toNat % 2 ^ 32

/-- Where the instructions of the collectives are refused (R475). -/
def NoCollectives (s : State) : Prop := idxOf s.cur = 3 ∨ (taskOn s s.cur).isSome = true

/-- The entry of the acting part that a handle names, with its ordinal. -/
abbrev entryOf (s : State) (v : W64) : Option (Nat × Coll) :=
  (collsAt s (flatOf s.cur) (s.part s.cur).ctx).find? fun c => c.2.gid = v.toNat % 2 ^ 32 && c.2.seq = v.toNat / 2 ^ 32

section
variable {α : Type} {s : State}

theorem collOnly_bind (hk : idxOf s.cur ≠ 3) (ht : taskOn s s.cur = none) (f : Unit → M α) : (collOnly >>= f) s = f () s :=
  bind_of_ok f (by simp only [collOnly, engineOnly, me_bind, if_neg hk, noTask, ht, Option.isSome_none, Bool.false_eq_true, if_false])

theorem collOnly_value (hno : NoCollectives s) : collOnly s = .error (.trap (valueTrap (s.part s.cur))) := by
  simp only [collOnly, engineOnly, me_bind]
  by_cases hk : idxOf s.cur = 3
  · simp only [if_pos hk, illegalValue_bind]
  · simp only [if_neg hk, noTask_value (hno.resolve_left hk)]

theorem handleM_bind {v : W64} {e : Nat × Coll} (he : entryOf s v = some e) (f : Nat × Coll → M α) : (handleM v >>= f) s = f e s :=
  bind_of_ok f (by simp only [handleM, me_bind, myPart_bind, getState_bind, he, pureM_run])

theorem handleM_value {v : W64} (he : entryOf s v = none) : handleM v s = .error (.trap (valueTrap (s.part s.cur))) := by
  simp only [handleM, me_bind, myPart_bind, getState_bind, he, illegalValue_run]
end

/-- How an instruction issues that names a collective, or a group, by its first source. -/
abbrev handleIss (h : Hd) (o : OpE) : Iss := { h, reads := rds [o.s1], writes := wr o.d none }

/-! ## GWAIT (R478) -/

theorem exec_gwait (h : Hd) (o : OpE) (s : State) : exec (.gwait h o) s = execGwait h o s := rfl
theorem exec_gtkt (h : Hd) (o : OpE) (s : State) : exec (.gtkt h o) s = execGtkt h o s := rfl
theorem exec_gcancel (h : Hd) (o : OpE) (s : State) : exec (.gcancel h o) s = execGcancel h o s := rfl

section
variable {h : Hd} {o : OpE} {s : State} {dev : Nat} {c : Coll}

/-- A member that ends a collective, reads its ticket or withdraws it stops where collectives are refused, and where its handle names none. -/
theorem exec_handle_value (hi : issues s (handleIss h o) = true)
    (hno : NoCollectives s ∨ (idxOf s.cur ≠ 3 ∧ taskOn s s.cur = none ∧ entryOf s (handleOp o s) = none)) :
    exec (.gwait h o) s = valueOutcome s ∧ exec (.gtkt h o) s = valueOutcome s ∧ exec (.gcancel h o) s = valueOutcome s := by
  rw [exec_gwait, exec_gtkt, exec_gcancel, execGwait, execGtkt, execGcancel]
  obtain hrefused | ⟨hk, ht, he⟩ := hno
  · refine ⟨issue_value hi ?_, issue_value hi ?_, issue_value hi ?_⟩ <;> exact bind_of_error _ (collOnly_value hrefused)
  · refine ⟨issue_value hi ?_, issue_value hi ?_, issue_value hi ?_⟩ <;>
      simp only [collOnly_bind hk ht, myPart_bind, bind_of_error _ (handleM_value he)]

section
variable (hk : idxOf s.cur ≠ 3) (ht : taskOn s s.cur = none) (he : entryOf s (handleOp o s) = some (dev, c))
include hk ht he

theorem leaves_gwait_complete (hst : c.st = .complete) :
    Leaves (.gwait h o) (handleIss h o) s (freeColl (acquireAt (s.modPart s.cur (·.put o.d 0)) (flatOf s.cur) 4) dev c) := by
  intro hi
  rw [exec_gwait, execGwait]
  refine issue_done hi ?_
  simp only [collOnly_bind hk ht, myPart_bind, handleM_bind he, hst, putM_bind, acquireM_bind, modifyState_bind, pureM_run, State.modPart_cur]

/-- A CANCELLED collective is freed by its GWAIT, but for one whose record is to be taken. -/
theorem leaves_gwait_cancelled (hst : c.st = .cancelled) (hfree : c.reason = 3 ∨ c.taken = true ∨ o.mod.getLsbD 1 = true ∨ o.mod.getLsbD 0 = true) :
    Leaves (.gwait h o) (handleIss h o) s (freeColl (s.modPart s.cur (·.put o.d (BitVec.ofNat 64 (0x10 + c.reason)))) dev c) := by
  have hno : ¬ (decide (c.reason ≠ 3) && !c.taken && !o.mod.getLsbD 1 && !o.mod.getLsbD 0) = true := by
    simp only [Bool.and_eq_true, decide_eq_true_eq, Bool.not_eq_true']
    rintro ⟨⟨⟨hreason, htaken⟩, hq⟩, hnb⟩
    simp only [hreason, htaken, hq, hnb, Bool.false_eq_true, or_self] at hfree
  intro hi
  rw [exec_gwait, execGwait]
  refine issue_done hi ?_
  simp only [collOnly_bind hk ht, myPart_bind, handleM_bind he, hst, if_neg hno, putM_bind, modifyState_bind, pureM_run]

/-- The first GWAIT of a CANCELLED collective takes its record and traps. -/
theorem exec_gwait_trapped (hst : c.st = .cancelled) (hreason : c.reason ≠ 3) (htaken : c.taken = false) (hq : o.mod.getLsbD 1 = false)
    (hnb : o.mod.getLsbD 0 = false) (hi : issues s (handleIss h o) = true) :
    exec (.gwait h o) s = .next (takeTrap (markTaken (takeColl s dev c) c.ctx c.flat c.slot) s.cur ⟨0x16, 1, c.slot, none⟩) := by
  rw [exec_gwait, execGwait, issue_of_issues _ hi]
  simp only [collOnly_bind hk ht, myPart_bind, handleM_bind he, hst, hreason, htaken, hq, hnb, ne_eq, not_false_eq_true, decide_true, Bool.not_false, Bool.and_self,
    if_true, modifyState_bind, pureM_run]
  rfl

/-! ## GTKT and GCANCEL (R477, R479) -/

theorem gives_gtkt_ticket {t : Nat} (hticket : c.ticket = some t) : Gives (.gtkt h o) (handleIss h o) s (·.put o.d (BitVec.ofNat 64 t)) := by
  intro hi
  rw [exec_gtkt, execGtkt]
  refine issue_done hi ?_
  simp only [collOnly_bind hk ht, myPart_bind, handleM_bind he, hticket, Option.isNone_some, Bool.and_false, Bool.false_and, Bool.false_eq_true, if_false, Coll.time,
    Option.getD_some, putM_bind, pureM_run]

theorem gives_gtkt_none (hticket : c.ticket = none) (hno : o.mod.getLsbD 0 = false ∨ c.st = .cancelled) :
    Gives (.gtkt h o) (handleIss h o) s (·.put o.d 0) := by
  have hgoes : (o.mod.getLsbD 0 && decide (c.st ≠ .cancelled)) = false := by
    obtain hnb | hst := hno
    · rw [hnb, Bool.false_and]
    · rw [hst, decide_eq_false (not_not.mpr rfl), Bool.and_false]
  intro hi
  rw [exec_gtkt, execGtkt]
  refine issue_done hi ?_
  simp only [collOnly_bind hk ht, myPart_bind, handleM_bind he, hticket, Option.isNone_none, Bool.and_true, hgoes, Bool.false_eq_true, if_false, Coll.time,
    Option.getD_none, putM_bind, pureM_run]
  rfl

theorem exec_gtkt_waits (hticket : c.ticket = none) (hnb : o.mod.getLsbD 0 = true) (hst : c.st ≠ .cancelled) (hi : issues s (handleIss h o) = true) :
    exec (.gtkt h o) s = .next (waitingStore (handleIss h o) s s.cur) := by
  rw [exec_gtkt, execGtkt]
  refine issue_wait hi (t := s) ?_
  simp only [collOnly_bind hk ht, myPart_bind, handleM_bind he, hticket, hnb, hst, ne_eq, not_false_eq_true, decide_true, Option.isNone_none, Bool.and_self, if_true,
    pureM_run]

theorem gives_gcancel_complete (hst : c.st = .complete) : Gives (.gcancel h o) (handleIss h o) s (·.put o.d 1) := by
  intro hi
  rw [exec_gcancel, execGcancel]
  refine issue_done hi ?_
  simp only [collOnly_bind hk ht, myPart_bind, handleM_bind he, hst, putM_bind, pureM_run]

theorem gives_gcancel_cancelled (hst : c.st = .cancelled) : Gives (.gcancel h o) (handleIss h o) s (·.put o.d 2) := by
  intro hi
  rw [exec_gcancel, execGcancel]
  refine issue_done hi ?_
  simp only [collOnly_bind hk ht, myPart_bind, handleM_bind he, hst, putM_bind, pureM_run]

/-! ## A collective that has not ended (R456, R471) -/

section
variable (hcomplete : c.st ≠ .complete) (hcancelled : c.st ≠ .cancelled)
include hcomplete hcancelled

theorem gives_gwait_open (hnb : o.mod.getLsbD 0 = true) : Gives (.gwait h o) (handleIss h o) s (·.put o.d 1) := by
  intro hi
  rw [exec_gwait, execGwait]
  refine issue_done hi ?_
  -- The two hypotheses in the context leave the last case of the state.
  simp only [collOnly_bind hk ht, myPart_bind, handleM_bind he, hnb, if_true, putM_bind, pureM_run]

/-- A GCANCEL sends the withdrawal and waits for what comes of it. -/
theorem exec_gcancel_waits (hi : issues s (handleIss h o) = true) : exec (.gcancel h o) s = .next (waiting (sendAsk s dev c none) s.cur) := by
  have hkept : waitingKept (s.part s.cur) (sendAsk s dev c none) s.cur = waiting (sendAsk s dev c none) s.cur := by
    simp only [waitingKept, sendAsk_part, if_true]
  rw [exec_gcancel, execGcancel, ← hkept]
  refine issue_waitKeep hi ?_
  simp only [collOnly_bind hk ht, myPart_bind, handleM_bind he, modifyState_bind, pureM_run]
end
end
end

/-! ## GSTAT (R480) -/

theorem exec_gstat (h : Hd) (o : OpE) (s : State) : exec (.gstat h o) s = execGstat h o s := rfl

/-- The entries of the ordinals that the acting part's device has. -/
abbrev deviceColls (s : State) : List Coll := (groupDevs s s.cur).flatMap fun d => (s.dev d).colls

/-- The first of them that a word names for the acting part's context. -/
abbrev deviceEntry (s : State) (v : W64) : Option Coll :=
  (deviceColls s).find? fun c => c.gid = v.toNat % 2 ^ 32 && c.seq = v.toNat / 2 ^ 32 && c.ctx = (s.part s.cur).ctx

/-- The word that GSTAT gives of a group, and of a collective. -/
abbrev GEnt.word (g : GEnt) : Nat := g.coord * 2 ^ 48 + (if g.broken then 2 else 1) * 2 ^ 38 + g.plane * 2 ^ 33 + g.nmem * 65536 + g.rank
abbrev Coll.word (c : Coll) : Nat := c.seq * 2 ^ 32 + c.reason * 256 + c.st.code

section
variable {h : Hd} {o : OpE} {s : State}

theorem gives_gstat_group {e : Option (Nat × GEnt)} (hnb : o.mod.getLsbD 0 = true) (he : groupAt s s.cur (groupOp o s) = e) :
    Gives (.gstat h o) (handleIss h o) s (·.put o.d (BitVec.ofNat 64 (e.elim 0 fun e => e.2.word))) := by
  intro hi
  rw [exec_gstat, execGstat]
  refine issue_done hi ?_
  simp only [me_bind, myPart_bind, getState_bind, hnb, if_true, he, putM_bind, pureM_run]
  cases e <;> rfl

theorem gives_gstat_entry {e : Option Coll} (hnb : o.mod.getLsbD 0 = false) (he : deviceEntry s (handleOp o s) = e) :
    Gives (.gstat h o) (handleIss h o) s (·.put o.d (BitVec.ofNat 64 (e.elim 0 Coll.word))) := by
  intro hi
  rw [exec_gstat, execGstat]
  refine issue_done hi ?_
  simp only [me_bind, myPart_bind, getState_bind, hnb, Bool.false_eq_true, if_false, he, putM_bind, pureM_run]
  cases e <;> rfl
end

/-! ## The group of a part (R472) -/

/-- A device to which no evicted module is routed, and whose part came from none, has its own ordinal alone. -/
theorem groupDevs_of_own {s : State} {k : Nat} (hunder : (s.part k).under = none) (hrouted : ∀ d ∈ s.devs, d.2.routedTo ≠ some (ordOf (flatOf k))) :
    groupDevs s k = [ordOf (flatOf k)] := by
  have hnone : (s.devs.filter fun d => d.2.routedTo = some (ordOf (flatOf k))) = [] := by simpa using hrouted
  simp only [groupDevs, hunder, hnone, Option.toList_none, List.map_nil, List.nil_append, List.dedup_cons_of_notMem, List.not_mem_nil, not_false_eq_true, List.dedup_nil]

theorem groupAt_of_own {s : State} {k : Nat} (gid : Nat) (hunder : (s.part k).under = none)
    (hrouted : ∀ d ∈ s.devs, d.2.routedTo ≠ some (ordOf (flatOf k))) :
    groupAt s k gid = (mfind (s.dev (ordOf (flatOf k))).groups gid).map fun g => (ordOf (flatOf k), g) := by
  rw [groupAt, groupDevs_of_own hunder hrouted, List.findSome?_singleton]

end Sys2Proof.Machine
end

section
/-! PROOFS. GPOST: its checks, its descriptor, the post (R452 to R457, R476). -/

namespace Sys2Proof.Machine

abbrev gpostIss (h : Hd) (o : OpE) : Iss := { h, reads := rds [o.s1, o.s2], writes := wr o.d none }

/-- The address of the descriptor. -/
abbrev descriptorOp (o : OpE) (s : State) : W64 := (s.part s.cur).src (o.lit.getD 0) o.s2

/-! ## The checks of a descriptor (R333, R455) -/

/-- An address is canonical and in no window. -/
def FormOk (a : W64) : Prop := ∀ r ∈ piecesOf a 1, regionOf r.1 ≠ .nonCanon ∧ regionOf r.1 ≠ .window

/-- A descriptor, of given bytes, that no check of a group of so many members refuses. -/
structure GDesc.Good (d : GDesc) (bs : List Byte) (nmem : Nat) : Prop where
  fields : d.bad bs nmem = false
  shares : d.op = 1 → d.count % nmem = 0
  ranges : d.op ≠ 4 → d.src.toNat % d.width = 0 ∧ d.dst.toNat % d.width = 0 ∧ FormOk d.src ∧ FormOk d.dst

theorem GDesc.Good.shares_ok {d : GDesc} {bs : List Byte} {nmem : Nat} (hd : d.Good bs nmem) : (decide (d.op = 1) && decide (d.count % nmem ≠ 0)) = false := by
  simpa using hd.shares

section
variable {α : Type} {s : State}

theorem formM_bind {acc : Acc} {a : W64} (ha : FormOk a) (f : Unit → M α) : (formM acc a 1 >>= f) s = f () s := by
  refine bind_of_ok f ?_
  unfold formM
  split
  · next hstop =>
    obtain ⟨r, hr, hbad⟩ := List.exists_of_findSome?_eq_some hstop
    obtain ⟨hcanon, hwindow⟩ := ha r hr
    split at hbad
    · contradiction
    · contradiction
    · cases hbad
  · rfl

theorem pushRelease_bind (ht : taskOn s s.cur = none) (hs : storesDone s s.cur = true) (scope : Nat) (f : Bool → M α) :
    (pushRelease scope >>= f) s = f true (releaseAt s (flatOf s.cur) scope) :=
  bind_of_ok f (by
    simp only [pushRelease, me_bind, getState_bind, ht, hs, Option.isSome_none, Bool.false_eq_true, if_false, if_true, modifyState_bind, pureM_run])

@[simp] theorem trapM_run (code : Nat) (val : W64) : (trapM code val : M α) s = .error (.trap ⟨code, 0, val, none⟩) := rfl
end

/-! ## The post (R454, R456) -/

/-- The SEQ of a group's next post. -/
abbrev GEnt.nextSeq (g : GEnt) : Nat := (g.seq + 1) % 2 ^ 32

/-- A collective of partition k as it is posted. -/
abbrev postedColl (k gid : Nat) (g : GEnt) (p : Part) (d : GDesc) (arrival : Bool) : Coll :=
  { gid, seq := g.nextSeq, flat := flatOf k, ctx := p.ctx, pc := p.pc, d, arrival, st := .posted, ticket := none, reason := 0, slot := 0, taken := false, asked := false
    faulted := false, broken := false }

/-- The collective has taken its entry at the ordinal, and its SEQ in the group. A definition that `simp` leaves folded keeps the group's entry as it is. -/
def entered (dev gid : Nat) (g : GEnt) (c : Coll) (t : State) : State :=
  t.modDev dev fun x => { x with groups := mset x.groups gid { g with seq := g.nextSeq }, colls := x.colls ++ [c] }

/-- A first post begins the collective at its coordinator. -/
def begun (gid seq : Nat) (post : Nat × GDesc × Bool) (t : State) : State :=
  { t with gcolls := t.gcolls ++ [{ gid, seq, st := .gathering, posts := [post], notes := [], asks := [], data := [], seed := 0 }] }

/-- A later post joins the collective, which answers it with the withdrawal that it has had. -/
def joined (gid seq : Nat) (post : Nat × GDesc × Bool) (t : State) : State :=
  modGcoll t gid seq fun x =>
    { x with posts := x.posts ++ [post]
             notes := match x.st with
               | .withdrawn w => x.notes ++ [(post.1, .cancel (if w = post.1 then 3 else 4) w)]
               | _ => x.notes }

@[simp] theorem entered_cur (dev gid : Nat) (g : GEnt) (c : Coll) (t : State) : (entered dev gid g c t).cur = t.cur := rfl
@[simp] theorem begun_cur (gid seq : Nat) (post : Nat × GDesc × Bool) (t : State) : (begun gid seq post t).cur = t.cur := rfl
@[simp] theorem joined_cur (gid seq : Nat) (post : Nat × GDesc × Bool) (t : State) : (joined gid seq post t).cur = t.cur := rfl

/-- The word of a handle. -/
abbrev GEnt.handle (g : GEnt) (gid : Nat) : W64 := BitVec.ofNat 64 (g.nextSeq * 2 ^ 32 + gid)

/-- What a GPOST does with its descriptor, once its earlier stores are performed. -/
def postDescriptor (o : OpE) (k : Nat) (p : Part) (gid dev : Nat) (g : GEnt) (d : GDesc) : M Flow := do
  let s ← get
  let c := postedColl k gid g p d (arrivalMode s p)
  modify (entered dev gid g c)
  if g.broken then modify fun t => cancelColl t dev c 2 0 noDevice 0
  else match gcollOf s gid g.nextSeq with
  | some _ => modify (joined gid g.nextSeq (dev, d, arrivalMode s p))
  | none => modify (begun gid g.nextSeq (dev, d, arrivalMode s p))
  putM o.d (g.handle gid)
  pure .done

/-- A post waits for an entry of the table, and for the partition's earlier stores. -/
def postReleased (o : OpE) (k : Nat) (p : Part) (gid dev : Nat) (g : GEnt) (d : GDesc) : M Flow := do
  let s ← get
  if 64 ≤ (s.dev dev).colls.length then return .wait
  if !(← pushRelease 4) then return .wait
  postDescriptor o k p gid dev g d

/-- A post of a descriptor, of given bytes, whose fields are checked first. -/
def postChecked (o : OpE) (k : Nat) (p : Part) (gid dev : Nat) (g : GEnt) (bs : List Byte) (d : GDesc) : M Flow := do
  if d.bad bs g.nmem then illegalValue
  if d.op = 1 && d.count % g.nmem ≠ 0 then illegalValue
  if d.op ≠ 4 then
    if d.src.toNat % d.width ≠ 0 then trapM 0x04 d.src
    if d.dst.toNat % d.width ≠ 0 then trapM 0x04 d.dst
    formM .read d.src 1
    formM .write d.dst 1
  postReleased o k p gid dev g d

/-- What a GPOST to an entry of a group does. -/
def gpostOn (o : OpE) (k : Nat) (p : Part) (a : W64) (gid dev : Nat) (g : GEnt) : M Flow := do
  if a.toNat % 64 ≠ 0 then trapM 0x04 a
  checkM .read [(a, 64)]
  match ← readM [(a, 64)] with
  | none => pure .wait
  | some bss => postChecked o k p gid dev g (bss.headD []) (gdescOf (bss.headD []))

/-- What a GPOST that issues does. -/
def gpostBody (o : OpE) : M Flow := do
  collOnly
  let k ← me
  let p ← myPart
  let s ← get
  match groupAt s k ((p.src (o.lit.getD 0) o.s1).toNat % 2 ^ 32) with
  | none => illegalValue
  | some (dev, g) => gpostOn o k p (p.src (o.lit.getD 0) o.s2) ((p.src (o.lit.getD 0) o.s1).toNat % 2 ^ 32) dev g

theorem exec_gpost (h : Hd) (o : OpE) (s : State) : exec (.gpost h o) s = issue (gpostIss h o) (fun _ => gpostBody o) s := rfl

section
variable {o : OpE} {s : State} {k gid dev : Nat} {p : Part} {g : GEnt} {d : GDesc}

section
variable (hcur : s.cur = k)
include hcur

theorem postDescriptor_broken (hb : g.broken = true) :
    let c := postedColl k gid g p d (arrivalMode s p)
    postDescriptor o k p gid dev g d s = .ok (.done, (cancelColl (entered dev gid g c s) dev c 2 0 noDevice 0).modPart k (·.put o.d (g.handle gid))) := by
  subst hcur
  simp only [postDescriptor, getState_bind, modifyState_bind, hb, if_true, putM_bind, pureM_run, cancelColl_cur, entered_cur]

section
variable (hb : g.broken = false)
include hb

theorem postDescriptor_begun (hgc : gcollOf s gid g.nextSeq = none) :
    postDescriptor o k p gid dev g d s =
      .ok (.done, (begun gid g.nextSeq (dev, d, arrivalMode s p) (entered dev gid g (postedColl k gid g p d (arrivalMode s p)) s)).modPart k
        (·.put o.d (g.handle gid))) := by
  subst hcur
  simp only [postDescriptor, getState_bind, modifyState_bind, hb, hgc, Bool.false_eq_true, if_false, putM_bind, pureM_run, begun_cur, entered_cur]

theorem postDescriptor_joined {gc : GColl} (hgc : gcollOf s gid g.nextSeq = some gc) :
    postDescriptor o k p gid dev g d s =
      .ok (.done, (joined gid g.nextSeq (dev, d, arrivalMode s p) (entered dev gid g (postedColl k gid g p d (arrivalMode s p)) s)).modPart k
        (·.put o.d (g.handle gid))) := by
  subst hcur
  simp only [postDescriptor, getState_bind, modifyState_bind, hb, hgc, Bool.false_eq_true, if_false, putM_bind, pureM_run, joined_cur, entered_cur]
end
end

theorem postReleased_run (hcur : s.cur = k) (ht : taskOn s k = none) (hroom : (s.dev dev).colls.length < 64) (hs : storesDone s k = true) :
    postReleased o k p gid dev g d s = postDescriptor o k p gid dev g d (releaseAt s (flatOf k) 4) := by
  subst hcur
  simp only [postReleased, getState_bind, if_neg (not_le.mpr hroom), pushRelease_bind ht hs, Bool.not_true, Bool.false_eq_true, if_false]

theorem postChecked_run {bs : List Byte} (hd : d.Good bs g.nmem) : postChecked o k p gid dev g bs d s = postReleased o k p gid dev g d s := by
  simp only [postChecked, hd.fields, hd.shares_ok, Bool.false_eq_true, if_false]
  by_cases hop : d.op = 4
  · simp only [hop, ne_eq, not_true_eq_false, if_false]
  · obtain ⟨hsrc, hdst, hfsrc, hfdst⟩ := hd.ranges hop
    simp only [hop, hsrc, hdst, ne_eq, not_true_eq_false, not_false_eq_true, if_false, if_true, formM_bind hfsrc, formM_bind hfdst]
end

/-! ## GPOST by its operands -/

theorem issue_trap {s : State} {i : Iss} {body : W64 → M Flow} {code : Nat} {val : W64} (hi : issues s i = true)
    (hb : body (lanesFor s i) s = .error (.trap ⟨code, 0, val, none⟩)) : issue i body s = .next (takeTrap s s.cur ⟨code, 0, val, none⟩) :=
  issue_stops hi hb

/-- From s a descriptor can be read at a: its access passes and leaves s1, and memory gives it. -/
structure Readable (s s1 : State) (a : W64) : Prop where
  aligned : a.toNat % 64 = 0
  access : checkAccess s (whoOf s s.cur) .read [(a, 64)] = .ok s1
  reached : onLost s1 (flatOf s.cur) [(a, 64)] = false
  intact : lostRead s1 (whoOf s1 s.cur) [(a, 64)] = none
  unbuffered : forwardOf s1 s.cur (bytesAt a 64) = .none

/-- The state in which the lines of the descriptor are prepared, and the bytes that it then has. -/
abbrev prepared (o : OpE) (s s1 : State) : State := prepLines s1 (whoOf s s.cur) (linesOf (descriptorOp o s) 64).dedup
abbrev descriptorBytes (o : OpE) (s s1 : State) : List Byte := (bytesAt (descriptorOp o s) 64).map (loadByte (prepared o s s1) (whoOf s s.cur))

section
variable {h : Hd} {o : OpE} {s : State}

theorem exec_gpost_value (hno : NoCollectives s ∨ (idxOf s.cur ≠ 3 ∧ taskOn s s.cur = none ∧ groupAt s s.cur (groupOp o s) = none))
    (hi : issues s (gpostIss h o) = true) : exec (.gpost h o) s = valueOutcome s := by
  rw [exec_gpost]
  refine issue_value hi ?_
  obtain hrefused | ⟨hk, ht, hg⟩ := hno
  · exact bind_of_error _ (collOnly_value hrefused)
  · simp only [gpostBody, collOnly_bind hk ht, me_bind, myPart_bind, getState_bind, hg, illegalValue_run]

section
variable {dev : Nat} {g : GEnt} (hk : idxOf s.cur ≠ 3) (ht : taskOn s s.cur = none) (hg : groupAt s s.cur (groupOp o s) = some (dev, g))
include hk ht hg

theorem gpostBody_run : gpostBody o s = gpostOn o s.cur (s.part s.cur) (descriptorOp o s) (groupOp o s) dev g s := by
  simp only [gpostBody, collOnly_bind hk ht, me_bind, myPart_bind, getState_bind, hg]

theorem exec_gpost_misaligned (ha : (descriptorOp o s).toNat % 64 ≠ 0) (hi : issues s (gpostIss h o) = true) :
    exec (.gpost h o) s = .next (takeTrap s s.cur ⟨0x04, 0, descriptorOp o s, none⟩) := by
  rw [exec_gpost]
  refine issue_trap hi ((gpostBody_run hk ht hg).trans ?_)
  simp only [gpostOn, ha, ne_eq, not_false_eq_true, if_true, bind_of_error _ (trapM_run ..)]

/-- A GPOST whose checks pass goes on with its descriptor after a release of its earlier stores. -/
theorem leaves_gpost {s1 t : State} (hr : Readable s s1 (descriptorOp o s)) (hd : (gdescOf (descriptorBytes o s s1)).Good (descriptorBytes o s s1) g.nmem)
    (hroom : ((prepared o s s1).dev dev).colls.length < 64) (hs : storesDone (prepared o s s1) s.cur = true)
    (hpost : postDescriptor o s.cur (s.part s.cur) (groupOp o s) dev g (gdescOf (descriptorBytes o s s1)) (releaseAt (prepared o s s1) (flatOf s.cur) 4) =
      .ok (.done, t)) :
    Leaves (.gpost h o) (gpostIss h o) s t := by
  intro hi
  rw [exec_gpost]
  refine issue_done hi ((gpostBody_run hk ht hg).trans ?_)
  have hcur : s1.cur = s.cur := cur_of_issuer (issuer_checkAccess hr.access)
  have ht1 : taskOn s1 s1.cur = none := by rw [taskOn_of_issuer (issuer_checkAccess hr.access), hcur, ht]
  have hcur3 : (prepared o s s1).cur = s.cur := (cur_of_issuer (issuer_prepLines ..)).trans hcur
  have ht3 : taskOn (prepared o s s1) s.cur = none := by rw [taskOn_of_issuer (issuer_prepLines ..), ← hcur, ht1]
  have hl := hr.intact
  have hf := hr.unbuffered
  rw [← hcur] at hl hf
  calc gpostOn o s.cur (s.part s.cur) (descriptorOp o s) (groupOp o s) dev g s
    _ = postChecked o s.cur (s.part s.cur) (groupOp o s) dev g (descriptorBytes o s s1) (gdescOf (descriptorBytes o s s1)) (prepared o s s1) := by
      simp only [gpostOn, hr.aligned, ne_eq, not_true_eq_false, if_false, checkM_bind ht hr.access hr.reached, readM_bind s ht1 hf hl, hcur, List.headD_cons]
    _ = postReleased o s.cur (s.part s.cur) (groupOp o s) dev g (gdescOf (descriptorBytes o s s1)) (prepared o s s1) := postChecked_run hd
    _ = postDescriptor o s.cur (s.part s.cur) (groupOp o s) dev g (gdescOf (descriptorBytes o s s1)) (releaseAt (prepared o s s1) (flatOf s.cur) 4) :=
      postReleased_run hcur3 ht3 hroom hs
    _ = .ok (.done, t) := hpost
end
end

end Sys2Proof.Machine
end

section
/-! PROOFS. The instructions of the collectives (R475 to R480), assembled. -/

namespace Sys2Proof.Machine

/-- Settles O47: a GPOST whose checks pass turns on the group's entry and the coordinator's collective, GWAIT, GTKT and GCANCEL on the entry that the handle names, GSTAT
on what the device's ordinals hold. -/
theorem collectiveInstructions : Obligations.CollectiveInstructions := by
  unfold Obligations.CollectiveInstructions
  intro h o s p k flat l v gid i j value nb
  refine ⟨fun hk ht => ⟨?noGroup, fun dev g s1 hg => ⟨?misaligned, fun ha hc hcut hl hf hbad hshares hranges hroom hs => ?posts⟩, ?noEntry, fun dev c he =>
    ⟨?complete, ?cancelled, ?trapped, ?waitOpen, ?ticket, ?noTicket, ?ticketWaits, ?cancelComplete, ?cancelCancelled, ?cancelWaits⟩⟩,
    fun hno => ⟨fun hi => ?gpostRefused, fun hi => ?handleRefused⟩, fun hnb => ⟨fun dev g hg => ?group, fun hg => ?groupNone⟩,
    fun hnb => ⟨fun c hc => ?entry, fun hc => ?entryNone⟩, groupAt_of_own gid⟩
  case noGroup => exact fun hg hi => exec_gpost_value (.inr ⟨hk, ht, hg⟩) hi
  case misaligned => exact exec_gpost_misaligned hk ht hg
  case posts =>
    have hr : Readable s s1 (descriptorOp o s) := ⟨ha, hc, hcut, hl, hf⟩
    have hd : (gdescOf (descriptorBytes o s s1)).Good (descriptorBytes o s s1) g.nmem := ⟨hbad, hshares, hranges⟩
    have hcur : (releaseAt (prepared o s s1) (flatOf s.cur) 4).cur = s.cur :=
      (releaseAt_cur ..).trans ((cur_of_issuer (issuer_prepLines ..)).trans (cur_of_issuer (issuer_checkAccess hc)))
    refine ⟨fun hb => ?_, fun hb hgc => ?_, fun gc hb hgc => ?_⟩
    · exact leaves_gpost hk ht hg hr hd hroom hs (postDescriptor_broken hcur hb)
    · exact leaves_gpost hk ht hg hr hd hroom hs (postDescriptor_begun hcur hb hgc)
    · exact leaves_gpost hk ht hg hr hd hroom hs (postDescriptor_joined hcur hb hgc)
  case noEntry => exact fun he hi => exec_handle_value hi (.inr ⟨hk, ht, he⟩)
  case complete => exact leaves_gwait_complete hk ht he
  case cancelled => exact leaves_gwait_cancelled hk ht he
  case trapped => exact exec_gwait_trapped hk ht he
  case waitOpen => exact gives_gwait_open hk ht he
  case ticket => exact fun t => gives_gtkt_ticket hk ht he
  case noTicket => exact gives_gtkt_none hk ht he
  case ticketWaits => exact exec_gtkt_waits hk ht he
  case cancelComplete => exact gives_gcancel_complete hk ht he
  case cancelCancelled => exact gives_gcancel_cancelled hk ht he
  case cancelWaits => exact exec_gcancel_waits hk ht he
  case gpostRefused => exact exec_gpost_value (.inl hno) hi
  case handleRefused => exact exec_handle_value hi (.inl hno)
  -- `( … :)` fixes the case of the word before the goal is met, which else is matched by computing it.
  case group => exact (gives_gstat_group (h := h) hnb hg :)
  case groupNone => exact (gives_gstat_group (h := h) hnb hg :)
  case entry => exact (gives_gstat_entry (h := h) hnb hc :)
  case entryNone => exact (gives_gstat_entry (h := h) hnb hc :)

end Sys2Proof.Machine
end

section
/-! PROOFS. Decode of encode: fields of words, tails, heads and lines (R63 to R77). -/

namespace Sys2Proof

/-! ## Specifiers (R70, R73, R75) -/

theorem srcOfByte_byteOfSrc {x : Src} (h : x.canon = true) : srcOfByte (byteOfSrc x) = x := by
  cases x with
  | v i | s i | c i => revert i; decide
  | lit n => revert n; decide
  | slot => rfl

theorem dstOfByte_byteOfDst (d : Dst) : dstOfByte (byteOfDst d) = some d := by
  cases d with
  | v i | s i | p i => revert i; decide
  | none => rfl

theorem predOfHalf_halfOfPred (q : Pred) : predOfHalf (halfOfPred q) = some q := by
  obtain ⟨neg, idx⟩ := q
  revert neg idx
  decide

theorem byteOfSrc_lt (x : Src) : byteOfSrc x < 256 := by
  cases x with
  | v i | s i | c i => have := i.isLt; simp only [byteOfSrc]; omega
  | lit n => have := n.isLt; simp only [byteOfSrc]; omega
  | slot => decide

theorem byteOfDst_lt (d : Dst) : byteOfDst d < 256 := by
  cases d with
  | v i | s i | p i => have := i.isLt; simp only [byteOfDst]; omega
  | none => decide

theorem icondCode_lt (c : ICond) : icondCode c < 256 := by cases c <;> decide
theorem fcondCode_lt (c : FCond) : fcondCode c < 256 := by cases c <;> decide
theorem pairCode_lt (p : MPair) : pairCode p < 128 := by cases p <;> decide

/-! ## Halfwords of a tail (R74) -/

section
variable {hi lo : Nat}

theorem half_div (hlo : lo < 256) (hhi : hi < 256) : (half hi lo).toNat / 256 = hi := by
  simp only [half, BitVec.toNat_ofNat]
  omega

theorem half_mod (hlo : lo < 256) : (half hi lo).toNat % 256 = lo := by
  simp only [half, BitVec.toNat_ofNat]
  omega
end

/-- The two halfwords of a literal give it back. -/
theorem litAt_halves {t : List Half} {n : Nat} {l : W32} (h0 : t.getD n 0 = l.setWidth 16) (h1 : t.getD (n + 1) 0 = (l >>> 16).setWidth 16) : litAt t n = l := by
  have hl := l.isLt
  apply BitVec.eq_of_toNat_eq
  simp only [litAt, h0, h1, BitVec.toNat_ofNat, BitVec.toNat_setWidth, BitVec.toNat_ushiftRight, Nat.shiftRight_eq_div_pow]
  omega

/-- The format of operands. -/
def Opnds.format : Opnds → Format
  | .z => .z
  | .a _ => .a
  | .b _ => .b
  | .c _ => .c
  | .l _ => .l
  | .m _ => .m
  | .j _ => .j
  | .e _ => .e

/-- A member's operands have the format of its major; its SUB is a byte. -/
theorem format_of_partsOf {i : Instr} {major sub : Nat} {h : Hd} {o : Opnds} (hp : partsOf i = some (major, sub, h, o)) :
    formatOf major = some o.format ∧ sub < 256 := by
  cases i
  case cmp | vcmp => cases hp; exact ⟨rfl, icondCode_lt _⟩
  case fcmp | vfcmp => cases hp; exact ⟨rfl, fcondCode_lt _⟩
  case mmul h pair o | mmuls h pair o =>
    have := pairCode_lt pair
    cases hp
    exact ⟨rfl, by omega⟩
  all_goals cases hp <;> exact ⟨rfl, by decide⟩

theorem major_pos_of_formatOf {major : Nat} {f : Format} (h : formatOf major = some f) : 0 < major ∧ major < 128 := by
  unfold formatOf at h
  split at h <;> cases h <;> exact ⟨by decide, by decide⟩

/-- SUB as the decoder reads it: formats Z, A and J have no such field. -/
def Opnds.subField (sub : Nat) : Opnds → Nat
  | .z | .a _ | .j _ => 0
  | _ => sub

theorem build_subField (major sub : Nat) (h : Hd) (o : Opnds) : build major (o.subField sub) h o = build major sub h o := by
  cases o <;> rfl

/-! ## The fields of a tail, read back -/

theorem canon_of_mem_srcsOf {major sub : Nat} {o : Opnds} (hc : o.canon major sub = true) {x : Src} (hx : x ∈ srcsOf o) : x.canon = true := by
  simp only [Opnds.canon, Bool.and_eq_true] at hc
  exact List.all_eq_true.mp hc.1 x hx

/-- Format M: the member's DATA field is a destination or a source, and the other stands at rest. -/
theorem canon_m {major sub : Nat} {o : OpM} (hc : (Opnds.m o).canon major sub = true) :
    if dataDst major sub = true then o.data = .v 0 else o.dst = .none := by
  simp only [Opnds.canon, Bool.and_eq_true] at hc
  obtain ⟨-, hrest⟩ := hc
  split at hrest <;> simp_all

theorem cond_of_canon {major sub : Nat} {o : OpJ} (hc : (Opnds.j o).canon major sub = true) : major = 0x05 ∨ o.cond = 0 := by
  simpa [Opnds.canon, srcsOf] using hc

/-- Format J: a specifier of COND, the target head and the high bits of the offset share a halfword, the low bits have the next. -/
theorem fieldsOf_j {major : Nat} (d : Nat → Bool) {o : OpJ} (hcond : major = 0x05 ∨ o.cond = 0) :
    fieldsOf .j d (tailOf major 0 (.j o)) = (0, .j o, false) := by
  obtain ⟨cond, head, off⟩ := o
  have hc := cond.isLt
  have hh := head.isLt
  have ho := off.isLt
  have hhi : (if major = 0x05 then 64 + cond.val else 0) % 64 = cond.val := by
    split
    · omega
    · next hne => exact (congrArg Fin.val (hcond.resolve_left hne)).symm
  have hbyte : (if major = 0x05 then 64 + cond.val else 0) < 256 := by split <;> omega
  have hlow : head.val * 8 + off.toNat / 65536 < 256 := by omega
  have hhead : (head.val * 8 + off.toNat / 65536) / 8 % 32 = head.val := by omega
  have hoff : BitVec.ofNat 19 ((head.val * 8 + off.toNat / 65536) % 8 * 65536 + off.toNat % 2 ^ 16) = off := by
    apply BitVec.eq_of_toNat_eq
    simp only [BitVec.toNat_ofNat]
    omega
  simp only [fieldsOf, tailOf, hiAt, loAt, List.getD_cons_zero, List.getD_cons_succ, half_div hlow hbyte, half_mod hlow, hhi, hhead, BitVec.toNat_setWidth, hoff]

/-- A literal slot stands in the last two halfwords. -/
theorem litAt_tailOf_l (major sub : Nat) (o : OpL) : litAt (tailOf major sub (.l o)) 2 = o.lit := litAt_halves rfl rfl

theorem litAt_tailOf_e (major sub : Nat) {o : OpE} {l : W32} (h : o.lit = some l) : litAt (tailOf major sub (.e o)) 4 = l := by
  apply litAt_halves <;> simp [tailOf, h]

theorem toNat_mod_lt (mod : BitVec 8) : mod.toNat < 256 := mod.isLt

/-- R74: the fields of the halfwords of operands are the operands. -/
theorem fieldsOf_tailOf {major sub : Nat} {o : Opnds} (hsub : sub < 256) (hc : o.canon major sub = true) :
    fieldsOf o.format (dataDst major) (tailOf major sub o) = (o.subField sub, o, false) := by
  have hsrc : ∀ x ∈ srcsOf o, srcOfByte (byteOfSrc x) = x := fun x hx => srcOfByte_byteOfSrc (canon_of_mem_srcsOf hc hx)
  cases o with
  | z => rfl
  | j o => exact fieldsOf_j _ (cond_of_canon hc)
  | m o =>
    obtain ⟨dst, data, base, disp, mod⟩ := o
    have hrest := canon_m hc
    simp only [srcsOf, List.forall_mem_cons] at hsrc
    by_cases hd : dataDst major sub = true
    all_goals
      simp only [hd, if_true, if_false, Bool.false_eq_true] at hrest
      subst hrest
      simp [fieldsOf, Opnds.format, Opnds.subField, tailOf, hiAt, loAt, half_div, half_mod, byteOfSrc_lt, byteOfDst_lt, dstOfByte_byteOfDst, hsub, toNat_mod_lt, hsrc, hd]
  | l o =>
    have hlit := litAt_tailOf_l major sub o
    obtain ⟨d, s1, lit⟩ := o
    simp only [srcsOf, List.forall_mem_cons] at hsrc
    simp only [fieldsOf, Opnds.format, Opnds.subField, hlit]
    simp [tailOf, hiAt, loAt, half_div, half_mod, byteOfSrc_lt, byteOfDst_lt, dstOfByte_byteOfDst, hsub, hsrc]
  | e o =>
    have hlit := fun l => litAt_tailOf_e major sub (o := o) (l := l)
    obtain ⟨d, s1, s2, s3, s4, s5, mod, lit⟩ := o
    simp only [srcsOf, List.forall_mem_cons] at hsrc
    cases lit with
    | none => simp [fieldsOf, Opnds.format, Opnds.subField, tailOf, hiAt, loAt, half_div, half_mod, byteOfSrc_lt, byteOfDst_lt, dstOfByte_byteOfDst, hsub, toNat_mod_lt, hsrc]
    | some l =>
      simp only [fieldsOf, Opnds.format, Opnds.subField, hlit l rfl]
      simp [tailOf, hiAt, loAt, half_div, half_mod, byteOfSrc_lt, byteOfDst_lt, dstOfByte_byteOfDst, hsub, toNat_mod_lt, hsrc]
  | a o | b o | c o =>
    simp only [srcsOf, List.forall_mem_cons] at hsrc
    simp [fieldsOf, Opnds.format, Opnds.subField, tailOf, hiAt, loAt, half_div, half_mod, byteOfSrc_lt, byteOfDst_lt, dstOfByte_byteOfDst, hsub, toNat_mod_lt, hsrc]

/-! ## The tail and the head (R69, R77) -/

/-- What stands in a well-formed instruction's encoding. -/
theorem wf_iff_of_partsOf {i : Instr} {major sub : Nat} {h : Hd} {o : Opnds} (hp : partsOf i = some (major, sub, h, o)) :
    i.wf = true ↔ build major sub h o = some i ∧ o.canon major sub = true ∧ checkOps (sigOf i) o false = none ∧ extraUnused i = false := by
  simp only [Instr.wf, hp, Bool.and_eq_true, decide_eq_true_eq, Option.isNone_iff_eq_none, Bool.not_eq_true', and_assoc]

theorem lModBad_tailOf (major sub : Nat) (o : Opnds) : lModBad o.format (tailOf major sub o) = false := by
  cases o <;> simp [lModBad, Opnds.format, tailOf, loAt, half_mod]

theorem condBad_tailOf {major sub : Nat} {o : OpJ} : condBad major (tailOf major sub (.j o)) = none := by
  have hc := o.cond.isLt
  have hh := o.head.isLt
  have ho := o.off.isLt
  have hlow : o.head.val * 8 + o.off.toNat / 65536 < 256 := by omega
  simp only [condBad, tailOf, hiAt, List.getD_cons_zero]
  split
  · rw [half_div hlow (by omega), if_pos (by omega)]
  · rw [half_div hlow (by omega), if_pos rfl]

/-- The predicate halfword of a tail (R75). -/
abbrev Hd.predHalves (h : Hd) : List Half := (h.pred.map halfOfPred).toList

theorem decodeTail_tailOf {i : Instr} {major sub : Nat} {h : Hd} {o : Opnds} (hwf : i.wf = true) (hp : partsOf i = some (major, sub, h, o)) :
    decodeTail major o.format h.stall h.y (h.pred.map halfOfPred) (tailOf major sub o) = .ok i := by
  obtain ⟨hbuild, hcanon, hcheck, hextra⟩ := (wf_iff_of_partsOf hp).mp hwf
  obtain ⟨-, hsub⟩ := format_of_partsOf hp
  have hbuild' : build major (o.subField sub) h o = some i := (build_subField ..).trans hbuild
  have hchecks : (if o.format = .j then condBad major (tailOf major sub o) else checkOps (sigOf i) o false) = none := by
    cases o with
    | j o => exact condBad_tailOf
    | _ => exact hcheck
  obtain ⟨stall, y, pred⟩ := h
  cases pred
  all_goals
    simp only [decodeTail, Option.map_none, Option.map_some, predOfHalf_halfOfPred, Option.getD_none, Option.getD_some, fieldsOf_tailOf hsub hcanon, hbuild',
      lModBad_tailOf, hchecks, hextra, Bool.false_eq_true, if_false]

theorem length_tailOf (major sub : Nat) (o : Opnds) :
    (tailOf major sub o).length = o.format.len ∨ o.format = .e ∧ (tailOf major sub o).length = 6 := by
  cases o with
  | e o => cases hl : o.lit <;> simp [tailOf, Opnds.format, Format.len, hl]
  | _ => exact .inl rfl

/-- The fields of a head, read back (R69). -/
theorem headOf_fields {major tlen : Nat} (h : Hd) (hmajor : major < 128) (hlen : tlen < 8) :
    let w := (headOf major tlen h).toNat
    w / 512 = major ∧ w / 64 % 8 = tlen ∧ BitVec.ofNat 4 (w / 4) = h.stall ∧ (decide (w / 2 % 2 = 1)) = h.y ∧ w % 2 = if h.pred.isSome then 1 else 0 := by
  obtain ⟨stall, y, pred⟩ := h
  have hs := stall.isLt
  have hy : (if y then 2 else 0) = 2 * y.toNat := by cases y <;> rfl
  have hyl := y.toNat_lt
  simp only [headOf, BitVec.toNat_ofNat, hy]
  generalize hpb : (if pred.isSome = true then 1 else 0) = b
  have hb : b < 2 := by rw [← hpb]; split <;> omega
  refine ⟨by omega, by omega, ?_, ?_, by omega⟩
  · apply BitVec.eq_of_toNat_eq
    simp only [BitVec.toNat_ofNat]
    omega
  · cases y <;> simp <;> omega

/-- The halfwords that follow the head in an encoding: the predicate's, then the operands'. -/
abbrev tailHalves (major sub : Nat) (h : Hd) (o : Opnds) : List Half := h.predHalves ++ tailOf major sub o

theorem encode_of_partsOf {i : Instr} {major sub : Nat} {h : Hd} {o : Opnds} (hp : partsOf i = some (major, sub, h, o)) :
    encode i = headOf major (tailHalves major sub h o).length h :: tailHalves major sub h o := by
  simp only [encode, hp]

theorem length_predHalves (h : Hd) : h.predHalves.length = if h.pred.isSome then 1 else 0 := by
  obtain ⟨stall, y, _ | q⟩ := h <;> rfl

theorem Format.len_le (f : Format) : f.len ≤ 4 := by cases f <;> decide

theorem length_tailHalves_le (major sub : Nat) (h : Hd) (o : Opnds) : (tailHalves major sub h o).length ≤ 7 := by
  have hlen := o.format.len_le
  have hp : h.predHalves.length ≤ 1 := by rw [length_predHalves]; split <;> omega
  rw [List.length_append]
  obtain ht | ⟨-, ht⟩ := length_tailOf major sub o <;> omega

/-- The instruction decoder gives a well-formed instruction back from its head and its tail. -/
theorem decodeInsn_headOf {i : Instr} {major sub : Nat} {h : Hd} {o : Opnds} (hwf : i.wf = true) (hp : partsOf i = some (major, sub, h, o)) :
    decodeInsn (headOf major (tailHalves major sub h o).length h) true (tailHalves major sub h o) = .ok i := by
  obtain ⟨hformat, -⟩ := format_of_partsOf hp
  obtain ⟨hpos, hlt⟩ := major_pos_of_formatOf hformat
  have hle := length_tailHalves_le major sub h o
  obtain ⟨hmajor, htlen, hstall, hy, hpred⟩ := headOf_fields h hlt (Nat.lt_succ_of_le hle)
  have hplen := length_predHalves h
  have hlen : (tailHalves major sub h o).length = o.format.len + (if h.pred.isSome then 1 else 0) ∨
      o.format = .e ∧ (tailHalves major sub h o).length = 6 + if h.pred.isSome then 1 else 0 := by
    rw [List.length_append, hplen]
    exact (length_tailOf major sub o).imp (by omega) (fun ⟨he, ht⟩ => ⟨he, by omega⟩)
  have hfit : ¬ ((tailHalves major sub h o).length ≠ o.format.len + (if h.pred.isSome then 1 else 0) ∧
      ¬ (o.format = .e ∧ (tailHalves major sub h o).length = 6 + if h.pred.isSome then 1 else 0)) := by tauto
  have htail := decodeTail_tailOf hwf hp
  simp only [decodeInsn, hmajor, htlen, hstall, hy, hpred, hformat, Nat.ne_of_gt hpos, if_false, hfit, Bool.not_true, Bool.false_eq_true]
  obtain ⟨stall, y, _ | q⟩ := h <;> exact htail

/-! ## The line of one instruction (R63 to R66) -/

theorem getLsbD_foldl_or {w : Nat} {α : Type} (f : α → BitVec w) (l : List α) (x : BitVec w) (b : Nat) :
    (l.foldl (fun x a => x ||| f a) x).getLsbD b = (x.getLsbD b || l.any fun a => (f a).getLsbD b) := by
  induction l generalizing x with
  | nil => simp
  | cons a l ih => rw [List.foldl_cons, ih, BitVec.getLsbD_or, List.any_cons, Bool.or_assoc]

/-- Bit b of the line: the head's, or that of a tail halfword laid above it. -/
theorem getLsbD_lineWith (head : Half) (tail : List Half) (b : Nat) :
    (lineWith head tail).getLsbD b = (decide (b < 512) && (head.getLsbD b || (List.range tail.length).any fun i =>
      !decide (b < 16 * (32 - tail.length + i)) && (tail.getD i 0).getLsbD (b - 16 * (32 - tail.length + i)))) := by
  rw [lineWith, getLsbD_foldl_or]
  by_cases hb : b < 512
  · simp [hb]
  · simp [hb, BitVec.getLsbD_of_ge _ _ (Nat.le_of_not_lt hb)]

section
variable {head : Half} {tail : List Half} (hlen : tail.length ≤ 7)
include hlen

theorem halfAt_lineWith_zero : halfAt (lineWith head tail) 0 = head := by
  apply BitVec.eq_of_getLsbD_eq
  intro b hb
  have habove (i : Nat) : b < 16 * (32 - tail.length + i) := by omega
  have hline : b < 512 := by omega
  rw [halfAt, BitVec.getLsbD_extractLsb', getLsbD_lineWith]
  simp [hb, hline, habove, List.any_eq]

theorem halfAt_lineWith_tail {j : Nat} (hj : j < tail.length) : halfAt (lineWith head tail) (32 - tail.length + j) = tail.getD j 0 := by
  apply BitVec.eq_of_getLsbD_eq
  intro b hb
  have hline : 16 * (32 - tail.length + j) + b < 512 := by omega
  have hhead : head.getLsbD (16 * (32 - tail.length + j) + b) = false := BitVec.getLsbD_of_ge _ _ (by omega)
  simp only [halfAt, BitVec.getLsbD_extractLsb', hb, decide_true, Bool.true_and, getLsbD_lineWith, hline, hhead, Bool.false_or]
  rw [Bool.eq_iff_iff, List.any_eq_true]
  simp only [List.mem_range, Bool.and_eq_true, Bool.not_eq_true', decide_eq_false_iff_not, Nat.not_lt]
  constructor
  · rintro ⟨i, hi, hle, hbit⟩
    -- a halfword below holds no bit this high
    have hij : i = j := by
      have := BitVec.lt_of_getLsbD hbit
      omega
    subst hij
    rwa [Nat.add_sub_cancel_left] at hbit
  · intro hbit
    exact ⟨j, hj, by omega, by rwa [Nat.add_sub_cancel_left]⟩

theorem halvesAt_lineWith : halvesAt (lineWith head tail) (32 - tail.length) tail.length = tail := by
  apply List.ext_getElem
  · simp [halvesAt]
  · intro j hj hj'
    simp only [halvesAt, List.getElem_map, List.getElem_range, halfAt_lineWith_tail hlen hj', List.getD_eq_getElem _ _ hj']

/-- Head 0 of the line holds the instruction that its words decode to, and heads follow. -/
theorem decodeAt_lineWith {i : Instr} (hhead : head ≠ 0) (htlen : head.toNat / 64 % 8 = tail.length) (hdec : decodeInsn head true tail = .ok i) :
    decodeAt (lineWith head tail) 0 = .ins i false := by
  have hfits : 0 < 32 - tail.length := by omega
  have hlast : ¬ 1 = 32 - tail.length := by omega
  simp only [decodeAt, tailStart, halfAt_lineWith_zero hlen, hhead, if_false, htlen, halvesAt_lineWith hlen, hfits, decide_true, hdec, Nat.zero_add, hlast, decide_false]
end

/-- Settles O60: the decoder reads the head's fields and the tail's halfwords back, and the line puts both where it looks for them. -/
theorem decodeEncode : Obligations.DecodeEncode := by
  unfold Obligations.DecodeEncode
  intro i major sub h o hwf hp
  have hle := length_tailHalves_le major sub h o
  obtain ⟨hpos, hlt⟩ := major_pos_of_formatOf (format_of_partsOf hp).1
  obtain ⟨hmajor, htlen, -⟩ := headOf_fields h hlt (Nat.lt_succ_of_le hle)
  have hhead : headOf major (tailHalves major sub h o).length h ≠ 0 := by
    intro hzero
    rw [hzero] at hmajor
    exact hpos.ne hmajor
  exact ⟨_, _, encode_of_partsOf hp, hle, decodeInsn_headOf hwf hp, decodeAt_lineWith hle hhead htlen (decodeInsn_headOf hwf hp)⟩

end Sys2Proof
end

section
/-! PROOFS. Reset, words written out, registers, memory cells, retirement (R52, R53, R69 to R75, R90, R176). -/

namespace Sys2Proof.Machine
open Sys2Proof

/-! ## Memory cells: the canonical form is determined by what reads give (log 2) -/

theorem memRead_cons_self (a : Nat) (b : Byte) (m : List Host.Cell) : memRead ((a, b) :: m) a = b := by simp [memRead]

theorem memRead_cons_below {a k : Nat} (b : Byte) (m : List Host.Cell) (h : k < a) : memRead ((a, b) :: m) k = memDefault := by
  simp [memRead, h, h.ne']

theorem memRead_cons_above {a k : Nat} (b : Byte) (m : List Host.Cell) (h : a < k) : memRead ((a, b) :: m) k = memRead m k := by
  simp [memRead, h.ne, h.le]

/-- Two lists of cells in canonical form above the same bound that read alike are equal. -/
theorem eq_of_memRead_eq {lo : Option Nat} {m n : List Host.Cell} (hm : memWfFrom lo m = true) (hn : memWfFrom lo n = true)
    (h : ∀ j, memRead n j = memRead m j) : n = m := by
  induction m generalizing lo n with
  | nil =>
    cases n with
    | nil => rfl
    | cons x n =>
      have hx := h x.1
      rw [memRead_cons_self] at hx
      exact absurd hx (((memWfFrom_iff ..).mp hn).2.2 x (by simp))
  | cons x m ih =>
    obtain ⟨a, b⟩ := x
    have hb : b ≠ memDefault := ((memWfFrom_iff ..).mp hm).2.2 (a, b) (by simp)
    cases n with
    | nil => exact absurd ((memRead_cons_self a b m).symm.trans (h a).symm) hb
    | cons y n =>
      obtain ⟨c, d⟩ := y
      have hd : d ≠ memDefault := ((memWfFrom_iff ..).mp hn).2.2 (c, d) (by simp)
      have hac : c = a := by
        obtain hlt | heq | hlt := Nat.lt_trichotomy c a
        · exact absurd ((memRead_cons_self c d n).symm.trans ((h c).trans (memRead_cons_below b m hlt))) hd
        · exact heq
        · exact absurd ((memRead_cons_self a b m).symm.trans ((h a).symm.trans (memRead_cons_below d n hlt))) hb
      subst hac
      have hval : d = b := (memRead_cons_self c d n).symm.trans ((h c).trans (memRead_cons_self c b m))
      have hm' : memWfFrom (some c) m = true := by simp only [memWfFrom, Bool.and_eq_true] at hm; exact hm.2
      have hn' : memWfFrom (some c) n = true := by simp only [memWfFrom, Bool.and_eq_true] at hn; exact hn.2
      have htail (j : Nat) : memRead n j = memRead m j := by
        obtain hlt | hlt := Nat.lt_or_ge c j
        · rw [← memRead_cons_above d n hlt, h j, memRead_cons_above b m hlt]
        · rw [memRead_of_above hn' hlt, memRead_of_above hm' hlt]
      rw [hval, ih hm' hn' htail]

/-- Settles O17: the laws of cells, and a canonical list is the only one that reads as it does. -/
theorem memoryCells : Obligations.MemoryCells := by
  unfold Obligations.MemoryCells
  exact fun m k v hm => ⟨memRead_memWrite_self k v hm, fun j hj => memRead_memWrite_ne v hm hj, memory_wf_memWrite k v hm, fun n hn h => eq_of_memRead_eq hm hn h⟩

/-! ## Registers (R90) -/

theorem getS_setS_self (p : Part) {i : Fin 64} (v : W64) (h : i ≠ 0) : (p.setS i v).getS i = v := by simp [Part.setS, Part.getS, h]

theorem getS_setS_ne (p : Part) {i j : Fin 64} (v : W64) (h : j ≠ i) : (p.setS i v).getS j = p.getS j := by
  have hne : i.val ≠ j.val := fun e => h (Fin.ext e.symm)
  unfold Part.setS
  split
  · rfl
  · simp [Part.getS, Vector.getElem_set_ne _ _ hne]

theorem getP_setP_self (p : Part) {i : Fin 8} (v : W64) (h : i ≠ 0) : (p.setP i v).getP i = v := by simp [Part.setP, Part.getP, h]

theorem getP_setP_ne (p : Part) {i j : Fin 8} (v : W64) (h : j ≠ i) : (p.setP i v).getP j = p.getP j := by
  have hne : i.val ≠ j.val := fun e => h (Fin.ext e.symm)
  unfold Part.setP
  split
  · rfl
  · simp [Part.getP, Vector.getElem_set_ne _ _ hne]

/-- Settles O4, register file by register file. -/
theorem hardwiredRegisters : Obligations.HardwiredRegisters := by
  unfold Obligations.HardwiredRegisters
  exact fun p v => ⟨rfl, rfl, rfl, rfl, rfl, fun i hi => ⟨getS_setS_self p v hi, fun j hj => getS_setS_ne p v hj⟩,
    fun i hi => ⟨getP_setP_self p v hi, fun j hj => getP_setP_ne p v hj⟩⟩

/-! ## Reset, and words written out -/

/-- Settles O58: reset lists no object, so every part stands at its reset value. -/
theorem resetState : Obligations.ResetState := by
  unfold Obligations.ResetState
  refine ⟨rfl, rfl, rfl, rfl, rfl, fun k => ?_⟩
  have hpart : State.reset.part k = Part.reset := rfl
  rw [hpart]
  refine ⟨rfl, rfl, rfl, rfl, rfl, rfl, rfl, rfl, rfl, rfl, rfl, rfl, rfl, rfl, rfl, ?_, rfl, ?_⟩
  · decide
  · decide

/-- Settles O57: each word is decoded. -/
theorem decodeWords : Obligations.DecodeWords := by
  unfold Obligations.DecodeWords
  refine ⟨?_, ?_, ?_, ?_, ?_, ?_, ?_, ?_, ?_, ?_, ?_⟩ <;> rfl

end Sys2Proof.Machine
end

section
/-! PROOFS. The frame of an instruction: early reads, predicate, retirement (R52, R75, R82, R97, R98). -/

namespace Sys2Proof.Machine
open Sys2Proof

/-! ## Retirement -/

/-- What retirement makes of the acting part, before its next address. -/
def Part.retired (p : Part) (i : Iss) (before : Part) (seq : Nat) : Part :=
  { p with
    sb := sbAfter before p.sb i.writes i.h.stall.toNat
    stall := i.h.stall.toNat, waitCount := 0, lastIssue := seq, blocked := none
    heldCount := 0, storeWait := false
    pass := p.pass && (i.keepPass || !before.pass)
    srctr := if i.sr ≠ 0 ∧ before.fpctl.toNat % 8 = 4 then p.srctr + BitVec.ofNat 64 ((i.sr + 3) / 4) else p.srctr : Part }.count 0 1

/-- The part that has retired, at its next address. -/
def Part.retiredTo (p : Part) (i : Iss) (before : Part) (seq : Nat) (next : Option W64) : Part :=
  match next with
  | some a => (p.retired i before seq).goto a seq
  | none => p.retired i before seq

theorem retire_eq (i : Iss) (b : Part) (s : State) (k : Nat) (next : Option W64) :
    retire i b s k next =
      { (s.modPart k fun p => p.retiredTo i b s.steps next).modCore (flatOf k) fun c => noteIssue c (idxOf k) i.h.y i.yields with
        sel := none, issued := true, epoch := s.epoch + 1 } := by
  cases next <;> rfl

@[simp] theorem arch_refetch (p : Part) (seq : Nat) : (p.refetch seq).arch = p.arch := by
  unfold Part.refetch
  split <;> rfl

@[simp] theorem pc_refetch (p : Part) (seq : Nat) : (p.refetch seq).pc = p.pc := by
  unfold Part.refetch
  split <;> rfl

@[simp] theorem stall_refetch (p : Part) (seq : Nat) : (p.refetch seq).stall = p.stall := by
  unfold Part.refetch
  split <;> rfl

theorem arch_goto (p : Part) (a : W64) (seq : Nat) : (p.goto a seq).arch = p.arch := arch_refetch ..

section
variable (p : Part) (i : Iss) (before : Part) (seq : Nat)

@[simp] theorem arch_retiredTo (next : Option W64) : (p.retiredTo i before seq next).arch = p.arch := by
  cases next with
  | none => rfl
  | some a => exact arch_goto ..

@[simp] theorem pc_retiredTo_some (a : W64) : (p.retiredTo i before seq (some a)).pc = a := pc_refetch ..
@[simp] theorem pc_retiredTo_none : (p.retiredTo i before seq none).pc = p.pc := rfl

@[simp] theorem stall_retiredTo (next : Option W64) : (p.retiredTo i before seq next).stall = i.h.stall.toNat := by
  cases next with
  | none => rfl
  | some a => exact stall_refetch ..
end

section
variable (i : Iss) (b : Part) (s : State) (k : Nat) (next : Option W64)

theorem part_retire : (retire i b s k next).part k = (s.part k).retiredTo i b s.steps next := by
  rw [retire_eq]
  exact State.part_modPart s k fun p => p.retiredTo i b s.steps next

theorem part_retire_ne {j : Nat} (h : j ≠ k) : (retire i b s k next).part j = s.part j := by
  rw [retire_eq]
  exact State.part_modPart_ne s (fun p => p.retiredTo i b s.steps next) h

theorem core_retire : (retire i b s k next).core (flatOf k) = noteIssue (s.core (flatOf k)) (idxOf k) i.h.y i.yields := by
  rw [retire_eq]
  exact State.core_modCore (s.modPart k fun p => p.retiredTo i b s.steps next) (flatOf k) fun c => noteIssue c (idxOf k) i.h.y i.yields

theorem core_retire_ne {f : Nat} (h : f ≠ flatOf k) : (retire i b s k next).core f = s.core f := by
  rw [retire_eq]
  exact State.core_modCore_ne (s.modPart k fun p => p.retiredTo i b s.steps next) (fun c => noteIssue c (idxOf k) i.h.y i.yields) h
end

/-- Settles O2: retirement changes one part by `Part.retiredTo` and one core by `noteIssue`. -/
theorem retireFrame : Obligations.RetireFrame := by
  unfold Obligations.RetireFrame
  intro i b s k next t
  refine ⟨fun j hj => part_retire_ne _ _ _ _ _ hj, ?arch, fun f hf => core_retire_ne _ _ _ _ _ hf, core_retire .., ?pc, ?pcNone, ?stall, rfl, rfl, rfl⟩
  case arch => exact (congrArg Part.arch (part_retire ..)).trans (arch_retiredTo ..)
  case pc =>
    rintro a rfl
    exact (congrArg Part.pc (part_retire ..)).trans (pc_retiredTo_some ..)
  case pcNone =>
    rintro rfl
    exact (congrArg Part.pc (part_retire ..)).trans (pc_retiredTo_none ..)
  case stall => exact (congrArg Part.stall (part_retire ..)).trans (stall_retiredTo ..)

/-! ## Early reads (R82) -/

section
variable {p : Part}

/-- The first read that is early, under STALLCHK.EN. -/
def Part.firstEarly (p : Part) (rs : List Reg) : Option Reg := if p.stallchk then rs.find? fun r => tracked p r && sbEarly p.sb r else none

/-- Whether a read is early under STALLCHK.EN. -/
def Part.early (p : Part) (r : Reg) : Bool := p.stallchk && tracked p r && sbEarly p.sb r

theorem firstEarly_eq_find? (rs : List Reg) : p.firstEarly rs = rs.find? p.early := by
  cases h : p.stallchk with
  | true =>
    have hearly : p.early = fun r => tracked p r && sbEarly p.sb r := by
      funext r
      simp only [Part.early, h, Bool.true_and]
    rw [hearly, Part.firstEarly, if_pos h]
  | false =>
    have hnone : rs.find? p.early = none := List.find?_eq_none.mpr fun r _ => by simp [Part.early, h]
    rw [hnone, Part.firstEarly, if_neg (ne_true_of_eq_false h)]

theorem firstEarly_none {rs : List Reg} (h : ∀ r ∈ rs, p.early r = false) : p.firstEarly rs = none := by
  rw [firstEarly_eq_find?, List.find?_eq_none]
  exact fun r hr => ne_true_of_eq_false (h r hr)

theorem firstEarly_append_cons {before after : List Reg} {r : Reg} (hb : ∀ q ∈ before, p.early q = false) (hr : p.early r = true) :
    p.firstEarly (before ++ r :: after) = some r := by
  rw [firstEarly_eq_find?, List.find?_append, List.find?_eq_none.mpr fun q hq => ne_true_of_eq_false (hb q hq), List.find?_cons_of_pos hr]
  rfl

theorem rawReg_of_no_early_writer : ∀ {sb : List SbEntry} {r : Reg} {v : VReg}, sbEarly sb r = false → sbPeek sb r v = v
  | [], _, _, _ => rfl
  | e :: es, r, v, h => by
    simp only [sbEarly, sbPeek] at h ⊢
    split
    · next hr =>
      rw [if_pos hr, decide_eq_false_iff_not, Nat.not_lt] at h
      rw [if_pos h]
    · next hr => exact rawReg_of_no_early_writer (by rwa [if_neg hr] at h)

theorem rd_of_not_early {r : Reg} (h : sbEarly p.sb r = false) : p.rd r = rawReg p r := by
  unfold Part.rd
  split
  · rfl
  · exact rawReg_of_no_early_writer h

theorem rd_of_early_writer {r : Reg} {es : List SbEntry} {e : SbEntry} (ht : tracked p r = true) (hsb : p.sb = e :: es) (hr : e.reg = r) (hage : e.age < e.lat) :
    p.rd r = sbPeek es r e.old := by
  simp only [Part.rd, hsb, List.isEmpty_cons, ht, Bool.not_true, Bool.or_self, Bool.false_eq_true, if_false, sbPeek, hr, if_true, Nat.not_le.mpr hage]
end

/-! ## The frame -/

/-- The predicate reads of an instruction are of one register at most. -/
theorem predReads_singleton {i : Iss} {r : Reg} (h : r ∈ i.predReads) : i.predReads = [r] := by
  unfold Iss.predReads at h ⊢
  split at h
  · rw [List.mem_singleton.mp h]
  · cases h

/-- STALL_SHORT (R82). -/
abbrev stallShort (s : State) (r : Reg) : Host.Outcome State Fault Refusal := .next (takeTrap s s.cur ⟨0x02, 0, BitVec.ofNat 64 r.spec, none⟩)

section
variable (i : Iss) (body : W64 → M Flow) (s : State)

theorem issue_eq : issue i body s =
    match (s.part s.cur).firstEarly i.predReads with
    | some r => stallShort s r
    | none =>
      if !i.effective (s.part s.cur) then done { i with yields := false, keepPass := false } s s
      else match (s.part s.cur).firstEarly i.reads with
      | some r => stallShort s r
      | none => if i.bad then .next (takeTrap s s.cur (valueTrap (s.part s.cur))) else .next (runBody i (predVal (s.part s.cur) i.pred) body s) := rfl

variable {i s}

theorem issue_predicate_early {r : Reg} (hr : r ∈ i.predReads) (he : (s.part s.cur).early r = true) : issue i body s = stallShort s r := by
  have hfirst : (s.part s.cur).firstEarly i.predReads = some r := by
    rw [predReads_singleton hr]
    exact firstEarly_append_cons (before := []) (by simp) he
  rw [issue_eq, hfirst]

theorem issue_not_effective (hp : ∀ r ∈ i.predReads, (s.part s.cur).early r = false) (he : i.effective (s.part s.cur) = false) :
    issue i body s = done { i with yields := false, keepPass := false } s s := by
  simp only [issue_eq, firstEarly_none hp, he, Bool.not_false, if_true]

theorem issue_source_early {before after : List Reg} {r : Reg} (hp : ∀ q ∈ i.predReads ++ before, (s.part s.cur).early q = false)
    (he : i.effective (s.part s.cur) = true) (hreads : i.reads = before ++ r :: after) (hr : (s.part s.cur).early r = true) : issue i body s = stallShort s r := by
  have hpred := firstEarly_none fun q hq => hp q (List.mem_append_left _ hq)
  have hsrc : (s.part s.cur).firstEarly i.reads = some r := by
    rw [hreads]
    exact firstEarly_append_cons (fun q hq => hp q (List.mem_append_right _ hq)) hr
  simp only [issue_eq, hpred, he, hsrc, Bool.not_true, Bool.false_eq_true, if_false]

/-- R75: whether the predicate lets an instruction take effect. -/
theorem effective_iff (p : Part) : i.effective p = true ↔
    match i.lane with
    | some l => (predVal p i.pred).getLsbD l = true
    | none => if i.lanes then predVal p i.pred ≠ 0 else (predVal p i.pred).getLsbD 0 = true := by
  unfold Iss.effective
  cases i.lane with
  | some l => rfl
  | none => cases i.lanes <;> simp
end

/-- Settles O1: the frame looks at the predicate's read, the predicate, the sources, in that order. -/
theorem issueFrame : Obligations.IssueFrame := by
  unfold Obligations.IssueFrame
  refine ⟨fun i body s => ?_, fun p r h => rd_of_not_early h, fun p r es e ht hsb hr hage => rd_of_early_writer ht hsb hr hage⟩
  intro p early pred holds short
  have hholds : holds ↔ i.effective p = true := (effective_iff p).symm
  refine ⟨fun r hr he => issue_predicate_early body hr he, fun hp hnot => ?_, fun before after r hp hh hreads hr => ?_⟩
  · exact issue_not_effective body hp (Bool.eq_false_iff.mpr fun he => hnot (hholds.mpr he))
  · exact issue_source_early body hp (hholds.mp hh) hreads hr

end Sys2Proof.Machine
end

section
/-! PROOFS. Streams at issue: pops, pushes, and what each leaves (R72, R230 to R232). -/

namespace Sys2Proof.Machine
open Sys2Proof

/-! ## One pop, one push -/

@[simp] theorem settle_pos (t : Stream) : t.settle.pos = t.pos := by
  unfold Stream.settle
  dsimp only
  repeat' split
  all_goals rfl

section
variable {p : Part} {r : Fin 8}

theorem popStream_ready {x : Slot} (hc : p.streams[r].captured = false) (hw : p.streams[r].write = false) (hs : p.streams[r].state = .ready)
    (hx : p.streams[r].slots.find? (fun y => y.idx = p.streams[r].pos) = some x) :
    popStream p r = .ok { p with
      streams := p.streams.set r
        ({ p.streams[r] with slots := p.streams[r].slots.filter (fun y => decide (p.streams[r].pos < y.idx)), pos := p.streams[r].pos + 1 } : Stream).settle
      v := p.v.set (56 + r.val) x.v (by omega) } := by
  simp only [popStream, hc, hw, hs, hx, Bool.false_eq_true, if_false]

theorem popStream_captured (hc : p.streams[r].captured = true) : popStream p r = .stop (streamTrap (56 + r.val) 0x03) := by
  simp only [popStream, hc, if_true]

theorem popStream_write (hc : p.streams[r].captured = false) (hw : p.streams[r].write = true) : popStream p r = .stop (streamTrap (56 + r.val) 0x02) := by
  simp only [popStream, hc, hw, if_true, Bool.false_eq_true, if_false]

theorem popStream_exhausted (hc : p.streams[r].captured = false) (hw : p.streams[r].write = false) (hs : p.streams[r].state = .exhausted) :
    popStream p r = .stop (streamTrap (56 + r.val) 0x01) := by
  simp only [popStream, hc, hw, hs, Bool.false_eq_true, if_false]

theorem popStream_faulted {f : StreamFault} (hc : p.streams[r].captured = false) (hw : p.streams[r].write = false) (hs : p.streams[r].state = .faulted)
    (hf : p.streams[r].fault = some f) : popStream p r = .stop (streamFaultTrap f) := by
  simp only [popStream, hc, hw, hs, hf, Bool.false_eq_true, if_false]

theorem pushReady_captured (hc : p.streams[r].captured = true) : pushReady p r = .stop (streamTrap (56 + r.val) 0x03) := by
  simp only [pushReady, hc, if_true]

theorem pushReady_read (hc : p.streams[r].captured = false) (hw : p.streams[r].write = false) : pushReady p r = .stop (streamTrap (56 + r.val) 0x02) := by
  simp only [pushReady, hc, hw, Bool.not_false, if_true, Bool.false_eq_true, if_false]

theorem pushReady_write (hc : p.streams[r].captured = false) (hw : p.streams[r].write = true) : pushReady p r =
    match p.streams[r].state, p.streams[r].fault with
    | .faulted, some f => .stop (streamFaultTrap f)
    | .exhausted, _ => .stop (streamTrap (56 + r.val) 0x01)
    | .ready, _ => .ok p
    | _, _ => .wait := by
  simp only [pushReady, hc, hw, Bool.not_true, Bool.false_eq_true, if_false] <;> rfl
end

/-! ## The pops of an instruction -/

section
variable {s0 s : State} {k : Nat} {r : Fin 8} {rs : List (Fin 8)}

theorem popFrom_ok (ht : taskOn s k = none) {q : Part} (h : popStream (s.part k) r = .ok q) :
    popFrom s0 s k (r :: rs) = popFrom s0 (pulse (s.setPart k q) k (8 + r.val)) k rs := by
  simp only [popFrom, h, ht]

theorem popFrom_stop {e : Stop} (h : popStream (s.part k) r = .stop e) : popFrom s0 s k (r :: rs) = (.stop e, s0) := by
  simp only [popFrom, h]

theorem popFrom_wait (h : popStream (s.part k) r = .wait) : popFrom s0 s k (r :: rs) = (.wait, s0) := by
  simp only [popFrom, h]
end

/-! ## The instruction: pop, effect, push -/

/-- The trap, or the wait, of the first destination stream that takes no push. -/
def crossOf (p : Part) (outs : List (Fin 8)) : Option (Option Stop) :=
  outs.findSome? fun r =>
    match pushReady p r with
    | .stop t => some (some t)
    | .wait => some none
    | .ok _ => none

/-- What the destination streams of an instruction make of it at this try: with no trap and no wait of their own, they wait for the stores before it. -/
def pushStop (s s1 : State) (outs : List (Fin 8)) : Option (Option Stop) :=
  if outs ≠ [] && (crossOf (s1.part s.cur) outs).isNone && (taskOn s s.cur).isNone && !storesDone s s.cur then some none else crossOf (s1.part s.cur) outs

/-- The state in which the effect runs: each push releases the stores before it, and the destinations are emptied. -/
def emptied (p : Part) (s1 : State) (k : Nat) (outs : List (Fin 8)) : State :=
  (outs.foldl (fun t r => releaseAt t (flatOf k) (p.streams[r]).scope) s1).modPart k fun q =>
    outs.foldl (fun q r => { q with v := q.v.set (56 + r.val) 0 (by omega) }) q

/-- The state after the effect of an instruction whose destination streams are given. -/
def pushEnd (i : Iss) (s : State) (outs : List (Fin 8)) : Except Stop (Flow × State) → State
  | .error t => stopped s s.cur t
  | .ok (.wait, _) => waitingStore i s s.cur
  | .ok (.waitKeep, s3) => waitingKept (s.part s.cur) s3 s.cur
  | .ok (.trapped t, s3) => takeTrap s3 s.cur t
  | .ok (.placed, s3) => retire i (s.part s.cur) s3 s.cur none
  | .ok (.done, s3) => retire i (s.part s.cur) (s3.modPart s.cur fun p => outs.foldl (fun p r => p.push r) p) s.cur (some (s.part s.cur).npc)
  | .ok (.jump a, s3) => retire i (s.part s.cur) s3 s.cur (some a)

section
variable {i : Iss} {mask : W64} {body : W64 → M Flow} {s s1 : State}

theorem runBody_pop_stop {e : Stop} (h : popAll s s.cur (i.pops (s.part s.cur)) = (.stop e, s1)) : runBody i mask body s = stopped s1 s.cur e := by
  simp only [runBody, h]

theorem runBody_pop_wait (h : popAll s s.cur (i.pops (s.part s.cur)) = (.wait, s1)) : runBody i mask body s = waiting s s.cur := by
  simp only [runBody, h]

/-- Once its sources are popped, an instruction looks at its destination streams and at the stores before it; then its effect runs. -/
theorem runBody_popped {q : Part} {outs : List (Fin 8)} (h : popAll s s.cur (i.pops (s.part s.cur)) = (.ok q, s1))
    (houts : streamsIn (s.part s.cur) (i.writes.map (·.1)) = outs) :
    runBody i mask body s =
      match pushStop s s1 outs with
      | some (some t) => stopped s s.cur t
      | some none => waiting s s.cur
      | none => pushEnd i s outs (body mask (emptied (s.part s.cur) s1 s.cur outs)) := by
  subst houts
  simp only [runBody, h]
  rfl

theorem crossOf_ready {p : Part} {outs : List (Fin 8)} (h : ∀ r ∈ outs, pushReady p r = .ok p) : crossOf p outs = none := by
  rw [crossOf, List.findSome?_eq_none_iff]
  intro r hr
  rw [h r hr]

theorem pushStop_of_cross {outs : List (Fin 8)} {c : Option Stop} (h : crossOf (s1.part s.cur) outs = some c) : pushStop s s1 outs = some c := by
  simp only [pushStop, h, Option.isNone_some, Bool.and_false, Bool.false_and, Bool.false_eq_true, if_false]

theorem pushStop_of_stores {outs : List (Fin 8)} (hready : ∀ r ∈ outs, pushReady (s1.part s.cur) r = .ok (s1.part s.cur)) (hne : outs ≠ [])
    (ht : taskOn s s.cur = none) (hs : storesDone s s.cur = false) : pushStop s s1 outs = some none := by
  simp only [pushStop, crossOf_ready hready, hne, ht, hs, ne_eq, not_false_eq_true, decide_true, Option.isNone_none, Bool.not_false, Bool.and_true, if_true]

theorem pushStop_of_ready {outs : List (Fin 8)} (hready : ∀ r ∈ outs, pushReady (s1.part s.cur) r = .ok (s1.part s.cur))
    (h : outs = [] ∨ storesDone s s.cur = true) : pushStop s s1 outs = none := by
  unfold pushStop
  rw [crossOf_ready hready]
  obtain rfl | hs := h
  · exact if_neg (by simp)
  · exact if_neg (by simp [hs])

theorem crossOf_singleton_stop {p : Part} {r : Fin 8} {e : Stop} (h : pushReady p r = .stop e) : crossOf p [r] = some (some e) := by
  simp only [crossOf, List.findSome?_cons, h]

theorem crossOf_singleton_wait {p : Part} {r : Fin 8} (h : pushReady p r = .wait) : crossOf p [r] = some none := by
  simp only [crossOf, List.findSome?_cons, h]

/-- An instruction that is neither early nor without effect runs its body. -/
theorem issue_of_not_early {p : Part} (hp : s.part s.cur = p) (hread : p.stallchk = false ∨ ∀ r ∈ i.allReads, (tracked p r && sbEarly p.sb r) = false)
    (heff : i.effective p = true) (hbad : i.bad = false) : issue i body s = .next (runBody i (predVal p i.pred) body s) := by
  have hnot : ∀ r ∈ i.allReads, p.early r = false := by
    intro r hr
    obtain hoff | hall := hread
    · simp only [Part.early, hoff, Bool.false_and]
    · rw [Part.early, Bool.and_assoc, hall r hr, Bool.and_false]
  subst hp
  simp only [issue_eq, firstEarly_none fun r hr => hnot r (List.mem_append_left _ hr), firstEarly_none fun r hr => hnot r (List.mem_append_right _ hr), heff, hbad,
    Bool.not_true, Bool.false_eq_true, if_false]
end

/-- Settles O3: one pop, one push, the pops in their order, and the instruction around them. -/
theorem streamRegisters : Obligations.StreamRegisters := by
  unfold Obligations.StreamRegisters
  refine ⟨?pop, ?push, ?order, ?instruction⟩
  case pop =>
    intro p r x t hc hw hs hx
    refine ⟨_, popStream_ready hc hw hs hx, by simp, by simp [t], rfl, rfl, fun j hj => ?_, fun j hj => ?_⟩
    · exact Vector.getElem_set_ne (by omega) j.isLt (Ne.symm hj)
    · exact Vector.getElem_set_ne r.isLt j.isLt fun e => hj (Fin.ext e.symm)
  case push =>
    intro p r t
    refine ⟨fun hc hw hs => ?_, rfl, fun hc => ⟨popStream_captured hc, pushReady_captured hc⟩, popStream_write, pushReady_read,
      fun hc hs => ⟨fun hw => popStream_exhausted hc hw hs, fun hw => ?_⟩, fun f hc hs hf => ⟨fun hw => popStream_faulted hc hw hs hf, fun hw => ?_⟩⟩
    · rw [pushReady_write hc hw, hs]
    · rw [pushReady_write hc hw, hs]
    · rw [pushReady_write hc hw, hs, hf]
  case order => exact fun s0 s k r rs ht => ⟨fun q => popFrom_ok ht, fun e => popFrom_stop, popFrom_wait, rfl⟩
  case instruction =>
    intro i body s s1 k p mask ins outs hread heff hbad hawake ht
    rw [issue_of_not_early rfl hread heff hbad]
    have hpops : i.pops (s.part s.cur) = ins := if_pos hawake
    have hpop {a : Access} {s2 : State} (h : popFrom s s k ins = (a, s2)) : popAll s s.cur (i.pops (s.part s.cur)) = (a, s2) := by rwa [hpops]
    refine ⟨fun e h => congrArg _ (runBody_pop_stop (hpop h)), fun h => congrArg _ (runBody_pop_wait (hpop h)), fun q h => ?_⟩
    have hrun := fun {l} => runBody_popped (i := i) (mask := mask) (body := body) (outs := l) (hpop h)
    refine ⟨fun r e hout hr => ?_, fun r hout hr => ?_, fun hready hne hstores => ?_, fun hready hdone => ?_⟩
    · rw [hrun hout, pushStop_of_cross (crossOf_singleton_stop hr)]
    · rw [hrun hout, pushStop_of_cross (crossOf_singleton_wait hr)]
    · rw [hrun rfl, pushStop_of_stores hready hne ht hstores]
    · rw [hrun rfl, pushStop_of_ready hready hdone]
      exact ⟨fun e hb => congrArg (fun x => Host.Outcome.next (pushEnd i s outs x)) hb, fun t hb => congrArg (fun x => Host.Outcome.next (pushEnd i s outs x)) hb⟩

end Sys2Proof.Machine
end

section
/-! PROOFS. What the operations of memory leave of the state, and that they keep its canonical form (R169 to R225, R239 to R241). -/

namespace Sys2Proof.Machine
open Sys2Proof

/-! ## The frame of a memory operation -/

/-- A part without what memory itself may change of it: its stash lines, what a watch tells it, and its counts. -/
def Part.still (p : Part) : Part :=
  { p with stash := [], latch := false, latchScope := 0, sleep := .awake, damask := .reset, perf := Vector.replicate 8 .reset }

/-- A core without what memory itself may change of it. -/
def Core.still (c : Core) : Core := { c with plb := [], hints := [], pres := [], spadLost := [] }

/-- A die without the leaves that its translation unit keeps. -/
def Die.still (d : Die) : Die := { d with leaves := [] }

/-- A state without the objects that memory itself may change. -/
def State.still (s : State) : State :=
  { s with mem := [], parts := [], cores := [], away := [], guests := [], watches := [], pages := [], dies := [], free := 0 }

/-- What an operation of memory does: it keeps the canonical form, and it leaves the state alone but for cells, guest copies, stash lines, pages, watches and their
wakings, and what cores and dies keep of translations and rights. -/
structure MemFrame (s t : State) : Prop where
  inv : Inv s → Inv t
  part : ∀ k, (t.part k).still = (s.part k).still
  listed : ∀ k, (mfind s.parts k).isSome = true → (mfind t.parts k).isSome = true
  core : ∀ f, (t.core f).still = (s.core f).still
  die : ∀ d, (t.die d).still = (s.die d).still
  rest : t.still = s.still

namespace MemFrame
variable {s t u : State}

theorem refl (s : State) : MemFrame s s := ⟨id, fun _ => rfl, fun _ => id, fun _ => rfl, fun _ => rfl, rfl⟩

theorem trans (h : MemFrame s t) (g : MemFrame t u) : MemFrame s u :=
  ⟨g.inv ∘ h.inv, fun k => (g.part k).trans (h.part k), fun k => g.listed k ∘ h.listed k, fun f => (g.core f).trans (h.core f), fun d => (g.die d).trans (h.die d),
    g.rest.trans h.rest⟩

theorem foldl {β : Type} {f : State → β → State} (hf : ∀ s b, MemFrame s (f s b)) (l : List β) (s : State) : MemFrame s (l.foldl f s) := by
  induction l generalizing s with
  | nil => exact refl s
  | cons b l ih => exact (hf s b).trans (ih (f s b))

theorem cur (h : MemFrame s t) : t.cur = s.cur := congrArg (·.cur) h.rest
theorem tasks (h : MemFrame s t) : t.tasks = s.tasks := congrArg (·.tasks) h.rest
theorem ctxs (h : MemFrame s t) : t.ctxs = s.ctxs := congrArg (·.ctxs) h.rest
theorem devs (h : MemFrame s t) : t.devs = s.devs := congrArg (·.devs) h.rest
theorem steps (h : MemFrame s t) : t.steps = s.steps := congrArg (·.steps) h.rest
theorem epoch (h : MemFrame s t) : t.epoch = s.epoch := congrArg (·.epoch) h.rest
theorem pc (h : MemFrame s t) (k : Nat) : (t.part k).pc = (s.part k).pc := congrArg (·.pc) (h.part k)

/-- A change that memory may make of the objects that stand outside partitions, cores and dies. -/
theorem of_outside (hinv : Inv s → Inv t) (hp : t.parts = s.parts) (hc : t.cores = s.cores) (hd : t.dies = s.dies) (hr : t.still = s.still) : MemFrame s t := by
  have hpart (k : Nat) : t.part k = s.part k := by simp only [State.part, hp]
  have hcore (f : Nat) : t.core f = s.core f := by simp only [State.core, hc]
  have hdie (d : Nat) : t.die d = s.die d := by simp only [State.die, hd]
  exact ⟨hinv, fun k => by rw [hpart], fun k => by rw [hp]; exact id, fun f => by rw [hcore], fun d => by rw [hdie], hr⟩

theorem write (s : State) (k : Nat) (v : Byte) : MemFrame s { s with mem := memWrite s.mem k v } :=
  of_outside (memory_wf_memWrite k v) rfl rfl rfl rfl

theorem writeBytes (s : State) (k : Nat) (bs : List Byte) : MemFrame s { s with mem := memWriteBytes s.mem k bs } :=
  of_outside (memory_wf_memWriteBytes k bs) rfl rfl rfl rfl

theorem guests (s : State) (g : List Guest) : MemFrame s { s with guests := g } := of_outside id rfl rfl rfl rfl
theorem watches (s : State) (w : List Watch) : MemFrame s { s with watches := w } := of_outside id rfl rfl rfl rfl
theorem pages (s : State) (p : List Page) : MemFrame s { s with pages := p } := of_outside id rfl rfl rfl rfl
theorem away (s : State) (a : List (Nat × Part)) : MemFrame s { s with away := a } := of_outside id rfl rfl rfl rfl
theorem freePages (s : State) (n : Nat) (p : List Page) : MemFrame s { s with free := n, pages := p } := of_outside id rfl rfl rfl rfl
theorem free (s : State) (n : Nat) : MemFrame s { s with free := n } := of_outside id rfl rfl rfl rfl

end MemFrame

theorem isSome_mfind_mset {α : Type} (m : Map α) (k j : Nat) (v : α) (h : (mfind m j).isSome = true) : (mfind (mset m k v) j).isSome = true := by
  by_cases hj : j = k
  · rw [hj, mfind_mset_self]
    rfl
  · rwa [mfind_mset_ne _ _ hj]

namespace MemFrame

theorem modPart (s : State) (k : Nat) {f : Part → Part} (hf : ∀ p, (f p).still = p.still) : MemFrame s (s.modPart k f) := by
  refine ⟨id, fun j => ?_, fun j => isSome_mfind_mset s.parts k j _, fun _ => rfl, fun _ => rfl, rfl⟩
  by_cases hj : j = k
  · rw [hj, State.part_modPart]
    exact hf _
  · rw [State.part_modPart_ne s f hj]

theorem modCore (s : State) (c : Nat) {f : Core → Core} (hf : ∀ x, (f x).still = x.still) : MemFrame s (s.modCore c f) := by
  refine ⟨id, fun _ => rfl, fun _ => id, fun j => ?_, fun _ => rfl, rfl⟩
  by_cases hj : j = c
  · rw [hj, State.core_modCore]
    exact hf _
  · rw [State.core_modCore_ne s f hj]

theorem modDie (s : State) (d : Nat) {f : Die → Die} (hf : ∀ x, (f x).still = x.still) : MemFrame s (s.modDie d f) := by
  refine ⟨id, fun _ => rfl, fun _ => id, fun _ => rfl, fun j => ?_, rfl⟩
  by_cases hj : j = d
  · rw [hj, State.die_modDie]
    exact hf _
  · rw [State.die_modDie_ne s f hj]

theorem modPartOf (s : State) (flat c : Nat) {f : Part → Part} (hf : ∀ p, (f p).still = p.still) : MemFrame s (s.modPartOf flat c f) := by
  unfold State.modPartOf
  split
  · exact modPart s _ hf
  · exact away s _

end MemFrame

/-! ## Watches and writes at a home -/

theorem memFrame_keepLeaf (s : State) (dev : Nat) (va : W64) : MemFrame s (keepLeaf s dev va) := by
  unfold keepLeaf
  split
  · exact .modDie s _ fun _ => rfl
  · exact .refl s

theorem memFrame_perf (s : State) (k event n : Nat) : MemFrame s (perf s k event n) := .modPart s k fun _ => rfl

/-- A pulse is a change of the Damask programme alone. -/
theorem still_withDamask (p : Part) (d : Damask) : ({ p with damask := d } : Part).still = p.still := rfl

theorem memFrame_pulse (s : State) (k input : Nat) : MemFrame s (pulse s k input) := by
  unfold pulse
  split
  · exact .refl s
  · exact .modPart s k fun p => still_withDamask p _

theorem memFrame_pulseOf (s : State) (flat c input : Nat) : MemFrame s (pulseOf s flat c input) := .modPartOf s flat c fun p => still_withDamask p _

theorem still_setLatch (p : Part) (scope : Nat) : (p.setLatch scope).still = p.still := rfl

theorem memFrame_wakeWatcher (s : State) (w : Watch) : MemFrame s (wakeWatcher s w) := by
  unfold wakeWatcher
  split
  · exact .modPart s _ fun p => still_setLatch p 0
  · exact (MemFrame.modPartOf s w.flat w.ctx fun p => still_setLatch p 0).trans (memFrame_pulseOf ..)

theorem memFrame_fireWatch (s : State) (w : Watch) : MemFrame s (fireWatch s w) := (MemFrame.watches s _).trans (memFrame_wakeWatcher ..)

theorem memFrame_fireWatches (s : State) (keys : List Nat) : MemFrame s (fireWatches s keys) := by
  refine MemFrame.foldl (fun s w => ?_) _ s
  split
  · split
    · exact memFrame_fireWatch s w
    · exact .refl s
  · exact .refl s

theorem memFrame_homeWriteAll (s : State) (flat : Nat) (bs : List (W64 × Byte)) : MemFrame s (homeWriteAll s flat bs) := by
  have hput := MemFrame.foldl (f := fun s (b : W64 × Byte) => match homeKey s flat b.1 with
    | some k => { s with mem := memWrite s.mem k b.2 }
    | none => s) (fun s b => by split; exacts [.write s _ _, .refl s]) bs s
  unfold homeWriteAll
  dsimp only
  split
  · exact hput
  · exact hput.trans (memFrame_fireWatches ..)

theorem memFrame_homeWrite (s : State) (flat : Nat) (va : W64) (bs : List Byte) : MemFrame s (homeWrite s flat va bs) := memFrame_homeWriteAll ..

/-- Bytes in runs, each of which is one write. -/
theorem memFrame_homeWriteRuns (s : State) (flat : Nat) (rs : List (List (W64 × Byte))) : MemFrame s (rs.foldl (fun s r => homeWriteAll s flat r) s) :=
  .foldl (fun s r => memFrame_homeWriteAll s flat r) rs s

theorem memFrame_replicaWrite (s : State) (flat : Nat) (bs : List (W64 × Byte)) : MemFrame s (replicaWrite s flat bs) := by
  refine (memFrame_homeWriteAll s flat bs).trans (MemFrame.foldl (fun s b => ?_) bs _)
  split
  · split
    · refine MemFrame.foldl (fun s lw => ?_) _ s
      split
      · exact .write s _ _
      · exact .refl s
    · exact .refl s
  · exact .refl s

/-! ## Stash lines and guest copies -/

theorem memFrame_markLost (s : State) (flat : Nat) (line : W64) : MemFrame s (markLost s flat line) := by
  unfold markLost
  split
  · exact .pages s _
  · exact .refl s

theorem memFrame_stashMark (s : State) (k : Nat) (g line : W64) (v : Option Bool) : MemFrame s (stashMark s k g line v) := .modPart s k fun _ => rfl

theorem memFrame_stashWriteBack (s : State) (k : Nat) (m : Stash) (line : W64) : MemFrame s (stashWriteBack s k m line) := by
  unfold stashWriteBack
  split
  · exact memFrame_markLost ..
  · exact memFrame_homeWrite ..

theorem memFrame_stashRecallLine (s : State) (k : Nat) (line : W64) : MemFrame s (stashRecallLine s k line) := by
  unfold stashRecallLine
  split
  · exact .refl s
  · split
    · exact .refl s
    · refine MemFrame.trans ?_ (memFrame_stashMark ..)
      split
      · exact memFrame_stashWriteBack ..
      · exact .refl s

theorem memFrame_recallOthers (s : State) (except : Option Nat) (flat : Nat) (line : W64) : MemFrame s (recallOthers s except flat line) := by
  refine (MemFrame.foldl (fun s kp => ?_) s.parts s).trans (.away _ _)
  split
  · exact .refl s
  · exact memFrame_stashRecallLine ..

theorem memFrame_guestWriteThrough (s : State) (g : Guest) : MemFrame s (guestWriteThrough s g) := by
  unfold guestWriteThrough
  split
  · exact .refl s
  · exact ((memFrame_recallOthers ..).trans (memFrame_homeWriteRuns ..)).trans (.guests _ _)

theorem memFrame_guestDrop (s : State) (dk : Nat) (line : W64) : MemFrame s (guestDrop s dk line) := by
  unfold guestDrop
  split
  · exact .refl s
  · exact (memFrame_guestWriteThrough ..).trans (.guests _ _)

theorem memFrame_toHome (s : State) (flat : Nat) (line : W64) : MemFrame s (toHome s flat line) :=
  (memFrame_guestDrop ..).trans (memFrame_recallOthers ..)

/-! ## Releases and acquires -/

theorem memFrame_releaseDie (s : State) (dk : Nat) : MemFrame s (releaseDie s dk) := by
  refine (MemFrame.foldl (fun s g => ?guest) _ s).trans (MemFrame.foldl (fun s e => ?stash) _ _)
  case guest =>
    split
    · exact memFrame_guestWriteThrough s g
    · exact .refl s
  case stash =>
    split
    · split
      · exact (memFrame_stashWriteBack ..).trans (memFrame_stashMark ..)
      · exact .refl s
    · exact .refl s

theorem memFrame_acquireDie (s : State) (dk : Nat) : MemFrame s (acquireDie s dk) :=
  (((memFrame_releaseDie s dk).trans (.guests _ _)).trans (.foldl (fun _ _ => memFrame_stashMark ..) _ _)).trans (.away _ _)

theorem memFrame_releaseAt (s : State) (flat scope : Nat) : MemFrame s (releaseAt s flat scope) := by
  unfold releaseAt
  split
  · exact memFrame_releaseDie ..
  · exact .refl s

theorem memFrame_acquireAt (s : State) (flat scope : Nat) : MemFrame s (acquireAt s flat scope) := by
  unfold acquireAt
  split
  · exact memFrame_acquireDie ..
  · exact .refl s

/-! ## The checks of an access -/

section
variable {s t : State} {w : Who} {acc : Acc}

theorem memFrame_plbFind {flat : Nat} {dom : Half} {va : W64} {e : PlbEnt} (h : plbFind s flat dom va = .ok (t, e)) : MemFrame s t := by
  simp only [plbFind] at h
  split at h
  · cases h
    exact .modCore s flat fun _ => rfl
  · split at h
    · cases h
    · cases h
      exact (memFrame_acquireAt s flat 3).trans (.modCore _ flat fun _ => rfl)

theorem memFrame_checkRightsPiece {a : W64} {n : Nat} (h : checkRightsPiece s w acc a n = .ok t) : MemFrame s t := by
  unfold checkRightsPiece at h
  split at h
  case h_1 | h_2 => cases h
  case h_3 =>
    dsimp only at h
    split at h
    · cases h
    · split at h
      · cases h
      · cases h
        exact .refl s
  case h_4 =>
    split at h
    · cases h
    · next hfound =>
      split at h
      · cases h
      · split at h
        · cases h
        · cases h
          exact memFrame_plbFind hfound

theorem memFrame_checkPresentPiece {a : W64} (h : checkPresentPiece s w acc a = .ok t) : MemFrame s t := by
  unfold checkPresentPiece at h
  split at h
  case h_1 =>
    split at h
    · cases h
    · split at h
      · cases h
      · split at h
        · cases h
          exact .modCore _ _ fun _ => rfl
        · cases h
          exact .refl _
  case h_2 =>
    cases h
    exact .refl _

theorem memFrame_foldRights {ps : List (W64 × Nat)} {wk wk' : Bool} (h : foldRights w acc ps s wk = .ok (t, wk')) : MemFrame s t := by
  induction ps generalizing s wk with
  | nil =>
    cases h
    exact .refl _
  | cons p ps ih =>
    simp only [foldRights] at h
    split at h
    · cases h
    · next hp => exact (memFrame_checkRightsPiece hp).trans (ih h)

theorem memFrame_foldPieces {f : State → W64 → Nat → Except AErr State} (hf : ∀ {s t a n}, f s a n = .ok t → MemFrame s t) {ps : List (W64 × Nat)}
    (h : foldPieces f s ps = .ok t) : MemFrame s t := by
  induction ps generalizing s with
  | nil =>
    cases h
    exact .refl _
  | cons p ps ih =>
    simp only [foldPieces] at h
    split at h
    · cases h
    · next hp => exact (hf hp).trans (ih h)

theorem memFrame_checkAccess {rs : List (W64 × Nat)} (h : checkAccess s w acc rs = .ok t) : MemFrame s t := by
  simp only [checkAccess] at h
  split at h
  · cases h
  · next hrights =>
    split at h
    · cases h
    · split at h
      · cases h
      · next hpresent =>
        cases h
        exact (memFrame_foldRights hrights).trans (memFrame_foldPieces memFrame_checkPresentPiece hpresent)

theorem memFrame_engineCheck {a : W64} {n : Nat} (h : engineCheck s w acc a n = .ok t) : MemFrame s t := by
  simp only [engineCheck] at h
  split at h
  · cases h
  · next hcheck =>
    split at h
    · cases h
    · split at h
      · cases h
      · cases h
        exact memFrame_checkAccess hcheck
end

theorem memFrame_afterWalk (s : State) (flat : Nat) (plb : Option (List PlbEnt)) (walked : Bool) : MemFrame s (afterWalk s flat plb walked) := by
  have hwalk : MemFrame s (if walked then acquireAt s flat 3 else s) := by
    split
    · exact memFrame_acquireAt ..
    · exact .refl s
  unfold afterWalk
  dsimp only
  split
  · exact hwalk.trans (.modCore _ _ fun _ => rfl)
  · exact hwalk

/-! ## The lines of an access -/

theorem memFrame_hot (s : State) (flat : Nat) (va : W64) : MemFrame s (hot s flat va) := by
  unfold hot
  split
  · split
    · exact (memFrame_keepLeaf ..).trans (.freePages _ _ _)
    · exact .free s _
  · exact .refl s

theorem memFrame_hotLoad (s : State) (flat : Nat) (va : W64) : MemFrame s (hotLoad s flat va) := by
  unfold hotLoad
  split
  · exact .free s _
  · exact memFrame_hot ..

theorem memFrame_hint (s : State) (flat : Nat) (va : W64) : MemFrame s (hint s flat va) := by
  unfold hint
  split
  · split
    · exact .modCore s _ fun _ => rfl
    · exact .refl s
  · exact .refl s

theorem memFrame_fillGuest (s : State) (flat : Nat) (line : W64) : MemFrame s (fillGuest s flat line) := by
  unfold fillGuest
  split
  · split
    · exact .of_outside id rfl rfl rfl rfl
    · exact .free s _
  · exact .refl s

theorem memFrame_visit (s : State) (w : Who) (line : W64) : MemFrame s (visit s w line) := by
  refine MemFrame.trans ?_ ((memFrame_hotLoad ..).trans (memFrame_hint ..))
  split
  · exact memFrame_perf ..
  · exact .refl s

theorem memFrame_spadHeal (s : State) (flat off : Nat) : MemFrame s (spadHeal s flat off) := by
  unfold spadHeal
  split
  · exact .modCore s _ fun _ => rfl
  · exact .refl s

theorem memFrame_stashFill (s : State) (w : Who) (m : Stash) (line : W64) : MemFrame s (stashFill s w m line) := by
  unfold stashFill
  dsimp only
  refine .trans ?_ (memFrame_stashMark ..)
  refine .trans ?_ (memFrame_spadHeal ..)
  exact ((memFrame_guestDrop ..).trans (memFrame_hint ..)).trans (.writeBytes _ _ _)

theorem memFrame_prepLine (s : State) (w : Who) (line : W64) : MemFrame s (prepLine s w line) := by
  unfold prepLine
  split
  · refine (memFrame_recallOthers s (some w.k) w.flat line).trans ?_
    dsimp only
    split
    · split
      · exact memFrame_visit ..
      · split
        · exact .refl _
        · exact memFrame_stashFill ..
    · exact (memFrame_visit ..).trans (memFrame_fillGuest ..)
  · exact .refl s

theorem memFrame_prepLines (s : State) (w : Who) (ls : List W64) : MemFrame s (prepLines s w ls) := .foldl (fun s l => memFrame_prepLine s w l) ls s

theorem memFrame_lineWrite (s : State) (w : Who) (line : W64) (bs : List (W64 × Byte)) : MemFrame s (lineWrite s w line bs) := by
  have hcells (s : State) (key : W64 × Byte → Nat) : MemFrame s (bs.foldl (fun s b => { s with mem := memWrite s.mem (key b) b.2 }) s) :=
    .foldl (fun s b => .write s _ _) bs s
  unfold lineWrite
  dsimp only
  split
  · refine (memFrame_prepLine s w line).trans ?_
    split
    · split
      · refine .trans ?_ (memFrame_stashMark ..)
        split
        · exact hcells _ _
        · exact (hcells _ _).trans (memFrame_spadHeal ..)
      · exact memFrame_homeWriteRuns ..
    · split
      · exact .guests _ _
      · exact memFrame_homeWriteRuns ..
  · exact memFrame_homeWriteRuns ..

theorem memFrame_healLines (s : State) (flat : Nat) (ls : List W64) : MemFrame s (healLines s flat ls) := by
  unfold healLines
  dsimp only
  refine .trans ?_ (.pages _ _)
  refine .foldl (fun s x => ?_) _ s
  exact .modCore s _ fun _ => rfl

/-! ## Error records -/

theorem memFrame_writeRecord (s : State) (c flat : Nat) (rec : List Byte) : MemFrame s (writeRecord s c flat rec).1 := by
  unfold writeRecord
  dsimp only
  split
  · exact .refl s
  · split
    · exact (((((memFrame_toHome ..).trans (memFrame_homeWrite ..)).trans (memFrame_homeWrite ..)).trans ((memFrame_toHome ..).trans (memFrame_homeWrite ..))).trans
        (memFrame_releaseAt ..)).trans (memFrame_homeWrite ..)
    · exact (memFrame_toHome ..).trans (memFrame_homeWrite ..)

theorem memFrame_markTaken (s : State) (c flat : Nat) (slot : W64) : MemFrame s (markTaken s c flat slot) := by
  unfold markTaken
  dsimp only
  split
  · exact .refl s
  · exact (memFrame_toHome ..).trans (memFrame_homeWrite ..)

theorem memFrame_mcheckWrite (s : State) (c flat : Nat) (rec : List Byte) :
    MemFrame (s.modDev (ordOf flat) fun d => { d with lastmc := rec }) (mcheckWrite s c flat rec).1 := memFrame_writeRecord ..

end Sys2Proof.Machine
end

section
/-! PROOFS. One step: the agenda, the chosen partition, the free order (R66, R67, R77, R100, R103). -/

namespace Sys2Proof.Machine
open Sys2Proof

/-! ## The step by what comes next -/

section
variable {s : State}

theorem step_of_agenda {i : Instr} {is : List Instr} (h : s.agenda = i :: is) :
    step s = exec (eventOf (tick s) (some i)) (touched (eventOf (tick s) (some i)) { tick s with agenda := is }) := by
  have ht : (tick s).agenda = i :: is := h
  simp only [step, ht]

theorem step_of_free (hag : s.agenda = []) (hsel : s.sel = none) :
    step s = exec (eventOf (tick s) (Config.nextEvent (s.steps + 1))) (touched (eventOf (tick s) (Config.nextEvent (s.steps + 1))) (tick s)) := by
  have hag' : (tick s).agenda = [] := hag
  have hsel' : (tick s).sel = none := hsel
  have hsteps : (tick s).steps = s.steps + 1 := rfl
  simp only [step, hag', hsel', hsteps]

variable {k : Nat}

theorem step_of_sel (hag : s.agenda = []) (hsel : s.sel = some k) :
    step s = match fetchAt (tick s) k with
      | .ended t => .next t
      | .run i t => match exec i t with
        | .next u => .next (afterIssue t i k u)
        | .fault r => .fault r
        | .refused r => .refused r := by
  have hag' : (tick s).agenda = [] := hag
  have hsel' : (tick s).sel = some k := hsel
  simp only [step, hag', hsel'] <;> rfl

theorem step_ended (hag : s.agenda = []) (hsel : s.sel = some k) {t : State} (h : fetchAt.fetchNow (tick s) k = .ended t) :
    step s = .next (ccEnds (tick s) t k) := by
  simp only [step_of_sel hag hsel, fetchAt, h]

theorem step_run (hag : s.agenda = []) (hsel : s.sel = some k) {i : Instr} {u : State} (h : fetchAt.fetchNow (tick s) k = .run i u) :
    step s = match exec i u with
      | .next v => .next (afterIssue u i k v)
      | r => r := by
  simp only [step_of_sel hag hsel, fetchAt, h]
  cases exec i u <;> rfl
end

/-! ## What control finds -/

section
variable {s : State} {k : Nat}

/-- The state in which a chosen partition looks for its instruction. -/
abbrev stands (s : State) (k : Nat) : State := takeForward { s with cur := k } k

theorem fetchNow_boundary {u : State} (h : boundary (stands s k) k = some u) : fetchAt.fetchNow s k = .ended u := by
  simp only [fetchAt.fetchNow, h]

theorem fetchNow_forwarded {f : Fwd} (hb : boundary (stands s k) k = none) (h : ((stands s k).part k).fwdNow = some f) :
    fetchAt.fetchNow s k = .run f.ins (stands s k) := by
  simp only [fetchAt.fetchNow, hb, h]

section
variable (hb : boundary (stands s k) k = none) (hf : ((stands s k).part k).fwdNow = none)
include hb hf

theorem fetchNow_follower (h : ((stands s k).part k).fmode = .following) :
    fetchAt.fetchNow s k = .ended { stands s k with sel := none, issued := false } := by
  simp only [fetchAt.fetchNow, hb, hf, h, if_true]

variable (hm : ((stands s k).part k).fmode ≠ .following)
include hm

theorem fetchNow_no_line (h : ((stands s k).part k).fbuf.find? (fun l => l.addr = lineOf ((stands s k).part k).pc) = none) :
    fetchAt.fetchNow s k = .ended { ((stands s k).modPart k fun p => p.refetch (stands s k).steps) with sel := none, issued := false } := by
  simp only [fetchAt.fetchNow, hb, hf, hm, if_false, h]

theorem fetchNow_line {l : FLine} {line : BitVec 512} {s1 : State}
    (h : ((stands s k).part k).fbuf.find? (fun l => l.addr = lineOf ((stands s k).part k).pc) = some l) (hl : l.data = some line)
    (hx : checkRightsPiece (stands s k) (whoOf (stands s k) k) .fetch ((stands s k).part k).pc 2 = .ok s1) :
    fetchAt.fetchNow s k =
      match decodeAt line (((stands s k).part k).pc.toNat / 2 % 32) with
      | .bad r => .ended (illegalAt s1 k r)
      | .lineEnd => .run .lineEnd s1
      | .ins i last => .run i (s1.modPart k fun q =>
          { q with npc := if last then lineOf ((stands s k).part k).pc + 64 else ((stands s k).part k).pc + 2 }) := by
  have hfault : fetchFault (stands s k) k l = .ok s1 := by simp only [fetchFault, hx, hl]
  -- the check of the X right leaves the address as it is
  have hpc := (memFrame_checkRightsPiece hx).pc k
  simp only [fetchAt.fetchNow, hb, hf, hm, if_false, h, hfault, hl, Option.getD_some, State.modPart, hpc] <;> rfl
end
end

theorem touched_of_event {i : Instr} {s : State} (h : ∀ x, i ≠ .issueSelect x ∧ i ≠ .twillForwardIssue x) : touched i s = { s with epoch := s.epoch + 1 } := by
  unfold touched
  split
  · exact absurd rfl (h _).1
  · exact absurd rfl (h _).2
  · rfl

/-- Settles O56: the step by what comes next, and what the chosen partition finds. -/
theorem stepRunsDecoded : Obligations.StepRunsDecoded := by
  unfold Obligations.StepRunsDecoded
  refine ⟨?chosen, fun s => ⟨fun i is => step_of_agenda, step_of_free, fun i => touched_of_event, fun x => ⟨rfl, rfl⟩⟩⟩
  case chosen =>
    intro s s1 k l line t p q ends hag hsel
    refine ⟨fun u hu => step_ended hag hsel (fetchNow_boundary hu), fun hb => ⟨fun f hf => ?_, fun hf hm => ?_, fun hf hm hl hd hx => ?_, fun hf hm hl => ?_⟩⟩
    · exact step_run hag hsel (fetchNow_forwarded hb hf)
    · exact step_ended hag hsel (fetchNow_follower hb hf hm)
    · have hfetch := fetchNow_line hb hf hm hl hd hx
      refine ⟨fun i last h => ?_, fun h => ?_, fun r h => ?_⟩
      · rw [show decodeAt line _ = _ from h] at hfetch
        exact step_run hag hsel hfetch
      · rw [show decodeAt line _ = _ from h] at hfetch
        exact step_run hag hsel hfetch
      · rw [show decodeAt line _ = _ from h] at hfetch
        exact step_ended hag hsel hfetch
    · exact step_ended hag hsel (fetchNow_no_line hb hf hm hl)

end Sys2Proof.Machine
end

section
/-! PROOFS. The scalar families: logic, shifts, bit fields, literals, compares, predicates and floating point (R115 to R124). -/

namespace Sys2Proof.Machine
open Sys2Proof

/-! ## How an instruction of a register family ends -/

/-- An instruction whose body changes the acting part alone gives that change. -/
theorem gives_of_body {ins : Instr} {i : Iss} {s : State} {body : W64 → M Flow} {f : Part → Part} (he : exec ins s = issue i body s)
    (hb : body (lanesFor s i) s = .ok (.done, s.modPart s.cur f)) : Gives ins i s f := by
  intro hi
  rw [he, doneWith]
  exact issue_done hi hb

/-! ## Words -/

theorem toNat_and_63 (y : W64) : (y &&& 63).toNat = y.toNat % 64 := by
  rw [BitVec.toNat_and]
  exact Nat.and_two_pow_sub_one_eq_mod y.toNat 6

/-- R116: the count of leading zeros, by the highest bit that is set. -/
theorem clz64_eq {x : W64} {n : Nat} (hn : n ≤ 64) (hclear : ∀ b, 64 - n ≤ b → b < 64 → x.getLsbD b = false) (hset : n < 64 → x.getLsbD (63 - n) = true) :
    clz64 x = BitVec.ofNat 64 n := by
  have hlt : x.toNat < 2 ^ (64 - n) := Nat.lt_pow_two_of_testBit _ fun b hb => by
    by_cases hb' : b < 64
    · exact hclear b hb hb'
    · exact x.getLsbD_of_ge b (by omega)
  obtain rfl | hn' := Nat.eq_or_lt_of_le hn
  · have hx : x = 0 := BitVec.eq_of_toNat_eq (by simpa using hlt)
    rw [clz64, if_pos hx]
    rfl
  · have hbit : x.toNat.testBit (63 - n) = true := hset hn'
    have hge : 2 ^ (63 - n) ≤ x.toNat := Nat.ge_two_pow_of_testBit hbit
    have hpos : x.toNat ≠ 0 := fun h0 => by simp [h0] at hbit
    have hx : x ≠ 0 := fun h0 => hpos (by simp [h0])
    have hlog : x.toNat.log2 = 63 - n := (Nat.log2_eq_iff hpos).mpr ⟨hge, by rwa [show 63 - n + 1 = 64 - n by omega]⟩
    rw [clz64, if_neg hx, hlog, show 63 - (63 - n) = n by omega]

/-- Sign extension of w bits repeats the highest of them. -/
theorem getLsbD_sext64 {w f b : Nat} (hw : 0 < w) (hw' : w ≤ 64) (hf : f < 2 ^ w) (hb : b < 64) :
    (sext64 w f).getLsbD b = if b < w then f.testBit b else f.testBit (w - 1) := by
  have hhalf : 2 ^ w = 2 * 2 ^ (w - 1) := by rw [← pow_succ', Nat.sub_add_cancel hw]
  simp only [sext64, Nat.mod_eq_of_lt hf]
  split
  · next hlow =>
    rw [BitVec.getLsbD_ofNat, decide_eq_true hb, Bool.true_and]
    split
    · rfl
    · rw [Nat.testBit_lt_two_pow hlow]
      exact Nat.testBit_lt_two_pow (hf.trans_le (Nat.pow_le_pow_right (by decide) (by omega)))
  · next hhigh =>
    have htop : f.testBit (w - 1) = true := Nat.testBit_of_two_pow_le_and_two_pow_add_one_gt (by omega) (by rwa [Nat.sub_add_cancel hw])
    have hsplit : 2 ^ 64 - 2 ^ w + f = 2 ^ w * (2 ^ (64 - w) - 1) + f := by
      rw [Nat.mul_sub, ← pow_add, Nat.add_sub_cancel' hw', Nat.mul_one]
    rw [BitVec.getLsbD_ofNat, decide_eq_true hb, Bool.true_and, hsplit, Nat.testBit_two_pow_mul_add _ hf, htop]
    split
    · rfl
    · rw [Nat.testBit_two_pow_sub_one]
      simpa using by omega

/-- R117: the bits that BFX extracts. -/
theorem getLsbD_bfx (sx : Bool) (x a c : W64) {b : Nat} (hb : b < 64) :
    let pos := a.toNat % 64
    let w := min (c.toNat % 128) (64 - pos)
    (bfx sx x a c).getLsbD b = if b < w then x.getLsbD (pos + b) else (sx && decide (w ≠ 0) && x.getLsbD (pos + w - 1)) := by
  intro pos w
  have hfield (j : Nat) : (x.toNat / 2 ^ pos % 2 ^ w).testBit j = (decide (j < w) && x.getLsbD (pos + j)) := by
    rw [Nat.testBit_mod_two_pow, Nat.testBit_div_two_pow, Nat.add_comm]
    rfl
  simp only [bfx]
  by_cases hw : w = 0
  · simp [show min (c.toNat % 128) (64 - a.toNat % 64) = 0 from hw, hw]
  · have hlt : x.toNat / 2 ^ pos % 2 ^ w < 2 ^ w := Nat.mod_lt _ (by positivity)
    have hw64 : w ≤ 64 := (min_le_right _ _).trans (by omega)
    rw [if_neg hw]
    cases sx with
    | true =>
      rw [if_pos rfl, getLsbD_sext64 (Nat.pos_of_ne_zero hw) hw64 hlt hb, hfield, hfield]
      have hlast : w - 1 < w := by omega
      have hplace : pos + (w - 1) = pos + w - 1 := by omega
      split
      · next h => rw [decide_eq_true h, Bool.true_and]
      · simp [hlast, hplace, hw]
    | false =>
      rw [if_neg (by decide), BitVec.getLsbD_ofNat, hfield, decide_eq_true hb]
      split
      · next h => simp [h]
      · next h => simp [h]

/-- R117: the bits of D after BFI. -/
theorem getLsbD_bfi (d x a c : W64) {b : Nat} (hb : b < 64) :
    let pos := a.toNat % 64
    let w := min (c.toNat % 128) (64 - pos)
    (bfi d x a c).getLsbD b = if pos ≤ b ∧ b < pos + w then x.getLsbD (b - pos) else d.getLsbD b := by
  intro pos w
  have hmask : (BitVec.ofNat 64 ((2 ^ w - 1) * 2 ^ pos)).getLsbD b = decide (pos ≤ b ∧ b < pos + w) := by
    rw [BitVec.getLsbD_ofNat, decide_eq_true hb, Bool.true_and, Nat.testBit_mul_two_pow, Nat.testBit_two_pow_sub_one, Bool.eq_iff_iff]
    simp only [Bool.and_eq_true, decide_eq_true_eq]
    omega
  simp only [bfi, BitVec.getLsbD_or, BitVec.getLsbD_and, BitVec.getLsbD_not, BitVec.getLsbD_shiftLeft, hb, decide_true, Bool.true_and]
  rw [show (BitVec.ofNat 64 ((2 ^ min (c.toNat % 128) (64 - a.toNat % 64) - 1) * 2 ^ (a.toNat % 64))).getLsbD b = _ from hmask]
  by_cases h : pos ≤ b ∧ b < pos + w
  · have hle : ¬ b < a.toNat % 64 := Nat.not_lt.mpr h.1
    simp [h, hle, pos]
  · simp [h]

/-! ## Logic, shifts, fields and literals (R115 to R118) -/

section
variable (h : Hd) (o : OpB) (s : State)

theorem exec_and : exec (.and h o) s = aluB h o (some 1) (· &&& ·) s := rfl
theorem exec_or : exec (.or h o) s = aluB h o (some 1) (· ||| ·) s := rfl
theorem exec_xor : exec (.xor h o) s = aluB h o (some 1) (· ^^^ ·) s := rfl
theorem exec_andn : exec (.andn h o) s = aluB h o (some 1) (fun x y => x &&& ~~~y) s := rfl

theorem exec_shl : exec (.shl h o) s = aluB h o (some 1) (fun x y => x <<< (y &&& 63).toNat) s := by
  simp only [toNat_and_63]
  rfl

theorem exec_shr : exec (.shr h o) s = aluB h o (some 1) (fun x y => x >>> (y &&& 63).toNat) s := by
  simp only [toNat_and_63]
  rfl

theorem exec_sar : exec (.sar h o) s = aluB h o (some 1) (fun x y => x.sshiftRight (y &&& 63).toNat) s := by
  simp only [toNat_and_63]
  rfl

theorem exec_clz : exec (.clz h o) s = aluA h o clz64 s := rfl
theorem exec_popc : exec (.popc h o) s = aluA h o popc64 s := rfl
theorem exec_mov : exec (.mov h o) s = aluA h o (fun x => x) s := rfl
end

/-- An instruction that is the format-B operation `f` of one source completes with the value of `f` at it. -/
theorem gives_of_exec_eq_aluA {ins : Instr} {h : Hd} {o : OpB} {f : W64 → W64} {s : State} (he : exec ins s = aluA h o f s) :
    Gives ins { h, reads := rds [o.s1], writes := wr o.d (some 1) } s (·.put o.d (f ((s.part s.cur).src 0 o.s1))) :=
  gives_of_body he rfl

section
variable (h : Hd) (s : State)

theorem exec_bfx (o : OpC) : exec (.bfx h o) s = execBfx h o s := rfl
theorem exec_bfi (o : OpC) : exec (.bfi h o) s = execBfi h o s := rfl
theorem exec_sel (o : OpC) : exec (.sel h o) s = execSel h o s := rfl
theorem exec_li (o : OpL) : exec (.li h o) s = execLi h o s := rfl
theorem exec_lih (o : OpL) : exec (.lih h o) s = execLih h o s := rfl
end

/-- The low word of a register. -/
theorem and_low_word (x : W64) : x &&& 0xFFFFFFFF = (x.setWidth 32).setWidth 64 := by
  apply BitVec.eq_of_toNat_eq
  simp only [BitVec.toNat_and, BitVec.toNat_setWidth]
  have hmask := Nat.and_two_pow_sub_one_eq_mod x.toNat 32
  have hlt : x.toNat % 2 ^ 32 < 2 ^ 64 := by omega
  rw [Nat.mod_eq_of_lt hlt]
  exact hmask

/-- Settles O6: logic and shifts are format-B operations of two sources, the counts and MOV of one; the fields are known by their bits. -/
theorem integerLogicAndFields : Obligations.IntegerLogicAndFields := by
  unfold Obligations.IntegerLogicAndFields
  refine ⟨fun h o s => ?words, fun h o s => ⟨?bfx, ?bfi, ?sel⟩, fun h o s => ⟨?li, ?slot, ?lih⟩⟩
  case words =>
    refine ⟨?and, ?or, ?xor, ?andn, ?shl, ?shr, ?sar, ?mov, fun n hn hclear hset => ?clz, ?popc⟩
    case and => exact (gives_of_exec_eq_aluB (exec_and h o s) :)
    case or => exact (gives_of_exec_eq_aluB (exec_or h o s) :)
    case xor => exact (gives_of_exec_eq_aluB (exec_xor h o s) :)
    case andn => exact (gives_of_exec_eq_aluB (exec_andn h o s) :)
    case shl => exact (gives_of_exec_eq_aluB (exec_shl h o s) :)
    case shr => exact (gives_of_exec_eq_aluB (exec_shr h o s) :)
    case sar => exact (gives_of_exec_eq_aluB (exec_sar h o s) :)
    case mov => exact (gives_of_exec_eq_aluA (exec_mov h o s) :)
    case clz =>
      have hclz := gives_of_exec_eq_aluA (exec_clz h o s)
      rwa [clz64_eq hn hclear hset] at hclz
    case popc => exact (gives_of_exec_eq_aluA (exec_popc h o s) :)
  case bfx => exact ⟨_, gives_of_body (exec_bfx h s o) rfl, fun b hb => getLsbD_bfx _ _ _ _ hb⟩
  case bfi => exact ⟨_, gives_of_body (exec_bfi h s o) rfl, fun b hb => getLsbD_bfi _ _ _ _ hb⟩
  case sel =>
    have hsel := exec_sel h s o
    simp only [execSel, bne_iff_ne, ite_not] at hsel
    exact gives_of_body hsel rfl
  case li => exact gives_of_body (exec_li h s o) rfl
  case slot =>
    intro hslot
    rw [hslot]
    rfl
  case lih =>
    have hlih := exec_lih h s o
    simp only [execLih, and_low_word] at hlih
    exact gives_of_body hlih rfl

/-! ## Compares and predicates (R119, R120) -/

/-- A word as the signed number that a condition compares. -/
theorem signed64 (x : W64) : (if x.toNat < 2 ^ (64 - 1) then (x.toNat : Int) else (x.toNat : Int) - (2 ^ 64 : Nat)) = x.toInt := by
  have hx := x.isLt
  rw [BitVec.toInt_eq_toNat_cond]
  split <;> split <;> omega

/-- R85: a condition on 64-bit words, on the numbers that they stand for. -/
theorem icond_64 (c : ICond) (x y : W64) : icond c 64 x.toNat y.toNat = match c with
    | .eq => decide (x = y)
    | .ne => decide (x ≠ y)
    | .lt => decide (x.toInt < y.toInt)
    | .ge => decide (y.toInt ≤ x.toInt)
    | .le => decide (x.toInt ≤ y.toInt)
    | .gt => decide (y.toInt < x.toInt)
    | .ltn => decide (x.toNat < y.toNat)
    | .gen => decide (y.toNat ≤ x.toNat)
    | .len => decide (x.toNat ≤ y.toNat)
    | .gtn => decide (y.toNat < x.toNat) := by
  have hx := Nat.mod_eq_of_lt x.isLt
  have hy := Nat.mod_eq_of_lt y.isLt
  cases c <;> simp only [icond, hx, hy, signed64, ne_eq, ← BitVec.toNat_eq]

section
variable (h : Hd) (o : OpB) (s : State)

theorem exec_cmp (c : ICond) : exec (.cmp h c o) s = execCmp h c o s := rfl
theorem exec_pand : exec (.pand h o) s = predB h o (· &&& ·) s := rfl
theorem exec_por : exec (.por h o) s = predB h o (· ||| ·) s := rfl
theorem exec_pxor : exec (.pxor h o) s = predB h o (· ^^^ ·) s := rfl
theorem exec_pnot : exec (.pnot h o) s = execPnot h o s := rfl
theorem exec_pmov : exec (.pmov h o) s = execPmov h o s := rfl
end

theorem gives_of_exec_eq_predB {ins : Instr} {h : Hd} {o : OpB} {f : W64 → W64 → W64} {s : State} (he : exec ins s = predB h o f s) :
    Gives ins { h, reads := rdsP [o.s1, o.s2], writes := wr o.d (some 1) } s (·.put o.d (f ((s.part s.cur).srcP o.s1) ((s.part s.cur).srcP o.s2))) :=
  gives_of_body he rfl

/-- Settles O7: CMP writes the truth of its condition, the predicate logic works on 64 lanes at once. -/
theorem comparesAndPredicates : Obligations.ComparesAndPredicates := by
  unfold Obligations.ComparesAndPredicates
  intro h c o s
  refine ⟨?cmp, ?pand, ?por, ?pxor, gives_of_body (exec_pnot h o s) rfl, gives_of_body (exec_pmov h o s) rfl⟩
  case cmp =>
    have hcmp := exec_cmp h o s c
    simp only [execCmp, icond_64] at hcmp
    exact gives_of_body hcmp rfl
  case pand => exact (gives_of_exec_eq_predB (exec_pand h o s) :)
  case por => exact (gives_of_exec_eq_predB (exec_por h o s) :)
  case pxor => exact (gives_of_exec_eq_predB (exec_pxor h o s) :)

/-! ## Scalar floating point (R122 to R124) -/

/-- What a scalar floating-point operation leaves of the acting part: its code, zero-extended, and its flags. -/
abbrev Part.putF (p : Part) (d : Dst) (r : FRes) : Part := (p.put d (BitVec.ofNat 64 r.code)).orFlags r.flags

theorem gives_of_exec_eq_fpOp {ins : Instr} {h : Hd} {o : OpC} {l : List Src} {lat : Option Nat} {sr : Nat} {f : Fmt → RCtl → List Nat → FRes} {s : State}
    (he : exec ins s = fpOp h o l lat sr f s) :
    Gives ins { h, reads := rds l, writes := wr o.d lat, sr } s
      (·.putF o.d (f (fmtS o.mod) ((s.part s.cur).rctl 64 0) (l.map ((s.part s.cur).srcT (.flt (fmtS o.mod)))))) :=
  gives_of_body he rfl

section
variable (h : Hd) (o : OpC) (s : State)

theorem exec_fadd : exec (.fadd h o) s = fpOp h o [o.s1, o.s2] (some 4) 1 (fun f c => op2 (addF f c)) s := rfl
theorem exec_fsub : exec (.fsub h o) s = fpOp h o [o.s1, o.s2] (some 4) 1 (fun f c => op2 (subF f c)) s := rfl
theorem exec_fmul : exec (.fmul h o) s = fpOp h o [o.s1, o.s2] (some 4) 1 (fun f c => op2 (mulF f c)) s := rfl
theorem exec_fma : exec (.fma h o) s = fpOp h o [o.s1, o.s2, o.s3] (some 4) 1 (fun f c => op3 (fmaF f c)) s := rfl
theorem exec_fdiv : exec (.fdiv h o) s =
    fpOp h o [o.s1, o.s2] none 1 (fun f c => op2 fun a b => divF f c (decodeFZ f c.fz a) (decodeFZ f c.fz b)) s := rfl
theorem exec_fsqrt : exec (.fsqrt h o) s = fpOp h o [o.s1] none 1 (fun f c => op1 fun a => sqrtF f c (decodeFZ f c.fz a)) s := rfl
theorem exec_fmin : exec (.fmin h o) s = fpOp h o [o.s1, o.s2] (some 4) 0 (fun f c => op2 (minMaxF f c.fz false)) s := rfl
theorem exec_fmax : exec (.fmax h o) s = fpOp h o [o.s1, o.s2] (some 4) 0 (fun f c => op2 (minMaxF f c.fz true)) s := rfl
theorem exec_fcmp (c : FCond) : exec (.fcmp h c o) s = execFcmp h c o s := rfl
theorem exec_fcvt : exec (.fcvt h o) s = execFcvt h o s := rfl
end

/-- R47: a conversion between integers does not round. -/
theorem cvtRounds_eq (dst src : CTy) : cvtRounds dst src = !(dst.isInt && src.isInt) := by simp [cvtRounds, Bool.not_and]

theorem sr_of_cvtRounds (dst src : CTy) (n : Nat) : (if cvtRounds dst src then n else 0) = if dst.isInt && src.isInt then 0 else n := by
  rw [cvtRounds_eq]
  cases dst.isInt && src.isInt <;> rfl

/-- Settles O8: each operation is one rounding of the codes of its sources. -/
theorem scalarFloat : Obligations.ScalarFloat := by
  unfold Obligations.ScalarFloat
  intro h c o s
  refine ⟨?fadd, ?fsub, ?fmul, ?fma, ?fdiv, ?fsqrt, ?fmin, ?fmax, gives_of_body (exec_fcmp h o s c) rfl, ?fcvt⟩
  case fadd => exact (gives_of_exec_eq_fpOp (exec_fadd h o s) :)
  case fsub => exact (gives_of_exec_eq_fpOp (exec_fsub h o s) :)
  case fmul => exact (gives_of_exec_eq_fpOp (exec_fmul h o s) :)
  case fma => exact (gives_of_exec_eq_fpOp (exec_fma h o s) :)
  case fdiv => exact (gives_of_exec_eq_fpOp (exec_fdiv h o s) :)
  case fsqrt => exact (gives_of_exec_eq_fpOp (exec_fsqrt h o s) :)
  case fmin => exact (gives_of_exec_eq_fpOp (exec_fmin h o s) :)
  case fmax => exact (gives_of_exec_eq_fpOp (exec_fmax h o s) :)
  case fcvt =>
    have hcvt := exec_fcvt h o s
    simp only [execFcvt, sr_of_cvtRounds] at hcvt
    exact gives_of_body hcvt rfl

end Sys2Proof.Machine
end

section
/-! PROOFS. The vector families: conversions, cross-lane operations, floating point (R134 to R143). -/

namespace Sys2Proof.Machine
open Sys2Proof

section
variable (h : Hd) (o : OpC) (s : State)

theorem exec_vcvt : exec (.vcvt h o) s = execVcvt h o s := rfl
theorem exec_vperm : exec (.vperm h o) s = execVperm h o s := rfl
theorem exec_vred : exec (.vred h o) s = execVred h o s := rfl
theorem exec_vscan : exec (.vscan h o) s = execVscan h o s := rfl
theorem exec_vext : exec (.vext h o) s = execVext h o s := rfl
theorem exec_vins : exec (.vins h o) s = execVins h o s := rfl
theorem exec_vcomp : exec (.vcomp h o) s = execVcomp h o s := rfl
theorem exec_vexpd : exec (.vexpd h o) s = execVexpd h o s := rfl

theorem exec_vfadd : exec (.vfadd h o) s = vFp h o [o.s1, o.s2] (fmtV o.mod) 4 (32 / (fmtV o.mod).width) (fun c => op2 (addF (fmtV o.mod) c)) s := rfl
theorem exec_vfsub : exec (.vfsub h o) s = vFp h o [o.s1, o.s2] (fmtV o.mod) 4 (32 / (fmtV o.mod).width) (fun c => op2 (subF (fmtV o.mod) c)) s := rfl
theorem exec_vfmul : exec (.vfmul h o) s = vFp h o [o.s1, o.s2] (fmtV o.mod) 4 (32 / (fmtV o.mod).width) (fun c => op2 (mulF (fmtV o.mod) c)) s := rfl
theorem exec_vfma :
    exec (.vfma h o) s = vFp h o [o.s1, o.s2, o.s3] (fmtV o.mod) 4 (32 / (fmtV o.mod).width) (fun c => op3 (fmaF (fmtV o.mod) c)) s := rfl
theorem exec_vfmin : exec (.vfmin h o) s = vFp h o [o.s1, o.s2] (fmtV o.mod) 4 0 (fun c => op2 (minMaxF (fmtV o.mod) c.fz false)) s := rfl
theorem exec_vfmax : exec (.vfmax h o) s = vFp h o [o.s1, o.s2] (fmtV o.mod) 4 0 (fun c => op2 (minMaxF (fmtV o.mod) c.fz true)) s := rfl
theorem exec_vfcmp (c : FCond) : exec (.vfcmp h c o) s = execVfcmp h c o s := rfl
theorem exec_vrcp : exec (.vrcp h o) s = vFn h o (fun f c x => divF f c (.fin false 1 0) x) s := rfl
theorem exec_vrsq : exec (.vrsq h o) s = vFn h o rsqrtF s := rfl
theorem exec_vexp2 : exec (.vexp2 h o) s = vFn h o exp2F s := rfl
theorem exec_vlog2 : exec (.vlog2 h o) s = vFn h o log2F s := rfl
end

/-! ## Bodies that write a vector destination and flags -/

theorem putV_bind {α : Type} (d : Dst) (v : VReg) (f : Unit → M α) (s : State) : (putV d v >>= f) s = f () (s.modPart s.cur (·.putVec d v)) := rfl

/-- A vector result and its flags are one change of the acting part. -/
theorem putV_orFlags_done {d : Dst} {v : VReg} {fl : Nat} {s : State} :
    (do putV d v
        setMine fun p => p.orFlags fl
        pure .done : M Flow) s = .ok (.done, s.modPart s.cur fun q => (q.putVec d v).orFlags fl) := by
  simp only [putV_bind, setMine_bind, State.modPart_cur, State.modPart_modPart, pureM_run]

section
variable {ins : Instr} {i : Iss} {s : State} {body : W64 → M Flow} {d : Dst} {v : Part → VReg}

theorem gives_putVec (he : exec ins s = issue i body s)
    (hb : body (lanesFor s i) s = (do putV d (v (s.part s.cur)); pure .done : M Flow) s) : Gives ins i s fun q => q.putVec d (v q) :=
  gives_of_body he (hb.trans rfl)

theorem gives_putVec_orFlags {fl : Nat} (he : exec ins s = issue i body s)
    (hb : body (lanesFor s i) s = (do putV d (v (s.part s.cur)); setMine fun p => p.orFlags fl; pure .done : M Flow) s) :
    Gives ins i s fun q => (q.putVec d (v q)).orFlags fl := by
  have hone : s.modPart s.cur (fun q => (q.putVec d (v q)).orFlags fl) = s.modPart s.cur fun q => (q.putVec d (v (s.part s.cur))).orFlags fl := rfl
  exact gives_of_body he ((hb.trans putV_orFlags_done).trans (by rw [hone]))
end

/-! ## VCVT (R134) -/

section
variable {h : Hd} {o : OpC} {n : BitVec 6} {s : State}

/-- How a VCVT issues whose destination is no stream. -/
abbrev vcvtIss (h : Hd) (o : OpC) : Iss :=
  { h, reads := rds [o.s1] ++ (dstReg o.d).toList, writes := wr o.d (some 4), lanes := true
    sr := if (ctyOf (o.mod.toNat / 16)).isInt && (ctyOf (o.mod.toNat % 16)).isInt then 0 else 32 / (ctyOf (o.mod.toNat / 16)).width }

/-- The elements of a conversion and their flags, under the lanes of a mask. -/
abbrev Part.converted (p : Part) (o : OpC) (n : BitVec 6) (mask : W64) : VReg × Nat :=
  let dt := ctyOf (o.mod.toNat / 16)
  let st := ctyOf (o.mod.toNat % 16)
  mapElemsF (p.rdDstV o.d) mask dt.width fun d =>
    match cvtSrc st.width dt.width (litInt n).toNat d with
    | none => ⟨elemOf (p.rdDstV o.d) dt.width d, 0⟩
    | some e => convertC (p.rctl (d * dt.width / 32) (d * dt.width % 32 / dt.width)) dt st ((p.vsrc st o.s1).elem st.width e)

/-- The parts that a conversion can name: as many as the wider element holds of the narrower. -/
abbrev convParts (o : OpC) : Nat :=
  max (ctyOf (o.mod.toNat % 16)).width (ctyOf (o.mod.toNat / 16)).width / min (ctyOf (o.mod.toNat % 16)).width (ctyOf (o.mod.toNat / 16)).width

/-- The body of a conversion traps where the part does not exist, and else writes its elements and their flags. -/
theorem exec_vcvt_of_bare (hd : ∃ v : Fin 64, o.d = .v v ∧ (s.part s.cur).bound v = false) (hn : o.s2 = .lit n) :
    ∃ body, exec (.vcvt h o) s = issue (vcvtIss h o) body s ∧
      (∀ mask, litInt n < 0 ∨ convParts o ≤ (litInt n).toNat → body mask s = .error (.trap (valueTrap (s.part s.cur)))) ∧
      (∀ mask, ¬(litInt n < 0 ∨ convParts o ≤ (litInt n).toNat) → body mask s = (do
        putV o.d ((s.part s.cur).converted o n mask).1
        setMine fun p => p.orFlags ((s.part s.cur).converted o n mask).2
        pure .done : M Flow) s) := by
  obtain ⟨d, s1, s2, s3, mod⟩ := o
  obtain ⟨v, rfl, hbare⟩ := hd
  obtain rfl := hn
  have hcvt := exec_vcvt h ⟨.v v, s1, .lit n, s3, mod⟩ s
  simp only [execVcvt, hbare, sr_of_cvtRounds, Bool.false_eq_true, if_false] at hcvt
  refine ⟨_, hcvt, fun mask hbad => ?_, fun mask hok => ?_⟩
  · rw [if_pos hbad]
    rfl
  · rw [if_neg hok]
    rfl

theorem gives_vcvt (hd : ∃ v : Fin 64, o.d = .v v ∧ (s.part s.cur).bound v = false) (hn : o.s2 = .lit n) (hlo : 0 ≤ litInt n)
    (hhi : (litInt n).toNat < convParts o) :
    Gives (.vcvt h o) (vcvtIss h o) s fun q =>
      (q.putVec o.d ((s.part s.cur).converted o n (lanesFor s (vcvtIss h o))).1).orFlags ((s.part s.cur).converted o n (lanesFor s (vcvtIss h o))).2 := by
  obtain ⟨body, he, -, hok⟩ := exec_vcvt_of_bare (h := h) hd hn
  exact gives_of_body he ((hok _ (not_or.mpr ⟨not_lt.mpr hlo, not_le.mpr hhi⟩)).trans putV_orFlags_done)

theorem exec_vcvt_value (hd : ∃ v : Fin 64, o.d = .v v ∧ (s.part s.cur).bound v = false) (hn : o.s2 = .lit n)
    (hbad : litInt n < 0 ∨ convParts o ≤ (litInt n).toNat) (hi : issues s (vcvtIss h o) = true) : exec (.vcvt h o) s = valueOutcome s := by
  obtain ⟨body, he, hvalue, -⟩ := exec_vcvt_of_bare (h := h) hd hn
  exact he.trans (issue_value hi (hvalue _ hbad))
end

/-- Settles O10: a part that exists is converted under its lanes; another traps before anything is read. -/
theorem vectorConvert : Obligations.VectorConvert := by
  unfold Obligations.VectorConvert
  intro h o n s p dt st i r hd hn
  exact ⟨fun hlo hhi => gives_vcvt hd hn hlo hhi, fun hbad hi => exec_vcvt_value hd hn hbad hi⟩

/-! ## Cross-lane operations (R135 to R139) -/

section
variable {h : Hd} {o : OpC} {s : State}

theorem gives_vred {r fl : Nat} {rest : List (Option Nat × Nat)} {i : Iss}
    (hi : i = { h, reads := rds [o.s1], writes := wr o.d (some 6), lanes := true, sr := if o.mod.toNat % 16 = 8 then 6 else 0 })
    (hred : redTree (o.mod.toNat % 16) (s.part s.cur).rctl 6 1 (terms ((s.part s.cur).vreg o.s1) (lanesFor s i)) = (some r, fl) :: rest) :
    Gives (.vred h o) i s fun q => (q.put o.d (if o.mod.toNat % 16 ≤ 2 then sext64 32 r else BitVec.ofNat 64 r)).orFlags fl := by
  subst hi
  refine gives_of_body (exec_vred h o s) ?_
  simp only [myPart_bind, hred]
  rfl

/-- Whether a destination is a stream, as the bodies that read their D ask. -/
def Part.streamDst (p : Part) (d : Dst) : Bool :=
  match d with
  | .v n => p.bound n
  | _ => false

theorem streamDst_of_bare {p : Part} {d : Dst} (hbare : (match d with | .v n => !p.bound n | _ => true) = true) : p.streamDst d = false := by
  cases d with
  | v n => exact (Bool.not_eq_true' _).mp hbare
  | s _ => rfl
  | p _ => rfl
  | none => rfl

end
theorem rds_pair_right {a b : Src} {r : Reg} (hr : r ∈ rds [b]) : r ∈ rds [a, b] := by
  show r ∈ List.filterMap srcReg ([a] ++ [b])
  rw [List.filterMap_append]
  exact List.mem_append_right _ hr

theorem early_eq_false {p : Part} {r : Reg} (h : p.stallchk = false ∨ (tracked p r && sbEarly p.sb r) = false) : p.early r = false := by
  rw [Part.early, Bool.and_assoc, Bool.and_eq_false_iff]
  exact h

/-- What issues reads nothing early. -/
theorem notEarly_of_issues {s : State} {i : Iss} (hi : issues s i = true) :
    (s.part s.cur).stallchk = false ∨ ∀ r ∈ i.allReads, (tracked (s.part s.cur) r && sbEarly (s.part s.cur).sb r) = false := by
  simp only [issues, Bool.and_eq_true, Bool.or_eq_true, Bool.not_eq_true', List.all_eq_true] at hi
  obtain ⟨⟨⟨⟨⟨-, hreads⟩, -⟩, -⟩, -⟩, -⟩ := hi
  exact hreads

/-- VINS, with its two questions by name: whether S2 is read early, and whether D is a stream. -/
theorem exec_vins_unknown (h : Hd) (o : OpC) (s : State) : exec (.vins h o) s = issue
    { h, reads := rds [o.s1, o.s2] ++ (if (s.part s.cur).streamDst o.d then [] else (dstReg o.d).toList), writes := wr o.d (some 6), lanes := true
      lane := if (s.part s.cur).stallchk && (rds [o.s2]).any fun r => tracked (s.part s.cur) r && sbEarly (s.part s.cur).sb r then none
        else some (((s.part s.cur).src 0 o.s2).toNat % 64) }
    (fun _ => do
      let p ← myPart
      putV o.d (mapElems (p.rdDstV o.d) (BitVec.ofNat 64 (2 ^ (((s.part s.cur).src 0 o.s2).toNat % 64))) 32 fun _ => (p.src 0 o.s1).toNat % 2 ^ 32)
      pure .done) s := rfl

/-- VCOMP reads its D in the form .m, where D is no stream. -/
theorem exec_vcomp_reads (h : Hd) (o : OpC) (s : State) : exec (.vcomp h o) s = issue
    { h, reads := rds [o.s1] ++ (if o.mod.getLsbD 0 && !(s.part s.cur).streamDst o.d then (dstReg o.d).toList else []), writes := wr o.d (some 6)
      lanes := true }
    (fun sel => do
      let p ← myPart
      putV o.d (mapElems (p.rdDstV o.d) ones64 32 fun L =>
        match (selected (p.vreg o.s1) sel)[L]? with
        | some x => x
        | none => if o.mod.getLsbD 0 then elemOf (p.rdDstV o.d) 32 L else 0)
      pure .done) s := rfl

section
variable {h : Hd} {o : OpC} {s : State}

/-- VINS knows the lane that it writes where S2 is not read early. -/
theorem exec_vins_of_bare (hbare : (match o.d with | .v n => !(s.part s.cur).bound n | _ => true) = true)
    (hearly : (s.part s.cur).stallchk = false ∨ ∀ r ∈ rds [o.s2], (tracked (s.part s.cur) r && sbEarly (s.part s.cur).sb r) = false) :
    exec (.vins h o) s = issue
      { h, reads := rds [o.s1, o.s2] ++ (dstReg o.d).toList, writes := wr o.d (some 6), lanes := true
        lane := some (((s.part s.cur).src 0 o.s2).toNat % 64) }
      (fun _ => do
        let p ← myPart
        putV o.d (mapElems (p.rdDstV o.d) (BitVec.ofNat 64 (2 ^ (((s.part s.cur).src 0 o.s2).toNat % 64))) 32 fun _ => (p.src 0 o.s1).toNat % 2 ^ 32)
        pure .done) s := by
  have hknown : ((s.part s.cur).stallchk && (rds [o.s2]).any fun r => tracked (s.part s.cur) r && sbEarly (s.part s.cur).sb r) = false := by
    obtain hoff | hall := hearly
    · rw [hoff, Bool.false_and]
    · rw [List.any_eq_false.mpr fun r hr => ne_true_of_eq_false (hall r hr), Bool.and_false]
  refine (exec_vins_unknown h o s).trans ?_
  simp only [hknown, streamDst_of_bare hbare, Bool.false_eq_true, if_false]

theorem exec_vcomp_of_bare (hbare : (match o.d with | .v n => !(s.part s.cur).bound n | _ => true) = true) :
    ∃ body, exec (.vcomp h o) s = issue
        { h, reads := rds [o.s1] ++ (if o.mod.getLsbD 0 then (dstReg o.d).toList else []), writes := wr o.d (some 6), lanes := true } body s ∧
      ∀ sel, body sel s = (do
        putV o.d (mapElems ((s.part s.cur).rdDstV o.d) ones64 32 fun L =>
          match (selected ((s.part s.cur).vreg o.s1) sel)[L]? with
          | some x => x
          | none => if o.mod.getLsbD 0 then elemOf ((s.part s.cur).rdDstV o.d) 32 L else 0)
        pure .done : M Flow) s := by
  have he := exec_vcomp_reads h o s
  simp only [streamDst_of_bare hbare, Bool.not_false, Bool.and_true] at he
  exact ⟨_, he, fun _ => rfl⟩

end

/-- Settles O11: each member's body writes the elements that the statement names. -/
theorem vectorCrossLane : Obligations.VectorCrossLane := by
  unfold Obligations.VectorCrossLane
  intro h o s
  dsimp only
  refine ⟨?vperm, fun r fl rest hred => gives_vred rfl hred, ?vscan,
    gives_of_body (exec_vext h o s) rfl, fun hbare => ⟨?vins, fun hlane hearly => ?inactive⟩, fun hbare => ?vcomp, ?vexpd⟩
  case vperm => exact (gives_of_exec_eq_mapElems (exec_vperm h o s) :)
  case vexpd => exact gives_putVec (exec_vexpd h o s) rfl
  case vscan => exact gives_putVec_orFlags (exec_vscan h o s) rfl
  case vins =>
    intro hi
    have hread := notEarly_of_issues hi
    exact gives_putVec (exec_vins_of_bare hbare (hread.imp_right fun hall r hr =>
      hall r (List.mem_append_right _ (List.mem_append_left _ (rds_pair_right hr))))) rfl hi
  case inactive =>
    rw [exec_vins_of_bare hbare (hearly.imp_right fun hall r hr => hall r (List.mem_append_right _ hr))]
    exact issue_not_effective _ (fun r hr => early_eq_false (hearly.imp_right fun hall => hall r (List.mem_append_left _ hr))) hlane
  case vcomp =>
    obtain ⟨body, he, hb⟩ := exec_vcomp_of_bare (h := h) hbare
    exact gives_putVec he (hb _)

/-! ## Floating point (R140 to R143) -/

section
variable {ins : Instr} {h : Hd} {o : OpC} {s : State}

/-- The elements of a floating-point operation and their flags, each under the control of its lane and of its place there. -/
abbrev Part.floats (p : Part) (srcs : List Src) (fm : Fmt) (f : RCtl → List Nat → FRes) (old : VReg) (mask : W64) : VReg × Nat :=
  mapElemsF old mask fm.width fun e =>
    f (p.rctl (e * fm.width / 32) (e * fm.width % 32 / fm.width)) ((srcs.map (p.vsrc (.flt fm))).map fun x => x.elem fm.width e)

theorem vFp_eq_issue (srcs : List Src) (fm : Fmt) (lat sr : Nat) (f : RCtl → List Nat → FRes) :
    vFp h o srcs fm lat sr f s = issue { h, reads := rds srcs, writes := wr o.d (some lat), lanes := true, sr } (fun mask => do
      let p ← myPart
      putV o.d (p.floats srcs fm f (p.oldV o.d) mask).1
      setMine fun q => q.orFlags (p.floats srcs fm f (p.oldV o.d) mask).2
      pure .done) s := rfl

theorem gives_of_exec_eq_vFp {srcs : List Src} {fm : Fmt} {lat sr : Nat} {f : RCtl → List Nat → FRes} (he : exec ins s = vFp h o srcs fm lat sr f s) :
    let i : Iss := { h, reads := rds srcs, writes := wr o.d (some lat), lanes := true, sr }
    Gives ins i s fun q =>
      let r := (s.part s.cur).floats srcs fm f (q.oldV o.d) (lanesFor s i)
      (q.putVec o.d r.1).orFlags r.2 := by
  intro i hi
  have hdone := gives_putVec_orFlags (v := fun _ => ((s.part s.cur).floats srcs fm f ((s.part s.cur).oldV o.d) (lanesFor s i)).1) (he.trans (vFp_eq_issue ..)) rfl hi
  rw [hdone, doneWith_eq_setPart, doneWith_eq_setPart]

end

/-- The place of a comparison's results: a predicate takes a bit for each element, a vector all ones or zeros. -/
def Part.putBits (p : Part) (d : Dst) (mask : W64) (w : Nat) (f : Nat → Bool) : Part :=
  match d with
  | .p i => p.setP i (mapBits (p.getP i) mask f)
  | .v i => p.setV i (mapElems (p.getV i) mask w fun j => if f j then 2 ^ w - 1 else 0)
  | _ => p

theorem putCond_bind {α : Type} (d : Dst) (mask : W64) (w : Nat) (f : Nat → Bool) (g : Unit → M α) (s : State) :
    (putCond d mask w f >>= g) s = g () (s.modPart s.cur (·.putBits d mask w f)) := rfl

theorem putCond_orFlags_done {d : Dst} {mask : W64} {w : Nat} {f : Nat → Bool} {fl : Nat} {s : State} :
    (do putCond d mask w f
        setMine fun p => p.orFlags fl
        pure .done : M Flow) s = .ok (.done, s.modPart s.cur fun q => (q.putBits d mask w f).orFlags fl) := by
  simp only [putCond_bind, setMine_bind, State.modPart_cur, State.modPart_modPart, pureM_run]

/-- The elements of a source of VFCMP, as numbers. -/
def Part.floatAt (p : Part) (fm : Fmt) (x : Src) (j : Nat) : FV := decodeFZ fm p.fz ((p.vsrc (.flt fm) x).elem fm.width j)

/-- The flags of a comparison's active lanes. -/
def Part.cmpFlags (p : Part) (c : FCond) (o : OpC) (mask : W64) : Nat :=
  let fm := fmtV o.mod
  (List.range (2048 / fm.width)).foldl (fun a j =>
    if mask.getLsbD (j * fm.width / 32) then a ||| fcmpFlags c (p.floatAt fm o.s1 j) (p.floatAt fm o.s2 j) else a) 0

theorem exec_vfcmp_eq_issue (h : Hd) (o : OpC) (s : State) (c : FCond) :
    exec (.vfcmp h c o) s = issue { h, reads := rds [o.s1, o.s2], writes := wr o.d (some 4), lanes := true } (fun mask => do
      let p ← myPart
      putCond o.d mask (fmtV o.mod).width fun j => fcondV c (p.floatAt (fmtV o.mod) o.s1 j) (p.floatAt (fmtV o.mod) o.s2 j)
      setMine fun q => q.orFlags (p.cmpFlags c o mask)
      pure .done) s := rfl

theorem gives_vfcmp (h : Hd) (c : FCond) (o : OpC) (s : State) :
    let i : Iss := { h, reads := rds [o.s1, o.s2], writes := wr o.d (some 4), lanes := true }
    Gives (.vfcmp h c o) i s fun q => Part.orFlags
      (q.putBits o.d (lanesFor s i) (fmtV o.mod).width fun j =>
        fcondV c ((s.part s.cur).floatAt (fmtV o.mod) o.s1 j) ((s.part s.cur).floatAt (fmtV o.mod) o.s2 j))
      ((s.part s.cur).cmpFlags c o (lanesFor s i)) :=
  gives_of_body (exec_vfcmp_eq_issue h o s c) putCond_orFlags_done

/-- Settles O12: each member is one map over the elements of its sources, with the flags of its active lanes. -/
theorem vectorFloat : Obligations.VectorFloat := by
  unfold Obligations.VectorFloat
  intro h c o s
  refine ⟨?vfadd, ?vfsub, ?vfmul, ?vfma, ?vfmin, ?vfmax, ?vfcmp, ?vrcp, ?vrsq, ?vexp2, ?vlog2⟩
  case vfadd => exact (gives_of_exec_eq_vFp (exec_vfadd h o s) :)
  case vfsub => exact (gives_of_exec_eq_vFp (exec_vfsub h o s) :)
  case vfmul => exact (gives_of_exec_eq_vFp (exec_vfmul h o s) :)
  case vfma => exact (gives_of_exec_eq_vFp (exec_vfma h o s) :)
  case vfmin => exact (gives_of_exec_eq_vFp (exec_vfmin h o s) :)
  case vfmax => exact (gives_of_exec_eq_vFp (exec_vfmax h o s) :)
  case vfcmp => exact (gives_vfcmp h c o s :)
  case vrcp => exact (gives_of_exec_eq_vFp (exec_vrcp h o s) :)
  case vrsq => exact (gives_of_exec_eq_vFp (exec_vrsq h o s) :)
  case vexp2 => exact (gives_of_exec_eq_vFp (exec_vexp2 h o s) :)
  case vlog2 => exact (gives_of_exec_eq_vFp (exec_vlog2 h o s) :)

end Sys2Proof.Machine
end

section
/-! PROOFS. The control family: next lines, jumps, links and counts (R64, R106 to R111). -/

namespace Sys2Proof.Machine
open Sys2Proof

section
variable {s t : State} {i : Iss} {body : W64 → M Flow}

theorem issue_jumps {a : W64} (hi : issues s i = true) (hb : body (lanesFor s i) s = .ok (.jump a, t)) : issue i body s = jumped i s t a := by
  rw [issue_of_issues body hi, hb]
  rfl

/-- A trap that is no deferred one is taken as it is. -/
theorem issue_traps {e : Trap} (hcls : e.cls = 0) (hi : issues s i = true) (hb : body (lanesFor s i) s = .error (.trap e)) :
    issue i body s = .next (takeTrap s s.cur e) := by
  rw [issue_stops hi hb, stopped, if_neg (by rw [hcls]; decide)]

theorem listed_of_issues (hi : issues s i = true) : (mfind s.parts s.cur).isSome = true := by
  simp only [issues, Bool.and_eq_true] at hi
  obtain ⟨⟨⟨⟨⟨hlisted, -⟩, -⟩, -⟩, -⟩, -⟩ := hi
  exact hlisted
end

section
variable (h : Hd) (q : Pred) (j : OpJ) (o : OpA) (s : State)

theorem exec_nop : exec (.nop h) s = issue { h } (fun _ => pure .done) s := rfl
theorem exec_nopPred : exec (.nopPred h q) s = issue { h, q := some q } (fun _ => pure .done) s := rfl
theorem exec_yield : exec (.yield h) s = issue { h, yields := true } (fun _ => pure .done) s := rfl
theorem exec_yieldPred : exec (.yieldPred h q) s = issue { h, q := some q, yields := true } (fun _ => pure .done) s := rfl
theorem exec_bra : exec (.bra h j) s = execBra h j s := rfl
theorem exec_call : exec (.call h j) s = execCall h j s := rfl
theorem exec_loop : exec (.loop h j) s = execLoop h j s := rfl
theorem exec_jmpi : exec (.jmpi h o) s = jmpi h o.d o.s1 s := rfl
theorem exec_ret : exec (.ret h) s = jmpi h .none (.s 1) s := rfl
end

/-- An instruction with no effect completes. -/
theorem leaves_of_exec_eq_pure {ins : Instr} {i : Iss} {s : State} (he : exec ins s = issue i (fun _ => pure .done) s) : Leaves ins i s s :=
  fun hi => he.trans (issue_done hi rfl)

/-! ## Format J (R106, R107, R109) -/

section
variable {h : Hd} {o : OpJ} {s : State}

/-- What LOOP leaves: its count is written, and it goes to its target where that is not zero. -/
theorem exec_loop_of_issues (hi : issues s { h, reads := [.s o.cond], writes := [(.s o.cond, some 1)] } = true) :
    exec (.loop h o) s =
      if (s.part s.cur).rdS o.cond - 1 ≠ 0 then
        jumped { h, reads := [.s o.cond], writes := [(.s o.cond, some 1)] } s (s.modPart s.cur (·.setS o.cond ((s.part s.cur).rdS o.cond - 1)))
          (target (s.part s.cur).pc o)
      else doneWith { h, reads := [.s o.cond], writes := [(.s o.cond, some 1)] } s (·.setS o.cond ((s.part s.cur).rdS o.cond - 1)) := by
  rw [exec_loop, execLoop]
  split
  case isTrue hn =>
    refine issue_jumps hi ?_
    simp only [myPart_bind, setMine_bind, if_pos hn, pureM_run]
  case isFalse hn =>
    refine issue_done hi ?_
    simp only [myPart_bind, setMine_bind, if_neg hn, pureM_run]
end

/-! ## JMPI and RET (R108, R103) -/

section
variable {h : Hd} {d : Dst} {x : Src} {s : State}

theorem jmpi_even (hf : (s.part s.cur).fwdNow = none) (hi : issues s { h, reads := rds [x], writes := wr d (some 1) } = true)
    (ht : ((s.part s.cur).src 0 x).getLsbD 0 = false) :
    jmpi h d x s = jumped { h, reads := rds [x], writes := wr d (some 1) } s (s.modPart s.cur (·.put d (s.part s.cur).npc)) ((s.part s.cur).src 0 x) := by
  simp only [jmpi, hf, Option.isSome_none, Bool.false_eq_true, if_false]
  refine issue_jumps hi ?_
  simp only [myPart_bind, ht, Bool.not_false, Bool.and_false, Bool.false_eq_true, if_false]
  rfl

theorem jmpi_odd (hf : (s.part s.cur).fwdNow = none) (hi : issues s { h, reads := rds [x], writes := wr d (some 1) } = true)
    (ht : ((s.part s.cur).src 0 x).getLsbD 0 = true) : jmpi h d x s = .next (takeTrap s s.cur ⟨0x04, 0, (s.part s.cur).src 0 x, none⟩) := by
  simp only [jmpi, hf, Option.isSome_none, Bool.false_eq_true, if_false]
  refine issue_traps rfl hi ?_
  simp only [myPart_bind, ht, Bool.not_false, Bool.and_true, if_true]
  rfl

theorem jmpi_forwarded (hf : (s.part s.cur).fwdNow.isSome = true) (hi : issues s { h, writes := wr d (some 1) } = true) :
    jmpi h d x s = jumped { h, writes := wr d (some 1) } s (s.modPart s.cur (·.put d (s.part s.cur).npc)) ((s.part s.cur).src 0 x) := by
  simp only [jmpi, hf, if_true]
  refine issue_jumps hi ?_
  simp only [myPart_bind, Bool.not_true, Bool.false_and, Bool.false_eq_true, if_false]
  rfl
end

/-- RET writes no link. -/
theorem modPart_put_none {s : State} {v : W64} (hl : (mfind s.parts s.cur).isSome = true) : s.modPart s.cur (·.put .none v) = s :=
  State.modPart_id s s.cur _ hl rfl

/-- Settles O13: the bodies of the family, each at its target. -/
theorem controlFlow : Obligations.ControlFlow := by
  unfold Obligations.ControlFlow
  refine ⟨fun s => rfl, fun h q s => ?pure, fun h o s => ?formatJ, fun h o s => ?formatA⟩
  case pure =>
    exact ⟨leaves_of_exec_eq_pure (exec_nop h s), leaves_of_exec_eq_pure (exec_nopPred h q s), leaves_of_exec_eq_pure (exec_yield h s),
      leaves_of_exec_eq_pure (exec_yieldPred h q s)⟩
  case formatJ => exact ⟨fun hi => (exec_bra h o s).trans (issue_jumps hi rfl), fun hi => (exec_call h o s).trans (issue_jumps hi rfl), exec_loop_of_issues⟩
  case formatA =>
    refine ⟨fun hf => ⟨fun hi ht => (exec_jmpi h o s).trans (jmpi_even hf hi ht), fun hi ht => (exec_jmpi h o s).trans (jmpi_odd hf hi ht),
      fun hi ht => ?even, fun hi ht => (exec_ret h s).trans (jmpi_odd (d := .none) (x := .s 1) hf hi ht)⟩,
      fun hf => ⟨fun hi => (exec_jmpi h o s).trans (jmpi_forwarded hf hi), fun hi => ?forwarded⟩⟩
    case even =>
      have hret := jmpi_even (d := .none) (x := .s 1) hf hi ht
      rw [modPart_put_none (listed_of_issues hi)] at hret
      exact (exec_ret h s).trans hret
    case forwarded =>
      have hret := jmpi_forwarded (d := .none) (x := .s 1) hf hi
      rw [modPart_put_none (listed_of_issues hi)] at hret
      exact (exec_ret h s).trans hret

end Sys2Proof.Machine
end

section
/-! PROOFS. Taking a trap (R155, R156): a table of partitions that lists one twice. -/

namespace Sys2Proof.Machine
open Sys2Proof

/-- A state in which the table of partitions lists partition 0 twice: first in a trap handler, and again, where no look-up finds it, joining a leader at its own
place. The group of partition 0 is gathered from the whole table. -/
def listedTwice : State :=
  { State.reset with parts := [(0, { Part.reset with inTrap := true, trappc := 0x100 }), (0, { Part.reset with fmode := .joining })] }

/-- The second entry makes partition 0 a joiner of its own group, which the halt releases to its join address. -/
theorem pc_takeTrap_listedTwice : ((takeTrap listedTwice 0 ⟨0x0D, 0, 0, none⟩).part 0).pc = (listedTwice.part 0).joinAt := by decide +kernel

/-- Refutes O14: the statement ranges over every state. Where the table of partitions lists a part a second time as a joiner, a trap halt releases the part that it
halts, as one of its own group, to its join address, and it does not resume at TRAPPC. -/
theorem not_takeTrap : ¬ Obligations.TakeTrap := by
  unfold Obligations.TakeTrap
  rintro ⟨-, hhalts, -⟩
  obtain ⟨hdouble, -⟩ := hhalts listedTwice 0 ⟨0x0D, 0, 0, none⟩ (by decide) (Or.inl (by decide +kernel)) (by decide)
  obtain ⟨-, -, hpc, -⟩ := hdouble (by decide +kernel)
  have hresume : ((listedTwice.part 0).trappc) = 0x100 := by decide +kernel
  have hboth : (listedTwice.part 0).joinAt = 0x100 := pc_takeTrap_listedTwice.symm.trans (hpc.trans hresume)
  exact absurd hboth (by decide +kernel)

end Sys2Proof.Machine
end

section
/-! PROOFS. Upcalls and the returns from handlers (R158, R165, R166): what leaving a group, undrawing and refetching leave of a part. -/

namespace Sys2Proof.Machine
open Sys2Proof

/-! ## What the steps of an entry change of the part -/

theorem refetch_eq (p : Part) (n : Nat) : ∃ fb fr, p.refetch n = { p with fbuf := fb, freq := fr } := by
  unfold Part.refetch
  split
  · exact ⟨_, _, rfl⟩
  · exact ⟨_, _, rfl⟩

theorem goto_eq (p : Part) (a : W64) (n : Nat) : ∃ fb fr, p.goto a n = { p with pc := a, blocked := none, fbuf := fb, freq := fr } :=
  refetch_eq _ n

theorem replace_eq (n : Nat) (p : Part) (r : Fin 8) (t : Stream) : ∃ st, p.replace n r t = { p with streams := st } := by
  induction n generalizing p r t with
  | zero => exact ⟨p.streams, rfl⟩
  | succ n ih =>
    unfold Part.replace
    split
    · exact ⟨_, rfl⟩
    · obtain ⟨st, hst⟩ := ih { p with streams := p.streams.set r { t with ixs := [] } } _ _
      exact ⟨st, hst⟩

theorem undraw_eq (p : Part) : ∃ st md, p.undraw = { p with streams := st, mdraw := md, hbWait := none } := by
  unfold Part.undraw
  split
  case h_1 r t _ _ =>
    obtain ⟨st, hst⟩ := replace_eq 8 p r t
    exact ⟨st, none, by rw [hst]⟩
  case h_2 => exact ⟨p.streams, p.mdraw, rfl⟩

/-! ## Leaving a group (R101) -/

/-- The part of a follower, or of a part that is in no group, once it has left. -/
def Part.left (p : Part) (a : W64) : Part :=
  { p with pc := a, twill := [], fwdNow := none, fmode := if p.fmode = .following then .free else p.fmode }

/-- A leader's FMASK is all that a follower changes of others; itself it is FREE by then, and no leader. -/
theorem part_foldl_fmask {s : State} {k c : Nat} {f : Part → Part} (g : Nat → Nat) (l : List Nat) (hfree : (s.part k).fmode ≠ .leading) :
    (l.foldl (fun s q => if (s.part (g q)).fmode = .leading && (s.part (g q)).ctx = c then s.modPart (g q) f else s) s).part k = s.part k := by
  induction l generalizing s with
  | nil => rfl
  | cons q l ih =>
    rw [List.foldl_cons]
    split
    case isTrue hlead =>
      have hne : k ≠ g q := by
        rintro rfl
        simp only [Bool.and_eq_true, decide_eq_true_eq] at hlead
        exact hfree hlead.1
      rw [ih (by rw [State.part_modPart_ne s f hne]; exact hfree), State.part_modPart_ne s f hne]
    case isFalse => exact ih hfree

/-- A part without a group that has no forwarded instruction stands where it stands already. -/
theorem left_of_empty {s : State} {k : Nat} (hf : (s.part k).fmode ≠ .following) (ht : (s.part k).twill = []) (hn : (s.part k).fwdNow = none) :
    (s.part k).left (nextForward s k) = s.part k := by
  have hpc : nextForward s k = (s.part k).pc := by
    simp only [nextForward, hn, ht]
    exact if_pos hf
  rw [Part.left, hpc, if_neg hf]
  generalize s.part k = p at ht hn
  cases p
  subst ht hn
  rfl

theorem part_leaveGroup {s : State} {k : Nat} (hj : (s.part k).fmode ≠ .joining) : (leaveGroup s k).part k = (s.part k).left (nextForward s k) := by
  have hsame (hf : (s.part k).fmode ≠ .following) :
      (if (s.part k).twill.isEmpty && (s.part k).fwdNow.isNone then s
        else s.modPart k fun p => { p with pc := nextForward s k, twill := [], fwdNow := none }).part k = (s.part k).left (nextForward s k) := by
    split
    case isTrue hempty =>
      rw [Bool.and_eq_true, List.isEmpty_iff, Option.isNone_iff_eq_none] at hempty
      exact (left_of_empty hf hempty.1 hempty.2).symm
    case isFalse => rw [State.part_modPart, Part.left, if_neg hf]
  cases hm : (s.part k).fmode with
  | following =>
    simp only [leaveGroup, hm]
    rw [part_foldl_fmask (fun q => flatAt (clOf (flatOf k)) (s.part k).leader.val * 4 + q)]
    · rw [State.part_modPart, Part.left, if_pos hm]
    · rw [State.part_modPart]
      exact fun h => nomatch h
  | joining => exact absurd hm hj
  | free =>
    simp only [leaveGroup, hm]
    exact hsame (by rw [hm]; exact fun h => nomatch h)
  | leading =>
    simp only [leaveGroup, hm]
    exact hsame (by rw [hm]; exact fun h => nomatch h)

theorem exists_parts_modPart (s : State) (k : Nat) (f : Part → Part) : ∃ ps, s.modPart k f = { s with parts := ps } := ⟨_, rfl⟩

theorem exists_parts_foldl {β : Type} {f : State → β → State} (hf : ∀ s b, ∃ ps, f s b = { s with parts := ps }) (l : List β) (s : State) :
    ∃ ps, l.foldl f s = { s with parts := ps } := by
  induction l generalizing s with
  | nil => exact ⟨s.parts, rfl⟩
  | cons b l ih =>
    obtain ⟨ps, hps⟩ := hf s b
    obtain ⟨qs, hqs⟩ := ih (f s b)
    exact ⟨qs, by rw [List.foldl_cons, hqs, hps]⟩

/-- Leaving a group changes partitions alone. -/
theorem leaveGroup_eq (s : State) (k : Nat) : ∃ ps, leaveGroup s k = { s with parts := ps } := by
  have hsame (a : W64) :
      ∃ ps, (if (s.part k).twill.isEmpty && (s.part k).fwdNow.isNone then s
        else s.modPart k fun p => { p with pc := a, twill := [], fwdNow := none }) = { s with parts := ps } := by
    split
    · exact ⟨s.parts, rfl⟩
    · exact ⟨_, rfl⟩
  cases hm : (s.part k).fmode with
  | following =>
    simp only [leaveGroup, hm]
    refine exists_parts_foldl (fun t q => ?_) [0, 1, 2] _
    split
    · exact ⟨_, rfl⟩
    · exact ⟨t.parts, rfl⟩
  | joining =>
    simp only [leaveGroup, hm]
    exact ⟨_, rfl⟩
  | free =>
    simp only [leaveGroup, hm]
    exact hsame _
  | leading =>
    simp only [leaveGroup, hm]
    exact hsame _

/-! ## Where a part stands, before and after a drain leaves its core's queue -/

theorem part_dropDrain (s : State) (k j : Nat) : (dropDrain s k).part j = s.part j := by
  unfold dropDrain
  split <;> rfl

theorem dropDrain_eq (s : State) (k : Nat) : ∃ cs, dropDrain s k = { s with cores := cs } := by
  unfold dropDrain
  split
  · exact ⟨_, rfl⟩
  · exact ⟨s.cores, rfl⟩

theorem nextForward_congr {s t : State} (h : ∀ j, t.part j = s.part j) (k : Nat) : nextForward t k = nextForward s k := by
  simp only [nextForward, h]

/-! ## The entry of the upcall runtime (R158) -/

theorem setS_of_ne {p : Part} {i : Fin 64} (hi : i ≠ 0) (v : W64) : p.setS i v = { p with s := p.s.set i v } := if_neg hi

/-- The state in which the entry finds its part: out of its group, with no drain in its core's queue. -/
def atEntry (s : State) (k : Nat) : State := leaveGroup (dropDrain { s with sel := none, issued := false, epoch := s.epoch + 1 } k) k

/-- The part's entry of the upcall runtime, drained and undrawn. -/
def Part.upcalled (p : Part) (info : Nat) (addr time : W64) (seq : Nat) : Part :=
  let p1 := { p with upcallInfo := BitVec.ofNat 11 info, upcallAddr := addr, faultinfo := BitVec.ofNat 11 info, inUp := true, stall := 3, sleep := .awake }
  (((((p1.setS 3 p.fibframe).setS 60 p.pc).setS 61 (BitVec.ofNat 64 info)).setS 62 addr).setS 63 time).goto p.upcallVec seq

theorem pageFault_eq_upcalled {s : State} {k acc reason : Nat} {addr : W64}
    (h : idxOf k ≠ 3 ∧ (s.part k).upcallVec ≠ 0 ∧ (s.part k).inUp = false ∧ (s.part k).inTrap = false ∧ reason ≠ 0x12) :
    pageFault s k acc reason addr = (atEntry s k).setPart k
      (((atEntry s k).part k).drain.undraw.upcalled (acc * 256 + reason) addr (timeAt (atEntry s k) k) (atEntry s k).steps) := if_pos h

theorem pageFault_eq_takeTrap {s : State} {k acc reason : Nat} {addr : W64}
    (h : ¬(idxOf k ≠ 3 ∧ (s.part k).upcallVec ≠ 0 ∧ (s.part k).inUp = false ∧ (s.part k).inTrap = false ∧ reason ≠ 0x12)) :
    pageFault s k acc reason addr = takeTrap s k ⟨0x10, 0, addr, some (acc * 256 + reason)⟩ := if_neg h

theorem part_atEntry {s : State} {k : Nat} (hj : (s.part k).fmode ≠ .joining) : (atEntry s k).part k = (s.part k).left (nextForward s k) := by
  have hdrop (j : Nat) : (dropDrain { s with sel := none, issued := false, epoch := s.epoch + 1 } k).part j = s.part j := part_dropDrain _ k j
  rw [atEntry, part_leaveGroup (by rwa [hdrop]), hdrop, nextForward_congr hdrop]

/-- The entry finds the rest of the state as it was. -/
theorem atEntry_eq (s : State) (k : Nat) : ∃ ps cs, atEntry s k = { s with sel := none, issued := false, epoch := s.epoch + 1, cores := cs, parts := ps } := by
  obtain ⟨cs, hcs⟩ := dropDrain_eq { s with sel := none, issued := false, epoch := s.epoch + 1 } k
  obtain ⟨ps, hps⟩ := leaveGroup_eq (dropDrain { s with sel := none, issued := false, epoch := s.epoch + 1 } k) k
  exact ⟨ps, cs, by rw [atEntry, hps, hcs]⟩

theorem timeAt_atEntry (s : State) (k : Nat) : timeAt (atEntry s k) k = timeAt s k := by
  obtain ⟨ps, cs, h⟩ := atEntry_eq s k
  rw [h]
  rfl

theorem mem_atEntry (s : State) (k : Nat) : (atEntry s k).mem = s.mem := by
  obtain ⟨ps, cs, h⟩ := atEntry_eq s k
  rw [h]

/-- What the upcall entry changes of a part is named; the rest stands as it stood. -/
theorem upcalled_eq (p : Part) (info : Nat) (addr time : W64) (seq : Nat) : ∃ fb fr, p.upcalled info addr time seq = { p with
    upcallInfo := BitVec.ofNat 11 info, upcallAddr := addr, faultinfo := BitVec.ofNat 11 info, inUp := true, stall := 3, sleep := .awake
    pc := p.upcallVec, blocked := none, fbuf := fb, freq := fr
    s := ((((p.s.set 3 p.fibframe).set 60 p.pc).set 61 (BitVec.ofNat 64 info)).set 62 addr).set 63 time } :=
  goto_eq _ p.upcallVec seq

/-- The registers that the upcall entry writes, and those that it leaves. -/
theorem entry_registers (v : Vector W64 64) (a b c d e : W64) :
    let w := ((((v.set 3 a).set 60 b).set 61 c).set 62 d).set 63 e
    w[3] = a ∧ w[60] = b ∧ w[61] = c ∧ w[62] = d ∧ w[63] = e ∧ ∀ i : Fin 64, i.val < 60 → i.val ≠ 3 → w[i] = v[i] := by
  intro w
  refine ⟨by simp [w], by simp [w], by simp [w], by simp [w], by simp [w], fun i hi hi3 => ?_⟩
  simp only [w, Fin.getElem_fin]
  rw [Vector.getElem_set_ne _ _ (by omega), Vector.getElem_set_ne _ _ (by omega), Vector.getElem_set_ne _ _ (by omega), Vector.getElem_set_ne _ _ (by omega),
    Vector.getElem_set_ne _ _ (by omega)]

/-- Settles O15: the entry of the upcall runtime is one change of the part, and so are the returns. -/
theorem upcallAndReturns : Obligations.UpcallAndReturns := by
  unfold Obligations.UpcallAndReturns
  refine ⟨fun s k acc reason addr => ⟨fun hk hv hu ht hr hj hinfo => ?upcall, fun hno => ?trap⟩, fun s k a => ?returns⟩
  case upcall =>
    rw [pageFault_eq_upcalled ⟨hk, hv, hu, ht, hr⟩, State.part_setPart, State.setPart_mem, mem_atEntry, timeAt_atEntry, part_atEntry hj]
    obtain ⟨st, md, hund⟩ := undraw_eq ((s.part k).left (nextForward s k)).drain
    obtain ⟨fb, fr, hup⟩ := upcalled_eq ((s.part k).left (nextForward s k)).drain.undraw (acc * 256 + reason) addr (timeAt s k) (atEntry s k).steps
    rw [hup, hund]
    have hinfo11 : (BitVec.ofNat 11 (acc * 256 + reason)).toNat = acc * 256 + reason := by
      rw [BitVec.toNat_ofNat, Nat.mod_eq_of_lt hinfo]
    obtain ⟨h3, h60, h61, h62, h63, hrest⟩ :=
      entry_registers (s.part k).s (s.part k).fibframe (nextForward s k) (BitVec.ofNat 64 (acc * 256 + reason)) addr (timeAt s k)
    exact ⟨rfl, rfl, ht, hinfo11, rfl, hinfo11, h3, h60, h61, h62, h63, rfl, rfl, rfl, hrest, rfl, rfl, rfl⟩
  case trap =>
    refine pageFault_eq_takeTrap ?_
    rintro ⟨hk, hv, hu, ht, hr⟩
    rcases hno with h | h | h | h | h
    · exact hk h
    · exact hv h
    · exact absurd (hu.symm.trans h) (by decide)
    · exact absurd (ht.symm.trans h) (by decide)
    · exact hr h
  case returns =>
    obtain ⟨fb, fr, ht⟩ := goto_eq { (s.part k).drain with inTrap := false } a s.steps
    obtain ⟨fb', fr', hu⟩ := goto_eq { (s.part k).drain with inUp := false } a s.steps
    have htrap : (trapReturn s k a).part k = _ := (State.part_modPart s k _).trans ht
    have hup : (upcallReturn s k a).part k = _ := (State.part_modPart s k _).trans hu
    dsimp only
    rw [htrap, hup]
    exact ⟨rfl, rfl, rfl, rfl, rfl, rfl, rfl, rfl, rfl, rfl, rfl, rfl, rfl, fun j hj => ⟨State.part_modPart_ne s _ hj, State.part_modPart_ne s _ hj⟩⟩

end Sys2Proof.Machine
end

section
/-! PROOFS. The trap family: TRAP, the returns, CHKPT and FIBSET (R163 to R168, R77). -/

namespace Sys2Proof.Machine
open Sys2Proof

section
variable {s t : State} {i : Iss} {body : W64 → M Flow}

theorem issue_waits (hi : issues s i = true) (hb : body (lanesFor s i) s = .ok (.wait, t)) : issue i body s = .next (waitingStore i s s.cur) := by
  rw [issue_of_issues body hi, hb]
  rfl
end

section
variable (h : Hd) (o : OpB) (s : State)

theorem exec_trap : exec (.trap h o) s = execTrap h o s := rfl
theorem exec_trapret : exec (.trapret h o) s = execTrapret h o s := rfl
theorem exec_upret : exec (.upret h o) s = execUpret h o s := rfl
theorem exec_chkpt : exec (.chkpt h o) s = execChkpt h o s := rfl
theorem exec_fibset : exec (.fibset h o) s = execFibset h o s := rfl
end

section
variable {h : Hd} {o : OpB} {s : State}

/-! ## The returns (R165, R166) -/

theorem exec_trapret_inTrap (hi : issues s { h, reads := if o.s1 = .v 0 then [] else rds [o.s1], keepPass := true } = true)
    (ht : (s.part s.cur).inTrap = true) :
    exec (.trapret h o) s = placedAt { h, reads := if o.s1 = .v 0 then [] else rds [o.s1], keepPass := true } s
      (trapReturn s s.cur (match o.s1 with
        | .v _ => (s.part s.cur).trappc
        | _ => (s.part s.cur).src 0 o.s1 &&& ~~~(1 : W64))) := by
  refine (exec_trapret h o s).trans (issue_placed hi ?_)
  simp only [me_bind, myPart_bind, ht, Bool.not_true, Bool.false_eq_true, if_false, modifyState_bind, pureM_run]
  cases o.s1 <;> rfl

theorem exec_trapret_value (hi : issues s { h, reads := if o.s1 = .v 0 then [] else rds [o.s1], keepPass := true } = true)
    (ht : (s.part s.cur).inTrap = false) : exec (.trapret h o) s = valueOutcome s := by
  refine (exec_trapret h o s).trans (issue_value hi ?_)
  simp only [me_bind, myPart_bind, ht, Bool.not_false, if_true, illegalValue_bind]

theorem exec_upret_inUp (hi : issues s { h, reads := rds [o.s1] } = true) (hu : (s.part s.cur).inUp = true) :
    exec (.upret h o) s = placedAt { h, reads := rds [o.s1] } s (upcallReturn s s.cur ((s.part s.cur).src 0 o.s1 &&& ~~~(1 : W64))) := by
  refine (exec_upret h o s).trans (issue_placed hi ?_)
  simp only [me_bind, myPart_bind, hu, Bool.not_true, Bool.false_eq_true, if_false, modifyState_bind, pureM_run]

theorem exec_upret_value (hi : issues s { h, reads := rds [o.s1] } = true) (hu : (s.part s.cur).inUp = false) :
    exec (.upret h o) s = valueOutcome s := by
  refine (exec_upret h o s).trans (issue_value hi ?_)
  simp only [me_bind, myPart_bind, hu, Bool.not_false, if_true, illegalValue_bind]

/-! ## CHKPT (R160, R167) -/

/-- The part that CHKPT halts for the fabric manager. -/
def Part.checkpointed (p : Part) (d : Dst) : Part :=
  { p with prev := .checkpointing, st := .halted, chkDst := d, chkDone := true, spillDue := p.spillDue || p.spillLater, spillLater := false }

/-- A release of scope sys, and the report of CHKPT's operand. -/
def reported (s : State) (k : Nat) (x : W64) : State :=
  let t := releaseAt s (flatOf k) 5
  { t with chkReports := t.chkReports ++ [(k, some x)] }

/-- What CHKPT leaves: the report, no group, and a part that is halted. -/
def checkpointed (s : State) (k : Nat) (d : Dst) (x : W64) : State := (releaseFollowers (reported s k x) k).modPart k (·.checkpointed d)

theorem releaseFollowers_eq (s : State) (k : Nat) : ∃ ps, releaseFollowers s k = { s with parts := ps } := by
  have hmod (g : State → Part → Part) (s : State) (l : List Nat) : ∃ ps, l.foldl (fun s j => s.modPart j (g s)) s = { s with parts := ps } :=
    exists_parts_foldl (fun t j => exists_parts_modPart t j (g t)) l s
  obtain ⟨ps, hps⟩ := hmod (fun s p => ({ p with fmode := .free }).goto p.joinAt s.steps) s (followersOf s k .joining)
  obtain ⟨qs, hqs⟩ := hmod (fun t p => p.released (s.part k).pc t.steps) { s with parts := ps } (followersOf { s with parts := ps } k .following)
  obtain ⟨rs, hrs⟩ := exists_parts_modPart { s with parts := qs } k fun p => { p with fmask := 0 }
  refine ⟨rs, ?_⟩
  rw [← hrs, releaseFollowers, hps, hqs]

theorem cur_releaseFollowers (s : State) (k : Nat) : (releaseFollowers s k).cur = s.cur := by
  obtain ⟨ps, h⟩ := releaseFollowers_eq s k
  rw [h]

theorem chkReports_releaseFollowers (s : State) (k : Nat) : (releaseFollowers s k).chkReports = s.chkReports := by
  obtain ⟨ps, h⟩ := releaseFollowers_eq s k
  rw [h]

theorem exec_chkpt_done (hi : issues s { h, reads := rds [o.s1], writes := wr o.d none } = true) (hc : (s.part s.cur).inChk = true)
    (hk : idxOf s.cur ≠ 3) (hs : storesDone s s.cur = true) :
    exec (.chkpt h o) s = done { h, reads := rds [o.s1], writes := wr o.d none } s (checkpointed s s.cur o.d ((s.part s.cur).src 0 o.s1)) := by
  refine (exec_chkpt h o s).trans (issue_done hi ?_)
  simp only [me_bind, myPart_bind, getState_bind, modifyState_bind, hc, hk, hs, Bool.not_true, Bool.false_or, decide_false, Bool.false_eq_true, if_false, setMine_bind,
    pureM_run]
  have hcur : (releaseFollowers (reported s s.cur ((s.part s.cur).src 0 o.s1)) s.cur).cur = s.cur :=
    (cur_releaseFollowers _ _).trans (memFrame_releaseAt s (flatOf s.cur) 5).cur
  exact congrArg (fun k => Except.ok (Flow.done, (releaseFollowers (reported s s.cur ((s.part s.cur).src 0 o.s1)) s.cur).modPart k (·.checkpointed o.d))) hcur

theorem exec_chkpt_waits (hi : issues s { h, reads := rds [o.s1], writes := wr o.d none } = true) (hc : (s.part s.cur).inChk = true)
    (hk : idxOf s.cur ≠ 3) (hs : storesDone s s.cur = false) :
    exec (.chkpt h o) s = .next (waitingStore { h, reads := rds [o.s1], writes := wr o.d none } s s.cur) := by
  refine (exec_chkpt h o s).trans (issue_waits (t := s) hi ?_)
  simp only [me_bind, myPart_bind, getState_bind, hc, hk, hs, Bool.not_true, Bool.not_false, Bool.false_or, decide_false, Bool.false_eq_true, if_false, if_true, pureM_run]

theorem exec_chkpt_value (hi : issues s { h, reads := rds [o.s1], writes := wr o.d none } = true)
    (hbad : (s.part s.cur).inChk = false ∨ idxOf s.cur = 3) : exec (.chkpt h o) s = valueOutcome s := by
  have hbad' : (!(s.part s.cur).inChk || decide (idxOf s.cur = 3)) = true := by simpa using hbad
  refine (exec_chkpt h o s).trans (issue_value hi ?_)
  simp only [me_bind, myPart_bind, hbad', if_true, illegalValue_bind]

/-! ## FIBSET (R168) -/

theorem gives_fibset (hk : idxOf s.cur ≠ 3) :
    Gives (.fibset h o) { h, reads := rds [o.s1], writes := wr o.d none } s fun q =>
      Part.put { q with fibframe := (s.part s.cur).src 0 o.s1 &&& ~~~(15 : W64) } o.d (s.part s.cur).fibframe := by
  refine gives_of_body (exec_fibset h o s) ?_
  simp only [me_bind, myPart_bind, hk, if_false, setMine_bind, putM_bind, State.modPart_cur, State.modPart_modPart, pureM_run]
  rfl

theorem exec_fibset_value (hi : issues s { h, reads := rds [o.s1], writes := wr o.d none } = true) (hk : idxOf s.cur = 3) :
    exec (.fibset h o) s = valueOutcome s := by
  refine (exec_fibset h o s).trans (issue_value hi ?_)
  simp only [me_bind, myPart_bind, hk, if_true, illegalValue_bind]
end

/-- Settles O16: each body in its place, and the trap VALUE outside it. -/
theorem trapInstructions : Obligations.TrapInstructions := by
  unfold Obligations.TrapInstructions
  intro h o s
  refine ⟨fun hi => (exec_trap h o s).trans (issue_traps rfl hi rfl), exec_trapret_inTrap, exec_trapret_value, exec_upret_inUp, exec_upret_value,
    fun hi hc hk hs => ⟨_, exec_chkpt_done hi hc hk hs, ?chkpt⟩, exec_chkpt_waits, exec_chkpt_value, fun hi hk => gives_fibset hk hi, exec_fibset_value⟩
  case chkpt =>
    rw [checkpointed, State.part_modPart, State.modPart_chkReports, chkReports_releaseFollowers]
    exact ⟨rfl, rfl, rfl, rfl, List.mem_append_right _ (List.mem_singleton_self _)⟩

end Sys2Proof.Machine
end

section
/-! PROOFS. Loads outside a task: the check, the acquire, and what is read (R29, R176, R177, R196 to R199). -/

namespace Sys2Proof.Machine
open Sys2Proof

/-! ## What a memory operation leaves of a part that a load asks for -/

namespace MemFrame
variable {s t : State}

theorem taskOn (h : MemFrame s t) (k : Nat) : taskOn t k = taskOn s k := by rw [Machine.taskOn, h.tasks, Machine.taskOn]

theorem whoOf (h : MemFrame s t) (k : Nat) : whoOf t k = whoOf s k := by
  have hctx : (t.part k).ctx = (s.part k).ctx := congrArg (·.ctx) (h.part k)
  rw [Machine.whoOf, hctx, Machine.whoOf]

theorem getV (h : MemFrame s t) (k : Nat) (d : Fin 64) : (t.part k).getV d = (s.part k).getV d := congrArg (·.v[d]) (h.part k)

theorem oldV (h : MemFrame s t) (k : Nat) (d : Dst) : (t.part k).oldV d = (s.part k).oldV d := by
  cases d with
  | v i => exact h.getV k i
  | s _ => rfl
  | p _ => rfl
  | none => rfl
end MemFrame

/-! ## The check of an access (R176, R196) -/

section
variable {α : Type} {s s1 : State} {acc : Acc} {rs : List (W64 × Nat)} {e : AErr}

theorem checkM_error (ht : taskOn s s.cur = none) (hc : checkAccess s (whoOf s s.cur) acc rs = .error e) (f : Unit → M α) :
    (checkM acc rs >>= f) s = .error (stopOf acc e) := by
  have hcheck : checkM acc rs s = .error (stopOf acc e) := by simp only [checkM, ht, hc]
  show (checkM acc rs s >>= fun r => f r.1 r.2) = _
  rw [hcheck]
  rfl

theorem checkM_ok (ht : taskOn s s.cur = none) (hc : checkAccess s (whoOf s s.cur) acc rs = .ok s1) (hl : onLost s1 (whoOf s s.cur).flat rs = false)
    (f : Unit → M α) : (checkM acc rs >>= f) s = f () s1 :=
  bind_of_ok f (by simp only [checkM, ht, hc, hl, Bool.false_eq_true, if_false])
end

/-! ## What is read (R177) -/

/-- The bytes of a range that a load gives: the partition's own buffered stores, or memory below. -/
def loadBytes (b m : State) (w : Who) (r : W64 × Nat) : List Byte :=
  match forwardOf b w.k (bytesAt r.1 r.2) with
  | .all bs => bs
  | _ => (bytesAt r.1 r.2).map (loadByte m w)

section
variable {α : Type} {s : State} {rs : List (W64 × Nat)}

theorem readM_mixed (hm : ∃ r ∈ rs, forwardOf s s.cur (bytesAt r.1 r.2) = .mixed) (f : Option (List (List Byte)) → M α) : (readM rs >>= f) s = f none s := by
  refine bind_of_ok f ?_
  have hwait : ((rs.map fun r => forwardOf s s.cur (bytesAt r.1 r.2)).any fun f => f = .mixed || ((taskOn s s.cur).isSome && f ≠ .none)) = true := by
    obtain ⟨r, hr, hmix⟩ := hm
    rw [List.any_eq_true]
    exact ⟨_, List.mem_map_of_mem hr, by rw [hmix]; rfl⟩
  simp only [readM, me_bind, getState_bind, hwait, if_true, pureM_run]

theorem any_mixed_eq_false (ht : taskOn s s.cur = none) (hm : ∀ r ∈ rs, forwardOf s s.cur (bytesAt r.1 r.2) ≠ .mixed) :
    ((rs.map fun r => forwardOf s s.cur (bytesAt r.1 r.2)).any fun f => f = .mixed || ((taskOn s s.cur).isSome && f ≠ .none)) = false := by
  rw [List.any_eq_false]
  intro f hf
  obtain ⟨r, hr, rfl⟩ := List.mem_map.mp hf
  simp only [hm r hr, ht, decide_false, Option.isSome_none, Bool.false_and, Bool.or_false, Bool.false_eq_true, not_false_iff]

theorem readM_lost {x l : W64} (ht : taskOn s s.cur = none) (hm : ∀ r ∈ rs, forwardOf s s.cur (bytesAt r.1 r.2) ≠ .mixed)
    (hl : lostRead s (whoOf s s.cur) rs = some (x, l)) (f : Option (List (List Byte)) → M α) : (readM rs >>= f) s = .error (.lost 0 x l) := by
  have hread : readM rs s = .error (.lost 0 x l) := by
    simp only [readM, me_bind, getState_bind, any_mixed_eq_false ht hm, hl, Bool.false_eq_true, if_false]
    rfl
  show (readM rs s >>= fun r => f r.1 r.2) = _
  rw [hread]
  rfl

theorem zip_map_self {β γ : Type} (g : W64 × Nat → β) (F : (W64 × Nat) × β → γ) : (rs.zip (rs.map g)).map F = rs.map fun r => F (r, g r) := by
  induction rs with
  | nil => rfl
  | cons r rs ih => simp only [List.map_cons, List.zip_cons_cons, ih]

theorem readM_ok (ht : taskOn s s.cur = none) (hm : ∀ r ∈ rs, forwardOf s s.cur (bytesAt r.1 r.2) ≠ .mixed)
    (hl : lostRead s (whoOf s s.cur) rs = none) (f : Option (List (List Byte)) → M α) :
    let t := prepLines s (whoOf s s.cur) (rs.flatMap fun r => linesOf r.1 r.2).dedup
    (readM rs >>= f) s = f (some (rs.map (loadBytes s t (whoOf s s.cur)))) t := by
  intro t
  refine bind_of_ok f ?_
  simp only [readM, me_bind, getState_bind, any_mixed_eq_false ht hm, hl, Bool.false_eq_true, if_false, modifyState_bind]
  simp only [ht, getState_bind, pureM_run, zip_map_self]
  rfl
end

/-! ## LD (R197) -/

/-- A load's access in a scope: LD and VLD acquire after the check where their form says so. -/
def acquiredAs (s : State) (flat : Nat) (mod : BitVec 8) : State := if ordOfMod mod = 1 then acquireAt s flat (scopeOfMod mod) else s

theorem memFrame_acquiredAs (s : State) (flat : Nat) (mod : BitVec 8) : MemFrame s (acquiredAs s flat mod) := by
  unfold acquiredAs
  split
  · exact memFrame_acquireAt ..
  · exact .refl s

/-- A load up to its reads: MISALIGN where its form orders it, the check, the acquire. -/
def orderedRead (mod : BitVec 8) (a : W64) (n : Nat) (rs : List (W64 × Nat)) (rest : M Flow) : M Flow := do
  if ordOfMod mod ≠ 0 ∧ a.toNat % n ≠ 0 then trapM 0x04 a
  checkM .read rs
  if ordOfMod mod = 1 then acquireM (scopeOfMod mod)
  rest

section
variable {mod : BitVec 8} {a : W64} {n : Nat} {rs : List (W64 × Nat)} {rest : M Flow} {s s1 : State} {e : AErr}

theorem orderedRead_misaligned (hm : ordOfMod mod ≠ 0 ∧ a.toNat % n ≠ 0) : orderedRead mod a n rs rest s = .error (.trap ⟨0x04, 0, a, none⟩) := by
  simp only [orderedRead, if_pos hm]
  rfl

theorem orderedRead_error (hm : ¬(ordOfMod mod ≠ 0 ∧ a.toNat % n ≠ 0)) (ht : taskOn s s.cur = none)
    (hc : checkAccess s (whoOf s s.cur) .read rs = .error e) : orderedRead mod a n rs rest s = .error (stopOf .read e) := by
  simp only [orderedRead, if_neg hm]
  exact checkM_error ht hc _

theorem orderedRead_ok (hm : ¬(ordOfMod mod ≠ 0 ∧ a.toNat % n ≠ 0)) (ht : taskOn s s.cur = none)
    (hc : checkAccess s (whoOf s s.cur) .read rs = .ok s1) (hl : onLost s1 (whoOf s s.cur).flat rs = false) :
    orderedRead mod a n rs rest s = rest (acquiredAs s1 (flatOf s.cur) mod) := by
  simp only [orderedRead, if_neg hm, checkM_ok ht hc hl, acquiredAs]
  split
  case isTrue => rw [acquireM_bind, (memFrame_checkAccess hc).cur]
  case isFalse => rfl
end

section
variable {s t : State} {i : Iss} {body : W64 → M Flow}

theorem issue_lost {acc : Nat} {x l : W64} (hi : issues s i = true) (hb : body (lanesFor s i) s = .error (.lost acc x l)) :
    issue i body s = .next (lostTrap s s.cur acc x l) :=
  issue_stops hi hb
end

/-- An aligned access, or one whose form does not order it, is not misaligned. -/
theorem not_misaligned {o : Nat} {b : Nat} (h : o = 0 ∨ b = 0) : ¬(o ≠ 0 ∧ b ≠ 0) := fun ⟨ho, hb⟩ => h.elim ho hb

/-! ## LD -/

/-- What LD does with its bytes. -/
def ldEnd (o : OpM) (n : Nat) : Option (List (List Byte)) → M Flow
  | none => pure .wait
  | some bs => do
    putM o.dst (if o.mod.getLsbD 0 then BitVec.ofNat 64 (ofBytes bs.flatten) else sext64 (8 * n) (ofBytes bs.flatten))
    pure .done

/-- The bytes of an LD. -/
abbrev sizeM (o : OpM) : Nat := 2 ^ (o.mod.toNat / 2 % 4)

abbrev ldIss (h : Hd) (o : OpM) : Iss := { h, reads := rds [o.base], writes := wr o.dst none }

theorem exec_ld (h : Hd) (o : OpM) (s : State) : exec (.ld h o) s = issue (ldIss h o)
    (fun _ => do
      let p ← myPart
      orderedRead o.mod (p.addrM o) (sizeM o) [(p.addrM o, (sizeM o))] (readM [(p.addrM o, (sizeM o))] >>= ldEnd o (sizeM o))) s := rfl

section
variable {h : Hd} {o : OpM} {s s1 : State} {e : AErr}

theorem exec_ld_misaligned (hi : issues s (ldIss h o) = true) (ho : ordOfMod o.mod ≠ 0) (ha : ((s.part s.cur).addrM o).toNat % (sizeM o) ≠ 0) :
    exec (.ld h o) s = .next (takeTrap s s.cur ⟨0x04, 0, (s.part s.cur).addrM o, none⟩) :=
  (exec_ld h o s).trans (issue_traps rfl hi ((myPart_bind _).trans (orderedRead_misaligned ⟨ho, ha⟩)))

theorem exec_ld_error (hi : issues s (ldIss h o) = true) (hok : ordOfMod o.mod = 0 ∨ ((s.part s.cur).addrM o).toNat % (sizeM o) = 0)
    (ht : taskOn s s.cur = none) (hc : checkAccess s (whoOf s s.cur) .read [((s.part s.cur).addrM o, (sizeM o))] = .error e) :
    exec (.ld h o) s = .next (stopped s s.cur (stopOf .read e)) :=
  (exec_ld h o s).trans (issue_stops hi ((myPart_bind _).trans (orderedRead_error (not_misaligned hok) ht hc)))

/-- A checked LD is its reads, in the state that the check and the acquire leave. -/
theorem ld_reads {r : Except Stop (Flow × State)} (hok : ordOfMod o.mod = 0 ∨ ((s.part s.cur).addrM o).toNat % (sizeM o) = 0)
    (ht : taskOn s s.cur = none) (hc : checkAccess s (whoOf s s.cur) .read [((s.part s.cur).addrM o, (sizeM o))] = .ok s1)
    (hl : onLost s1 (flatOf s.cur) [((s.part s.cur).addrM o, (sizeM o))] = false)
    (hr : (readM [((s.part s.cur).addrM o, (sizeM o))] >>= ldEnd o (sizeM o)) (acquiredAs s1 (flatOf s.cur) o.mod) = r) :
    (do let p ← myPart
        orderedRead o.mod (p.addrM o) (sizeM o) [(p.addrM o, (sizeM o))] (readM [(p.addrM o, (sizeM o))] >>= ldEnd o (sizeM o)) : M Flow) s = r :=
  ((myPart_bind _).trans (orderedRead_ok (not_misaligned hok) ht hc hl)).trans hr

end

/-- What a checked LD does, by what its range meets: it waits, takes MCHECK, or completes. -/
theorem exec_ld_checked {h : Hd} {o : OpM} {s s1 : State} (hi : issues s (ldIss h o) = true)
    (hok : ordOfMod o.mod = 0 ∨ ((s.part s.cur).addrM o).toNat % (sizeM o) = 0)
    (ht : taskOn s s.cur = none) (hc : checkAccess s (whoOf s s.cur) .read [((s.part s.cur).addrM o, (sizeM o))] = .ok s1)
    (hl : onLost s1 (flatOf s.cur) [((s.part s.cur).addrM o, (sizeM o))] = false) :
    let s2 := acquiredAs s1 (flatOf s.cur) o.mod
    let a := (s.part s.cur).addrM o
    let s3 := prepLines s2 (whoOf s s.cur) (linesOf a (sizeM o)).dedup
    let v := ofBytes (loadBytes s2 s3 (whoOf s s.cur) (a, (sizeM o)))
    (forwardOf s2 s.cur (bytesAt a (sizeM o)) = .mixed → exec (.ld h o) s = .next (waitingStore (ldIss h o) s s.cur)) ∧
    (∀ x l, forwardOf s2 s.cur (bytesAt a (sizeM o)) ≠ .mixed → lostRead s2 (whoOf s s.cur) [(a, (sizeM o))] = some (x, l) →
      exec (.ld h o) s = .next (lostTrap s s.cur 0 x l)) ∧
    (forwardOf s2 s.cur (bytesAt a (sizeM o)) ≠ .mixed → lostRead s2 (whoOf s s.cur) [(a, (sizeM o))] = none →
      exec (.ld h o) s = done (ldIss h o) s (s3.modPart s.cur fun q =>
        q.put o.dst (if o.mod.getLsbD 0 then BitVec.ofNat 64 v else sext64 (8 * (sizeM o)) v))) := by
  intro s2 a s3 v
  have hframe : MemFrame s s2 := (memFrame_checkAccess hc).trans (memFrame_acquiredAs ..)
  have hcur : s2.cur = s.cur := hframe.cur
  have hwho : whoOf s2 s2.cur = whoOf s s.cur := by rw [hcur, hframe.whoOf]
  have htask : taskOn s2 s2.cur = none := by rw [hcur, hframe.taskOn, ht]
  have hnot (hm : forwardOf s2 s.cur (bytesAt a (sizeM o)) ≠ .mixed) : ∀ r ∈ [(a, (sizeM o))], forwardOf s2 s2.cur (bytesAt r.1 r.2) ≠ .mixed := by
    intro r hr
    rw [List.mem_singleton.mp hr, hcur]
    exact hm
  refine ⟨fun hm => ?mixed, fun x l hm hlost => ?lost, fun hm hlost => ?done⟩
  case mixed =>
    refine (exec_ld h o s).trans (issue_waits (t := s2) hi (ld_reads hok ht hc hl ?_))
    exact (readM_mixed ⟨_, List.mem_singleton_self _, by rw [hcur]; exact hm⟩ _)
  case lost =>
    refine (exec_ld h o s).trans (issue_lost hi (ld_reads hok ht hc hl ?_))
    exact readM_lost htask (hnot hm) (by rw [hwho]; exact hlost) _
  case done =>
    refine (exec_ld h o s).trans (issue_done hi (ld_reads hok ht hc hl ?_))
    refine (readM_ok htask (hnot hm) (by rw [hwho]; exact hlost) _).trans ?_
    rw [hwho]
    simp only [List.flatMap_cons, List.flatMap_nil, List.append_nil, List.map_cons, List.map_nil, ldEnd, putM_bind, List.flatten_cons, List.flatten_nil, pureM_run]
    rw [(memFrame_prepLines ..).cur]
    rw [hcur]

/-! ## VLD and VGATH (R198, R199) -/

/-- What a vector load does with the bytes of its active lanes. -/
def vecEnd (d : Dst) (mask : W64) : Option (List (List Byte)) → M Flow
  | none => pure .wait
  | some bs => do
    let p ← myPart
    putV d (mapElems (p.oldV d) mask 32 fun L => ofBytes (bs.getD ((lanesOf mask).idxOf L) []))
    pure .done

/-- The lanes' ranges of four bytes. -/
abbrev laneRanges (mask : W64) (addr : Nat → W64) : List (W64 × Nat) := (lanesOf mask).map fun L => (addr L, 4)

abbrev vldIss (h : Hd) (o : OpM) : Iss := { h, reads := rds [o.base], writes := wr o.dst none, lanes := true }
abbrev vgathIss (h : Hd) (o : OpC) : Iss := { h, reads := rds [o.s1, o.s2], writes := wr o.d none, lanes := true }

/-- The reads of VLD: the access as a whole is forwarded, waits or is read. -/
def vldReads (d : Dst) (mask : W64) (rs : List (W64 × Nat)) : M Flow := do
  let k ← me
  let s ← get
  if forwardOf s k (rs.flatMap fun r => bytesAt r.1 r.2) = .mixed then return .wait
  readM rs >>= vecEnd d mask

theorem exec_vld (h : Hd) (o : OpM) (s : State) : exec (.vld h o) s = issue (vldIss h o)
    (fun mask => do
      let p ← myPart
      orderedRead o.mod (p.addrM o) 4 (laneRanges mask fun L => p.addrM o + BitVec.ofNat 64 (4 * L))
        (vldReads o.dst mask (laneRanges mask fun L => p.addrM o + BitVec.ofNat 64 (4 * L)))) s := rfl

theorem exec_vgath (h : Hd) (o : OpC) (s : State) : exec (.vgath h o) s = issue (vgathIss h o)
    (fun mask => do
      let p ← myPart
      match (lanesOf mask).find? fun L => (gatherAddr o.mod (p.src 0 o.s1) (p.vreg o.s2) L).toNat % 4 ≠ 0 with
      | some L => trapM 0x04 (gatherAddr o.mod (p.src 0 o.s1) (p.vreg o.s2) L)
      | none => do
        checkM .read (laneRanges mask (gatherAddr o.mod (p.src 0 o.s1) (p.vreg o.s2)))
        readM (laneRanges mask (gatherAddr o.mod (p.src 0 o.s1) (p.vreg o.s2))) >>= vecEnd o.d mask) s := rfl

/-! ### Bytes and elements -/

/-- What the core's store buffer holds of a partition at each of some addresses. -/
def bufBytes (s : State) (k : Nat) (vas : List W64) : List (Option Byte) := vas.map (bufByte (flatOf k) (s.core (flatOf k)).sbuf k)

theorem forwardOf_eq (s : State) (k : Nat) (vas : List W64) :
    forwardOf s k vas = if (bufBytes s k vas).all Option.isNone then .none
      else if (bufBytes s k vas).all Option.isSome then .all ((bufBytes s k vas).map fun o => o.getD 0) else .mixed := rfl

theorem ofBytes_lt (bs : List Byte) : ofBytes bs < 256 ^ bs.length := by
  induction bs with
  | nil => exact Nat.one_pos
  | cons b bs ih =>
    have hb := b.isLt
    rw [ofBytes, List.length_cons, Nat.pow_succ]
    omega

theorem length_bytesAt (a : W64) (n : Nat) : (bytesAt a n).length = n := by simp [bytesAt]

theorem length_loadBytes (b m : State) (w : Who) (r : W64 × Nat) : (loadBytes b m w r).length = r.2 := by
  unfold loadBytes
  split
  case h_1 bs hbs =>
    rw [forwardOf_eq] at hbs
    split at hbs
    · exact nomatch hbs
    · split at hbs
      · injection hbs with hbs
        rw [← hbs, List.length_map, bufBytes, List.length_map, length_bytesAt]
      · exact nomatch hbs
  case h_2 => rw [List.length_map, length_bytesAt]

/-- A word of four loaded bytes fits its lane. -/
theorem ofBytes_loadBytes_lt (b m : State) (w : Who) (a : W64) : ofBytes (loadBytes b m w (a, 4)) < 2 ^ 32 :=
  (ofBytes_lt _).trans_eq (by rw [length_loadBytes]; rfl)

/-- The bytes of an active lane stand at the lane's place among the active ones. -/
theorem getD_map_idxOf {mask : W64} {g : Nat → List Byte} {L : Nat} (hL : L < 64) (hm : mask.getLsbD L = true) :
    ((lanesOf mask).map g).getD ((lanesOf mask).idxOf L) [] = g L := by
  have hmem : L ∈ lanesOf mask := List.mem_filter.mpr ⟨List.mem_range.mpr hL, hm⟩
  rw [List.getD_eq_getElem?_getD, List.getElem?_map, List.getElem?_idxOf hmem]
  rfl

/-- Where an access as a whole is forwarded or not, so is each of its ranges. -/
theorem forwardOf_range_ne_mixed {s : State} {k : Nat} {rs : List (W64 × Nat)} (hm : forwardOf s k (rs.flatMap fun r => bytesAt r.1 r.2) ≠ .mixed)
    {r : W64 × Nat} (hr : r ∈ rs) : forwardOf s k (bytesAt r.1 r.2) ≠ .mixed := by
  have hsub {P : Option Byte → Bool} (hall : (bufBytes s k (rs.flatMap fun r => bytesAt r.1 r.2)).all P = true) :
      (bufBytes s k (bytesAt r.1 r.2)).all P = true := by
    rw [bufBytes, List.all_map, List.all_eq_true] at hall ⊢
    exact fun x hx => hall x (List.mem_flatMap.mpr ⟨r, hr, hx⟩)
  rw [forwardOf_eq] at hm ⊢
  split at hm
  case isTrue hnone => simp only [hsub hnone, if_true, ne_eq, reduceCtorEq, not_false_iff]
  case isFalse =>
    split at hm
    case isTrue hsome =>
      rw [if_pos (hsub hsome)]
      split <;> exact fun h => nomatch h
    case isFalse => exact absurd rfl hm

/-- The words of a vector load under a mask, over the elements that its register holds. -/
def vecWords (b m : State) (w : Who) (old : VReg) (mask : W64) (addr : Nat → W64) : VReg :=
  mapElems old mask 32 fun L => ofBytes (((laneRanges mask addr).map (loadBytes b m w)).getD ((lanesOf mask).idxOf L) [])

/-- Each active lane has its word, the others keep theirs. -/
theorem elemOf_vecWords {b m : State} {w : Who} {old : VReg} {mask : W64} {addr : Nat → W64} {L : Nat} (hL : L < 64) :
    elemOf (vecWords b m w old mask addr) 32 L = if mask.getLsbD L then ofBytes (loadBytes b m w (addr L, 4)) else elemOf old 32 L := by
  rw [vecWords, elemOf_mapElems (by decide) _ _ _ (by omega), Nat.mul_div_cancel L (by decide)]
  split
  case isTrue hm => rw [List.map_map, getD_map_idxOf hL hm, Function.comp, Nat.mod_eq_of_lt (ofBytes_loadBytes_lt ..)]
  case isFalse => rfl

/-! ### The reads of a vector load -/

/-- The state that a vector load leaves where it completes. -/
def vecLoaded (b m : State) (k : Nat) (d : Fin 64) (mask : W64) (addr : Nat → W64) : State :=
  m.modPart k (·.putVec (.v d) (vecWords b m (whoOf b k) ((m.part k).oldV (.v d)) mask addr))

theorem vecReads_ok {s : State} {d : Fin 64} {mask : W64} {addr : Nat → W64} (ht : taskOn s s.cur = none)
    (hm : ∀ r ∈ laneRanges mask addr, forwardOf s s.cur (bytesAt r.1 r.2) ≠ .mixed) (hl : lostRead s (whoOf s s.cur) (laneRanges mask addr) = none) :
    (readM (laneRanges mask addr) >>= vecEnd (.v d) mask) s = .ok (.done, vecLoaded s
      (prepLines s (whoOf s s.cur) ((laneRanges mask addr).flatMap fun r => linesOf r.1 r.2).dedup) s.cur d mask addr) := by
  refine (readM_ok ht hm hl _).trans ?_
  have hcur := (memFrame_prepLines s (whoOf s s.cur) ((laneRanges mask addr).flatMap fun r => linesOf r.1 r.2).dedup).cur
  simp only [vecEnd, myPart_bind, hcur, putV_bind, pureM_run, vecLoaded, vecWords]

/-- What a completed vector load leaves of memory and of its register. -/
theorem vecLoaded_spec {s b m : State} {k : Nat} {d : Fin 64} {mask : W64} {addr : Nat → W64} (hb : MemFrame s b) (hm : MemFrame b m) :
    (vecLoaded b m k d mask addr).mem = m.mem ∧ ∀ L, L < 64 → elemOf (((vecLoaded b m k d mask addr).part k).getV d) 32 L =
      if mask.getLsbD L then ofBytes (loadBytes b m (whoOf s k) (addr L, 4)) else elemOf ((s.part k).getV d) 32 L := by
  refine ⟨rfl, fun L hL => ?_⟩
  have hgetV (p : Part) (v : VReg) : (p.putVec (.v d) v).getV d = v := Vector.getElem_set_self ..
  rw [vecLoaded, State.part_modPart, hgetV, elemOf_vecWords hL, hb.whoOf, hm.oldV, hb.oldV]
  rfl

section
variable {h : Hd} {o : OpM} {s s1 : State} {e : AErr} {d : Fin 64}

/-- The lanes' addresses of a VLD. -/
abbrev vldAddr (s : State) (o : OpM) (L : Nat) : W64 := (s.part s.cur).addrM o + BitVec.ofNat 64 (4 * L)

/-- The ranges of a VLD or VGATH under a mask. -/
abbrev vldRanges (h : Hd) (o : OpM) (s : State) : List (W64 × Nat) := laneRanges (lanesFor s (vldIss h o)) (vldAddr s o)

theorem exec_vld_misaligned (hi : issues s (vldIss h o) = true) (ho : ordOfMod o.mod ≠ 0) (ha : ((s.part s.cur).addrM o).toNat % 4 ≠ 0) :
    exec (.vld h o) s = .next (takeTrap s s.cur ⟨0x04, 0, (s.part s.cur).addrM o, none⟩) :=
  (exec_vld h o s).trans (issue_traps rfl hi ((myPart_bind _).trans (orderedRead_misaligned ⟨ho, ha⟩)))

theorem exec_vld_error (hi : issues s (vldIss h o) = true) (hok : ordOfMod o.mod = 0 ∨ ((s.part s.cur).addrM o).toNat % 4 = 0)
    (ht : taskOn s s.cur = none) (hc : checkAccess s (whoOf s s.cur) .read (vldRanges h o s) = .error e) :
    exec (.vld h o) s = .next (stopped s s.cur (stopOf .read e)) :=
  (exec_vld h o s).trans (issue_stops hi ((myPart_bind _).trans (orderedRead_error (not_misaligned hok) ht hc)))

/-- A checked VLD is its reads, in the state that the check and the acquire leave. -/
theorem vld_reads {r : Except Stop (Flow × State)} (hok : ordOfMod o.mod = 0 ∨ ((s.part s.cur).addrM o).toNat % 4 = 0)
    (ht : taskOn s s.cur = none) (hc : checkAccess s (whoOf s s.cur) .read (vldRanges h o s) = .ok s1)
    (hl : onLost s1 (flatOf s.cur) (vldRanges h o s) = false)
    (hr : vldReads o.dst (lanesFor s (vldIss h o)) (vldRanges h o s) (acquiredAs s1 (flatOf s.cur) o.mod) = r) :
    (do let p ← myPart
        orderedRead o.mod (p.addrM o) 4 (laneRanges (lanesFor s (vldIss h o)) fun L => p.addrM o + BitVec.ofNat 64 (4 * L))
          (vldReads o.dst (lanesFor s (vldIss h o)) (laneRanges (lanesFor s (vldIss h o)) fun L => p.addrM o + BitVec.ofNat 64 (4 * L))) : M Flow) s = r :=
  ((myPart_bind _).trans (orderedRead_ok (not_misaligned hok) ht hc hl)).trans hr
end

/-- What a checked VLD does, by what its lanes meet. -/
theorem exec_vld_checked {h : Hd} {o : OpM} {s s1 : State} {d : Fin 64} (hd : o.dst = .v d) (hi : issues s (vldIss h o) = true)
    (hok : ordOfMod o.mod = 0 ∨ ((s.part s.cur).addrM o).toNat % 4 = 0)
    (ht : taskOn s s.cur = none) (hc : checkAccess s (whoOf s s.cur) .read (vldRanges h o s) = .ok s1)
    (hl : onLost s1 (flatOf s.cur) (vldRanges h o s) = false) :
    let s2 := acquiredAs s1 (flatOf s.cur) o.mod
    let fw := forwardOf s2 s.cur ((vldRanges h o s).flatMap fun r => bytesAt r.1 r.2)
    let s3 := prepLines s2 (whoOf s s.cur) ((vldRanges h o s).flatMap fun r => linesOf r.1 r.2).dedup
    (fw = .mixed → exec (.vld h o) s = .next (waitingStore (vldIss h o) s s.cur)) ∧
    (∀ x l, fw ≠ .mixed → lostRead s2 (whoOf s s.cur) (vldRanges h o s) = some (x, l) → exec (.vld h o) s = .next (lostTrap s s.cur 0 x l)) ∧
    (fw ≠ .mixed → lostRead s2 (whoOf s s.cur) (vldRanges h o s) = none →
      exec (.vld h o) s = done (vldIss h o) s (vecLoaded s2 s3 s.cur d (lanesFor s (vldIss h o)) (vldAddr s o))) := by
  intro s2 fw s3
  have hframe : MemFrame s s2 := (memFrame_checkAccess hc).trans (memFrame_acquiredAs ..)
  have hcur : s2.cur = s.cur := hframe.cur
  have hwho : whoOf s2 s2.cur = whoOf s s.cur := by rw [hcur, hframe.whoOf]
  have htask : taskOn s2 s2.cur = none := by rw [hcur, hframe.taskOn, ht]
  have hnot (hm : fw ≠ .mixed) : ∀ r ∈ vldRanges h o s, forwardOf s2 s2.cur (bytesAt r.1 r.2) ≠ .mixed := by
    intro r hr
    rw [hcur]
    exact forwardOf_range_ne_mixed hm hr
  have hgo (hm : fw ≠ .mixed) : vldReads o.dst (lanesFor s (vldIss h o)) (vldRanges h o s) s2 =
      (readM (vldRanges h o s) >>= vecEnd o.dst (lanesFor s (vldIss h o))) s2 := by
    simp only [vldReads, me_bind, getState_bind, hcur]
    exact congrFun (if_neg hm) s2
  refine ⟨fun hm => ?mixed, fun x l hm hlost => ?lost, fun hm hlost => ?done⟩
  case mixed =>
    refine (exec_vld h o s).trans (issue_waits (t := s2) hi (vld_reads hok ht hc hl ?_))
    simp only [vldReads, me_bind, getState_bind]
    rw [hcur]
    exact congrFun (if_pos hm) s2
  case lost =>
    refine (exec_vld h o s).trans (issue_lost hi (vld_reads hok ht hc hl ((hgo hm).trans ?_)))
    exact readM_lost htask (hnot hm) (by rw [hwho]; exact hlost) _
  case done =>
    refine (exec_vld h o s).trans (issue_done hi (vld_reads hok ht hc hl ((hgo hm).trans ?_)))
    rw [hd]
    have hreads := vecReads_ok (d := d) htask (hnot hm) (by rw [hwho]; exact hlost)
    rw [hwho, hcur] at hreads
    exact hreads

/-! ### VGATH -/

section
variable {h : Hd} {o : OpC} {s s1 : State} {e : AErr} {d : Fin 64} {L : Nat}

abbrev vgathAddr (s : State) (o : OpC) : Nat → W64 := gatherAddr o.mod ((s.part s.cur).src 0 o.s1) ((s.part s.cur).vreg o.s2)
abbrev vgathRanges (h : Hd) (o : OpC) (s : State) : List (W64 × Nat) := laneRanges (lanesFor s (vgathIss h o)) (vgathAddr s o)

theorem exec_vgath_misaligned (hi : issues s (vgathIss h o) = true)
    (hL : (lanesOf (lanesFor s (vgathIss h o))).find? (fun L => (vgathAddr s o L).toNat % 4 ≠ 0) = some L) :
    exec (.vgath h o) s = .next (takeTrap s s.cur ⟨0x04, 0, vgathAddr s o L, none⟩) := by
  refine (exec_vgath h o s).trans (issue_traps rfl hi ?_)
  simp only [myPart_bind, hL]
  rfl

theorem find_misaligned_none (hok : ∀ L ∈ lanesOf (lanesFor s (vgathIss h o)), (vgathAddr s o L).toNat % 4 = 0) :
    (lanesOf (lanesFor s (vgathIss h o))).find? (fun L => (vgathAddr s o L).toNat % 4 ≠ 0) = none := by
  rw [List.find?_eq_none]
  intro L hL
  simp only [hok L hL, ne_eq, not_true_eq_false, decide_false, Bool.false_eq_true, not_false_iff]

theorem exec_vgath_error (hi : issues s (vgathIss h o) = true) (hok : ∀ L ∈ lanesOf (lanesFor s (vgathIss h o)), (vgathAddr s o L).toNat % 4 = 0)
    (ht : taskOn s s.cur = none) (hc : checkAccess s (whoOf s s.cur) .read (vgathRanges h o s) = .error e) :
    exec (.vgath h o) s = .next (stopped s s.cur (stopOf .read e)) := by
  refine (exec_vgath h o s).trans (issue_stops hi ?_)
  simp only [myPart_bind, find_misaligned_none hok]
  exact checkM_error ht hc _

/-- A checked VGATH is its reads, in the state that the check leaves. -/
theorem vgath_reads {r : Except Stop (Flow × State)} (hok : ∀ L ∈ lanesOf (lanesFor s (vgathIss h o)), (vgathAddr s o L).toNat % 4 = 0)
    (ht : taskOn s s.cur = none) (hc : checkAccess s (whoOf s s.cur) .read (vgathRanges h o s) = .ok s1)
    (hl : onLost s1 (flatOf s.cur) (vgathRanges h o s) = false)
    (hr : (readM (vgathRanges h o s) >>= vecEnd o.d (lanesFor s (vgathIss h o))) s1 = r) :
    (do let p ← myPart
        match (lanesOf (lanesFor s (vgathIss h o))).find? fun L => (gatherAddr o.mod (p.src 0 o.s1) (p.vreg o.s2) L).toNat % 4 ≠ 0 with
        | some L => trapM 0x04 (gatherAddr o.mod (p.src 0 o.s1) (p.vreg o.s2) L)
        | none => do
          checkM .read (laneRanges (lanesFor s (vgathIss h o)) (gatherAddr o.mod (p.src 0 o.s1) (p.vreg o.s2)))
          readM (laneRanges (lanesFor s (vgathIss h o)) (gatherAddr o.mod (p.src 0 o.s1) (p.vreg o.s2))) >>= vecEnd o.d (lanesFor s (vgathIss h o)) : M Flow) s
      = r := by
  simp only [myPart_bind, find_misaligned_none hok]
  exact (checkM_ok ht hc hl _).trans hr
end

/-- What a checked VGATH does, by what its lanes meet. -/
theorem exec_vgath_checked {h : Hd} {o : OpC} {s s1 : State} {d : Fin 64} (hd : o.d = .v d) (hi : issues s (vgathIss h o) = true)
    (hok : ∀ L ∈ lanesOf (lanesFor s (vgathIss h o)), (vgathAddr s o L).toNat % 4 = 0)
    (ht : taskOn s s.cur = none) (hc : checkAccess s (whoOf s s.cur) .read (vgathRanges h o s) = .ok s1)
    (hl : onLost s1 (flatOf s.cur) (vgathRanges h o s) = false) :
    let s3 := prepLines s1 (whoOf s s.cur) ((vgathRanges h o s).flatMap fun r => linesOf r.1 r.2).dedup
    ((∃ r ∈ vgathRanges h o s, forwardOf s1 s.cur (bytesAt r.1 r.2) = .mixed) → exec (.vgath h o) s = .next (waitingStore (vgathIss h o) s s.cur)) ∧
    ((∀ r ∈ vgathRanges h o s, forwardOf s1 s.cur (bytesAt r.1 r.2) ≠ .mixed) →
      (∀ x l, lostRead s1 (whoOf s s.cur) (vgathRanges h o s) = some (x, l) → exec (.vgath h o) s = .next (lostTrap s s.cur 0 x l)) ∧
      (lostRead s1 (whoOf s s.cur) (vgathRanges h o s) = none →
        exec (.vgath h o) s = done (vgathIss h o) s (vecLoaded s1 s3 s.cur d (lanesFor s (vgathIss h o)) (vgathAddr s o)))) := by
  intro s3
  have hframe : MemFrame s s1 := memFrame_checkAccess hc
  have hcur : s1.cur = s.cur := hframe.cur
  have hwho : whoOf s1 s1.cur = whoOf s s.cur := by rw [hcur, hframe.whoOf]
  have htask : taskOn s1 s1.cur = none := by rw [hcur, hframe.taskOn, ht]
  refine ⟨fun hm => ?mixed, fun hnot => ⟨fun x l hlost => ?lost, fun hlost => ?done⟩⟩
  case mixed =>
    refine (exec_vgath h o s).trans (issue_waits (t := s1) hi (vgath_reads hok ht hc hl ?_))
    exact readM_mixed (by rw [hcur]; exact hm) _
  case lost =>
    refine (exec_vgath h o s).trans (issue_lost hi (vgath_reads hok ht hc hl ?_))
    exact readM_lost htask (by rw [hcur]; exact hnot) (by rw [hwho]; exact hlost) _
  case done =>
    refine (exec_vgath h o s).trans (issue_done hi (vgath_reads hok ht hc hl ?_))
    rw [hd]
    have hreads := vecReads_ok (d := d) htask (by rw [hcur]; exact hnot) (by rw [hwho]; exact hlost)
    rw [hwho, hcur] at hreads
    exact hreads

/-! ## What is lost to a load (R206) -/

section
variable {s : State} {k n : Nat} {a x l : W64}

theorem ownVersions_of_no_task (ht : taskOn s k = none) (vas : List W64) : ownVersions s (whoOf s k) vas = false := by
  have hk : taskOn s (whoOf s k).k = none := ht
  simp only [ownVersions, hk]

theorem lostRead_forwarded {bs : List Byte} (hf : forwardOf s k (bytesAt a n) = .all bs) : lostRead s (whoOf s k) [(a, n)] = none := by
  have hk : forwardOf s (whoOf s k).k (bytesAt a n) = .all bs := hf
  simp only [lostRead, List.findSome?_cons, hk, List.findSome?_nil]

/-- A range that is not forwarded whole loses its first lost line. -/
theorem lostRead_below (ht : taskOn s k = none) (hf : ∀ bs, forwardOf s k (bytesAt a n) ≠ .all bs) :
    lostRead s (whoOf s k) [(a, n)] = ((linesOf a n).find? (lostTo s (whoOf s k))).map fun l => (a, l) := by
  have hone {g : W64 × Nat → Option (W64 × W64)} {r : W64 × Nat} : [r].findSome? g = g r := by
    rw [List.findSome?_cons]
    cases g r <;> rfl
  rw [lostRead, hone]
  split
  case h_1 bs hbs => exact absurd hbs (hf bs)
  case h_2 => rw [ownVersions_of_no_task ht, if_neg Bool.false_ne_true]

theorem lostRead_eq_some (ht : taskOn s k = none) (h : lostRead s (whoOf s k) [(a, n)] = some (x, l)) :
    x = a ∧ l ∈ linesOf a n ∧ lostTo s (whoOf s k) l = true := by
  by_cases hf : ∃ bs, forwardOf s k (bytesAt a n) = .all bs
  · obtain ⟨bs, hbs⟩ := hf
    rw [lostRead_forwarded hbs] at h
    exact nomatch h
  · rw [lostRead_below ht (not_exists.mp hf), Option.map_eq_some_iff] at h
    obtain ⟨m, hm, hpair⟩ := h
    injection hpair with hx hl
    subst hx hl
    exact ⟨rfl, List.mem_of_find?_eq_some hm, List.find?_some hm⟩

theorem lostRead_eq_none (ht : taskOn s k = none) : lostRead s (whoOf s k) [(a, n)] = none ↔
    (∃ bs, forwardOf s k (bytesAt a n) = .all bs) ∨ ∀ l ∈ linesOf a n, lostTo s (whoOf s k) l = false := by
  by_cases hf : ∃ bs, forwardOf s k (bytesAt a n) = .all bs
  · obtain ⟨bs, hbs⟩ := hf
    exact ⟨fun _ => Or.inl ⟨bs, hbs⟩, fun _ => lostRead_forwarded hbs⟩
  · rw [lostRead_below ht (not_exists.mp hf), Option.map_eq_none_iff, List.find?_eq_none]
    simp only [hf, false_or, Bool.not_eq_true]
end

/-- Settles O18: each load is its check, then what its ranges meet. -/
theorem loads : Obligations.Loads := by
  unfold Obligations.Loads
  refine ⟨fun h o s => ?ld, fun h s => ⟨fun o d => ?vld, fun o d => ?vgath⟩, fun s k a n ht => ?lost⟩
  case ld =>
    intro p k w a n i hi
    refine ⟨exec_ld_misaligned hi, fun hok ht => ?_⟩
    split
    case h_1 e hc => exact exec_ld_error hi hok ht hc
    case h_2 s1 hc =>
      intro s2 s3 fw v hl
      exact exec_ld_checked hi hok ht hc hl
  case vld =>
    intro i ls rs hd hi
    refine ⟨exec_vld_misaligned hi, fun hok ht => ?_⟩
    split
    case h_1 e hc => exact exec_vld_error hi hok ht hc
    case h_2 s1 hc =>
      intro s2 s3 fw hl
      obtain ⟨hmixed, hlost, hdone⟩ := exec_vld_checked hd hi hok ht hc hl
      exact ⟨hmixed, hlost, fun hm hn => ⟨_, hdone hm hn, vecLoaded_spec ((memFrame_checkAccess hc).trans (memFrame_acquiredAs ..)) (memFrame_prepLines ..)⟩⟩
  case vgath =>
    intro i ls addr rs hd hi
    refine ⟨fun L hL => exec_vgath_misaligned hi hL, fun hok ht => ?_⟩
    split
    case h_1 e hc => exact exec_vgath_error hi hok ht hc
    case h_2 s1 hc =>
      intro s3 hl
      obtain ⟨hmixed, hnot⟩ := exec_vgath_checked hd hi hok ht hc hl
      exact ⟨hmixed, fun hm => ⟨(hnot hm).1, fun hn => ⟨_, (hnot hm).2 hn, vecLoaded_spec (memFrame_checkAccess hc) (memFrame_prepLines ..)⟩⟩⟩
  case lost => exact ⟨fun x l => lostRead_eq_some ht, lostRead_eq_none ht⟩

end Sys2Proof.Machine
end

section
/-! PROOFS. Stores outside a task: the check, the release, and the store buffer (R176, R177, R197 to R199, R240). -/

namespace Sys2Proof.Machine
open Sys2Proof

/-! ## The entry of a store into its core's buffer (R177) -/

section
variable {s : State} {addr l : W64} {bs : List (W64 × Byte)} {ordered : Bool}

/-- How a store ends: it goes on where it entered the buffer, and waits where it found no room. -/
def storeEnd (addr : W64) (bs : List (W64 × Byte)) (ordered : Bool) : M Flow := do
  if ← storeM addr bs ordered then pure .done else pure .wait

/-- A state with a store in its core's buffer, the youngest. -/
def stored (s : State) (k c : Nat) (pc addr : W64) (bs : List (W64 × Byte)) (ordered : Bool) : State :=
  s.modCore (flatOf k) fun x => { x with sbuf := x.sbuf ++ [⟨k, c, pc, addr, bs, bs, false, ordered⟩] }

theorem storeEnd_lost (hf : fillLost s s.cur bs = some l) : storeEnd addr bs ordered s = .error (.lost 1 addr l) := by
  have hs : storeM addr bs ordered s = .error (.lost 1 addr l) := by
    simp only [storeM, me_bind, getState_bind, hf]
    rfl
  show (storeM addr bs ordered s >>= fun r => (if r.1 then pure .done else pure .wait : M Flow) r.2) = _
  rw [hs]
  rfl

theorem storeEnd_full (ht : taskOn s s.cur = none) (hf : fillLost s s.cur bs = none) (hfull : 32 ≤ (s.core (flatOf s.cur)).sbuf.length) :
    storeEnd addr bs ordered s = .ok (.wait, s) :=
  bind_of_ok (a := false) _ (by simp only [storeM, me_bind, getState_bind, hf, ht, if_pos hfull, pureM_run])

theorem storeEnd_room (ht : taskOn s s.cur = none) (hf : fillLost s s.cur bs = none) (hroom : (s.core (flatOf s.cur)).sbuf.length < 32) :
    storeEnd addr bs ordered s = .ok (.done, stored s s.cur (s.part s.cur).ctx (s.part s.cur).pc addr bs ordered) :=
  bind_of_ok (a := true) _ (by simp only [storeM, me_bind, getState_bind, hf, ht, if_neg (not_le.mpr hroom), modifyState_bind, pureM_run, stored])
end

/-! ## A store up to its entry -/

/-- The release of a store whose form has one. -/
def releasedAs (s : State) (flat : Nat) (mod : BitVec 8) : State := if ordOfMod mod = 2 then releaseAt s flat (scopeOfMod mod) else s

theorem memFrame_releasedAs (s : State) (flat : Nat) (mod : BitVec 8) : MemFrame s (releasedAs s flat mod) := by
  unfold releasedAs
  split
  · exact memFrame_releaseAt ..
  · exact .refl s

/-- A store up to its entry: MISALIGN where its form orders it, the check, the release. -/
def orderedWrite (mod : BitVec 8) (a : W64) (n : Nat) (rs : List (W64 × Nat)) (rest : M Flow) : M Flow := do
  if ordOfMod mod ≠ 0 ∧ a.toNat % n ≠ 0 then trapM 0x04 a
  checkM .write rs
  if ordOfMod mod = 2 then
    if !(← releaseM (scopeOfMod mod)) then return .wait
  rest

section
variable {mod : BitVec 8} {a : W64} {n : Nat} {rs : List (W64 × Nat)} {rest : M Flow} {s s1 : State} {e : AErr}

theorem orderedWrite_misaligned (hm : ordOfMod mod ≠ 0 ∧ a.toNat % n ≠ 0) : orderedWrite mod a n rs rest s = .error (.trap ⟨0x04, 0, a, none⟩) := by
  simp only [orderedWrite, if_pos hm]
  rfl

theorem orderedWrite_error (hm : ¬(ordOfMod mod ≠ 0 ∧ a.toNat % n ≠ 0)) (ht : taskOn s s.cur = none)
    (hc : checkAccess s (whoOf s s.cur) .write rs = .error e) : orderedWrite mod a n rs rest s = .error (stopOf .write e) := by
  simp only [orderedWrite, if_neg hm]
  exact checkM_error ht hc _

theorem releaseM_waits_bind {α : Type} (ht : taskOn s s.cur = none) (hs : storesDone s s.cur = false) (scope : Nat) (f : Bool → M α) :
    (releaseM scope >>= f) s = f false s := by
  refine bind_of_ok f ?_
  simp only [releaseM, releaseNow, me_bind, getState_bind, ht, hs, Option.isSome_none, Bool.false_eq_true, if_false, pureM_run]

/-- A release store waits for the partition's earlier stores. -/
theorem orderedWrite_waits (hm : ¬(ordOfMod mod ≠ 0 ∧ a.toNat % n ≠ 0)) (ht : taskOn s s.cur = none)
    (hc : checkAccess s (whoOf s s.cur) .write rs = .ok s1) (hl : onLost s1 (whoOf s s.cur).flat rs = false) (ho : ordOfMod mod = 2)
    (hs : storesDone s1 s.cur = false) : orderedWrite mod a n rs rest s = .ok (.wait, s1) := by
  have hframe := memFrame_checkAccess hc
  have ht1 : taskOn s1 s1.cur = none := by rw [hframe.cur, hframe.taskOn, ht]
  simp only [orderedWrite, if_neg hm, checkM_ok ht hc hl, if_pos ho]
  rw [releaseM_waits_bind ht1 (by rw [hframe.cur]; exact hs)]
  rfl

theorem orderedWrite_ok (hm : ¬(ordOfMod mod ≠ 0 ∧ a.toNat % n ≠ 0)) (ht : taskOn s s.cur = none)
    (hc : checkAccess s (whoOf s s.cur) .write rs = .ok s1) (hl : onLost s1 (whoOf s s.cur).flat rs = false)
    (hs : ordOfMod mod = 2 → storesDone s1 s.cur = true) :
    orderedWrite mod a n rs rest s = rest (releasedAs s1 (flatOf s.cur) mod) := by
  have hframe := memFrame_checkAccess hc
  have ht1 : taskOn s1 s1.cur = none := by rw [hframe.cur, hframe.taskOn, ht]
  simp only [orderedWrite, if_neg hm, checkM_ok ht hc hl, releasedAs]
  split
  case isTrue ho =>
    rw [releaseM_bind ht1 (by rw [hframe.cur]; exact hs ho), hframe.cur]
    rfl
  case isFalse => rfl
end

/-! ## The three stores -/

abbrev stIss (h : Hd) (o : OpM) : Iss := { h, store := true, reads := rds [o.data, o.base] }
abbrev vstIss (h : Hd) (o : OpM) : Iss := { h, store := true, reads := rds [o.data, o.base], lanes := true }
abbrev vscatIss (h : Hd) (o : OpC) : Iss := { h, store := true, reads := rds [o.s1, o.s2, o.s3], lanes := true }

theorem exec_st (h : Hd) (o : OpM) (s : State) : exec (.st h o) s = issue (stIss h o) (fun _ => do
    let p ← myPart
    orderedWrite o.mod (p.addrM o) (sizeM o) [(p.addrM o, sizeM o)]
      (storeEnd (p.addrM o) ((bytesAt (p.addrM o) (sizeM o)).zip (bytesOf (sizeM o) (p.src 0 o.data).toNat)) false)) s := rfl

theorem exec_vst (h : Hd) (o : OpM) (s : State) : exec (.vst h o) s = issue (vstIss h o) (fun mask => do
    let p ← myPart
    orderedWrite o.mod (p.addrM o) 4 (laneRanges mask fun L => p.addrM o + BitVec.ofNat 64 (4 * L))
      (storeEnd (p.addrM o)
        ((lanesOf mask).flatMap fun L => (bytesAt (p.addrM o + BitVec.ofNat 64 (4 * L)) 4).zip (bytesOf 4 (elemOf (p.vreg o.data) 32 L))) false)) s := rfl

theorem exec_vscat (h : Hd) (o : OpC) (s : State) : exec (.vscat h o) s = issue (vscatIss h o) (fun mask => do
    let p ← myPart
    match (lanesOf mask).find? fun L => (gatherAddr o.mod (p.src 0 o.s1) (p.vreg o.s2) L).toNat % 4 ≠ 0 with
    | some L => trapM 0x04 (gatherAddr o.mod (p.src 0 o.s1) (p.vreg o.s2) L)
    | none => do
      checkM .write (laneRanges mask (gatherAddr o.mod (p.src 0 o.s1) (p.vreg o.s2)))
      storeEnd (((lanesOf mask).head?.map (gatherAddr o.mod (p.src 0 o.s1) (p.vreg o.s2))).getD 0)
        ((lanesOf mask).flatMap fun L => (bytesAt (gatherAddr o.mod (p.src 0 o.s1) (p.vreg o.s2) L) 4).zip (bytesOf 4 (elemOf (p.vreg o.s3) 32 L))) true) s := rfl

/-! ## What a store does, by what it finds -/

section
variable {ins : Instr} {i : Iss} {body : W64 → M Flow} {s s1 u : State} {e : AErr} {addr : W64} {bytes : List (W64 × Byte)} {ordered : Bool}
  {mod : BitVec 8} {n : Nat} {rs : List (W64 × Nat)}

/-- A store at its entry: MCHECK for a stash line that the home has lost, a wait for room, or its place in the buffer. -/
theorem exec_of_storeEnd (he : exec ins s = issue i body s) (hi : issues s i = true) (hframe : MemFrame s u) (ht : taskOn s s.cur = none)
    (hb : body (lanesFor s i) s = storeEnd addr bytes ordered u) :
    (∀ l, fillLost u s.cur bytes = some l → exec ins s = .next (lostTrap s s.cur 1 addr l)) ∧
    (fillLost u s.cur bytes = none →
      (32 ≤ (u.core (flatOf s.cur)).sbuf.length → exec ins s = .next (waitingStore i s s.cur)) ∧
      ((u.core (flatOf s.cur)).sbuf.length < 32 →
        exec ins s = done i s (stored u s.cur (s.part s.cur).ctx (s.part s.cur).pc addr bytes ordered))) := by
  have hcur : u.cur = s.cur := hframe.cur
  have htask : taskOn u u.cur = none := by rw [hcur, hframe.taskOn, ht]
  have hctx : (u.part s.cur).ctx = (s.part s.cur).ctx := congrArg (·.ctx) (hframe.part s.cur)
  refine ⟨fun l hl => ?_, fun hf => ⟨fun hfull => ?_, fun hroom => ?_⟩⟩
  · exact he.trans (issue_lost hi (hb.trans (storeEnd_lost (by rw [hcur]; exact hl))))
  · exact he.trans (issue_waits hi (hb.trans (storeEnd_full htask (by rw [hcur]; exact hf) (by rw [hcur]; exact hfull))))
  · have hend := storeEnd_room (addr := addr) (ordered := ordered) htask (by rw [hcur]; exact hf) (by rw [hcur]; exact hroom)
    rw [hcur, hctx, hframe.pc] at hend
    exact he.trans (issue_done hi (hb.trans hend))

variable (he : exec ins s = issue i body s) (hi : issues s i = true) (hb : body (lanesFor s i) s = orderedWrite mod addr n rs (storeEnd addr bytes false) s)
include he hi hb

theorem exec_store_misaligned (ho : ordOfMod mod ≠ 0) (ha : addr.toNat % n ≠ 0) : exec ins s = .next (takeTrap s s.cur ⟨0x04, 0, addr, none⟩) :=
  he.trans (issue_traps rfl hi (hb.trans (orderedWrite_misaligned ⟨ho, ha⟩)))

variable (hok : ordOfMod mod = 0 ∨ addr.toNat % n = 0) (ht : taskOn s s.cur = none)
include hok ht

theorem exec_store_error (hc : checkAccess s (whoOf s s.cur) .write rs = .error e) : exec ins s = .next (stopped s s.cur (stopOf .write e)) :=
  he.trans (issue_stops hi (hb.trans (orderedWrite_error (not_misaligned hok) ht hc)))

variable (hc : checkAccess s (whoOf s s.cur) .write rs = .ok s1) (hl : onLost s1 (flatOf s.cur) rs = false)
include hc hl

theorem exec_store_waits (ho : ordOfMod mod = 2) (hs : storesDone s1 s.cur = false) : exec ins s = .next (waitingStore i s s.cur) :=
  he.trans (issue_waits hi (hb.trans (orderedWrite_waits (not_misaligned hok) ht hc hl ho hs)))

theorem exec_store_enters (hs : ordOfMod mod = 2 → storesDone s1 s.cur = true) :
    (∀ l, fillLost (releasedAs s1 (flatOf s.cur) mod) s.cur bytes = some l → exec ins s = .next (lostTrap s s.cur 1 addr l)) ∧
    (fillLost (releasedAs s1 (flatOf s.cur) mod) s.cur bytes = none →
      (32 ≤ ((releasedAs s1 (flatOf s.cur) mod).core (flatOf s.cur)).sbuf.length → exec ins s = .next (waitingStore i s s.cur)) ∧
      (((releasedAs s1 (flatOf s.cur) mod).core (flatOf s.cur)).sbuf.length < 32 →
        exec ins s = done i s (stored (releasedAs s1 (flatOf s.cur) mod) s.cur (s.part s.cur).ctx (s.part s.cur).pc addr bytes false))) :=
  exec_of_storeEnd he hi ((memFrame_checkAccess hc).trans (memFrame_releasedAs ..)) ht (hb.trans (orderedWrite_ok (not_misaligned hok) ht hc hl hs))
end

/-! ## VSCAT -/

section
variable {h : Hd} {o : OpC} {s s1 : State} {e : AErr} {L : Nat}

abbrev vscatAddr (s : State) (o : OpC) : Nat → W64 := gatherAddr o.mod ((s.part s.cur).src 0 o.s1) ((s.part s.cur).vreg o.s2)

theorem exec_vscat_misaligned (hi : issues s (vscatIss h o) = true)
    (hL : (lanesOf (lanesFor s (vscatIss h o))).find? (fun L => (vscatAddr s o L).toNat % 4 ≠ 0) = some L) :
    exec (.vscat h o) s = .next (takeTrap s s.cur ⟨0x04, 0, vscatAddr s o L, none⟩) := by
  refine (exec_vscat h o s).trans (issue_traps rfl hi ?_)
  simp only [myPart_bind, hL]
  rfl

variable (hok : ∀ L ∈ lanesOf (lanesFor s (vscatIss h o)), (vscatAddr s o L).toNat % 4 = 0)
include hok

theorem find_misaligned_store : (lanesOf (lanesFor s (vscatIss h o))).find? (fun L => (vscatAddr s o L).toNat % 4 ≠ 0) = none := by
  rw [List.find?_eq_none]
  intro L hL
  simp only [hok L hL, ne_eq, not_true_eq_false, decide_false, Bool.false_eq_true, not_false_iff]

theorem exec_vscat_error (hi : issues s (vscatIss h o) = true) (ht : taskOn s s.cur = none)
    (hc : checkAccess s (whoOf s s.cur) .write (laneRanges (lanesFor s (vscatIss h o)) (vscatAddr s o)) = .error e) :
    exec (.vscat h o) s = .next (stopped s s.cur (stopOf .write e)) := by
  refine (exec_vscat h o s).trans (issue_stops hi ?_)
  simp only [myPart_bind, find_misaligned_store hok]
  exact checkM_error ht hc _

theorem exec_vscat_enters (hi : issues s (vscatIss h o) = true) (ht : taskOn s s.cur = none)
    (hc : checkAccess s (whoOf s s.cur) .write (laneRanges (lanesFor s (vscatIss h o)) (vscatAddr s o)) = .ok s1)
    (hl : onLost s1 (flatOf s.cur) (laneRanges (lanesFor s (vscatIss h o)) (vscatAddr s o)) = false) :
    let addr := ((lanesOf (lanesFor s (vscatIss h o))).head?.map (vscatAddr s o)).getD 0
    let bytes := (lanesOf (lanesFor s (vscatIss h o))).flatMap fun L => (bytesAt (vscatAddr s o L) 4).zip (bytesOf 4 (elemOf ((s.part s.cur).vreg o.s3) 32 L))
    (∀ l, fillLost s1 s.cur bytes = some l → exec (.vscat h o) s = .next (lostTrap s s.cur 1 addr l)) ∧
    (fillLost s1 s.cur bytes = none →
      (32 ≤ (s1.core (flatOf s.cur)).sbuf.length → exec (.vscat h o) s = .next (waitingStore (vscatIss h o) s s.cur)) ∧
      ((s1.core (flatOf s.cur)).sbuf.length < 32 →
        exec (.vscat h o) s = done (vscatIss h o) s (stored s1 s.cur (s.part s.cur).ctx (s.part s.cur).pc addr bytes true))) := by
  refine exec_of_storeEnd (exec_vscat h o s) hi (memFrame_checkAccess hc) ht ?_
  simp only [myPart_bind, find_misaligned_store hok]
  exact checkM_ok ht hc hl _
end

/-- Settles O19: a store is its check and its release, then its entry. -/
theorem stores : Obligations.Stores := by
  unfold Obligations.Stores
  intro h s
  refine ⟨fun o => ?st, fun o => ?vst, fun o => ?vscat⟩
  case st =>
    intro a n i hi
    have hb := myPart_bind (s := s) fun p => orderedWrite o.mod (p.addrM o) (sizeM o) [(p.addrM o, sizeM o)]
      (storeEnd (p.addrM o) ((bytesAt (p.addrM o) (sizeM o)).zip (bytesOf (sizeM o) (p.src 0 o.data).toNat)) false)
    refine ⟨exec_store_misaligned (exec_st h o s) hi hb, fun hok ht => ?_⟩
    split
    case h_1 e hc => exact exec_store_error (exec_st h o s) hi hb hok ht hc
    case h_2 s1 hc =>
      exact fun hl => ⟨exec_store_waits (exec_st h o s) hi hb hok ht hc hl, exec_store_enters (exec_st h o s) hi hb hok ht hc hl⟩
  case vst =>
    intro a i ls hi
    have hb := myPart_bind (s := s) fun p => orderedWrite o.mod (p.addrM o) 4
      (laneRanges (lanesFor s (vstIss h o)) fun L => p.addrM o + BitVec.ofNat 64 (4 * L))
      (storeEnd (p.addrM o) ((lanesOf (lanesFor s (vstIss h o))).flatMap fun L =>
        (bytesAt (p.addrM o + BitVec.ofNat 64 (4 * L)) 4).zip (bytesOf 4 (elemOf (p.vreg o.data) 32 L))) false)
    refine ⟨exec_store_misaligned (exec_vst h o s) hi hb, fun hok ht => ?_⟩
    split
    case h_1 e hc => exact exec_store_error (exec_vst h o s) hi hb hok ht hc
    case h_2 s1 hc =>
      exact fun hl => ⟨exec_store_waits (exec_vst h o s) hi hb hok ht hc hl, exec_store_enters (exec_vst h o s) hi hb hok ht hc hl⟩
  case vscat =>
    intro i ls addr hi
    refine ⟨fun L hL => exec_vscat_misaligned hi hL, fun hok ht => ?_⟩
    split
    case h_1 e hc => exact exec_vscat_error hok hi ht hc
    case h_2 s1 hc => exact fun hl => exec_vscat_enters hok hi ht hc hl

end Sys2Proof.Machine
end

section
/-! PROOFS. PREF and FENCE (R193, R200, R201, R431). -/

namespace Sys2Proof.Machine
open Sys2Proof

/-! ## PREF (R201) -/

/-- The guest copy that PREF may fill of a line. -/
def prefetched (s : State) (k : Nat) (line : W64) : State :=
  match checkAccess s (whoOf s k) .read [(line, 1)] with
  | .ok _ => if (stashOf (s.part k) line).isSome then s else fillGuest (recallOthers s (some k) (flatOf k) line) (flatOf k) line
  | .error _ => s

theorem exec_pref (h : Hd) (o : OpC) (s : State) : exec (.pref h o) s = issue { h, reads := rds [o.s1, o.s2] } (fun _ => do
    let k ← me
    let p ← myPart
    let s ← get
    if (taskOn s k).isSome then return .done
    modify fun s => prefetched s k (lineOf (p.src 0 o.s1 + p.src 0 o.s2))
    pure .done) s := rfl

/-- A guest copy is the only object that a fill adds, and a free value the only one that it draws. -/
theorem fillGuest_frame (t : State) (flat : Nat) (line : W64) : { fillGuest t flat line with guests := t.guests, free := t.free } = t := by
  unfold fillGuest
  split
  · split <;> rfl
  · rfl

theorem recallOthers_of_no_stash {s : State} {k flat : Nat} {line : W64} (hp : ∀ kp ∈ s.parts, kp.1 = k ∨ kp.2.stash = []) (ha : s.away = []) :
    recallOthers s (some k) flat line = s := by
  have hkeep (kp : Nat × Part) (hkp : kp ∈ s.parts) (t : State) :
      (if some kp.1 = some k || kp.2.stash.isEmpty || devFor t (flatOf kp.1) line ≠ devFor t flat line then t else stashRecallLine t kp.1 line) = t := by
    refine if_pos ?_
    rcases hp kp hkp with hk | hs
    · rw [hk, decide_eq_true rfl, Bool.true_or, Bool.true_or]
    · rw [hs, List.isEmpty_nil, Bool.or_true, Bool.true_or]
  have hfold := (List.foldl_ext _ (fun t _ => t) s fun t kp hkp => hkeep kp hkp t).trans (List.foldl_fixed s.parts)
  rw [recallOthers, hfold, ha]
  show { s with away := [] } = s
  rw [← ha]

/-! ## FENCE (R193, R200) -/

/-- The end of a FENCE: the deferred trap of the first record in its scope, or the acquire that its kind asks for. -/
def fenceEnd (o : OpC) (rel : Bool) (k : Nat) : M Flow := do
  let p ← myPart
  match fenceRecord p (scopeOfMod o.mod) rel with
  | some d =>
    setMine fun p => { p with deferred := p.deferred.erase d }
    modify fun s => markTaken s p.ctx (flatOf k) d.record
    pure (.trapped ⟨d.code, 1, d.record, if d.code = 3 then some ((if d.mcast then 3 else 1) * 256 + d.reason % 256) else none⟩)
  | none =>
    if ordOfMod o.mod ≠ 2 then acquireM (scopeOfMod o.mod)
    pure .done

theorem exec_fence (h : Hd) (o : OpC) (s : State) : exec (.fence h o) s = issue { h } (fun _ => do
    let k ← me
    let s ← get
    if (taskOn s k).isSome then return .done
    if decide (ordOfMod o.mod ≠ 1) then
      if !(← releaseM (scopeOfMod o.mod)) then return .wait
    else if (s.core (flatOf k)).mcast.any (fun e => e.k = k && decide (e.scope ≤ scopeOfMod o.mod)) then return .wait
    fenceEnd o (decide (ordOfMod o.mod ≠ 1)) k) s := rfl

/-- The state in which a FENCE looks for a record: after its release, where its kind has one. -/
def fenced (s : State) (o : OpC) : State := if decide (ordOfMod o.mod ≠ 1) then releaseAt s (flatOf s.cur) (scopeOfMod o.mod) else s

theorem cur_fenced (s : State) (o : OpC) : (fenced s o).cur = s.cur := by
  unfold fenced
  split
  · exact (memFrame_releaseAt ..).cur
  · rfl

section
variable {h : Hd} {o : OpC} {s : State}

theorem leaves_fence_task (ht : (taskOn s s.cur).isSome = true) : Leaves (.fence h o) { h } s s := by
  intro hi
  refine (exec_fence h o s).trans (issue_done hi ?_)
  simp only [me_bind, getState_bind, if_pos ht, pureM_run]

variable (hi : issues s { h } = true) (ht : taskOn s s.cur = none)
include hi ht

theorem exec_fence_waits_stores (hr : decide (ordOfMod o.mod ≠ 1) = true) (hs : storesDone s s.cur = false) :
    exec (.fence h o) s = .next (waitingStore { h } s s.cur) := by
  refine (exec_fence h o s).trans (issue_waits (t := s) hi ?_)
  simp only [me_bind, getState_bind, ht, Option.isSome_none, Bool.false_eq_true, if_false, hr, if_true]
  exact releaseM_waits_bind ht hs _ _

theorem exec_fence_waits_mcast (hr : decide (ordOfMod o.mod ≠ 1) = false)
    (hm : ((s.core (flatOf s.cur)).mcast.any fun e => e.k = s.cur && decide (e.scope ≤ scopeOfMod o.mod)) = true) :
    exec (.fence h o) s = .next (waitingStore { h } s s.cur) := by
  refine (exec_fence h o s).trans (issue_waits (t := s) hi ?_)
  simp only [me_bind, getState_bind, ht, Option.isSome_none, Bool.false_eq_true, if_false, hr, hm, if_true, pureM_run]

omit hi in
/-- A FENCE that waits for nothing is its end, in the state that its release leaves. -/
theorem fence_goes {r : Except Stop (Flow × State)} (hs : decide (ordOfMod o.mod ≠ 1) = true → storesDone s s.cur = true)
    (hm : decide (ordOfMod o.mod ≠ 1) = false → ((s.core (flatOf s.cur)).mcast.any fun e => e.k = s.cur && decide (e.scope ≤ scopeOfMod o.mod)) = false)
    (hend : fenceEnd o (decide (ordOfMod o.mod ≠ 1)) s.cur (fenced s o) = r) :
    (do let k ← me
        let s ← get
        if (taskOn s k).isSome then return .done
        if decide (ordOfMod o.mod ≠ 1) then
          if !(← releaseM (scopeOfMod o.mod)) then return .wait
        else if (s.core (flatOf k)).mcast.any (fun e => e.k = k && decide (e.scope ≤ scopeOfMod o.mod)) then return .wait
        fenceEnd o (decide (ordOfMod o.mod ≠ 1)) k : M Flow) s = r := by
  rw [← hend, fenced]
  cases hr : decide (ordOfMod o.mod ≠ 1) with
  | true =>
    simp only [me_bind, getState_bind, ht, Option.isSome_none, Bool.false_eq_true, if_false, if_true]
    exact releaseM_bind ht (hs hr) _ _
  | false => simp only [me_bind, getState_bind, ht, Option.isSome_none, Bool.false_eq_true, if_false, hm hr]

end

theorem acquireM_run (scope : Nat) (s : State) : acquireM scope s = .ok ((), acquireAt s (flatOf s.cur) scope) := rfl

/-- Without a record in its scope, a FENCE acquires where its kind asks for it. -/
theorem fenceEnd_none {o : OpC} {rel : Bool} {s : State} (hf : fenceRecord (s.part s.cur) (scopeOfMod o.mod) rel = none) :
    fenceEnd o rel s.cur s = .ok (.done, if ordOfMod o.mod ≠ 2 then acquireAt s (flatOf s.cur) (scopeOfMod o.mod) else s) := by
  simp only [fenceEnd, myPart_bind, hf]
  split
  · rw [acquireM_bind, pureM_run]
  · rfl

theorem fenceEnd_some {o : OpC} {rel : Bool} {s : State} {d : Deferred} (hf : fenceRecord (s.part s.cur) (scopeOfMod o.mod) rel = some d) :
    fenceEnd o rel s.cur s = .ok (.trapped ⟨d.code, 1, d.record, if d.code = 3 then some ((if d.mcast then 3 else 1) * 256 + d.reason % 256) else none⟩,
      markTaken (s.modPart s.cur fun q => { q with deferred := q.deferred.erase d }) (s.part s.cur).ctx (flatOf s.cur) d.record) := by
  simp only [fenceEnd, myPart_bind, hf, setMine_bind, modifyState_bind, pureM_run]

/-- A body that takes a deferred trap. -/
theorem issue_trapped {s t : State} {i : Iss} {body : W64 → M Flow} {e : Trap} (hi : issues s i = true) (hb : body (lanesFor s i) s = .ok (.trapped e, t)) :
    issue i body s = .next (takeTrap t s.cur e) := by
  rw [issue_of_issues body hi, hb]
  rfl

/-- Settles O21: PREF fills at most a guest copy, and FENCE waits, releases, raises a record's trap, or acquires. -/
theorem fences : Obligations.Fences := by
  unfold Obligations.Fences
  intro h o s
  refine ⟨⟨fun ht hi => ?pref, fun ht hi => ?prefTask, fun t => fillGuest_frame t _ _, recallOthers_of_no_stash, fun j => ?registers⟩, leaves_fence_task,
    fun ht hi => ⟨exec_fence_waits_stores hi ht, exec_fence_waits_mcast hi ht, fun hs hm => ⟨fun hf => ?none, fun d hd => ?some⟩⟩⟩
  case pref =>
    refine (exec_pref h o s).trans (issue_done hi ?_)
    simp only [me_bind, myPart_bind, getState_bind, ht, Option.isSome_none, Bool.false_eq_true, if_false, modifyState_bind, pureM_run]
    rfl
  case prefTask =>
    refine (exec_pref h o s).trans (issue_done hi ?_)
    simp only [me_bind, myPart_bind, getState_bind, if_pos ht, pureM_run]
  case registers =>
    have hpart := (memFrame_recallOthers s (some s.cur) (flatOf s.cur) (lineOf ((s.part s.cur).src 0 o.s1 + (s.part s.cur).src 0 o.s2))).part j
    exact ⟨congrArg (·.s) hpart, congrArg (·.v) hpart, congrArg (·.p) hpart, congrArg (·.pc) hpart⟩
  case none =>
    have hend := fenceEnd_none (s := fenced s o) (by rw [cur_fenced]; exact hf)
    rw [cur_fenced] at hend
    exact (exec_fence h o s).trans (issue_done hi (fence_goes ht hs hm hend))
  case some =>
    have hend := fenceEnd_some (s := fenced s o) (by rw [cur_fenced]; exact hd)
    rw [cur_fenced] at hend
    exact (exec_fence h o s).trans (issue_trapped hi (fence_goes ht hs hm hend))

end Sys2Proof.Machine
end

section
/-! PROOFS. Atomics and multicast stores (R189 to R194, R202, R203). -/

namespace Sys2Proof.Machine
open Sys2Proof

/-! ## The act of an atomic -/

theorem cur_abortForStore (s : State) (i : Nat) : (abortForStore s i).cur = s.cur := by
  unfold abortForStore
  split
  · rfl
  · dsimp only
    split
    · rfl
    · exact abortTasks_cur ..

theorem cur_atomicAt (s : State) (flat : Nat) (a : W64) (sub n x y : Nat) : (atomicAt s flat a sub n x y).1.cur = s.cur :=
  (memFrame_homeWrite ..).cur.trans ((memFrame_toHome ..).cur.trans ((cur_abortForStore ..).trans (memFrame_hot ..).cur))

/-- The predicate that the predicate form of an atomic sets. -/
def amoPred (o : OpE) : Dst :=
  match o.s4 with
  | .c i => if o.mod.getLsbD 2 then .p ⟨i.val % 8, Nat.mod_lt _ (by decide)⟩ else .none
  | _ => .none

/-- An atomic's bytes, and its operand as its operation takes it. -/
abbrev amoSize (o : OpE) : Nat := if o.mod.toNat % 4 = 2 then 4 else 8
abbrev amoOperand (p : Part) (o : OpE) (sub : Nat) : Nat :=
  if sub = 9 then p.srcF (.flt (if amoSize o = 4 then fmt32 else fmt64)) (o.lit.getD 0) o.s2 else (p.src (o.lit.getD 0) o.s2).toNat

abbrev amoIss (h : Hd) (o : OpE) (srcs : List Src) : Iss := { h, reads := rds srcs, writes := wr o.d none ++ wr (amoPred o) none }

/-- An atomic once its access stands and its release is made: the act, or the trap UNSUPPORTED. -/
def amoAct (o : OpE) (sub : Nat) (k : Nat) (p : Part) (s : State) : M Flow := do
  let a := p.src (o.lit.getD 0) o.s1
  let n := amoSize o
  if !ownerDoes s (flatOf k) a sub n then
    if o.mod.getLsbD 2 then
      putM (amoPred o) 0
      pure .done
    else trapM 0x08 a
  else
    let s ← get
    let r := atomicAt s (flatOf k) a sub n (amoOperand p o sub) (p.src (o.lit.getD 0) o.s3).toNat
    set r.1
    putM o.d (BitVec.ofNat 64 r.2)
    putM (amoPred o) ones64
    if ordOfMod o.mod = 1 ∨ ordOfMod o.mod = 3 then acquireM (scopeOfMod o.mod)
    pure .done

/-- An atomic up to its act. -/
def amoBody (o : OpE) (sub : Nat) : M Flow := do
  let k ← me
  let p ← myPart
  let a := p.src (o.lit.getD 0) o.s1
  let n := amoSize o
  let s ← get
  if (taskOn s k).isSome then stop (nonSpec a)
  if a.toNat % n ≠ 0 then trapM 0x04 a
  checkM .atomic [(a, n)]
  if bufOverlaps s k a n then return .wait
  if isLost s (flatOf k) a then stop (.lost 3 a (lineOf a))
  if ordOfMod o.mod = 2 ∨ ordOfMod o.mod = 3 then
    if !(← releaseM (scopeOfMod o.mod)) then return .wait
  amoAct o sub k p s

theorem amo_eq_issue (h : Hd) (o : OpE) (sub : Nat) (cas : Bool) (s : State) :
    amo h o sub cas s = issue (amoIss h o ([o.s1, o.s2] ++ (if cas then [o.s3] else []))) (fun _ => amoBody o sub) s := rfl

abbrev amoAddr (s : State) (o : OpE) : W64 := (s.part s.cur).src (o.lit.getD 0) o.s1

/-- The release of an atomic whose form has one. -/
def amoReleased (s : State) (flat : Nat) (mod : BitVec 8) : State :=
  if ordOfMod mod = 2 ∨ ordOfMod mod = 3 then releaseAt s flat (scopeOfMod mod) else s

theorem memFrame_amoReleased (s : State) (flat : Nat) (mod : BitVec 8) : MemFrame s (amoReleased s flat mod) := by
  unfold amoReleased
  split
  · exact memFrame_releaseAt ..
  · exact .refl s

section
variable {o : OpE} {sub : Nat} {s s1 : State}

theorem amoBody_task (ht : (taskOn s s.cur).isSome = true) : amoBody o sub s = .error (.trap ⟨0x15, 0, 0x300, none⟩) := by
  simp only [amoBody, me_bind, myPart_bind, getState_bind, if_pos ht]
  rfl

variable (ht : taskOn s s.cur = none)
include ht

theorem amoBody_misaligned (ha : (amoAddr s o).toNat % amoSize o ≠ 0) : amoBody o sub s = .error (.trap ⟨0x04, 0, amoAddr s o, none⟩) := by
  simp only [amoBody, me_bind, myPart_bind, getState_bind, ht, Option.isSome_none, Bool.false_eq_true, if_false, if_pos ha]
  rfl

variable (ha : (amoAddr s o).toNat % amoSize o = 0) (hc : checkAccess s (whoOf s s.cur) .atomic [(amoAddr s o, amoSize o)] = .ok s1)
  (hl : onLost s1 (flatOf s.cur) [(amoAddr s o, amoSize o)] = false) (hb : bufOverlaps s s.cur (amoAddr s o) (amoSize o) = false)
include ha hc hl hb

theorem amoBody_lost (hlost : isLost s (flatOf s.cur) (amoAddr s o) = true) :
    amoBody o sub s = .error (.lost 3 (amoAddr s o) (lineOf (amoAddr s o))) := by
  simp only [amoBody, me_bind, myPart_bind, getState_bind, ht, Option.isSome_none, Bool.false_eq_true, if_false, ha, ne_eq, not_true_eq_false]
  refine (checkM_ok ht hc hl _).trans ?_
  simp only [hb, hlost, Bool.false_eq_true, if_false, if_true]
  rfl

theorem amoBody_acts (hlost : isLost s (flatOf s.cur) (amoAddr s o) = false)
    (hs : ordOfMod o.mod = 2 ∨ ordOfMod o.mod = 3 → storesDone s1 s.cur = true) :
    amoBody o sub s = amoAct o sub s.cur (s.part s.cur) s (amoReleased s1 (flatOf s.cur) o.mod) := by
  have hframe := memFrame_checkAccess hc
  have ht1 : taskOn s1 s1.cur = none := by rw [hframe.cur, hframe.taskOn, ht]
  simp only [amoBody, me_bind, myPart_bind, getState_bind, ht, Option.isSome_none, Bool.false_eq_true, if_false, ha, ne_eq, not_true_eq_false]
  refine (checkM_ok ht hc hl _).trans ?_
  simp only [hb, hlost, Bool.false_eq_true, if_false, amoReleased]
  split
  case isTrue ho =>
    rw [releaseM_bind ht1 (by rw [hframe.cur]; exact hs ho), hframe.cur]
    rfl
  case isFalse => rfl
end

section
variable {o : OpE} {sub : Nat} {k : Nat} {p : Part} {b s : State}

/-- What the act leaves: the old value in D, the new one at the location, the predicate set, and the acquire of its form. -/
def amoDone (o : OpE) (sub : Nat) (k : Nat) (p : Part) (s : State) : State :=
  let r := atomicAt s (flatOf k) (p.src (o.lit.getD 0) o.s1) sub (amoSize o) (amoOperand p o sub) (p.src (o.lit.getD 0) o.s3).toNat
  let u := (r.1.modPart k fun z => z.put o.d (BitVec.ofNat 64 r.2)).modPart k fun z => z.put (amoPred o) ones64
  if ordOfMod o.mod = 1 ∨ ordOfMod o.mod = 3 then acquireAt u (flatOf k) (scopeOfMod o.mod) else u

theorem set_bind {α : Type} (t : State) (f : PUnit → M α) (s : State) : ((set t : M PUnit) >>= f) s = f ⟨⟩ t := rfl

theorem amoAct_does (hk : s.cur = k) (hd : ownerDoes b (flatOf k) (p.src (o.lit.getD 0) o.s1) sub (amoSize o) = true) :
    amoAct o sub k p b s = .ok (.done, amoDone o sub k p s) := by
  have hcur := (cur_atomicAt s (flatOf k) (p.src (o.lit.getD 0) o.s1) sub (amoSize o) (amoOperand p o sub) (p.src (o.lit.getD 0) o.s3).toNat).trans hk
  simp only [amoAct, hd, Bool.not_true, Bool.false_eq_true, if_false, getState_bind, set_bind, putM_bind, State.modPart_cur, hcur, amoDone]
  split
  · rw [acquireM_bind, State.modPart_cur, State.modPart_cur, hcur, pureM_run]
  · rfl

theorem amoAct_lacks_pred (hk : s.cur = k) (hd : ownerDoes b (flatOf k) (p.src (o.lit.getD 0) o.s1) sub (amoSize o) = false) (hq : o.mod.getLsbD 2 = true) :
    amoAct o sub k p b s = .ok (.done, s.modPart k fun z => z.put (amoPred o) 0) := by
  simp only [amoAct, hd, hq, Bool.not_false, if_true, putM_bind, hk, pureM_run]

theorem amoAct_lacks (hd : ownerDoes b (flatOf k) (p.src (o.lit.getD 0) o.s1) sub (amoSize o) = false) (hq : o.mod.getLsbD 2 = false) :
    amoAct o sub k p b s = .error (.trap ⟨0x08, 0, p.src (o.lit.getD 0) o.s1, none⟩) := by
  simp only [amoAct, hd, hq, Bool.not_false, Bool.false_eq_true, if_true, if_false]
  rfl
end

/-- What an atomic does, by its operation and its sources: the statement's clauses for one member of the family. -/
def AmoDoes (h : Hd) (o : OpE) (s s1 : State) (ins : Instr) (sub : Nat) (srcs : List Src) : Prop :=
  let i := amoIss h o srcs
  let a := amoAddr s o
  let s2 := amoReleased s1 (flatOf s.cur) o.mod
  issues s i = true →
  ((taskOn s s.cur).isSome = true → exec ins s = .next (takeTrap s s.cur ⟨0x15, 0, 0x300, none⟩)) ∧
  (taskOn s s.cur = none → a.toNat % amoSize o ≠ 0 → exec ins s = .next (takeTrap s s.cur ⟨0x04, 0, a, none⟩)) ∧
  (taskOn s s.cur = none → a.toNat % amoSize o = 0 → checkAccess s (whoOf s s.cur) .atomic [(a, amoSize o)] = .ok s1 →
    onLost s1 (flatOf s.cur) [(a, amoSize o)] = false →
    (bufOverlaps s s.cur a (amoSize o) = false → isLost s (flatOf s.cur) a = true → exec ins s = .next (lostTrap s s.cur 3 a (lineOf a))) ∧
    (isLost s (flatOf s.cur) a = false → bufOverlaps s s.cur a (amoSize o) = false →
      (ordOfMod o.mod = 2 ∨ ordOfMod o.mod = 3 → storesDone s1 s.cur = true) →
      (ownerDoes s (flatOf s.cur) a sub (amoSize o) = true → exec ins s = done i s (amoDone o sub s.cur (s.part s.cur) s2)) ∧
      (ownerDoes s (flatOf s.cur) a sub (amoSize o) = false → o.mod.getLsbD 2 = true →
        exec ins s = done i s (s2.modPart s.cur fun z => z.put (amoPred o) 0)) ∧
      (ownerDoes s (flatOf s.cur) a sub (amoSize o) = false → o.mod.getLsbD 2 = false → exec ins s = .next (takeTrap s s.cur ⟨0x08, 0, a, none⟩))))

theorem amoDoes_of_exec_eq {h : Hd} {o : OpE} {s s1 : State} {ins : Instr} {sub : Nat} {srcs : List Src}
    (he : exec ins s = issue (amoIss h o srcs) (fun _ => amoBody o sub) s) : AmoDoes h o s s1 ins sub srcs := by
  intro hi
  refine ⟨fun ht => he.trans (issue_traps rfl hi (amoBody_task ht)), fun ht ha => he.trans (issue_traps rfl hi (amoBody_misaligned ht ha)),
    fun ht ha hc hl => ⟨fun hb hlost => he.trans (issue_lost hi (amoBody_lost ht ha hc hl hb hlost)), fun hlost hb hs => ?_⟩⟩
  have hcur : (amoReleased s1 (flatOf s.cur) o.mod).cur = s.cur := ((memFrame_checkAccess hc).trans (memFrame_amoReleased ..)).cur
  have hacts := amoBody_acts (sub := sub) ht ha hc hl hb hlost hs
  exact ⟨fun hd => he.trans (issue_done hi (hacts.trans (amoAct_does hcur hd))),
    fun hd hq => he.trans (issue_done hi (hacts.trans (amoAct_lacks_pred hcur hd hq))),
    fun hd hq => he.trans (issue_traps rfl hi (hacts.trans (amoAct_lacks hd hq)))⟩

/-! ## What an atomic leaves at its location (R191, R202) -/

section
variable {n old x : Nat} (y : Nat)

theorem amoNew_min : intOf true (8 * n) (amoNew 4 n old x y) = min (intOf true (8 * n) old) (intOf true (8 * n) x) := by
  rw [min_def]
  exact apply_ite _ _ _ _

theorem amoNew_max : intOf true (8 * n) (amoNew 5 n old x y) = max (intOf true (8 * n) old) (intOf true (8 * n) x) := by
  rw [max_def]
  exact apply_ite _ _ _ _

/-- Every result but a floating-point sum fits the location. -/
theorem amoNew_lt {y sub : Nat} (ho : old < 2 ^ (8 * n)) (hx : x < 2 ^ (8 * n)) (hy : y < 2 ^ (8 * n)) (hsub : sub ≤ 8 ∨ sub = 16) :
    amoNew sub n old x y < 2 ^ (8 * n) := by
  have hite (c : Prop) [Decidable c] (u v : Nat) (hu : u < 2 ^ (8 * n)) (hv : v < 2 ^ (8 * n)) : (if c then u else v) < 2 ^ (8 * n) := by
    split
    · exact hu
    · exact hv
  obtain hle | rfl := hsub
  · match sub, hle with
    | 0, _ => exact Nat.mod_lt _ (Nat.two_pow_pos _)
    | 1, _ => exact Nat.and_lt_two_pow _ hx
    | 2, _ => exact Nat.or_lt_two_pow ho hx
    | 3, _ => exact Nat.xor_lt_two_pow ho hx
    | 4, _ => exact hite _ _ _ ho hx
    | 5, _ => exact hite _ _ _ hx ho
    | 6, _ => exact (Nat.min_le_left _ _).trans_lt ho
    | 7, _ => exact max_lt ho hx
    | 8, _ => exact hx
  · exact hite _ _ _ hy ho
end

/-- Settles O22: the members differ in their operation and their sources alone. -/
theorem atomics : Obligations.Atomics := by
  unfold Obligations.Atomics
  refine ⟨fun h o s s1 => ?members, fun n old x y hn ho hx hy => ?values⟩
  case members =>
    exact ⟨amoDoes_of_exec_eq (amo_eq_issue h o 0 false s), amoDoes_of_exec_eq (amo_eq_issue h o 1 false s), amoDoes_of_exec_eq (amo_eq_issue h o 2 false s),
      amoDoes_of_exec_eq (amo_eq_issue h o 3 false s), amoDoes_of_exec_eq (amo_eq_issue h o 4 false s), amoDoes_of_exec_eq (amo_eq_issue h o 5 false s),
      amoDoes_of_exec_eq (amo_eq_issue h o 6 false s), amoDoes_of_exec_eq (amo_eq_issue h o 7 false s), amoDoes_of_exec_eq (amo_eq_issue h o 8 false s),
      amoDoes_of_exec_eq (amo_eq_issue h o 9 false s), amoDoes_of_exec_eq (amo_eq_issue h o 16 true s)⟩
  case values =>
    exact ⟨rfl, rfl, rfl, rfl, amoNew_min y, amoNew_max y, rfl, rfl, rfl, rfl, fun sub => amoNew_lt ho hx hy⟩

/-! ## STM and STRED (R192, R203) -/

abbrev mcastIss (h : Hd) (o : OpE) : Iss := { h, reads := rds [o.s1, o.s2, o.s3] }

/-- The destinations that a mask asks for, in order. -/
def mcTodo (v : VReg) (mask : Nat) : List (Nat × W64) :=
  ((List.range 8).filter fun j => mask / 2 ^ j % 2 = 1).map fun j => (j, BitVec.ofNat 64 (elemOf v 32 (2 * j) + 2 ^ 32 * elemOf v 32 (2 * j + 1)))

/-- The datum of a multicast or reducing store. -/
def mcData (p : Part) (o : OpE) (red : Bool) : List Byte :=
  if 4 ≤ o.mod.toNat % 8 then bytesOf 256 (p.vreg o.s1).toNat
  else bytesOf (mcSize (o.mod.toNat % 8)) (if red && (o.mod.toNat % 8 = 2 || o.mod.toNat % 8 = 3) then
    p.srcF (.flt (if o.mod.toNat % 8 = 2 then fmt32 else fmt64)) (o.lit.getD 0) o.s1 else (p.src (o.lit.getD 0) o.s1).toNat)

/-- STRED takes a datum of a floating-point TYPE as a number of that type. -/
theorem mcData_eq (p : Part) (o : OpE) (red : Bool) : mcData p o red =
    if 4 ≤ o.mod.toNat % 8 then bytesOf 256 (p.vreg o.s1).toNat
    else if red = true ∧ (o.mod.toNat % 8 = 2 ∨ o.mod.toNat % 8 = 3) then
      bytesOf (mcSize (o.mod.toNat % 8)) (p.srcF (.flt (if o.mod.toNat % 8 = 2 then fmt32 else fmt64)) (o.lit.getD 0) o.s1)
    else bytesOf (mcSize (o.mod.toNat % 8)) (p.src (o.lit.getD 0) o.s1).toNat := by
  simp only [mcData, Bool.and_eq_true, Bool.or_eq_true, decide_eq_true_eq, apply_ite (bytesOf (mcSize (o.mod.toNat % 8)))]

/-- A state with a multicast store on its way from a core. -/
def mcSent (s : State) (k : Nat) (p : Part) (o : OpE) (red : Bool) : State :=
  s.modCore (flatOf k) fun c => { c with mcast := c.mcast ++ [⟨k, p.ctx, p.pc, red, scopeOfMod o.mod, o.mod.toNat % 8, mcData p o red, (p.src 0 o.s3).toNat % 256,
    mcTodo (p.vreg o.s2) ((p.src 0 o.s3).toNat % 256), 0, []⟩] }

def mcastBody (o : OpE) (red : Bool) : M Flow := do
  let k ← me
  let p ← myPart
  let s ← get
  if (taskOn s k).isSome then stop (nonSpec 0)
  if (p.src 0 o.s3).toNat % 256 = 0 then return .done
  if o.mod.getLsbD 6 then
    if !(← releaseM (scopeOfMod o.mod)) then return .wait
  modify fun s => mcSent s k p o red
  pure .done

theorem mcast_eq_issue (h : Hd) (o : OpE) (red : Bool) (s : State) : mcast h o red s = issue (mcastIss h o) (fun _ => mcastBody o red) s := rfl

section
variable {o : OpE} {red : Bool} {s : State}

theorem mcastBody_task (ht : (taskOn s s.cur).isSome = true) : mcastBody o red s = .error (.trap ⟨0x15, 0, 0x300, none⟩) := by
  simp only [mcastBody, me_bind, myPart_bind, getState_bind, if_pos ht]
  rfl

variable (ht : taskOn s s.cur = none)
include ht

theorem mcastBody_nothing (hm : ((s.part s.cur).src 0 o.s3).toNat % 256 = 0) : mcastBody o red s = .ok (.done, s) := by
  simp only [mcastBody, me_bind, myPart_bind, getState_bind, ht, Option.isSome_none, Bool.false_eq_true, if_false, if_pos hm, pureM_run]

variable (hm : ((s.part s.cur).src 0 o.s3).toNat % 256 ≠ 0)
include hm

theorem mcastBody_waits (hr : o.mod.getLsbD 6 = true) (hs : storesDone s s.cur = false) : mcastBody o red s = .ok (.wait, s) := by
  simp only [mcastBody, me_bind, myPart_bind, getState_bind, ht, Option.isSome_none, Bool.false_eq_true, if_false, if_neg hm, if_pos hr]
  exact releaseM_waits_bind ht hs _ _

theorem mcastBody_sends (hs : o.mod.getLsbD 6 = true → storesDone s s.cur = true) :
    mcastBody o red s = .ok (.done, mcSent (if o.mod.getLsbD 6 then releaseAt s (flatOf s.cur) (scopeOfMod o.mod) else s) s.cur (s.part s.cur) o red) := by
  simp only [mcastBody, me_bind, myPart_bind, getState_bind, ht, Option.isSome_none, Bool.false_eq_true, if_false, if_neg hm]
  split
  case isTrue hr => exact releaseM_bind ht (hs hr) _ _
  case isFalse => rfl
end

/-- What a multicast store does: the clauses of the statement for one member of the family. -/
theorem mcast_sends {h : Hd} {o : OpE} {s : State} {ins : Instr} {red : Bool} (he : exec ins s = issue (mcastIss h o) (fun _ => mcastBody o red) s)
    (hi : issues s (mcastIss h o) = true) :
    ((taskOn s s.cur).isSome = true → exec ins s = .next (takeTrap s s.cur ⟨0x15, 0, 0x300, none⟩)) ∧
    (taskOn s s.cur = none → ((s.part s.cur).src 0 o.s3).toNat % 256 = 0 → exec ins s = done (mcastIss h o) s s) ∧
    (taskOn s s.cur = none → ((s.part s.cur).src 0 o.s3).toNat % 256 ≠ 0 → o.mod.getLsbD 6 = true → storesDone s s.cur = false →
      exec ins s = .next (waitingStore (mcastIss h o) s s.cur)) ∧
    (taskOn s s.cur = none → ((s.part s.cur).src 0 o.s3).toNat % 256 ≠ 0 → (o.mod.getLsbD 6 = true → storesDone s s.cur = true) →
      exec ins s = done (mcastIss h o) s
        (mcSent (if o.mod.getLsbD 6 then releaseAt s (flatOf s.cur) (scopeOfMod o.mod) else s) s.cur (s.part s.cur) o red)) :=
  ⟨fun ht => he.trans (issue_traps rfl hi (mcastBody_task ht)), fun ht hm => he.trans (issue_done hi (mcastBody_nothing ht hm)),
    fun ht hm hr hs => he.trans (issue_waits hi (mcastBody_waits ht hm hr hs)), fun ht hm hs => he.trans (issue_done hi (mcastBody_sends ht hm hs))⟩

/-- Settles O23: STM and STRED differ in their datum and in how it is merged. -/
theorem multicastStores : Obligations.MulticastStores := by
  unfold Obligations.MulticastStores
  intro h o s
  have hstm := mcast_sends (ins := .stm h o) (mcast_eq_issue h o false s)
  have hstred := mcast_sends (ins := .stred h o) (mcast_eq_issue h o true s)
  rw [mcSent, mcData_eq] at hstm hstred
  exact ⟨hstm, hstred⟩

end Sys2Proof.Machine
end

section
/-! PROOFS. Special registers: MFS and MTS, what each number reads as, and what it takes (R48 to R53, R93 to R95, R121, R162, R174, R216). -/

namespace Sys2Proof.Machine
open Sys2Proof

/-! ## The numbers -/

section
variable {s : State} {k n : Nat} {p : Part} {v : W64}

theorem engineOnlySr_of_mem (hn : (0x020 ≤ n ∧ n ≤ 0x029) ∨ (0x040 ≤ n ∧ n ≤ 0x04C) ∨ (0x070 ≤ n ∧ n ≤ 0x076) ∨ n = 0x080 ∨ n = 0x088) :
    engineOnlySr n = true := by
  simpa only [engineOnlySr, Bool.or_eq_true, Bool.and_eq_true, decide_eq_true_eq, or_assoc] using hn

/-- A number of an engine is refused to partition D. -/
theorem srRead_engineOnly (hk : idxOf k = 3) (hn : engineOnlySr n = true) : srRead s k n = none :=
  if_pos (by rw [hk, hn]; rfl)

theorem srWrite_engineOnly (hn : engineOnlySr n = true) : p.srWrite 3 n v = none := if_pos (by rw [hn]; rfl)

/-- To a unit no number is refused as an engine's. -/
theorem not_engine_of_unit {idx : Nat} (h : idx ≠ 3) (n : Nat) : ¬(decide (idx = 3) && engineOnlySr n) = true := by
  rw [decide_eq_false h, Bool.false_and]
  exact Bool.false_ne_true

/-- A number that only reads keeps its value. -/
theorem srWrite_readOnly {idx : Nat} (h : idx ≠ 3) (hn : n ≤ 0x009 ∨ n = 0x020 ∨ n = 0x022 ∨ n = 0x025 ∨ n = 0x028 ∨ n = 0x029 ∨ (0x030 ≤ n ∧ n ≤ 0x033) ∨
    (0x040 ≤ n ∧ n ≤ 0x04C) ∨ n = 0x076 ∨ n = 0x080) : p.srWrite idx n v = some p := by
  have hsmall : n < 0x081 := by omega
  have hall : ∀ m < 0x081, (m ≤ 0x009 ∨ m = 0x020 ∨ m = 0x022 ∨ m = 0x025 ∨ m = 0x028 ∨ m = 0x029 ∨ (0x030 ≤ m ∧ m ≤ 0x033) ∨
      (0x040 ≤ m ∧ m ≤ 0x04C) ∨ m = 0x076 ∨ m = 0x080) → m ∈ [0x000, 0x001, 0x002, 0x003, 0x004, 0x005, 0x006, 0x007, 0x008, 0x009, 0x020, 0x022, 0x025, 0x028, 0x029,
        0x030, 0x031, 0x032, 0x033, 0x040, 0x041, 0x042, 0x043, 0x044, 0x045, 0x046, 0x047, 0x048, 0x049, 0x04A, 0x04B, 0x04C, 0x076, 0x080] := by decide
  have hmem := hall n hsmall hn
  simp only [List.mem_cons, List.not_mem_nil, or_false] at hmem
  rcases hmem with rfl | rfl | rfl | rfl | rfl | rfl | rfl | rfl | rfl | rfl | rfl | rfl | rfl | rfl | rfl | rfl | rfl | rfl | rfl | rfl | rfl | rfl | rfl | rfl |
    rfl | rfl | rfl | rfl | rfl | rfl | rfl | rfl | rfl | rfl <;> exact if_neg (not_engine_of_unit h _)

/-- The rounding mode that a write of FPCTL asks for. -/
theorem bits_rounding (v : W64) : bits v 2 0 = (v &&& 7).toNat := by
  rw [BitVec.toNat_and]
  exact ((Nat.and_two_pow_sub_one_eq_mod v.toNat 3).trans (by rw [bits, Nat.pow_zero, Nat.div_one])).symm

theorem srWrite_fpctl {idx : Nat} (h : idx ≠ 3) : p.srWrite idx 0x010 v = if 4 < (v &&& 7).toNat then none else some { p with fpctl := v.setWidth 4 } := by
  rw [← bits_rounding]
  exact if_neg (not_engine_of_unit h _)
end

/-! ## MFS and MTS (R121) -/

theorem cur_srSeen (s : State) (k n : Nat) (v : W64) : (srSeen s k n v).cur = s.cur := by
  unfold srSeen
  split_ifs
  · exact logOrTake_cur ..
  · exact (memFrame_acquireAt ..).cur
  · exact (memFrame_acquireAt ..).cur
  · exact (memFrame_acquireAt ..).cur
  · exact (memFrame_acquireAt ..).cur
  · exact (memFrame_acquireAt ..).cur
  · rfl

section
variable {h : Hd} {o : OpL} {s : State}

abbrev mfsIss (h : Hd) (o : OpL) : Iss := { h, writes := wr o.d (if srLive o.lit.toNat then none else some 1) }
abbrev mtsIss (h : Hd) (o : OpL) : Iss := { h, reads := rds [o.s1], keepPass := o.lit.toNat = 0x070 }

theorem exec_mfs (h : Hd) (o : OpL) (s : State) : exec (.mfs h o) s = execMfs h o s := rfl
theorem exec_mts (h : Hd) (o : OpL) (s : State) : exec (.mts h o) s = execMts h o s := rfl

theorem leaves_mfs {v : W64} (hv : srRead s s.cur o.lit.toNat = some v) :
    Leaves (.mfs h o) (mfsIss h o) s ((srSeen s s.cur o.lit.toNat v).modPart s.cur (·.put o.d v)) := by
  intro hi
  refine (exec_mfs h o s).trans (issue_done hi ?_)
  simp only [me_bind, getState_bind, hv, modifyState_bind, putM_bind, cur_srSeen, pureM_run]

theorem exec_mfs_value (hv : srRead s s.cur o.lit.toNat = none) (hi : issues s (mfsIss h o) = true) : exec (.mfs h o) s = valueOutcome s := by
  refine (exec_mfs h o s).trans (issue_value hi ?_)
  simp only [me_bind, getState_bind, hv, illegalValue_run]

theorem gives_mts {q : Part} (hq : (s.part s.cur).srWrite (idxOf s.cur) o.lit.toNat ((s.part s.cur).src 0 o.s1) = some q) :
    Gives (.mts h o) (mtsIss h o) s fun _ => q := by
  refine gives_of_body (exec_mts h o s) ?_
  simp only [me_bind, myPart_bind, hq, setMine_bind, pureM_run]

theorem exec_mts_value (hq : (s.part s.cur).srWrite (idxOf s.cur) o.lit.toNat ((s.part s.cur).src 0 o.s1) = none)
    (hi : issues s (mtsIss h o) = true) : exec (.mts h o) s = valueOutcome s := by
  refine (exec_mts h o s).trans (issue_value hi ?_)
  simp only [me_bind, myPart_bind, hq, illegalValue_run]
end

/-- Settles O24: MFS and MTS are their tables, and each number of the tables is looked up. -/
theorem specialRegisters : Obligations.SpecialRegisters := by
  unfold Obligations.SpecialRegisters
  refine ⟨fun h o s => ⟨fun v => leaves_mfs, exec_mfs_value, fun q => gives_mts, exec_mts_value⟩, fun s k => ⟨fun hk => ?reads, fun hk n v hn => ?engine⟩,
    fun p idx v hidx => ⟨fun n => srWrite_readOnly (by omega), fun hv => ?fpctl, fun hv => ?refused, ?writes⟩⟩
  case reads => and_intros <;> exact if_neg (not_engine_of_unit hk _)
  case engine => exact ⟨srRead_engineOnly hk (engineOnlySr_of_mem hn), srWrite_engineOnly (engineOnlySr_of_mem hn)⟩
  case fpctl => exact (srWrite_fpctl (by omega)).trans (if_neg (by omega))
  case refused => exact (srWrite_fpctl (by omega)).trans (if_pos hv)
  case writes =>
    have h3 : idx ≠ 3 := by omega
    and_intros <;> exact if_neg (not_engine_of_unit h3 _)

end Sys2Proof.Machine
end

section
/-! PROOFS. ALIGN, FOLLOW, UNFOLLOW and EXIT (R101, R110, R112, R113). -/

namespace Sys2Proof.Machine
open Sys2Proof

/-! ## ALIGN (R112) -/

/-- Whether a wait has ended. -/
def Sleep.isWoken : Sleep → Bool
  | .woken _ _ => true
  | _ => false

/-- The waiters at an ALIGN that one arrival wakes, one partition at a time. -/
def alignWakeOne (s : State) (cl : Nat) (t : State) (kp : Nat × Part) : State :=
  match kp.2.sleep with
  | .align a m => if clOf (flatOf kp.1) = cl && alignMet s kp.1 a m then t.modPart kp.1 fun p => { p with sleep := .woken 1 0 } else t
  | _ => t

theorem alignWake_eq (s : State) (cl : Nat) : alignWake s cl = s.parts.foldl (alignWakeOne s cl) s := rfl

theorem alignWakeOne_cur (s : State) (cl : Nat) (t : State) (kp : Nat × Part) : (alignWakeOne s cl t kp).cur = t.cur := by
  unfold alignWakeOne
  split
  · split <;> rfl
  · rfl

theorem cur_alignWake (s : State) (cl : Nat) : (alignWake s cl).cur = s.cur := cur_foldl (alignWakeOne_cur s cl) _ s

/-- A part that one arrival has woken stays so, whoever else it wakes. -/
theorem woken_foldl_alignWake {s : State} {cl k : Nat} (l : List (Nat × Part)) {t : State} (ht : (t.part k).sleep = .woken 1 0) :
    ((l.foldl (alignWakeOne s cl) t).part k).sleep = .woken 1 0 := by
  induction l generalizing t with
  | nil => exact ht
  | cons kp l ih =>
    refine ih ?_
    unfold alignWakeOne
    split
    · split
      · by_cases hk : k = kp.1
        · rw [hk, State.part_modPart]
        · rw [State.part_modPart_ne t _ hk]
          exact ht
      · exact ht
    · exact ht

/-- A waiter whose own condition holds is woken. -/
theorem woken_alignWake {s : State} {k m : Nat} {a : W64} {p : Part} (hp : (k, p) ∈ s.parts) (hsleep : p.sleep = .align a m)
    (hmet : alignMet s k a m = true) : ((alignWake s (clOf (flatOf k))).part k).sleep = .woken 1 0 := by
  have hone (t : State) : ((alignWakeOne s (clOf (flatOf k)) t (k, p)).part k).sleep = .woken 1 0 := by
    simp only [alignWakeOne, hsleep, hmet, decide_true, Bool.and_self, if_true, State.part_modPart]
  have hall (l : List (Nat × Part)) (hl : (k, p) ∈ l) (t : State) : ((l.foldl (alignWakeOne s (clOf (flatOf k))) t).part k).sleep = .woken 1 0 := by
    obtain ⟨before, after, rfl⟩ := List.append_of_mem hl
    rw [List.foldl_append, List.foldl_cons]
    exact woken_foldl_alignWake after (hone _)
  rw [alignWake_eq]
  exact hall s.parts hp s

theorem mem_of_mfind {α : Type} {m : Map α} {k : Nat} {v : α} (h : mfind m k = some v) : (k, v) ∈ m := by
  induction m with
  | nil => exact nomatch h
  | cons x m ih =>
    obtain ⟨a, w⟩ := x
    unfold mfind at h
    split at h
    case isTrue ha =>
      injection h with hw
      rw [ha, hw]
      exact List.mem_cons_self ..
    case isFalse =>
      split at h
      · exact nomatch h
      · exact List.mem_cons_of_mem _ (ih h)

theorem mem_parts_modPart (s : State) (k : Nat) (f : Part → Part) : (k, f (s.part k)) ∈ (s.modPart k f).parts := mem_of_mfind (mfind_mset_self s.parts k _)

section
variable {h : Hd} {o : OpB} {s : State}

abbrev alignIss (h : Hd) (o : OpB) : Iss := { h, reads := rds [o.s1, o.s2] }

theorem exec_align (h : Hd) (o : OpB) (s : State) : exec (.align h o) s = execAlign h o s := rfl

theorem leaves_align_forwarded (hf : (s.part s.cur).fwdNow.isSome = true) : Leaves (.align h o) (alignIss h o) s s := by
  intro hi
  refine (exec_align h o s).trans (issue_done hi ?_)
  simp only [me_bind, myPart_bind, if_pos hf, pureM_run]

theorem gives_align_woken {w : Nat} {v : W64} (hf : (s.part s.cur).fwdNow = none) (hs : (s.part s.cur).sleep = .woken w v) :
    Gives (.align h o) (alignIss h o) s fun p => { p with sleep := .awake } := by
  refine gives_of_body (exec_align h o s) ?_
  simp only [me_bind, myPart_bind, hf, Option.isSome_none, Bool.false_eq_true, if_false, hs, setMine_bind, pureM_run]

/-- The arrival of the acting part at an ALIGN. -/
def atAlign (s : State) (o : OpB) : State := s.modPart s.cur fun p => { p with sleep := .align p.pc ((p.src 0 o.s1).toNat % 65536) }

/-- The end of an arrival: it goes on where it has been woken or its window is 0. -/
def alignEnd (window : Nat) : M Flow := do
  let p ← myPart
  if p.sleep.isWoken || decide (window = 0) then
    setMine fun p => { p with sleep := .awake }
    pure .done
  else pure .waitKeep

/-- An arrival of a part that waits nowhere. -/
theorem align_arrives (hf : (s.part s.cur).fwdNow = none) (hs : (s.part s.cur).sleep = .awake) :
    (do let k ← me
        let p ← myPart
        if p.fwdNow.isSome then pure .done
        else match p.sleep with
        | .woken _ _ =>
          setMine fun p => { p with sleep := .awake }
          pure .done
        | _ =>
          setMine fun p => { p with sleep := .align p.pc ((p.src 0 o.s1).toNat % 65536) }
          modify fun s => alignWake s (clOf (flatOf k))
          let p' ← myPart
          let met := match p'.sleep with
            | .woken _ _ => true
            | _ => false
          if met || (p.src 0 o.s2).toNat % 65536 = 0 then
            setMine fun p => { p with sleep := .awake }
            pure .done
          else pure .waitKeep : M Flow) s =
      alignEnd (((s.part s.cur).src 0 o.s2).toNat % 65536) (alignWake (atAlign s o) (clOf (flatOf s.cur))) := by
  simp only [me_bind, myPart_bind, hf, Option.isSome_none, Bool.false_eq_true, if_false, hs, setMine_bind, modifyState_bind]
  rfl

theorem cur_atAlign (s : State) (o : OpB) : (alignWake (atAlign s o) (clOf (flatOf s.cur))).cur = s.cur := cur_alignWake ..

/-- An arrival with a window of 0, or whose condition holds, goes on. -/
theorem leaves_align_met (hf : (s.part s.cur).fwdNow = none) (hs : (s.part s.cur).sleep = .awake)
    (hm : ((s.part s.cur).src 0 o.s2).toNat % 65536 = 0 ∨
      alignMet (atAlign s o) s.cur (s.part s.cur).pc (((s.part s.cur).src 0 o.s1).toNat % 65536) = true) :
    Leaves (.align h o) (alignIss h o) s ((alignWake (atAlign s o) (clOf (flatOf s.cur))).modPart s.cur fun p => { p with sleep := .awake }) := by
  intro hi
  have hgo : ((((alignWake (atAlign s o) (clOf (flatOf s.cur))).part s.cur).sleep.isWoken) || decide (((s.part s.cur).src 0 o.s2).toNat % 65536 = 0)) = true := by
    rw [Bool.or_eq_true, decide_eq_true_eq]
    refine hm.symm.imp_left fun hmet => ?_
    have hin := mem_parts_modPart s s.cur fun p => { p with sleep := .align p.pc ((p.src 0 o.s1).toNat % 65536) }
    rw [woken_alignWake (s := atAlign s o) hin rfl hmet]
    rfl
  refine (exec_align h o s).trans (issue_done hi ((align_arrives hf hs).trans ?_))
  rw [alignEnd, myPart_bind, cur_atAlign, if_pos hgo, setMine_bind, cur_atAlign]
  rfl
end

/-! ## FOLLOW and UNFOLLOW (R101, R113) -/

section
variable {h : Hd} {o : OpB} {s : State}

theorem exec_follow (h : Hd) (o : OpB) (s : State) : exec (.follow h o) s = execFollow h o s := rfl
theorem exec_unfollow (h : Hd) (s : State) : exec (.unfollow h) s = issue { h } (fun _ => unfollowBody) s := rfl
theorem exec_unfollowPred (h : Hd) (q : Pred) (s : State) : exec (.unfollowPred h q) s = issue { h, q := some q } (fun _ => unfollowBody) s := rfl

/-- The position that a FOLLOW names. -/
abbrev followAt (s : State) (o : OpB) : Fin 16 := ⟨((s.part s.cur).src 0 o.s1).toNat % 16, Nat.mod_lt _ (by decide)⟩

section
variable (hm : (s.part s.cur).fmode = .free) (hf : (s.part s.cur).fwdNow = none)
include hm hf

theorem gives_follow_leads (hq : (followAt s o).val = posOf (flatOf s.cur)) :
    Gives (.follow h o) (alignIss h o) s fun p => { p.drain with fmode := .leading, fmask := 0 } := by
  refine gives_of_body (exec_follow h o s) ?_
  simp only [me_bind, myPart_bind, setMine_bind, hm, hf, Option.isNone_none, decide_true, Bool.and_self, if_true, if_pos hq, State.modPart_cur,
    State.modPart_modPart, pureM_run]

theorem gives_follow_joins (hq : (followAt s o).val ≠ posOf (flatOf s.cur)) (hw : ((s.part s.cur).src 0 o.s2).toNat % 65536 ≠ 0) :
    Gives (.follow h o) (alignIss h o) s fun p => { p.drain with fmode := .joining, leader := followAt s o, joinAt := p.npc } := by
  refine gives_of_body (exec_follow h o s) ?_
  simp only [me_bind, myPart_bind, setMine_bind, hm, hf, Option.isNone_none, decide_true, Bool.and_self, if_true, if_neg hq, if_pos hw, State.modPart_cur,
    State.modPart_modPart, pureM_run]
  rfl

theorem gives_follow_stays (hq : (followAt s o).val ≠ posOf (flatOf s.cur)) (hw : ((s.part s.cur).src 0 o.s2).toNat % 65536 = 0) :
    Gives (.follow h o) (alignIss h o) s Part.drain := by
  refine gives_of_body (exec_follow h o s) ?_
  simp only [me_bind, myPart_bind, setMine_bind, hm, hf, Option.isNone_none, decide_true, Bool.and_self, if_true, if_neg hq, hw, ne_eq, not_true_eq_false, if_false,
    pureM_run]
end

theorem gives_follow_grouped (hm : (s.part s.cur).fmode ≠ .free ∨ (s.part s.cur).fwdNow.isSome = true) :
    Gives (.follow h o) (alignIss h o) s Part.drain := by
  have hno : (decide ((s.part s.cur).fmode = .free) && (s.part s.cur).fwdNow.isNone) = false := by
    rcases hm with hm | hf
    · rw [decide_eq_false hm, Bool.false_and]
    · rw [← Option.not_isSome, hf, Bool.not_true, Bool.and_false]
  refine gives_of_body (exec_follow h o s) ?_
  simp only [me_bind, myPart_bind, setMine_bind, hno, Bool.false_eq_true, if_false, pureM_run]
end

/-- What UNFOLLOW does, by the part's place in its group. -/
theorem unfollows {ins : Instr} {i : Iss} {s : State} (he : exec ins s = issue i (fun _ => unfollowBody) s) :
    ((s.part s.cur).fmode = .leading → Gives ins i s fun p => { p.drain with fmode := .free, fmask := 0 }) ∧
    ((s.part s.cur).fmode = .following → issues s i = true → exec ins s = jumped i s (leaveGroup (s.modPart s.cur Part.drain) s.cur) (s.part s.cur).npc) ∧
    ((s.part s.cur).fmode = .free ∨ (s.part s.cur).fmode = .joining → Gives ins i s Part.drain) := by
  refine ⟨fun hm => gives_of_body he ?leading, fun hm hi => he.trans (issue_jumps hi ?following), fun hm => gives_of_body he ?other⟩
  case leading => simp only [unfollowBody, me_bind, myPart_bind, setMine_bind, hm, State.modPart_cur, State.modPart_modPart, pureM_run]
  case following => simp only [unfollowBody, me_bind, myPart_bind, setMine_bind, hm, modifyState_bind, pureM_run]
  case other => rcases hm with hm | hm <;> simp only [unfollowBody, me_bind, myPart_bind, setMine_bind, hm, pureM_run]

/-! ## EXIT (R110) -/

theorem exec_exit (h : Hd) (s : State) : exec (.exit h) s = issue { h } (fun _ => exitBody) s := rfl
theorem exec_exitPred (h : Hd) (q : Pred) (s : State) : exec (.exitPred h q) s = issue { h, q := some q } (fun _ => exitBody) s := rfl

theorem exits {ins : Instr} {i : Iss} {s : State} (he : exec ins s = issue i (fun _ => exitBody) s) (hi : issues s i = true) :
    (idxOf s.cur ≠ 3 → exec ins s = placedAt i s (exitUnit s s.cur)) ∧ (idxOf s.cur = 3 → exec ins s = valueOutcome s) := by
  refine ⟨fun hk => he.trans (issue_placed hi ?unit), fun hk => he.trans (issue_value hi ?handler)⟩
  case unit => simp only [exitBody, me_bind, hk, if_false, modifyState_bind, pureM_run]
  case handler => simp only [exitBody, me_bind, hk, if_true, illegalValue_bind]

/-- Settles O36: each of the family by the part's place in its group and its cluster. -/
theorem convergeAndExit : Obligations.ConvergeAndExit := by
  unfold Obligations.ConvergeAndExit
  intro h q o s
  exact ⟨leaves_align_forwarded, fun w v => gives_align_woken, leaves_align_met,
    fun hm hf => ⟨gives_follow_leads hm hf, gives_follow_joins hm hf, gives_follow_stays hm hf⟩, gives_follow_grouped,
    unfollows (exec_unfollow h s), unfollows (exec_unfollowPred h q s), exits (exec_exit h s), exits (exec_exitPred h q s)⟩

end Sys2Proof.Machine
end

section
/-! PROOFS. RPUT, GRANTP and RCANCEL (R384, R386, R391, R392). -/

namespace Sys2Proof.Machine
open Sys2Proof

/-- A change of a part is what it makes of that part. -/
theorem State.modPart_congr {s : State} {k : Nat} {f g : Part → Part} (h : f (s.part k) = g (s.part k)) : s.modPart k f = s.modPart k g :=
  congrArg (s.setPart k) h

theorem Leaves.congr {ins : Instr} {i : Iss} {s u v : State} (h : Leaves ins i s u) (huv : u = v) : Leaves ins i s v := huv ▸ h

/-! ## What an engine's instruction asks first (R392) -/

section
variable {α : Type} {s : State}

theorem engineOnly_bind (hk : idxOf s.cur ≠ 3) (ht : taskOn s s.cur = none) (f : Unit → M α) : (engineOnly >>= f) s = f () s := by
  refine bind_of_ok f ?_
  simp only [engineOnly, me_bind, if_neg hk]
  simp only [noTask, ht, Option.isSome_none, Bool.false_eq_true, if_false]

theorem engineOnly_value (hno : idxOf s.cur = 3 ∨ (taskOn s s.cur).isSome = true) (f : Unit → M α) :
    (engineOnly >>= f) s = .error (.trap (valueTrap (s.part s.cur))) := by
  have hrun : engineOnly s = .error (.trap (valueTrap (s.part s.cur))) := by
    by_cases hk : idxOf s.cur = 3
    · simp only [engineOnly, me_bind, if_pos hk, illegalValue_bind]
    · have ht := hno.resolve_left hk
      simp only [engineOnly, me_bind, if_neg hk]
      simp only [noTask, ht, if_true, illegalValue_run]
  show (engineOnly s >>= fun r => f r.1 r.2) = _
  rw [hrun]
  rfl
end

/-! ## RPUT (R384) -/

/-- The request that an RPUT enters. -/
def rputXfer (o : OpE) (src : W64) (len : Nat) (q : Part) (st : XState) : Xfer :=
  { id := q.rpNext, pc := q.pc, dest := (q.src (o.lit.getD 0) o.s1).toNat % 2 ^ 32, src, dst := q.src (o.lit.getD 0) o.s3, len
    sig := if o.mod.getLsbD 0 then some ((q.src (o.lit.getD 0) o.s5).toNat % 65536) else none
    st, announced := false, ack := 0, tok := 0, tokId := 0, notes := [], owes := false, broken := none }

/-- How an RPUT starts: its form .hold spends a start credit where there is one, and else is HELD. -/
def rputStart (o : OpE) (q : Part) : Part × XState :=
  if o.mod.getLsbD 1 then
    match q.spend 6 with
    | some z => (z, .requested)
    | none => (q, .held)
  else (q, .requested)

/-- A part with the request that an RPUT enters. -/
def rputEntered (o : OpE) (src : W64) (len : Nat) (q : Part) (r : Part × XState) : Part :=
  { r.1 with rpNext := q.rpNext + 1, xfers := q.xfers ++ [rputXfer o src len q r.2] }

/-- The entry of an RPUT's request. -/
def rputEnter (o : OpE) (src : W64) (len : Nat) : M Flow := do
  let q ← myPart
  setMine fun _ => rputEntered o src len q (rputStart o q)
  putM o.d (BitVec.ofNat 64 q.rpNext)
  pure .done

/-- An RPUT up to its entry. -/
def rputBody (o : OpE) : M Flow := do
  engineOnly
  let p ← myPart
  let len := (p.src (o.lit.getD 0) o.s4).toNat
  if len = 0 ∨ 2 ^ 32 < len then illegalValue
  formM .read (p.src (o.lit.getD 0) o.s2) 1
  if 32 ≤ p.xfers.length then return .wait
  if !(← pushRelease 4) then return .wait
  rputEnter o (p.src (o.lit.getD 0) o.s2) len

abbrev rputIss (h : Hd) (o : OpE) : Iss := { h, reads := rds [o.s1, o.s2, o.s3, o.s4, o.s5], writes := wr o.d none }
abbrev rxIss (h : Hd) (o : OpE) : Iss := { h, reads := rds [o.s1], writes := wr o.d none }

theorem exec_rput (h : Hd) (o : OpE) (s : State) : exec (.rput h o) s = issue (rputIss h o) (fun _ => rputBody o) s := rfl
theorem exec_grantp (h : Hd) (o : OpE) (s : State) : exec (.grantp h o) s = execGrantp h o s := rfl
theorem exec_rcancel (h : Hd) (o : OpE) (s : State) : exec (.rcancel h o) s = execRcancel h o s := rfl

/-- The entry is one change of the part. -/
theorem rputEnter_run (o : OpE) (src : W64) (len : Nat) (s : State) : rputEnter o src len s =
    .ok (.done, s.modPart s.cur fun q => (rputEntered o src len q (rputStart o q)).put o.d (BitVec.ofNat 64 q.rpNext)) := by
  simp only [rputEnter, myPart_bind, setMine_bind, putM_bind, State.modPart_cur, State.modPart_modPart, pureM_run]
  rfl

section
variable {h : Hd} {o : OpE} {s : State}

theorem exec_rput_value (hk : idxOf s.cur ≠ 3) (ht : taskOn s s.cur = none) (hi : issues s (rputIss h o) = true)
    (hlen : ((s.part s.cur).src (o.lit.getD 0) o.s4).toNat = 0 ∨ 2 ^ 32 < ((s.part s.cur).src (o.lit.getD 0) o.s4).toNat) :
    exec (.rput h o) s = valueOutcome s := by
  refine (exec_rput h o s).trans (issue_value hi ?_)
  rw [rputBody, engineOnly_bind hk ht, myPart_bind]
  simp only [if_pos hlen, illegalValue_bind]

theorem leaves_rput (hk : idxOf s.cur ≠ 3) (ht : taskOn s s.cur = none) (h0 : ((s.part s.cur).src (o.lit.getD 0) o.s4).toNat ≠ 0)
    (h32 : ((s.part s.cur).src (o.lit.getD 0) o.s4).toNat ≤ 2 ^ 32) (ha : FormOk ((s.part s.cur).src (o.lit.getD 0) o.s2))
    (hroom : (s.part s.cur).xfers.length < 32) (hs : storesDone s s.cur = true) :
    Leaves (.rput h o) (rputIss h o) s ((releaseAt s (flatOf s.cur) 4).modPart s.cur fun q =>
      (rputEntered o ((s.part s.cur).src (o.lit.getD 0) o.s2) ((s.part s.cur).src (o.lit.getD 0) o.s4).toNat q (rputStart o q)).put o.d
        (BitVec.ofNat 64 q.rpNext)) := by
  intro hi
  refine (exec_rput h o s).trans (issue_done hi ?_)
  rw [rputBody, engineOnly_bind hk ht, myPart_bind]
  simp only [if_neg (not_or.mpr ⟨h0, not_lt.mpr h32⟩), formM_bind ha, if_neg (not_le.mpr hroom), pushRelease_bind ht hs, Bool.not_true, Bool.false_eq_true, if_false]
  rw [rputEnter_run, (memFrame_releaseAt ..).cur]

theorem exec_rput_refused (hno : idxOf s.cur = 3 ∨ (taskOn s s.cur).isSome = true) (hi : issues s (rputIss h o) = true) :
    exec (.rput h o) s = valueOutcome s :=
  (exec_rput h o s).trans (issue_value hi (engineOnly_value hno _))

/-! ## GRANTP (R386) -/

theorem gives_grantp (hk : idxOf s.cur ≠ 3) (ht : taskOn s s.cur = none) (hv : ((s.part s.cur).src (o.lit.getD 0) o.s1).toNat ≤ 3) :
    Gives (.grantp h o) (rxIss h o) s fun r =>
      Part.put { r with rxpri := ((s.part s.cur).src (o.lit.getD 0) o.s1).toNat } o.d (BitVec.ofNat 64 (s.part s.cur).rxpri) := by
  refine gives_of_body (exec_grantp h o s) ?_
  rw [engineOnly_bind hk ht, myPart_bind]
  simp only [if_neg (not_lt.mpr hv), setMine_bind, putM_bind, State.modPart_cur, State.modPart_modPart, pureM_run]

theorem exec_grantp_value (hk : idxOf s.cur ≠ 3) (ht : taskOn s s.cur = none) (hv : 3 < ((s.part s.cur).src (o.lit.getD 0) o.s1).toNat)
    (hi : issues s (rxIss h o) = true) : exec (.grantp h o) s = valueOutcome s := by
  refine (exec_grantp h o s).trans (issue_value hi ?_)
  rw [engineOnly_bind hk ht, myPart_bind]
  simp only [if_pos hv, illegalValue_bind]

theorem exec_grantp_refused (hno : idxOf s.cur = 3 ∨ (taskOn s s.cur).isSome = true) (hi : issues s (rxIss h o) = true) :
    exec (.grantp h o) s = valueOutcome s :=
  (exec_grantp h o s).trans (issue_value hi (engineOnly_value hno _))

/-! ## RCANCEL (R391) -/

theorem exec_rcancel_refused (hno : idxOf s.cur = 3 ∨ (taskOn s s.cur).isSome = true) (hi : issues s (rxIss h o) = true) :
    exec (.rcancel h o) s = valueOutcome s :=
  (exec_rcancel h o s).trans (issue_value hi (engineOnly_value hno _))

section
variable (hk : idxOf s.cur ≠ 3) (ht : taskOn s s.cur = none) (h0 : ((s.part s.cur).src (o.lit.getD 0) o.s1).toNat ≠ 0)
  (hlt : ((s.part s.cur).src (o.lit.getD 0) o.s1).toNat < (s.part s.cur).rpNext)
include hk ht h0 hlt

theorem leaves_rcancel {x : Xfer} (hx : xferOf s s.cur ((s.part s.cur).src (o.lit.getD 0) o.s1).toNat = some x) (hfin : x.final = false) :
    Leaves (.rcancel h o) (rxIss h o) s ((cancelXfer s s.cur x).modPart s.cur (·.put o.d (BitVec.ofNat 64 x.ack))) := by
  intro hi
  have hcur : (cancelXfer s s.cur x).cur = s.cur := rfl
  refine (exec_rcancel h o s).trans (issue_done hi ?_)
  rw [engineOnly_bind hk ht, me_bind, myPart_bind, getState_bind]
  simp only [if_neg (not_or.mpr ⟨not_le.mpr hlt, h0⟩), hx, hfin, Bool.false_eq_true, if_false, modifyState_bind, putM_bind, hcur, pureM_run]

theorem gives_rcancel_ended (hall : ∀ x, xferOf s s.cur ((s.part s.cur).src (o.lit.getD 0) o.s1).toNat = some x → x.final = true) :
    Gives (.rcancel h o) (rxIss h o) s (·.put o.d ones64) := by
  refine gives_of_body (exec_rcancel h o s) ?_
  rw [engineOnly_bind hk ht, me_bind, myPart_bind, getState_bind]
  cases hx : xferOf s s.cur ((s.part s.cur).src (o.lit.getD 0) o.s1).toNat with
  | none => simp only [if_neg (not_or.mpr ⟨not_le.mpr hlt, h0⟩), putM_bind, pureM_run]
  | some x => simp only [if_neg (not_or.mpr ⟨not_le.mpr hlt, h0⟩), hall x hx, if_true, putM_bind, pureM_run]
end
end

theorem rputStart_plain {o : OpE} (hm : o.mod.getLsbD 1 = false) (q : Part) : rputStart o q = (q, .requested) := by
  rw [rputStart, if_neg (by rw [hm]; exact Bool.false_ne_true)]

theorem rputStart_held {o : OpE} {q : Part} (hm : o.mod.getLsbD 1 = true) (hz : q.spend 6 = none) : rputStart o q = (q, .held) := by
  rw [rputStart, if_pos hm, hz]

theorem rputStart_spends {o : OpE} {q z : Part} (hm : o.mod.getLsbD 1 = true) (hz : q.spend 6 = some z) : rputStart o q = (z, .requested) := by
  rw [rputStart, if_pos hm, hz]

/-- Settles O42: RPUT by how it starts, GRANTP and RCANCEL by their operand. -/
theorem transferInstructions : Obligations.TransferInstructions := by
  unfold Obligations.TransferInstructions
  intro h o s
  refine ⟨fun hk ht => ⟨⟨fun hi hlen => exec_rput_value hk ht hi hlen, fun h0 h32 ha hroom hs => ⟨fun hm => ?plain, fun hm hz => ?held, fun z hm hz => ?spends⟩⟩,
    ⟨gives_grantp hk ht, exec_grantp_value hk ht⟩, fun h0 hlt => ⟨fun x => leaves_rcancel hk ht h0 hlt, gives_rcancel_ended hk ht h0 hlt⟩⟩,
    fun hno => ⟨exec_rput_refused hno, fun hi => ⟨exec_grantp_refused hno hi, exec_rcancel_refused hno hi⟩⟩⟩
  case plain => exact (leaves_rput hk ht h0 h32 ha hroom hs).congr (State.modPart_congr (by rw [rputStart_plain hm]; rfl))
  case held => exact (leaves_rput hk ht h0 h32 ha hroom hs).congr (State.modPart_congr (by rw [rputStart_held hm hz]; rfl))
  case spends => exact (leaves_rput hk ht h0 h32 ha hroom hs).congr (State.modPart_congr (by rw [rputStart_spends hm hz]; rfl))

end Sys2Proof.Machine
end

section
/-! PROOFS. BKPT, TRACE, PERF and RMARK (R497 to R502). -/

namespace Sys2Proof.Machine
open Sys2Proof

/-! ## A halt leaves what its parts wait for (R146, R494) -/

/-- No part of a state waits for anything else than before. -/
def SameSleep (s t : State) : Prop := ∀ j, (t.part j).sleep = (s.part j).sleep

namespace SameSleep
variable {s t u : State}

theorem refl (s : State) : SameSleep s s := fun _ => rfl
theorem trans (h : SameSleep s t) (g : SameSleep t u) : SameSleep s u := fun j => (g j).trans (h j)

theorem modPart (s : State) (k : Nat) {f : Part → Part} (hf : ∀ p, (f p).sleep = p.sleep) : SameSleep s (s.modPart k f) := by
  intro j
  by_cases hj : j = k
  · rw [hj, State.part_modPart]
    exact hf _
  · rw [State.part_modPart_ne s f hj]

theorem foldl {β : Type} {f : State → β → State} (hf : ∀ s b, SameSleep s (f s b)) (l : List β) (s : State) : SameSleep s (l.foldl f s) := by
  induction l generalizing s with
  | nil => exact refl s
  | cons b l ih => exact (hf s b).trans (ih (f s b))
end SameSleep

theorem sleep_goto (p : Part) (a : W64) (n : Nat) : (p.goto a n).sleep = p.sleep := by
  obtain ⟨fb, fr, h⟩ := goto_eq p a n
  rw [h]

theorem sleep_released (p : Part) (a : W64) (n : Nat) : (p.released a n).sleep = p.sleep := by
  simp only [Part.released]
  split
  · rfl
  · split
    · rfl
    · exact sleep_goto ..

theorem sameSleep_releaseFollowers (s : State) (k : Nat) : SameSleep s (releaseFollowers s k) := by
  unfold releaseFollowers
  refine SameSleep.trans (.trans (.foldl (fun t j => ?joins) _ _) (.foldl (fun t j => ?follows) _ _)) (.modPart _ k fun _ => rfl)
  case joins => exact .modPart t j fun p => sleep_goto _ p.joinAt t.steps
  case follows => exact .modPart t j fun p => sleep_released p _ t.steps

theorem sameSleep_unselect (s : State) (k : Nat) : SameSleep s (unselect s k) := by
  unfold unselect
  split <;> exact fun _ => rfl

theorem sleep_haltIt (p : Part) : p.haltIt.sleep = p.sleep := by
  unfold Part.haltIt
  split
  case h_4 => split <;> rfl
  all_goals rfl

theorem sameSleep_haltPart (s : State) (k : Nat) : SameSleep s (haltPart s k) := by
  have hfollowers : SameSleep s (if (s.part k).fmode = .leading then releaseFollowers s k else s) := by
    split
    · exact sameSleep_releaseFollowers s k
    · exact .refl s
  exact (hfollowers.trans (.modPart _ k sleep_haltIt)).trans (sameSleep_unselect _ k)

theorem sameSleep_haltCluster (s : State) (cl : Nat) : SameSleep s (haltCluster s cl) :=
  ((SameSleep.trans (fun _ => rfl) (.foldl sameSleep_haltPart _ (s.modCluster cl fun c => { c with halted := true }))).trans
    (.foldl (fun t pos => sameSleep_unselect t (flatAt cl pos * 4 + 3)) _ _))

/-! ## BKPT (R497) -/

section
variable {α : Type} {s : State}

theorem debugD_bind (hk : idxOf s.cur ≠ 3) (f : Unit → M α) : (debugD >>= f) s = f () s :=
  bind_of_ok f (by simp only [debugD, me_bind, if_neg hk, pureM_run])

theorem debugD_value (hk : idxOf s.cur = 3) (f : Unit → M α) : (debugD >>= f) s = .error (.trap (valueTrap (s.part s.cur))) := by
  have hrun : debugD s = .error (.trap (valueTrap (s.part s.cur))) := by simp only [debugD, me_bind, if_pos hk, illegalValue_run]
  show (debugD s >>= fun r => f r.1 r.2) = _
  rw [hrun]
  rfl

theorem inSpecTask_bind (ht : taskOn s s.cur = none) (f : Bool → M α) : (inSpecTask >>= f) s = f false s :=
  bind_of_ok f (by simp only [inSpecTask, ht, Option.any_none])

/-- A body that keeps what it has done and waits. -/
theorem issue_waitsKept {t : State} {i : Iss} {body : W64 → M Flow} (hi : issues s i = true) (hb : body (lanesFor s i) s = .ok (.waitKeep, t))
    (hsleep : SameSleep s t) : issue i body s = .next (waiting t s.cur) := by
  rw [issue_of_issues body hi, hb]
  exact congrArg (fun u => Host.Outcome.next (waiting u s.cur)) (if_pos (hsleep s.cur))
end

section
variable (h : Hd) (o : OpC) (s : State)
theorem exec_bkpt : exec (.bkpt h o) s = execBkpt h o s := rfl
theorem exec_trace : exec (.trace h o) s = execTrace h o s := rfl
theorem exec_perfRd : exec (.perfRd h o) s = execPerfRd h o s := rfl
theorem exec_perfCfg : exec (.perfCfg h o) s = execPerfCfg h o s := rfl
theorem exec_perfClr : exec (.perfClr h o) s = execPerfClr h o s := rfl
theorem exec_rmark : exec (.rmark h o) s = execRmark h o s := rfl
end

section
variable {h : Hd} {o : OpC} {s : State}

abbrev bkptIss (h : Hd) (o : OpC) : Iss := { h, reads := rds [o.s1] }

theorem leaves_bkpt_passed (hk : idxOf s.cur ≠ 3) (hb : (s.part s.cur).bkm = 0 ∨ (s.part s.cur).pass = true) : Leaves (.bkpt h o) (bkptIss h o) s s := by
  intro hi
  have hpass : (decide ((s.part s.cur).bkm = 0) || (s.part s.cur).pass) = true := by rwa [Bool.or_eq_true, decide_eq_true_eq]
  refine (exec_bkpt h o s).trans (issue_done hi ?_)
  rw [debugD_bind hk, me_bind, myPart_bind]
  simp only [if_pos hpass, pureM_run]

theorem exec_bkpt_traps (hk : idxOf s.cur ≠ 3) (hb : (s.part s.cur).bkm = 1) (hp : (s.part s.cur).pass = false) (hi : issues s (bkptIss h o) = true) :
    exec (.bkpt h o) s = .next (takeTrap s s.cur ⟨0x0A, 0, BitVec.ofNat 64 (((s.part s.cur).src 0 o.s1).toNat % 2 ^ 32), none⟩) := by
  refine (exec_bkpt h o s).trans (issue_traps rfl hi ?_)
  rw [debugD_bind hk, me_bind, myPart_bind]
  simp only [hb, hp, breakVal, Nat.zero_mul, Nat.zero_add, Bool.or_false, decide_eq_true_eq, if_true]
  rfl

theorem exec_bkpt_halts (hk : idxOf s.cur ≠ 3) (hb : (s.part s.cur).bkm = 2) (hp : (s.part s.cur).pass = false) (hi : issues s (bkptIss h o) = true) :
    exec (.bkpt h o) s = .next (waiting (haltCluster s (clOf (flatOf s.cur))) s.cur) := by
  refine (exec_bkpt h o s).trans (issue_waitsKept hi ?_ (sameSleep_haltCluster s _))
  rw [debugD_bind hk, me_bind, myPart_bind]
  simp only [hb, hp, Bool.or_false, decide_eq_true_eq]
  rfl

theorem exec_bkpt_value (hk : idxOf s.cur = 3) (hi : issues s (bkptIss h o) = true) : exec (.bkpt h o) s = valueOutcome s :=
  (exec_bkpt h o s).trans (issue_value hi (debugD_value hk _))
end

/-! ## TRACE (R498) -/

section
variable {h : Hd} {o : OpC} {s s1 : State}

abbrev traceIss (h : Hd) (o : OpC) : Iss := { h, reads := rds [o.s1, o.s2], store := true }

/-- Where the next trace record goes, and what it holds. -/
abbrev traceAddr (p : Part) : W64 := p.trcBase + BitVec.ofNat 64 (32 * (p.trcIdx.toNat % 2 ^ p.trcLog))
abbrev traceBytes (o : OpC) (p : Part) (k : Nat) (time : W64) : List (W64 × Byte) :=
  (bytesAt (traceAddr p) 32).zip (traceRecord p k time (p.src 0 o.s1) (p.src 0 o.s2))

theorem leaves_trace_off (hk : idxOf s.cur ≠ 3) (ht : taskOn s s.cur = none) (hoff : (s.part s.cur).tren = false ∨ (s.part s.cur).trcLog = 0) :
    Leaves (.trace h o) (traceIss h o) s s := by
  intro hi
  have hoff' : (!(s.part s.cur).tren || decide ((s.part s.cur).trcLog = 0)) = true := by rwa [Bool.or_eq_true, Bool.not_eq_true', decide_eq_true_eq]
  refine (exec_trace h o s).trans (issue_done hi ?_)
  rw [debugD_bind hk, inSpecTask_bind ht]
  simp only [Bool.false_eq_true, if_false, me_bind, myPart_bind, if_pos hoff', pureM_run]

/-- A store that finds room is in its core's buffer. -/
theorem writeM_room_bind {α : Type} {u : State} {addr : W64} {bs : List (W64 × Byte)} (ht : taskOn u u.cur = none) (hf : fillLost u u.cur bs = none)
    (hroom : (u.core (flatOf u.cur)).sbuf.length < 32) (f : Bool → M α) :
    (writeM addr bs >>= f) u = f true (stored u u.cur (u.part u.cur).ctx (u.part u.cur).pc addr bs false) :=
  bind_of_ok f (by simp only [writeM, storeM, me_bind, getState_bind, hf, ht, if_neg (not_le.mpr hroom), modifyState_bind, pureM_run, stored])

theorem leaves_trace (hk : idxOf s.cur ≠ 3) (ht : taskOn s s.cur = none) (hon : (s.part s.cur).tren = true) (hlog : (s.part s.cur).trcLog ≠ 0)
    (hc : checkAccess s (whoOf s s.cur) .write [(traceAddr (s.part s.cur), 32)] = .ok s1)
    (hl : onLost s1 (flatOf s.cur) [(traceAddr (s.part s.cur), 32)] = false) (hroom : (s1.core (flatOf s.cur)).sbuf.length < 32)
    (hf : fillLost s1 s.cur (traceBytes o (s.part s.cur) s.cur (timeAt s1 s.cur)) = none) :
    Leaves (.trace h o) (traceIss h o) s ((stored s1 s.cur (s1.part s.cur).ctx (s1.part s.cur).pc (traceAddr (s.part s.cur))
      (traceBytes o (s.part s.cur) s.cur (timeAt s1 s.cur)) false).modPart s.cur fun p => { p with trcIdx := p.trcIdx + 1 }) := by
  intro hi
  have hframe := memFrame_checkAccess hc
  have hcur := hframe.cur
  have ht1 : taskOn s1 s1.cur = none := by rw [hcur, hframe.taskOn, ht]
  have hon' : (!(s.part s.cur).tren || decide ((s.part s.cur).trcLog = 0)) = false := by rw [hon, decide_eq_false hlog]; rfl
  refine (exec_trace h o s).trans (issue_done hi ?_)
  rw [debugD_bind hk, inSpecTask_bind ht]
  simp only [Bool.false_eq_true, if_false, me_bind, myPart_bind, hon']
  refine (checkM_ok ht hc hl _).trans ?_
  rw [getState_bind, writeM_room_bind ht1 (by rw [hcur]; exact hf) (by rw [hcur]; exact hroom), hcur]
  simp only [Bool.not_true, Bool.false_eq_true, if_false, setMine_bind, pureM_run]
  exact congrArg (fun k => Except.ok (Flow.done, State.modPart _ k _)) hcur

theorem exec_trace_value (hk : idxOf s.cur = 3) (hi : issues s (traceIss h o) = true) : exec (.trace h o) s = valueOutcome s :=
  (exec_trace h o s).trans (issue_value hi (debugD_value hk _))

/-! ## PERF (R499) -/

abbrev perfRdIss (h : Hd) (o : OpC) : Iss := { h, reads := rds [o.s1], writes := wr o.d none }
abbrev perfCfgIss (h : Hd) (o : OpC) : Iss := { h, reads := rds [o.s1, o.s2], writes := wr o.d none }
abbrev perfClrIss (h : Hd) (o : OpC) : Iss := { h, writes := wr o.d none }

theorem perfIndex_bind {α : Type} {p : Part} {x : Src} {n : Fin 8} (hn : (p.src 0 x).toNat = n.val) (f : Fin 8 → M α) : (perfIndex p x >>= f) s = f n s := by
  refine bind_of_ok f ?_
  have hlt : (p.src 0 x).toNat < 8 := hn ▸ n.isLt
  rw [perfIndex, dif_pos hlt, pureM_run]
  exact congrArg (fun m => Except.ok (m, s)) (Fin.ext hn)

theorem perfIndex_value {α : Type} {p : Part} {x : Src} (hn : 8 ≤ (p.src 0 x).toNat) (f : Fin 8 → M α) :
    (perfIndex p x >>= f) s = .error (.trap (valueTrap (s.part s.cur))) := by
  rw [perfIndex, dif_neg (not_lt.mpr hn), illegalValue_bind]

section
variable (hk : idxOf s.cur ≠ 3)
include hk

theorem gives_perfRd {n : Fin 8} (hn : ((s.part s.cur).src 0 o.s1).toNat = n.val) :
    Gives (.perfRd h o) (perfRdIss h o) s (·.put o.d ((s.part s.cur).perf[n].count.setWidth 64)) := by
  refine gives_of_body (exec_perfRd h o s) ?_
  rw [debugD_bind hk, myPart_bind, perfIndex_bind hn, putM_bind, pureM_run]

theorem exec_perfRd_none (hn : 8 ≤ ((s.part s.cur).src 0 o.s1).toNat) (hi : issues s (perfRdIss h o) = true) : exec (.perfRd h o) s = valueOutcome s := by
  refine (exec_perfRd h o s).trans (issue_value hi ?_)
  rw [debugD_bind hk, myPart_bind, perfIndex_value hn]

theorem gives_perfCfg {n : Fin 8} (hn : ((s.part s.cur).src 0 o.s1).toNat = n.val) (hw : ((s.part s.cur).src 0 o.s2).toNat < 512)
    (he : ((s.part s.cur).src 0 o.s2).toNat % 256 ≤ 0x0B) :
    Gives (.perfCfg h o) (perfCfgIss h o) s fun q => Part.put
      { q with perf := q.perf.set n ⟨((s.part s.cur).src 0 o.s2).toNat % 256, decide (256 ≤ ((s.part s.cur).src 0 o.s2).toNat), 0⟩ } o.d
      ((s.part s.cur).perf[n].count.setWidth 64) := by
  refine gives_of_body (exec_perfCfg h o s) ?_
  rw [debugD_bind hk, myPart_bind, perfIndex_bind hn]
  simp only [if_neg (not_or.mpr ⟨not_le.mpr hw, not_lt.mpr he⟩), setMine_bind, putM_bind, State.modPart_cur, State.modPart_modPart, pureM_run]

theorem exec_perfCfg_bad {n : Fin 8} (hn : ((s.part s.cur).src 0 o.s1).toNat = n.val)
    (hbad : 512 ≤ ((s.part s.cur).src 0 o.s2).toNat ∨ 0x0B < ((s.part s.cur).src 0 o.s2).toNat % 256) (hi : issues s (perfCfgIss h o) = true) :
    exec (.perfCfg h o) s = valueOutcome s := by
  refine (exec_perfCfg h o s).trans (issue_value hi ?_)
  rw [debugD_bind hk, myPart_bind, perfIndex_bind hn]
  simp only [if_pos hbad, illegalValue_bind]

theorem exec_perfCfg_none (hn : 8 ≤ ((s.part s.cur).src 0 o.s1).toNat) (hi : issues s (perfCfgIss h o) = true) : exec (.perfCfg h o) s = valueOutcome s := by
  refine (exec_perfCfg h o s).trans (issue_value hi ?_)
  rw [debugD_bind hk, myPart_bind, perfIndex_value hn]

theorem gives_perfClr : Gives (.perfClr h o) (perfClrIss h o) s fun q => Part.put { q with perf := q.perf.map fun c => { c with count := 0 } } o.d 0 := by
  refine gives_of_body (exec_perfClr h o s) ?_
  rw [debugD_bind hk]
  simp only [setMine_bind, putM_bind, State.modPart_cur, State.modPart_modPart, pureM_run]
end

/-! ## RMARK (R502) -/

section
variable (ht : taskOn s s.cur = none)
include ht

theorem leaves_rmark_logged (hr : replayNext s (flatOf s.cur) (idxOf s.cur) 6 = none) :
    Leaves (.rmark h o) (bkptIss h o) s (logPut s (flatOf s.cur) (idxOf s.cur) 6 0 ((s.part s.cur).src 0 o.s1)) := by
  intro hi
  refine (exec_rmark h o s).trans (issue_done hi ?_)
  rw [inSpecTask_bind ht]
  simp only [Bool.false_eq_true, if_false, me_bind, myPart_bind, getState_bind, hr, modifyState_bind, pureM_run]

theorem leaves_rmark_checked {e : LogEntry} (hr : replayNext s (flatOf s.cur) (idxOf s.cur) 6 = some e) :
    Leaves (.rmark h o) (bkptIss h o) s (if e.payload ≠ (s.part s.cur).src 0 o.s1 then
      haltCluster ((replayTake s (flatOf s.cur) (idxOf s.cur) 6).modCluster (clOf (flatOf s.cur)) fun c => { c with diverged := true }) (clOf (flatOf s.cur))
      else replayTake s (flatOf s.cur) (idxOf s.cur) 6) := by
  intro hi
  refine (exec_rmark h o s).trans (issue_done hi ?_)
  rw [inSpecTask_bind ht]
  simp only [Bool.false_eq_true, if_false, me_bind, myPart_bind, getState_bind, hr, modifyState_bind]
  split <;> rfl
end
end

/-- Settles O50: each of the family by the mode that its registers set. -/
theorem debugInstructions : Obligations.DebugInstructions := by
  unfold Obligations.DebugInstructions
  intro h o s
  refine ⟨fun hk => ⟨leaves_bkpt_passed hk, exec_bkpt_traps hk, exec_bkpt_halts hk, fun ht => leaves_trace_off hk ht,
      fun s1 ht hon hlog hc hl hroom hf => leaves_trace hk ht hon hlog hc hl hroom hf,
      fun n hn => ⟨gives_perfRd hk hn, gives_perfCfg hk hn, exec_perfCfg_bad hk hn⟩, fun hn => ⟨exec_perfRd_none hk hn, exec_perfCfg_none hk hn⟩, gives_perfClr hk⟩,
    fun hk => ⟨exec_bkpt_value hk, exec_trace_value hk, fun hi => (exec_perfRd h o s).trans (issue_value hi (debugD_value hk _)),
      fun hi => (exec_perfCfg h o s).trans (issue_value hi (debugD_value hk _)), fun hi => (exec_perfClr h o s).trans (issue_value hi (debugD_value hk _))⟩,
    fun ht => ⟨leaves_rmark_logged ht, fun e => leaves_rmark_checked ht⟩⟩

end Sys2Proof.Machine
end

section
/-! PROOFS. Halts, releases, breakpoints and the issue log (R494 to R502). -/

namespace Sys2Proof.Machine
open Sys2Proof

/-! ## What a halt and a release leave of the clusters -/

theorem MemFrame.clusters {s t : State} (h : MemFrame s t) : t.clusters = s.clusters := congrArg (·.clusters) h.rest

theorem clusters_foldl {β : Type} {f : State → β → State} (hf : ∀ s b, (f s b).clusters = s.clusters) (l : List β) (s : State) :
    (l.foldl f s).clusters = s.clusters := by
  induction l generalizing s with
  | nil => rfl
  | cons b l ih => exact (ih (f s b)).trans (hf s b)

theorem cluster_of_clusters {s t : State} (h : t.clusters = s.clusters) (cl : Nat) : t.cluster cl = s.cluster cl := by
  rw [State.cluster, h, State.cluster]

theorem clusters_releaseFollowers (s : State) (k : Nat) : (releaseFollowers s k).clusters = s.clusters := by
  obtain ⟨ps, h⟩ := releaseFollowers_eq s k
  rw [h]

theorem clusters_unselect (s : State) (k : Nat) : (unselect s k).clusters = s.clusters := by
  unfold unselect
  split <;> rfl

theorem clusters_haltPart (s : State) (k : Nat) : (haltPart s k).clusters = s.clusters := by
  simp only [haltPart, clusters_unselect, State.modPart_clusters]
  split
  · exact clusters_releaseFollowers s k
  · rfl

theorem clusters_haltCluster (s : State) (cl : Nat) : (haltCluster s cl).clusters = (s.modCluster cl fun c => { c with halted := true }).clusters := by
  simp only [haltCluster, clusters_foldl fun t pos => clusters_unselect t (flatAt cl pos * 4 + 3), clusters_foldl clusters_haltPart]

theorem halted_haltCluster (s : State) (cl : Nat) : ((haltCluster s cl).cluster cl).halted = true := by
  rw [cluster_of_clusters (clusters_haltCluster s cl), State.cluster_modCluster]

theorem clusters_failXfer (s : State) (k : Nat) (x : Xfer) (code reason acc : Nat) (addr : W64) :
    (failXfer s k x code reason acc addr).clusters = s.clusters :=
  (memFrame_writeRecord s _ _ _).clusters

theorem clusters_askAgain (s : State) (k : Nat) (x : Xfer) : (askAgain s k x).clusters = s.clusters := by
  unfold askAgain
  split
  · rfl
  · split
    · split
      · exact clusters_failXfer ..
      · exact clusters_failXfer ..
      · rfl
      all_goals split <;> rfl
    · split <;> rfl

theorem clusters_sendRequests (s : State) (k : Nat) : (sendRequests s k).clusters = s.clusters := by
  refine clusters_foldl (fun t x => ?_) _ s
  split
  · exact clusters_askAgain t k x
  · rfl

theorem clusters_returnTokens (s : State) (k : Nat) (all : Bool) : (returnTokens s k all).clusters = s.clusters := by
  refine clusters_foldl (fun t x => ?_) _ s
  dsimp only
  split <;> rfl

/-- A part stands in the state that it returns to; its transfers follow. -/
def restarted (s : State) (k : Nat) (st : PState) : State :=
  let s1 := s.modPart k fun p => ({ p with st }).goto p.pc s.steps
  if st = .preempted then returnTokens s1 k false else sendRequests s1 k

theorem releasePart_eq (s : State) (k : Nat) : releasePart s k =
    if (s.part k).st ≠ .halted || (s.part k).chkDone || (s.part k).spillDue then s
    else restarted s k (if (s.part k).quiesce.isSome && (s.part k).prev = .preempted then .resident else (s.part k).prev) := rfl

theorem clusters_restarted (s : State) (k : Nat) (st : PState) : (restarted s k st).clusters = s.clusters := by
  simp only [restarted]
  split
  · exact clusters_returnTokens ..
  · exact clusters_sendRequests ..

theorem clusters_releasePart (s : State) (k : Nat) : (releasePart s k).clusters = s.clusters := by
  rw [releasePart_eq]
  split
  · rfl
  · exact clusters_restarted ..

theorem clusters_debugPass (s : State) (k : Nat) : (debugPass s k).clusters = s.clusters := by
  unfold debugPass
  split <;> rfl

/-! ## Cross-triggers and releases (R494) -/

theorem exec_crossTriggerHalt_one (cl : Nat) (s : State) : exec (.crossTriggerHalt cl false) s = .next (haltCluster s cl) := rfl

theorem eligible_of_halted {s : State} {k : Nat} (h : (s.cluster (clOf (flatOf k))).halted = true) : eligible s k = false := by
  simp only [eligible, h, Bool.not_true, Bool.and_false, Bool.false_and]

theorem exec_debugRelease_running {cl : Nat} {s : State} (h : (s.cluster cl).halted = false) : exec (.debugRelease cl) s = .next s :=
  congrArg Host.Outcome.next (if_neg (by rw [h]; exact Bool.false_ne_true))

theorem exec_debugRelease_halted {cl : Nat} {s : State} (h : (s.cluster cl).halted = true) :
    ∃ t, exec (.debugRelease cl) s = .next t ∧ (t.cluster cl).halted = false := by
  refine ⟨_, congrArg Host.Outcome.next (if_pos h), ?_⟩
  rw [cluster_of_clusters (clusters_foldl (fun t k => (clusters_releasePart (debugPass t k) k).trans (clusters_debugPass t k)) _ _), State.cluster_modCluster]

/-! ## Breakpoints (R497) -/

section
variable {s : State} {k : Nat}

theorem takeForward_of_nil (h : (s.part k).twill = []) : takeForward s k = s := by
  rw [takeForward, h, List.isEmpty_nil, if_pos rfl]

/-- A partition that may issue, outside partition D, and with nothing that is taken before a breakpoint. -/
def mayBreak (s : State) (k : Nat) : Bool :=
  let p := (takeForward s k).part k
  eligible s k && idxOf k ≠ 3 && p.sleep = .awake && p.quiesce.isNone && p.asyncMcheck = 0

theorem exec_breakpoint (k : Nat) (s : State) :
    exec (.breakpoint k) s = .next (if mayBreak s k = true then
      match ((takeForward s k).part k).breakHere with
      | some v => breakAct (takeForward s k) k v
      | none => s
    else s) := rfl

theorem exec_breakpoint_acts {v : W64} (hk : idxOf k ≠ 3) (he : eligible s k = true) (hs : ((takeForward s k).part k).sleep = .awake)
    (hq : ((takeForward s k).part k).quiesce = none) (hm : ((takeForward s k).part k).asyncMcheck = 0)
    (hb : ((takeForward s k).part k).breakHere = some v) : exec (.breakpoint k) s = .next (breakAct (takeForward s k) k v) := by
  have hmay : mayBreak s k = true := by
    simp only [mayBreak, he, hk, hs, hq, hm, ne_eq, not_false_eq_true, decide_true, Option.isNone_none, Bool.and_self]
  rw [exec_breakpoint, if_pos hmay, hb]

theorem exec_breakpoint_passes (h : eligible s k = false ∨ ((takeForward s k).part k).breakHere = none) : exec (.breakpoint k) s = .next s := by
  rw [exec_breakpoint]
  rcases h with he | hb
  · rw [if_neg (by simp only [mayBreak, he, Bool.false_and, Bool.false_eq_true, not_false_eq_true])]
  · rw [hb, ite_self]
end

section
variable {p : Part}

theorem breakHere_off (h : p.bkm = 0 ∨ p.pass = true) : p.breakHere = none := by
  refine if_pos ?_
  rwa [Bool.or_eq_true, decide_eq_true_eq]

/-- Address match `i` holds at the PC of a part. -/
def matchesAt (p : Part) (i : Fin 4) : Bool := p.bpen.getLsbD i.val && p.bpaddr[i] = p.pc

theorem breakHere_on (hb : p.bkm ≠ 0) (hp : p.pass = false) :
    p.breakHere = match (List.finRange 4).find? (matchesAt p) with
      | some i => some (breakVal 1 i.val)
      | none => if p.step && !p.inTrap then some (breakVal 2 0) else none :=
  if_neg (by simp only [hb, hp, decide_false, Bool.or_false, Bool.false_eq_true, not_false_eq_true])

theorem find?_finRange_of_first {n : Nat} {f : Fin n → Bool} {i : Fin n} (hi : f i = true) (hfirst : ∀ j, j < i → f j = false) :
    (List.finRange n).find? f = some i := by
  rw [List.find?_eq_some_iff_getElem]
  refine ⟨hi, i.val, by rw [List.length_finRange]; exact i.isLt, List.getElem_finRange .., fun j hj => ?_⟩
  rw [List.getElem_finRange, Bool.not_eq_true']
  exact hfirst _ hj

theorem breakHere_address {i : Fin 4} (hb : p.bkm ≠ 0) (hp : p.pass = false) (he : p.bpen.getLsbD i.val = true) (ha : p.bpaddr[i] = p.pc)
    (hfirst : ∀ j : Fin 4, j < i → p.bpen.getLsbD j.val = false ∨ p.bpaddr[j] ≠ p.pc) : p.breakHere = some (BitVec.ofNat 64 (2 ^ 32 + i.val)) := by
  have hfind : (List.finRange 4).find? (matchesAt p) = some i := by
    refine find?_finRange_of_first (by simp only [matchesAt, he, ha, decide_true, Bool.and_self]) fun j hj => ?_
    simp only [matchesAt]
    rcases hfirst j hj with h | h
    · rw [h, Bool.false_and]
    · rw [decide_eq_false h, Bool.and_false]
  rw [breakHere_on hb hp, hfind]
  simp only [breakVal, Nat.one_mul]

theorem breakHere_step (hb : p.bkm ≠ 0) (hp : p.pass = false) (he : p.bpen = 0) (hs : p.step = true) (ht : p.inTrap = false) :
    p.breakHere = some (BitVec.ofNat 64 (2 * 2 ^ 32)) := by
  have hfind : (List.finRange 4).find? (matchesAt p) = none := by
    rw [List.find?_eq_none]
    intro j _
    simp only [matchesAt, he, BitVec.ofNat_eq_ofNat, BitVec.getLsbD_zero, Bool.false_and, Bool.false_eq_true, not_false_eq_true]
  rw [breakHere_on hb hp, hfind]
  simp only [hs, ht, breakVal, Bool.not_false, Bool.and_self, if_true, Nat.add_zero]
end

/-! ## The issue log (R502) -/

theorem State.modCluster_congr {s : State} {cl : Nat} {f g : Cluster → Cluster} (h : f (s.cluster cl) = g (s.cluster cl)) :
    s.modCluster cl f = s.modCluster cl g := by
  rw [State.modCluster, h, State.modCluster]

theorem exec_issueLogFreed {cl : Nat} (n : Nat) {s : State} (h : (s.cluster cl).logMode = .logging) :
    exec (.issueLogFreed cl n) s = .next (s.modCluster cl fun c => { c with log := c.log.drop n }) :=
  congrArg Host.Outcome.next (State.modCluster_congr (if_pos h))

theorem exec_replayModeSet (cl : Nat) (mode : ReplayMode) (log : List LogEntry) (s : State) :
    ∃ u : State, exec (.replayModeSet cl mode log) s = .next (u.modCluster cl fun c =>
      match mode with
      | .off => { c with logMode := .off }
      | .logging => { c with logMode := .logging, log := if c.logMode = .logging then c.log else [] }
      | .replay => { c with logMode := .replay, log, diverged := false }) := ⟨_, rfl⟩

/-! ## The obligation -/

theorem debugEvents_breakpoint (k : Nat) (s : State) (hk : idxOf k ≠ 3) :
    let u := takeForward s k
    let p := u.part k
    ((s.part k).twill = [] → u = s) ∧
    (∀ v, eligible s k = true → p.sleep = .awake → p.quiesce = none → p.asyncMcheck = 0 → p.breakHere = some v →
      (p.bkm = 1 → exec (.breakpoint k) s = .next (takeTrap u k ⟨0x0A, 0, v, none⟩)) ∧
      (p.bkm ≠ 1 → exec (.breakpoint k) s = .next (haltCluster u (clOf (flatOf k))))) ∧
    (eligible s k = false ∨ p.breakHere = none → exec (.breakpoint k) s = .next s) :=
  ⟨takeForward_of_nil,
   fun _ he hs hq hm hb => ⟨fun h1 => (exec_breakpoint_acts hk he hs hq hm hb).trans (congrArg Host.Outcome.next (if_pos h1)),
     fun h1 => (exec_breakpoint_acts hk he hs hq hm hb).trans (congrArg Host.Outcome.next (if_neg h1))⟩,
   exec_breakpoint_passes⟩

theorem debugEvents_replayMode (cl : Nat) (log : List LogEntry) (s : State) :
    (∃ t, exec (.replayModeSet cl .off log) s = .next t ∧ (t.cluster cl).logMode = .off) ∧
    (∃ t, exec (.replayModeSet cl .logging log) s = .next t ∧ (t.cluster cl).logMode = .logging) ∧
    (∃ t, exec (.replayModeSet cl .replay log) s = .next t ∧ (t.cluster cl).logMode = .replay ∧ (t.cluster cl).log = log ∧ (t.cluster cl).diverged = false) := by
  refine ⟨?_, ?_, ?_⟩
  · obtain ⟨u, hu⟩ := exec_replayModeSet cl .off log s
    exact ⟨_, hu, by rw [State.cluster_modCluster]⟩
  · obtain ⟨u, hu⟩ := exec_replayModeSet cl .logging log s
    exact ⟨_, hu, by rw [State.cluster_modCluster]⟩
  · obtain ⟨u, hu⟩ := exec_replayModeSet cl .replay log s
    exact ⟨_, hu, by rw [State.cluster_modCluster], by rw [State.cluster_modCluster], by rw [State.cluster_modCluster]⟩

/-- Settles O51: a halt and a release change of the clusters only the bit `halted` of their own; a breakpoint acts by the branches of its event. -/
theorem debugEvents : Obligations.DebugEvents := by
  unfold Obligations.DebugEvents
  exact ⟨fun cl s => ⟨exec_crossTriggerHalt_one cl s, halted_haltCluster s cl, fun k hk => eligible_of_halted (by rw [hk]; exact halted_haltCluster s cl)⟩,
    fun cl s => ⟨exec_debugRelease_running, exec_debugRelease_halted⟩,
    fun k s hk => debugEvents_breakpoint k s hk,
    fun p => ⟨breakHere_off, fun i => breakHere_address, breakHere_step⟩,
    fun cl n s => exec_issueLogFreed n,
    debugEvents_replayMode⟩

end Sys2Proof.Machine
end

section
/-! PROOFS. What keeps the canonical form of memory and the acting partition: the relation, and how it is carried through a change (R3, R169). -/

namespace Sys2Proof.Machine
open Sys2Proof

/-- What a change leaves: memory in canonical form, and the partition that acts. -/
def Keeps (s t : State) : Prop := (Inv s → Inv t) ∧ t.cur = s.cur

section
variable {orig s t : State}

theorem Keeps.refl (s : State) : Keeps s s := ⟨id, rfl⟩

theorem Keeps.trans (h : Keeps orig s) (g : Keeps s t) : Keeps orig t := ⟨g.1 ∘ h.1, g.2.trans h.2⟩

/-- A change of neither cells nor acting partition. -/
theorem Keeps.same (h : Keeps orig s) (hm : t.mem = s.mem) (hc : t.cur = s.cur) : Keeps orig t := by
  refine h.trans ⟨fun hs => ?_, hc⟩
  rwa [Inv, hm]

/-- What memory operations do keeps the canonical form, and the acting partition. -/
theorem MemFrame.keeps (hm : MemFrame s t) (h : Keeps orig s) : Keeps orig t := h.trans ⟨hm.inv, hm.cur⟩

theorem keeps_fst {β : Type} {x : State × β} {b : β} (e : x = (t, b)) (h : Keeps orig x.1) : Keeps orig t := by
  rwa [e] at h

theorem keeps_foldl {β : Type} {f : State → β → State} {l : List β} (hf : ∀ {t b}, Keeps orig t → Keeps orig (f t b)) (h : Keeps orig s) :
    Keeps orig (l.foldl f s) := by
  induction l generalizing s with
  | nil => exact h
  | cons b l ih => exact ih (hf h)

theorem keeps_ite {c : Prop} [Decidable c] (hs : Keeps orig s) (ht : Keeps orig t) : Keeps orig (if c then s else t) := by
  split
  · exact hs
  · exact ht

theorem keeps_write {k : Nat} {v : Byte} (h : Keeps orig s) : Keeps orig { s with mem := memWrite s.mem k v } := (MemFrame.write s k v).keeps h

theorem keeps_writeBytes {k : Nat} {bs : List Byte} (h : Keeps orig s) : Keeps orig { s with mem := memWriteBytes s.mem k bs } :=
  (MemFrame.writeBytes s k bs).keeps h

theorem keeps_setPart {k : Nat} {p : Part} (h : Keeps orig s) : Keeps orig (s.setPart k p) := h
theorem keeps_modPart {k : Nat} {f : Part → Part} (h : Keeps orig s) : Keeps orig (s.modPart k f) := h
theorem keeps_modCore {k : Nat} {f : Core → Core} (h : Keeps orig s) : Keeps orig (s.modCore k f) := h
theorem keeps_modCluster {k : Nat} {f : Cluster → Cluster} (h : Keeps orig s) : Keeps orig (s.modCluster k f) := h
theorem keeps_modDie {k : Nat} {f : Die → Die} (h : Keeps orig s) : Keeps orig (s.modDie k f) := h
theorem keeps_modDev {k : Nat} {f : Dev → Dev} (h : Keeps orig s) : Keeps orig (s.modDev k f) := h
theorem keeps_modCtx {k : Nat} {f : Ctx → Ctx} (h : Keeps orig s) : Keeps orig (s.modCtx k f) := h
theorem keeps_modMu {k : Nat} {f : MUnit → MUnit} (h : Keeps orig s) : Keeps orig (s.modMu k f) := h

theorem keeps_modPartOf {flat c : Nat} {f : Part → Part} (h : Keeps orig s) : Keeps orig (s.modPartOf flat c f) := by
  unfold State.modPartOf
  split <;> exact h

/-- What an optional state keeps where there is one. -/
def KeepsOpt (orig : State) (o : Option State) : Prop := ∀ t, o = some t → Keeps orig t

theorem keepsO_none : KeepsOpt orig none := by
  intro t e
  cases e

theorem keepsO_some (h : Keeps orig s) : KeepsOpt orig (some s) := by
  intro t e
  cases e
  exact h

theorem keeps_getD {o : Option State} (ho : KeepsOpt orig o) (h : Keeps orig s) : Keeps orig (o.getD s) := by
  cases o with
  | none => exact h
  | some t => exact ho t rfl
end

end Sys2Proof.Machine
end

section
/-! PROOFS. What the operations on tasks, messages and streams, and the frame of an instruction keep (R3, R169). -/

namespace Sys2Proof.Machine
open Sys2Proof

section
variable {orig : State}
theorem keeps_logPut {s : State} {flat part kind outcome : Nat} {payload : W64} (h : Keeps orig s) : Keeps orig (logPut s flat part kind outcome payload) :=
  keeps_ite h h

theorem keeps_replayTake {s : State} {flat part kind : Nat} (h : Keeps orig s) : Keeps orig (replayTake s flat part kind) :=
  keeps_ite h h

theorem keeps_logOrTake {s : State} {flat part kind outcome : Nat} {payload : W64} (h : Keeps orig s) : Keeps orig (logOrTake s flat part kind outcome payload) :=
  keeps_replayTake (keeps_logPut h)

theorem keeps_closeRun {s : State} {flat : Nat} (h : Keeps orig s) : Keeps orig (closeRun s flat) := by
  unfold closeRun
  split
  · exact keeps_modCore (keeps_logPut h)
  · exact h

theorem keeps_noteRun {s : State} {flat part : Nat} (h : Keeps orig s) : Keeps orig (noteRun s flat part) := by
  unfold noteRun
  split
  · exact h
  · refine keeps_ite h ?_
    split
    · exact keeps_ite h (keeps_modCore (keeps_closeRun h))
    · exact h
  · exact keeps_ite h h

theorem keeps_perf {s : State} {k event n : Nat} (h : Keeps orig s) : Keeps orig (perf s k event n) :=
  h

theorem keeps_moveStreams {s : State} (h : Keeps orig s) : Keeps orig (moveStreams s) :=
  h

theorem keeps_modTask {s : State} {id : Nat} {f : Task → Task} (h : Keeps orig s) : Keeps orig (modTask s id f) :=
  h

theorem keeps_undoTask {s : State} {t : Task} (h : Keeps orig s) : Keeps orig (undoTask s t) := by
  simp only [undoTask]
  split
  all_goals
    refine keeps_modPartOf ?_
    refine keeps_foldl (fun ht => ?_) h
    split
    · exact keeps_ite (keeps_modPartOf ht) ht
    · exact ht

theorem keeps_abortTasks {s : State} {back gone : List Nat} (h : Keeps orig s) : Keeps orig (abortTasks s back gone) :=
  keeps_foldl (fun ht => keeps_undoTask ht) h

theorem keeps_abortForStore {s : State} {i : Nat} (h : Keeps orig s) : Keeps orig (abortForStore s i) :=
  keeps_ite h (keeps_ite h (keeps_abortTasks h))

theorem keeps_holdTask {s : State} {k : Nat} (h : Keeps orig s) : Keeps orig (holdTask s k) := by
  unfold holdTask
  split
  · exact h
  · exact keeps_modTask (keeps_abortTasks h)

theorem keeps_abortRunning {s : State} {k : Nat} (h : Keeps orig s) : Keeps orig (abortRunning s k) := by
  unfold abortRunning
  split
  · exact keeps_abortTasks h
  · exact h

theorem keeps_abortContext {s : State} {c : Nat} (h : Keeps orig s) : Keeps orig (abortContext s c) :=
  keeps_ite h (keeps_abortTasks h)

theorem keeps_dropAt {s : State} {flat : Nat} (h : Keeps orig s) : Keeps orig (dropAt s flat) :=
  h

theorem keeps_pulse {s : State} {k : Nat} {input : Nat} (h : Keeps orig s) : Keeps orig (pulse s k input) :=
  keeps_ite h h

theorem keeps_pulseOf {s : State} {flat c : Nat} {input : Nat} (h : Keeps orig s) : Keeps orig (pulseOf s flat c input) :=
  keeps_modPartOf h

theorem keeps_wakeWatcher {s : State} {w : Watch} (h : Keeps orig s) : Keeps orig (wakeWatcher s w) :=
  keeps_ite h (keeps_pulseOf (keeps_modPartOf h))

theorem keeps_awayGuestLines {s : State} {dk : Nat} {f : W64 → Bool} (h : Keeps orig s) : Keeps orig (awayGuestLines s dk f) :=
  h

theorem keeps_hot {s : State} {flat : Nat} {va : W64} (h : Keeps orig s) : Keeps orig (hot s flat va) := by
  unfold hot
  split
  · exact keeps_ite ((memFrame_keepLeaf ..).keeps h) h
  · exact h

theorem keeps_addDeferred {s : State} {k : Nat} {d : Deferred} (h : Keeps orig s) : Keeps orig (addDeferred s k d) :=
  h

theorem keeps_noteOwn {s : State} {w : Who} {line : W64} (h : Keeps orig s) : Keeps orig (noteOwn s w line) := by
  unfold noteOwn
  split <;> exact h

theorem keeps_performLine {s : State} {w : Who} {line : W64} {bs : List (W64 × Byte)} (h : Keeps orig s) : Keeps orig (performLine s w line bs) := by
  unfold performLine
  split
  · exact (memFrame_lineWrite ..).keeps (keeps_abortForStore (keeps_noteOwn h))
  · exact (memFrame_lineWrite ..).keeps h

theorem keeps_storeAct {s : State} {e : StoreEnt} {pick : Nat} (h : Keeps orig s) : Keeps orig (storeAct s e pick).1 := by
  simp only [storeAct]
  split
  · exact h
  · split
    · exact h
    · split
      · split
        · exact h
        · exact keeps_addDeferred ((memFrame_writeRecord ..).keeps h)
      · split
        · split
          · exact keeps_performLine ((memFrame_healLines ..).keeps h)
          · exact keeps_addDeferred ((memFrame_mcheckWrite ..).keeps h)
        · exact keeps_performLine h

theorem keeps_EFault_note {f : EFault} {s : State} {flat : Nat} (h : Keeps orig s) : Keeps orig (EFault.note f s flat) :=
  (memFrame_afterWalk ..).keeps h

theorem keeps_writeHealth {s : State} {dev : Nat} (h : Keeps orig s) : Keeps orig (writeHealth s dev) :=
  h

theorem keeps_withdraw {s : State} {dev : Nat} {r : Resource} (h : Keeps orig s) : Keeps orig (withdraw s dev r) :=
  keeps_ite h (keeps_writeHealth h)

theorem keeps_modLink {s : State} {dev : Nat} {n : Fin 18} {f : Link → Link} (h : Keeps orig s) : Keeps orig (modLink s dev n f) :=
  keeps_moveStreams h

theorem keeps_noteSent {s : State} {src dst cls : Nat} (h : Keeps orig s) : Keeps orig (noteSent s src dst cls) :=
  h

theorem keeps_specRead {s : State} {t : Task} {w : Who} {vas : List W64} (h : Keeps orig s) : Keeps orig (specRead s t w vas).1 :=
  keeps_modTask (keeps_foldl (fun ht => (memFrame_guestDrop ..).keeps ht) h)

theorem keeps_dropVersions {s : State} {t : Task} (h : Keeps orig s) : Keeps orig (dropVersions s t) := by
  simp only [dropVersions]
  split
  · exact keeps_abortTasks h
  · exact h

theorem keeps_specWrite {s : State} {t : Task} {bs : List (W64 × Byte)} (h : Keeps orig s) : Keeps orig (specWrite s t bs) :=
  keeps_ite (keeps_modTask (keeps_foldl (fun ht => keeps_hot ht) h)) (keeps_abortTasks (keeps_modTask (keeps_foldl (fun ht => keeps_hot ht) h)))

theorem keeps_leaveGroup {s : State} {k : Nat} (h : Keeps orig s) : Keeps orig (leaveGroup s k) := by
  simp only [leaveGroup]
  split
  · exact keeps_foldl (fun ht => keeps_ite ht ht) h
  · exact h
  · exact keeps_ite h h

theorem keeps_releaseFollowers {s : State} {k : Nat} (h : Keeps orig s) : Keeps orig (releaseFollowers s k) :=
  keeps_foldl (fun ht => ht) (keeps_foldl (fun ht => ht) h)

theorem keeps_dropDrain {s : State} {k : Nat} (h : Keeps orig s) : Keeps orig (dropDrain s k) :=
  keeps_ite h h

theorem keeps_sendMsg {s : State} {m : Msg} (h : Keeps orig s) : Keeps orig (sendMsg s m) :=
  keeps_ite (keeps_noteSent h) h

theorem keeps_dIdle {s : State} {flat : Nat} (h : Keeps orig s) : Keeps orig (dIdle s flat) :=
  h

theorem keeps_handlerFault {s : State} {flat : Nat} {code reason : Nat} {val : W64} (h : Keeps orig s) : Keeps orig (handlerFault s flat code reason val) := by
  unfold handlerFault
  split
  · exact keeps_dIdle h
  · exact keeps_dIdle (keeps_ite (keeps_sendMsg ((memFrame_writeRecord ..).keeps h)) ((memFrame_writeRecord ..).keeps h))

theorem keeps_trapHalt {s : State} {k : Nat} (h : Keeps orig s) : Keeps orig (trapHalt s k) :=
  (memFrame_writeRecord ..).keeps (keeps_releaseFollowers h)

theorem keeps_takeTrap {s : State} {k : Nat} {t : Trap} (h : Keeps orig s) : Keeps orig (takeTrap s k t) :=
  keeps_ite (keeps_handlerFault h) (keeps_ite (keeps_trapHalt (keeps_setPart (keeps_modPart (keeps_leaveGroup (keeps_dropDrain (keeps_perf h)))))) (keeps_ite (keeps_trapHalt (keeps_setPart (keeps_modPart (keeps_leaveGroup (keeps_dropDrain (keeps_perf h)))))) (keeps_setPart (keeps_modPart (keeps_leaveGroup (keeps_dropDrain (keeps_perf h)))))))

theorem keeps_pageFault {s : State} {k : Nat} {acc reason : Nat} {addr : W64} (h : Keeps orig s) : Keeps orig (pageFault s k acc reason addr) :=
  keeps_ite (keeps_setPart (keeps_leaveGroup (keeps_dropDrain h))) (keeps_takeTrap h)

theorem keeps_trapReturn {s : State} {k : Nat} {target : W64} (h : Keeps orig s) : Keeps orig (trapReturn s k target) :=
  h

theorem keeps_upcallReturn {s : State} {k : Nat} {target : W64} (h : Keeps orig s) : Keeps orig (upcallReturn s k target) :=
  h

theorem keeps_setStream {s : State} {k : Nat} {r : Fin 8} {t : Stream} (h : Keeps orig s) : Keeps orig (setStream s k r t) :=
  h

theorem keeps_faultStream {s : State} {k : Nat} {r : Fin 8} {t : Stream} {j e : Nat} {f : EFault} (h : Keeps orig s) : Keeps orig (faultStream s k r t j e f).1 :=
  keeps_setStream ((memFrame_writeRecord ..).keeps (keeps_EFault_note h))

theorem keeps_retire {i : Iss} {before : Part} {s : State} {k : Nat} {next : Option W64} (h : Keeps orig s) : Keeps orig (retire i before s k next) :=
  h

theorem keeps_waiting {s : State} {k : Nat} (h : Keeps orig s) : Keeps orig (waiting s k) :=
  h

theorem keeps_waitingKept {before : Part} {s : State} {k : Nat} (h : Keeps orig s) : Keeps orig (waitingKept before s k) :=
  keeps_waiting (keeps_ite h h)

theorem keeps_waitingStore {i : Iss} {s : State} {k : Nat} (h : Keeps orig s) : Keeps orig (waitingStore i s k) :=
  keeps_waiting h


theorem keeps_lostTrap {s : State} {k : Nat} {acc : Nat} {addr line : W64} (h : Keeps orig s) : Keeps orig (lostTrap s k acc addr line) := by
  unfold lostTrap
  exact keeps_takeTrap ((memFrame_mcheckWrite ..).keeps h)

theorem keeps_enterCheckpoint {s : State} {k : Nat} {reason : Nat} (h : Keeps orig s) : Keeps orig (enterCheckpoint s k reason) := by
  unfold enterCheckpoint
  extract_lets s0 p
  have h0 : Keeps orig s0 := keeps_leaveGroup (keeps_dropDrain (keeps_perf (keeps_abortContext h)))
  clear_value s0 p
  split
  · exact (keeps_releaseFollowers (k := k) h0).same rfl rfl
  · exact h0

theorem keeps_stopped {s : State} {k : Nat} {t : Stop} (h : Keeps orig s) : Keeps orig (stopped s k t) := by
  induction t generalizing s with
  | trap t => exact keeps_takeTrap (keeps_ite ((memFrame_markTaken ..).keeps h) h)
  | page acc reason addr => exact keeps_pageFault h
  | lost acc addr line => exact keeps_lostTrap h
  | unreachable => exact keeps_waiting h
  | after plb walked t ih => exact ih ((memFrame_afterWalk ..).keeps h)
  | heldTask => exact keeps_holdTask h

/-! ## The elements that a task pops, and the pops before an instruction (R231, R236) -/

theorem keeps_taskElems {t : Task} {w : Who} {x : Stream} {v : Slot} {es : List Nat} {s u : State} {vs : List Nat} (e : taskElems t w x v es s = .ok (u, vs))
    (h : Keeps orig s) : Keeps orig u := by
  induction es generalizing s vs with
  | nil =>
    cases e
    exact h
  | cons e' es ih =>
    simp only [taskElems] at e
    split at e
    · cases e
    · split at e
      · cases e
      · split at e
        · cases e
        · split at e
          · cases e
          · split at e
            · cases e
              exact ih ‹_› (keeps_specRead ((memFrame_prepLines ..).keeps ((memFrame_engineCheck ‹_›).keeps h)))
            · cases e

theorem keeps_popFrom {s0 s : State} {k : Nat} {rs : List (Fin 8)} (h0 : Keeps orig s0) (h : Keeps orig s) : Keeps orig (popFrom s0 s k rs).2 := by
  induction rs generalizing s with
  | nil => exact h
  | cons r rs ih =>
    simp only [popFrom]
    split
    · split
      · split
        next hel => exact ih (keeps_pulse (keeps_modPart (keeps_taskElems hel h)))
        · exact h0
        · exact h0
        · split
          · exact h0
          · exact keeps_faultStream h0
      · exact ih (keeps_pulse h)
    · exact h0

theorem keeps_popAll {s : State} {k : Nat} {rs : List (Fin 8)} (h : Keeps orig s) : Keeps orig (popAll s k rs).2 := keeps_popFrom h h

end

/-! ## The effect of an instruction -/

/-- Whatever an effect leaves where it completes keeps what the state that it begins in keeps. -/
def KeepsM (orig : State) {α : Type} (m : M α) : Prop := ∀ s, Keeps orig s → ∀ a t, m s = .ok (a, t) → Keeps orig t

section
variable {α β : Type} {orig : State}

theorem keepsM_pure {a : α} : KeepsM orig (pure a : M α) := by
  intro s h b t e
  cases e
  exact h

theorem keepsM_bind {m : M α} {f : α → M β} (hm : KeepsM orig m) (hf : ∀ a, KeepsM orig (f a)) : KeepsM orig (m >>= f) := by
  intro s h b t e
  change (m s >>= fun r => f r.1 r.2) = .ok (b, t) at e
  cases hr : m s with
  | error e' =>
    rw [hr] at e
    cases e
  | ok r =>
    rw [hr] at e
    exact hf r.1 r.2 (hm s h r.1 r.2 hr) b t e

theorem keepsM_get {f : State → M α} (hf : ∀ {s}, Keeps orig s → KeepsM orig (f s)) : KeepsM orig ((get : M State) >>= f) :=
  fun s h a t e => hf h s h a t e

theorem keepsM_modify {f : State → State} (hf : ∀ {s}, Keeps orig s → Keeps orig (f s)) : KeepsM orig (modify f : M PUnit) := by
  intro s h a t e
  cases e
  exact hf h

theorem keepsM_set {u : State} (hu : Keeps orig u) : KeepsM orig (set u : M PUnit) := by
  intro s h a t e
  cases e
  exact hu

theorem keepsM_ite {c : Prop} [Decidable c] {m n : M α} (hm : KeepsM orig m) (hn : KeepsM orig n) : KeepsM orig (if c then m else n) := by
  split
  · exact hm
  · exact hn

/-- A step that is taken under a condition, before what follows in any case. -/
theorem keepsM_when {c : Prop} [Decidable c] {m : M Unit} {f : Unit → M α} (hm : KeepsM orig m) (hf : ∀ b, KeepsM orig (f b)) :
    KeepsM orig (if c then m >>= f else f ()) := keepsM_ite (keepsM_bind hm hf) (hf ())

theorem keepsM_stop {e : Stop} : KeepsM orig (stop e : M α) := by
  intro s h a t e
  cases e

theorem keepsM_trapM {code : Nat} {val : W64} : KeepsM orig (trapM code val : M α) := keepsM_stop

theorem keepsM_illegalValue : KeepsM orig (illegalValue : M α) := by
  intro s h a t e
  cases e

theorem keepsM_me : KeepsM orig me := by
  intro s h a t e
  cases e
  exact h

theorem keepsM_myPart : KeepsM orig myPart := by
  intro s h a t e
  cases e
  exact h

theorem keepsM_setMine {f : Part → Part} : KeepsM orig (setMine f) := by
  intro s h a t e
  cases e
  exact h

theorem keepsM_putM {d : Dst} {v : W64} : KeepsM orig (putM d v) := keepsM_setMine

theorem keepsM_putV {d : Dst} {v : VReg} : KeepsM orig (putV d v) := keepsM_setMine

theorem keepsM_noTask : KeepsM orig noTask := by
  intro s h a t e
  simp only [noTask] at e
  split at e
  · cases e
  · cases e
    exact h

theorem keepsM_mapM {f : α → M β} (hf : ∀ a, KeepsM orig (f a)) (l : List α) : KeepsM orig (l.mapM f) := by
  induction l with
  | nil =>
    rw [List.mapM_nil]
    exact keepsM_pure
  | cons a l ih =>
    rw [List.mapM_cons]
    exact keepsM_bind (hf a) fun _ => keepsM_bind ih fun _ => keepsM_pure
end

/-! ## An instruction in its frame -/

/-- What an instruction or an event leaves, where the state goes on, keeps the canonical form of memory. -/
def InvO (s : State) (o : Host.Outcome State Fault Refusal) : Prop := ∀ t, o = .next t → Inv s → Inv t

theorem invO_next {s t : State} (h : Keeps s t) : InvO s (.next t) := by
  intro u e
  cases e
  exact h.1

theorem keeps_runBody {orig s : State} {i : Iss} {mask : W64} {body : W64 → M Flow} (hb : ∀ m, KeepsM orig (body m)) (h : Keeps orig s) :
    Keeps orig (runBody i mask body s) := by
  have hpop : Keeps orig (popAll s s.cur (i.pops (s.part s.cur))).2 := keeps_popAll h
  simp only [runBody]
  split
  next heq => exact keeps_stopped (by rwa [heq] at hpop)
  next => exact keeps_waiting h
  next heq =>
    rw [heq] at hpop
    split
    · exact keeps_stopped h
    · exact keeps_waiting h
    · have hrun {f : Flow} {g : Part → Part} {F : State → Fin 8 → State} {l : List (Fin 8)} {u : State} (hF : ∀ t r, MemFrame t (F t r))
          (hr : body mask ((l.foldl F _).modPart s.cur g) = .ok (f, u)) : Keeps orig u :=
        hb mask _ (keeps_modPart (keeps_foldl (fun {t r} ht => (hF t r).keeps ht) hpop)) f u hr
      have hrel (t : State) (r : Fin 8) : MemFrame t (releaseAt t (flatOf s.cur) ((s.part s.cur).streams[r]).scope) := memFrame_releaseAt ..
      split
      next => exact keeps_stopped h
      next => exact keeps_waitingStore h
      next hr => exact keeps_waitingKept (hrun hrel hr)
      next hr => exact keeps_takeTrap (hrun hrel hr)
      next hr => exact keeps_retire (hrun hrel hr)
      next hr => exact keeps_retire (keeps_modPart (hrun hrel hr))
      next hr => exact keeps_retire (hrun hrel hr)

theorem invO_issue {s : State} {i : Iss} {body : W64 → M Flow} (hb : ∀ {m}, KeepsM s (body m)) : InvO s (issue i body s) := by
  have h := Keeps.refl s
  unfold issue
  dsimp only
  split
  · exact invO_next (keeps_takeTrap h)
  · split
    · exact invO_next (keeps_retire h)
    · split
      · exact invO_next (keeps_takeTrap h)
      · split
        · exact invO_next (keeps_takeTrap h)
        · exact invO_next (keeps_runBody (fun _ => hb) h)

end Sys2Proof.Machine
end

section
/-! PROOFS. What the actions of memory and of engines keep (R176 to R218). -/

namespace Sys2Proof.Machine
open Sys2Proof

section
variable {orig : State}

/-! ## The actions of memory (R176 to R183) -/

theorem keepsM_checkM {acc : Acc} {rs : List (W64 × Nat)} : KeepsM orig (checkM acc rs) := by
  intro s h a t e
  simp only [checkM] at e
  split at e
  · split at e
    · cases e
    · split at e
      · cases e
      · cases e
        exact (memFrame_checkAccess ‹_›).keeps h
  · split at e
    · cases e
    · split at e
      · cases e
      · split at e
        · cases e
        · split at e
          · cases e
          · split at e
            · cases e
            · cases e
              exact (memFrame_checkAccess ‹_›).keeps h

theorem keepsM_formM {acc : Acc} {a : W64} {n : Nat} : KeepsM orig (formM acc a n) := by
  intro s h b t e
  simp only [formM] at e
  split at e
  · cases e
  · cases e
    exact h

theorem keepsM_readM {rs : List (W64 × Nat)} : KeepsM orig (readM rs) := by
  unfold readM
  refine keepsM_bind keepsM_me fun _ => keepsM_get fun _ => keepsM_ite keepsM_pure ?_
  split
  · exact keepsM_stop
  · refine keepsM_bind (keepsM_modify fun h => (memFrame_prepLines ..).keeps h) fun _ => ?_
    split
    · exact keepsM_get fun _ => keepsM_pure
    · refine keepsM_bind (keepsM_mapM (fun _ => ?_) _) fun _ => keepsM_pure
      split
      · exact keepsM_pure
      · exact keepsM_get fun h => keepsM_bind (keepsM_set (keeps_specRead h)) fun _ => keepsM_pure

theorem keepsM_storeM {addr : W64} {bs : List (W64 × Byte)} {ordered : Bool} : KeepsM orig (storeM addr bs ordered) := by
  refine keepsM_bind keepsM_me fun _ => keepsM_get fun h1 => ?_
  extract_lets
  split
  · exact keepsM_stop
  · split
    · exact keepsM_ite (keepsM_ite (keepsM_bind (keepsM_modify fun h2 => keeps_specWrite (keeps_dropVersions h2)) fun _ => keepsM_pure) keepsM_pure)
        (keepsM_bind (keepsM_modify fun h2 => keeps_specWrite h2) fun _ => keepsM_pure)
    · exact keepsM_ite keepsM_pure (keepsM_bind (keepsM_modify fun h2 => h2) fun _ => keepsM_pure)

theorem keepsM_writeM {addr : W64} {bs : List (W64 × Byte)} : KeepsM orig (writeM addr bs) :=
  keepsM_storeM

theorem keepsM_releaseNow {scope : Nat} : KeepsM orig (releaseNow scope) :=
  keepsM_bind keepsM_me fun _ => keepsM_get fun _ => keepsM_ite (keepsM_bind (keepsM_modify fun h2 => (memFrame_releaseAt ..).keeps h2) fun _ =>
      keepsM_pure) keepsM_pure

theorem keepsM_releaseM {scope : Nat} : KeepsM orig (releaseM scope) :=
  keepsM_bind keepsM_me fun _ => keepsM_get fun _ => keepsM_ite keepsM_pure keepsM_releaseNow

theorem keepsM_acquireM {scope : Nat} : KeepsM orig (acquireM scope) :=
  keepsM_bind keepsM_me fun _ => keepsM_modify fun h1 => (memFrame_acquireAt ..).keeps h1

theorem keeps_atomicAt {s : State} {flat : Nat} {a : W64} {sub n x y : Nat} (h : Keeps orig s) : Keeps orig (atomicAt s flat a sub n x y).1 :=
  (memFrame_homeWrite ..).keeps ((memFrame_toHome ..).keeps (keeps_abortForStore (keeps_hot h)))

theorem keeps_healRange {s : State} {flat : Nat} {a : W64} {n : Nat} (h : Keeps orig s) : Keeps orig (healRange s flat a n) :=
  keeps_ite h ((memFrame_healLines ..).keeps h)

theorem keeps_mcPerform {s : State} {m : McStore} {a : W64} (h : Keeps orig s) : Keeps orig (mcPerform s m a) := by
  unfold mcPerform
  extract_lets
  split
  · exact (memFrame_replicaWrite ..).keeps (keeps_ite (keeps_addDeferred ((memFrame_mcheckWrite ..).keeps (keeps_foldl (fun ht =>
      (memFrame_toHome ..).keeps (keeps_abortForStore (keeps_noteOwn (keeps_hot ht)))) h))) (keeps_healRange (keeps_addDeferred
      ((memFrame_mcheckWrite ..).keeps (keeps_foldl (fun ht => (memFrame_toHome ..).keeps (keeps_abortForStore (keeps_noteOwn (keeps_hot ht)))) h)))))
  · exact (memFrame_replicaWrite ..).keeps (keeps_ite (keeps_foldl (fun ht => (memFrame_toHome ..).keeps (keeps_abortForStore (keeps_noteOwn
      (keeps_hot ht)))) h) (keeps_healRange (keeps_foldl (fun ht => (memFrame_toHome ..).keeps (keeps_abortForStore (keeps_noteOwn
      (keeps_hot ht)))) h)))

theorem keeps_mcEnd {s : State} {m : McStore} (h : Keeps orig s) : Keeps orig (mcEnd s m) :=
  keeps_ite h (keeps_addDeferred ((memFrame_writeRecord ..).keeps h))

theorem keepsM_pushRelease {scope : Nat} : KeepsM orig (pushRelease scope) :=
  keepsM_bind keepsM_me fun _ => keepsM_get fun _ => keepsM_ite keepsM_pure (keepsM_ite (keepsM_bind (keepsM_modify fun h2 =>
      (memFrame_releaseAt ..).keeps h2) fun _ => keepsM_pure) keepsM_pure)

theorem keeps_engineReadOwn {s : State} {w : Who} {a : W64} {n : Nat} (h : Keeps orig s) : Keeps orig (engineReadOwn s w a n).1 :=
  (memFrame_prepLines ..).keeps h

theorem keeps_engineWriteOwn {s : State} {w : Who} {a : W64} {bs : List Byte} (h : Keeps orig s) : Keeps orig (engineWriteOwn s w a bs) :=
  keeps_foldl (fun ht => (memFrame_lineWrite ..).keeps (keeps_abortForStore ht)) (keeps_healRange h)

theorem keeps_engineRead {s : State} {flat : Nat} {a : W64} {n : Nat} (h : Keeps orig s) : Keeps orig (engineRead s flat a n).1 :=
  keeps_foldl (fun ht => (memFrame_toHome ..).keeps ((memFrame_hotLoad ..).keeps ht)) h

theorem keeps_engineWrite {s : State} {flat : Nat} {a : W64} {bs : List Byte} (h : Keeps orig s) : Keeps orig (engineWrite s flat a bs) :=
  (memFrame_homeWrite ..).keeps (keeps_foldl (fun ht => (memFrame_toHome ..).keeps (keeps_abortForStore (keeps_hot ht))) (keeps_healRange h))

theorem keepsM_engineOnly  : KeepsM orig engineOnly :=
  keepsM_bind keepsM_me fun _ => keepsM_when keepsM_illegalValue fun _ => keepsM_noTask

theorem invO_execLd {h : Hd} {o : OpM} {s : State} : InvO s (execLd h o s) := by
  refine invO_issue (keepsM_bind keepsM_myPart fun _ => keepsM_when keepsM_trapM fun _ => keepsM_bind keepsM_checkM fun _ =>
      keepsM_when keepsM_acquireM fun _ => keepsM_bind keepsM_readM fun _ => ?_)
  split
  · exact keepsM_pure
  · exact keepsM_bind keepsM_putM fun _ => keepsM_pure

theorem invO_execSt {h : Hd} {o : OpM} {s : State} : InvO s (execSt h o s) :=
  invO_issue (keepsM_bind keepsM_myPart fun _ => keepsM_when keepsM_trapM fun _ => keepsM_bind keepsM_checkM fun _ => keepsM_ite
      (keepsM_bind keepsM_releaseM fun _ => keepsM_ite keepsM_pure (keepsM_bind keepsM_writeM fun _ => keepsM_ite keepsM_pure keepsM_pure))
      (keepsM_bind keepsM_writeM fun _ => keepsM_ite keepsM_pure keepsM_pure))

theorem invO_execVld {h : Hd} {o : OpM} {s : State} : InvO s (execVld h o s) := by
  refine invO_issue (keepsM_bind keepsM_myPart fun _ => keepsM_when keepsM_trapM fun _ => keepsM_bind keepsM_checkM fun _ =>
      keepsM_when keepsM_acquireM fun _ => keepsM_bind keepsM_me fun _ => keepsM_get fun h1 => keepsM_ite keepsM_pure
      (keepsM_bind keepsM_readM fun _ => ?_))
  split
  · exact keepsM_pure
  · exact keepsM_bind keepsM_myPart fun _ => keepsM_bind keepsM_putV fun _ => keepsM_pure

theorem invO_execVst {h : Hd} {o : OpM} {s : State} : InvO s (execVst h o s) :=
  invO_issue (keepsM_bind keepsM_myPart fun _ => keepsM_when keepsM_trapM fun _ => keepsM_bind keepsM_checkM fun _ => keepsM_ite
      (keepsM_bind keepsM_releaseM fun _ => keepsM_ite keepsM_pure (keepsM_bind keepsM_writeM fun _ => keepsM_ite keepsM_pure keepsM_pure))
      (keepsM_bind keepsM_writeM fun _ => keepsM_ite keepsM_pure keepsM_pure))

theorem invO_execVgath {h : Hd} {o : OpC} {s : State} : InvO s (execVgath h o s) := by
  refine invO_issue (keepsM_bind keepsM_myPart fun _ => ?_)
  extract_lets
  split
  · exact keepsM_trapM
  · refine keepsM_bind keepsM_checkM fun _ => keepsM_bind keepsM_readM fun _ => ?_
    split
    · exact keepsM_pure
    · exact keepsM_bind keepsM_myPart fun _ => keepsM_bind keepsM_putV fun _ => keepsM_pure

theorem invO_execVscat {h : Hd} {o : OpC} {s : State} : InvO s (execVscat h o s) := by
  refine invO_issue (keepsM_bind keepsM_myPart fun _ => ?_)
  extract_lets
  split
  · exact keepsM_trapM
  · exact keepsM_bind keepsM_checkM fun _ => keepsM_bind keepsM_storeM fun _ => keepsM_ite keepsM_pure keepsM_pure

theorem invO_execFence {h : Hd} {o : OpC} {s : State} : InvO s (execFence h o s) := by
  refine invO_issue (keepsM_bind keepsM_me fun _ => keepsM_get fun h1 => keepsM_ite keepsM_pure (keepsM_ite (keepsM_bind keepsM_releaseM fun _ =>
      keepsM_ite keepsM_pure (keepsM_bind keepsM_myPart fun _ => ?_)) (keepsM_ite keepsM_pure (keepsM_bind keepsM_myPart fun _ => ?_))))
  all_goals
    split
    · exact keepsM_bind keepsM_setMine fun _ => keepsM_bind (keepsM_modify fun h2 => (memFrame_markTaken ..).keeps h2) fun _ => keepsM_pure
    · exact keepsM_when keepsM_acquireM fun _ => keepsM_pure

theorem invO_execPref {h : Hd} {o : OpC} {s : State} : InvO s (execPref h o s) := by
  refine invO_issue (keepsM_bind keepsM_me fun _ => keepsM_bind keepsM_myPart fun _ => keepsM_get fun h1 => keepsM_ite keepsM_pure (keepsM_bind
      (keepsM_modify fun h2 => ?_) fun _ => keepsM_pure))
  split
  · exact keeps_ite h2 ((memFrame_fillGuest ..).keeps ((memFrame_recallOthers ..).keeps h2))
  · exact h2

theorem invO_amo {h : Hd} {o : OpE} {sub : Nat} {cas : Bool} {s : State} : InvO s (amo h o sub cas s) :=
  invO_issue (keepsM_bind keepsM_me fun _ => keepsM_bind keepsM_myPart fun _ => keepsM_get fun _ => keepsM_when keepsM_stop fun _ =>
      keepsM_when keepsM_trapM fun _ => keepsM_bind keepsM_checkM fun _ => keepsM_ite keepsM_pure (keepsM_when keepsM_stop fun _ => keepsM_ite
      (keepsM_bind keepsM_releaseM fun _ => keepsM_ite keepsM_pure (keepsM_ite (keepsM_ite (keepsM_bind keepsM_putM fun _ =>
      keepsM_pure) keepsM_trapM) (keepsM_get fun h2 => keepsM_bind (keepsM_set (keeps_atomicAt h2)) fun _ => keepsM_bind keepsM_putM fun _ =>
      keepsM_bind keepsM_putM fun _ => keepsM_when keepsM_acquireM fun _ => keepsM_pure))) (keepsM_ite (keepsM_ite (keepsM_bind keepsM_putM fun _ =>
      keepsM_pure) keepsM_trapM) (keepsM_get fun h2 => keepsM_bind (keepsM_set (keeps_atomicAt h2)) fun _ => keepsM_bind keepsM_putM fun _ =>
      keepsM_bind keepsM_putM fun _ => keepsM_when keepsM_acquireM fun _ => keepsM_pure))))

theorem invO_execAmoAdd {h : Hd} {o : OpE} {s : State} : InvO s (execAmoAdd h o s) :=
  invO_amo

theorem invO_execAmoAnd {h : Hd} {o : OpE} {s : State} : InvO s (execAmoAnd h o s) :=
  invO_amo

theorem invO_execAmoOr {h : Hd} {o : OpE} {s : State} : InvO s (execAmoOr h o s) :=
  invO_amo

theorem invO_execAmoXor {h : Hd} {o : OpE} {s : State} : InvO s (execAmoXor h o s) :=
  invO_amo

theorem invO_execAmoMin {h : Hd} {o : OpE} {s : State} : InvO s (execAmoMin h o s) :=
  invO_amo

theorem invO_execAmoMax {h : Hd} {o : OpE} {s : State} : InvO s (execAmoMax h o s) :=
  invO_amo

theorem invO_execAmoMinn {h : Hd} {o : OpE} {s : State} : InvO s (execAmoMinn h o s) :=
  invO_amo

theorem invO_execAmoMaxn {h : Hd} {o : OpE} {s : State} : InvO s (execAmoMaxn h o s) :=
  invO_amo

theorem invO_execAmoSwap {h : Hd} {o : OpE} {s : State} : InvO s (execAmoSwap h o s) :=
  invO_amo

theorem invO_execAmoFadd {h : Hd} {o : OpE} {s : State} : InvO s (execAmoFadd h o s) :=
  invO_amo

theorem invO_execCas {h : Hd} {o : OpE} {s : State} : InvO s (execCas h o s) :=
  invO_amo

theorem invO_mcast {h : Hd} {o : OpE} {red : Bool} {s : State} : InvO s (mcast h o red s) :=
  invO_issue (keepsM_bind keepsM_me fun _ => keepsM_bind keepsM_myPart fun _ => keepsM_get fun _ => keepsM_when keepsM_stop fun _ =>
      keepsM_ite keepsM_pure (keepsM_ite (keepsM_bind keepsM_releaseM fun _ => keepsM_ite keepsM_pure (keepsM_bind (keepsM_modify fun h2 =>
      h2) fun _ => keepsM_pure)) (keepsM_bind (keepsM_modify fun h2 => h2) fun _ => keepsM_pure)))

theorem invO_execStm {h : Hd} {o : OpE} {s : State} : InvO s (execStm h o s) :=
  invO_mcast

theorem invO_execStred {h : Hd} {o : OpE} {s : State} : InvO s (execStred h o s) :=
  invO_mcast

theorem invO_execDestCheckAtHome {flat : Nat} {s : State} : InvO s (execDestCheckAtHome flat s) := by
  have h := Keeps.refl s
  refine invO_next ?_
  split
  · exact h
  · split
    · exact keeps_mcEnd h
    · exact keeps_ite h (keeps_ite (keeps_mcEnd (keeps_ite (keeps_mcPerform h) h)) (keeps_ite (keeps_mcPerform h) h))

theorem invO_execStorePerformed {flat : Nat} {s : State} : InvO s (execStorePerformed flat s) := by
  have h := Keeps.refl s
  refine invO_next ?_
  split
  · exact h
  · exact keeps_storeAct h

theorem invO_execErrorRecordReserve {ctx : Nat} {record : List Byte} {s : State} : InvO s (execErrorRecordReserve ctx record s) := by
  have h := Keeps.refl s
  exact invO_next ((memFrame_writeRecord ..).keeps h)

theorem invO_execGuestCopyExpiry {dk : Nat} {line : Nat} {s : State} : InvO s (execGuestCopyExpiry dk line s) := by
  have h := Keeps.refl s
  exact invO_next (keeps_foldl (fun ht => keeps_ite ((memFrame_stashRecallLine ..).keeps ht) ht) ((memFrame_guestDrop ..).keeps h))
end

end Sys2Proof.Machine
end

section
/-! PROOFS. What copies, fills and the holding buffer keep (R370 to R382). -/

namespace Sys2Proof.Machine
open Sys2Proof

section
variable {orig : State}

/-! ## Elements and lines that an engine moves -/

theorem keeps_engineCheck {s t : State} {w : Who} {acc : Acc} {a : W64} {n : Nat} (h : Keeps orig s) (e : engineCheck s w acc a n = .ok t) : Keeps orig t :=
  (memFrame_engineCheck e).keeps h

theorem keeps_copyCheck {s t : State} {w : Who} {r : CReq} {i : Nat} (h : Keeps orig s) (e : copyCheck s w r i = .ok t) : Keeps orig t := by
  simp only [copyCheck] at e
  split at e
  · cases e
  · split at e
    · cases e
    · rename_i s1 hread _ s2 hwrite
      cases e
      have h1 : Keeps orig s1 := keeps_engineCheck h hread
      split at hwrite
      · exact keeps_engineCheck h1 hwrite
      · cases hwrite
        exact h1

theorem keeps_readLines {s : State} {w : Who} {f : State → Nat → List Byte → State} {ls : List (W64 × Nat × Nat)}
    (hf : ∀ {t off bs}, Keeps orig t → Keeps orig (f t off bs)) (h : Keeps orig s) : Keeps orig (readLines s w f ls).1 := by
  induction ls generalizing s with
  | nil => exact h
  | cons l ls ih =>
    simp only [readLines]
    split
    · exact keeps_EFault_note h
    · exact ih (hf (keeps_engineRead (keeps_engineCheck h ‹_›)))

theorem keeps_modChan {s : State} {k : Nat} {ch : Fin 4} {f : Chan → Chan} (h : Keeps orig s) : Keeps orig (modChan s k ch f) :=
  h

theorem keeps_mailboxPut {s : State} {flat : Nat} {e : MbEnt} (h : Keeps orig s) : Keeps orig (mailboxPut s flat e) :=
  keeps_pulseOf h

theorem keeps_fillSlices {w : Who} {r : CReq} {deny : Nat} {s : State} {off : Nat} {bs : List Byte} (h : Keeps orig s) : Keeps orig
    (fillSlices w r deny s off bs) :=
  keeps_foldl (fun ht => keeps_ite (keeps_engineWrite ht) ht) h

theorem keeps_copyRecord {s : State} {k : Nat} {ch : Fin 4} {r : CReq} {code reason acc : Nat} {addr : W64} {deny : Nat}
    (h : Keeps orig s) : Keeps orig (copyRecord s k ch r code reason acc addr deny) :=
  keeps_modChan ((memFrame_writeRecord ..).keeps h)

theorem keeps_copyFinish {s : State} {k : Nat} {ch : Fin 4} {r : CReq} (h : Keeps orig s) : Keeps orig (copyFinish s k ch r) :=
  keeps_pulse (keeps_modChan h)

theorem keeps_copyGood {s : State} {k : Nat} {ch : Fin 4} {r : CReq} (h : Keeps orig s) : Keeps orig (copyGood s k ch r) :=
  keeps_ite (keeps_mailboxPut (keeps_copyFinish h)) (keeps_copyFinish h)

theorem keeps_moveElem {s : State} {w : Who} {r : CReq} {i : Nat} (h : Keeps orig s) : Keeps orig (moveElem s w r i) := by
  unfold moveElem
  split
  split
  split
  · exact keeps_engineWrite (keeps_fst ‹_› (keeps_engineRead h))
  · exact keeps_fillSlices (keeps_fst ‹_› (keeps_engineRead h))

theorem keeps_copyStep {x : State × CReq} {w : Who} {i : Nat} (h : Keeps orig x.1) : Keeps orig (copyStep w x i).1 := by
  simp only [copyStep]
  split
  · exact h
  · split
    · exact keeps_perf (keeps_moveElem (keeps_copyCheck h ‹_›))
    · exact h

theorem keeps_copySteps {x : State × CReq} {w : Who} {l : List Nat} (h : Keeps orig x.1) : Keeps orig (l.foldl (copyStep w) x).1 := by
  induction l generalizing x with
  | nil => exact h
  | cons i l ih => exact ih (keeps_copyStep h)

theorem keeps_copyMove {s : State} {k : Nat} {ch : Fin 4} {r : CReq} (h : Keeps orig s) : Keeps orig (copyMove s k ch r).1 :=
  keeps_modChan (keeps_copySteps h)

theorem keeps_fillDenied {s : State} {k : Nat} {ch : Fin 4} {r : CReq} (h : Keeps orig s) : Keeps orig (fillDenied s k ch r) :=
  keeps_ite (keeps_copyRecord h) h

theorem invO_execCopyStart {k : Nat} {ch : Fin 4} {s : State} : InvO s (execCopyStart k ch s) := by
  have h := Keeps.refl s
  refine invO_next ?_
  split
  · exact keeps_ite (keeps_ite (keeps_copyFinish (keeps_modChan h)) (keeps_modChan h)) h
  · exact h

theorem keeps_copyEnd {s : State} {k : Nat} {ch : Fin 4} {r : CReq} (h : Keeps orig s) : Keeps orig (copyEnd s k ch r) :=
  keeps_ite (keeps_sendMsg (keeps_modChan h)) (keeps_copyGood (keeps_fillDenied h))

theorem invO_execCopyDone {k : Nat} {ch : Fin 4} {s : State} : InvO s (execCopyDone k ch s) := by
  have h := Keeps.refl s
  refine invO_next ?_
  split
  · exact keeps_ite h (keeps_ite (keeps_copyEnd h) (keeps_ite h (keeps_ite (keeps_copyEnd (keeps_copyMove h)) (keeps_copyMove h))))
  · exact h

theorem invO_execCopyFault {k : Nat} {ch : Fin 4} {s : State} : InvO s (execCopyFault k ch s) := by
  have h := Keeps.refl s
  refine invO_next ?_
  split
  · refine keeps_ite h ?_
    split
    · exact keeps_copyFinish (keeps_copyRecord (keeps_fillDenied (keeps_EFault_note h)))
    · exact h
  · exact h

theorem keeps_copyAck {s : State} {flat c : Nat} {ch id : W64} (h : Keeps orig s) : Keeps orig (copyAck s flat c ch id) := by
  unfold copyAck
  split
  · exact h
  · refine keeps_ite h ?_
    split
    · exact keeps_ite (keeps_copyGood h) h
    · exact h

theorem keeps_setSlot {s : State} {cl slot : Nat} {hb : HbSlot} (h : Keeps orig s) : Keeps orig (setSlot s cl slot hb) :=
  h

theorem keeps_freeSlot {s : State} {cl slot : Nat} {hb : HbSlot} (h : Keeps orig s) : Keeps orig (freeSlot s cl slot hb) :=
  keeps_pulseOf h

theorem keeps_clearBit {s : State} {cl slot pos : Nat} (h : Keeps orig s) : Keeps orig (clearBit s cl slot pos) := by
  unfold clearBit
  split
  · exact h
  · exact keeps_ite (keeps_freeSlot h) (keeps_setSlot h)

theorem keeps_hbPartEnds {s : State} {flat c : Nat} (h : Keeps orig s) : Keeps orig (hbPartEnds s flat c) := by
  refine keeps_foldl (fun ht => ?_) h
  split
  · exact keeps_ite (keeps_clearBit ht) ht
  · exact ht

/-- The state and the fault of a fill's lines: none is read where its pin was broken. -/
theorem keeps_fillRead {s : State} {c : Prop} [Decidable c] {f : EFault} {x : State × Option EFault} (h : Keeps orig s) (hx : Keeps orig x.1) :
    Keeps orig (if c then (s, some f) else x).1 := by
  split
  · exact h
  · exact hx

/-- A fill of a slot is DONE, with its record where it met a fault. -/
theorem keeps_fillDone {x : State × Option EFault} {k : Nat} {ch : Fin 4} {r : CReq} (h : Keeps orig x.1) :
    Keeps orig (copyFinish (match x.2 with
      | some e => copyRecord x.1 k ch r e.code e.reason 0 e.addr 0
      | none => x.1) k ch r) := by
  refine keeps_copyFinish ?_
  split
  · exact keeps_copyRecord h
  · exact h

theorem invO_execHbFillEnd {cl : Nat} {slot : Fin 8} {s : State} : InvO s (execHbFillEnd cl slot s) := by
  have h := Keeps.refl s
  refine invO_next ?_
  split
  · refine keeps_ite h ?_
    extract_lets add
    have hadd {t : State} {off : Nat} {bs : List Byte} (ht : Keeps s t) : Keeps s (add t off bs) := by
      dsimp only [add]
      split
      · exact keeps_setSlot ht
      · exact ht
    split
    next s1 e hread =>
      have hdone (k : Nat) (ch : Fin 4) (r : CReq) := keeps_fillDone (x := (s1, e)) (k := k) (ch := ch) (r := r)
        (hread ▸ keeps_fillRead h (keeps_readLines (f := add) (fun {_ off _} => hadd (off := off)) (keeps_setSlot h)))
      extract_lets s2 s3
      split
      · exact keeps_ite (keeps_freeSlot (hdone ..)) (keeps_setSlot (hdone ..))
      · exact hdone ..
  · exact h

theorem keepsM_pushReq {ch : Fin 4} {hold : Bool} {r : CReq} : KeepsM orig (pushReq ch hold r) :=
  keepsM_bind keepsM_me fun _ => keepsM_bind keepsM_myPart fun _ => keepsM_bind (keepsM_modify fun h1 => keeps_modChan h1) fun _ => keepsM_pure

theorem invO_copyIssue {try_ : Bool} {h : Hd} {o : OpE} {s : State} : InvO s (copyIssue try_ h o s) :=
  invO_issue (keepsM_bind keepsM_engineOnly fun _ => keepsM_bind keepsM_me fun _ => keepsM_bind keepsM_myPart fun _ =>
      keepsM_when keepsM_illegalValue fun _ => keepsM_when keepsM_trapM fun _ => keepsM_when keepsM_trapM fun _ => keepsM_bind keepsM_formM fun _ =>
      keepsM_bind keepsM_formM fun _ => keepsM_get fun _ => keepsM_ite (keepsM_ite (keepsM_bind keepsM_putM fun _ => keepsM_pure) keepsM_pure)
      (keepsM_bind keepsM_pushRelease fun _ => keepsM_ite keepsM_pure (keepsM_bind keepsM_pushReq fun _ => keepsM_bind keepsM_putM fun _ =>
      keepsM_pure)))

theorem invO_execCpy {h : Hd} {o : OpE} {s : State} : InvO s (execCpy h o s) :=
  invO_copyIssue

theorem invO_execCpytry {h : Hd} {o : OpE} {s : State} : InvO s (execCpytry h o s) :=
  invO_copyIssue

theorem keeps_copyPulse {s : State} {k : Nat} {ch : Fin 4} (h : Keeps orig s) : Keeps orig (copyPulse s k ch) := by
  unfold copyPulse
  extract_lets
  split
  · exact keeps_modChan h
  · exact h

theorem keeps_withdrawHeld {s : State} {k : Nat} (h : Keeps orig s) : Keeps orig (withdrawHeld s k) := by
  refine keeps_foldl (fun ht => keeps_foldl (fun h2 => keeps_ite ?_ (keeps_pulse h2)) (keeps_modChan ht)) h
  split
  · exact keeps_freeSlot (keeps_pulse h2)
  · exact keeps_pulse h2

theorem invO_execCpywait {h : Hd} {o : OpE} {s : State} : InvO s (execCpywait h o s) := by
  refine invO_issue (keepsM_bind keepsM_engineOnly fun _ => keepsM_bind keepsM_me fun _ => keepsM_bind keepsM_myPart fun _ =>
      keepsM_when keepsM_illegalValue fun _ => ?_)
  split
  · exact keepsM_ite (keepsM_bind keepsM_setMine fun _ => keepsM_bind (keepsM_modify fun h1 => (memFrame_markTaken ..).keeps h1) fun _ =>
      keepsM_pure) (keepsM_bind (keepsM_modify fun h1 => keeps_modChan h1) fun _ => keepsM_bind (keepsM_modify fun h1 =>
      (memFrame_markTaken ..).keeps h1) fun _ => keepsM_pure)
  · exact keepsM_ite keepsM_pure (keepsM_bind keepsM_putM fun _ => keepsM_bind keepsM_acquireM fun _ => keepsM_pure)

theorem keepsM_fillReq {p : Part} {o : OpE} {park : Bool} : KeepsM orig (fillReq p o park) :=
  keepsM_when keepsM_illegalValue fun _ => keepsM_when keepsM_trapM fun _ => keepsM_when keepsM_trapM fun _ => keepsM_bind keepsM_formM fun _ =>
      keepsM_pure

theorem invO_execMcfill {h : Hd} {o : OpE} {s : State} : InvO s (execMcfill h o s) :=
  invO_issue (keepsM_bind keepsM_engineOnly fun _ => keepsM_bind keepsM_me fun _ => keepsM_bind keepsM_myPart fun _ =>
      keepsM_bind keepsM_fillReq fun _ => keepsM_get fun _ => keepsM_ite keepsM_pure (keepsM_bind keepsM_pushRelease fun _ => keepsM_ite keepsM_pure
      (keepsM_bind keepsM_pushReq fun _ => keepsM_bind keepsM_putM fun _ => keepsM_pure)))

theorem invO_execMcfillPark {h : Hd} {o : OpE} {s : State} : InvO s (execMcfillPark h o s) :=
  invO_issue (keepsM_bind keepsM_engineOnly fun _ => keepsM_bind keepsM_me fun _ => keepsM_bind keepsM_myPart fun _ =>
      keepsM_bind keepsM_fillReq fun _ => keepsM_get fun _ => keepsM_when keepsM_illegalValue fun _ => keepsM_ite keepsM_pure
      (keepsM_bind keepsM_pushRelease fun _ => keepsM_ite keepsM_pure (keepsM_bind keepsM_pushReq fun _ => keepsM_bind (keepsM_modify fun h2 =>
      keeps_setSlot h2) fun _ => keepsM_bind keepsM_putM fun _ => keepsM_pure)))

theorem invO_execMcdrain {h : Hd} {o : OpE} {s : State} : InvO s (execMcdrain h o s) := by
  refine invO_issue (keepsM_bind keepsM_engineOnly fun _ => keepsM_bind keepsM_me fun _ => keepsM_bind keepsM_myPart fun _ =>
      keepsM_when keepsM_illegalValue fun _ => keepsM_when keepsM_trapM fun _ => keepsM_bind keepsM_formM fun _ => keepsM_get fun h1 =>
      keepsM_bind keepsM_setMine fun _ => keepsM_ite (keepsM_bind keepsM_putM fun _ => keepsM_pure) ?_)
  extract_lets
  split
  · refine keepsM_ite (keepsM_ite (keepsM_bind (keepsM_modify fun h2 => keeps_clearBit h2) fun _ => keepsM_bind keepsM_putM fun _ => keepsM_pure)
      (keepsM_ite keepsM_pure ?_)) (keepsM_ite (keepsM_bind keepsM_putM fun _ => keepsM_pure) (keepsM_bind keepsM_setMine fun _ => keepsM_pure))
    split
    · exact keepsM_stop
    · split
      · exact keepsM_stop
      · split
        · exact keepsM_stop
        · exact keepsM_bind (keepsM_set (keeps_clearBit (keeps_engineWrite (keeps_modPart ((memFrame_checkAccess ‹_›).keeps h1))))) fun _ =>
            keepsM_bind keepsM_putM fun _ => keepsM_bind keepsM_acquireM fun _ => keepsM_pure
  · exact keepsM_ite (keepsM_bind keepsM_putM fun _ => keepsM_pure) (keepsM_bind keepsM_setMine fun _ => keepsM_pure)

theorem invO_execMbxpop {h : Hd} {o : OpE} {s : State} : InvO s (execMbxpop h o s) := by
  refine invO_issue (keepsM_bind keepsM_engineOnly fun _ => keepsM_bind keepsM_me fun _ => keepsM_bind keepsM_myPart fun _ => keepsM_get fun h1 => ?_)
  split
  · exact keepsM_bind (keepsM_modify fun h2 => h2) fun _ => keepsM_bind keepsM_putV fun _ => keepsM_bind keepsM_putM fun _ =>
      keepsM_when keepsM_acquireM fun _ => keepsM_pure
  · exact keepsM_ite (keepsM_bind keepsM_putM fun _ => keepsM_pure) keepsM_pure
end

end Sys2Proof.Machine
end

section
/-! PROOFS. What streams, the stash, events, barriers and watches keep (R226 to R262). -/

namespace Sys2Proof.Machine
open Sys2Proof

section
variable {orig : State}

/-! ## Elements that a stream engine moves -/

theorem keeps_readElems {s : State} {w : Who} {t : Stream} {ix : List VReg} {j : Nat} {es : List Nat} (h : Keeps orig s) :
    Keeps orig (readElems w t ix j es s).1 := by
  induction es generalizing s with
  | nil => exact h
  | cons e es ih =>
    simp only [readElems]
    split
    · exact h
    · exact ih (keeps_engineReadOwn (keeps_engineCheck h ‹_›))

theorem keeps_writeElems {s : State} {w : Who} {t : Stream} {j : Nat} {v : VReg} {es : List Nat} (h : Keeps orig s) :
    Keeps orig (writeElems w t j v es s).1 := by
  induction es generalizing s with
  | nil => exact h
  | cons e es ih =>
    simp only [writeElems]
    split
    · exact h
    · split
      · exact ih (keeps_engineWriteOwn (keeps_engineReadOwn (keeps_engineCheck h ‹_›)))
      · exact ih (keeps_engineWriteOwn (keeps_engineCheck h ‹_›))

theorem keeps_fetchVector {s : State} {k : Nat} {r : Fin 8} {t : Stream} (h : Keeps orig s) : Keeps orig (fetchVector s k r t).1 := by
  unfold fetchVector
  split
  · exact keeps_setStream (keeps_fst ‹_› (keeps_readElems h))
  · exact keeps_faultStream (keeps_fst ‹_› (keeps_readElems h))

theorem keeps_engineAct {s : State} {k : Nat} {r : Fin 8} (h : Keeps orig s) : Keeps orig (engineAct s k r).1 := by
  unfold engineAct
  extract_lets
  split
  · exact h
  · split
    · exact keeps_faultStream h
    · split
      · split
        · split
          · exact keeps_pulse (keeps_setStream (keeps_fst ‹_› (keeps_writeElems h)))
          · exact keeps_faultStream (keeps_fst ‹_› (keeps_writeElems h))
        · exact keeps_setStream h
        · exact h
      · split
        · exact keeps_setStream h
        · split
          · exact keeps_fetchVector h
          · split
            · extract_lets
              split
              · exact keeps_setStream (keeps_setStream h)
              · split
                · exact keeps_setStream h
                · exact h
              · exact h
            · exact keeps_fetchVector h

theorem invO_execStreamServe {k : Nat} {r : Fin 8} {s : State} : InvO s (execStreamServe k r s) :=
  invO_next (keeps_ite (Keeps.refl s) (keeps_engineAct (Keeps.refl s)))

theorem invO_execStreamFault {k : Nat} {r : Fin 8} {s : State} : InvO s (execStreamFault k r s) :=
  invO_next (keeps_ite (keeps_engineAct (Keeps.refl s)) (Keeps.refl s))

theorem invO_bind {h : Hd} {o : OpE} {indexed : Bool} {s : State} : InvO s (bind h o indexed s) := by
  refine invO_issue (keepsM_bind keepsM_me fun _ => keepsM_bind keepsM_myPart fun _ => keepsM_when keepsM_trapM fun _ =>
      keepsM_bind keepsM_checkM fun _ => keepsM_bind keepsM_readM fun _ => ?_)
  split
  · exact keepsM_pure
  · exact keepsM_get fun _ => keepsM_when keepsM_stop fun _ => keepsM_when keepsM_stop fun _ => keepsM_when keepsM_stop fun _ => keepsM_ite
      (keepsM_when keepsM_stop fun _ => keepsM_bind keepsM_pushRelease fun _ => keepsM_ite keepsM_pure (keepsM_bind keepsM_setMine fun _ =>
      keepsM_pure)) (keepsM_bind keepsM_pushRelease fun _ => keepsM_ite keepsM_pure (keepsM_bind keepsM_setMine fun _ => keepsM_pure))

theorem invO_execSbind {h : Hd} {o : OpE} {s : State} : InvO s (execSbind h o s) :=
  invO_bind

theorem invO_execSbindx {h : Hd} {o : OpE} {s : State} : InvO s (execSbindx h o s) :=
  invO_bind

theorem invO_execSdone {h : Hd} {o : OpE} {s : State} : InvO s (execSdone h o s) :=
  invO_issue (keepsM_bind keepsM_myPart fun _ => keepsM_ite (keepsM_bind keepsM_putM fun _ => keepsM_pure) (keepsM_when keepsM_stop fun _ =>
      keepsM_ite keepsM_pure (keepsM_bind keepsM_setMine fun _ => keepsM_when keepsM_acquireM fun _ => keepsM_bind keepsM_putM fun _ => keepsM_pure)))

theorem keeps_streamsAcquired {s : State} {k : Nat} (h : Keeps orig s) : Keeps orig (streamsAcquired s k) :=
  keeps_foldl (fun ht => keeps_ite ((memFrame_acquireAt ..).keeps ht) ht) h

theorem invO_execSskip {h : Hd} {o : OpE} {s : State} : InvO s (execSskip h o s) :=
  invO_issue (keepsM_bind keepsM_myPart fun _ => keepsM_ite (keepsM_bind keepsM_putM fun _ => keepsM_pure) (keepsM_when keepsM_stop fun _ =>
      keepsM_bind keepsM_setMine fun _ => keepsM_bind keepsM_putM fun _ => keepsM_pure))

theorem invO_execSstat {h : Hd} {o : OpE} {s : State} : InvO s (execSstat h o s) :=
  invO_issue (keepsM_bind keepsM_myPart fun _ => keepsM_when keepsM_stop fun _ => keepsM_bind keepsM_putM fun _ => keepsM_pure)

theorem keepsM_stashPlace {p : Part} {g : W64} {off : Option Nat} {lo len size : Nat} {e : Stop} :
    KeepsM orig (match off with
      | none => stop e
      | some off => do
        if off < lo ∨ lo + len < off + size then stop e
        if !stashOk p g off size then illegalValue
        setMine fun p => { p with stash := p.stash ++ [⟨g, off, size, []⟩] }
        pure Flow.done) := by
  split
  · exact keepsM_stop
  · exact keepsM_when keepsM_stop fun _ => keepsM_when keepsM_illegalValue fun _ => keepsM_bind keepsM_setMine fun _ => keepsM_pure

theorem invO_execStash {h : Hd} {o : OpC} {s : State} : InvO s (execStash h o s) := by
  refine invO_issue (keepsM_bind keepsM_noTask fun _ => keepsM_bind keepsM_me fun _ => keepsM_bind keepsM_myPart fun _ => keepsM_get fun h1 =>
      keepsM_when keepsM_trapM fun _ => keepsM_when keepsM_trapM fun _ => ?_)
  extract_lets off jp
  have hjp : ∀ u, KeepsM s (jp u) := fun _ => keepsM_stashPlace
  clear_value jp
  split
  · exact keepsM_bind keepsM_stop hjp
  · exact hjp ()
  · exact keepsM_bind keepsM_stop hjp

theorem keeps_stashFlush {s : State} {k : Nat} {m : Stash} {f : Nat → Bool} (h : Keeps orig s) : Keeps orig (stashFlush s k m f) :=
  keeps_foldl (fun ht => keeps_ite ((memFrame_stashMark ..).keeps ((memFrame_stashWriteBack ..).keeps ht)) ht) h

theorem keeps_stashFlushAll {s : State} {k : Nat} (h : Keeps orig s) : Keeps orig (stashFlushAll s k) :=
  keeps_foldl (fun ht => keeps_stashFlush ht) h

theorem invO_execUnstash {h : Hd} {o : OpC} {s : State} : InvO s (execUnstash h o s) := by
  refine invO_issue (keepsM_bind keepsM_noTask fun _ => keepsM_bind keepsM_me fun _ => keepsM_bind keepsM_myPart fun _ => ?_)
  extract_lets
  split
  · exact keepsM_illegalValue
  · exact keepsM_get fun _ => keepsM_ite keepsM_pure (keepsM_bind (keepsM_modify fun h2 => keeps_stashFlush h2) fun _ =>
      keepsM_bind keepsM_setMine fun _ => keepsM_pure)

theorem invO_execFlush {h : Hd} {o : OpC} {s : State} : InvO s (execFlush h o s) :=
  invO_issue (keepsM_bind keepsM_noTask fun _ => keepsM_bind keepsM_me fun _ => keepsM_bind keepsM_myPart fun _ => keepsM_get fun _ =>
      keepsM_ite keepsM_pure (keepsM_bind (keepsM_modify fun h2 => keeps_foldl (fun h2 => keeps_stashFlush h2) h2) fun _ => keepsM_pure))

theorem invO_execStashRecall {k : Nat} {va : W64} {s : State} : InvO s (execStashRecall k va s) := by
  have h := Keeps.refl s
  exact invO_next ((memFrame_stashRecallLine ..).keeps h)

theorem keeps_evPut {s : State} {cl : Nat} {e : Ev} (h : Keeps orig s) : Keeps orig (evPut s cl e) :=
  h

theorem keeps_evRelease {s : State} {flat c scope : Nat} (h : Keeps orig s) : Keeps orig (evRelease s flat c scope) :=
  keeps_modPartOf h

theorem keepsO_evsig {s : State} {cl c name scope : Nat} (h : Keeps orig s) : KeepsOpt orig (evsig s cl c name scope) := by
  unfold evsig
  split
  · split
    · exact keepsO_some (keeps_evPut h)
    · exact keepsO_none
  · split
    · exact keepsO_some h
    · exact keepsO_some (keeps_foldl (fun ht => keeps_evRelease ht) (keeps_evPut h))

theorem keepsO_signalTo {s : State} {c src tgt name scope : Nat} {pc : W64} (h : Keeps orig s) : KeepsOpt orig
    (signalTo s c src tgt name scope pc) := by
  unfold signalTo
  split
  · exact keepsO_some ((memFrame_writeRecord ..).keeps h)
  · exact keepsO_evsig h

theorem keeps_sevTo {s : State} {c scope : Nat} {tgts : List Nat} (h : Keeps orig s) : Keeps orig (sevTo s c scope tgts) :=
  keeps_foldl (fun ht => keeps_modPartOf ht) h

theorem keepsM_holdM {a : HeldAct} : KeepsM orig (holdM a) := by
  refine keepsM_bind keepsM_me fun _ => keepsM_get fun h1 => ?_
  split
  · exact keepsM_ite keepsM_pure (keepsM_bind (keepsM_modify fun h2 => keeps_modTask h2) fun _ => keepsM_pure)
  · exact keepsM_pure

theorem keepsM_heldWaits  : KeepsM orig heldWaits :=
  keepsM_bind keepsM_me fun _ => keepsM_get fun _ => keepsM_pure

theorem invO_execEvsig {h : Hd} {o : OpC} {s : State} : InvO s (execEvsig h o s) := by
  refine invO_issue (keepsM_bind keepsM_me fun _ => keepsM_bind keepsM_myPart fun _ => keepsM_bind keepsM_releaseM fun _ => keepsM_ite keepsM_pure
      (keepsM_bind keepsM_heldWaits fun _ => keepsM_ite keepsM_pure (keepsM_bind keepsM_holdM fun _ => keepsM_ite keepsM_pure (keepsM_get fun h1 =>
      ?_))))
  split
  · exact keepsM_bind (keepsM_set (keepsO_signalTo h1 _ ‹_›)) fun _ => keepsM_pure
  · exact keepsM_stop

theorem keepsM_noteOutcome {d : Nat} : KeepsM orig (noteOutcome d) :=
  keepsM_bind keepsM_me fun _ => keepsM_modify fun h1 => keeps_logOrTake h1

theorem keepsM_timedOutcome {limit d : Nat} : KeepsM orig (timedOutcome limit d) :=
  keepsM_ite keepsM_pure keepsM_noteOutcome

theorem invO_execEvwait {h : Hd} {o : OpC} {s : State} : InvO s (execEvwait h o s) := by
  refine invO_issue (keepsM_bind keepsM_noTask fun _ => keepsM_bind keepsM_me fun _ => keepsM_bind keepsM_myPart fun _ => keepsM_get fun h1 =>
      keepsM_when keepsM_illegalValue fun _ => ?_)
  split
  · exact keepsM_bind keepsM_setMine fun _ => keepsM_bind keepsM_timedOutcome fun _ => keepsM_bind keepsM_putM fun _ =>
      keepsM_when keepsM_acquireM fun _ => keepsM_pure
  · refine keepsM_ite (keepsM_bind keepsM_timedOutcome fun _ => keepsM_bind keepsM_putM fun _ => keepsM_pure) ?_
    split
    · exact keepsM_ite (keepsM_when (keepsM_modify fun h2 => keeps_evPut h2) fun _ => keepsM_bind keepsM_timedOutcome fun _ =>
        keepsM_bind keepsM_putM fun _ => keepsM_bind keepsM_acquireM fun _ => keepsM_pure) (keepsM_ite (keepsM_bind keepsM_putM fun _ => keepsM_pure)
        (keepsM_bind (keepsM_modify fun h2 => keeps_evPut h2) fun _ => keepsM_bind keepsM_setMine fun _ => keepsM_pure))
    · refine keepsM_ite (keepsM_bind keepsM_putM fun _ => keepsM_pure) ?_
      split
      · exact keepsM_stop
      · exact keepsM_bind (keepsM_modify fun h2 => keeps_evPut h2) fun _ => keepsM_bind keepsM_setMine fun _ => keepsM_pure

theorem invO_execEvclr {h : Hd} {o : OpC} {s : State} : InvO s (execEvclr h o s) := by
  refine invO_issue (keepsM_bind keepsM_noTask fun _ => keepsM_bind keepsM_me fun _ => keepsM_bind keepsM_myPart fun _ => keepsM_get fun h1 => ?_)
  extract_lets
  split
  · exact keepsM_when (keepsM_modify fun h2 => keeps_evPut h2) fun _ => keepsM_pure
  · exact keepsM_pure

theorem keeps_waitExpires {s : State} {flat : Nat} {p : Part} (h : Keeps orig s) : Keeps orig (waitExpires s flat p) := by
  unfold waitExpires
  split
  · refine keeps_ite h (keeps_modPartOf ?_)
    split
    · exact keeps_evPut h
    · exact h
  · exact h

theorem invO_execEvwaitTimeout {k : Nat} {s : State} : InvO s (execEvwaitTimeout k s) := by
  have h := Keeps.refl s
  exact invO_next (keeps_ite h (keeps_foldl (fun ht => keeps_waitExpires ht) (keeps_ite h (keeps_waitExpires h))))

theorem keeps_barSet {s : State} {flat level index : Nat} {b : Option Bar} (h : Keeps orig s) : Keeps orig (barSet s flat level index b) := by
  unfold barSet
  extract_lets
  split <;> exact h

theorem keeps_barRelease {s : State} {flat level index : Nat} {phase : W32} (h : Keeps orig s) : Keeps orig (barRelease s flat level index phase) :=
  h

theorem keeps_barFreed {s : State} {flat level index : Nat} (h : Keeps orig s) : Keeps orig (barFreed s flat level index) :=
  h

theorem keepsM_barM {v : W64} : KeepsM orig (barM v) := by
  unfold barM
  split
  · exact keepsM_pure
  · exact keepsM_illegalValue

theorem keepsM_ownedM {v : W64} {level index : Nat} : KeepsM orig (ownedM v level index) := by
  refine keepsM_bind keepsM_me fun _ => keepsM_bind keepsM_myPart fun _ => keepsM_get fun h1 => ?_
  split
  · exact keepsM_ite keepsM_pure keepsM_stop
  · exact keepsM_stop

theorem invO_execBararr {h : Hd} {o : OpC} {s : State} : InvO s (execBararr h o s) :=
  invO_issue (keepsM_bind keepsM_noTask fun _ => keepsM_bind keepsM_me fun _ => keepsM_bind keepsM_myPart fun _ => keepsM_bind keepsM_barM fun _ =>
      keepsM_bind keepsM_ownedM fun _ => keepsM_bind keepsM_releaseM fun _ => keepsM_ite keepsM_pure (keepsM_ite (keepsM_bind
      (keepsM_modify fun h1 => keeps_barRelease (keeps_barSet h1)) fun _ => keepsM_bind keepsM_putM fun _ => keepsM_pure) (keepsM_bind
      (keepsM_modify fun h1 => keeps_barSet h1) fun _ => keepsM_bind keepsM_putM fun _ => keepsM_pure)))

theorem invO_execBararrInit {h : Hd} {o : OpC} {s : State} : InvO s (execBararrInit h o s) := by
  refine invO_issue (keepsM_bind keepsM_noTask fun _ => keepsM_bind keepsM_me fun _ => keepsM_bind keepsM_myPart fun _ => keepsM_get fun h1 =>
      keepsM_bind keepsM_barM fun _ => keepsM_when keepsM_illegalValue fun _ => ?_)
  split
  · exact keepsM_when keepsM_stop fun _ => keepsM_bind (keepsM_modify fun h2 => keeps_barSet h2) fun _ => keepsM_bind keepsM_putM fun _ => keepsM_pure
  · exact keepsM_when keepsM_stop fun _ => keepsM_when keepsM_stop fun _ => keepsM_bind keepsM_putM fun _ => keepsM_pure

theorem invO_execBararrFree {h : Hd} {o : OpC} {s : State} : InvO s (execBararrFree h o s) :=
  invO_issue (keepsM_bind keepsM_noTask fun _ => keepsM_bind keepsM_me fun _ => keepsM_bind keepsM_myPart fun _ => keepsM_bind keepsM_barM fun _ =>
      keepsM_bind keepsM_ownedM fun _ => keepsM_when keepsM_stop fun _ => keepsM_bind (keepsM_modify fun h1 => keeps_barFreed
      (keeps_barSet h1)) fun _ => keepsM_bind keepsM_putM fun _ => keepsM_pure)

theorem invO_execBarwait {h : Hd} {o : OpC} {s : State} : InvO s (execBarwait h o s) := by
  refine invO_issue (keepsM_bind keepsM_noTask fun _ => keepsM_bind keepsM_me fun _ => keepsM_bind keepsM_myPart fun _ =>
      keepsM_when keepsM_illegalValue fun _ => keepsM_bind keepsM_barM fun _ => ?_)
  split
  split
  · exact keepsM_bind keepsM_setMine fun _ => keepsM_bind keepsM_putM fun _ => keepsM_bind keepsM_acquireM fun _ => keepsM_pure
  · exact keepsM_bind keepsM_ownedM fun _ => keepsM_ite (keepsM_bind keepsM_setMine fun _ => keepsM_pure) (keepsM_bind keepsM_putM fun _ =>
      keepsM_bind keepsM_acquireM fun _ => keepsM_pure)

theorem keeps_freeWatches {s : State} {k : Nat} (h : Keeps orig s) : Keeps orig (freeWatches s k) :=
  h

theorem keeps_armWatch {s : State} {w : Watch} (h : Keeps orig s) : Keeps orig (armWatch s w) :=
  h

theorem keepsM_watchCheck {a : W64} {n : Nat} : KeepsM orig (watchCheck a n) := by
  unfold watchCheck
  exact keepsM_when keepsM_trapM fun _ => keepsM_bind keepsM_checkM fun _ => keepsM_get fun _ => keepsM_when keepsM_stop fun _ => keepsM_modify fun h2 =>
      (memFrame_toHome ..).keeps h2

theorem invO_execWatch {h : Hd} {o : OpC} {s : State} : InvO s (execWatch h o s) :=
  invO_issue (keepsM_bind keepsM_noTask fun _ => keepsM_bind keepsM_me fun _ => keepsM_bind keepsM_myPart fun _ =>
      keepsM_bind keepsM_watchCheck fun _ => keepsM_get fun _ => keepsM_when keepsM_stop fun _ => keepsM_ite (keepsM_bind (keepsM_modify fun h2 =>
      keeps_wakeWatcher h2) fun _ => keepsM_bind keepsM_noteOutcome fun _ => keepsM_bind keepsM_putM fun _ => keepsM_pure) (keepsM_ite keepsM_pure
      (keepsM_bind (keepsM_modify fun h2 => keeps_armWatch h2) fun _ => keepsM_bind keepsM_noteOutcome fun _ => keepsM_bind keepsM_putM fun _ =>
      keepsM_pure)))

theorem invO_execWatchX {h : Hd} {o : OpC} {s : State} : InvO s (execWatchX h o s) :=
  invO_issue (keepsM_bind keepsM_noTask fun _ => keepsM_bind keepsM_me fun _ => keepsM_bind keepsM_myPart fun _ =>
      keepsM_bind keepsM_watchCheck fun _ => keepsM_bind (keepsM_modify fun h1 => h1) fun _ => keepsM_pure)

theorem invO_execWatchPoll {dk : Nat} {s : State} : InvO s (execWatchPoll dk s) := by
  have h := Keeps.refl s
  exact invO_next (keeps_foldl (fun ht => keeps_ite (keeps_ite ((memFrame_fireWatch ..).keeps ((memFrame_toHome ..).keeps ht))
      ((memFrame_toHome ..).keeps ht)) ht) h)

theorem invO_execWfe {h : Hd} {o : OpC} {s : State} : InvO s (execWfe h o s) := by
  refine invO_issue (keepsM_bind keepsM_noTask fun _ => keepsM_bind keepsM_me fun _ => keepsM_bind keepsM_myPart fun _ =>
      keepsM_when keepsM_illegalValue fun _ => keepsM_get fun h1 => keepsM_ite (keepsM_bind keepsM_setMine fun _ =>
      keepsM_bind keepsM_timedOutcome fun _ => keepsM_bind keepsM_putM fun _ => keepsM_pure) (keepsM_ite (keepsM_bind keepsM_setMine fun _ =>
      keepsM_bind keepsM_timedOutcome fun _ => keepsM_bind keepsM_putM fun _ => keepsM_bind keepsM_acquireM fun _ => keepsM_pure) ?_))
  split
  · exact keepsM_bind keepsM_setMine fun _ => keepsM_bind keepsM_timedOutcome fun _ => keepsM_bind keepsM_putM fun _ => keepsM_pure
  · exact keepsM_bind keepsM_setMine fun _ => keepsM_pure

theorem invO_execWfeTimeout {k : Nat} {s : State} : InvO s (execWfeTimeout k s) := by
  have h := Keeps.refl s
  refine invO_next (keeps_ite h ?_)
  split
  · exact keeps_ite h h
  · exact h

theorem invO_execSev {h : Hd} {o : OpC} {s : State} : InvO s (execSev h o s) :=
  invO_issue (keepsM_bind keepsM_me fun _ => keepsM_bind keepsM_myPart fun _ => keepsM_bind keepsM_releaseM fun _ => keepsM_ite keepsM_pure
      (keepsM_bind keepsM_heldWaits fun _ => keepsM_ite keepsM_pure (keepsM_bind keepsM_holdM fun _ => keepsM_ite keepsM_pure (keepsM_bind
      (keepsM_modify fun h1 => keeps_sevTo h1) fun _ => keepsM_pure))))

theorem keepsM_xbIndex {v : W64} {n : Nat} : KeepsM orig (xbIndex v n) :=
  keepsM_bind keepsM_me fun _ => keepsM_bind keepsM_noTask fun _ => keepsM_when keepsM_illegalValue fun _ => keepsM_pure

theorem invO_execXbsetCtr {h : Hd} {o : OpE} {s : State} : InvO s (execXbsetCtr h o s) :=
  invO_issue (keepsM_bind keepsM_myPart fun _ => keepsM_bind keepsM_xbIndex fun _ => keepsM_when keepsM_illegalValue fun _ =>
      keepsM_bind keepsM_putM fun _ => keepsM_bind keepsM_setMine fun _ => keepsM_pure)

theorem invO_execXbsetTerm {h : Hd} {o : OpE} {s : State} : InvO s (execXbsetTerm h o s) :=
  invO_issue (keepsM_bind keepsM_myPart fun _ => keepsM_bind keepsM_xbIndex fun _ => keepsM_when keepsM_illegalValue fun _ =>
      keepsM_bind keepsM_putM fun _ => keepsM_bind keepsM_setMine fun _ => keepsM_pure)

theorem invO_execXbsetTimer {h : Hd} {o : OpE} {s : State} : InvO s (execXbsetTimer h o s) :=
  invO_issue (keepsM_bind keepsM_myPart fun _ => keepsM_bind keepsM_xbIndex fun _ => keepsM_when keepsM_illegalValue fun _ =>
      keepsM_bind keepsM_putM fun _ => keepsM_bind keepsM_setMine fun _ => keepsM_pure)

theorem invO_execXbsetReset {h : Hd} {o : OpE} {s : State} : InvO s (execXbsetReset h o s) :=
  invO_issue (keepsM_bind keepsM_myPart fun _ => keepsM_bind keepsM_xbIndex fun _ => keepsM_when keepsM_illegalValue fun _ =>
      keepsM_bind keepsM_putM fun _ => keepsM_bind keepsM_setMine fun _ => keepsM_pure)

theorem invO_execDamaskTimer {k : Nat} {s : State} : InvO s (execDamaskTimer k s) := by
  have h := Keeps.refl s
  exact invO_next (keeps_ite h (keeps_pulse h))
end

end Sys2Proof.Machine
end

section
/-! PROOFS. What messages and tasks keep (R338 to R369, R427 to R451). -/

namespace Sys2Proof.Machine
open Sys2Proof

section
variable {orig : State}

theorem keeps_takeMsg {s : State} {n : Nat} (h : Keeps orig s) : Keeps orig (takeMsg s n) := by
  unfold takeMsg
  split
  · exact keeps_logOrTake h
  · exact h

theorem keeps_bounceMsg {s : State} {m : Msg} {status : Nat} (h : Keeps orig s) : Keeps orig (bounceMsg s m status) :=
  keeps_sendMsg h

theorem keeps_toInbox {s : State} {m : Msg} (h : Keeps orig s) : Keeps orig (toInbox s m) :=
  keeps_ite h (keeps_bounceMsg h)

theorem keeps_builtinAccess {s : State} {m : Msg} (h : Keeps orig s) : Keeps orig (builtinAccess s m).1 := by
  unfold builtinAccess
  extract_lets
  split
  · split
    · exact keeps_EFault_note h
    · exact keeps_engineRead (keeps_engineCheck h ‹_›)
  · split
    · exact keeps_EFault_note h
    · exact keeps_engineWrite (keeps_engineCheck h ‹_›)
  · split
    · exact keeps_EFault_note h
    · split
      · exact keeps_engineCheck h ‹_›
      · split
        · exact keeps_engineCheck h ‹_›
        · exact keeps_atomicAt (keeps_engineCheck h ‹_›)

theorem keeps_builtin {s : State} {m : Msg} (h : Keeps orig s) : Keeps orig (builtin s m) := by
  unfold builtin
  split
  · exact keeps_copyAck h
  · exact keeps_ite (keeps_ite (keeps_sendMsg (keeps_mailboxPut h)) (keeps_mailboxPut h)) (keeps_bounceMsg h)
  · exact keeps_ite (keeps_sendMsg (keeps_builtinAccess h)) (keeps_ite (keeps_sendMsg (keeps_builtinAccess h)) (keeps_builtinAccess h))

theorem keepsO_arrive {s : State} {m : Msg} (h : Keeps orig s) : KeepsOpt orig (arrive s m) := by
  unfold arrive
  split
  · split
    · exact keepsO_none
    · exact keepsO_some (keeps_builtin h)
  · split
    · split
      · exact keepsO_none
      · exact keepsO_some h
    · exact keepsO_some (keeps_bounceMsg h)
    · exact keepsO_some (keeps_toInbox h)

theorem keeps_serviceArrive {s : State} {m : Msg} (h : Keeps orig s) : Keeps orig (serviceArrive s m) :=
  keeps_ite (keeps_bounceMsg h) (keeps_ite (keeps_sendMsg h) h)

theorem invO_execMessageArrival {n : Nat} {s : State} : InvO s (execMessageArrival n s) := by
  have h := Keeps.refl s
  refine invO_next ?_
  split
  · refine keeps_ite h (keeps_ite (keeps_serviceArrive (keeps_takeMsg h)) (keeps_ite h ?_))
    split
    · exact keeps_bounceMsg (keeps_takeMsg h)
    · exact keeps_getD (keepsO_arrive (keeps_takeMsg h)) h
  · exact h

theorem keeps_fillSlot {s : State} {m : Msg} (h : Keeps orig s) : Keeps orig (fillSlot s m) := by
  unfold fillSlot
  extract_lets
  split
  · exact keeps_ite h (keeps_dropAt h)
  · exact keeps_dropAt h

theorem invO_execReplyArrival {n : Nat} {s : State} : InvO s (execReplyArrival n s) := by
  have h := Keeps.refl s
  refine invO_next ?_
  split
  · refine keeps_ite h ?_
    extract_lets
    split
    · exact keeps_ite (keeps_modCtx (keeps_takeMsg h)) (keeps_dropAt (keeps_takeMsg h))
    · exact keeps_ite (keeps_modCtx (keeps_takeMsg h)) (keeps_dropAt (keeps_takeMsg h))
    · exact keeps_fillSlot (keeps_takeMsg h)
    · exact keeps_dropAt (keeps_takeMsg h)
  · exact h

theorem keeps_seedBounced {s : State} {m : Msg} (h : Keeps orig s) : Keeps orig (seedBounced s m) := by
  unfold seedBounced
  split
  · exact keeps_modPartOf h
  · exact h

theorem keeps_execBounce_record {s : State} {m : Msg} (h : Keeps orig s) : Keeps orig (execBounce.record s m) :=
  keeps_seedBounced ((memFrame_writeRecord ..).keeps h)

theorem invO_execBounce {n : Nat} {s : State} : InvO s (execBounce n s) := by
  have h := Keeps.refl s
  refine invO_next ?_
  split
  · refine keeps_ite h ?_
    extract_lets
    split
    · exact keeps_execBounce_record (keeps_takeMsg h)
    · exact keeps_dropAt (keeps_takeMsg h)
    · exact keeps_execBounce_record (keeps_takeMsg h)
  · exact h

theorem keeps_drainInbox {s : State} {flat c : Nat} (h : Keeps orig s) : Keeps orig (drainInbox s flat c) :=
  keeps_ite h (keeps_foldl (fun ht => keeps_ite ht (keeps_ite (keeps_fillSlot ht) (keeps_ite ht ht))) h)

theorem keeps_drainInboxes {s : State} {flat : Nat} (h : Keeps orig s) : Keeps orig (drainInboxes s flat) :=
  keeps_foldl (fun ht => keeps_ite (keeps_drainInbox ht) ht) h

theorem keeps_requeue {s : State} {flat c : Nat} (h : Keeps orig s) : Keeps orig (requeue s flat c) :=
  keeps_foldl (fun ht => keeps_bounceMsg ht) h

theorem invO_execHandlerStart {flat : Nat} {s : State} : InvO s (execHandlerStart flat s) := by
  have h := Keeps.refl s
  refine invO_next ?_
  split
  · extract_lets
    split
    · exact keeps_drainInboxes ((memFrame_acquireAt ..).keeps h)
    · exact keeps_drainInboxes (keeps_bounceMsg h)
    · exact keeps_drainInboxes (keeps_requeue h)
  · exact h

theorem invO_execHtimeout {flat : Nat} {s : State} : InvO s (execHtimeout flat s) := by
  have h := Keeps.refl s
  exact invO_next (keeps_ite (keeps_handlerFault h) h)

theorem invO_execAmsg {h : Hd} {o : OpE} {s : State} : InvO s (execAmsg h o s) :=
  invO_issue (keepsM_bind keepsM_me fun _ => keepsM_bind keepsM_myPart fun _ => keepsM_when keepsM_illegalValue fun _ =>
      keepsM_when keepsM_illegalValue fun _ => keepsM_ite keepsM_pure (keepsM_when keepsM_setMine fun _ => keepsM_bind keepsM_heldWaits fun _ =>
      keepsM_ite keepsM_pure (keepsM_bind keepsM_holdM fun _ => keepsM_ite (keepsM_bind keepsM_putM fun _ => keepsM_pure) (keepsM_get fun _ =>
      keepsM_bind keepsM_releaseNow fun _ => keepsM_ite keepsM_pure (keepsM_ite (keepsM_ite (keepsM_bind keepsM_putM fun _ =>
      keepsM_pure) keepsM_pure) (keepsM_bind (keepsM_modify fun h2 => keeps_perf (keeps_sendMsg h2)) fun _ => keepsM_bind keepsM_putM fun _ =>
      keepsM_pure))))))

theorem invO_execAmret {h : Hd} {o : OpE} {s : State} : InvO s (execAmret h o s) := by
  refine invO_issue (keepsM_bind keepsM_me fun _ => keepsM_bind keepsM_myPart fun _ => keepsM_when keepsM_illegalValue fun _ =>
      keepsM_ite keepsM_pure (keepsM_bind (keepsM_modify fun h1 => keeps_streamsAcquired h1) fun _ => keepsM_get fun h1 => ?_))
  extract_lets
  split
  · exact keepsM_ite (keepsM_bind keepsM_releaseM fun _ => keepsM_ite keepsM_pure (keepsM_bind (keepsM_modify fun h2 => keeps_sendMsg h2) fun _ =>
      keepsM_bind (keepsM_modify fun h2 => keeps_dIdle h2) fun _ => keepsM_pure)) (keepsM_bind (keepsM_modify fun h2 => keeps_dIdle h2) fun _ =>
      keepsM_pure)
  · exact keepsM_bind (keepsM_modify fun h2 => keeps_dIdle h2) fun _ => keepsM_pure

theorem invO_execAmwait {h : Hd} {o : OpE} {s : State} : InvO s (execAmwait h o s) := by
  refine invO_issue (keepsM_bind keepsM_me fun _ => keepsM_bind keepsM_myPart fun _ => keepsM_when keepsM_illegalValue fun _ => ?_)
  beta_reduce
  extract_lets
  split
  · exact keepsM_illegalValue
  · split
    · exact keepsM_pure
    · exact keepsM_bind keepsM_setMine fun _ => keepsM_ite (keepsM_bind keepsM_putM fun _ => keepsM_bind keepsM_putM fun _ => keepsM_get fun _ =>
        keepsM_bind keepsM_acquireM fun _ => keepsM_pure) (keepsM_ite (keepsM_bind keepsM_putM fun _ => keepsM_pure) keepsM_pure)

theorem keeps_acceptSend {s : State} {m : Msg} (h : Keeps orig s) : Keeps orig (acceptSend s m) := by
  unfold acceptSend
  split
  · exact keeps_modPartOf h
  · exact h

theorem keeps_enterTabor {s : State} {m : Msg} (h : Keeps orig s) : Keeps orig (enterTabor s m) :=
  keeps_ite (keeps_ite (keeps_logOrTake h) h) (keeps_abortTasks (keeps_ite (keeps_logOrTake h) h))

theorem keeps_displace {s : State} {t : Task} (h : Keeps orig s) : Keeps orig (displace s t) :=
  keeps_toInbox (keeps_ite (keeps_abortTasks h) h)

theorem keeps_taborRefill {cl n : Nat} {s : State} (h : Keeps orig s) : Keeps orig (taborRefill cl n s) := by
  induction n generalizing s with
  | zero => exact h
  | succ n ih =>
    unfold taborRefill
    refine keeps_ite h ?_
    split
    · exact ih (keeps_enterTabor h)
    · exact h

theorem keeps_holdTaskMsg {s : State} {m : Msg} (h : Keeps orig s) : Keeps orig (holdTaskMsg s m) :=
  keeps_ite (keeps_acceptSend (keeps_toInbox h)) (keeps_bounceMsg h)

theorem keeps_offerTabor {s0 : State} {m : Msg} (h : Keeps orig s0) : Keeps orig (offerTabor s0 m) := by
  refine keeps_ite (keeps_acceptSend (keeps_enterTabor (keeps_taborRefill h))) ?_
  split
  · exact keeps_ite (keeps_holdTaskMsg (keeps_taborRefill h)) (keeps_acceptSend (keeps_enterTabor (keeps_displace (keeps_taborRefill h))))
  · exact keeps_taborRefill h

theorem invO_execTaskArrival {n : Nat} {s : State} : InvO s (execTaskArrival n s) := by
  have h := Keeps.refl s
  refine invO_next ?_
  split
  · refine keeps_ite h ?_
    extract_lets
    split
    · exact keeps_bounceMsg (keeps_takeMsg h)
    · split
      · exact keeps_offerTabor (keeps_takeMsg h)
      · exact keeps_offerTabor (keeps_takeMsg h)
      · exact keeps_bounceMsg (keeps_takeMsg h)
      · exact keeps_holdTaskMsg (keeps_takeMsg h)
  · exact h

theorem invO_execTaskDispatch {k : Nat} {s : State} : InvO s (execTaskDispatch k s) := by
  have h := Keeps.refl s
  refine invO_next (keeps_ite ?_ h)
  extract_lets
  split
  · exact keeps_modPart (keeps_modTask (keeps_taborRefill h))
  · exact keeps_ite (keeps_modPart (keeps_taborRefill h)) (keeps_taborRefill h)

theorem keeps_commitLine {s : State} {t : Task} {line : W64} {bs : List (W64 × Byte)} (h : Keeps orig s) : Keeps orig (commitLine s t line bs) :=
  keeps_ite (keeps_modPartOf ((memFrame_writeRecord ..).keeps h)) (keeps_ite ((memFrame_mcheckWrite ..).keeps h) ((memFrame_homeWriteAll ..).keeps
      ((memFrame_toHome ..).keeps (keeps_healRange h))))

theorem keeps_sendHeld {s : State} {c : Nat} {a : HeldAct} (h : Keeps orig s) : Keeps orig (sendHeld s c a) := by
  cases a with
  | msg m => exact keeps_modPartOf (keeps_sendMsg ((memFrame_releaseAt ..).keeps h))
  | signal src tgt name scope pc => exact keeps_getD (keepsO_signalTo ((memFrame_releaseAt ..).keeps h)) ((memFrame_releaseAt ..).keeps h)
  | sev tgts scope => exact keeps_sevTo h

theorem keeps_commitTask {s : State} {t : Task} (h : Keeps orig s) : Keeps orig (commitTask s t) :=
  keeps_pulseOf (keeps_foldl (fun ht => keeps_sendHeld ht) (keeps_foldl (fun ht => keeps_commitLine ht) h))

theorem invO_execGvtRound {ctx : Nat} {s : State} : InvO s (execGvtRound ctx s) := by
  have h := Keeps.refl s
  exact invO_next (keeps_ite (keeps_foldl (fun ht => keeps_taborRefill ht) (keeps_foldl (fun ht => keeps_commitTask ht) h)) (keeps_foldl (fun ht =>
      keeps_taborRefill ht) (keeps_foldl (fun ht => keeps_commitTask ht) h)))

theorem keeps_discardTasks {s : State} {flat c : Nat} (h : Keeps orig s) : Keeps orig (discardTasks s flat c) :=
  keeps_ite h (keeps_taborRefill (keeps_abortTasks h))

theorem keepsM_notInD  : KeepsM orig notInD :=
  keepsM_bind keepsM_me fun _ => keepsM_ite keepsM_illegalValue keepsM_pure

theorem keepsM_timeM {p : Part} {l : W32} {o : Bool} {x : Src} : KeepsM orig (timeM p l o x) :=
  keepsM_ite keepsM_pure (keepsM_when keepsM_stop fun _ => keepsM_pure)

theorem invO_execTsend {h : Hd} {o : OpE} {s : State} : InvO s (execTsend h o s) := by
  refine invO_issue (keepsM_bind keepsM_notInD fun _ => keepsM_bind keepsM_me fun _ => keepsM_bind keepsM_myPart fun _ => ?_)
  split
  · exact keepsM_bind keepsM_setMine fun _ => keepsM_bind keepsM_putM fun _ => keepsM_pure
  · refine keepsM_bind keepsM_timeM fun _ => keepsM_when keepsM_stop fun _ => keepsM_get fun h1 => ?_
    dsimp only
    split
    · exact keepsM_when keepsM_stop fun _ => keepsM_bind keepsM_releaseM fun _ => keepsM_ite keepsM_pure (keepsM_bind (keepsM_modify fun h2 =>
        keeps_sendMsg h2) fun _ => keepsM_bind keepsM_setMine fun _ => keepsM_pure)
    · exact keepsM_bind keepsM_releaseM fun _ => keepsM_ite keepsM_pure (keepsM_bind (keepsM_modify fun h2 => keeps_sendMsg h2) fun _ =>
        keepsM_bind keepsM_setMine fun _ => keepsM_pure)

theorem keepsM_notInHandler  : KeepsM orig notInHandler :=
  keepsM_bind keepsM_myPart fun _ => keepsM_ite keepsM_illegalValue keepsM_pure

theorem invO_execTend {h : Hd} {o : OpE} {s : State} : InvO s (execTend h o s) := by
  refine invO_issue (keepsM_bind keepsM_notInD fun _ => keepsM_bind keepsM_notInHandler fun _ => keepsM_bind keepsM_me fun _ =>
      keepsM_bind keepsM_myPart fun _ => keepsM_get fun h1 => ?_)
  split
  · split
    · exact keepsM_bind keepsM_setMine fun _ => keepsM_bind keepsM_putM fun _ => keepsM_bind keepsM_setMine fun _ =>
        keepsM_bind keepsM_acquireM fun _ => keepsM_pure
    · exact keepsM_bind keepsM_setMine fun _ => keepsM_pure
  · exact keepsM_bind keepsM_setMine fun _ => keepsM_bind keepsM_putM fun _ => keepsM_pure
  · extract_lets
    split
    · exact keepsM_bind (keepsM_modify fun h2 => keeps_modTask h2) fun _ => keepsM_bind (keepsM_modify fun h2 => keeps_taborRefill h2) fun _ =>
        keepsM_get fun _ => keepsM_ite (keepsM_bind keepsM_putM fun _ => keepsM_pure) (keepsM_bind keepsM_setMine fun _ => keepsM_pure)
    · exact keepsM_bind (keepsM_modify fun h2 => keeps_taborRefill h2) fun _ => keepsM_get fun _ => keepsM_ite (keepsM_bind keepsM_putM fun _ =>
        keepsM_pure) (keepsM_bind keepsM_setMine fun _ => keepsM_pure)

theorem invO_execTabort {h : Hd} {o : OpE} {s : State} : InvO s (execTabort h o s) := by
  refine invO_issue (keepsM_bind keepsM_notInD fun _ => keepsM_bind keepsM_notInHandler fun _ => keepsM_bind keepsM_me fun _ => keepsM_get fun h1 =>
      ?_)
  split
  · exact keepsM_stop
  · exact keepsM_ite (keepsM_bind (keepsM_modify fun h2 => keeps_taborRefill (keeps_abortTasks h2)) fun _ => keepsM_pure)
      (keepsM_when keepsM_illegalValue fun _ => keepsM_bind (keepsM_modify fun h2 => keeps_holdTask h2) fun _ => keepsM_pure)

theorem invO_execTgvt {h : Hd} {o : OpE} {s : State} : InvO s (execTgvt h o s) :=
  invO_issue (keepsM_bind keepsM_myPart fun _ => keepsM_get fun _ => keepsM_bind keepsM_putM fun _ => keepsM_pure)

theorem invO_execTkey {h : Hd} {o : OpE} {s : State} : InvO s (execTkey h o s) := by
  refine invO_issue (keepsM_bind keepsM_me fun _ => keepsM_get fun h1 => ?_)
  split
  · exact keepsM_bind keepsM_putM fun _ => keepsM_pure
  · exact keepsM_stop

theorem invO_execTwait {h : Hd} {o : OpE} {s : State} : InvO s (execTwait h o s) :=
  invO_issue (keepsM_bind keepsM_notInD fun _ => keepsM_bind keepsM_noTask fun _ => keepsM_bind keepsM_myPart fun _ =>
      keepsM_bind keepsM_timeM fun _ => keepsM_get fun _ => keepsM_ite keepsM_pure (keepsM_bind keepsM_putM fun _ =>
      keepsM_bind keepsM_acquireM fun _ => keepsM_pure))
end

end Sys2Proof.Machine
end

section
/-! PROOFS. What transfers and groups keep (R384 to R391, R452 to R480). -/

namespace Sys2Proof.Machine
open Sys2Proof

section
variable {orig : State}

theorem keeps_modXfer {s : State} {k id : Nat} {f : Xfer → Xfer} (h : Keeps orig s) : Keeps orig (modXfer s k id f) :=
  h

theorem keeps_modTent {s : State} {k : Nat} {x : Xfer} {f : TEnt → TEnt} (h : Keeps orig s) : Keeps orig (modTent s k x f) :=
  h

theorem keeps_dropTent {s : State} {k : Nat} {x : Xfer} (h : Keeps orig s) : Keeps orig (dropTent s k x) :=
  h

theorem keeps_notify {s : State} {t : TEnt} {n : XNote} (h : Keeps orig s) : Keeps orig (notify s t n) :=
  keeps_modPartOf h

theorem keeps_cancelXfer {s : State} {k : Nat} {x : Xfer} (h : Keeps orig s) : Keeps orig (cancelXfer s k x) :=
  keeps_modXfer (keeps_dropTent h)

theorem keeps_failXfer {s : State} {k : Nat} {x : Xfer} {code reason acc : Nat} {addr : W64} (h : Keeps orig s) : Keeps orig
    (failXfer s k x code reason acc addr) :=
  keeps_cancelXfer ((memFrame_writeRecord ..).keeps h)

theorem keeps_movePieces {s : State} {sw dw : Who} {x : Xfer} {upto ack n : Nat} (h : Keeps orig s) : Keeps orig (movePieces s sw dw x upto ack n).1 := by
  induction n generalizing s ack with
  | zero => exact h
  | succ n ih =>
    unfold movePieces
    split
    · exact h
    · extract_lets
      split
      · exact h
      · split
        · exact keeps_EFault_note h
        · split
          · exact keeps_EFault_note (keeps_engineCheck h ‹_›)
          · exact ih (keeps_engineWrite (keeps_engineRead (keeps_engineCheck (keeps_engineCheck h ‹_›) ‹_›)))

theorem keeps_xferMove {s : State} {k : Nat} {x : Xfer} {n : Nat} (h : Keeps orig s) : Keeps orig (xferMove s k x n).1 :=
  keeps_movePieces h

theorem keeps_arrived {s : State} {k : Nat} {x : Xfer} {ack : Nat} (h : Keeps orig s) : Keeps orig (arrived s k x ack) :=
  keeps_modXfer (keeps_modTent h)

theorem keeps_enterTabla {s : State} {k : Nat} {x : Xfer} {prefixed : Bool} (h : Keeps orig s) : Keeps orig (enterTabla s k x prefixed) :=
  h

theorem keeps_askAgain {s : State} {k : Nat} {x : Xfer} (h : Keeps orig s) : Keeps orig (askAgain s k x) := by
  unfold askAgain
  split
  · exact keeps_modXfer (keeps_modTent h)
  · refine keeps_ite ?_ (keeps_ite h (keeps_modXfer h))
    split
    · exact keeps_failXfer h
    · exact keeps_failXfer h
    · exact h
    · exact keeps_ite h (keeps_modXfer (keeps_enterTabla h))
    · exact keeps_ite h (keeps_modXfer (keeps_enterTabla h))

theorem keeps_askOrOwe {s : State} {k id : Nat} (h : Keeps orig s) : Keeps orig (askOrOwe s k id) := by
  unfold askOrOwe
  split
  · exact keeps_ite (keeps_askAgain h) (keeps_modXfer h)
  · exact h

theorem keeps_returnTokens {s : State} {k : Nat} {all : Bool} (h : Keeps orig s) : Keeps orig (returnTokens s k all) :=
  keeps_foldl (fun ht => keeps_ite ht (keeps_modXfer (keeps_modTent ht))) h

theorem keeps_sendRequests {s : State} {k : Nat} (h : Keeps orig s) : Keeps orig (sendRequests s k) :=
  keeps_foldl (fun ht => keeps_ite (keeps_askAgain ht) ht) h

theorem keeps_tablaPartGone {s : State} {flat c : Nat} (h : Keeps orig s) : Keeps orig (tablaPartGone s flat c) :=
  keeps_foldl (fun ht => keeps_notify ht) h

theorem keeps_tablaLive {s : State} {flat c : Nat} (h : Keeps orig s) : Keeps orig (tablaLive s flat c) :=
  h

theorem keeps_onSender {f : Nat → Nat → State → State} {k id : Nat} {s : State} (hf : ∀ {k id s}, Keeps orig s → Keeps orig (f k id s)) (h : Keeps orig s) :
    Keeps orig (onSender f k id s) := by
  unfold onSender
  refine keeps_ite (hf h) ?_
  extract_lets
  split
  · exact keeps_ite (hf (keeps_setPart h)) h
  · exact h

theorem keeps_announceXfer {k id : Nat} {s : State} (h : Keeps orig s) : Keeps orig (announceXfer k id s) := by
  unfold announceXfer
  split
  · refine keeps_ite h ?_
    split
    · exact keeps_failXfer h
    · exact keeps_failXfer h
    · exact h
    · exact keeps_ite h (keeps_modXfer (keeps_enterTabla h))
    · exact keeps_ite h (keeps_modXfer (keeps_enterTabla h))
  · exact h

theorem keeps_sendXfer {k id : Nat} {s : State} (h : Keeps orig s) : Keeps orig (sendXfer k id s) := by
  unfold sendXfer
  split
  · exact keeps_ite h (keeps_ite h (keeps_arrived (keeps_xferMove h)))
  · exact h

theorem invO_execTokenGrant {dk : Nat} {s : State} : InvO s (execTokenGrant dk s) := by
  have h := Keeps.refl s
  refine invO_next ?_
  split
  · exact keeps_ite h (keeps_ite h (keeps_notify h))
  · exact h

theorem keeps_takeToken {k id : Nat} {s : State} (h : Keeps orig s) : Keeps orig (takeToken k id s) := by
  unfold takeToken
  split
  · split
    · exact keeps_ite (keeps_modXfer h) (keeps_ite (keeps_modXfer (keeps_modTent (keeps_modXfer h))) (keeps_ite (keeps_modXfer (keeps_modXfer h))
        (keeps_arrived (keeps_xferMove h))))
    · exact h
  · exact h

theorem invO_execTablaAgeing {_dk _entry : Nat} {s : State} : InvO s (execTablaAgeing _dk _entry s) := by
  have h := Keeps.refl s
  exact invO_next h

theorem invO_execTokenExpiry {dk entry : Nat} {s : State} : InvO s (execTokenExpiry dk entry s) := by
  have h := Keeps.refl s
  refine invO_next ?_
  split
  · split
    · exact keeps_ite (keeps_notify h) h
    · exact h
  · exact h

theorem keeps_expireXfer {k id : Nat} {s : State} (h : Keeps orig s) : Keeps orig (expireXfer k id s) := by
  unfold expireXfer
  split
  · split
    · exact keeps_ite (keeps_askOrOwe (keeps_modXfer h)) (keeps_modXfer h)
    · exact h
  · exact h

theorem invO_execKeepalive {k id : Nat} {s : State} : InvO s (execKeepalive k id s) := by
  have h := Keeps.refl s
  refine invO_next ?_
  split
  · refine keeps_ite h ?_
    split
    · exact keeps_modTent h
    · exact keeps_ite h (keeps_askAgain h)
  · exact h

theorem invO_execReclaim {dk entry : Nat} {s : State} : InvO s (execReclaim dk entry s) := by
  have h := Keeps.refl s
  refine invO_next ?_
  split
  · exact keeps_ite h h
  · exact h

theorem keeps_reclaimXfer {k id : Nat} {s : State} (h : Keeps orig s) : Keeps orig (reclaimXfer k id s) := by
  unfold reclaimXfer
  split
  · split
    · exact keeps_ite (keeps_askOrOwe (keeps_modXfer (keeps_modXfer h))) (keeps_modXfer h)
    · exact h
  · exact h

theorem keeps_completeXfer {k id : Nat} {s : State} (h : Keeps orig s) : Keeps orig (completeXfer k id s) := by
  unfold completeXfer
  split
  · split
    · refine keeps_ite ?_ h
      extract_lets
      split
      · exact keeps_getD (keepsO_evsig ((memFrame_releaseAt ..).keeps (keeps_pulse (keeps_modXfer (keeps_dropTent h))))) (keeps_pulse (keeps_modXfer
          (keeps_dropTent h)))
      · exact keeps_pulse (keeps_modXfer (keeps_dropTent h))
    · exact h
  · exact h

theorem keeps_stopXfer {k id : Nat} {s : State} (h : Keeps orig s) : Keeps orig (stopXfer k id s) := by
  unfold stopXfer
  split
  · refine keeps_ite h (keeps_ite (keeps_failXfer h) ?_)
    split
    · exact keeps_failXfer (keeps_EFault_note h)
    · exact h
  · exact h

theorem invO_execRput {h : Hd} {o : OpE} {s : State} : InvO s (execRput h o s) :=
  invO_issue (keepsM_bind keepsM_engineOnly fun _ => keepsM_bind keepsM_myPart fun _ => keepsM_when keepsM_illegalValue fun _ =>
      keepsM_bind keepsM_formM fun _ => keepsM_ite keepsM_pure (keepsM_bind keepsM_pushRelease fun _ => keepsM_ite keepsM_pure
      (keepsM_bind keepsM_myPart fun _ => keepsM_bind keepsM_setMine fun _ => keepsM_bind keepsM_putM fun _ => keepsM_pure)))

theorem invO_execGrantp {h : Hd} {o : OpE} {s : State} : InvO s (execGrantp h o s) :=
  invO_issue (keepsM_bind keepsM_engineOnly fun _ => keepsM_bind keepsM_myPart fun _ => keepsM_when keepsM_illegalValue fun _ =>
      keepsM_bind keepsM_setMine fun _ => keepsM_bind keepsM_putM fun _ => keepsM_pure)

theorem invO_execRcancel {h : Hd} {o : OpE} {s : State} : InvO s (execRcancel h o s) := by
  refine invO_issue (keepsM_bind keepsM_engineOnly fun _ => keepsM_bind keepsM_me fun _ => keepsM_bind keepsM_myPart fun _ => keepsM_get fun h1 =>
      keepsM_when keepsM_illegalValue fun _ => ?_)
  beta_reduce
  extract_lets
  split
  · exact keepsM_ite (keepsM_bind keepsM_putM fun _ => keepsM_pure) (keepsM_bind (keepsM_modify fun h2 => keeps_cancelXfer h2) fun _ =>
      keepsM_bind keepsM_putM fun _ => keepsM_pure)
  · exact keepsM_bind keepsM_putM fun _ => keepsM_pure

theorem keeps_rputPulse {s : State} {k : Nat} (h : Keeps orig s) : Keeps orig (rputPulse s k) := by
  unfold rputPulse
  split
  · exact keeps_modXfer h
  · exact h

theorem keeps_withdrawXfers {s : State} {k : Nat} {all : Bool} (h : Keeps orig s) : Keeps orig (withdrawXfers s k all) :=
  keeps_foldl (fun ht => keeps_ite (keeps_cancelXfer ht) ht) h

section
variable {k id : Nat} {s : State}
theorem invO_execTransferAnnounce : InvO s (execTransferAnnounce k id s) := invO_next (keeps_onSender keeps_announceXfer (Keeps.refl s))
theorem invO_execTransferSendDone : InvO s (execTransferSendDone k id s) := invO_next (keeps_onSender keeps_sendXfer (Keeps.refl s))
theorem invO_execTokenArrival : InvO s (execTokenArrival k id s) := invO_next (keeps_onSender keeps_takeToken (Keeps.refl s))
theorem invO_execExpiryNotice : InvO s (execExpiryNotice k id s) := invO_next (keeps_onSender keeps_expireXfer (Keeps.refl s))
theorem invO_execReclaimNotice : InvO s (execReclaimNotice k id s) := invO_next (keeps_onSender keeps_reclaimXfer (Keeps.refl s))
theorem invO_execTransferComplete : InvO s (execTransferComplete k id s) := invO_next (keeps_onSender keeps_completeXfer (Keeps.refl s))
theorem invO_execTransferFault : InvO s (execTransferFault k id s) := invO_next (keeps_onSender keeps_stopXfer (Keeps.refl s))
end

theorem keeps_modColl {s : State} {dev gid seq : Nat} {f : Coll → Coll} (h : Keeps orig s) : Keeps orig (modColl s dev gid seq f) :=
  h

theorem keeps_modGcoll {s : State} {gid seq : Nat} {f : GColl → GColl} (h : Keeps orig s) : Keeps orig (modGcoll s gid seq f) :=
  h

theorem keeps_cancelColl {s : State} {dev : Nat} {c : Coll} {reason freason cause : Nat} {addr : W64} (h : Keeps orig s) :
    Keeps orig (cancelColl s dev c reason freason cause addr) := by
  have hrec : Keeps orig (if reason = 3 then (s, (0 : W64)) else writeRecord s c.ctx c.flat (collRecord c reason freason cause addr)).1 := by
    split
    · exact h
    · exact (memFrame_writeRecord ..).keeps h
  exact keeps_modColl hrec

theorem keeps_cancelWhere {s : State} {dev reason : Nat} {q : Coll → Bool} (h : Keeps orig s) : Keeps orig (cancelWhere s dev reason q) :=
  keeps_foldl (fun ht => keeps_cancelColl ht) h

theorem keeps_breakGroups {s : State} (h : Keeps orig s) : Keeps orig (breakGroups s) :=
  keeps_foldl (fun ht => keeps_modDev (keeps_cancelWhere ht)) h

theorem keeps_quiesceAll {s : State} {reason : Fin 2} (h : Keeps orig s) : Keeps orig (quiesceAll s reason) :=
  Keeps.same (keeps_breakGroups (keeps_foldl (fun ht => keeps_abortContext ht) h)) rfl rfl

theorem invO_execGroupCreate {gid : W32} {ctx : Nat} {members : List Nat} {coord : Half} {plane : Nat} {s : State} : InvO s
    (execGroupCreate gid ctx members coord plane s) := by
  have h := Keeps.refl s
  exact invO_next (keeps_ite h (keeps_ite (keeps_foldl (fun ht => ht) h) h))

theorem keeps_destroyGroup {s : State} {gid : Nat} (h : Keeps orig s) : Keeps orig (destroyGroup s gid) := by
  unfold destroyGroup
  split
  · exact h
  · exact keeps_foldl (fun ht => keeps_modDev (keeps_cancelWhere ht)) h

theorem invO_execGroupDestroy {gid : W32} {s : State} : InvO s (execGroupDestroy gid s) := by
  have h := Keeps.refl s
  exact invO_next (keeps_ite (keeps_destroyGroup h) h)

theorem invO_execTicketIssue {gid : W32} {seq : Nat} {s : State} : InvO s (execTicketIssue gid seq s) := by
  have h := Keeps.refl s
  refine invO_next ?_
  split
  · exact keeps_ite h (keeps_ite (keeps_modGcoll h) (keeps_ite h h))
  · exact h

theorem keeps_takeNote {s t : State} {dev gid seq : Nat} {n : GNote} (h : Keeps orig s) (e : takeNote s dev gid seq = some (n, t)) : Keeps orig t := by
  unfold takeNote at e
  split at e
  · split at e
    · cases e
    · split at e
      · cases e
        exact keeps_modGcoll h
      · cases e
  · cases e

/-- An access that is checked only where there is something to access. -/
theorem keeps_okOr {s t : State} {c : Prop} [Decidable c] {w : Who} {acc : Acc} {a : W64} {n : Nat} (h : Keeps orig s)
    (e : (if c then Except.ok s else engineCheck s w acc a n) = .ok t) : Keeps orig t := by
  split at e
  · cases e
    exact h
  · exact keeps_engineCheck h e

theorem keepsM_collOnly : KeepsM orig collOnly := keepsM_engineOnly

theorem invO_execTicketArrival {dev : Nat} {gid : W32} {seq : Nat} {s : State} : InvO s (execTicketArrival dev gid seq s) := by
  have h := Keeps.refl s
  refine invO_next ?_
  split
  · exact keeps_ite h (keeps_ite (keeps_quiesceAll (keeps_modDev (keeps_takeNote h ‹_›))) (keeps_modColl (keeps_modDev (keeps_takeNote h ‹_›))))
  · exact h

theorem invO_execHorizonBeacon {dev : Nat} {coord : Half} {s : State} : InvO s (execHorizonBeacon dev coord s) := by
  have h := Keeps.refl s
  exact invO_next (keeps_ite h h)

theorem invO_execCollectiveWithdraw {gid : W32} {seq : Nat} {s : State} : InvO s (execCollectiveWithdraw gid seq s) := by
  have h := Keeps.refl s
  refine invO_next ?_
  split
  · split
    · exact h
    · refine keeps_ite h ?_
      extract_lets
      split <;> exact keeps_modGcoll h
  · exact h

theorem keeps_sendAsk {s : State} {dev : Nat} {c : Coll} {k : Option (Nat × W64)} (h : Keeps orig s) : Keeps orig (sendAsk s dev c k) :=
  keeps_ite h (keeps_modGcoll (keeps_modColl h))

theorem invO_execCancelNotice {dev : Nat} {gid : W32} {seq : Nat} {s : State} : InvO s (execCancelNotice dev gid seq s) := by
  have h := Keeps.refl s
  refine invO_next ?_
  split
  · split
    · exact keeps_ite (keeps_cancelColl (keeps_takeNote h ‹_›)) (keeps_takeNote h ‹_›)
    · exact keeps_takeNote h ‹_›
  · exact h

theorem invO_execAbandonNotice {dev : Nat} {gid : W32} {seq : Nat} {s : State} : InvO s (execAbandonNotice dev gid seq s) := by
  have h := Keeps.refl s
  refine invO_next ?_
  split
  · split
    · exact keeps_ite (keeps_cancelColl (keeps_takeNote h ‹_›)) (keeps_takeNote h ‹_›)
    · exact keeps_takeNote h ‹_›
  · exact h

theorem invO_execMismatchNotice {dev : Nat} {gid : W32} {seq : Nat} {s : State} : InvO s (execMismatchNotice dev gid seq s) := by
  have h := Keeps.refl s
  refine invO_next ?_
  split
  · split
    · exact keeps_ite (keeps_cancelColl (keeps_takeNote h ‹_›)) (keeps_takeNote h ‹_›)
    · exact keeps_takeNote h ‹_›
  · exact h

theorem invO_execTicketAgeBreach {dev : Nat} {gid : W32} {seq : Nat} {s : State} : InvO s (execTicketAgeBreach dev gid seq s) := by
  have h := Keeps.refl s
  refine invO_next ?_
  split
  · exact keeps_ite (keeps_quiesceAll h) h
  · exact h

theorem invO_execCollectiveAdmit {dev : Nat} {s : State} : InvO s (execCollectiveAdmit dev s) := by
  have h := Keeps.refl s
  refine invO_next ?_
  split
  · refine keeps_ite h ?_
    extract_lets
    split
    · extract_lets
      split
      · exact keeps_sendAsk (keeps_EFault_note (keeps_modDev (keeps_modColl h)))
      · exact keeps_modGcoll (keeps_engineRead (keeps_okOr (keeps_modDev (keeps_modColl h)) ‹_›))
    · exact keeps_modDev (keeps_modColl h)
  · exact h

theorem invO_execCollectiveFinish {dev : Nat} {gid : W32} {seq : Nat} {s : State} : InvO s (execCollectiveFinish dev gid seq s) := by
  have h := Keeps.refl s
  refine invO_next ?_
  split
  · extract_lets
    split
    · refine keeps_ite h (keeps_ite (keeps_sendAsk h) (keeps_ite h (keeps_ite h ?_)))
      split
      · exact keeps_sendAsk (keeps_EFault_note h)
      · exact keeps_pulseOf (keeps_modColl (keeps_engineWrite (keeps_okOr h ‹_›)))
    · exact h
  · exact h

theorem keeps_withdrawColls {s : State} {flat c : Nat} {all : Bool} (h : Keeps orig s) : Keeps orig (withdrawColls s flat c all) :=
  keeps_foldl (fun ht => keeps_ite (keeps_sendAsk ht) ht) h

theorem keeps_freeColls {s : State} {flat c : Nat} (h : Keeps orig s) : Keeps orig (freeColls s flat c) :=
  h

theorem keepsM_handleM {v : W64} : KeepsM orig (handleM v) := by
  refine keepsM_bind keepsM_me fun _ => keepsM_bind keepsM_myPart fun _ => keepsM_get fun h1 => ?_
  split
  · exact keepsM_pure
  · exact keepsM_illegalValue

theorem invO_execGpost {h : Hd} {o : OpE} {s : State} : InvO s (execGpost h o s) := by
  refine invO_issue (keepsM_bind keepsM_collOnly fun _ => keepsM_bind keepsM_me fun _ => keepsM_bind keepsM_myPart fun _ => keepsM_get fun h1 => ?_)
  extract_lets
  split
  · exact keepsM_illegalValue
  · refine keepsM_when keepsM_trapM fun _ => keepsM_bind keepsM_checkM fun _ => keepsM_bind keepsM_readM fun _ => ?_
    split
    · exact keepsM_pure
    · refine keepsM_when keepsM_illegalValue fun _ => keepsM_when keepsM_illegalValue fun _ => keepsM_ite (keepsM_when keepsM_trapM fun _ =>
        keepsM_when keepsM_trapM fun _ => keepsM_bind keepsM_formM fun _ => keepsM_bind keepsM_formM fun _ => keepsM_get fun h2 =>
        keepsM_ite keepsM_pure (keepsM_bind keepsM_pushRelease fun _ => keepsM_ite keepsM_pure (keepsM_get fun h3 => keepsM_bind
        (keepsM_modify fun h4 => h4) fun _ => keepsM_ite (keepsM_bind (keepsM_modify fun h4 => keeps_cancelColl h4) fun _ =>
        keepsM_bind keepsM_putM fun _ => keepsM_pure) ?_))) (keepsM_get fun h2 => keepsM_ite keepsM_pure (keepsM_bind keepsM_pushRelease fun _ =>
        keepsM_ite keepsM_pure (keepsM_get fun h3 => keepsM_bind (keepsM_modify fun h4 => h4) fun _ => keepsM_ite (keepsM_bind
        (keepsM_modify fun h4 => keeps_cancelColl h4) fun _ => keepsM_bind keepsM_putM fun _ => keepsM_pure) ?_)))
      all_goals
        split
        · exact keepsM_bind (keepsM_modify fun h4 => keeps_modGcoll h4) fun _ => keepsM_bind keepsM_putM fun _ => keepsM_pure
        · exact keepsM_bind (keepsM_modify fun h4 => h4) fun _ => keepsM_bind keepsM_putM fun _ => keepsM_pure

theorem keeps_freeColl {s : State} {dev : Nat} {c : Coll} (h : Keeps orig s) : Keeps orig (freeColl s dev c) :=
  h

theorem keeps_takeColl {s : State} {dev : Nat} {c : Coll} (h : Keeps orig s) : Keeps orig (takeColl s dev c) :=
  h

theorem invO_execGwait {h : Hd} {o : OpE} {s : State} : InvO s (execGwait h o s) := by
  refine invO_issue (keepsM_bind keepsM_collOnly fun _ => keepsM_bind keepsM_myPart fun _ => keepsM_bind keepsM_handleM fun _ => ?_)
  split
  extract_lets
  split
  · exact keepsM_bind keepsM_putM fun _ => keepsM_bind keepsM_acquireM fun _ => keepsM_bind (keepsM_modify fun h1 => keeps_freeColl h1) fun _ =>
      keepsM_pure
  · exact keepsM_ite (keepsM_bind (keepsM_modify fun h1 => (memFrame_markTaken ..).keeps (keeps_takeColl h1)) fun _ => keepsM_pure)
      (keepsM_bind keepsM_putM fun _ => keepsM_bind (keepsM_modify fun h1 => keeps_freeColl h1) fun _ => keepsM_pure)
  · exact keepsM_ite (keepsM_bind keepsM_putM fun _ => keepsM_pure) keepsM_pure

theorem invO_execGtkt {h : Hd} {o : OpE} {s : State} : InvO s (execGtkt h o s) :=
  invO_issue (keepsM_bind keepsM_collOnly fun _ => keepsM_bind keepsM_myPart fun _ => keepsM_bind keepsM_handleM fun _ => keepsM_ite keepsM_pure
      (keepsM_bind keepsM_putM fun _ => keepsM_pure))

theorem invO_execGcancel {h : Hd} {o : OpE} {s : State} : InvO s (execGcancel h o s) := by
  refine invO_issue (keepsM_bind keepsM_collOnly fun _ => keepsM_bind keepsM_myPart fun _ => keepsM_bind keepsM_handleM fun _ => ?_)
  split
  split
  · exact keepsM_bind keepsM_putM fun _ => keepsM_pure
  · exact keepsM_bind keepsM_putM fun _ => keepsM_pure
  · exact keepsM_bind (keepsM_modify fun h1 => keeps_sendAsk h1) fun _ => keepsM_pure

theorem invO_execGstat {h : Hd} {o : OpE} {s : State} : InvO s (execGstat h o s) :=
  invO_issue (keepsM_bind keepsM_me fun _ => keepsM_bind keepsM_myPart fun _ => keepsM_get fun _ => keepsM_bind keepsM_putM fun _ => keepsM_pure)
end

end Sys2Proof.Machine
end

section
/-! PROOFS. What the matrix unit and work queues keep (R306 to R337). -/

namespace Sys2Proof.Machine
open Sys2Proof

section
variable {orig : State}

theorem keeps_modMcore {s : State} {flat : Nat} {f : MCore → MCore} (h : Keeps orig s) : Keeps orig (modMcore s flat f) :=
  h

theorem keeps_modHead {s : State} {flat : Nat} {f : MOp → MOp} (h : Keeps orig s) : Keeps orig (modHead s flat f) :=
  keeps_modMcore h

theorem keeps_popHead {s : State} {flat : Nat} (h : Keeps orig s) : Keeps orig (popHead s flat) :=
  keeps_modMcore h

theorem keeps_loadEnds {s : State} {l : MLoad} (h : Keeps orig s) : Keeps orig (loadEnds s l) :=
  keeps_pulse h

/-! ## The heads of the queues (R316, R317, R329) -/

theorem keepsO_findSome? {β : Type} {f : β → Option State} (hf : ∀ b, KeepsOpt orig (f b)) (l : List β) : KeepsOpt orig (l.findSome? f) := by
  intro t e
  obtain ⟨b, -, hb⟩ := List.exists_of_findSome?_eq_some e
  exact hf b t hb

theorem keepsO_settleHead {s : State} {u : MUnit} {m flat : Nat} {c : MCore} (h : Keeps orig s) : KeepsOpt orig (settle1.settleHead s u m flat c) := by
  unfold settle1.settleHead
  split
  · exact keepsO_none
  · split
    · split
      · exact keepsO_some (keeps_popHead h)
      · exact keepsO_none
    · split
      · exact keepsO_none
      · exact keepsO_some (keeps_modMcore (keeps_popHead h))
    · exact keepsO_none
    · split
      · split
        · exact keepsO_some (keeps_modHead h)
        · exact keepsO_none
      · exact keepsO_none

theorem keepsO_settle1 {s : State} {m : Nat} (h : Keeps orig s) : KeepsOpt orig (settle1 s m) := by
  refine keepsO_findSome? (fun pos => ?_) _
  extract_lets flat c
  split
  · split
    · exact keepsO_some (keeps_loadEnds h)
    · exact keepsO_settleHead h
  · exact keepsO_settleHead h

theorem keeps_settle {s : State} {m n : Nat} (h : Keeps orig s) : Keeps orig (settle m n s) := by
  induction n generalizing s with
  | zero => exact h
  | succ n ih =>
    unfold settle
    split
    next t hstep => exact ih (keepsO_settle1 h t hstep)
    · exact keeps_foldl (fun ht => keeps_ite ht (keeps_modMcore ht)) h

theorem keeps_settleMu {s : State} {m : Nat} (h : Keeps orig s) : Keeps orig (settleMu s m) :=
  keeps_settle h

/-! ## Rows, faults and streams of operations (R318 to R325) -/

theorem keeps_readRows {s : State} {w : Who} {o : MOp} {p : Plane} {ms : List Nat} (h : Keeps orig s) : Keeps orig (readRows w o p ms s).1 := by
  induction ms generalizing s with
  | nil => exact h
  | cons m ms ih =>
    unfold readRows
    split
    · exact keeps_EFault_note h
    · exact ih (keeps_engineRead (keeps_engineCheck h ‹_›))

theorem keeps_addSums {s : State} {flat : Nat} {acc : Bool} {as : List MAdd} (h : Keeps orig s) : Keeps orig (addSums s flat acc as) :=
  keeps_modMcore h

theorem keeps_addMrec {s : State} {flat : Nat} {tile : Option Bool} {code reason : Nat} {rec : List Byte} (h : Keeps orig s) : Keeps orig
    (addMrec s flat tile code reason rec) :=
  keeps_modMcore ((memFrame_writeRecord ..).keeps h)

theorem keeps_retireOp {s : State} {flat : Nat} {acc : Bool} (h : Keeps orig s) : Keeps orig (retireOp s flat acc) := by
  unfold retireOp
  extract_lets
  split
  · exact keeps_perf (keeps_pulse (keeps_modMcore h))
  · exact keeps_modMcore h

theorem keeps_faultOp {s : State} {flat : Nat} {o : MOp} {row : Nat} {code reason : Nat} {addr : W64} (h : Keeps orig s) : Keeps orig
    (faultOp s flat o row code reason addr) :=
  keeps_retireOp (keeps_addMrec h)

theorem keeps_beginStream {s : State} {m pos : Nat} (h : Keeps orig s) : Keeps orig (beginStream s m pos) := by
  unfold beginStream
  extract_lets
  split
  · exact h
  · exact keeps_modHead h

theorem keeps_grant {s0 : State} {m : Nat} (h : Keeps orig s0) : Keeps orig (grant s0 m) := by
  unfold grant
  extract_lets
  split
  · exact h
  · extract_lets
    split
    · exact h
    · exact keeps_ite (keeps_beginStream (keeps_modMu (keeps_logOrTake h))) (keeps_modMu (keeps_modMu (keeps_logOrTake h)))

theorem invO_execArbiterGrant {m : Nat} {s : State} : InvO s (execArbiterGrant m s) := by
  have h := Keeps.refl s
  refine invO_next (keeps_ite h ?_)
  split
  · exact keeps_settleMu (keeps_beginStream h)
  · exact keeps_ite (keeps_settleMu h) (keeps_settleMu (keeps_grant h))

theorem keeps_swapped {s : State} {m : Nat} {o : MOp} (h : Keeps orig s) : Keeps orig (swapped s m o) :=
  keeps_ite h h

theorem invO_execKstepBoundary {m : Nat} {s0 : State} : InvO s0 (execKstepBoundary m s0) := by
  have h := Keeps.refl s0
  refine invO_next ?_
  split
  · exact h
  · refine keeps_ite h ?_
    split
    · exact h
    · exact keeps_ite (keeps_settleMu (keeps_modHead (keeps_modMu (keeps_modHead (keeps_addSums (keeps_fst ‹_› (keeps_readRows
        (keeps_swapped h)))))))) (keeps_ite (keeps_ite (keeps_settleMu (keeps_modHead (keeps_modMu (keeps_modHead (keeps_addSums (keeps_fst ‹_›
        (keeps_readRows (keeps_swapped h)))))))) (keeps_settleMu (keeps_grant (keeps_settleMu (keeps_modHead (keeps_modMu (keeps_modHead
        (keeps_addSums (keeps_fst ‹_› (keeps_readRows (keeps_swapped h))))))))))) (keeps_settleMu (keeps_modMu (keeps_modHead (keeps_addSums
        (keeps_fst ‹_› (keeps_readRows (keeps_swapped h))))))))

theorem invO_execLastRow {m : Nat} {s0 : State} : InvO s0 (execLastRow m s0) := by
  have h := Keeps.refl s0
  refine invO_next ?_
  split
  · exact h
  · refine keeps_ite h ?_
    split
    · exact h
    · exact keeps_settleMu (keeps_modMu (keeps_popHead (keeps_addSums (keeps_fst ‹_› (keeps_readRows (keeps_swapped h))))))

theorem invO_execMatrixRetire {m : Nat} {s : State} : InvO s (execMatrixRetire m s) := by
  have h := Keeps.refl s
  refine invO_next ?_
  split
  · exact h
  · exact keeps_settleMu (keeps_retireOp h)

theorem keeps_drainFault {s : State} {m row : Nat} (h : Keeps orig s) : Keeps orig (drainFault s m row) := by
  unfold drainFault
  split
  · exact keeps_ite (keeps_settleMu (keeps_faultOp (keeps_modMcore h))) h
  · exact h

theorem invO_execMatrixFault {m row : Nat} {why : MFail} {s0 : State} : InvO s0 (execMatrixFault m row why s0) := by
  have h := Keeps.refl s0
  refine invO_next (keeps_ite (keeps_drainFault h) ?_)
  split
  · refine keeps_ite h ?_
    split
    · exact keeps_settleMu (keeps_faultOp (keeps_popHead (keeps_addSums (keeps_fst ‹_› (keeps_readRows (keeps_swapped h))))))
    · exact keeps_ite (keeps_settleMu (keeps_faultOp (keeps_popHead (keeps_addSums (keeps_fst ‹_› (keeps_readRows (keeps_swapped h))))))) h
  · exact h

theorem invO_execMatrixAgeing {m _pos : Nat} {s : State} : InvO s (execMatrixAgeing m _pos s) := by
  have h := Keeps.refl s
  exact invO_next (keeps_settleMu h)

theorem invO_execColumnRemap {m : Nat} {s : State} : InvO s (execColumnRemap m s) := by
  have h := Keeps.refl s
  exact invO_next (keeps_ite h (keeps_writeHealth h))

theorem invO_execPlaneLoadStart {m : Nat} {s : State} : InvO s (execPlaneLoadStart m s) := by
  have h := Keeps.refl s
  refine invO_next ?_
  split
  · exact keeps_ite h (keeps_settleMu h)
  · exact h

theorem invO_execPlaneLoadDone {m : Nat} {s : State} : InvO s (execPlaneLoadDone m s) := by
  have h := Keeps.refl s
  refine invO_next ?_
  split
  · exact h
  · extract_lets n
    refine keeps_ite h ?_
    split
    · exact keeps_settleMu (keeps_addMrec (keeps_modMu (keeps_EFault_note h)))
    next s1 hcheck =>
      have h1 : Keeps s s1 := by
        split at hcheck
        · cases hcheck
        · exact keeps_engineCheck h hcheck
      exact keeps_settleMu (keeps_loadEnds (keeps_modMu (keeps_engineRead h1)))

theorem keeps_claimCore {s : State} {k : Nat} (h : Keeps orig s) : Keeps orig (claimCore s k) :=
  keeps_settleMu (keeps_modPart (keeps_modMu (keeps_modMcore h)))

theorem keepsM_claimM  : KeepsM orig claimM := by
  refine keepsM_bind keepsM_me fun _ => keepsM_get fun h1 => keepsM_when keepsM_trapM fun _ => keepsM_when keepsM_illegalValue fun _ =>
      keepsM_bind keepsM_noTask fun _ => ?_
  split
  · exact keepsM_pure
  · exact keepsM_bind (keepsM_modify fun h2 => keeps_claimCore h2) fun _ => keepsM_pure

theorem keeps_endClaim {s : State} {k : Nat} (h : Keeps orig s) : Keeps orig (endClaim s k) :=
  keeps_ite (keeps_modMcore h) h

theorem keeps_mqStart_credit {s : State} {k : Nat} (h : Keeps orig s) : Keeps orig (mqStart.credit k s) := h

theorem keeps_mqStart {s : State} {k : Nat} (h : Keeps orig s) : Keeps orig (mqStart s k) := by
  unfold mqStart
  extract_lets flat c
  split
  · exact keeps_ite (keeps_settleMu (keeps_modHead h)) (keeps_mqStart_credit h)
  · exact keeps_mqStart_credit h

theorem keepsM_enterM {f : Nat → MOp} : KeepsM orig (enterM f) :=
  keepsM_bind keepsM_me fun _ => keepsM_get fun _ => keepsM_ite keepsM_pure (keepsM_bind (keepsM_modify fun h2 => keeps_modMcore h2) fun _ =>
      keepsM_bind (keepsM_modify fun h2 => keeps_settleMu h2) fun _ => keepsM_pure)

theorem invO_execMload {h : Hd} {o : OpE} {s : State} : InvO s (execMload h o s) :=
  invO_issue (keepsM_bind keepsM_claimM fun _ => keepsM_ite keepsM_pure (keepsM_bind keepsM_me fun _ => keepsM_bind keepsM_myPart fun _ =>
      keepsM_when keepsM_illegalValue fun _ => keepsM_when keepsM_trapM fun _ => keepsM_bind keepsM_formM fun _ => keepsM_get fun _ =>
      keepsM_ite keepsM_pure (keepsM_bind keepsM_pushRelease fun _ => keepsM_ite keepsM_pure (keepsM_bind (keepsM_modify fun h2 =>
      keeps_settleMu h2) fun _ => keepsM_pure))))

theorem invO_execMswap {h : Hd} {_o : OpE} {s : State} : InvO s (execMswap h _o s) :=
  invO_issue (keepsM_bind keepsM_claimM fun _ => keepsM_ite keepsM_pure (keepsM_bind keepsM_enterM fun _ => keepsM_ite keepsM_pure keepsM_pure))

theorem invO_execMzero {h : Hd} {o : OpE} {s : State} : InvO s (execMzero h o s) :=
  invO_issue (keepsM_bind keepsM_claimM fun _ => keepsM_ite keepsM_pure (keepsM_bind keepsM_enterM fun _ => keepsM_ite keepsM_pure keepsM_pure))

theorem invO_execMdrain {h : Hd} {o : OpE} {s : State} : InvO s (execMdrain h o s) := by
  refine invO_issue (keepsM_bind keepsM_claimM fun _ => keepsM_ite keepsM_pure (keepsM_bind keepsM_me fun _ => keepsM_bind keepsM_myPart fun _ =>
      keepsM_when keepsM_illegalValue fun _ => keepsM_when keepsM_trapM fun _ => keepsM_bind keepsM_checkM fun _ => keepsM_get fun h1 => ?_))
  extract_lets
  split
  · refine keepsM_bind keepsM_stop fun _ => keepsM_ite (keepsM_bind keepsM_enterM fun _ => keepsM_ite keepsM_pure (keepsM_get fun h2 =>
      keepsM_ite keepsM_pure ?_)) (keepsM_get fun h2 => keepsM_ite keepsM_pure ?_)
    all_goals
      split
      · exact keepsM_bind (keepsM_modify fun h3 => (memFrame_markTaken ..).keeps (keeps_modMcore (keeps_popHead h3))) fun _ => keepsM_pure
      · exact keepsM_bind (keepsM_modify fun h3 => keeps_foldl (fun h3 => keeps_engineWrite h3) h3) fun _ => keepsM_bind (keepsM_modify fun h3 =>
          keeps_modMcore h3) fun _ => keepsM_bind keepsM_setMine fun _ => keepsM_bind keepsM_putM fun _ => keepsM_bind keepsM_acquireM fun _ =>
          keepsM_bind (keepsM_modify fun h3 => keeps_settleMu (keeps_pulse (keeps_popHead h3))) fun _ => keepsM_pure
  · refine keepsM_ite (keepsM_bind keepsM_enterM fun _ => keepsM_ite keepsM_pure (keepsM_get fun h2 => keepsM_ite keepsM_pure ?_))
      (keepsM_get fun h2 => keepsM_ite keepsM_pure ?_)
    all_goals
      split
      · exact keepsM_bind (keepsM_modify fun h3 => (memFrame_markTaken ..).keeps (keeps_modMcore (keeps_popHead h3))) fun _ => keepsM_pure
      · exact keepsM_bind (keepsM_modify fun h3 => keeps_foldl (fun h3 => keeps_engineWrite h3) h3) fun _ => keepsM_bind (keepsM_modify fun h3 =>
          keeps_modMcore h3) fun _ => keepsM_bind keepsM_setMine fun _ => keepsM_bind keepsM_putM fun _ => keepsM_bind keepsM_acquireM fun _ =>
          keepsM_bind (keepsM_modify fun h3 => keeps_settleMu (keeps_pulse (keeps_popHead h3))) fun _ => keepsM_pure

theorem keepsM_metaM {o : OpE} {pair : MPair} : KeepsM orig (metaM o pair) := by
  refine keepsM_bind keepsM_me fun _ => keepsM_bind keepsM_myPart fun _ => ?_
  extract_lets
  split
  · split
    · exact keepsM_stop
    · exact keepsM_pure
  · extract_lets
    split
    extract_lets
    split
    split
    · exact keepsM_stop
    · exact keepsM_bind keepsM_setMine fun _ => keepsM_pure
    · extract_lets
      split
      · exact keepsM_stop
      · exact keepsM_bind keepsM_setMine fun _ => keepsM_bind (keepsM_modify fun h1 => keeps_foldl (fun ht => keeps_pulse ht) h1) fun _ => keepsM_pure

theorem keepsM_mmulBody {sparse : Bool} {pair : MPair} {o : OpE} : KeepsM orig (mmulBody sparse pair o) := by
  refine keepsM_bind keepsM_claimM fun _ => keepsM_ite keepsM_pure (keepsM_bind keepsM_myPart fun _ => keepsM_when keepsM_illegalValue fun _ =>
      keepsM_when keepsM_trapM fun _ => keepsM_bind keepsM_formM fun _ => keepsM_bind keepsM_me fun _ => keepsM_get fun h1 => keepsM_ite keepsM_pure
      (keepsM_ite (keepsM_bind keepsM_metaM fun _ => ?_) (keepsM_bind keepsM_pure fun _ => ?_)))
  all_goals
    dsimp only
    split
    · exact keepsM_pure
    · exact keepsM_bind keepsM_pushRelease fun _ => keepsM_ite keepsM_pure (keepsM_bind keepsM_myPart fun _ => keepsM_bind keepsM_enterM fun _ =>
        keepsM_ite keepsM_pure keepsM_pure)

theorem invO_execMmul {h : Hd} {pair : MPair} {o : OpE} {s : State} : InvO s (execMmul h pair o s) :=
  invO_issue keepsM_mmulBody

theorem invO_execMmuls {h : Hd} {pair : MPair} {o : OpE} {s : State} : InvO s (execMmuls h pair o s) :=
  invO_issue keepsM_mmulBody

theorem invO_execMpri {h : Hd} {o : OpC} {s : State} : InvO s (execMpri h o s) :=
  invO_issue (keepsM_bind keepsM_claimM fun _ => keepsM_ite keepsM_pure (keepsM_bind keepsM_me fun _ => keepsM_bind keepsM_myPart fun _ =>
      keepsM_when keepsM_illegalValue fun _ => keepsM_bind (keepsM_modify fun h1 => keeps_modMcore h1) fun _ => keepsM_pure))

theorem invO_execMfence {h : Hd} {_o : OpC} {s : State} : InvO s (execMfence h _o s) := by
  refine invO_issue (keepsM_bind keepsM_claimM fun _ => keepsM_ite keepsM_pure (keepsM_bind keepsM_me fun _ => keepsM_bind keepsM_myPart fun _ =>
      keepsM_get fun h1 => keepsM_ite keepsM_pure ?_))
  split
  · exact keepsM_bind (keepsM_modify fun h2 => (memFrame_markTaken ..).keeps (keeps_modMcore h2)) fun _ => keepsM_pure
  · exact keepsM_pure

theorem invO_execMstat {h : Hd} {o : OpC} {s : State} : InvO s (execMstat h o s) :=
  invO_issue (keepsM_bind keepsM_claimM fun _ => keepsM_ite keepsM_pure (keepsM_bind keepsM_me fun _ => keepsM_get fun _ =>
      keepsM_bind keepsM_putM fun _ => keepsM_pure))

theorem keeps_setWq {s : State} {dev id : Nat} {q : Wq} (h : Keeps orig s) : Keeps orig (setWq s dev id q) :=
  h

theorem keepsM_wqM {id : Nat} : KeepsM orig (wqM id) := by
  refine keepsM_bind keepsM_me fun _ => keepsM_bind keepsM_myPart fun _ => keepsM_get fun h1 => ?_
  split
  · exact keepsM_ite keepsM_pure keepsM_stop
  · exact keepsM_stop

theorem keeps_wqWake {s : State} {q : Wq} {flat how : Nat} {v : W64} (h : Keeps orig s) : Keeps orig (wqWake s q flat how v) :=
  keeps_modPartOf h

theorem keeps_wqAppend {s : State} {dev id : Nat} {q : Wq} {flat : Nat} {item : W64} (h : Keeps orig s) : Keeps orig
    (wqAppend s dev id q flat item) := by
  unfold wqAppend
  extract_lets
  split
  · exact (memFrame_acquireAt ..).keeps (keeps_wqWake (keeps_setWq ((memFrame_homeWrite ..).keeps ((memFrame_toHome ..).keeps (keeps_abortForStore
      (keeps_hot h))))))
  · exact keeps_setWq ((memFrame_homeWrite ..).keeps ((memFrame_toHome ..).keeps (keeps_abortForStore (keeps_hot h))))

theorem keeps_wqTaken {s : State} {dev id : Nat} {q : Wq} (h : Keeps orig s) : Keeps orig (wqTaken s dev id q) := by
  unfold wqTaken
  split
  · exact keeps_wqWake (keeps_wqAppend h)
  · exact keeps_setWq h

theorem invO_execPop {h : Hd} {o : OpC} {s : State} : InvO s (execPop h o s) := by
  refine invO_issue (keepsM_bind keepsM_noTask fun _ => keepsM_bind keepsM_me fun _ => keepsM_bind keepsM_myPart fun _ =>
      keepsM_when keepsM_illegalValue fun _ => ?_)
  beta_reduce
  extract_lets
  split
  · refine keepsM_bind (keepsM_modify fun h1 => keeps_logOrTake h1) fun _ => keepsM_bind keepsM_setMine fun _ => keepsM_bind keepsM_putM fun _ =>
      keepsM_bind keepsM_putM fun _ => ?_
    extract_lets
    split
    · exact keepsM_bind keepsM_acquireM fun _ => keepsM_pure
    · exact keepsM_pure
  · refine keepsM_bind (keepsM_modify fun h1 => keeps_logOrTake h1) fun _ => keepsM_bind keepsM_setMine fun _ => keepsM_bind keepsM_putM fun _ =>
      keepsM_bind keepsM_putM fun _ => ?_
    extract_lets
    split
    · exact keepsM_bind keepsM_acquireM fun _ => keepsM_pure
    · exact keepsM_pure
  · refine keepsM_bind keepsM_wqM fun _ => keepsM_get fun h1 => ?_
    split
    · refine keepsM_ite (keepsM_bind (keepsM_modify fun h2 => keeps_logOrTake h2) fun _ => keepsM_bind keepsM_setMine fun _ =>
        keepsM_bind keepsM_putM fun _ => keepsM_bind keepsM_putM fun _ => ?_) (keepsM_ite (keepsM_ite (keepsM_bind (keepsM_modify fun h2 =>
        keeps_logOrTake h2) fun _ => keepsM_bind keepsM_setMine fun _ => keepsM_bind keepsM_putM fun _ => keepsM_bind keepsM_putM fun _ =>
        ?_) keepsM_pure) ?_)
      · extract_lets
        split
        · exact keepsM_bind keepsM_acquireM fun _ => keepsM_pure
        · exact keepsM_pure
      · extract_lets
        split
        · exact keepsM_bind keepsM_acquireM fun _ => keepsM_pure
        · exact keepsM_pure
      · split
        · refine keepsM_bind (keepsM_modify fun h2 => keeps_wqTaken h2) fun _ => keepsM_bind (keepsM_modify fun h2 => keeps_logOrTake h2) fun _ =>
            keepsM_bind keepsM_setMine fun _ => keepsM_bind keepsM_putM fun _ => keepsM_bind keepsM_putM fun _ => ?_
          extract_lets
          split
          · exact keepsM_bind keepsM_acquireM fun _ => keepsM_pure
          · exact keepsM_pure
        · exact keepsM_pure
    · split
      · refine keepsM_bind (keepsM_modify fun h2 => keeps_logOrTake h2) fun _ => keepsM_bind keepsM_setMine fun _ => keepsM_bind keepsM_putM fun _ =>
          keepsM_bind keepsM_putM fun _ => ?_
        extract_lets
        split
        · exact keepsM_bind keepsM_acquireM fun _ => keepsM_pure
        · exact keepsM_pure
      · refine keepsM_bind (keepsM_modify fun h2 => keeps_wqTaken h2) fun _ => keepsM_bind (keepsM_modify fun h2 => keeps_logOrTake h2) fun _ =>
          keepsM_bind keepsM_setMine fun _ => keepsM_bind keepsM_putM fun _ => keepsM_bind keepsM_putM fun _ => ?_
        extract_lets
        split
        · exact keepsM_bind keepsM_acquireM fun _ => keepsM_pure
        · exact keepsM_pure
      · refine keepsM_ite (keepsM_bind (keepsM_modify fun h2 => keeps_logOrTake h2) fun _ => keepsM_bind keepsM_setMine fun _ =>
          keepsM_bind keepsM_putM fun _ => keepsM_bind keepsM_putM fun _ => ?_) (keepsM_bind (keepsM_modify fun h2 => keeps_setWq h2) fun _ =>
          keepsM_bind keepsM_setMine fun _ => keepsM_pure)
        extract_lets
        split
        · exact keepsM_bind keepsM_acquireM fun _ => keepsM_pure
        · exact keepsM_pure

theorem invO_execPushw {h : Hd} {o : OpC} {s : State} : InvO s (execPushw h o s) := by
  refine invO_issue (keepsM_bind keepsM_noTask fun _ => keepsM_bind keepsM_me fun _ => keepsM_bind keepsM_myPart fun _ =>
      keepsM_when keepsM_illegalValue fun _ => ?_)
  beta_reduce
  extract_lets
  split
  · exact keepsM_stop
  · exact keepsM_bind keepsM_setMine fun _ => keepsM_bind keepsM_putM fun _ => keepsM_pure
  · exact keepsM_bind keepsM_wqM fun _ => keepsM_when keepsM_stop fun _ => keepsM_bind keepsM_releaseM fun _ => keepsM_ite keepsM_pure (keepsM_ite
      (keepsM_bind (keepsM_modify fun h1 => keeps_wqAppend h1) fun _ => keepsM_bind keepsM_putM fun _ => keepsM_pure) (keepsM_ite
      (keepsM_bind keepsM_putM fun _ => keepsM_pure) (keepsM_bind (keepsM_modify fun h1 => keeps_setWq h1) fun _ =>
      keepsM_bind keepsM_setMine fun _ => keepsM_pure)))

theorem invO_execQclose {h : Hd} {o : OpC} {s : State} : InvO s (execQclose h o s) :=
  invO_issue (keepsM_bind keepsM_noTask fun _ => keepsM_bind keepsM_me fun _ => keepsM_bind keepsM_myPart fun _ => keepsM_bind keepsM_wqM fun _ =>
      keepsM_bind keepsM_releaseM fun _ => keepsM_ite keepsM_pure (keepsM_ite (keepsM_get fun h1 => keepsM_bind (keepsM_set (keeps_ite (keeps_foldl
      (fun ht => keeps_wqWake ht) (keeps_foldl (fun ht => keeps_wqWake ht) (keeps_setWq h1))) (keeps_foldl (fun ht => keeps_wqWake ht)
      (keeps_setWq h1)))) fun _ => keepsM_bind keepsM_putM fun _ => keepsM_pure) (keepsM_bind keepsM_putM fun _ => keepsM_pure)))

theorem keeps_wqWithdraw {s : State} {flat c : Nat} (h : Keeps orig s) : Keeps orig (wqWithdraw s flat c) :=
  h
end

end Sys2Proof.Machine
end

section
/-! PROOFS. What the ends of units, halts, launches and host queues keep (R110, R146, R269 to R305, R494 to R516). -/

namespace Sys2Proof.Machine
open Sys2Proof

section
variable {orig : State}

theorem keeps_modLaunch {s : State} {id : Nat} {f : Launch → Launch} (h : Keeps orig s) : Keeps orig (modLaunch s id f) :=
  h

theorem keeps_modQueue {s : State} {dev q : Nat} {f : HostQ → HostQ} (h : Keeps orig s) : Keeps orig (modQueue s dev q f) := by
  unfold modQueue
  split
  · extract_lets
    split
    · exact keeps_writeBytes h
    · exact h
  · exact h

theorem keeps_packetStatus {s : State} {queue : Option (Nat × Nat × Nat)} {status : Nat} (h : Keeps orig s) : Keeps orig
    (packetStatus s queue status) := by
  unfold packetStatus
  split
  · exact keeps_modQueue h
  · exact h

theorem keeps_launchComplete {s : State} {l : Launch} (h : Keeps orig s) : Keeps orig (launchComplete s l) :=
  keeps_packetStatus h

theorem keeps_exitCount {s : State} {flat : Nat} {id : Nat} (h : Keeps orig s) : Keeps orig (exitCount s flat id) := by
  unfold exitCount
  split
  · exact h
  · exact keeps_ite (keeps_ite (keeps_launchComplete (keeps_modLaunch h)) (keeps_modLaunch h)) h

theorem keeps_withdrawMatrix {s : State} {k : Nat} {cancel : Bool} (h : Keeps orig s) : Keeps orig (withdrawMatrix s k cancel) :=
  keeps_ite (keeps_settleMu (keeps_modMcore h)) h

theorem keeps_withdrawWait {s : State} {k : Nat} (h : Keeps orig s) : Keeps orig (withdrawWait s k) := by
  unfold withdrawWait
  extract_lets wake
  have hw : ∀ {t}, Keeps orig t → Keeps orig (wake t) := fun ht => ht
  clear_value wake
  split
  · refine hw ?_
    split
    · exact keeps_evPut h
    · exact h
  · exact hw (keeps_wqWithdraw h)
  · exact hw (keeps_wqWithdraw h)
  · exact hw h
  · exact hw h
  · exact hw h
  · exact hw h
  · exact h

theorem keeps_partGone {s : State} {flat c : Nat} (h : Keeps orig s) : Keeps orig (partGone s flat c) := by
  unfold partGone
  extract_lets s0 s1 s2 s3
  have h0 : Keeps orig s0 := keeps_foldl (fun ht => keeps_foldl (fun h2 => keeps_evPut h2) ht) (keeps_wqWithdraw h)
  clear_value s0
  have h1 : Keeps orig s1 := h0.same rfl rfl
  clear_value s1
  have h2 : Keeps orig s2 := keeps_tablaPartGone (keeps_hbPartEnds h1)
  clear_value s2
  exact keeps_freeColls (h2.same rfl rfl)

theorem keeps_endUnit {s : State} {k : Nat} (h : Keeps orig s) : Keeps orig (endUnit s k) := by
  unfold endUnit
  extract_lets flat p s1 s2 s3
  have h1 : Keeps orig s1 := keeps_stashFlushAll (keeps_streamsAcquired (keeps_leaveGroup h))
  clear_value s1
  have h2 : Keeps orig s2 := by
    unfold s2
    split
    · exact (memFrame_releaseAt ..).keeps h1
    · exact h1
  clear_value s2
  have h3 : Keeps orig s3 := keeps_modPart (keeps_partGone (keeps_endClaim h2))
  clear_value s3
  split
  · exact keeps_exitCount h3
  · exact h3

theorem keeps_reclaim {s : State} {k : Nat} (h : Keeps orig s) : Keeps orig (reclaim s k) :=
  keeps_ite (keeps_withdrawMatrix (keeps_claimCore h)) h

theorem keeps_reap {s : State} {k : Nat} (h : Keeps orig s) : Keeps orig (reap s k) :=
  keeps_ite (keeps_ite (keeps_endUnit (keeps_reclaim h)) (keeps_reclaim h)) h

theorem keeps_exitUnit {s : State} {k : Nat} (h : Keeps orig s) : Keeps orig (exitUnit s k) := by
  unfold exitUnit
  extract_lets s1 s2
  have h1 : Keeps orig s1 := keeps_withdrawXfers (keeps_withdrawHeld (keeps_withdrawMatrix (keeps_abortRunning h)))
  clear_value s1
  have h2 : Keeps orig s2 := keeps_withdrawColls h1
  clear_value s2
  exact keeps_reap (keeps_modPart (keeps_leaveGroup h2))

theorem keeps_stopUnit {s : State} {k : Nat} (h : Keeps orig s) : Keeps orig (stopUnit s k) := by
  unfold stopUnit
  extract_lets flat c s0 s1 s2
  have h0 : Keeps orig s0 := keeps_discardTasks (keeps_withdrawWait (keeps_releaseFollowers (keeps_leaveGroup h)))
  clear_value s0
  have h1 : Keeps orig s1 := keeps_withdrawXfers (keeps_withdrawHeld (keeps_withdrawMatrix (keeps_modPart h0)))
  clear_value s1
  have h2 : Keeps orig s2 := keeps_modPart (keeps_withdrawColls h1)
  clear_value s2
  exact keeps_reap (h2.same rfl rfl)

theorem keepsM_exitBody : KeepsM orig exitBody :=
  keepsM_bind keepsM_me fun _ => keepsM_when keepsM_illegalValue fun _ =>
    keepsM_bind (keepsM_modify fun ht => keeps_exitUnit ht) fun _ => keepsM_pure

theorem invO_execExit {h : Hd} {s : State} : InvO s (execExit h s) :=
  invO_issue keepsM_exitBody

theorem invO_execExitPred {h : Hd} {q : Pred} {s : State} : InvO s (execExitPred h q s) :=
  invO_issue keepsM_exitBody

theorem keeps_unselect {s : State} {k : Nat} (h : Keeps orig s) : Keeps orig (unselect s k) :=
  keeps_ite h h

theorem keeps_haltPart {s : State} {k : Nat} (h : Keeps orig s) : Keeps orig (haltPart s k) :=
  keeps_unselect (keeps_modPart (keeps_ite (keeps_releaseFollowers h) h))

theorem keeps_releasePart {s : State} {k : Nat} (h : Keeps orig s) : Keeps orig (releasePart s k) :=
  keeps_ite h (keeps_ite (keeps_returnTokens h) (keeps_sendRequests h))

theorem keeps_haltCluster {s : State} {cl : Nat} (h : Keeps orig s) : Keeps orig (haltCluster s cl) := by
  unfold haltCluster
  extract_lets s1 s2
  have h1 : Keeps orig s1 := keeps_modCluster h
  clear_value s1
  have h2 : Keeps orig s2 := keeps_foldl (fun ht => keeps_haltPart ht) h1
  clear_value s2
  exact keeps_foldl (fun ht => keeps_unselect ht) h2

theorem keeps_breakAct {s : State} {k : Nat} {val : W64} (h : Keeps orig s) : Keeps orig (breakAct s k val) :=
  keeps_ite (keeps_takeTrap h) (keeps_haltCluster h)

theorem invO_execCrossTriggerHalt {cl : Nat} {package : Bool} {s : State} : InvO s (execCrossTriggerHalt cl package s) := by
  have h := Keeps.refl s
  exact invO_next (keeps_ite (keeps_foldl (fun ht => keeps_haltCluster ht) h) (keeps_haltCluster h))

theorem keeps_debugPass {s : State} {k : Nat} (h : Keeps orig s) : Keeps orig (debugPass s k) :=
  keeps_ite h h

theorem invO_execDebugRelease {cl : Nat} {s : State} : InvO s (execDebugRelease cl s) := by
  have h := Keeps.refl s
  exact invO_next (keeps_ite (keeps_foldl (fun ht => keeps_releasePart (keeps_debugPass ht)) h) h)

theorem invO_execIssueLogFreed {cl n : Nat} {s : State} : InvO s (execIssueLogFreed cl n s) := by
  have h := Keeps.refl s
  exact invO_next h

theorem invO_execReplayModeSet {cl : Nat} {mode : ReplayMode} {log : List LogEntry} {s : State} : InvO s (execReplayModeSet cl mode log s) := by
  have h := Keeps.refl s
  exact invO_next (keeps_modCluster (keeps_foldl (fun ht => keeps_closeRun ht) h))

theorem keepsM_debugD  : KeepsM orig debugD :=
  keepsM_bind keepsM_me fun _ => keepsM_ite keepsM_illegalValue keepsM_pure

theorem keepsM_inSpecTask : KeepsM orig inSpecTask := by
  intro u hu a t e
  cases e
  exact hu

theorem keepsM_perfIndex {p : Part} {x : Src} : KeepsM orig (perfIndex p x) := by
  unfold perfIndex
  split
  · exact keepsM_pure
  · exact keepsM_illegalValue

theorem invO_execBkpt {h : Hd} {o : OpC} {s : State} : InvO s (execBkpt h o s) :=
  invO_issue (keepsM_bind keepsM_debugD fun _ => keepsM_bind keepsM_me fun _ => keepsM_bind keepsM_myPart fun _ => keepsM_ite keepsM_pure
      (keepsM_ite keepsM_trapM (keepsM_bind (keepsM_modify fun h1 => keeps_haltCluster h1) fun _ => keepsM_pure)))

theorem invO_execTrace {h : Hd} {o : OpC} {s : State} : InvO s (execTrace h o s) :=
  invO_issue (keepsM_bind keepsM_debugD fun _ => keepsM_bind keepsM_inSpecTask fun _ => keepsM_ite keepsM_pure (keepsM_bind keepsM_me fun _ =>
      keepsM_bind keepsM_myPart fun _ => keepsM_ite keepsM_pure (keepsM_bind keepsM_checkM fun _ => keepsM_get fun _ =>
      keepsM_bind keepsM_writeM fun _ => keepsM_ite keepsM_pure (keepsM_bind keepsM_setMine fun _ => keepsM_pure))))

theorem invO_execPerfRd {h : Hd} {o : OpC} {s : State} : InvO s (execPerfRd h o s) :=
  invO_issue (keepsM_bind keepsM_debugD fun _ => keepsM_bind keepsM_myPart fun _ => keepsM_bind keepsM_perfIndex fun _ =>
      keepsM_bind keepsM_putM fun _ => keepsM_pure)

theorem invO_execPerfCfg {h : Hd} {o : OpC} {s : State} : InvO s (execPerfCfg h o s) :=
  invO_issue (keepsM_bind keepsM_debugD fun _ => keepsM_bind keepsM_myPart fun _ => keepsM_bind keepsM_perfIndex fun _ =>
      keepsM_when keepsM_illegalValue fun _ => keepsM_bind keepsM_setMine fun _ => keepsM_bind keepsM_putM fun _ => keepsM_pure)

theorem invO_execPerfClr {h : Hd} {o : OpC} {s : State} : InvO s (execPerfClr h o s) :=
  invO_issue (keepsM_bind keepsM_debugD fun _ => keepsM_bind keepsM_setMine fun _ => keepsM_bind keepsM_putM fun _ => keepsM_pure)

theorem invO_execRmark {h : Hd} {o : OpC} {s : State} : InvO s (execRmark h o s) := by
  refine invO_issue (keepsM_bind keepsM_inSpecTask fun _ => keepsM_ite keepsM_pure (keepsM_bind keepsM_me fun _ => keepsM_bind keepsM_myPart fun _ =>
      keepsM_get fun h1 => ?_))
  extract_lets
  split
  · exact keepsM_bind (keepsM_modify fun h2 => keeps_logPut h2) fun _ => keepsM_pure
  · exact keepsM_bind (keepsM_modify fun h2 => keeps_replayTake h2) fun _ => keepsM_when (keepsM_modify fun h2 => keeps_haltCluster h2) fun _ =>
      keepsM_pure

theorem keeps_wakeUnit {s : State} {l : Launch} {unit flat : Nat} (h : Keeps orig s) : Keeps orig (wakeUnit s l unit flat) := by
  unfold wakeUnit
  extract_lets mine ahead leaving
  split
  · exact keeps_ite h (h.same rfl rfl)
  · refine keeps_taborRefill (keeps_drainInbox ((memFrame_acquireAt ..).keeps (keeps_tablaLive (keeps_modLaunch (keeps_setPart ?_)))))
    exact h.same rfl rfl

theorem keeps_launchAccept {s : State} {w : Who} {parent : Option Nat} {queue : Option (Nat × Nat × Nat)} {blk : W64} {bs : List Byte}
    (h : Keeps orig s) : Keeps orig (launchAccept s w parent queue blk bs).1 := by
  unfold launchAccept
  extract_lets
  split
  · refine Keeps.same (keeps_ite ?_ (keeps_engineWrite ?_)) rfl rfl
    all_goals
      split
      · exact h
      · exact keeps_engineRead h
  · exact (memFrame_writeRecord ..).keeps h

theorem invO_execUnitStart {launch unit : Nat} {s : State} : InvO s (execUnitStart launch unit s) := by
  have h := Keeps.refl s
  refine invO_next ?_
  split
  · split
    · exact keeps_ite (keeps_wakeUnit h) h
    · exact h
  · exact h

theorem keeps_counterWord {s : State} {flat : Nat} {a : W64} (h : Keeps orig s) : Keeps orig (counterWord s flat a).1 :=
  (memFrame_toHome ..).keeps (keeps_abortForStore (keeps_hot h))

theorem keeps_counterStep {s : State} {c flat : Nat} {blk : W64} {next : List W64} {n : Nat} {a : W64} (h : Keeps orig s) : Keeps orig
    (counterStep s c flat blk next n a).1 := by
  unfold counterStep
  split
  extract_lets
  split
  · split
    · exact Keeps.same ((memFrame_releaseAt ..).keeps ((memFrame_homeWrite ..).keeps (keeps_fst ‹_› (keeps_counterWord h)))) rfl rfl
    · exact (memFrame_homeWrite ..).keeps (keeps_fst ‹_› (keeps_counterWord h))
  · exact (memFrame_homeWrite ..).keeps (keeps_fst ‹_› (keeps_counterWord h))

theorem keeps_counterLost {s : State} {c flat : Nat} {blk a : W64} (h : Keeps orig s) : Keeps orig (counterLost s c flat blk a) :=
  (memFrame_writeRecord ..).keeps h

theorem invO_execCounterAdd {s : State} : InvO s (execCounterAdd s) := by
  have h := Keeps.refl s
  refine invO_next ?_
  split
  · exact h
  · extract_lets s0
    have h0 : Keeps s s0 := h.same rfl rfl
    clear_value s0
    split
    · exact h0
    · refine keeps_ite (keeps_counterLost h0) ?_
      split
      rename_i s1 w e
      have h1 : Keeps s s1 := keeps_fst e (keeps_counterStep h0)
      split
      · exact keeps_ite (keeps_launchComplete h1) (keeps_modLaunch h1)
      · exact h1

theorem keeps_counterCancel {s : State} {c flat : Nat} {blk a : W64} (h : Keeps orig s) : Keeps orig (counterCancel s c flat blk a) :=
  keeps_ite (keeps_counterLost h) (keeps_ite (keeps_counterWord h) ((memFrame_homeWrite ..).keeps (keeps_counterWord h)))

theorem keeps_dropAway {s : State} {id : Nat} (h : Keeps orig s) : Keeps orig (dropAway s id) :=
  keeps_foldl (fun ht => keeps_ite ht (keeps_partGone (keeps_withdrawColls (keeps_discardTasks ht)))) h

theorem keeps_cancelOne {s : State} {id : Nat} (h : Keeps orig s) : Keeps orig (cancelOne s id) := by
  unfold cancelOne
  split
  · exact h
  · exact keeps_packetStatus (keeps_foldl (fun ht => keeps_stopUnit ht) (keeps_dropAway (Keeps.same (keeps_ite h (keeps_counterCancel h)) rfl rfl)))

theorem keeps_cancelLaunches {s : State} {ids : List Nat} (h : Keeps orig s) : Keeps orig (cancelLaunches s ids) :=
  keeps_foldl (fun ht => keeps_cancelOne ht) h

theorem keeps_cancelWord {s : State} {flat : Nat} {a : W64} (h : Keeps orig s) : Keeps orig (cancelWord s flat a).1 :=
  keeps_cancelLaunches (keeps_ite (keeps_counterWord h) ((memFrame_homeWrite ..).keeps (keeps_counterWord h)))

theorem invO_execUnitWithdrawn {launch flat : Nat} {s : State} : InvO s (execUnitWithdrawn launch flat s) := by
  have h := Keeps.refl s
  refine invO_next ?_
  split
  · exact keeps_ite (keeps_packetStatus ((memFrame_writeRecord ..).keeps (keeps_cancelLaunches h))) h
  · exact h

theorem invO_execGrantChange {dev : Nat} {s : State} : InvO s (execGrantChange dev s) := by
  have h := Keeps.refl s
  exact invO_next (keeps_ite h (keeps_foldl (fun ht => keeps_ite (keeps_foldl (fun h2 => keeps_getD (keepsO_evsig h2) h2) (keeps_ite
      (keeps_engineWrite ht) ht)) (keeps_ite (keeps_engineWrite ht) ht)) h))

theorem invO_execLaunch {h : Hd} {o : OpE} {s : State} : InvO s (execLaunch h o s) := by
  refine invO_issue (keepsM_bind keepsM_notInD fun _ => keepsM_bind keepsM_noTask fun _ => keepsM_bind keepsM_me fun _ =>
      keepsM_bind keepsM_myPart fun _ => keepsM_when keepsM_trapM fun _ => keepsM_bind keepsM_checkM fun _ => keepsM_get fun h1 => ?_)
  split
  · exact keepsM_stop
  · refine keepsM_ite keepsM_pure ?_
    split
    extract_lets
    split <;> exact keepsM_bind (keepsM_set (keeps_fst ‹_› (keeps_launchAccept ((memFrame_releaseAt ..).keeps (keeps_fst ‹_›
        (keeps_engineRead h1)))))) fun _ => keepsM_bind keepsM_putM fun _ => keepsM_pure

theorem keepsM_counterM {a : W64} : KeepsM orig (counterM a) :=
  keepsM_bind keepsM_me fun _ => keepsM_bind keepsM_checkM fun _ => keepsM_get fun _ => keepsM_when keepsM_stop fun _ =>
      keepsM_when keepsM_stop fun _ => keepsM_ite keepsM_trapM keepsM_pure

theorem invO_execCntadd {h : Hd} {o : OpE} {s : State} : InvO s (execCntadd h o s) := by
  refine invO_issue (keepsM_bind keepsM_notInD fun _ => keepsM_bind keepsM_noTask fun _ => keepsM_bind keepsM_me fun _ =>
      keepsM_bind keepsM_myPart fun _ => keepsM_when keepsM_trapM fun _ => keepsM_when keepsM_trapM fun _ => keepsM_when keepsM_illegalValue fun _ =>
      keepsM_bind keepsM_counterM fun _ => keepsM_bind keepsM_releaseM fun _ => keepsM_ite keepsM_pure (keepsM_get fun h1 => ?_))
  split <;> exact keepsM_bind (keepsM_set (keeps_fst ‹_› (keeps_counterStep h1))) fun _ => keepsM_bind keepsM_putM fun _ => keepsM_pure

theorem invO_execCancel {h : Hd} {o : OpE} {s : State} : InvO s (execCancel h o s) := by
  refine invO_issue (keepsM_bind keepsM_notInD fun _ => keepsM_bind keepsM_noTask fun _ => keepsM_bind keepsM_me fun _ =>
      keepsM_bind keepsM_myPart fun _ => keepsM_get fun h1 => ?_)
  split
  · exact keepsM_ite keepsM_pure (keepsM_bind keepsM_setMine fun _ => keepsM_bind keepsM_putM fun _ => keepsM_pure)
  · refine keepsM_when keepsM_trapM fun _ => keepsM_bind keepsM_counterM fun _ => keepsM_bind keepsM_releaseM fun _ => keepsM_ite keepsM_pure
      (keepsM_get fun h2 => ?_)
    split <;> exact keepsM_bind (keepsM_set (keeps_fst ‹_› (keeps_cancelWord h2))) fun _ => keepsM_bind keepsM_myPart fun _ => keepsM_ite keepsM_pure
        (keepsM_ite (keepsM_bind keepsM_putM fun _ => keepsM_pure) (keepsM_bind keepsM_setMine fun _ => keepsM_pure))

theorem invO_execClkreq {h : Hd} {o : OpE} {s : State} : InvO s (execClkreq h o s) := by
  refine invO_issue (keepsM_bind keepsM_notInD fun _ => keepsM_bind keepsM_noTask fun _ => keepsM_bind keepsM_me fun _ =>
      keepsM_bind keepsM_myPart fun _ => keepsM_when keepsM_illegalValue fun _ => ?_)
  beta_reduce
  extract_lets
  split
  · exact keepsM_bind (keepsM_modify fun h1 => keeps_modLaunch h1) fun _ => keepsM_get fun _ => keepsM_bind keepsM_putM fun _ => keepsM_pure
  · exact keepsM_get fun _ => keepsM_bind keepsM_putM fun _ => keepsM_pure

theorem keeps_seedSend {s : State} {w : Who} {sender : Sender} {a : W64} {n : Nat} (h : Keeps orig s) : Keeps orig (seedSend s w sender a n).1 := by
  induction n generalizing s a with
  | zero => exact h
  | succ n ih =>
    unfold seedSend
    split
    · exact h
    · split
      rename_i s1 bs e
      have h1 : Keeps orig s1 := keeps_fst e (keeps_engineRead h)
      extract_lets key
      split
      · exact h1
      · exact ih (keeps_sendMsg h1)

theorem keeps_pktCopy {s : State} {w : Who} {p : Pkt} {ack n : Nat} (h : Keeps orig s) : Keeps orig (pktCopy s w p ack n).1 := by
  induction n generalizing s ack with
  | zero => exact h
  | succ n ih =>
    unfold pktCopy
    split
    · exact h
    · extract_lets a b g n
      split
      · exact h
      · split
        rename_i s1 bs e
        exact ih (keeps_engineWrite (keeps_fst e (keeps_engineRead h)))

theorem keeps_fst_ite {s : State} {β : Type} {c : Prop} [Decidable c] {x y : State × β} (hx : Keeps s x.1) (hy : Keeps s y.1) :
    Keeps s (if c then x else y).1 := by
  split
  · exact hx
  · exact hy

theorem keeps_pktAct {s : State} {w : Who} {p : Pkt} (h : Keeps orig s) : Keeps orig (pktAct s w p).1 := by
  unfold pktAct
  split
  · exact h
  · split
    · exact h
    · split
      · extract_lets a v add s1
        have h1 : Keeps orig s1 := (memFrame_releaseAt ..).keeps h
        clear_value s1
        exact keeps_fst_ite h (keeps_fst_ite (keeps_atomicAt h1) (keeps_engineWrite h1))
      · exact keeps_pktCopy (h.same rfl rfl)
      · exact (memFrame_releaseAt ..).keeps h
      · exact h

theorem keeps_queueError {s : State} {dev q : Nat} {hb : HostQ} {idx op reason : Nat} (h : Keeps orig s) : Keeps orig
    (queueError s dev q hb idx op reason) :=
  keeps_ite ((memFrame_writeRecord ..).keeps h) (keeps_engineWrite ((memFrame_releaseAt ..).keeps ((memFrame_writeRecord ..).keeps h)))

theorem invO_execTailWrite {dev conn offset size : Nat} {value : W64} {s : State} : InvO s (execTailWrite dev conn offset size value s) := by
  have h := Keeps.refl s
  refine invO_next (keeps_ite h ?_)
  split
  · exact h
  · refine keeps_ite h (keeps_ite ?_ (keeps_modQueue ((memFrame_releaseAt ..).keeps h)))
    split
    · exact h
    · exact keeps_queueError h
    · exact keeps_queueError (keeps_modQueue h)

theorem invO_execQueueStop {dev q : Nat} {s : State} : InvO s (execQueueStop dev q s) := by
  have h := Keeps.refl s
  exact invO_next (keeps_ite (keeps_modQueue h) h)

theorem invO_execQueueResume {dev q : Nat} {rdidx : W32} {s : State} : InvO s (execQueueResume dev q rdidx s) := by
  have h := Keeps.refl s
  refine invO_next ?_
  split
  · exact keeps_ite h (keeps_modQueue h)
  · exact h

theorem keeps_startPkt {s : State} {dev q : Nat} {hb : HostQ} {p : Pkt} (h : Keeps orig s) : Keeps orig (startPkt s dev q hb p) := by
  refine keeps_ite (keeps_modQueue (keeps_ite ((memFrame_acquireAt ..).keeps h) h)) ?_
  split
  · exact keeps_ite (keeps_modQueue (keeps_ite ((memFrame_acquireAt ..).keeps h) h)) (keeps_modQueue (keeps_launchAccept (keeps_engineRead
      ((memFrame_releaseAt ..).keeps (keeps_ite ((memFrame_acquireAt ..).keeps h) h)))))
  · exact keeps_ite (keeps_modQueue (keeps_ite ((memFrame_acquireAt ..).keeps h) h)) (keeps_modQueue ((memFrame_acquireAt ..).keeps (keeps_ite
      ((memFrame_acquireAt ..).keeps h) h)))
  · exact keeps_modQueue ((memFrame_releaseAt ..).keeps (keeps_ite ((memFrame_acquireAt ..).keeps h) h))
  · exact keeps_modQueue (keeps_seedSend ((memFrame_releaseAt ..).keeps (keeps_ite ((memFrame_acquireAt ..).keeps h) h)))
  · exact keeps_ite (keeps_modQueue (keeps_ite ((memFrame_acquireAt ..).keeps h) h)) (keeps_modQueue (keeps_cancelWord ((memFrame_releaseAt ..).keeps
      (keeps_ite ((memFrame_acquireAt ..).keeps h) h))))
  · exact keeps_modQueue (keeps_ite ((memFrame_acquireAt ..).keeps h) h)

theorem invO_execPacketRead {dev q : Nat} {s : State} : InvO s (execPacketRead dev q s) := by
  have h := Keeps.refl s
  refine invO_next ?_
  split
  · exact keeps_ite h (keeps_ite (keeps_queueError (keeps_modQueue h)) (keeps_ite (keeps_queueError (keeps_modQueue (Keeps.same (keeps_engineRead
      ((memFrame_acquireAt ..).keeps h)) rfl rfl))) (keeps_ite (keeps_queueError (keeps_modQueue (Keeps.same (keeps_engineRead
      ((memFrame_acquireAt ..).keeps h)) rfl rfl))) (keeps_ite (keeps_modQueue (Keeps.same (keeps_engineRead
      ((memFrame_acquireAt ..).keeps h)) rfl rfl)) (keeps_startPkt (Keeps.same (keeps_engineRead ((memFrame_acquireAt ..).keeps h)) rfl rfl))))))
  · exact h

theorem invO_execHoldEnds {dev q : Nat} {s : State} : InvO s (execHoldEnds dev q s) := by
  have h := Keeps.refl s
  refine invO_next ?_
  split
  · split
    · exact keeps_ite h (keeps_startPkt h)
    · exact h
  · exact h

theorem invO_execPacketComplete {dev q idx : Nat} {s : State} : InvO s (execPacketComplete dev q idx s) := by
  have h := Keeps.refl s
  refine invO_next ?_
  split
  · split
    · extract_lets
      split
      · exact keeps_modQueue (keeps_fst ‹_› (keeps_pktAct h))
      · exact keeps_ite (keeps_ite (keeps_modQueue (keeps_fst ‹_› (keeps_pktAct h))) (keeps_engineWrite (keeps_modQueue (keeps_fst ‹_›
          (keeps_pktAct h))))) (keeps_engineWrite ((memFrame_releaseAt ..).keeps (keeps_ite (keeps_modQueue (keeps_fst ‹_› (keeps_pktAct h)))
          (keeps_engineWrite (keeps_modQueue (keeps_fst ‹_› (keeps_pktAct h)))))))
    · exact h
  · exact h

theorem keeps_stopQueues {s : State} {c : Nat} (h : Keeps orig s) : Keeps orig (stopQueues s c) :=
  h

theorem invO_execLeaseRenew {dev : Nat} {die : Fin 4} {s : State} : InvO s (execLeaseRenew dev die s) := by
  have h := Keeps.refl s
  exact invO_next (keeps_ite h (keeps_ite h h))

theorem invO_execLeaseTakeover {dev : Nat} {die : Fin 4} {s : State} : InvO s (execLeaseTakeover dev die s) := by
  have h := Keeps.refl s
  exact invO_next (keeps_ite h (keeps_writeHealth h))

theorem invO_execLeaseLapse {dev : Nat} {s : State} : InvO s (execLeaseLapse dev s) := by
  have h := Keeps.refl s
  exact invO_next (keeps_ite h h)
end

end Sys2Proof.Machine
end

section
/-! PROOFS. What the instructions on Carillon's tree and the life of parts and contexts keep (R146 to R166, R416 to R430). -/

namespace Sys2Proof.Machine
open Sys2Proof

section
variable {orig : State}

theorem keepsM_myCl  : KeepsM orig myCl :=
  keepsM_bind keepsM_me fun _ => keepsM_pure

theorem keepsM_ownedRegion {g : Nat} : KeepsM orig (ownedRegion g) :=
  keepsM_bind keepsM_myCl fun _ => keepsM_bind keepsM_myPart fun _ => keepsM_get fun _ => keepsM_ite keepsM_stop keepsM_pure

theorem keepsM_regionM {g : Nat} : KeepsM orig (regionM g) := by
  refine keepsM_bind keepsM_ownedRegion fun _ => keepsM_bind keepsM_myCl fun _ => keepsM_bind keepsM_me fun _ => keepsM_get fun h1 => ?_
  split
  · exact keepsM_stop
  · split
    · exact keepsM_ite keepsM_pure keepsM_stop
    · exact keepsM_pure

theorem keepsM_notSpeculative {g : Nat} : KeepsM orig (notSpeculative g) :=
  keepsM_bind keepsM_me fun _ => keepsM_bind keepsM_myCl fun _ => keepsM_get fun _ => keepsM_ite keepsM_stop keepsM_pure

theorem keepsM_setRegion {cl g : Nat} {r : TreeRegion} : KeepsM orig (setRegion cl g r) :=
  keepsM_modify fun h1 => h1

theorem keepsM_journalM {es : List JEntry} : KeepsM orig (journalM es) := by
  refine keepsM_bind keepsM_me fun _ => keepsM_bind keepsM_myCl fun _ => keepsM_get fun h1 => ?_
  split
  · exact keepsM_pure
  · exact keepsM_ite keepsM_pure (keepsM_ite keepsM_pure (keepsM_bind (keepsM_modify fun h2 => keeps_modTask h2) fun _ => keepsM_pure))

theorem invO_execEtinit {h : Hd} {o : OpE} {s : State} : InvO s (execEtinit h o s) := by
  refine invO_issue (keepsM_bind keepsM_myPart fun _ => keepsM_bind keepsM_myCl fun _ => keepsM_when keepsM_illegalValue fun _ =>
      keepsM_bind keepsM_ownedRegion fun _ => keepsM_bind keepsM_me fun _ => keepsM_get fun h1 => keepsM_when keepsM_stop fun _ => ?_)
  beta_reduce
  split <;> exact keepsM_when keepsM_stop fun _ => keepsM_when keepsM_stop fun _ => keepsM_bind (keepsM_modify fun h2 => h2) fun _ =>
      keepsM_bind keepsM_setRegion fun _ => keepsM_pure

theorem invO_execEtinitFree {h : Hd} {o : OpE} {s : State} : InvO s (execEtinitFree h o s) :=
  invO_issue (keepsM_bind keepsM_myPart fun _ => keepsM_bind keepsM_myCl fun _ => keepsM_bind keepsM_ownedRegion fun _ =>
      keepsM_bind keepsM_me fun _ => keepsM_get fun _ => keepsM_when keepsM_stop fun _ => keepsM_bind (keepsM_modify fun h2 => h2) fun _ =>
      keepsM_pure)

theorem keepsM_leafM {r : TreeRegion} {g : Nat} {v : W64} : KeepsM orig (leafM r g v) :=
  keepsM_when keepsM_stop fun _ => keepsM_pure

theorem keepsM_writeLeaves {r : TreeRegion} {ls : List (Nat × Nat)} : KeepsM orig (writeLeaves r ls) :=
  keepsM_bind keepsM_myCl fun _ => keepsM_get fun _ => keepsM_bind keepsM_journalM fun _ => keepsM_ite (keepsM_bind (keepsM_modify fun h2 =>
      h2) fun _ => keepsM_pure) keepsM_pure

theorem invO_execEloadv {h : Hd} {o : OpE} {s : State} : InvO s (execEloadv h o s) := by
  refine invO_issue (keepsM_bind keepsM_myPart fun _ => keepsM_bind keepsM_regionM fun _ => keepsM_bind keepsM_leafM fun _ => ?_)
  extract_lets
  split
  · exact keepsM_stop
  · exact keepsM_bind keepsM_writeLeaves fun _ => keepsM_ite keepsM_pure keepsM_pure

theorem invO_leafUpdate {h : Hd} {o : OpE} {new : Nat → Nat → Nat} {old : Bool} {s : State} : InvO s (leafUpdate h o new old s) :=
  invO_issue (keepsM_bind keepsM_myPart fun _ => keepsM_bind keepsM_myCl fun _ => keepsM_bind keepsM_regionM fun _ =>
      keepsM_bind keepsM_leafM fun _ => keepsM_get fun _ => keepsM_when keepsM_stop fun _ => keepsM_bind keepsM_writeLeaves fun _ =>
      keepsM_ite keepsM_pure (keepsM_bind keepsM_putM fun _ => keepsM_pure))

theorem invO_execEset {h : Hd} {o : OpE} {s : State} : InvO s (execEset h o s) :=
  invO_leafUpdate

theorem invO_execEadd {h : Hd} {o : OpE} {s : State} : InvO s (execEadd h o s) :=
  invO_leafUpdate

theorem invO_execEget {h : Hd} {o : OpE} {s : State} : InvO s (execEget h o s) :=
  invO_issue (keepsM_bind keepsM_myPart fun _ => keepsM_bind keepsM_myCl fun _ => keepsM_bind keepsM_regionM fun _ =>
      keepsM_bind keepsM_leafM fun _ => keepsM_get fun _ => keepsM_bind keepsM_putM fun _ => keepsM_pure)

theorem invO_execEsum {h : Hd} {o : OpE} {s : State} : InvO s (execEsum h o s) :=
  invO_issue (keepsM_bind keepsM_myPart fun _ => keepsM_bind keepsM_myCl fun _ => keepsM_bind keepsM_regionM fun _ =>
      keepsM_when keepsM_stop fun _ => keepsM_get fun _ => keepsM_bind keepsM_putM fun _ => keepsM_pure)

theorem invO_execEnext {h : Hd} {o : OpE} {s : State} : InvO s (execEnext h o s) := by
  refine invO_issue ?_
  refine keepsM_bind keepsM_me fun k => keepsM_bind keepsM_myPart fun p => keepsM_bind keepsM_myCl fun cl => ?_
  extract_lets g hold use
  refine keepsM_bind keepsM_regionM fun r => keepsM_get fun h1 => ?_
  extract_lets c a drawn waits next
  have hu : KeepsM s use := keepsM_ite keepsM_setMine keepsM_pure
  clear_value use
  have hd : ∀ ws, KeepsM s (drawn ws) := by
    intro ws
    cases ws with
    | none => exact keepsM_pure
    | some bs =>
      exact keepsM_bind keepsM_journalM fun _ => keepsM_ite keepsM_pure (keepsM_bind hu fun _ => keepsM_bind keepsM_setRegion fun _ =>
        keepsM_bind keepsM_setMine fun _ => keepsM_bind keepsM_putM fun _ => keepsM_bind keepsM_putM fun _ =>
        keepsM_bind (keepsM_modify fun h2 => keeps_pulse h2) fun _ => keepsM_pure)
  clear_value drawn
  have hw : ∀ u, KeepsM s (waits u) := fun _ => keepsM_ite (keepsM_bind keepsM_readM fun _ => hd _) (keepsM_bind keepsM_pure fun _ => hd _)
  clear_value waits
  have hn : ∀ u, KeepsM s (next u) := fun _ => keepsM_ite
    (keepsM_bind hu fun _ => keepsM_bind keepsM_putM fun _ => keepsM_bind keepsM_putM fun _ =>
      keepsM_bind (keepsM_modify fun h2 => keeps_pulse h2) fun _ => keepsM_pure)
    (keepsM_ite (keepsM_bind keepsM_checkM fun _ => hw _) (hw _))
  clear_value next
  exact keepsM_ite keepsM_pure (keepsM_ite (keepsM_bind keepsM_stop fun _ => hn _) (hn _))

theorem invO_execEseed {h : Hd} {o : OpE} {s : State} : InvO s (execEseed h o s) :=
  invO_issue (keepsM_bind keepsM_myPart fun _ => keepsM_bind keepsM_myCl fun _ => keepsM_bind keepsM_ownedRegion fun _ =>
      keepsM_bind keepsM_notSpeculative fun _ => keepsM_bind keepsM_regionM fun _ => keepsM_bind keepsM_setRegion fun _ =>
      keepsM_bind keepsM_putM fun _ => keepsM_pure)

theorem invO_execEtab {h : Hd} {o : OpE} {s : State} : InvO s (execEtab h o s) := by
  refine invO_issue (keepsM_bind keepsM_myPart fun _ => keepsM_bind keepsM_myCl fun _ => keepsM_when keepsM_illegalValue fun _ =>
      keepsM_when keepsM_trapM fun _ => ?_)
  beta_reduce
  extract_lets
  split
  · exact keepsM_bind keepsM_stop fun _ => keepsM_bind keepsM_ownedRegion fun _ => keepsM_bind keepsM_notSpeculative fun _ =>
      keepsM_bind keepsM_regionM fun _ => keepsM_bind keepsM_setRegion fun _ => keepsM_pure
  · exact keepsM_bind keepsM_stop fun _ => keepsM_bind keepsM_ownedRegion fun _ => keepsM_bind keepsM_notSpeculative fun _ =>
      keepsM_bind keepsM_regionM fun _ => keepsM_bind keepsM_setRegion fun _ => keepsM_pure
  · exact keepsM_bind keepsM_ownedRegion fun _ => keepsM_bind keepsM_notSpeculative fun _ => keepsM_bind keepsM_regionM fun _ =>
      keepsM_bind keepsM_setRegion fun _ => keepsM_pure

theorem invO_execEclk {h : Hd} {o : OpE} {s : State} : InvO s (execEclk h o s) :=
  invO_issue (keepsM_bind keepsM_myPart fun _ => keepsM_bind keepsM_regionM fun _ => keepsM_bind keepsM_putM fun _ => keepsM_pure)

theorem invO_execEclkSet {h : Hd} {o : OpE} {s : State} : InvO s (execEclkSet h o s) :=
  invO_issue (keepsM_bind keepsM_myPart fun _ => keepsM_bind keepsM_myCl fun _ => keepsM_bind keepsM_regionM fun _ =>
      keepsM_when keepsM_stop fun _ => keepsM_bind keepsM_journalM fun _ => keepsM_ite keepsM_pure (keepsM_bind keepsM_setRegion fun _ =>
      keepsM_bind keepsM_putM fun _ => keepsM_pure))

theorem keeps_preemptPart {s : State} {k : Nat} (h : Keeps orig s) : Keeps orig (preemptPart s k) := by
  unfold preemptPart
  split
  · exact keeps_ite h (keeps_unselect (keeps_returnTokens h))
  · exact h
  · exact h

theorem keeps_resumePart {s : State} {k : Nat} (h : Keeps orig s) : Keeps orig (resumePart s k) := by
  unfold resumePart
  split
  · exact keeps_ite h (keeps_sendRequests h)
  · exact h
  · exact h

theorem keeps_capture {s : State} {k : Nat} (h : Keeps orig s) : Keeps orig (capture s k).1 := by
  unfold capture
  extract_lets flat s0 wait s1 p c mine saveOp _ saved dom _ p1 s2 s3
  have hw : ∀ {t}, Keeps orig t → Keeps orig (wait t) := by
    intro t ht
    unfold wait
    split
    · exact ht
    · exact ht
    · exact ht
    · exact ht
    · exact keeps_withdrawWait ht
  clear_value wait
  have h1 : Keeps orig s1 := keeps_requeue (keeps_stashFlushAll (hw (keeps_releaseFollowers (keeps_leaveGroup (keeps_dropDrain (keeps_abortRunning
    (keeps_returnTokens h)))))))
  clear_value s1
  have h2 : Keeps orig s2 := keeps_modMu (keeps_endClaim h1)
  clear_value s2
  have h3 : Keeps orig s3 := keeps_modCore h2
  clear_value s3
  dsimp only
  exact keeps_drainInboxes (keeps_unselect (keeps_settleMu (keeps_setPart h3)))

theorem keeps_spillOn {s : State} {k : Nat} (h : Keeps orig s) : Keeps orig (spillOn s k) := by
  unfold spillOn
  extract_lets p
  split
  · split
    rename_i s1 q e
    have h1 : Keeps orig s1 := keeps_fst e (keeps_capture h)
    exact h1.same rfl rfl
  · exact h

theorem keeps_spillPart_preemptDue {s : State} {k : Nat} (h : Keeps orig s) : Keeps orig (spillPart.preemptDue s k) :=
  keeps_ite (keeps_preemptPart h) h

theorem keeps_spillPart {s : State} {k : Nat} (h : Keeps orig s) : Keeps orig (spillPart s k) := by
  have hd : Keeps orig (spillOn ((spillPart.preemptDue s k).modPart k fun p => { p with spillDue := true }) k) :=
    keeps_spillOn (keeps_modPart (keeps_spillPart_preemptDue h))
  unfold spillPart
  split
  · exact keeps_modPart h
  · exact keeps_ite (keeps_modPart h) hd
  · exact keeps_ite (keeps_modPart h) hd
  · exact keeps_ite (keeps_modPart h) hd
  · exact h

theorem keeps_placePart {s : State} {k : Nat} {p : Part} {st : PState} (h : Keeps orig s) : Keeps orig (placePart s k p st) :=
  keeps_taborRefill (keeps_drainInbox (keeps_tablaLive (keeps_ite (keeps_ite (keeps_claimCore h) h) (keeps_sendRequests (keeps_ite
      (keeps_claimCore h) h)))))

theorem keeps_restorePart {s : State} {flat c : Nat} (h : Keeps orig s) : Keeps orig (restorePart s flat c) := by
  unfold restorePart
  split
  · exact keeps_ite h (keeps_placePart h)
  · exact h

theorem invO_execAdmitPart {flat ctx : Nat} {s : State} : InvO s (execAdmitPart flat ctx s) := by
  have h := Keeps.refl s
  unfold execAdmitPart
  extract_lets room
  have hr : Keeps s room := by
    refine keeps_ite h ?_
    cases victim s flat with
    | none => exact h
    | some k => exact keeps_spillPart h
  clear_value room
  refine invO_next (keeps_ite h ?_)
  split
  · exact h
  · exact keeps_restorePart hr
  · exact keeps_ite hr (keeps_wakeUnit hr)

theorem invO_execPreempt {k : Nat} {s : State} : InvO s (execPreempt k s) := by
  have h := Keeps.refl s
  exact invO_next (keeps_ite (keeps_preemptPart h) h)

theorem invO_execResume {k : Nat} {s : State} : InvO s (execResume k s) := by
  have h := Keeps.refl s
  exact invO_next (keeps_ite (keeps_resumePart h) h)

theorem invO_execSpill {k : Nat} {s : State} : InvO s (execSpill k s) := by
  have h := Keeps.refl s
  exact invO_next (keeps_ite (keeps_spillPart h) h)

theorem invO_execRestore {flat ctx : Nat} {s : State} : InvO s (execRestore flat ctx s) := by
  have h := Keeps.refl s
  exact invO_next (keeps_ite (keeps_restorePart h) h)

theorem invO_execHalt {k : Nat} {s : State} : InvO s (execHalt k s) := by
  have h := Keeps.refl s
  exact invO_next (keeps_ite (keeps_haltPart h) h)

theorem invO_execRelease {k : Nat} {s : State} : InvO s (execRelease k s) := by
  have h := Keeps.refl s
  exact invO_next (keeps_ite (keeps_releasePart h) h)

theorem invO_execLiveDump {ctx : Nat} {s : State} : InvO s (execLiveDump ctx s) := by
  have h := Keeps.refl s
  exact invO_next (keeps_foldl (fun ht => keeps_ite (keeps_releasePart (keeps_haltPart ht)) ht) h)

theorem invO_execQuiesce {q : QuiesceCmd} {s : State} : InvO s (execQuiesce q s) :=
  invO_next ((keeps_quiesceAll (reason := q.reason) (Keeps.refl s)).same rfl rfl)

theorem invO_execCheckpoint {k : Nat} {s : State} : InvO s (execCheckpoint k s) := by
  have h := Keeps.refl s
  refine invO_next ?_
  split
  · exact keeps_ite h (keeps_ite (keeps_enterCheckpoint (keeps_withdrawWait h)) h)
  · exact h

theorem keeps_destroyPart {s : State} {k : Nat} (h : Keeps orig s) : Keeps orig (destroyPart s k) := by
  unfold destroyPart
  extract_lets flat c s0 s1 s2 mine drop s3 s4
  have h0 : Keeps orig s0 := keeps_discardTasks (keeps_withdrawWait (keeps_releaseFollowers (keeps_leaveGroup h)))
  clear_value s0
  have h1 : Keeps orig s1 := keeps_withdrawColls (keeps_withdrawXfers (keeps_withdrawHeld (keeps_modPart h0)))
  clear_value s1
  have h2 : Keeps orig s2 := keeps_stashFlushAll h1
  clear_value s2
  have h3 : Keeps orig s3 := keeps_modMu (keeps_endClaim h2)
  clear_value s3
  have h4 : Keeps orig s4 := keeps_modCore (keeps_partGone h3)
  clear_value s4
  exact keeps_unselect (keeps_settleMu (keeps_modPart h4))

theorem keeps_linksReleased {s : State} (h : Keeps orig s) : Keeps orig (linksReleased s) :=
  h.same rfl rfl

theorem keeps_destroyAway {s : State} {a : Nat × Part} (h : Keeps orig s) : Keeps orig (destroyAway s a) :=
  keeps_ite h (keeps_modCore (keeps_partGone (keeps_withdrawColls (keeps_discardTasks h))))

theorem keeps_releaseEnded {s : State} {rebuild : Bool} (h : Keeps orig s) : Keeps orig (releaseEnded s rebuild) := by
  unfold releaseEnded
  extract_lets ended ks away s1 awake
  have h1 : Keeps orig s1 := keeps_foldl (fun ht => keeps_releasePart (keeps_ite (keeps_modPart ht) ht)) h
  clear_value s1
  exact keeps_ite (keeps_foldl (fun ht => keeps_destroyAway ht) (keeps_foldl (fun ht => keeps_destroyPart ht) h)) (h1.same rfl rfl)

theorem invO_execQuiesceWithdraw {rebuild : Bool} {s : State} : InvO s (execQuiesceWithdraw rebuild s) := by
  have h := Keeps.refl s
  exact invO_next (keeps_ite (keeps_linksReleased (Keeps.same (keeps_releaseEnded h) rfl rfl)) (keeps_releaseEnded h))

theorem invO_execCheckpointLimit {k : Nat} {s : State} : InvO s (execCheckpointLimit k s) := by
  have h := Keeps.refl s
  exact invO_next (keeps_ite (Keeps.same (keeps_haltPart h) rfl rfl) h)

theorem keeps_ctxGone {s : State} {c : Nat} (h : Keeps orig s) : Keeps orig (ctxGone s c) :=
  Keeps.same (keeps_foldl (fun ht => keeps_destroyGroup ht) (keeps_stopQueues h)) rfl rfl

theorem keeps_dropHandlers {s : State} {c : Nat} (h : Keeps orig s) : Keeps orig (dropHandlers s c) :=
  keeps_foldl (fun ht => keeps_unselect (keeps_dIdle ht)) h

theorem invO_execDestroy {ctx : Nat} {flat : Option Nat} {s : State} : InvO s (execDestroy ctx flat s) := by
  have h := Keeps.refl s
  refine invO_next (keeps_ite h ?_)
  split
  · exact keeps_foldl (fun ht => keeps_destroyAway ht) (keeps_foldl (fun ht => keeps_destroyPart ht) (keeps_ite (keeps_foldl (fun ht =>
      keeps_destroyGroup ht) h) h))
  · exact keeps_dropHandlers (keeps_ctxGone (keeps_foldl (fun ht => keeps_destroyAway ht) (keeps_foldl (fun ht => keeps_destroyPart ht) (keeps_ite
      (keeps_foldl (fun ht => keeps_destroyGroup ht) h) h))))

theorem invO_execAsyncMcheck {k : Nat} {s : State} : InvO s (execAsyncMcheck k s) := by
  have h := Keeps.refl s
  exact invO_next (keeps_ite h (keeps_withdrawWait h))

theorem keeps_clearErrq {s : State} {flat : Nat} {errq : W64} (h : Keeps orig s) : Keeps orig (clearErrq s flat errq) := by
  refine keeps_foldl (fun ht => ?_) h
  split
  · exact keeps_writeBytes ht
  · exact ht

theorem keeps_assignQueue {c : Nat} {s : State} {q : Nat × HostQSpec} (h : Keeps orig s) : Keeps orig (assignQueue c s q) :=
  keeps_writeBytes h

theorem invO_execContextCreate {c : CtxSpec} {s : State} : InvO s (execContextCreate c s) := by
  have h := Keeps.refl s
  unfold execContextCreate
  refine invO_next (keeps_ite h ?_)
  extract_lets word s0 _ s1 s2
  have h0 : Keeps s s0 := ⟨fun hs => memory_wf_foldl (fun _ _ hm => memory_wf_memWriteBytes _ _ hm) _ hs, rfl⟩
  clear_value s0
  have h1 : Keeps s s1 := keeps_modCtx h0
  clear_value s1
  have h2 : Keeps s s2 := keeps_foldl (fun ht => keeps_modDev ht) h1
  clear_value s2
  exact keeps_foldl (fun ht => keeps_assignQueue ht) (keeps_clearErrq h2)
end

end Sys2Proof.Machine
end

section
/-! PROOFS. What the scalar, control and vector instructions, the special registers and the sparse unit keep (R110 to R145, R202, R331 to R345). -/

namespace Sys2Proof.Machine
open Sys2Proof

section
variable {orig : State}

theorem invO_aluB {h : Hd} {o : OpB} {lat : Option Nat} {f : W64 → W64 → W64} {s : State} : InvO s (aluB h o lat f s) :=
  invO_issue (keepsM_bind keepsM_myPart fun _ => keepsM_bind keepsM_putM fun _ => keepsM_pure)

theorem invO_aluA {h : Hd} {o : OpB} {f : W64 → W64} {s : State} : InvO s (aluA h o f s) :=
  invO_issue (keepsM_bind keepsM_myPart fun _ => keepsM_bind keepsM_putM fun _ => keepsM_pure)

theorem invO_execAdd {h : Hd} {o : OpB} {s : State} : InvO s (execAdd h o s) :=
  invO_aluB

theorem invO_execSub {h : Hd} {o : OpB} {s : State} : InvO s (execSub h o s) :=
  invO_aluB

theorem invO_execMul {h : Hd} {o : OpB} {s : State} : InvO s (execMul h o s) :=
  invO_aluB

theorem invO_execMulh {h : Hd} {o : OpB} {s : State} : InvO s (execMulh h o s) :=
  invO_aluB

theorem invO_execDiv {h : Hd} {o : OpB} {s : State} : InvO s (execDiv h o s) :=
  invO_aluB

theorem invO_execRem {h : Hd} {o : OpB} {s : State} : InvO s (execRem h o s) :=
  invO_aluB

theorem invO_execMin {h : Hd} {o : OpB} {s : State} : InvO s (execMin h o s) :=
  invO_aluB

theorem invO_execMax {h : Hd} {o : OpB} {s : State} : InvO s (execMax h o s) :=
  invO_aluB

theorem invO_execMulhN {h : Hd} {o : OpB} {s : State} : InvO s (execMulhN h o s) :=
  invO_aluB

theorem invO_execDivN {h : Hd} {o : OpB} {s : State} : InvO s (execDivN h o s) :=
  invO_aluB

theorem invO_execRemN {h : Hd} {o : OpB} {s : State} : InvO s (execRemN h o s) :=
  invO_aluB

theorem invO_execMinN {h : Hd} {o : OpB} {s : State} : InvO s (execMinN h o s) :=
  invO_aluB

theorem invO_execMaxN {h : Hd} {o : OpB} {s : State} : InvO s (execMaxN h o s) :=
  invO_aluB

theorem invO_execAnd {h : Hd} {o : OpB} {s : State} : InvO s (execAnd h o s) :=
  invO_aluB

theorem invO_execOr {h : Hd} {o : OpB} {s : State} : InvO s (execOr h o s) :=
  invO_aluB

theorem invO_execXor {h : Hd} {o : OpB} {s : State} : InvO s (execXor h o s) :=
  invO_aluB

theorem invO_execAndn {h : Hd} {o : OpB} {s : State} : InvO s (execAndn h o s) :=
  invO_aluB

theorem invO_execShl {h : Hd} {o : OpB} {s : State} : InvO s (execShl h o s) :=
  invO_aluB

theorem invO_execShr {h : Hd} {o : OpB} {s : State} : InvO s (execShr h o s) :=
  invO_aluB

theorem invO_execSar {h : Hd} {o : OpB} {s : State} : InvO s (execSar h o s) :=
  invO_aluB

theorem invO_execClz {h : Hd} {o : OpB} {s : State} : InvO s (execClz h o s) :=
  invO_aluA

theorem invO_execPopc {h : Hd} {o : OpB} {s : State} : InvO s (execPopc h o s) :=
  invO_aluA

theorem invO_execMov {h : Hd} {o : OpB} {s : State} : InvO s (execMov h o s) :=
  invO_aluA

theorem invO_execBfx {h : Hd} {o : OpC} {s : State} : InvO s (execBfx h o s) :=
  invO_issue (keepsM_bind keepsM_myPart fun _ => keepsM_bind keepsM_putM fun _ => keepsM_pure)

theorem invO_execBfi {h : Hd} {o : OpC} {s : State} : InvO s (execBfi h o s) :=
  invO_issue (keepsM_bind keepsM_myPart fun _ => keepsM_bind keepsM_putM fun _ => keepsM_pure)

theorem invO_execSel {h : Hd} {o : OpC} {s : State} : InvO s (execSel h o s) :=
  invO_issue (keepsM_bind keepsM_myPart fun _ => keepsM_bind keepsM_putM fun _ => keepsM_pure)

theorem invO_execLi {h : Hd} {o : OpL} {s : State} : InvO s (execLi h o s) :=
  invO_issue (keepsM_bind keepsM_myPart fun _ => keepsM_bind keepsM_putM fun _ => keepsM_pure)

theorem invO_execLih {h : Hd} {o : OpL} {s : State} : InvO s (execLih h o s) :=
  invO_issue (keepsM_bind keepsM_myPart fun _ => keepsM_bind keepsM_putM fun _ => keepsM_pure)

theorem invO_execCmp {h : Hd} {c : ICond} {o : OpB} {s : State} : InvO s (execCmp h c o s) :=
  invO_issue (keepsM_bind keepsM_myPart fun _ => keepsM_bind keepsM_putM fun _ => keepsM_pure)

theorem invO_predB {h : Hd} {o : OpB} {f : W64 → W64 → W64} {s : State} : InvO s (predB h o f s) :=
  invO_issue (keepsM_bind keepsM_myPart fun _ => keepsM_bind keepsM_putM fun _ => keepsM_pure)

theorem invO_execPand {h : Hd} {o : OpB} {s : State} : InvO s (execPand h o s) :=
  invO_predB

theorem invO_execPor {h : Hd} {o : OpB} {s : State} : InvO s (execPor h o s) :=
  invO_predB

theorem invO_execPxor {h : Hd} {o : OpB} {s : State} : InvO s (execPxor h o s) :=
  invO_predB

theorem invO_execPnot {h : Hd} {o : OpB} {s : State} : InvO s (execPnot h o s) :=
  invO_issue (keepsM_bind keepsM_myPart fun _ => keepsM_bind keepsM_putM fun _ => keepsM_pure)

theorem invO_execPmov {h : Hd} {o : OpB} {s : State} : InvO s (execPmov h o s) :=
  invO_issue (keepsM_bind keepsM_myPart fun _ => keepsM_bind keepsM_putM fun _ => keepsM_pure)

theorem invO_fpOp {h : Hd} {o : OpC} {srcs : List Src} {lat : Option Nat} {sr : Nat} {f : Fmt → RCtl → List Nat → FRes} {s : State} : InvO s
    (fpOp h o srcs lat sr f s) :=
  invO_issue (keepsM_bind keepsM_myPart fun _ => keepsM_bind keepsM_setMine fun _ => keepsM_pure)

theorem invO_execFadd {h : Hd} {o : OpC} {s : State} : InvO s (execFadd h o s) :=
  invO_fpOp

theorem invO_execFsub {h : Hd} {o : OpC} {s : State} : InvO s (execFsub h o s) :=
  invO_fpOp

theorem invO_execFmul {h : Hd} {o : OpC} {s : State} : InvO s (execFmul h o s) :=
  invO_fpOp

theorem invO_execFma {h : Hd} {o : OpC} {s : State} : InvO s (execFma h o s) :=
  invO_fpOp

theorem invO_execFdiv {h : Hd} {o : OpC} {s : State} : InvO s (execFdiv h o s) :=
  invO_fpOp

theorem invO_execFsqrt {h : Hd} {o : OpC} {s : State} : InvO s (execFsqrt h o s) :=
  invO_fpOp

theorem invO_execFmin {h : Hd} {o : OpC} {s : State} : InvO s (execFmin h o s) :=
  invO_fpOp

theorem invO_execFmax {h : Hd} {o : OpC} {s : State} : InvO s (execFmax h o s) :=
  invO_fpOp

theorem invO_execFcmp {h : Hd} {c : FCond} {o : OpC} {s : State} : InvO s (execFcmp h c o s) :=
  invO_issue (keepsM_bind keepsM_myPart fun _ => keepsM_bind keepsM_setMine fun _ => keepsM_pure)

theorem invO_execFcvt {h : Hd} {o : OpC} {s : State} : InvO s (execFcvt h o s) :=
  invO_issue (keepsM_bind keepsM_myPart fun _ => keepsM_bind keepsM_setMine fun _ => keepsM_pure)

theorem invO_execLineEnd {s : State} : InvO s (execLineEnd s) := by
  have h := Keeps.refl s
  exact invO_next h

theorem invO_execNop {h : Hd} {s : State} : InvO s (execNop h s) :=
  invO_issue keepsM_pure

theorem invO_execNopPred {h : Hd} {q : Pred} {s : State} : InvO s (execNopPred h q s) :=
  invO_issue keepsM_pure

theorem invO_execYield {h : Hd} {s : State} : InvO s (execYield h s) :=
  invO_issue keepsM_pure

theorem invO_execYieldPred {h : Hd} {q : Pred} {s : State} : InvO s (execYieldPred h q s) :=
  invO_issue keepsM_pure

theorem invO_execBra {h : Hd} {o : OpJ} {s : State} : InvO s (execBra h o s) :=
  invO_issue (keepsM_bind keepsM_myPart fun _ => keepsM_pure)

theorem invO_execCall {h : Hd} {o : OpJ} {s : State} : InvO s (execCall h o s) :=
  invO_issue (keepsM_bind keepsM_myPart fun _ => keepsM_bind keepsM_setMine fun _ => keepsM_pure)

theorem invO_execLoop {h : Hd} {o : OpJ} {s : State} : InvO s (execLoop h o s) :=
  invO_issue (keepsM_bind keepsM_myPart fun _ => keepsM_bind keepsM_setMine fun _ => keepsM_pure)

theorem invO_jmpi {h : Hd} {d : Dst} {s1 : Src} {s : State} : InvO s (jmpi h d s1 s) :=
  invO_issue (keepsM_bind keepsM_myPart fun _ => keepsM_when keepsM_trapM fun _ => keepsM_bind keepsM_setMine fun _ => keepsM_pure)

theorem invO_execJmpi {h : Hd} {o : OpA} {s : State} : InvO s (execJmpi h o s) :=
  invO_jmpi

theorem invO_execRet {h : Hd} {s : State} : InvO s (execRet h s) :=
  invO_jmpi

theorem keeps_alignWake {s : State} {cl : Nat} (h : Keeps orig s) : Keeps orig (alignWake s cl) := by
  refine keeps_foldl (fun ht => ?_) h
  split
  · exact keeps_ite ht ht
  · exact ht

theorem invO_execAlign {h : Hd} {o : OpB} {s : State} : InvO s (execAlign h o s) := by
  refine invO_issue (keepsM_bind keepsM_me fun _ => keepsM_bind keepsM_myPart fun _ => keepsM_ite keepsM_pure ?_)
  split
  · exact keepsM_bind keepsM_setMine fun _ => keepsM_pure
  · exact keepsM_bind keepsM_setMine fun _ => keepsM_bind (keepsM_modify fun h1 => keeps_alignWake h1) fun _ => keepsM_bind keepsM_myPart fun _ =>
      keepsM_ite (keepsM_bind keepsM_setMine fun _ => keepsM_pure) keepsM_pure

theorem invO_execAlignWindowExpiry {k : Nat} {s : State} : InvO s (execAlignWindowExpiry k s) := by
  have h := Keeps.refl s
  refine invO_next ?_
  split <;> exact h

theorem invO_execFollow {h : Hd} {o : OpB} {s : State} : InvO s (execFollow h o s) :=
  invO_issue (keepsM_bind keepsM_me fun _ => keepsM_bind keepsM_myPart fun _ => keepsM_bind keepsM_setMine fun _ => keepsM_ite (keepsM_ite
      (keepsM_bind keepsM_setMine fun _ => keepsM_pure) (keepsM_when keepsM_setMine fun _ => keepsM_pure)) keepsM_pure)

theorem invO_execJoinWindowExpiry {k : Nat} {s : State} : InvO s (execJoinWindowExpiry k s) := by
  have h := Keeps.refl s
  exact invO_next (keeps_ite h h)

theorem keepsM_unfollowBody  : KeepsM orig unfollowBody := by
  refine keepsM_bind keepsM_me fun _ => keepsM_bind keepsM_myPart fun _ => keepsM_bind keepsM_setMine fun _ => ?_
  split
  · exact keepsM_bind keepsM_setMine fun _ => keepsM_pure
  · exact keepsM_bind (keepsM_modify fun h1 => keeps_leaveGroup h1) fun _ => keepsM_pure
  · exact keepsM_pure

theorem invO_execUnfollow {h : Hd} {s : State} : InvO s (execUnfollow h s) :=
  invO_issue keepsM_unfollowBody

theorem invO_execUnfollowPred {h : Hd} {q : Pred} {s : State} : InvO s (execUnfollowPred h q s) :=
  invO_issue keepsM_unfollowBody

theorem invO_execTrap {h : Hd} {o : OpB} {s : State} : InvO s (execTrap h o s) :=
  invO_issue (keepsM_bind keepsM_myPart fun _ => keepsM_trapM)

theorem invO_execTrapret {h : Hd} {o : OpB} {s : State} : InvO s (execTrapret h o s) :=
  invO_issue (keepsM_bind keepsM_me fun _ => keepsM_bind keepsM_myPart fun _ => keepsM_when keepsM_illegalValue fun _ => keepsM_bind
      (keepsM_modify fun h1 => keeps_trapReturn h1) fun _ => keepsM_pure)

theorem invO_execUpret {h : Hd} {o : OpB} {s : State} : InvO s (execUpret h o s) :=
  invO_issue (keepsM_bind keepsM_me fun _ => keepsM_bind keepsM_myPart fun _ => keepsM_when keepsM_illegalValue fun _ => keepsM_bind
      (keepsM_modify fun h1 => keeps_upcallReturn h1) fun _ => keepsM_pure)

theorem invO_execChkpt {h : Hd} {o : OpB} {s : State} : InvO s (execChkpt h o s) :=
  invO_issue (keepsM_bind keepsM_me fun _ => keepsM_bind keepsM_myPart fun _ => keepsM_when keepsM_illegalValue fun _ => keepsM_get fun _ =>
      keepsM_ite keepsM_pure (keepsM_bind (keepsM_modify fun h2 => (memFrame_releaseAt ..).keeps h2) fun _ => keepsM_bind (keepsM_modify fun h2 =>
      h2) fun _ => keepsM_bind (keepsM_modify fun h2 => keeps_releaseFollowers h2) fun _ => keepsM_bind keepsM_setMine fun _ => keepsM_pure))

theorem invO_execFibset {h : Hd} {o : OpB} {s : State} : InvO s (execFibset h o s) :=
  invO_issue (keepsM_bind keepsM_me fun _ => keepsM_bind keepsM_myPart fun _ => keepsM_when keepsM_illegalValue fun _ =>
      keepsM_bind keepsM_setMine fun _ => keepsM_bind keepsM_putM fun _ => keepsM_pure)

theorem keeps_driveTarget {s : State} {k : Nat} {t : DTerm} (h : Keeps orig s) : Keeps orig (driveTarget s k t) := by
  unfold driveTarget
  split
  · exact keeps_copyPulse h
  · exact keeps_copyPulse h
  · exact keeps_copyPulse h
  · exact keeps_copyPulse h
  · exact keeps_mqStart h
  · exact keeps_rputPulse h
  · exact h
  · exact h
  · exact keeps_getD (keepsO_evsig h) h
  · exact h
  · exact h

theorem keeps_fireTerms {s : State} {k : Nat} (h : Keeps orig s) : Keeps orig (fireTerms s k) := by
  unfold fireTerms
  extract_lets
  split
  · exact h
  · exact keeps_foldl (fun ht => keeps_pulse (keeps_driveTarget ht)) h

theorem invO_execDamaskTermFire {k : Nat} {s : State} : InvO s (execDamaskTermFire k s) := by
  have h := Keeps.refl s
  exact invO_next (keeps_ite h (keeps_fireTerms h))

theorem invO_execBscaleBlk {h : Hd} {o : OpC} {s : State} : InvO s (execBscaleBlk h o s) :=
  invO_issue (keepsM_bind keepsM_myPart fun _ => keepsM_bind keepsM_putV fun _ => keepsM_bind keepsM_setMine fun _ => keepsM_pure)

theorem invO_execBscaleAmax {h : Hd} {o : OpC} {s : State} : InvO s (execBscaleAmax h o s) :=
  invO_issue (keepsM_bind keepsM_myPart fun _ => keepsM_bind keepsM_putM fun _ => keepsM_bind keepsM_setMine fun _ => keepsM_pure)

theorem invO_execBscaleBand {h : Hd} {o : OpC} {s : State} : InvO s (execBscaleBand h o s) :=
  invO_issue (keepsM_bind keepsM_myPart fun _ => keepsM_bind keepsM_putM fun _ => keepsM_bind keepsM_setMine fun _ => keepsM_pure)

theorem invO_execQnt {h : Hd} {o : OpC} {s : State} : InvO s (execQnt h o s) :=
  invO_issue (keepsM_bind keepsM_myPart fun _ => keepsM_bind keepsM_putV fun _ => keepsM_bind keepsM_setMine fun _ => keepsM_pure)

theorem invO_execDqnt {h : Hd} {o : OpC} {s : State} : InvO s (execDqnt h o s) :=
  invO_issue (keepsM_bind keepsM_myPart fun _ => keepsM_bind keepsM_putV fun _ => keepsM_bind keepsM_setMine fun _ => keepsM_pure)

theorem invO_execQsplit {h : Hd} {o : OpC} {s : State} : InvO s (execQsplit h o s) := by
  refine invO_issue (keepsM_bind keepsM_myPart fun _ => keepsM_when keepsM_trapM fun _ => ?_)
  beta_reduce
  extract_lets
  split
  · exact keepsM_bind keepsM_checkM fun _ => keepsM_bind keepsM_writeM fun _ => keepsM_ite keepsM_pure (keepsM_bind keepsM_putV fun _ => keepsM_pure)
  · exact keepsM_bind keepsM_stop fun _ => keepsM_bind keepsM_checkM fun _ => keepsM_bind keepsM_writeM fun _ => keepsM_ite keepsM_pure
      (keepsM_bind keepsM_putV fun _ => keepsM_pure)

theorem invO_execSpcomp {h : Hd} {o : OpC} {s : State} : InvO s (execSpcomp h o s) :=
  invO_issue (keepsM_bind keepsM_myPart fun _ => keepsM_ite (keepsM_bind keepsM_putV fun _ => keepsM_pure) (keepsM_bind keepsM_putV fun _ =>
      keepsM_pure))

theorem invO_execSpchk {h : Hd} {o : OpC} {s : State} : InvO s (execSpchk h o s) :=
  invO_issue (keepsM_bind keepsM_myPart fun _ => keepsM_bind keepsM_putM fun _ => keepsM_pure)

theorem keeps_srSeen {s : State} {k n : Nat} {v : W64} (h : Keeps orig s) : Keeps orig (srSeen s k n v) :=
  keeps_ite (keeps_logOrTake h) (keeps_ite ((memFrame_acquireAt ..).keeps h) (keeps_ite ((memFrame_acquireAt ..).keeps h) (keeps_ite
      ((memFrame_acquireAt ..).keeps h) (keeps_ite ((memFrame_acquireAt ..).keeps h) (keeps_ite ((memFrame_acquireAt ..).keeps h) h)))))

theorem invO_execMfs {h : Hd} {o : OpL} {s : State} : InvO s (execMfs h o s) := by
  refine invO_issue (keepsM_bind keepsM_me fun _ => keepsM_get fun h1 => ?_)
  split
  · exact keepsM_illegalValue
  · exact keepsM_bind (keepsM_modify fun h2 => keeps_srSeen h2) fun _ => keepsM_bind keepsM_putM fun _ => keepsM_pure

theorem invO_execMts {h : Hd} {o : OpL} {s : State} : InvO s (execMts h o s) := by
  refine invO_issue (keepsM_bind keepsM_me fun _ => keepsM_bind keepsM_myPart fun _ => ?_)
  split
  · exact keepsM_illegalValue
  · exact keepsM_bind keepsM_setMine fun _ => keepsM_pure

theorem invO_vInt {h : Hd} {o : OpC} {srcs : List Src} {f : List Nat → Nat} {s : State} : InvO s (vInt h o srcs f s) :=
  invO_issue (keepsM_bind keepsM_myPart fun _ => keepsM_bind keepsM_putV fun _ => keepsM_pure)

theorem invO_vInt2 {h : Hd} {o : OpC} {f : Int → Int → Int} {s : State} : InvO s (vInt2 h o f s) :=
  invO_vInt

theorem invO_execVadd {h : Hd} {o : OpC} {s : State} : InvO s (execVadd h o s) :=
  invO_vInt2

theorem invO_execVsub {h : Hd} {o : OpC} {s : State} : InvO s (execVsub h o s) :=
  invO_vInt2

theorem invO_execVmul {h : Hd} {o : OpC} {s : State} : InvO s (execVmul h o s) :=
  invO_vInt2

theorem invO_execVmin {h : Hd} {o : OpC} {s : State} : InvO s (execVmin h o s) :=
  invO_vInt2

theorem invO_execVmax {h : Hd} {o : OpC} {s : State} : InvO s (execVmax h o s) :=
  invO_vInt2

theorem invO_execVmad {h : Hd} {o : OpC} {s : State} : InvO s (execVmad h o s) :=
  invO_vInt

theorem invO_execVabs {h : Hd} {o : OpC} {s : State} : InvO s (execVabs h o s) :=
  invO_vInt

theorem invO_vBit {h : Hd} {o : OpC} {f : Nat → Nat → Nat → Nat} {s : State} : InvO s (vBit h o f s) :=
  invO_vInt

theorem invO_execVand {h : Hd} {o : OpC} {s : State} : InvO s (execVand h o s) :=
  invO_vBit

theorem invO_execVor {h : Hd} {o : OpC} {s : State} : InvO s (execVor h o s) :=
  invO_vBit

theorem invO_execVxor {h : Hd} {o : OpC} {s : State} : InvO s (execVxor h o s) :=
  invO_vBit

theorem invO_execVshl {h : Hd} {o : OpC} {s : State} : InvO s (execVshl h o s) :=
  invO_vBit

theorem invO_execVshr {h : Hd} {o : OpC} {s : State} : InvO s (execVshr h o s) :=
  invO_vBit

theorem invO_execVsar {h : Hd} {o : OpC} {s : State} : InvO s (execVsar h o s) :=
  invO_vBit

theorem keepsM_putCond {d : Dst} {mask : W64} {w : Nat} {f : Nat → Bool} : KeepsM orig (putCond d mask w f) :=
  keepsM_setMine

theorem invO_execVcmp {h : Hd} {c : ICond} {o : OpC} {s : State} : InvO s (execVcmp h c o s) :=
  invO_issue (keepsM_bind keepsM_myPart fun _ => keepsM_bind keepsM_putCond fun _ => keepsM_pure)

theorem invO_execVmov {h : Hd} {o : OpC} {s : State} : InvO s (execVmov h o s) :=
  invO_issue (keepsM_bind keepsM_myPart fun _ => keepsM_bind keepsM_putV fun _ => keepsM_pure)

theorem invO_execVbcast {h : Hd} {o : OpC} {s : State} : InvO s (execVbcast h o s) :=
  invO_issue (keepsM_bind keepsM_myPart fun _ => keepsM_bind keepsM_putV fun _ => keepsM_pure)

theorem invO_execVsel {h : Hd} {o : OpC} {s : State} : InvO s (execVsel h o s) :=
  invO_issue (keepsM_bind keepsM_myPart fun _ => keepsM_bind keepsM_putV fun _ => keepsM_pure)

theorem invO_execVcvt {h : Hd} {o : OpC} {s : State} : InvO s (execVcvt h o s) :=
  invO_issue (keepsM_when keepsM_illegalValue fun _ => keepsM_bind keepsM_myPart fun _ => keepsM_bind keepsM_putV fun _ =>
      keepsM_bind keepsM_setMine fun _ => keepsM_pure)

theorem invO_execVperm {h : Hd} {o : OpC} {s : State} : InvO s (execVperm h o s) :=
  invO_issue (keepsM_bind keepsM_myPart fun _ => keepsM_bind keepsM_putV fun _ => keepsM_pure)

theorem invO_execVred {h : Hd} {o : OpC} {s : State} : InvO s (execVred h o s) := by
  refine invO_issue (keepsM_bind keepsM_myPart fun _ => ?_)
  split
  · exact keepsM_bind keepsM_setMine fun _ => keepsM_pure
  · exact keepsM_pure

theorem invO_execVscan {h : Hd} {o : OpC} {s : State} : InvO s (execVscan h o s) :=
  invO_issue (keepsM_bind keepsM_myPart fun _ => keepsM_bind keepsM_putV fun _ => keepsM_bind keepsM_setMine fun _ => keepsM_pure)

theorem invO_execVext {h : Hd} {o : OpC} {s : State} : InvO s (execVext h o s) :=
  invO_issue (keepsM_bind keepsM_myPart fun _ => keepsM_bind keepsM_putM fun _ => keepsM_pure)

theorem invO_execVins {h : Hd} {o : OpC} {s : State} : InvO s (execVins h o s) :=
  invO_issue (keepsM_bind keepsM_myPart fun _ => keepsM_bind keepsM_putV fun _ => keepsM_pure)

theorem invO_execVcomp {h : Hd} {o : OpC} {s : State} : InvO s (execVcomp h o s) :=
  invO_issue (keepsM_bind keepsM_myPart fun _ => keepsM_bind keepsM_putV fun _ => keepsM_pure)

theorem invO_execVexpd {h : Hd} {o : OpC} {s : State} : InvO s (execVexpd h o s) :=
  invO_issue (keepsM_bind keepsM_myPart fun _ => keepsM_bind keepsM_putV fun _ => keepsM_pure)

theorem invO_vFp {h : Hd} {o : OpC} {srcs : List Src} {fm : Fmt} {lat sr : Nat} {f : RCtl → List Nat → FRes} {s : State} : InvO s
    (vFp h o srcs fm lat sr f s) :=
  invO_issue (keepsM_bind keepsM_myPart fun _ => keepsM_bind keepsM_putV fun _ => keepsM_bind keepsM_setMine fun _ => keepsM_pure)
theorem invO_execVfadd {h : Hd} {o : OpC} {s : State} : InvO s (execVfadd h o s) := by
  unfold execVfadd
  extract_lets fm
  exact invO_vFp

theorem invO_execVfsub {h : Hd} {o : OpC} {s : State} : InvO s (execVfsub h o s) := by
  unfold execVfsub
  extract_lets fm
  exact invO_vFp

theorem invO_execVfmul {h : Hd} {o : OpC} {s : State} : InvO s (execVfmul h o s) := by
  unfold execVfmul
  extract_lets fm
  exact invO_vFp

theorem invO_execVfma {h : Hd} {o : OpC} {s : State} : InvO s (execVfma h o s) := by
  unfold execVfma
  extract_lets fm
  exact invO_vFp

theorem invO_execVfmin {h : Hd} {o : OpC} {s : State} : InvO s (execVfmin h o s) := by
  unfold execVfmin
  extract_lets fm
  exact invO_vFp

theorem invO_execVfmax {h : Hd} {o : OpC} {s : State} : InvO s (execVfmax h o s) := by
  unfold execVfmax
  extract_lets fm
  exact invO_vFp

theorem invO_execVfcmp {h : Hd} {c : FCond} {o : OpC} {s : State} : InvO s (execVfcmp h c o s) :=
  invO_issue (keepsM_bind keepsM_myPart fun _ => keepsM_bind keepsM_putCond fun _ => keepsM_bind keepsM_setMine fun _ => keepsM_pure)

theorem invO_vFn {h : Hd} {o : OpC} {f : Fmt → RCtl → FV → FRes} {s : State} : InvO s (vFn h o f s) :=
  invO_vFp

theorem invO_execVrcp {h : Hd} {o : OpC} {s : State} : InvO s (execVrcp h o s) :=
  invO_vFn

theorem invO_execVrsq {h : Hd} {o : OpC} {s : State} : InvO s (execVrsq h o s) :=
  invO_vFn

theorem invO_execVexp2 {h : Hd} {o : OpC} {s : State} : InvO s (execVexp2 h o s) :=
  invO_vFn

theorem invO_execVlog2 {h : Hd} {o : OpC} {s : State} : InvO s (execVlog2 h o s) :=
  invO_vFn
end

end Sys2Proof.Machine
end

section
/-! PROOFS. What the events of links, pages and the service keep (R215 to R229, R466 to R493, R505 to R516). -/

namespace Sys2Proof.Machine
open Sys2Proof

section
variable {orig : State}

theorem invO_execLinkEnable {dev : Nat} {n : Fin 18} {s : State} : InvO s (execLinkEnable dev n s) := by
  have h := Keeps.refl s
  refine invO_next (keeps_ite h ?_)
  split
  · exact keeps_ite (keeps_modDev (keeps_modLink h)) (keeps_modLink h)
  · exact keeps_ite (keeps_modDev (keeps_modLink h)) (keeps_modLink h)
  · exact h

theorem invO_execLinkDisable {dev : Nat} {n : Fin 18} {s : State} : InvO s (execLinkDisable dev n s) := by
  have h := Keeps.refl s
  exact invO_next (keeps_modLink h)

theorem invO_execLinkTrained {dev : Nat} {n : Fin 18} {spareLane : Bool} {s : State} : InvO s (execLinkTrained dev n spareLane s) := by
  have h := Keeps.refl s
  exact invO_next (keeps_ite h (keeps_ite (keeps_writeHealth (keeps_modDev (keeps_modLink h))) (keeps_modLink h)))

theorem keeps_failCheck {s : State} {dev : Nat} {n : Fin 18} (h : Keeps orig s) : Keeps orig (failCheck s dev n) :=
  keeps_ite (keeps_withdraw h) h

theorem invO_execTrainingFailed {dev : Nat} {n : Fin 18} {s : State} : InvO s (execTrainingFailed dev n s) := by
  have h := Keeps.refl s
  exact invO_next (keeps_ite (keeps_failCheck (keeps_modLink h)) h)

theorem invO_execRetrain {dev : Nat} {n : Fin 18} {s : State} : InvO s (execRetrain dev n s) := by
  have h := Keeps.refl s
  exact invO_next (keeps_ite h (keeps_failCheck (keeps_modLink h)))

theorem invO_execFrameReceive {dev : Nat} {n : Fin 18} {f : Frame} {s : State} : InvO s (execFrameReceive dev n f s) := by
  have h := Keeps.refl s
  exact invO_next (keeps_modLink h)

theorem invO_execNakReceive {dev : Nat} {n : Fin 18} {ack : Nat} {s : State} : InvO s (execNakReceive dev n ack s) := by
  have h := Keeps.refl s
  exact invO_next (keeps_modLink h)

theorem invO_execIdleFrame {dev : Nat} {n : Fin 18} {s : State} : InvO s (execIdleFrame dev n s) := by
  have h := Keeps.refl s
  exact invO_next (keeps_modLink h)

theorem invO_execRekey {dev : Nat} {n : Fin 18} {epoch : W32} {s : State} : InvO s (execRekey dev n epoch s) := by
  have h := Keeps.refl s
  exact invO_next (keeps_ite h (keeps_modLink h))

theorem invO_execRetire {dev : Nat} {n : Fin 18} {s : State} : InvO s (execRetire dev n s) := by
  have h := Keeps.refl s
  exact invO_next (keeps_ite (keeps_modLink h) h)

theorem invO_execOldKeyTimeout {dev : Nat} {n : Fin 18} {s : State} : InvO s (execOldKeyTimeout dev n s) := by
  have h := Keeps.refl s
  refine invO_next ?_
  split
  · exact keeps_ite (keeps_modLink h) h
  · exact h

theorem invO_execEndToEndAck {dev dst : Nat} {cls : Fin 4} {s : State} : InvO s (execEndToEndAck dev dst cls s) := by
  have h := Keeps.refl s
  refine invO_next ?_
  split
  · split
    · exact h
    · exact keeps_ite h h
  · exact h

theorem invO_execLinkDrain {dev : Nat} {n : Fin 18} {s : State} : InvO s (execLinkDrain dev n s) := by
  have h := Keeps.refl s
  exact invO_next (keeps_modLink h)

theorem keeps_routeNowhere {s : State} {dev : Nat} (h : Keeps orig s) : Keeps orig (routeNowhere s dev) :=
  keeps_ite h h

theorem invO_execLinkDrained {dev : Nat} {n : Fin 18} {s : State} : InvO s (execLinkDrained dev n s) := by
  have h := Keeps.refl s
  exact invO_next (keeps_ite (keeps_routeNowhere (keeps_modLink h)) h)

theorem invO_execLinkEncryptionSet {dev : Nat} {n : Fin 18} {on : Bool} {s : State} : InvO s (execLinkEncryptionSet dev n on s) := by
  have h := Keeps.refl s
  exact invO_next (keeps_modLink h)

theorem keeps_physWrite {s : State} {key : Nat} {bs : List Byte} (h : Keeps orig s) : Keeps orig (physWrite s key bs) :=
  (memFrame_fireWatches ..).keeps (keeps_writeBytes (keeps_foldl (fun ht => keeps_foldl (fun h2 => keeps_foldl (fun h3 =>
      (memFrame_stashRecallLine ..).keeps h3) h2) ht) h))

theorem invO_execCensusSnapshot {dev : Nat} {s : State} : InvO s (execCensusSnapshot dev s) := by
  have h := Keeps.refl s
  exact invO_next (keeps_ite h (keeps_modDev (keeps_physWrite ((memFrame_releaseAt ..).keeps (keeps_physWrite h)))))

theorem keeps_loseModule {s : State} {dev : Nat} (h : Keeps orig s) : Keeps orig (loseModule s dev) :=
  keeps_quiesceAll (keeps_modDev (keeps_foldl (fun ht => keeps_modDie (keeps_foldl (fun h2 => keeps_notify h2) ht)) h))

theorem invO_execPeerLoss {dev : Nat} {s : State} : InvO s (execPeerLoss dev s) := by
  have h := Keeps.refl s
  exact invO_next (keeps_ite (keeps_loseModule h) h)

theorem keeps_modPage {s : State} {p : Page} {f : Page → Page} (h : Keeps orig s) : Keeps orig (modPage s p f) :=
  h

theorem keeps_breakPins {s : State} {p : Page} (h : Keeps orig s) : Keeps orig (breakPins s p) :=
  h

theorem invO_execPinLimit {dev : Nat} {va : W64} {s : State} : InvO s (execPinLimit dev va s) := by
  have h := Keeps.refl s
  refine invO_next ?_
  split
  · exact keeps_breakPins h
  · exact h

theorem keeps_dropLeaves {s : State} {p : Page} (h : Keeps orig s) : Keeps orig (dropLeaves s p) :=
  h

/-- A leaf, and the table entries on the way to it, are written into cells in canonical form. -/
theorem memory_wf_writeLeaf {dev : Nat} {va leaf : W64} {ls : List (Nat × Nat)} : ∀ {m m' : List Host.Cell} {kind addr d : Nat} {ts : List W64},
    writeLeaf m dev va leaf kind addr ls d ts = some m' → Memory.wf m = true → Memory.wf m' = true := by
  induction ls with
  | nil =>
    intro m m' kind addr d ts e
    simp only [writeLeaf, reduceCtorEq] at e
  | cons l ls ih =>
    intro m m' kind addr d ts e hm
    cases d with
    | zero =>
      simp only [writeLeaf, Option.some.injEq] at e
      subst e
      exact memory_wf_memWriteBytes _ _ hm
    | succ d =>
      rw [writeLeaf] at e
      generalize keyOf kind dev (addr + va.toNat / 2 ^ l.1 % 2 ^ l.2 * 8) = key at e
      generalize phys64 m key = w at e
      generalize (if w % 4 = 0 then (ts.headD 0).toNat else w) = w1 at e
      have hw : Memory.wf (if w % 4 = 0 then memWriteBytes m key (bytesOf 8 w1) else m) = true := by
        split
        · exact memory_wf_memWriteBytes _ _ hm
        · exact hm
      by_cases hw1 : w1 % 4 ≠ 1
      · simp only [if_pos hw1, reduceCtorEq] at e
      · rw [if_neg hw1] at e
        cases ht : tableOf w1 with
        | none => simp only [ht, reduceCtorEq] at e
        | some ka =>
          simp only [ht] at e
          exact ih e hw

theorem memory_wf_moveCells {m : List Host.Cell} {a b n : Nat} (hm : Memory.wf m = true) : Memory.wf (moveCells m a b n) = true := by
  unfold moveCells
  split
  · exact hm
  · exact memory_wf_foldl (fun _ _ h => memory_wf_memWrite _ _ h) _ (memory_wf_filter _ hm)

/-- A change of cells alone that keeps their canonical form. -/
theorem Keeps.cells {s : State} {m : List Host.Cell} (h : Keeps orig s) (hm : Memory.wf s.mem = true → Memory.wf m = true) :
    Keeps orig { s with mem := m } :=
  h.trans ⟨hm, rfl⟩

theorem keeps_setLeafWord {s : State} {p : Page} {leaf : W64} (h : Keeps orig s) : Keeps orig (setLeafWord s p leaf) := by
  unfold setLeafWord
  split
  · rename_i m e
    exact (keeps_dropLeaves h).cells fun hm => memory_wf_writeLeaf e hm
  · exact h

theorem keeps_pageStatus {s : State} {dev : Nat} {ok : Bool} (h : Keeps orig s) : Keeps orig (pageStatus s dev ok) :=
  h

theorem invO_execMap {dev : Nat} {va : W64} {level : Fin 3} {leaf : W64} {tables : List W64} {s : State} : InvO s (execMap dev va level leaf tables s) := by
  have h := Keeps.refl s
  unfold execMap
  extract_lets log2 base home p clash
  refine invO_next (keeps_ite h (keeps_ite (keeps_pageStatus h) ?_))
  split
  · rename_i m e
    have hm : Keeps s { s with mem := m } := h.cells fun hm => memory_wf_writeLeaf e hm
    exact keeps_pageStatus (hm.same rfl rfl)
  · exact keeps_pageStatus h

theorem keeps_dropHints {s : State} {p : Page} (h : Keeps orig s) : Keeps orig (dropHints s p) := by
  unfold dropHints
  extract_lets mine s1
  have h1 : Keeps orig s1 := keeps_dropLeaves h
  exact h1.same rfl rfl

theorem keeps_dropCopies {s : State} {p : Page} (h : Keeps orig s) : Keeps orig (dropCopies s p) :=
  keeps_foldl (fun ht => (memFrame_guestDrop ..).keeps ht) (keeps_foldl (fun ht => (memFrame_recallOthers ..).keeps ht) h)

theorem keeps_unmapPage {s : State} {p : Page} (h : Keeps orig s) : Keeps orig (unmapPage s p) :=
  Keeps.same (keeps_setLeafWord (keeps_dropHints (keeps_dropCopies h))) rfl rfl

theorem invO_execUnmap {dev : Nat} {va : W64} {s : State} : InvO s (execUnmap dev va s) := by
  have h := Keeps.refl s
  refine invO_next (keeps_ite h ?_)
  split
  · exact keeps_ite (keeps_modPage h) (keeps_ite h (keeps_pageStatus (keeps_unmapPage h)))
  · exact keeps_pageStatus h

theorem keeps_copyFrame {s : State} {p : Page} {leaf : W64} (h : Keeps orig s) : Keeps orig (copyFrame s p leaf) := by
  unfold copyFrame
  split
  · exact h.cells fun hm => memory_wf_moveCells hm
  · exact h

theorem keeps_startMove {s : State} {p : Page} {leaf : W64} {home : Nat} (h : Keeps orig s) : Keeps orig (startMove s p leaf home) :=
  keeps_modPage (keeps_dropHints h)

theorem keeps_migratePage {s : State} {p : Page} {leaf : W64} {home : Nat} (h : Keeps orig s) : Keeps orig (migratePage s p leaf home) :=
  keeps_ite (keeps_pageStatus (keeps_startMove h)) (keeps_pageStatus h)

theorem invO_execMigrate {dev : Nat} {va leaf : W64} {home : Nat} {s : State} : InvO s (execMigrate dev va leaf home s) := by
  have h := Keeps.refl s
  refine invO_next (keeps_ite h ?_)
  split
  · exact keeps_migratePage h
  · exact keeps_pageStatus h

theorem invO_execReplicate {dev : Nat} {va : W64} {frames : List W64} {s : State} : InvO s (execReplicate dev va frames s) := by
  have h := Keeps.refl s
  refine invO_next (keeps_ite h ?_)
  split
  · exact keeps_ite (keeps_pageStatus h) (keeps_ite (keeps_pageStatus (keeps_modPage (keeps_dropHints h))) (keeps_pageStatus h))
  · exact keeps_pageStatus h

theorem invO_execCollapse {dev : Nat} {va : W64} {s : State} : InvO s (execCollapse dev va s) := by
  have h := Keeps.refl s
  refine invO_next (keeps_ite h ?_)
  split
  · split
    · exact keeps_ite h (keeps_pageStatus (keeps_modPage (keeps_setLeafWord (keeps_dropCopies h))))
    · exact keeps_pageStatus h
    · exact keeps_pageStatus h
  · exact keeps_pageStatus h

theorem keeps_moveWatches {s : State} {p : Page} {home : Nat} (h : Keeps orig s) : Keeps orig (moveWatches s p home) :=
  keeps_foldl (fun ht => keeps_ite ((memFrame_fireWatch ..).keeps ht) ht) h

theorem invO_execMigrationDone {dev : Nat} {va : W64} {s : State} : InvO s (execMigrationDone dev va s) := by
  have h := Keeps.refl s
  refine invO_next ?_
  split
  · rename_i p _
    refine keeps_ite h ?_
    have h0 : Keeps s (dropCopies s p) := keeps_dropCopies h
    extract_lets s0
    split
    rename_i s1 q e
    have h1 : Keeps s s1 := keeps_fst e (keeps_fst_ite
      (keeps_setLeafWord (keeps_foldl (fun ht => keeps_copyFrame ht) h0)) (keeps_setLeafWord (keeps_copyFrame h0)))
    exact keeps_ite (keeps_pageStatus (keeps_unmapPage (keeps_moveWatches (keeps_modPage h1)))) (keeps_moveWatches (keeps_modPage h1))
  · exact h

theorem keeps_loseLine {s : State} {dev : Nat} {va leaf : W64} (h : Keeps orig s) : Keeps orig (loseLine s dev va leaf) := by
  unfold loseLine
  split
  · exact h
  · refine keeps_ite h (keeps_foldl (fun ht => (memFrame_fireWatch ..).keeps ht) ?_)
    split
    · exact keeps_ite (keeps_startMove (keeps_modPage h)) (keeps_modPage h)
    · exact keeps_modPage h

theorem keeps_loseSpad {s : State} {flat off : Nat} (h : Keeps orig s) : Keeps orig (loseSpad s flat off) :=
  keeps_foldl (fun ht => (memFrame_fireWatch ..).keeps ht) h

theorem keeps_lineLoss {s : State} {dev : Nat} {va leaf : W64} (h : Keeps orig s) : Keeps orig (lineLoss s dev va leaf) := by
  unfold lineLoss
  split
  · exact keeps_loseSpad h
  · exact keeps_loseLine h

theorem invO_execLineLost {dev : Nat} {va leaf : W64} {s : State} : InvO s (execLineLost dev va leaf s) := by
  have h := Keeps.refl s
  exact invO_next (keeps_lineLoss h)

theorem keeps_noteCorrected {s : State} {dev : Nat} {va : W64} (h : Keeps orig s) : Keeps orig (noteCorrected s dev va) :=
  h

theorem invO_execScrubSweep {dev : Nat} {va : W64} {corrected : Bool} {lost : Option W64} {s : State} : InvO s
    (execScrubSweep dev va corrected lost s) := by
  have h := Keeps.refl s
  refine invO_next ?_
  split
  · exact keeps_ite h (keeps_lineLoss h)
  · exact keeps_ite (keeps_noteCorrected h) h

theorem keeps_applyPolicy {s : State} {p : Page} (h : Keeps orig s) : Keeps orig (applyPolicy s p) := by
  refine keeps_ite ?_ h
  split
  · exact keeps_migratePage h
  · exact h

theorem invO_execHotnessHalving {hv : Halving} {s : State} : InvO s (execHotnessHalving hv s) := by
  unfold execHotnessHalving
  extract_lets dev s0 s1 s2 halve
  have h0 : Keeps s s0 := keeps_modDev (Keeps.refl s)
  clear_value s0
  have h1 : Keeps s s1 := h0.same rfl rfl
  clear_value s1
  have h2 : Keeps s s2 := keeps_ite (keeps_foldl (fun ht => keeps_applyPolicy ht) h1) h1
  clear_value s2
  exact invO_next (h2.same rfl rfl)

theorem invO_execRightsShootdown {domain : Half} {base : W64} {log2 : Nat} {s : State} : InvO s (execRightsShootdown domain base log2 s) := by
  have h := Keeps.refl s
  exact invO_next (keeps_ite h h)

theorem invO_execSpareCoreMap {cl : Nat} {_pos : Fin 16} {s : State} : InvO s (execSpareCoreMap cl _pos s) := by
  have h := Keeps.refl s
  exact invO_next (keeps_ite h (keeps_writeHealth (keeps_modDev (keeps_foldl (fun ht => keeps_releasePart ht) (keeps_modCluster (keeps_foldl
      (fun ht => ht) (keeps_haltCluster h)))))))

theorem invO_execL2WayRetire {flat : Nat} {s : State} : InvO s (execL2WayRetire flat s) := by
  have h := Keeps.refl s
  exact invO_next (keeps_ite h (keeps_writeHealth (keeps_modDev (keeps_foldl (fun ht => (memFrame_guestDrop ..).keeps ht) h))))

theorem invO_execResourceWithdrawal {dev : Nat} {r : Resource} {s : State} : InvO s (execResourceWithdrawal dev r s) := by
  have h := Keeps.refl s
  refine invO_next (keeps_ite h ?_)
  extract_lets
  split
  · split
    · exact keeps_modLink (keeps_withdraw h)
    · exact keeps_withdraw h
  · exact keeps_withdraw h

theorem invO_execHealthRecordWrite {dev : Nat} {s : State} : InvO s (execHealthRecordWrite dev s) := by
  have h := Keeps.refl s
  exact invO_next (keeps_ite (keeps_writeHealth h) h)

theorem keeps_clearDev {s : State} {dev : Nat} (h : Keeps orig s) : Keeps orig (clearDev s dev) :=
  h.trans ⟨fun hm => memory_wf_filter _ hm, rfl⟩

theorem keeps_trainLink {b : BringUp} {dev : Nat} {s : State} {n : Fin 18} (h : Keeps orig s) : Keeps orig (trainLink b dev s n) :=
  keeps_ite h (keeps_ite (keeps_ite (keeps_writeHealth (keeps_modDev (keeps_modLink h))) (keeps_modLink h)) (keeps_withdraw (keeps_modLink h)))

theorem keeps_beginBoot {s : State} {dev : Nat} {b : BringUp} (h : Keeps orig s) : Keeps orig (beginBoot s dev b) :=
  keeps_ite (keeps_modDev (keeps_clearDev h)) (keeps_writeHealth (keeps_modDev (keeps_clearDev h)))

theorem keeps_finishBoot {s : State} {dev : Nat} {b : BringUp} (h : Keeps orig s) : Keeps orig (finishBoot s dev b) := by
  unfold finishBoot
  extract_lets ready
  exact keeps_modDev (keeps_foldl (fun ht => keeps_trainLink ht) h)

theorem invO_execModuleReset {dev : Nat} {b : BringUp} {s : State} : InvO s (execModuleReset dev b s) := by
  have h := Keeps.refl s
  exact invO_next (keeps_ite h (keeps_ite (keeps_finishBoot h) (keeps_beginBoot h)))

theorem invO_execPowerOff {dev : Nat} {s : State} : InvO s (execPowerOff dev s) := by
  have h := Keeps.refl s
  exact invO_next (keeps_clearDev h)

theorem invO_execFirmwareUpdate {dev image : Nat} {s : State} : InvO s (execFirmwareUpdate dev image s) := by
  have h := Keeps.refl s
  exact invO_next h

theorem keeps_evictAround {s : State} {flat c : Nat} (h : Keeps orig s) : Keeps orig (evictAround s flat c) :=
  keeps_tablaPartGone (keeps_withdrawColls (keeps_abortContext h))

theorem keeps_evictPart {s : State} {k : Nat} (h : Keeps orig s) : Keeps orig (evictPart s k) :=
  keeps_ite h (keeps_unselect (keeps_modPart (keeps_returnTokens (keeps_ite (keeps_releaseFollowers (keeps_evictAround h)) (keeps_evictAround h)))))

theorem keeps_evictAway {s : State} {flat c : Nat} (h : Keeps orig s) : Keeps orig (evictAway s flat c) :=
  keeps_ite h (Keeps.same (keeps_evictAround h) rfl rfl)

theorem keeps_evictAll {s : State} {dev : Nat} (h : Keeps orig s) : Keeps orig (evictAll s dev) :=
  keeps_foldl (fun ht => keeps_evictAway ht) (keeps_foldl (fun ht => keeps_evictPart ht) h)

theorem keeps_moveQueue {dev to_ : Nat} {s : State} {q : Nat × HostQ} (h : Keeps orig s) : Keeps orig (moveQueue dev to_ s q) := by
  unfold moveQueue
  extract_lets
  split <;> exact h

theorem keeps_moveQueues {s : State} {dev to_ : Nat} (h : Keeps orig s) : Keeps orig (moveQueues s dev to_) :=
  keeps_foldl (fun ht => keeps_moveQueue ht) h

theorem keeps_evictGo {s : State} {dev ord : Nat} (h : Keeps orig s) : Keeps orig (evictGo s dev ord) :=
  keeps_ite h (keeps_evictAll (keeps_moveQueues h))

theorem keeps_evictFails {s : State} {dev : Nat} (h : Keeps orig s) : Keeps orig (evictFails s dev) := by
  unfold evictFails
  extract_lets sent back s1 s2
  have h1 : Keeps orig s1 := keeps_foldl (fun ht => keeps_drainInbox (keeps_ite (keeps_modPart ht) (keeps_sendRequests (keeps_modPart ht)))) h
  clear_value s1
  have h2 : Keeps orig s2 := h1.same rfl rfl
  clear_value s2
  exact keeps_modDev h2

theorem keeps_evictAbort {s : State} {dev : Nat} (h : Keeps orig s) : Keeps orig (evictAbort s dev) := by
  unfold evictAbort
  split
  · exact keeps_evictFails h
  · exact h
  · exact h
  · exact h

theorem keeps_renameCore {s : State} {c src dst : Nat} (h : Keeps orig s) : Keeps orig (renameCore s c src dst) := by
  unfold renameCore
  extract_lets ctx ranges mem lost flat home msg pending s1 s1a s2 moved
  have hm : Keeps orig { s with mem } := h.cells fun hm => memory_wf_foldl (fun _ _ h => memory_wf_moveCells h) _ hm
  have h1 : Keeps orig s1 := hm.same rfl rfl
  clear_value s1
  have h1a : Keeps orig s1a := keeps_modCore (keeps_modCore h1)
  clear_value s1a
  have h2 : Keeps orig s2 := keeps_modCtx h1a
  clear_value s2
  exact h2.same rfl rfl

theorem keeps_renameCluster {s : State} {c src dst : Nat} (h : Keeps orig s) : Keeps orig (renameCluster s c src dst) := by
  unfold renameCluster
  extract_lets here g mineR mineL x s1 s2 cl wait s3
  have h2 : Keeps orig s2 := keeps_modCluster (keeps_modCluster h)
  clear_value s2
  have h3 : Keeps orig s3 := h2.same rfl rfl
  clear_value s3
  exact keeps_ite h (keeps_modCtx h3)

theorem keeps_arrive_ {s : State} {c src dst : Nat} (h : Keeps orig s) : Keeps orig (arrive_ s c src dst) := by
  unfold arrive_
  extract_lets mail fits
  split
  · refine keeps_ite (keeps_evictPart h) (keeps_ite h ?_)
    split
    rename_i s1 p e
    have h1 : Keeps orig s1 := keeps_fst e (keeps_capture h)
    exact keeps_renameCluster (keeps_placePart (keeps_renameCore h1))
  · split
    · rename_i a _
      refine keeps_ite (keeps_evictAway h) (keeps_ite h ?_)
      extract_lets _ p s1
      have h1 : Keeps orig s1 := keeps_ite h (keeps_modCore h)
      clear_value s1
      refine keeps_renameCluster (keeps_renameCore ?_)
      exact h1.same rfl rfl
    · exact h
  · exact h

theorem invO_execEvictionTransferDone {ctx src dst : Nat} {s : State} : InvO s (execEvictionTransferDone ctx src dst s) := by
  have h := Keeps.refl s
  exact invO_next (keeps_ite h (keeps_ite (keeps_modDev (keeps_arrive_ h)) (keeps_arrive_ h)))

theorem invO_execEvictGo {dev ord : Nat} {s : State} : InvO s (execEvictGo dev ord s) := by
  have h := Keeps.refl s
  exact invO_next (keeps_evictGo h)

theorem invO_execEvictAbort {dev : Nat} {s : State} : InvO s (execEvictAbort dev s) := by
  have h := Keeps.refl s
  exact invO_next (keeps_evictAbort h)

theorem invO_execEvictTimeout {dev : Nat} {s : State} : InvO s (execEvictTimeout dev s) := by
  have h := Keeps.refl s
  exact invO_next (keeps_ite (keeps_evictFails h) h)

/-- Where an optional state goes on, step by step, each step keeps what the one before has kept. -/
theorem keepsO_foldl {β : Type} {f : Option State → β → Option State} {l : List β} (hf : ∀ {o b}, KeepsOpt orig o → KeepsOpt orig (f o b)) {o : Option State}
    (h : KeepsOpt orig o) : KeepsOpt orig (l.foldl f o) := by
  induction l generalizing o with
  | nil => exact h
  | cons b l ih => exact ih (hf h)

theorem keepsO_carryRest {s : State} {dev to_ : Nat} (h : Keeps orig s) : KeepsOpt orig (carryRest s dev to_) := by
  unfold carryRest
  extract_lets one here
  refine keepsO_foldl (fun {o b} ho => ?_) (keepsO_some h)
  intro t e
  obtain ⟨u, hu, e⟩ := Option.bind_eq_some_iff.mp e
  obtain ⟨i, -, rfl⟩ := Option.map_eq_some_iff.mp e
  exact keeps_renameCluster (ho u hu)

theorem invO_execEvictReleased {dev : Nat} {s : State} : InvO s (execEvictReleased dev s) := by
  have h := Keeps.refl s
  unfold execEvictReleased
  extract_lets d coming empty free re
  refine invO_next (keeps_ite ?_ h)
  split
  · rename_i s0 e
    have h0 : Keeps s s0 := keepsO_carryRest h s0 e
    extract_lets s1
    have h1 : Keeps s s1 := keeps_modDev h0
    exact h1.same rfl rfl
  · exact h

theorem invO_execLatchOpened {dev : Nat} {s : State} : InvO s (execLatchOpened dev s) := by
  have h := Keeps.refl s
  exact invO_next (keeps_ite h (keeps_modDev (keeps_loseModule h)))

theorem keeps_mgmtRejects {s : State} {dev : Nat} (h : Keeps orig s) : Keeps orig (mgmtRejects s dev) :=
  h

theorem keeps_pcapWrite {s : State} {dev v : Nat} (h : Keeps orig s) : Keeps orig (pcapWrite s dev v) :=
  keeps_ite h (keeps_mgmtRejects h)

theorem keeps_freezeDev {s : State} {dev : Nat} (h : Keeps orig s) : Keeps orig (freezeDev s dev) := by
  unfold freezeDev
  extract_lets s1
  have h1 : Keeps orig s1 := keeps_ite (keeps_loseModule h) h
  clear_value s1
  exact h1.same rfl rfl

theorem invO_execPcapWrite {dev : Nat} {value : W32} {s : State} : InvO s (execPcapWrite dev value s) := by
  have h := Keeps.refl s
  exact invO_next (keeps_pcapWrite h)

theorem invO_execFreeze {dev : Nat} {s : State} : InvO s (execFreeze dev s) := by
  have h := Keeps.refl s
  exact invO_next (keeps_freezeDev h)

theorem invO_execMgmtRegWrite {dev : Nat} {offset value : W32} {s : State} : InvO s (execMgmtRegWrite dev offset value s) := by
  have h := Keeps.refl s
  refine invO_next ?_
  split
  · exact keeps_pcapWrite h
  · exact h
  · exact keeps_ite h (keeps_mgmtRejects h)
  · exact keeps_ite (keeps_mgmtRejects h) (keeps_ite (keeps_ite (keeps_mgmtRejects h) (keeps_modDev (keeps_evictGo h))) (keeps_modDev (keeps_ite
      (keeps_evictAbort h) h)))
  · exact keeps_ite (keeps_freezeDev h) h
  · exact keeps_mgmtRejects h
end

end Sys2Proof.Machine
end

section
/-! PROOFS. Every step keeps the canonical form of memory (R169): the scheduler, the fetch port and what control finds, the dispatch, the step. -/

namespace Sys2Proof.Machine
open Sys2Proof

section
variable {orig : State}

/-! ## A cc of a core's scheduler -/

theorem keeps_notChosen {t s : State} {k : Nat} (h : Keeps orig s) : Keeps orig (notChosen t s k) := by
  unfold notChosen
  extract_lets p
  refine keeps_ite (keeps_perf h) (keeps_ite (keeps_perf h) (keeps_ite (keeps_perf h) (keeps_ite (keeps_perf ?_) h)))
  exact h.same rfl rfl

theorem keeps_ccPassed {t s : State} {flat : Nat} {issued : Option Nat} (h : Keeps orig s) : Keeps orig (ccPassed t s flat issued) :=
  keeps_foldl (fun ht => keeps_modPart ht) (keeps_foldl (fun ht => keeps_ite ht (keeps_notChosen ht)) h)

/-- A cc in which nothing issues leaves memory; the core that acted last is now this one. -/
theorem inv_idleCc {s : State} {flat : Nat} (h : Inv s) : Inv (idleCc s flat) := by
  have hn : Keeps s (noteRun (ccPassed s s flat none) flat 4) := keeps_noteRun (keeps_ccPassed (Keeps.refl s))
  exact hn.1 h

theorem inv_selectNow {s : State} {flat : Nat} {pick : Option Nat} (h : Inv s) : Inv (selectNow s flat pick) := by
  cases pick with
  | none => exact inv_idleCc h
  | some q => exact h

theorem inv_ccEnds {t s : State} {k : Nat} (h : Inv s) : Inv (ccEnds t s k) := by
  unfold ccEnds
  extract_lets flat s1
  have h1 : Keeps s s1 := keeps_ccPassed (keeps_noteRun (Keeps.refl s))
  clear_value s1
  split
  · exact h
  · split
    · exact inv_selectNow h
    · exact (keeps_ite h1 (keeps_modCore h1)).1 h

theorem keeps_alignLook {s : State} {k : Nat} (h : Keeps orig s) : Keeps orig (alignLook s k) := by
  unfold alignLook
  split
  · refine keeps_ite ?_ h
    exact h.same rfl rfl
  · exact h

theorem keeps_coreCc {s : State} {flat : Nat} (h : Keeps orig s) : Keeps orig (coreCc s flat) :=
  keeps_foldl (fun ht => keeps_alignLook ht) (keeps_foldl (fun ht => keeps_spillOn (keeps_reap ht)) h)

theorem invO_execIssueSelect {flat : Nat} {s : State} : InvO s (execIssueSelect flat s) := by
  intro t e hs
  cases e
  split
  · exact hs
  · exact inv_selectNow ((keeps_coreCc (Keeps.refl s)).1 hs)

theorem invO_execTwillForwardIssue {k : Nat} {s : State} : InvO s (execTwillForwardIssue k s) := by
  unfold execTwillForwardIssue
  extract_lets s1 p
  have h1 : Keeps s s1 := keeps_coreCc (Keeps.refl s)
  clear_value s1
  intro t e hs
  cases e
  split
  · exact inv_selectNow (h1.1 hs)
  · exact hs

/-! ## The fetch port, and what control finds -/

theorem invO_execFetchLine {cl : Nat} {s : State} : InvO s (execFetchLine cl s) := by
  have h := Keeps.refl s
  refine invO_next ?_
  split
  · exact h
  · extract_lets dom s1
    have h1 : Keeps s s1 := (memFrame_hotLoad ..).keeps ((memFrame_recallOthers ..).keeps (h.same rfl rfl))
    clear_value s1
    exact keeps_foldl (fun ht => keeps_foldl (fun h2 => keeps_ite (keeps_setPart h2) h2) ht) h1

theorem keeps_illegalAt {s : State} {k reason : Nat} (h : Keeps orig s) : Keeps orig (illegalAt s k reason) :=
  keeps_takeTrap h

theorem keepsO_boundary {s : State} {k : Nat} (h : Keeps orig s) : KeepsOpt orig (boundary s k) := by
  unfold boundary
  extract_lets p woken
  split
  · exact keepsO_none
  · split
    · exact keepsO_some (keeps_enterCheckpoint h)
    · split
      · split
        rename_i n _ s1 slot e
        have h1 : Keeps orig s1 := keeps_fst e ((memFrame_mcheckWrite ..).keeps h)
        exact keepsO_some (keeps_takeTrap (keeps_modPart h1))
      · split
        · exact keepsO_none
        · intro t e
          obtain ⟨v, -, rfl⟩ := Option.map_eq_some_iff.mp e
          exact keeps_breakAct h

theorem keeps_takeForward {s : State} {k : Nat} (h : Keeps orig s) : Keeps orig (takeForward s k) :=
  keeps_ite h (keeps_modPart h)

theorem invO_execBreakpoint {k : Nat} {s : State} : InvO s (execBreakpoint k s) := by
  have h := Keeps.refl s
  refine invO_next (keeps_ite ?_ h)
  split
  · exact keeps_breakAct (keeps_takeForward h)
  · exact h

/-- What the check of a line leaves, where it faults and where it does not. -/
def KeepsEx (orig : State) : Except State State → Prop
  | .ok t => Keeps orig t
  | .error t => Keeps orig t

theorem keepsEx_fetchFault {s : State} {k : Nat} {l : FLine} (h : Keeps orig s) : KeepsEx orig (fetchFault s k l) := by
  unfold fetchFault
  extract_lets pc
  split
  · exact keeps_takeTrap (keeps_modCore h)
  · rename_i s1 e1
    have h1 : Keeps orig s1 := (memFrame_checkRightsPiece e1).keeps h
    split
    · exact h1
    · split
      · exact keeps_ite (keeps_stopped h1) (keeps_pageFault h1)
      · rename_i s2 e2
        have h2 : Keeps orig s2 := (memFrame_checkPresentPiece e2).keeps h1
        split
        · exact keeps_lostTrap h2
        · refine Keeps.same (s := s2) h2 ?_ ?_ <;> rfl

/-- The state that an outcome of the fetch holds. -/
def Fetched.state : Fetched → State
  | .ended t => t
  | .run _ t => t

theorem inv_fetchNow {s : State} {k : Nat} (h : Inv s) : Inv (fetchAt.fetchNow s k).state := by
  unfold fetchAt.fetchNow
  extract_lets s1 p _
  have h1 : Inv s1 := (keeps_takeForward (Keeps.refl { s with cur := k })).1 h
  clear_value s1
  have hs := Keeps.refl s1
  split
  · rename_i t e
    exact (keepsO_boundary hs t e).1 h1
  · split
    · exact h1
    · split
      · exact h1
      · split
        · exact h1
        · rename_i l _
          have hf := keepsEx_fetchFault (k := k) (l := l) hs
          split
          · rename_i t e
            rw [e] at hf
            exact hf.1 h1
          · rename_i t e
            rw [e] at hf
            split
            · exact (keeps_illegalAt hf).1 h1
            · exact hf.1 h1
            · exact hf.1 h1

theorem inv_fetchAt {s : State} {k : Nat} (h : Inv s) : Inv (fetchAt s k).state := by
  have hn := inv_fetchNow (k := k) h
  unfold fetchAt
  split
  · rename_i t e
    rw [e] at hn
    exact inv_ccEnds hn
  · exact hn

/-! ## After an instruction -/

theorem keeps_forward {before s : State} {i : Instr} {k : Nat} (h : Keeps orig s) : Keeps orig (forward before i k s) := by
  unfold forward
  extract_lets p f s1
  have h1 : Keeps orig s1 := keeps_foldl (fun ht => keeps_modPart ht) h
  clear_value s1
  exact keeps_ite h (keeps_foldl (fun ht => keeps_ite (keeps_modPart (keeps_modPart ht)) ht) h1)

theorem inv_afterIssue {before s : State} {i : Instr} {k : Nat} (h : Inv s) : Inv (afterIssue before i k s) := by
  refine inv_ccEnds ?_
  split
  · exact (keeps_ite (keeps_modPart (Keeps.refl s)) (Keeps.refl s)).1 h
  · exact (keeps_forward (Keeps.refl s)).1 h

theorem inv_touched {i : Instr} {s : State} (h : Inv s) : Inv (touched i s) := by
  unfold touched
  split
  · exact h
  · exact h
  · exact h
end

/-! ## The dispatch -/

/-- Whatever an instruction or an event does, it keeps the canonical form of memory. -/
theorem invO_exec (i : Instr) (s : State) : InvO s (exec i s) := by
  cases i with
  | lineEnd => exact invO_execLineEnd
  | nop h => exact invO_execNop
  | nopPred h q => exact invO_execNopPred
  | exit h => exact invO_execExit
  | exitPred h q => exact invO_execExitPred
  | yield h => exact invO_execYield
  | yieldPred h q => exact invO_execYieldPred
  | unfollow h => exact invO_execUnfollow
  | unfollowPred h q => exact invO_execUnfollowPred
  | bra h o => exact invO_execBra
  | call h o => exact invO_execCall
  | loop h o => exact invO_execLoop
  | jmpi h o => exact invO_execJmpi
  | ret h => exact invO_execRet
  | align h o => exact invO_execAlign
  | follow h o => exact invO_execFollow
  | add h o => exact invO_execAdd
  | sub h o => exact invO_execSub
  | mul h o => exact invO_execMul
  | mulh h o => exact invO_execMulh
  | div h o => exact invO_execDiv
  | rem h o => exact invO_execRem
  | min h o => exact invO_execMin
  | max h o => exact invO_execMax
  | mulhN h o => exact invO_execMulhN
  | divN h o => exact invO_execDivN
  | remN h o => exact invO_execRemN
  | minN h o => exact invO_execMinN
  | maxN h o => exact invO_execMaxN
  | and h o => exact invO_execAnd
  | or h o => exact invO_execOr
  | xor h o => exact invO_execXor
  | andn h o => exact invO_execAndn
  | shl h o => exact invO_execShl
  | shr h o => exact invO_execShr
  | sar h o => exact invO_execSar
  | clz h o => exact invO_execClz
  | popc h o => exact invO_execPopc
  | mov h o => exact invO_execMov
  | cmp h c o => exact invO_execCmp
  | pand h o => exact invO_execPand
  | por h o => exact invO_execPor
  | pxor h o => exact invO_execPxor
  | pnot h o => exact invO_execPnot
  | pmov h o => exact invO_execPmov
  | trap h o => exact invO_execTrap
  | trapret h o => exact invO_execTrapret
  | upret h o => exact invO_execUpret
  | chkpt h o => exact invO_execChkpt
  | fibset h o => exact invO_execFibset
  | li h o => exact invO_execLi
  | lih h o => exact invO_execLih
  | mfs h o => exact invO_execMfs
  | mts h o => exact invO_execMts
  | bfx h o => exact invO_execBfx
  | bfi h o => exact invO_execBfi
  | sel h o => exact invO_execSel
  | fadd h o => exact invO_execFadd
  | fsub h o => exact invO_execFsub
  | fmul h o => exact invO_execFmul
  | fma h o => exact invO_execFma
  | fdiv h o => exact invO_execFdiv
  | fsqrt h o => exact invO_execFsqrt
  | fmin h o => exact invO_execFmin
  | fmax h o => exact invO_execFmax
  | fcmp h c o => exact invO_execFcmp
  | fcvt h o => exact invO_execFcvt
  | vadd h o => exact invO_execVadd
  | vsub h o => exact invO_execVsub
  | vmul h o => exact invO_execVmul
  | vmad h o => exact invO_execVmad
  | vmin h o => exact invO_execVmin
  | vmax h o => exact invO_execVmax
  | vabs h o => exact invO_execVabs
  | vand h o => exact invO_execVand
  | vor h o => exact invO_execVor
  | vxor h o => exact invO_execVxor
  | vshl h o => exact invO_execVshl
  | vshr h o => exact invO_execVshr
  | vsar h o => exact invO_execVsar
  | vcmp h c o => exact invO_execVcmp
  | vmov h o => exact invO_execVmov
  | vbcast h o => exact invO_execVbcast
  | vsel h o => exact invO_execVsel
  | vcvt h o => exact invO_execVcvt
  | vperm h o => exact invO_execVperm
  | vred h o => exact invO_execVred
  | vscan h o => exact invO_execVscan
  | vext h o => exact invO_execVext
  | vins h o => exact invO_execVins
  | vcomp h o => exact invO_execVcomp
  | vexpd h o => exact invO_execVexpd
  | vfadd h o => exact invO_execVfadd
  | vfsub h o => exact invO_execVfsub
  | vfmul h o => exact invO_execVfmul
  | vfma h o => exact invO_execVfma
  | vfmin h o => exact invO_execVfmin
  | vfmax h o => exact invO_execVfmax
  | vfcmp h c o => exact invO_execVfcmp
  | vrcp h o => exact invO_execVrcp
  | vrsq h o => exact invO_execVrsq
  | vexp2 h o => exact invO_execVexp2
  | vlog2 h o => exact invO_execVlog2
  | ld h o => exact invO_execLd
  | st h o => exact invO_execSt
  | vld h o => exact invO_execVld
  | vst h o => exact invO_execVst
  | vgath h o => exact invO_execVgath
  | vscat h o => exact invO_execVscat
  | fence h o => exact invO_execFence
  | pref h o => exact invO_execPref
  | amoAdd h o => exact invO_execAmoAdd
  | amoAnd h o => exact invO_execAmoAnd
  | amoOr h o => exact invO_execAmoOr
  | amoXor h o => exact invO_execAmoXor
  | amoMin h o => exact invO_execAmoMin
  | amoMax h o => exact invO_execAmoMax
  | amoMinn h o => exact invO_execAmoMinn
  | amoMaxn h o => exact invO_execAmoMaxn
  | amoSwap h o => exact invO_execAmoSwap
  | amoFadd h o => exact invO_execAmoFadd
  | cas h o => exact invO_execCas
  | stm h o => exact invO_execStm
  | stred h o => exact invO_execStred
  | sbind h o => exact invO_execSbind
  | sbindx h o => exact invO_execSbindx
  | sdone h o => exact invO_execSdone
  | sskip h o => exact invO_execSskip
  | sstat h o => exact invO_execSstat
  | stash h o => exact invO_execStash
  | unstash h o => exact invO_execUnstash
  | flush h o => exact invO_execFlush
  | mload h o => exact invO_execMload
  | mswap h o => exact invO_execMswap (_o := o)
  | mzero h o => exact invO_execMzero
  | mdrain h o => exact invO_execMdrain
  | mmul h pair o => exact invO_execMmul
  | mmuls h pair o => exact invO_execMmuls
  | mpri h o => exact invO_execMpri
  | mfence h o => exact invO_execMfence (_o := o)
  | mstat h o => exact invO_execMstat
  | bscaleBlk h o => exact invO_execBscaleBlk
  | bscaleAmax h o => exact invO_execBscaleAmax
  | bscaleBand h o => exact invO_execBscaleBand
  | qnt h o => exact invO_execQnt
  | dqnt h o => exact invO_execDqnt
  | qsplit h o => exact invO_execQsplit
  | spcomp h o => exact invO_execSpcomp
  | spchk h o => exact invO_execSpchk
  | evsig h o => exact invO_execEvsig
  | evwait h o => exact invO_execEvwait
  | evclr h o => exact invO_execEvclr
  | bararr h o => exact invO_execBararr
  | bararrInit h o => exact invO_execBararrInit
  | bararrFree h o => exact invO_execBararrFree
  | barwait h o => exact invO_execBarwait
  | watch h o => exact invO_execWatch
  | watchX h o => exact invO_execWatchX
  | wfe h o => exact invO_execWfe
  | sev h o => exact invO_execSev
  | xbsetCtr h o => exact invO_execXbsetCtr
  | xbsetTerm h o => exact invO_execXbsetTerm
  | xbsetTimer h o => exact invO_execXbsetTimer
  | xbsetReset h o => exact invO_execXbsetReset
  | launch h o => exact invO_execLaunch
  | cntadd h o => exact invO_execCntadd
  | cancel h o => exact invO_execCancel
  | clkreq h o => exact invO_execClkreq
  | pop h o => exact invO_execPop
  | pushw h o => exact invO_execPushw
  | qclose h o => exact invO_execQclose
  | amsg h o => exact invO_execAmsg
  | amret h o => exact invO_execAmret
  | amwait h o => exact invO_execAmwait
  | cpy h o => exact invO_execCpy
  | cpytry h o => exact invO_execCpytry
  | cpywait h o => exact invO_execCpywait
  | mcfill h o => exact invO_execMcfill
  | mcfillPark h o => exact invO_execMcfillPark
  | mcdrain h o => exact invO_execMcdrain
  | mbxpop h o => exact invO_execMbxpop
  | rput h o => exact invO_execRput
  | grantp h o => exact invO_execGrantp
  | rcancel h o => exact invO_execRcancel
  | etinit h o => exact invO_execEtinit
  | etinitFree h o => exact invO_execEtinitFree
  | eloadv h o => exact invO_execEloadv
  | eset h o => exact invO_execEset
  | eadd h o => exact invO_execEadd
  | eget h o => exact invO_execEget
  | esum h o => exact invO_execEsum
  | enext h o => exact invO_execEnext
  | eseed h o => exact invO_execEseed
  | etab h o => exact invO_execEtab
  | eclk h o => exact invO_execEclk
  | eclkSet h o => exact invO_execEclkSet
  | tsend h o => exact invO_execTsend
  | tend h o => exact invO_execTend
  | tabort h o => exact invO_execTabort
  | tgvt h o => exact invO_execTgvt
  | tkey h o => exact invO_execTkey
  | twait h o => exact invO_execTwait
  | gpost h o => exact invO_execGpost
  | gwait h o => exact invO_execGwait
  | gtkt h o => exact invO_execGtkt
  | gcancel h o => exact invO_execGcancel
  | gstat h o => exact invO_execGstat
  | bkpt h o => exact invO_execBkpt
  | trace h o => exact invO_execTrace
  | perfRd h o => exact invO_execPerfRd
  | perfCfg h o => exact invO_execPerfCfg
  | perfClr h o => exact invO_execPerfClr
  | rmark h o => exact invO_execRmark
  | alignWindowExpiry k => exact invO_execAlignWindowExpiry
  | joinWindowExpiry k => exact invO_execJoinWindowExpiry
  | twillForwardIssue k => exact invO_execTwillForwardIssue
  | issueSelect flat => exact invO_execIssueSelect
  | fetchLine cl => exact invO_execFetchLine
  | storePerformed flat => exact invO_execStorePerformed
  | destCheckAtHome flat => exact invO_execDestCheckAtHome
  | errorRecordReserve ctx record => exact invO_execErrorRecordReserve
  | streamServe k r => exact invO_execStreamServe
  | streamFault k r => exact invO_execStreamFault
  | stashRecall k va => exact invO_execStashRecall
  | guestCopyExpiry dk line => exact invO_execGuestCopyExpiry
  | planeLoadStart mu => exact invO_execPlaneLoadStart
  | planeLoadDone mu => exact invO_execPlaneLoadDone
  | arbiterGrant mu => exact invO_execArbiterGrant
  | kstepBoundary mu => exact invO_execKstepBoundary
  | lastRow mu => exact invO_execLastRow
  | matrixRetire mu => exact invO_execMatrixRetire
  | matrixFault mu row why => exact invO_execMatrixFault
  | matrixAgeing mu pos => exact invO_execMatrixAgeing (_pos := pos)
  | columnRemap mu => exact invO_execColumnRemap
  | evwaitTimeout k => exact invO_execEvwaitTimeout
  | watchPoll dk => exact invO_execWatchPoll
  | wfeTimeout k => exact invO_execWfeTimeout
  | damaskTermFire k => exact invO_execDamaskTermFire
  | damaskTimer k => exact invO_execDamaskTimer
  | unitStart launch unit => exact invO_execUnitStart
  | unitWithdrawn launch flat => exact invO_execUnitWithdrawn
  | counterAdd => exact invO_execCounterAdd
  | grantChange dev => exact invO_execGrantChange
  | tailWrite dev conn offset size value => exact invO_execTailWrite
  | packetRead dev q => exact invO_execPacketRead
  | holdEnds dev q => exact invO_execHoldEnds
  | packetComplete dev q idx => exact invO_execPacketComplete
  | queueStop dev q => exact invO_execQueueStop
  | queueResume dev q rdidx => exact invO_execQueueResume
  | leaseRenew dev die => exact invO_execLeaseRenew
  | leaseTakeover dev die => exact invO_execLeaseTakeover
  | messageArrival n => exact invO_execMessageArrival
  | handlerStart flat => exact invO_execHandlerStart
  | htimeout flat => exact invO_execHtimeout
  | replyArrival n => exact invO_execReplyArrival
  | bounce n => exact invO_execBounce
  | copyStart k ch => exact invO_execCopyStart
  | copyDone k ch => exact invO_execCopyDone
  | copyFault k ch => exact invO_execCopyFault
  | hbFillEnd cl slot => exact invO_execHbFillEnd
  | transferAnnounce k id => exact invO_execTransferAnnounce
  | tokenGrant dk => exact invO_execTokenGrant
  | tokenArrival k id => exact invO_execTokenArrival
  | tablaAgeing dk entry => exact invO_execTablaAgeing (_dk := dk) (_entry := entry)
  | tokenExpiry dk entry => exact invO_execTokenExpiry
  | keepalive k id => exact invO_execKeepalive
  | reclaim dk entry => exact invO_execReclaim
  | reclaimNotice k id => exact invO_execReclaimNotice
  | transferComplete k id => exact invO_execTransferComplete
  | transferFault k id => exact invO_execTransferFault
  | expiryNotice k id => exact invO_execExpiryNotice
  | transferSendDone k id => exact invO_execTransferSendDone
  | taskArrival n => exact invO_execTaskArrival
  | taskDispatch k => exact invO_execTaskDispatch
  | gvtRound ctx => exact invO_execGvtRound
  | groupCreate gid ctx members coord plane => exact invO_execGroupCreate
  | groupDestroy gid => exact invO_execGroupDestroy
  | ticketIssue gid seq => exact invO_execTicketIssue
  | ticketArrival dev gid seq => exact invO_execTicketArrival
  | horizonBeacon dev coord => exact invO_execHorizonBeacon
  | collectiveAdmit dev => exact invO_execCollectiveAdmit
  | collectiveFinish dev gid seq => exact invO_execCollectiveFinish
  | collectiveWithdraw gid seq => exact invO_execCollectiveWithdraw
  | cancelNotice dev gid seq => exact invO_execCancelNotice
  | abandonNotice dev gid seq => exact invO_execAbandonNotice
  | mismatchNotice dev gid seq => exact invO_execMismatchNotice
  | ticketAgeBreach dev gid seq => exact invO_execTicketAgeBreach
  | breakpoint k => exact invO_execBreakpoint
  | crossTriggerHalt cl package => exact invO_execCrossTriggerHalt
  | debugRelease cl => exact invO_execDebugRelease
  | issueLogFreed cl n => exact invO_execIssueLogFreed
  | replayModeSet cl mode log => exact invO_execReplayModeSet
  | admitPart flat ctx => exact invO_execAdmitPart
  | preempt k => exact invO_execPreempt
  | resume k => exact invO_execResume
  | spill k => exact invO_execSpill
  | restore flat ctx => exact invO_execRestore
  | halt k => exact invO_execHalt
  | release k => exact invO_execRelease
  | liveDump ctx => exact invO_execLiveDump
  | quiesce q => exact invO_execQuiesce
  | checkpoint k => exact invO_execCheckpoint
  | quiesceWithdraw rebuild => exact invO_execQuiesceWithdraw
  | checkpointLimit k => exact invO_execCheckpointLimit
  | evictionTransferDone ctx src dst => exact invO_execEvictionTransferDone
  | destroy ctx flat => exact invO_execDestroy
  | asyncMcheck k => exact invO_execAsyncMcheck
  | contextCreate c => exact invO_execContextCreate
  | map dev va level leaf tables => exact invO_execMap (dev := dev) (va := va) (level := level) (leaf := leaf) (tables := tables) (s := s)
  | unmap dev va => exact invO_execUnmap
  | migrate dev va leaf home => exact invO_execMigrate
  | replicate dev va frames => exact invO_execReplicate
  | collapse dev va => exact invO_execCollapse
  | migrationDone dev va => exact invO_execMigrationDone
  | lineLost dev va leaf => exact invO_execLineLost
  | pinLimit dev va => exact invO_execPinLimit
  | hotnessHalving h => exact invO_execHotnessHalving
  | rightsShootdown domain base log2 => exact invO_execRightsShootdown
  | spareCoreMap cl pos => exact invO_execSpareCoreMap (_pos := pos)
  | l2WayRetire flat => exact invO_execL2WayRetire
  | scrubSweep dev va corrected lost => exact invO_execScrubSweep
  | resourceWithdrawal dev r => exact invO_execResourceWithdrawal
  | linkEnable dev n => exact invO_execLinkEnable
  | linkDisable dev n => exact invO_execLinkDisable
  | linkTrained dev n spareLane => exact invO_execLinkTrained
  | trainingFailed dev n => exact invO_execTrainingFailed
  | retrain dev n => exact invO_execRetrain
  | frameReceive dev n f => exact invO_execFrameReceive
  | nakReceive dev n ack => exact invO_execNakReceive
  | idleFrame dev n => exact invO_execIdleFrame
  | rekey dev n epoch => exact invO_execRekey
  | retire dev n => exact invO_execRetire
  | oldKeyTimeout dev n => exact invO_execOldKeyTimeout
  | endToEndAck dev dst cls => exact invO_execEndToEndAck
  | linkDrain dev n => exact invO_execLinkDrain
  | linkDrained dev n => exact invO_execLinkDrained
  | linkEncryptionSet dev n on => exact invO_execLinkEncryptionSet
  | censusSnapshot dev => exact invO_execCensusSnapshot
  | peerLoss dev => exact invO_execPeerLoss
  | moduleReset dev b => exact invO_execModuleReset
  | mgmtRegWrite dev offset value => exact invO_execMgmtRegWrite
  | pcapWrite dev value => exact invO_execPcapWrite
  | evictGo dev ord => exact invO_execEvictGo
  | evictAbort dev => exact invO_execEvictAbort
  | evictTimeout dev => exact invO_execEvictTimeout
  | evictReleased dev => exact invO_execEvictReleased
  | latchOpened dev => exact invO_execLatchOpened
  | freeze dev => exact invO_execFreeze
  | leaseLapse dev => exact invO_execLeaseLapse
  | healthRecordWrite dev => exact invO_execHealthRecordWrite
  | firmwareUpdate dev image => exact invO_execFirmwareUpdate
  | powerOff dev => exact invO_execPowerOff

/-- Settles O59: what the step runs, an event or the instruction that is fetched, keeps the canonical form, and so does what comes before and after it. -/
theorem stepKeepsMemory : Obligations.StepKeepsMemory := by
  unfold Obligations.StepKeepsMemory
  intro s t hs e
  have h0 : Inv (tick s) := hs
  unfold step at e
  generalize tick s = u at e h0
  dsimp only at e
  split at e
  · exact invO_exec _ _ _ e (inv_touched h0)
  · split at e
    · exact invO_exec _ _ _ e (inv_touched h0)
    · rename_i k _
      have hf := inv_fetchAt (k := k) h0
      split at e
      · rename_i v ev
        cases e
        rwa [ev] at hf
      · rename_i i v ev
        rw [ev] at hf
        split at e
        · rename_i w ew
          cases e
          exact inv_afterIssue (invO_exec _ _ _ ew hf)
        · cases e
        · cases e
end Sys2Proof.Machine
end

section
/-! PROOFS. LAUNCH, CNTADD, CANCEL and CLKREQ, and what an add to a counter does (R276 to R279, R287 to R291). -/

namespace Sys2Proof.Machine
open Sys2Proof

/-! ## Where these instructions are none, and the checks of a counter -/

section
variable {α : Type} {s s1 : State}

theorem counterM_bind {a : W64} (ht : taskOn s s.cur = none) (hc : checkAccess s (whoOf s s.cur) .atomic [(a, 8)] = .ok s1)
    (hl : onLost s1 (whoOf s s.cur).flat [(a, 8)] = false) (hr : isReplicated s1 (flatOf s.cur) a = false) (hi : isLost s1 (flatOf s.cur) a = false)
    (hp : inSpad a = false) (hh : isHostVa s1 (flatOf s.cur) a = false) (f : Unit → M α) : (counterM a >>= f) s = f () s1 := by
  refine bind_of_ok f ?_
  simp only [counterM, me_bind]
  rw [checkM_ok ht hc hl]
  simp only [getState_bind, hr, hi, hp, hh, Bool.or_false, Bool.false_eq_true, if_false, pureM_run]
end

/-! ## LAUNCH (R287) -/

abbrev launchIss (h : Hd) (o : OpE) : Iss := { h, reads := rds [o.s1], writes := wr o.d none }

/-- The state in which a launch whose block has been read is accepted or refused, and its answer. -/
def launched (s : State) (k : Nat) (p : Part) (a : W64) : State × Nat :=
  let r := engineRead s (flatOf k) a 256
  let w := whoOf r.1 k
  launchAccept (releaseAt r.1 (flatOf k) (launchFrom w none none a r.2).scope) w p.launch none a r.2

theorem cur_launched (s : State) (k : Nat) (p : Part) (a : W64) : (launched s k p a).1.cur = s.cur :=
  (keeps_launchAccept ((memFrame_releaseAt ..).keeps (keeps_engineRead (Keeps.refl s)))).2

def launchBody (o : OpE) : M Flow := do
  notInD
  noTask
  let k ← me
  let p ← myPart
  let a := p.src (o.lit.getD 0) o.s1
  if a.toNat % 256 ≠ 0 then trapM 0x04 a
  checkM .read [(a, 256)]
  let s ← get
  match (linesOf a 256).find? (isLost s (flatOf k)) with
  | some l => stop (.lost 0 a l)
  | none =>
    if !storesDone s k then return .wait
    let (s1, bs) := engineRead s (flatOf k) a 256
    let w := whoOf s1 k
    let s2 := releaseAt s1 (flatOf k) (launchFrom w none none a bs).scope
    let (s3, r) := launchAccept s2 w p.launch none a bs
    set s3
    putM o.d (BitVec.ofNat 64 r)
    pure .done

theorem exec_launch (h : Hd) (o : OpE) (s : State) : exec (.launch h o) s = issue (launchIss h o) (fun _ => launchBody o) s := rfl

section
variable {o : OpE} {s s1 : State} {a : W64} (hk : idxOf s.cur ≠ 3) (ht : taskOn s s.cur = none) (hsrc : (s.part s.cur).src (o.lit.getD 0) o.s1 = a)
include hk ht hsrc

theorem launchBody_misaligned (ha : a.toNat % 256 ≠ 0) : launchBody o s = .error (.trap ⟨0x04, 0, a, none⟩) := by
  rw [launchBody, notInD_bind hk, noTask_bind ht]
  simp only [me_bind, myPart_bind, hsrc, if_pos ha]
  rfl

theorem launchBody_done (ha : a.toNat % 256 = 0) (hc : checkAccess s (whoOf s s.cur) .read [(a, 256)] = .ok s1)
    (hl : onLost s1 (flatOf s.cur) [(a, 256)] = false) (hn : (linesOf a 256).any (isLost s1 (flatOf s.cur)) = false) (hs : storesDone s1 s.cur = true) :
    launchBody o s = .ok (.done, (launched s1 s.cur (s.part s.cur) a).1.modPart s.cur (·.put o.d (BitVec.ofNat 64 (launched s1 s.cur (s.part s.cur) a).2))) := by
  have hcur := (cur_launched s1 s.cur (s.part s.cur) a).trans (memFrame_checkAccess hc).cur
  have hfind : (linesOf a 256).find? (isLost s1 (flatOf s.cur)) = none := by
    simpa [List.find?_eq_none] using hn
  rw [launchBody, notInD_bind hk, noTask_bind ht]
  simp only [me_bind, myPart_bind, hsrc, ha, ne_eq, not_true_eq_false, if_false]
  rw [checkM_ok ht hc hl]
  simp only [getState_bind, hfind, hs, Bool.not_true, Bool.false_eq_true, if_false]
  rw [launched] at hcur ⊢
  simp only [set_bind, putM_bind, pureM_run, hcur]
end

/-! ## CNTADD (R289) -/

abbrev cntaddIss (h : Hd) (o : OpE) : Iss := { h, reads := rds [o.s1, o.s2, o.s3], writes := wr o.d none }

def cntaddBody (o : OpE) : M Flow := do
  notInD
  noTask
  let k ← me
  let p ← myPart
  let l := o.lit.getD 0
  let a := p.src l o.s1
  let n := (p.src l o.s2).toNat
  let next := p.src l o.s3
  if a.toNat % 8 ≠ 0 then trapM 0x04 a
  if next.toNat % 8 ≠ 0 then trapM 0x04 next
  if 2 ^ 31 ≤ n then illegalValue
  counterM a
  if !(← releaseM (scopeOfMod o.mod)) then return .wait
  let s ← get
  let (s1, w) := counterStep s p.ctx (flatOf k) 0 [next] n a
  set s1
  putM o.d (BitVec.ofNat 64 w)
  pure .done

theorem exec_cntadd (h : Hd) (o : OpE) (s : State) : exec (.cntadd h o) s = issue (cntaddIss h o) (fun _ => cntaddBody o) s := rfl

theorem cntaddBody_done {o : OpE} {s s1 : State} {a next : W64} {n : Nat} (hk : idxOf s.cur ≠ 3) (ht : taskOn s s.cur = none)
    (hsrc : (s.part s.cur).src (o.lit.getD 0) o.s1 = a) (hcount : ((s.part s.cur).src (o.lit.getD 0) o.s2).toNat = n)
    (hnext : (s.part s.cur).src (o.lit.getD 0) o.s3 = next) (ha : a.toNat % 8 = 0) (hna : next.toNat % 8 = 0) (hn : n < 2 ^ 31)
    (hc : checkAccess s (whoOf s s.cur) .atomic [(a, 8)] = .ok s1) (hl : onLost s1 (flatOf s.cur) [(a, 8)] = false)
    (hr : isReplicated s1 (flatOf s.cur) a = false) (hi : isLost s1 (flatOf s.cur) a = false) (hp : inSpad a = false)
    (hh : isHostVa s1 (flatOf s.cur) a = false) (hs : storesDone s1 s.cur = true) :
    let q := counterStep (releaseAt s1 (flatOf s.cur) (scopeOfMod o.mod)) (s.part s.cur).ctx (flatOf s.cur) 0 [next] n a
    cntaddBody o s = .ok (.done, q.1.modPart s.cur (·.put o.d (BitVec.ofNat 64 q.2))) := by
  intro q
  have hf := memFrame_checkAccess hc
  have hcur : q.1.cur = s.cur := (keeps_counterStep ((memFrame_releaseAt ..).keeps (Keeps.refl s1))).2.trans hf.cur
  have ht1 : taskOn s1 s1.cur = none := by rw [hf.cur, hf.taskOn, ht]
  have hs1 : storesDone s1 s1.cur = true := by rwa [hf.cur]
  rw [cntaddBody, notInD_bind hk, noTask_bind ht]
  simp only [me_bind, myPart_bind, hsrc, hcount, hnext, ha, hna, Nat.not_le.mpr hn, ne_eq, not_true_eq_false, if_false]
  rw [counterM_bind ht hc hl hr hi hp hh, releaseM_bind ht1 hs1]
  simp only [Bool.not_true, Bool.false_eq_true, if_false, getState_bind, set_bind, putM_bind, pureM_run, hf.cur]
  simp only [q] at hcur ⊢
  rw [hcur]

/-! ## CANCEL (R290) -/

def cancelBody (o : OpE) : M Flow := do
  notInD
  noTask
  let k ← me
  let p ← myPart
  let s ← get
  match p.sleep with
  | .cancel old ids =>
    if !allStopped s ids then return .wait
    setMine fun p => { p with sleep := .awake }
    putM o.d old
    pure .done
  | _ =>
    let a := p.src (o.lit.getD 0) o.s1
    if a.toNat % 8 ≠ 0 then trapM 0x04 a
    counterM a
    if !(← releaseM 4) then return .wait
    let s ← get
    let (s1, old, ids) := cancelWord s (flatOf k) a
    set s1
    let q ← myPart
    if q.st = .free || q.sleep = .ending then return .placed
    if allStopped s1 ids then
      putM o.d old
      pure .done
    else
      setMine fun p => { p with sleep := .cancel old ids }
      pure .waitKeep

theorem exec_cancel (h : Hd) (o : OpE) (s : State) : exec (.cancel h o) s = issue (launchIss h o) (fun _ => cancelBody o) s := rfl

section
variable {o : OpE} {s s1 : State} (hk : idxOf s.cur ≠ 3) (ht : taskOn s s.cur = none)
include hk ht

/-- A CANCEL whose launches have stopped completes with the word that it found first. -/
theorem cancelBody_ends {old : W64} {ids : List Nat} (hsleep : (s.part s.cur).sleep = .cancel old ids) (hall : allStopped s ids = true) :
    cancelBody o s = .ok (.done, s.modPart s.cur fun q => Part.put { q with sleep := .awake } o.d old) := by
  rw [cancelBody, notInD_bind hk, noTask_bind ht]
  simp only [me_bind, myPart_bind, getState_bind, hsleep, hall, Bool.not_true, Bool.false_eq_true, if_false, setMine_bind, putM_bind, pureM_run]
  exact congrArg (fun t => Except.ok (Flow.done, t)) (State.modPart_modPart ..)

theorem cancelBody_done {a : W64} (hsrc : (s.part s.cur).src (o.lit.getD 0) o.s1 = a) (hsleep : (s.part s.cur).sleep = .awake) (ha : a.toNat % 8 = 0)
    (hc : checkAccess s (whoOf s s.cur) .atomic [(a, 8)] = .ok s1) (hl : onLost s1 (flatOf s.cur) [(a, 8)] = false)
    (hr : isReplicated s1 (flatOf s.cur) a = false) (hi : isLost s1 (flatOf s.cur) a = false) (hp : inSpad a = false)
    (hh : isHostVa s1 (flatOf s.cur) a = false) (hs : storesDone s1 s.cur = true) :
    let q := cancelWord (releaseAt s1 (flatOf s.cur) 4) (flatOf s.cur) a
    (q.1.part s.cur).st ≠ .free → (q.1.part s.cur).sleep ≠ .ending → allStopped q.1 q.2.2 = true →
    cancelBody o s = .ok (.done, q.1.modPart s.cur (·.put o.d q.2.1)) := by
  intro q hst hsl hall
  have hf := memFrame_checkAccess hc
  have hcur : q.1.cur = s.cur := (keeps_cancelWord ((memFrame_releaseAt ..).keeps (Keeps.refl s1))).2.trans hf.cur
  have ht1 : taskOn s1 s1.cur = none := by rw [hf.cur, hf.taskOn, ht]
  have hs1 : storesDone s1 s1.cur = true := by rwa [hf.cur]
  rw [cancelBody, notInD_bind hk, noTask_bind ht]
  simp only [me_bind, myPart_bind, getState_bind, hsleep, hsrc, ha, ne_eq, not_true_eq_false, if_false]
  rw [counterM_bind ht hc hl hr hi hp hh, releaseM_bind ht1 hs1]
  simp only [Bool.not_true, Bool.false_eq_true, if_false, getState_bind, set_bind, myPart_bind, hf.cur]
  simp only [q] at hcur hst hsl hall ⊢
  simp only [hcur, hst, hsl, hall, decide_false, Bool.or_false, Bool.false_eq_true, if_false, if_true, putM_bind, pureM_run]
end

/-! ## CLKREQ (R291) -/

def clkreqBody (o : OpE) : M Flow := do
  notInD
  noTask
  let k ← me
  let p ← myPart
  let r := p.src (o.lit.getD 0) o.s1
  if badRatio r then illegalValue
  let dev := ordOf (flatOf k)
  match p.launch with
  | some id => modify fun s => modLaunch s id fun l => { l with asks := mset l.asks dev r }
  | none => pure ()
  let s ← get
  putM o.d (s.dev dev).clkseq
  pure .done

theorem exec_clkreq (h : Hd) (o : OpE) (s : State) : exec (.clkreq h o) s = issue (launchIss h o) (fun _ => clkreqBody o) s := rfl

section
variable {o : OpE} {s : State} (hk : idxOf s.cur ≠ 3) (ht : taskOn s s.cur = none) (hr : badRatio ((s.part s.cur).src (o.lit.getD 0) o.s1) = false)
include hk ht hr

theorem clkreqBody_unit {id : Nat} (hl : (s.part s.cur).launch = some id) :
    clkreqBody o s = .ok (.done, (modLaunch s id fun x => { x with asks := mset x.asks (ordOf (flatOf s.cur)) ((s.part s.cur).src (o.lit.getD 0) o.s1) }).modPart
      s.cur (·.put o.d (s.dev (ordOf (flatOf s.cur))).clkseq)) := by
  rw [clkreqBody, notInD_bind hk, noTask_bind ht]
  simp only [me_bind, myPart_bind, hr, hl, Bool.false_eq_true, if_false, modifyState_bind, getState_bind, putM_bind, pureM_run]
  rfl

theorem clkreqBody_none (hl : (s.part s.cur).launch = none) :
    clkreqBody o s = .ok (.done, s.modPart s.cur (·.put o.d (s.dev (ordOf (flatOf s.cur))).clkseq)) := by
  rw [clkreqBody, notInD_bind hk, noTask_bind ht]
  simp only [me_bind, myPart_bind, hr, hl, Bool.false_eq_true, if_false]
  rfl
end

/-! ## What an add to a counter does (R276, R277) -/

/-- A fold leaves what each of its steps leaves. -/
theorem foldl_leaves {α β : Type} {π : State → α} {f : State → β → State} (hf : ∀ t b, π (f t b) = π t) (l : List β) (s : State) :
    π (l.foldl f s) = π s := by
  induction l generalizing s with
  | nil => rfl
  | cons b l ih => exact (ih (f s b)).trans (hf s b)

theorem adds_modPartOf (s : State) (flat c : Nat) (f : Part → Part) : (s.modPartOf flat c f).adds = s.adds := by
  unfold State.modPartOf
  split <;> rfl

theorem adds_undoTask (s : State) (t : Task) : (undoTask s t).adds = s.adds := by
  unfold undoTask
  extract_lets s1 s2 s3
  have h2 : s2.adds = s.adds := by
    refine foldl_leaves (π := State.adds) (fun u a => ?_) t.acts s1
    split
    · split
      · exact adds_modPartOf ..
      · rfl
    · rfl
  have h3 : s3.adds = s.adds := (adds_modPartOf ..).trans h2
  clear_value s3
  split
  · exact h3
  · exact h3

theorem adds_abortForStore (s : State) (i : Nat) : (abortForStore s i).adds = s.adds := by
  unfold abortForStore
  split
  · rfl
  · extract_lets g ids
    split
    · rfl
    · exact foldl_leaves (π := State.adds) adds_undoTask _ s

theorem adds_counterWord (s : State) (flat : Nat) (a : W64) : (counterWord s flat a).1.adds = s.adds := by
  have htoHome : ∀ t l, (toHome t flat l).adds = t.adds := fun t l => congrArg (·.adds) (memFrame_toHome t flat l).rest
  have hhot : (hot s flat a).adds = s.adds := congrArg (·.adds) (memFrame_hot s flat a).rest
  exact (htoHome _ _).trans ((adds_abortForStore ..).trans hhot)

/-- The state of a counter's home after an add, with what the add leaves in the word. -/
def counterAdded (s : State) (flat n : Nat) (a : W64) : State :=
  let r := counterWord s flat a
  let count := min (r.2 % 2 ^ 31 + n) (2 ^ 31 - 1)
  let target := r.2 / 2 ^ 31 % 2 ^ 31
  homeWrite r.1 flat a (bytesOf 8 (r.2 / 2 ^ 31 * 2 ^ 31 + count + if r.2 / 2 ^ 62 = 0 ∧ target ≠ 0 ∧ target ≤ count then 2 ^ 62 else 0))

theorem adds_counterAdded (s : State) (flat n : Nat) (a : W64) : (counterAdded s flat n a).adds = s.adds := by
  have hw : ∀ t bs, (homeWrite t flat a bs).adds = t.adds := fun t bs => congrArg (·.adds) (memFrame_homeWrite t flat a bs).rest
  exact (hw _ _).trans (adds_counterWord ..)

/-- An add reaches its target: the word had none of DONE and CAN, and a target that the count has come to. -/
abbrev counterDone (w n : Nat) : Prop :=
  w / 2 ^ 62 = 0 ∧ w / 2 ^ 31 % 2 ^ 31 ≠ 0 ∧ w / 2 ^ 31 % 2 ^ 31 ≤ min (w % 2 ^ 31 + n) (2 ^ 31 - 1)

section
variable (s : State) (c flat : Nat) (blk : W64) (n : Nat) (a b : W64)

theorem counterStep_nil : counterStep s c flat blk [] n a = (counterAdded s flat n a, (counterWord s flat a).2) := by
  simp only [counterStep, counterAdded, decide_eq_true_eq]

theorem counterStep_cons : counterStep s c flat blk [b] n a =
    if counterDone (counterWord s flat a).2 n ∧ b ≠ 0 then
      ({ releaseAt (counterAdded s flat n a) flat 4 with adds := (counterAdded s flat n a).adds ++ [⟨c, flat, blk, [b], 1, none⟩] }, (counterWord s flat a).2)
    else (counterAdded s flat n a, (counterWord s flat a).2) := by
  simp only [counterStep, counterAdded, counterDone, decide_eq_true_eq, Bool.and_eq_true]
end

/-- Settles O33: the instructions complete, wait or trap by the branches of their bodies; an add to a counter sends one on where it sets DONE. -/
theorem launchInstructions : Obligations.LaunchInstructions := by
  unfold Obligations.LaunchInstructions
  refine ⟨fun h o s s1 hk ht => ⟨?launch, ?misaligned, ?cntadd, ?cancelled, ?cancel, ?clkreq⟩, fun s c flat blk n a b => ?counter⟩
  case launch =>
    intro ha hc hl hn hs r q hi
    have hb := launchBody_done hk ht rfl ha hc hl hn hs
    rw [launched] at hb
    exact (exec_launch h o s).trans (issue_done hi hb)
  case misaligned =>
    intro hi ha
    exact (exec_launch h o s).trans (issue_traps rfl hi (launchBody_misaligned hk ht rfl ha))
  case cntadd =>
    intro n next ha hna hn hc hl hr hlost hp hh hs q hi
    exact (exec_cntadd h o s).trans (issue_done hi (cntaddBody_done hk ht rfl rfl rfl ha hna hn hc hl hr hlost hp hh hs))
  case cancelled =>
    intro old ids hsleep hall
    exact gives_of_body (exec_cancel h o s) (cancelBody_ends hk ht hsleep hall)
  case cancel =>
    intro hsleep ha hc hl hr hlost hp hh hs q hst hsl hall hi
    exact (exec_cancel h o s).trans (issue_done hi (cancelBody_done hk ht rfl hsleep ha hc hl hr hlost hp hh hs hst hsl hall))
  case clkreq =>
    intro hr
    exact ⟨fun id hl hi => (exec_clkreq h o s).trans (issue_done hi (clkreqBody_unit hk ht hr hl)),
      fun hl => gives_of_body (exec_clkreq h o s) (clkreqBody_none hk ht hr hl)⟩
  case counter =>
    refine ⟨?_, fun hd hb => ?_, fun hd => ?_, ?_⟩
    · rw [counterStep_cons]
      split <;> rfl
    · rw [counterStep_cons, if_pos ⟨hd, hb⟩]
      exact congrArg (· ++ _) (adds_counterAdded ..)
    · rw [counterStep_cons, if_neg (fun ⟨h1, h2⟩ => hd.elim (· h1) h2)]
      exact adds_counterAdded ..
    · rw [counterStep_nil]
      rfl

end Sys2Proof.Machine
end

section
/-! PROOFS. Copies, fills, waits for them, drains and mailbox pops (R370 to R383, R393 to R397). -/

namespace Sys2Proof.Machine
open Sys2Proof

/-! ## What a push asks first, and the push -/

/-- No piece of a range is non-canonical or in the window of packages (R333). -/
def PiecesOk (a : W64) (n : Nat) : Prop := ∀ r ∈ piecesOf a n, regionOf r.1 ≠ .nonCanon ∧ regionOf r.1 ≠ .window

section
variable {α : Type} {s : State}

theorem formM_ok_bind {acc : Acc} {a : W64} {n : Nat} (ha : PiecesOk a n) (f : Unit → M α) : (formM acc a n >>= f) s = f () s := by
  refine bind_of_ok f ?_
  unfold formM
  split
  · next hstop =>
    obtain ⟨r, hr, hbad⟩ := List.exists_of_findSome?_eq_some hstop
    obtain ⟨hcanon, hwindow⟩ := ha r hr
    split at hbad
    · contradiction
    · contradiction
    · cases hbad
  · rfl

/-- A request on its channel: with the channel's next ID, held where it asks so. -/
def pushedReq (s : State) (k : Nat) (ch : Fin 4) (hold : Bool) (r : CReq) : State :=
  modChan s k ch fun c => { c with next := c.next + 1, reqs := c.reqs ++ [{ r with id := c.next, st := if hold then .held else .queued }] }

theorem cur_pushedReq (s : State) (k : Nat) (ch : Fin 4) (hold : Bool) (r : CReq) : (pushedReq s k ch hold r).cur = s.cur := rfl

theorem pushReq_bind {ch : Fin 4} {hold : Bool} (r : CReq) (hl : (mfind s.parts s.cur).isSome = true)
    (hspend : hold = true → (s.part s.cur).spend ⟨ch.val + 1, by have := ch.isLt; omega⟩ = none) (f : Nat → M α) :
    (pushReq ch hold r >>= f) s = f ((s.part s.cur).chans[ch]).next (pushedReq s s.cur ch hold r) := by
  refine bind_of_ok f ?_
  have hset : s.setPart s.cur (s.part s.cur) = s := State.setPart_part s s.cur hl
  cases hold with
  | false =>
    simp only [pushReq, me_bind, myPart_bind, Bool.false_eq_true, if_false, modifyState_bind, pureM_run, hset]
    rfl
  | true =>
    simp only [pushReq, me_bind, myPart_bind, hspend rfl, if_true, modifyState_bind, pureM_run, hset]
    rfl
end

/-! ## CPY and CPYTRY (R393) -/

abbrev copyIss (h : Hd) (o : OpE) : Iss := { h, reads := rds [o.s1, o.s2, o.s3, o.s4], writes := wr o.d none }

/-- The end of a push: the ID of the request is the answer. -/
def pushedAnswer (s : State) (o : OpE) (r : CReq) (f : State → State) : State :=
  let t := releaseAt s (flatOf s.cur) r.scope
  (f (pushedReq t s.cur (chanOf o.mod) (o.mod.getLsbD 5) r)).modPart s.cur (·.put o.d (BitVec.ofNat 64 ((t.part s.cur).chans[chanOf o.mod]).next))

/-- What a push asks: the partition's stores performed, no credit kept that a held request would spend. -/
structure CanPush (s : State) (o : OpE) (scope : Nat) : Prop where
  stores : storesDone s s.cur = true
  room : ((s.part s.cur).chans[chanOf o.mod]).reqs.length < 8
  credit : o.mod.getLsbD 5 = true →
    ((releaseAt s (flatOf s.cur) scope).part s.cur).spend ⟨(chanOf o.mod).val + 1, by have := (chanOf o.mod).isLt; omega⟩ = none
  listed : (mfind s.parts s.cur).isSome = true

section
variable {o : OpE} {s : State} {r : CReq}

theorem pushRelease_pushReq (ht : taskOn s s.cur = none) (hp : CanPush s o r.scope) (f : Nat → M Flow) :
    (do if !(← pushRelease r.scope) then return .wait
        let id ← pushReq (chanOf o.mod) (o.mod.getLsbD 5) r
        f id : M Flow) s =
      f (((releaseAt s (flatOf s.cur) r.scope).part s.cur).chans[chanOf o.mod]).next
        (pushedReq (releaseAt s (flatOf s.cur) r.scope) s.cur (chanOf o.mod) (o.mod.getLsbD 5) r) := by
  have hf := memFrame_releaseAt s (flatOf s.cur) r.scope
  have hc := hf.cur
  simp only [pushRelease_bind ht hp.stores, Bool.not_true, Bool.false_eq_true, if_false]
  rw [pushReq_bind r (by rw [hc]; exact hf.listed _ hp.listed) (by rw [hc]; exact hp.credit), hc]
end

def copyBody (try_ : Bool) (o : OpE) : M Flow := do
  engineOnly
  let k ← me
  let p ← myPart
  let r := copyReq p o
  if r.bad (p.src (o.lit.getD 0) o.s3) then illegalValue
  if r.src.toNat % r.ew ≠ 0 then trapM 0x04 r.src
  if r.dst.toNat % r.ew ≠ 0 then trapM 0x04 r.dst
  formM .read r.src r.ew
  formM .write r.dst r.ew
  let s ← get
  let ch := chanOf o.mod
  if 8 ≤ (p.chans[ch]).reqs.length ∨ (r.clip = true ∧ 64 ≤ mailboxUsed s (flatOf k)) then
    if try_ then
      putM o.d 0
      return .done
    else return .wait
  let scope := engineScope s (flatOf k) r.ranges
  if !(← pushRelease scope) then return .wait
  let id ← pushReq ch (o.mod.getLsbD 5) { r with scope }
  putM o.d (BitVec.ofNat 64 id)
  pure .done

theorem exec_cpy (h : Hd) (o : OpE) (s : State) : exec (.cpy h o) s = issue (copyIss h o) (fun _ => copyBody false o) s := rfl
theorem exec_cpytry (h : Hd) (o : OpE) (s : State) : exec (.cpytry h o) s = issue (copyIss h o) (fun _ => copyBody true o) s := rfl

section
variable {o : OpE} {s : State} {r : CReq} (hk : idxOf s.cur ≠ 3) (ht : taskOn s s.cur = none) (hr : copyReq (s.part s.cur) o = r)
  (hb : r.bad ((s.part s.cur).src (o.lit.getD 0) o.s3) = false) (hsa : r.src.toNat % r.ew = 0) (hda : r.dst.toNat % r.ew = 0)
  (hsf : PiecesOk r.src r.ew) (hdf : PiecesOk r.dst r.ew)
include hk ht hr hb hsa hda hsf hdf

theorem copyBody_pushes {try_ : Bool} (hroom : r.clip = false ∨ mailboxUsed s (flatOf s.cur) < 64)
    (hp : CanPush s o (engineScope s (flatOf s.cur) r.ranges)) :
    copyBody try_ o s = .ok (.done, pushedAnswer s o { r with scope := engineScope s (flatOf s.cur) r.ranges } id) := by
  have hfull : ¬(8 ≤ ((s.part s.cur).chans[chanOf o.mod]).reqs.length ∨ (r.clip = true ∧ 64 ≤ mailboxUsed s (flatOf s.cur))) := by
    rintro (h | ⟨h1, h2⟩)
    · exact absurd hp.room (not_lt.mpr h)
    · rcases hroom with h | h
      · rw [h] at h1
        cases h1
      · omega
  rw [copyBody, engineOnly_bind hk ht]
  simp only [me_bind, myPart_bind, hr, hb, hsa, hda, ne_eq, not_true_eq_false, Bool.false_eq_true, if_false, formM_ok_bind hsf, formM_ok_bind hdf, getState_bind,
    if_neg hfull]
  refine (pushRelease_pushReq (r := { r with scope := engineScope s (flatOf s.cur) r.ranges }) ht hp _).trans ?_
  simp only [putM_bind, pureM_run, cur_pushedReq, (memFrame_releaseAt ..).cur]
  rfl

theorem copyBody_full (hfull : 8 ≤ ((s.part s.cur).chans[chanOf o.mod]).reqs.length) :
    copyBody true o s = .ok (.done, s.modPart s.cur (·.put o.d 0)) := by
  rw [copyBody, engineOnly_bind hk ht]
  simp only [me_bind, myPart_bind, hr, hb, hsa, hda, ne_eq, not_true_eq_false, Bool.false_eq_true, if_false, formM_ok_bind hsf, formM_ok_bind hdf, getState_bind,
    if_pos (Or.inl hfull : 8 ≤ ((s.part s.cur).chans[chanOf o.mod]).reqs.length ∨ (r.clip = true ∧ 64 ≤ mailboxUsed s (flatOf s.cur))), if_true, putM_bind, pureM_run]
end

/-! ## MCFILL (R395) -/

/-- The request that MCFILL enters, for a scratchpad or for a slot. -/
def fillOf (p : Part) (o : OpE) (park : Bool) : CReq :=
  let l := o.lit.getD 0
  { id := 0, pc := p.pc, kind := if park then .park else .fill, st := .queued, src := p.src l o.s1, dst := if park then 0 else p.src l o.s2, ew := 64, rows := 0
    cols := 0, x0 := 0, y0 := 0, w := 0, h := 0, sstride := 0, dstride := 0, clip := false, len := (p.src l o.s3).toNat, mask := (p.src l o.s4).toNat
    slot := if park then (p.src l o.s2).toNat else 0, scope := 0, ack := 0, home := none, broken := none }

/-- Whether an address lies in the own-slice window. -/
def ownSlice (a : W64) : Bool :=
  match regionOf a with
  | .spad true _ _ => true
  | _ => false

/-- What no check of MCFILL refuses. -/
structure FillOk (p : Part) (o : OpE) (park : Bool) : Prop where
  value : ¬((fillOf p o park).len = 0 ∨ (if park then 49152 else 65536) < (fillOf p o park).len ∨ 65536 ≤ (fillOf p o park).mask ∨
    inSpad (fillOf p o park).src = true ∨ (if park then 8 ≤ (p.src (o.lit.getD 0) o.s2).toNat else ownSlice (p.src (o.lit.getD 0) o.s2) = false))
  src : (fillOf p o park).src.toNat % 64 = 0
  dst : park = true ∨ (p.src (o.lit.getD 0) o.s2).toNat % 64 = 0
  form : PiecesOk (fillOf p o park).src (fillOf p o park).len

theorem fillReq_eq (p : Part) (o : OpE) (park : Bool) : fillReq p o park = (do
    if (fillOf p o park).len = 0 ∨ (if park then 49152 else 65536) < (fillOf p o park).len ∨ 65536 ≤ (fillOf p o park).mask ∨
      inSpad (fillOf p o park).src = true ∨ (if park then 8 ≤ (p.src (o.lit.getD 0) o.s2).toNat else ownSlice (p.src (o.lit.getD 0) o.s2) = false)
    then illegalValue
    if (fillOf p o park).src.toNat % 64 ≠ 0 then trapM 0x04 (fillOf p o park).src
    if !park && (p.src (o.lit.getD 0) o.s2).toNat % 64 ≠ 0 then trapM 0x04 (p.src (o.lit.getD 0) o.s2)
    formM .read (fillOf p o park).src (fillOf p o park).len
    pure (fillOf p o park)) := rfl

theorem fillReq_bind {α : Type} {s : State} {p : Part} {o : OpE} {park : Bool} (hok : FillOk p o park) (f : CReq → M α) :
    (fillReq p o park >>= f) s = f (fillOf p o park) s := by
  have hdst : ¬(!park && decide ((p.src (o.lit.getD 0) o.s2).toNat % 64 ≠ 0)) = true := by
    rintro h
    obtain ⟨hpark, hmis⟩ := Bool.and_eq_true_iff.mp h
    rcases hok.dst with hp | ha
    · rw [hp] at hpark
      cases hpark
    · exact of_decide_eq_true hmis ha
  refine bind_of_ok f ?_
  rw [fillReq_eq, if_neg hok.value, if_neg (not_not.mpr hok.src), if_neg hdst]
  exact formM_ok_bind hok.form _

def mcfillBody (o : OpE) : M Flow := do
  engineOnly
  let k ← me
  let p ← myPart
  let r ← fillReq p o false
  let s ← get
  let ch := chanOf o.mod
  if 8 ≤ (p.chans[ch]).reqs.length then return .wait
  let scope := engineScope s (flatOf k) [(r.src, r.len)]
  if !(← pushRelease scope) then return .wait
  let id ← pushReq ch (o.mod.getLsbD 5) { r with scope }
  putM o.d (BitVec.ofNat 64 id)
  pure .done

theorem exec_mcfill (h : Hd) (o : OpE) (s : State) : exec (.mcfill h o) s = issue (copyIss h o) (fun _ => mcfillBody o) s := rfl

def mcfillParkBody (o : OpE) : M Flow := do
  engineOnly
  let k ← me
  let p ← myPart
  let r ← fillReq p o true
  let s ← get
  let cl := clOf (flatOf k)
  if !(hbGrant s p.ctx cl).getLsbD r.slot then illegalValue
  let ch := chanOf o.mod
  if (mfind (s.cluster cl).hb r.slot).isSome ∨ 8 ≤ (p.chans[ch]).reqs.length then return .wait
  let scope := engineScope s (flatOf k) [(r.src, r.len)]
  if !(← pushRelease scope) then return .wait
  let id ← pushReq ch (o.mod.getLsbD 5) { r with scope }
  modify fun s => setSlot s cl r.slot ⟨false, false, flatOf k, p.ctx, r.mask, scope, []⟩
  putM o.d (BitVec.ofNat 64 id)
  pure .done

theorem exec_mcfillPark (h : Hd) (o : OpE) (s : State) : exec (.mcfillPark h o) s = issue (copyIss h o) (fun _ => mcfillParkBody o) s := rfl

section
variable {o : OpE} {s : State} {r : CReq} (hk : idxOf s.cur ≠ 3) (ht : taskOn s s.cur = none)
include hk ht

theorem mcfillBody_pushes (hr : fillOf (s.part s.cur) o false = r) (hok : FillOk (s.part s.cur) o false)
    (hp : CanPush s o (engineScope s (flatOf s.cur) [(r.src, r.len)])) :
    mcfillBody o s = .ok (.done, pushedAnswer s o { r with scope := engineScope s (flatOf s.cur) [(r.src, r.len)] } id) := by
  rw [mcfillBody, engineOnly_bind hk ht]
  simp only [me_bind, myPart_bind, fillReq_bind hok, getState_bind, hr, if_neg (not_le.mpr hp.room)]
  refine (pushRelease_pushReq (r := { r with scope := engineScope s (flatOf s.cur) [(r.src, r.len)] }) ht hp _).trans ?_
  simp only [putM_bind, pureM_run, cur_pushedReq, (memFrame_releaseAt ..).cur]
  rfl

theorem mcfillParkBody_pushes (hr : fillOf (s.part s.cur) o true = r) (hok : FillOk (s.part s.cur) o true)
    (hg : (hbGrant s (s.part s.cur).ctx (clOf (flatOf s.cur))).getLsbD r.slot = true) (hfree : mfind (s.cluster (clOf (flatOf s.cur))).hb r.slot = none)
    (hp : CanPush s o (engineScope s (flatOf s.cur) [(r.src, r.len)])) :
    mcfillParkBody o s = .ok (.done, pushedAnswer s o { r with scope := engineScope s (flatOf s.cur) [(r.src, r.len)] }
      (setSlot · (clOf (flatOf s.cur)) r.slot ⟨false, false, flatOf s.cur, (s.part s.cur).ctx, r.mask, engineScope s (flatOf s.cur) [(r.src, r.len)], []⟩)) := by
  have hno : ¬((mfind (s.cluster (clOf (flatOf s.cur))).hb r.slot).isSome = true ∨ 8 ≤ ((s.part s.cur).chans[chanOf o.mod]).reqs.length) := by
    rw [hfree]
    simpa using hp.room
  rw [mcfillParkBody, engineOnly_bind hk ht]
  simp only [me_bind, myPart_bind, fillReq_bind hok, getState_bind, hr, hg, Bool.not_true, Bool.false_eq_true, if_false, if_neg hno]
  refine (pushRelease_pushReq (r := { r with scope := engineScope s (flatOf s.cur) [(r.src, r.len)] }) ht hp _).trans ?_
  simp only [modifyState_bind, putM_bind, pureM_run]
  rw [setSlot, State.modCluster_cur, cur_pushedReq, (memFrame_releaseAt ..).cur]
  rfl
end

/-! ## CPYWAIT (R394) -/

abbrev cpywaitIss (h : Hd) (o : OpE) : Iss := { h, reads := rds [o.s1], writes := wr o.d none }

def cpywaitBody (o : OpE) : M Flow := do
  engineOnly
  let k ← me
  let p ← myPart
  let id := (p.src (o.lit.getD 0) o.s1).toNat
  let ch := chanOf o.mod
  let r := o.mod.getLsbD 2
  let c : Chan := p.chans[ch]
  let (next, done, recs, scope) : Nat × Nat × List CRec × Nat := if r then (p.rpNext, p.rpDone, p.rpRecs, 4) else (c.next, c.done, c.recs, c.scope)
  if next ≤ id then illegalValue
  match recs.find? fun x => x.id ≤ id with
  | some x =>
    if r then setMine fun p => { p with rpRecs := p.rpRecs.erase x }
    else modify fun s => modChan s k ch fun c => { c with recs := c.recs.erase x }
    modify fun s => markTaken s p.ctx (flatOf k) x.slot
    pure (.trapped x.trap)
  | none =>
    if done ≤ id then return .wait
    putM o.d (BitVec.ofNat 64 done)
    acquireM scope
    pure .done

theorem exec_cpywait (h : Hd) (o : OpE) (s : State) : exec (.cpywait h o) s = issue (cpywaitIss h o) (fun _ => cpywaitBody o) s := rfl

/-- No record of an ID up to one. -/
theorem find_rec_none {recs : List CRec} {id : Nat} (h : ∀ x ∈ recs, id < x.id) : (recs.find? fun x => x.id ≤ id) = none := by
  simpa [List.find?_eq_none] using h

section
variable {o : OpE} {s : State} {c : Chan} {id : Nat} (hk : idxOf s.cur ≠ 3) (ht : taskOn s s.cur = none)
  (hid : ((s.part s.cur).src (o.lit.getD 0) o.s1).toNat = id)
include hk ht hid

/-- On the transfers, an ID below the oldest that has not ended completes where no record of it or of an earlier one is left. -/
theorem cpywaitBody_transfers (hm : o.mod.getLsbD 2 = true) (hn : id < (s.part s.cur).rpNext) (hd : id < (s.part s.cur).rpDone)
    (hrecs : ∀ x ∈ (s.part s.cur).rpRecs, id < x.id) :
    cpywaitBody o s = .ok (.done, acquireAt (s.modPart s.cur (·.put o.d (BitVec.ofNat 64 (s.part s.cur).rpDone))) (flatOf s.cur) 4) := by
  rw [cpywaitBody, engineOnly_bind hk ht]
  simp only [me_bind, myPart_bind, hid, hm, if_true, if_neg (not_le.mpr hn), find_rec_none hrecs, if_neg (not_le.mpr hd), putM_bind, acquireM_bind, pureM_run,
    State.modPart_cur]

variable (hm : o.mod.getLsbD 2 = false) (hc : (s.part s.cur).chans[chanOf o.mod] = c)
include hm hc

theorem cpywaitBody_value (hn : c.next ≤ id) : cpywaitBody o s = .error (.trap (valueTrap (s.part s.cur))) := by
  rw [cpywaitBody, engineOnly_bind hk ht]
  simp only [me_bind, myPart_bind, hid, hm, hc, Bool.false_eq_true, if_false, if_pos hn]
  rfl

theorem cpywaitBody_done (hn : id < c.next) (hd : id < c.done) (hrecs : ∀ x ∈ c.recs, id < x.id) :
    cpywaitBody o s = .ok (.done, acquireAt (s.modPart s.cur (·.put o.d (BitVec.ofNat 64 c.done))) (flatOf s.cur) c.scope) := by
  rw [cpywaitBody, engineOnly_bind hk ht]
  simp only [me_bind, myPart_bind, hid, hm, hc, Bool.false_eq_true, if_false, if_neg (not_le.mpr hn), find_rec_none hrecs, if_neg (not_le.mpr hd), putM_bind,
    acquireM_bind, pureM_run, State.modPart_cur]

theorem cpywaitBody_record {x : CRec} (hn : id < c.next) (hx : (c.recs.find? fun x => x.id ≤ id) = some x) :
    cpywaitBody o s = .ok (.trapped x.trap,
      markTaken (modChan s s.cur (chanOf o.mod) fun c => { c with recs := c.recs.erase x }) (s.part s.cur).ctx (flatOf s.cur) x.slot) := by
  rw [cpywaitBody, engineOnly_bind hk ht]
  simp only [me_bind, myPart_bind, hid, hm, hc, Bool.false_eq_true, if_false, if_neg (not_le.mpr hn), hx, modifyState_bind, pureM_run]
end

/-! ## MCDRAIN (R396) -/

abbrev mcdrainIss (h : Hd) (o : OpE) : Iss := { h, reads := rds [o.s1, o.s2], writes := wr o.d none }

/-- What MCDRAIN does where its slot holds nothing for it: it waits, or gives 0. -/
def drainNothing (o : OpE) (slot : Nat) : M Flow := do
  if o.mod.getLsbD 0 then
    putM o.d 0
    pure .done
  else
    setMine fun p => { p with hbWait := some (slot, false) }
    pure .waitKeep

/-- What MCDRAIN does where its slot is parked for it: it gives 0 of a failed one, and else writes the slot's bytes. -/
def drainSlot (o : OpE) (s : State) (k : Nat) (slot : Nat) (dst : W64) (hs : HbSlot) : M Flow := do
  let flat := flatOf k
  let cl := clOf flat
  if hs.failed then
    modify fun s => clearBit s cl slot (posOf flat)
    putM o.d 0
    pure .done
  else
    let n := hs.data.length
    if bufOverlaps s k dst n then return .wait
    match checkAccess s (whoOf s k) .write [(dst, n)] with
    | .error e => stop (seenStop e (.trap ⟨e.code, 0, e.addr, some (256 + e.reason)⟩))
    | .ok s1 =>
      match (linesOf dst n).find? (isReplicated s1 flat) with
      | some l => stop (.trap ⟨3, 0, if l.toNat < dst.toNat then dst else l, some (256 + 6)⟩)
      | none =>
        match (linesOf dst n).find? fun l => isLost s1 flat l && !wholeLine dst n l with
        | some l => stop (.lost 1 dst l)
        | none =>
          set (clearBit (engineWrite (s1.modPart k fun p => { p with hbWait := none }) flat dst hs.data) cl slot (posOf flat))
          putM o.d (BitVec.ofNat 64 n)
          acquireM 1
          pure .done

def mcdrainBody (o : OpE) : M Flow := do
  engineOnly
  let k ← me
  let p ← myPart
  let slot := (p.src (o.lit.getD 0) o.s1).toNat
  let dst := p.src (o.lit.getD 0) o.s2
  if 8 ≤ slot then illegalValue
  if dst.toNat % 64 ≠ 0 then trapM 0x04 dst
  formM .write dst 1
  let s ← get
  setMine fun p => { p with hbWait := none }
  if p.hbWait = some (slot, true) then
    putM o.d 0
    return .done
  match mfind (s.cluster (clOf (flatOf k))).hb slot with
  | some hs =>
    if hs.parked && hs.ctx = p.ctx && decide (hs.mask / 2 ^ posOf (flatOf k) % 2 = 1) then drainSlot o s k slot dst hs
    else drainNothing o slot
  | none => drainNothing o slot

theorem exec_mcdrain (h : Hd) (o : OpE) (s : State) : exec (.mcdrain h o) s = issue (mcdrainIss h o) (fun _ => mcdrainBody o) s := rfl

/-- A part whose MCDRAIN waits for no slot. -/
def drainClean (s : State) (k : Nat) : State := s.modPart k fun q => { q with hbWait := none }

section
variable {o : OpE} {s : State} {slot : Nat} {dst : W64} (hk : idxOf s.cur ≠ 3) (ht : taskOn s s.cur = none)
  (hslot : ((s.part s.cur).src (o.lit.getD 0) o.s1).toNat = slot) (hdst : (s.part s.cur).src (o.lit.getD 0) o.s2 = dst)
  (h8 : slot < 8) (ha : dst.toNat % 64 = 0) (hform : PiecesOk dst 1)
include hk ht hslot hdst h8 ha hform

/-- A slot whose context is gone gives 0. -/
theorem mcdrainBody_gone (hw : (s.part s.cur).hbWait = some (slot, true)) :
    mcdrainBody o s = .ok (.done, (drainClean s s.cur).modPart s.cur (·.put o.d 0)) := by
  rw [mcdrainBody, engineOnly_bind hk ht]
  simp only [me_bind, myPart_bind, hslot, hdst, if_neg (not_le.mpr h8), ha, ne_eq, not_true_eq_false, if_false, formM_ok_bind hform, getState_bind, setMine_bind,
    if_pos hw, putM_bind, pureM_run]
  rfl

variable (hw : (s.part s.cur).hbWait ≠ some (slot, true))
include hw

theorem mcdrainBody_slot {x : HbSlot} (hx : mfind (s.cluster (clOf (flatOf s.cur))).hb slot = some x) (hp : x.parked = true)
    (hc : x.ctx = (s.part s.cur).ctx) (hm : x.mask / 2 ^ posOf (flatOf s.cur) % 2 = 1) :
    mcdrainBody o s = drainSlot o s s.cur slot dst x (drainClean s s.cur) := by
  rw [mcdrainBody, engineOnly_bind hk ht]
  simp only [me_bind, myPart_bind, hslot, hdst, if_neg (not_le.mpr h8), ha, ne_eq, not_true_eq_false, if_false, formM_ok_bind hform, getState_bind, setMine_bind,
    if_neg hw, hx, hp, hc, hm, decide_true, Bool.and_true, if_true]
  rfl

theorem mcdrainBody_nothing (hno : ∀ x, mfind (s.cluster (clOf (flatOf s.cur))).hb slot = some x →
      x.parked = false ∨ x.ctx ≠ (s.part s.cur).ctx ∨ x.mask / 2 ^ posOf (flatOf s.cur) % 2 ≠ 1) :
    mcdrainBody o s = drainNothing o slot (drainClean s s.cur) := by
  rw [mcdrainBody, engineOnly_bind hk ht]
  simp only [me_bind, myPart_bind, hslot, hdst, if_neg (not_le.mpr h8), ha, ne_eq, not_true_eq_false, if_false, formM_ok_bind hform, getState_bind, setMine_bind,
    if_neg hw]
  cases hx : mfind (s.cluster (clOf (flatOf s.cur))).hb slot with
  | none => rfl
  | some x =>
    have hb : ¬(x.parked && decide (x.ctx = (s.part s.cur).ctx) && decide (x.mask / 2 ^ posOf (flatOf s.cur) % 2 = 1)) = true := by
      simp only [Bool.and_eq_true, decide_eq_true_eq, not_and]
      rintro ⟨h1, h2⟩ h3
      rcases hno x hx with h | h | h
      · rw [h] at h1
        cases h1
      · exact h h2
      · exact h h3
    exact congrFun (if_neg hb) _
end

section
variable {o : OpE} {s : State} {slot : Nat} {dst : W64} {x : HbSlot}

theorem drainSlot_failed (hf : x.failed = true) : drainSlot o s s.cur slot dst x (drainClean s s.cur) =
    .ok (.done, (clearBit (drainClean s s.cur) (clOf (flatOf s.cur)) slot (posOf (flatOf s.cur))).modPart s.cur (·.put o.d 0)) := by
  have hcur : (clearBit (drainClean s s.cur) (clOf (flatOf s.cur)) slot (posOf (flatOf s.cur))).cur = s.cur :=
    (keeps_clearBit (keeps_modPart (Keeps.refl s))).2
  simp only [drainSlot, hf, if_true, modifyState_bind, putM_bind, pureM_run, hcur]

theorem drainSlot_writes {s1 : State} (hf : x.failed = false) (hb : bufOverlaps s s.cur dst x.data.length = false)
    (hc : checkAccess s (whoOf s s.cur) .write [(dst, x.data.length)] = .ok s1)
    (hl : ∀ y ∈ linesOf dst x.data.length, isReplicated s1 (flatOf s.cur) y = false ∧ (isLost s1 (flatOf s.cur) y && !wholeLine dst x.data.length y) = false) :
    drainSlot o s s.cur slot dst x (drainClean s s.cur) = .ok (.done,
      acquireAt ((clearBit (engineWrite (drainClean s1 s.cur) (flatOf s.cur) dst x.data) (clOf (flatOf s.cur)) slot (posOf (flatOf s.cur))).modPart s.cur
        (·.put o.d (BitVec.ofNat 64 x.data.length))) (flatOf s.cur) 1) := by
  have hcur : (clearBit (engineWrite (drainClean s1 s.cur) (flatOf s.cur) dst x.data) (clOf (flatOf s.cur)) slot (posOf (flatOf s.cur))).cur = s.cur :=
    (keeps_clearBit (keeps_engineWrite (keeps_modPart ((memFrame_checkAccess hc).keeps (Keeps.refl s))))).2
  have hrep : (linesOf dst x.data.length).find? (isReplicated s1 (flatOf s.cur)) = none := by
    rw [List.find?_eq_none]
    intro y hy
    rw [(hl y hy).1]
    exact Bool.false_ne_true
  have hlost : ((linesOf dst x.data.length).find? fun l => isLost s1 (flatOf s.cur) l && !wholeLine dst x.data.length l) = none := by
    rw [List.find?_eq_none]
    intro y hy
    rw [(hl y hy).2]
    exact Bool.false_ne_true
  rw [drainClean] at hcur
  simp only [drainSlot, hf, hb, hc, hrep, hlost, Bool.false_eq_true, if_false, set_bind, putM_bind, acquireM_bind, pureM_run, State.modPart_cur, hcur]
  rfl
end

/-! ## MBXPOP (R397) -/

abbrev mbxpopIss (h : Hd) (o : OpE) : Iss := { h, writes := wr o.d none ++ wr (predDst o.s4) none }

def mbxpopBody (o : OpE) : M Flow := do
  engineOnly
  let k ← me
  let p ← myPart
  let s ← get
  match (s.core (flatOf k)).mailbox.find? (·.ctx = p.ctx) with
  | some e =>
    modify fun s => s.modCore (flatOf k) fun c => { c with mailbox := c.mailbox.erase e }
    putV o.d (e.data.setWidth 2048)
    putM (predDst o.s4) ones64
    if e.scope ≠ 0 then acquireM e.scope
    pure .done
  | none =>
    if o.mod.getLsbD 0 then
      putM (predDst o.s4) 0
      pure .done
    else pure .wait

theorem exec_mbxpop (h : Hd) (o : OpE) (s : State) : exec (.mbxpop h o) s = issue (mbxpopIss h o) (fun _ => mbxpopBody o) s := rfl

section
variable {o : OpE} {s : State} (hk : idxOf s.cur ≠ 3) (ht : taskOn s s.cur = none)
include hk ht

theorem mbxpopBody_entry {e : MbEnt} {v : Fin 64} (he : (s.core (flatOf s.cur)).mailbox.find? (fun e => e.ctx = (s.part s.cur).ctx) = some e) (hd : o.d = .v v) :
    let t := (s.modCore (flatOf s.cur) fun c => { c with mailbox := c.mailbox.erase e }).modPart s.cur fun p =>
      (p.setV v (e.data.setWidth 2048)).put (predDst o.s4) ones64
    mbxpopBody o s = .ok (.done, if e.scope ≠ 0 then acquireAt t (flatOf s.cur) e.scope else t) := by
  intro t
  have ht' : t = ((s.modCore (flatOf s.cur) fun c => { c with mailbox := c.mailbox.erase e }).modPart s.cur (·.putVec o.d (e.data.setWidth 2048))).modPart s.cur
      (·.put (predDst o.s4) ones64) := by
    rw [State.modPart_modPart, hd]
    rfl
  rw [ht', mbxpopBody, engineOnly_bind hk ht]
  simp only [me_bind, myPart_bind, getState_bind, he, modifyState_bind, putV_bind, putM_bind]
  split
  · rfl
  · rfl

theorem mbxpopBody_empty (he : ∀ e ∈ (s.core (flatOf s.cur)).mailbox, e.ctx ≠ (s.part s.cur).ctx) (hm : o.mod.getLsbD 0 = true) :
    mbxpopBody o s = .ok (.done, s.modPart s.cur (·.put (predDst o.s4) 0)) := by
  have hn : (s.core (flatOf s.cur)).mailbox.find? (fun e => e.ctx = (s.part s.cur).ctx) = none := by
    simpa [List.find?_eq_none] using he
  rw [mbxpopBody, engineOnly_bind hk ht]
  simp only [me_bind, myPart_bind, getState_bind, hn, hm, if_true, putM_bind, pureM_run]
end

/-- Where the part is partition D or runs a task, an instruction of an engine traps ILLEGAL, reason VALUE. -/
theorem exec_engineOnly_value {ins : Instr} {i : Iss} {s : State} {rest : Unit → M Flow}
    (he : exec ins s = issue i (fun _ => engineOnly >>= rest) s) (hno : idxOf s.cur = 3 ∨ (taskOn s s.cur).isSome = true) (hi : issues s i = true) :
    exec ins s = .next (takeTrap s s.cur (valueTrap (s.part s.cur))) :=
  he.trans (issue_traps rfl hi (engineOnly_value hno rest))

/-- A clause of the statement for one push: it asks nothing but what `CanPush` says of a part that is listed. -/
theorem leaves_pushed {ins : Instr} {h : Hd} {o : OpE} {s : State} {body : M Flow} {r : CReq} {after : State → State}
    (he : exec ins s = issue (copyIss h o) (fun _ => body) s) (hb : CanPush s o r.scope → body s = .ok (.done, pushedAnswer s o r after))
    (hs : storesDone s s.cur = true) (hroom : ((s.part s.cur).chans[chanOf o.mod]).reqs.length < 8)
    (hcredit : o.mod.getLsbD 5 = true →
      ((releaseAt s (flatOf s.cur) r.scope).part s.cur).spend ⟨(chanOf o.mod).val + 1, by have := (chanOf o.mod).isLt; omega⟩ = none) :
    Leaves ins (copyIss h o) s (pushedAnswer s o r after) := fun hi =>
  he.trans (issue_done hi (hb ⟨hs, hroom, hcredit, listed_of_issues hi⟩))

/-- Settles O40: each instruction completes, waits or traps by the branch of its body that the clause names. -/
theorem copyInstructions : Obligations.CopyInstructions := by
  unfold Obligations.CopyInstructions
  intro h o s p k flat cl l ch i w dr mb formOk pushed pushes value
  refine ⟨fun hk ht => ⟨?copies, ?fills, ?waits, ?transfers, ?drains, ?pops, ?empty⟩, fun hno => ⟨fun hi => ?valuePush, fun hi => ?valueWait, fun hi => ?valueDrain, fun hi => ?valuePop⟩⟩
  case copies =>
    intro r hb hsa hda hsf hdf
    refine ⟨fun hroom => ⟨?_, ?_⟩, fun hfull => ?_⟩
    · exact leaves_pushed (exec_cpy h o s) (copyBody_pushes hk ht rfl hb hsa hda hsf hdf hroom)
    · exact leaves_pushed (exec_cpytry h o s) (copyBody_pushes hk ht rfl hb hsa hda hsf hdf hroom)
    · exact gives_of_body (exec_cpytry h o s) (copyBody_full hk ht rfl hb hsa hda hsf hdf hfull)
  case fills =>
    intro src dst len mask r hlen hmask hsh hal hform
    refine ⟨fun hshort hown hdst => ?_, fun hshort h8 hg hfree => ?_⟩
    · have hplace : ownSlice dst = true := by
        obtain ⟨x, off, e⟩ := hown
        simp only [ownSlice, e]
      have hok : FillOk p o false := ⟨by
        rintro (e | e | e | e | e)
        · exact hlen e
        · exact absurd hshort (not_le.mpr e)
        · exact absurd hmask (not_lt.mpr e)
        · exact Bool.false_ne_true (hsh.symm.trans e)
        · exact Bool.false_ne_true ((e : ownSlice dst = false).symm.trans hplace), hal, .inr hdst, hform⟩
      exact leaves_pushed (exec_mcfill h o s) (mcfillBody_pushes hk ht rfl hok)
    · have hok : FillOk p o true := ⟨by
        rintro (e | e | e | e | e)
        · exact hlen e
        · exact absurd hshort (not_le.mpr e)
        · exact absurd hmask (not_lt.mpr e)
        · exact Bool.false_ne_true (hsh.symm.trans e)
        · exact absurd h8 (not_lt.mpr (e : 8 ≤ dst.toNat)), hal, .inl rfl, hform⟩
      have hl := leaves_pushed (r := { fillOf p o true with scope := engineScope s flat [(src, len)] })
        (after := (setSlot · cl dst.toNat ⟨false, false, flat, p.ctx, mask, engineScope s flat [(src, len)], []⟩)) (exec_mcfillPark h o s)
        (mcfillParkBody_pushes hk ht rfl hok hg hfree)
      intro hs hroom hcredit
      exact hl hs hroom hcredit
  case waits =>
    intro hm id c
    exact ⟨fun hn hi => (exec_cpywait h o s).trans (issue_value hi (cpywaitBody_value hk ht rfl hm rfl hn)),
      fun hd hcn hrecs hi => (exec_cpywait h o s).trans (issue_done hi (cpywaitBody_done hk ht rfl hm rfl (lt_of_lt_of_le hd hcn) hd hrecs)),
      fun x hn hx hi => (exec_cpywait h o s).trans (issue_trapped hi (cpywaitBody_record hk ht rfl hm rfl hn hx))⟩
  case transfers =>
    intro hm id hn hd hrecs hi
    exact (exec_cpywait h o s).trans (issue_done hi (cpywaitBody_transfers hk ht rfl hm hn hd hrecs))
  case drains =>
    intro slot dst clean h8 ha hform
    refine ⟨fun hw hi => ?_, fun hw => ⟨fun x hx hp hc hm => ⟨fun hf hi => ?_, fun s1 hf hb hca hl hi => ?_⟩, fun hno => ⟨fun hm hi => ?_, fun hm hi => ?_⟩⟩⟩
    · exact (exec_mcdrain h o s).trans (issue_done hi (mcdrainBody_gone hk ht rfl rfl h8 ha hform hw))
    · exact (exec_mcdrain h o s).trans (issue_done hi ((mcdrainBody_slot hk ht rfl rfl h8 ha hform hw hx hp hc hm).trans (drainSlot_failed hf)))
    · exact (exec_mcdrain h o s).trans (issue_done hi ((mcdrainBody_slot hk ht rfl rfl h8 ha hform hw hx hp hc hm).trans (drainSlot_writes hf hb hca hl)))
    · refine (exec_mcdrain h o s).trans (issue_done hi ((mcdrainBody_nothing hk ht rfl rfl h8 ha hform hw hno).trans ?_))
      simp only [drainNothing, hm, if_true, putM_bind, pureM_run]
      rfl
    · have hbody : mcdrainBody o s = .ok (.waitKeep, clean.modPart k fun q => { q with hbWait := some (slot, false) }) := by
        refine (mcdrainBody_nothing hk ht rfl rfl h8 ha hform hw hno).trans ?_
        simp only [drainNothing, hm, Bool.false_eq_true, if_false, setMine_bind, pureM_run]
        rfl
      have hclean : SameSleep s clean := .modPart s k fun _ => rfl
      have hwait : SameSleep clean (clean.modPart k fun q => { q with hbWait := some (slot, false) }) := .modPart clean k fun _ => rfl
      exact (exec_mcdrain h o s).trans (issue_waitsKept hi hbody (hclean.trans hwait))
  case pops =>
    intro e v he hd hb t hi
    exact (exec_mbxpop h o s).trans (issue_done hi (mbxpopBody_entry hk ht he hd))
  case empty =>
    intro he hm hb
    exact gives_of_body (exec_mbxpop h o s) (mbxpopBody_empty hk ht he hm)
  case valuePush =>
    exact ⟨exec_engineOnly_value (exec_cpy h o s) hno hi, exec_engineOnly_value (exec_cpytry h o s) hno hi, exec_engineOnly_value (exec_mcfill h o s) hno hi,
      exec_engineOnly_value (exec_mcfillPark h o s) hno hi⟩
  case valueWait => exact exec_engineOnly_value (exec_cpywait h o s) hno hi
  case valueDrain => exact exec_engineOnly_value (exec_mcdrain h o s) hno hi
  case valuePop => exact exec_engineOnly_value (exec_mbxpop h o s) hno hi

end Sys2Proof.Machine
end

section
/-! PROOFS. Named events, barriers, watches, the event latch (R243 to R256, R264 to R267). -/

namespace Sys2Proof.Machine
open Sys2Proof

/-! ## Named events (R243 to R247) -/

theorem evSplit_first_consumer {before after : List (Nat × Bool)} {f : Nat} (hb : ∀ w ∈ before, w.2 = false) :
    evSplit (before ++ (f, true) :: after) = (before.map (·.1) ++ [f], after, true) := by
  induction before with
  | nil => rfl
  | cons w before ih =>
    obtain ⟨g, c⟩ := w
    obtain rfl : c = false := hb _ (List.mem_cons_self ..)
    simp only [List.cons_append, evSplit, ih fun w hw => hb w (List.mem_cons_of_mem _ hw), List.map_cons]

theorem evSplit_no_consumer {before : List (Nat × Bool)} (hb : ∀ w ∈ before, w.2 = false) : evSplit before = (before.map (·.1), [], false) := by
  induction before with
  | nil => rfl
  | cons w before ih =>
    obtain ⟨g, c⟩ := w
    obtain rfl : c = false := hb _ (List.mem_cons_self ..)
    simp only [evSplit, ih fun w hw => hb w (List.mem_cons_of_mem _ hw), List.map_cons]

section
variable {s : State} {cl c name scope : Nat}

/-- A new entry, SET, stands at the end of its cluster's table. -/
theorem evPut_new {slot : Option Nat} (hn : findEv s cl c name = none) :
    evPut s cl ⟨c, name, true, scope, [], slot⟩ = s.modCluster cl fun x => { x with events := x.events ++ [⟨c, name, true, scope, [], slot⟩] } := by
  have hany : ((s.cluster cl).events.any fun x => x.ctx = c && x.name = name) = false := by
    rw [List.any_eq_false]
    exact List.find?_eq_none.mp hn
  simp only [evPut, State.modCluster, Bool.true_or, if_true, hany, Bool.false_eq_true, if_false]

theorem findEv_evPut_new {slot : Option Nat} (hn : findEv s cl c name = none) :
    findEv (evPut s cl ⟨c, name, true, scope, [], slot⟩) cl c name = some ⟨c, name, true, scope, [], slot⟩ := by
  rw [findEv] at hn
  rw [evPut_new hn, findEv, State.cluster_modCluster, List.find?_append, hn]
  simp

theorem evsig_none {slot : Option Nat} (hn : findEv s cl c name = none) (hp : evPlace s cl c name = some slot) :
    evsig s cl c name scope = some (evPut s cl ⟨c, name, true, scope, [], slot⟩) := by
  simp only [evsig, hn, hp]

theorem evsig_set {e : Ev} (he : findEv s cl c name = some e) (hs : e.set = true) : evsig s cl c name scope = some s := by
  simp only [evsig, he, hs, if_true]

theorem evsig_waited {e : Ev} (he : findEv s cl c name = some e) (hs : e.set = false) : evsig s cl c name scope =
    some ((evSplit e.wait).1.foldl (fun s f => evRelease s f c scope)
      (evPut s cl { e with wait := (evSplit e.wait).2.1, set := !(evSplit e.wait).2.2, scope })) := by
  simp only [evsig, he, hs, Bool.false_eq_true, if_false]
end

/-! ## EVSIG and SEV: what is sent outside a task -/

section
variable {α : Type} {s : State} (ht : taskOn s s.cur = none)
include ht

/-- Outside a task a release of the stores before it goes at once, and nothing is held until a commit. -/
theorem release_sends {scope : Nat} {a : HeldAct} (hs : storesDone s s.cur = true) (rest : M Flow) :
    (do if !(← releaseM scope) then return .wait
        if ← heldWaits then return .wait
        if ← holdM a then return .done
        rest : M Flow) s = rest (releaseAt s (flatOf s.cur) scope) := by
  have hf := memFrame_releaseAt s (flatOf s.cur) scope
  have ht1 : taskOn (releaseAt s (flatOf s.cur) scope) (releaseAt s (flatOf s.cur) scope).cur = none := by rw [hf.cur, hf.taskOn, ht]
  simp only [releaseM_bind ht hs, Bool.not_true, Bool.false_eq_true, if_false, heldWaits_bind ht1, holdM_bind ht1]
end

abbrev evsigIss (h : Hd) (o : OpC) : Iss := { h, reads := if o.mod.getLsbD 0 then rds [o.s1, o.s2] else rds [o.s1] }

/-- The core that an EVSIG names, and the scope of its release. -/
abbrev evsigTarget (p : Part) (o : OpC) (flat : Nat) : Nat := if o.mod.getLsbD 0 then (p.src 0 o.s2).toNat else flat
abbrev evsigScope (p : Part) (o : OpC) (flat : Nat) : Nat := if clOf (evsigTarget p o flat) = clOf flat then 1 else scopeOf flat (evsigTarget p o flat)

def evsigBody (o : OpC) : M Flow := do
  let k ← me
  let p ← myPart
  let name := (p.src 0 o.s1).toNat % 65536
  let flat := flatOf k
  if !(← releaseM (evsigScope p o flat)) then return .wait
  if ← heldWaits then return .wait
  if ← holdM (.signal flat (evsigTarget p o flat) name (evsigScope p o flat) p.pc) then return .done
  let s ← get
  match signalTo s p.ctx flat (evsigTarget p o flat) name (evsigScope p o flat) p.pc with
  | some s1 =>
    set s1
    pure .done
  | none => stop (syncTrap name 0x01)

theorem exec_evsig (h : Hd) (o : OpC) (s : State) : exec (.evsig h o) s = issue (evsigIss h o) (fun _ => evsigBody o) s := rfl

section
variable {o : OpC} {s : State} (ht : taskOn s s.cur = none)
include ht

theorem evsigBody_waits (hs : storesDone s s.cur = false) : evsigBody o s = .ok (.wait, s) := by
  simp only [evsigBody, me_bind, myPart_bind]
  exact releaseM_waits_bind ht hs _ _

variable (hs : storesDone s s.cur = true)
include hs

/-- The outcome of the signal that an EVSIG sends, once the stores before it are released. -/
theorem evsigBody_sends {u : State} (hu : signalTo (releaseAt s (flatOf s.cur) (evsigScope (s.part s.cur) o (flatOf s.cur))) (s.part s.cur).ctx (flatOf s.cur)
    (evsigTarget (s.part s.cur) o (flatOf s.cur)) (((s.part s.cur).src 0 o.s1).toNat % 65536) (evsigScope (s.part s.cur) o (flatOf s.cur))
    (s.part s.cur).pc = some u) : evsigBody o s = .ok (.done, u) := by
  simp only [evsigBody, me_bind, myPart_bind]
  rw [release_sends ht hs]
  simp only [getState_bind, hu, set_bind, pureM_run]

theorem evsigBody_full (hu : signalTo (releaseAt s (flatOf s.cur) (evsigScope (s.part s.cur) o (flatOf s.cur))) (s.part s.cur).ctx (flatOf s.cur)
    (evsigTarget (s.part s.cur) o (flatOf s.cur)) (((s.part s.cur).src 0 o.s1).toNat % 65536) (evsigScope (s.part s.cur) o (flatOf s.cur))
    (s.part s.cur).pc = none) : evsigBody o s = .error (syncTrap (((s.part s.cur).src 0 o.s1).toNat % 65536) 0x01) := by
  simp only [evsigBody, me_bind, myPart_bind]
  rw [release_sends ht hs]
  simp only [getState_bind, hu]
  rfl
end

abbrev sevIss (h : Hd) (o : OpC) : Iss := { h, reads := rds [o.s1] }

def sevBody (o : OpC) : M Flow := do
  let k ← me
  let p ← myPart
  let flat := flatOf k
  let r := o.mod.getLsbD 0
  let v := (p.src 0 o.s1).toNat
  let scope := if r then scopeOf flat v else 1
  if !(← releaseM scope) then return .wait
  if ← heldWaits then return .wait
  if ← holdM (.sev (sevTargets flat r v) scope) then return .done
  modify fun s => sevTo s p.ctx scope (sevTargets flat r v)
  pure .done

theorem exec_sev (h : Hd) (o : OpC) (s : State) : exec (.sev h o) s = issue (sevIss h o) (fun _ => sevBody o) s := rfl

theorem sevBody_done {o : OpC} {s : State} (ht : taskOn s s.cur = none) (hs : storesDone s s.cur = true) :
    let v := ((s.part s.cur).src 0 o.s1).toNat
    let scope := if o.mod.getLsbD 0 then scopeOf (flatOf s.cur) v else 1
    sevBody o s = .ok (.done, sevTo (releaseAt s (flatOf s.cur) scope) (s.part s.cur).ctx scope (sevTargets (flatOf s.cur) (o.mod.getLsbD 0) v)) := by
  intro v scope
  simp only [sevBody, me_bind, myPart_bind]
  exact release_sends ht hs _

/-! ## EVWAIT and EVCLR -/

/-- The outcome of a timed wait, recorded for replay (R500). -/
def noted (k : Nat) (s : State) (d : Nat) : State := logOrTake s (flatOf k) (idxOf k) 8 0 (BitVec.ofNat 64 d)
def timedNoted (k limit : Nat) (s : State) (d : Nat) : State := if limit = 0 then s else noted k s d

theorem cur_noted (k : Nat) (s : State) (d : Nat) : (noted k s d).cur = s.cur := (keeps_logOrTake (Keeps.refl s)).2

theorem cur_timedNoted (k limit : Nat) (s : State) (d : Nat) : (timedNoted k limit s d).cur = s.cur := by
  unfold timedNoted
  split
  · rfl
  · exact cur_noted k s d

section
variable {α : Type} {s : State}

theorem noteOutcome_bind (d : Nat) (f : Unit → M α) : (noteOutcome d >>= f) s = f () (noted s.cur s d) := rfl

theorem timedOutcome_bind (limit d : Nat) (f : Unit → M α) : (timedOutcome limit d >>= f) s = f () (timedNoted s.cur limit s d) := by
  unfold timedOutcome timedNoted
  split
  · rfl
  · rfl
end

abbrev evwaitIss (h : Hd) (o : OpC) : Iss := { h, reads := if o.mod.getLsbD 1 then rds [o.s1] else rds [o.s1, o.s2], writes := wr o.d none }

/-- The limit of an EVWAIT. -/
def evLimit (p : Part) (o : OpC) : Nat := if o.mod.getLsbD 1 then 0 else (p.src 0 o.s2).toNat % 2 ^ 32

theorem exec_evwait (h : Hd) (o : OpC) (s : State) : exec (.evwait h o) s = execEvwait h o s := rfl

section
variable {h : Hd} {o : OpC} {s : State} (ht : taskOn s s.cur = none) (hk : idxOf s.cur ≠ 3 ∨ o.mod.getLsbD 1 = true)
include ht hk

theorem leaves_evwait_woken {how : Nat} {v : W64} (hw : (s.part s.cur).sleep = .woken how v) :
    let u := (timedNoted s.cur (evLimit (s.part s.cur) o) (s.modPart s.cur fun q => { q with sleep := .awake }) how).modPart s.cur (·.put o.d (BitVec.ofNat 64 how))
    Leaves (.evwait h o) (evwaitIss h o) s (if how = 1 then acquireAt u (flatOf s.cur) v.toNat else u) := by
  intro u hi
  have hn : ¬(decide (idxOf s.cur = 3) && !o.mod.getLsbD 1) = true := by
    rcases hk with h | h <;> simp [h]
  refine (exec_evwait h o s).trans (issue_done hi ?_)
  rw [noTask_bind ht]
  simp only [me_bind, myPart_bind, getState_bind, if_neg hn, hw, setMine_bind, timedOutcome_bind, putM_bind, cur_timedNoted, State.modPart_cur]
  split
  · simp only [acquireM_bind, State.modPart_cur, cur_timedNoted]
    rfl
  · rfl

variable (hw : (s.part s.cur).sleep = .awake)
include hw

/-- In replay a timed wait to which the log gives 0 completes with 0. -/
theorem leaves_evwait_replay (hl : evLimit (s.part s.cur) o ≠ 0) (hr : replaysZero s s.cur = true) :
    Leaves (.evwait h o) (evwaitIss h o) s ((noted s.cur s 0).modPart s.cur (·.put o.d 0)) := by
  intro hi
  have hn : ¬(decide (idxOf s.cur = 3) && !o.mod.getLsbD 1) = true := by
    rcases hk with h | h <;> simp [h]
  refine (exec_evwait h o s).trans (issue_done hi ?_)
  rw [noTask_bind ht]
  rw [evLimit] at hl
  simp only [me_bind, myPart_bind, getState_bind, if_neg hn, hw, ne_eq, hl, not_false_eq_true, decide_true, Bool.true_and, hr, if_true, timedOutcome_bind, putM_bind,
    cur_timedNoted, pureM_run]
  rw [timedNoted, if_neg hl]

variable (hr : evLimit (s.part s.cur) o = 0 ∨ replaysZero s s.cur = false)
include hr

theorem leaves_evwait_set {e : Ev} (he : findEv s (clOf (flatOf s.cur)) (s.part s.cur).ctx (((s.part s.cur).src 0 o.s1).toNat % 65536) = some e)
    (hs : e.set = true) : Leaves (.evwait h o) (evwaitIss h o) s
      (acquireAt ((timedNoted s.cur (evLimit (s.part s.cur) o) (if o.mod.getLsbD 0 then evPut s (clOf (flatOf s.cur)) { e with set := false } else s) 1).modPart s.cur
        (·.put o.d 1)) (flatOf s.cur) e.scope) := by
  intro hi
  have hn : ¬(decide (idxOf s.cur = 3) && !o.mod.getLsbD 1) = true := by
    rcases hk with h | h <;> simp [h]
  have hz : ¬(decide (evLimit (s.part s.cur) o ≠ 0) && replaysZero s s.cur) = true := by
    rcases hr with h | h <;> simp [h]
  refine (exec_evwait h o s).trans (issue_done hi ?_)
  rw [noTask_bind ht]
  rw [evLimit] at hz ⊢
  simp only [me_bind, myPart_bind, getState_bind, if_neg hn, hw, if_neg hz, he, hs, if_true]
  split
  · simp only [modifyState_bind, timedOutcome_bind, putM_bind, acquireM_bind, pureM_run, cur_timedNoted, State.modPart_cur]
    rfl
  · simp only [timedOutcome_bind, putM_bind, acquireM_bind, pureM_run, cur_timedNoted, State.modPart_cur]

omit hk hr in
theorem gives_evwait_test (hm : o.mod.getLsbD 1 = true)
    (he : ∀ e, findEv s (clOf (flatOf s.cur)) (s.part s.cur).ctx (((s.part s.cur).src 0 o.s1).toNat % 65536) = some e → e.set = false) :
    Gives (.evwait h o) (evwaitIss h o) s (·.put o.d 0) := by
  refine gives_of_body (exec_evwait h o s) ?_
  rw [noTask_bind ht]
  simp only [me_bind, myPart_bind, getState_bind, hm, Bool.not_true, Bool.and_false, Bool.false_eq_true, if_false, hw, if_true, ne_eq, not_true_eq_false,
    decide_false, Bool.false_and]
  cases hf : findEv s (clOf (flatOf s.cur)) (s.part s.cur).ctx (((s.part s.cur).src 0 o.s1).toNat % 65536) with
  | none => rfl
  | some e =>
    simp only [he e hf, Bool.false_eq_true, if_false]
    rfl
end

/-! ## EVCLR -/

theorem exec_evclr (h : Hd) (o : OpC) (s : State) : exec (.evclr h o) s = execEvclr h o s := rfl

section
variable {h : Hd} {o : OpC} {s : State} (ht : taskOn s s.cur = none)
include ht

theorem leaves_evclr_set {e : Ev} (he : findEv s (clOf (flatOf s.cur)) (s.part s.cur).ctx (((s.part s.cur).src 0 o.s1).toNat % 65536) = some e)
    (hs : e.set = true) : Leaves (.evclr h o) (sevIss h o) s (evPut s (clOf (flatOf s.cur)) { e with set := false }) := by
  intro hi
  refine (exec_evclr h o s).trans (issue_done hi ?_)
  rw [noTask_bind ht]
  simp only [me_bind, myPart_bind, getState_bind, he, hs, if_true, modifyState_bind, pureM_run]

theorem leaves_evclr_none (he : findEv s (clOf (flatOf s.cur)) (s.part s.cur).ctx (((s.part s.cur).src 0 o.s1).toNat % 65536) = none) :
    Leaves (.evclr h o) (sevIss h o) s s := by
  intro hi
  refine (exec_evclr h o s).trans (issue_done hi ?_)
  rw [noTask_bind ht]
  simp only [me_bind, myPart_bind, getState_bind, he]
  rfl
end

/-! ## Barriers (R248 to R250) -/

theorem exec_bararr (h : Hd) (o : OpC) (s : State) : exec (.bararr h o) s = execBararr h o s := rfl
theorem exec_bararrInit (h : Hd) (o : OpC) (s : State) : exec (.bararrInit h o) s = execBararrInit h o s := rfl
theorem exec_bararrFree (h : Hd) (o : OpC) (s : State) : exec (.bararrFree h o) s = execBararrFree h o s := rfl
theorem exec_barwait (h : Hd) (o : OpC) (s : State) : exec (.barwait h o) s = execBarwait h o s := rfl

abbrev barIss (h : Hd) (o : OpC) : Iss := { h, reads := rds [o.s1], writes := wr o.d none }
abbrev barIss2 (h : Hd) (o : OpC) : Iss := { h, reads := rds [o.s1, o.s2], writes := wr o.d none }

section
variable {α : Type} {s : State}

theorem barM_bind {v : W64} {x : Nat × Nat} (hx : barId v = some x) (f : Nat × Nat → M α) : (barM v >>= f) s = f x s :=
  bind_of_ok f (by simp only [barM, hx, pureM_run])

theorem ownedM_bind {v : W64} {level index : Nat} {b : Bar} (hb : barFind s (flatOf s.cur) level index = some b) (ho : b.owner = (s.part s.cur).ctx)
    (f : Bar → M α) : (ownedM v level index >>= f) s = f b s :=
  bind_of_ok f (by simp only [ownedM, me_bind, myPart_bind, getState_bind, hb, ho, if_true, pureM_run])
end

theorem cur_barSet (s : State) (flat level index : Nat) (b : Option Bar) : (barSet s flat level index b).cur = s.cur := (keeps_barSet (Keeps.refl s)).2

section
variable {h : Hd} {o : OpC} {s : State} {level index : Nat} (ht : taskOn s s.cur = none) (hid : barId ((s.part s.cur).src 0 o.s1) = some (level, index))
include ht hid

/-- A barrier that does not exist yet is set up with its count. -/
theorem leaves_bararrInit_new (hb : barFind s (flatOf s.cur) level index = none) (hpos : 0 < ((s.part s.cur).src 0 o.s2).toNat)
    (hlt : ((s.part s.cur).src 0 o.s2).toNat < 65536) :
    Leaves (.bararrInit h o) (barIss2 h o) s
      ((barSet s (flatOf s.cur) level index (some ⟨(s.part s.cur).ctx, ((s.part s.cur).src 0 o.s2).toNat, 0, 0⟩)).modPart s.cur (·.put o.d 0)) := by
  intro hi
  refine (exec_bararrInit h o s).trans (issue_done hi ?_)
  rw [noTask_bind ht]
  simp only [me_bind, myPart_bind, getState_bind, barM_bind hid, if_neg (not_le.mpr hlt), hb, hpos.ne', if_false, modifyState_bind, putM_bind, pureM_run, cur_barSet]

theorem leaves_barwait_woken (hk : idxOf s.cur ≠ 3) {how : Nat} {v : W64} (hw : (s.part s.cur).sleep = .woken how v) :
    Leaves (.barwait h o) (barIss2 h o) s
      (acquireAt ((s.modPart s.cur fun q => { q with sleep := .awake }).modPart s.cur (·.put o.d v)) (flatOf s.cur) (level + 1)) := by
  intro hi
  refine (exec_barwait h o s).trans (issue_done hi ?_)
  rw [noTask_bind ht]
  simp only [me_bind, myPart_bind, if_neg hk, barM_bind hid, hw, setMine_bind, putM_bind, acquireM_bind, pureM_run, State.modPart_cur]

variable {b : Bar} (hb : barFind s (flatOf s.cur) level index = some b)
include hb

theorem gives_bararrInit (hob : b.owner = (s.part s.cur).ctx) (hc : b.count = ((s.part s.cur).src 0 o.s2).toNat)
    (hlt : ((s.part s.cur).src 0 o.s2).toNat < 65536) : Gives (.bararrInit h o) (barIss2 h o) s (·.put o.d (b.phase.setWidth 64)) := by
  refine gives_of_body (exec_bararrInit h o s) ?_
  rw [noTask_bind ht]
  simp only [me_bind, myPart_bind, getState_bind, barM_bind hid, if_neg (not_le.mpr hlt), hb, hob, hc, ne_eq, not_true_eq_false, if_false, putM_bind, pureM_run]

variable (hob : b.owner = (s.part s.cur).ctx)
include hob

theorem leaves_bararr_early (hs : storesDone s s.cur = true) (hc : b.arrived + 1 < b.count) : Leaves (.bararr h o) (barIss h o) s
    ((barSet (releaseAt s (flatOf s.cur) (level + 1)) (flatOf s.cur) level index (some { b with arrived := b.arrived + 1 })).modPart s.cur
      (·.put o.d (b.phase.setWidth 64))) := by
  intro hi
  refine (exec_bararr h o s).trans (issue_done hi ?_)
  rw [noTask_bind ht]
  simp only [me_bind, myPart_bind, barM_bind hid, ownedM_bind hb hob, releaseM_bind ht hs, Bool.not_true, Bool.false_eq_true, if_false, if_neg (not_le.mpr hc),
    modifyState_bind, putM_bind, pureM_run, cur_barSet, (memFrame_releaseAt ..).cur]

theorem leaves_bararr_last (hs : storesDone s s.cur = true) (hc : b.count ≤ b.arrived + 1) : Leaves (.bararr h o) (barIss h o) s
    ((barRelease (barSet (releaseAt s (flatOf s.cur) (level + 1)) (flatOf s.cur) level index (some { b with arrived := 0, phase := b.phase + 1 })) (flatOf s.cur)
      level index (b.phase + 1)).modPart s.cur (·.put o.d (b.phase.setWidth 64))) := by
  have hcur : ∀ t p, (barRelease t (flatOf s.cur) level index p).cur = t.cur := fun _ _ => rfl
  intro hi
  refine (exec_bararr h o s).trans (issue_done hi ?_)
  rw [noTask_bind ht]
  simp only [me_bind, myPart_bind, barM_bind hid, ownedM_bind hb hob, releaseM_bind ht hs, Bool.not_true, Bool.false_eq_true, if_false, if_pos hc,
    modifyState_bind, putM_bind, pureM_run, hcur, cur_barSet, (memFrame_releaseAt ..).cur]

theorem leaves_bararrFree (ha : b.arrived = 0) : Leaves (.bararrFree h o) (barIss h o) s
    ((barFreed (barSet s (flatOf s.cur) level index none) (flatOf s.cur) level index).modPart s.cur (·.put o.d (b.phase.setWidth 64))) := by
  have hcur : ∀ t, (barFreed t (flatOf s.cur) level index).cur = t.cur := fun _ => rfl
  intro hi
  refine (exec_bararrFree h o s).trans (issue_done hi ?_)
  rw [noTask_bind ht]
  simp only [me_bind, myPart_bind, barM_bind hid, ownedM_bind hb hob, ha, ne_eq, not_true_eq_false, if_false, modifyState_bind, putM_bind, pureM_run, hcur, cur_barSet]

theorem exec_bararrFree_busy (ha : b.arrived ≠ 0) (hi : issues s (barIss h o) = true) : exec (.bararrFree h o) s =
    .next (takeTrap s s.cur ⟨0x11, 0, BitVec.ofNat 64 (((s.part s.cur).src 0 o.s1).toNat % 2 ^ 32 * 2 ^ 32 + 0x400), none⟩) := by
  refine (exec_bararrFree h o s).trans (issue_traps rfl hi ?_)
  rw [noTask_bind ht]
  simp only [me_bind, myPart_bind, barM_bind hid, ownedM_bind hb hob, if_pos ha]
  rfl

variable (hk : idxOf s.cur ≠ 3) (hw : (s.part s.cur).sleep = .awake)
include hk hw

theorem exec_barwait_waits (hp : b.phase = ((s.part s.cur).src 0 o.s2).setWidth 32) (hi : issues s (barIss2 h o) = true) : exec (.barwait h o) s =
    .next (waitingKept (s.part s.cur) (s.modPart s.cur fun q => { q with sleep := .barrier (barHome (flatOf s.cur) level) level index }) s.cur) := by
  refine (exec_barwait h o s).trans ((issue_of_issues _ hi).trans ?_)
  rw [noTask_bind ht]
  simp only [me_bind, myPart_bind, if_neg hk, barM_bind hid, hw, ownedM_bind hb hob, if_pos hp, setMine_bind, pureM_run]
  rfl

theorem leaves_barwait_passed (hp : b.phase ≠ ((s.part s.cur).src 0 o.s2).setWidth 32) : Leaves (.barwait h o) (barIss2 h o) s
    (acquireAt (s.modPart s.cur (·.put o.d (b.phase.setWidth 64))) (flatOf s.cur) (level + 1)) := by
  intro hi
  refine (exec_barwait h o s).trans (issue_done hi ?_)
  rw [noTask_bind ht]
  simp only [me_bind, myPart_bind, if_neg hk, barM_bind hid, hw, ownedM_bind hb hob, if_neg hp, putM_bind, acquireM_bind, pureM_run, State.modPart_cur]
end

/-! ## WATCH (R251 to R253, R266) -/

theorem exec_watch (h : Hd) (o : OpC) (s : State) : exec (.watch h o) s = execWatch h o s := rfl
theorem exec_watchX (h : Hd) (o : OpC) (s : State) : exec (.watchX h o) s = execWatchX h o s := rfl

abbrev watchIss (h : Hd) (o : OpC) : Iss := { h, reads := rds [o.s1, o.s2, o.s3], writes := wr o.d none }

section
variable {α : Type} {s s1 : State} {a : W64} {n : Nat} (f : Unit → M α)

theorem watchCheck_misaligned (ha : a.toNat % n ≠ 0) : (watchCheck a n >>= f) s = .error (.trap ⟨0x04, 0, a, none⟩) := by
  have hrun : watchCheck a n s = .error (.trap ⟨0x04, 0, a, none⟩) := by
    simp only [watchCheck, if_pos ha]
    rfl
  show (watchCheck a n s >>= fun r => f r.1 r.2) = _
  rw [hrun]
  rfl

variable (ht : taskOn s s.cur = none) (ha : a.toNat % n = 0) (hc : checkAccess s (whoOf s s.cur) .read [(a, n)] = .ok s1)
  (hl : onLost s1 (flatOf s.cur) [(a, n)] = false)
include ht ha hc hl

theorem watchCheck_lost (hlost : isLost s1 (flatOf s.cur) a = true) : (watchCheck a n >>= f) s = .error (.lost 0 a (lineOf a)) := by
  have hcur := (memFrame_checkAccess hc).cur
  have hrun : watchCheck a n s = .error (.lost 0 a (lineOf a)) := by
    simp only [watchCheck, ha, ne_eq, not_true_eq_false, if_false]
    rw [checkM_ok ht hc hl]
    simp only [getState_bind, hcur, hlost, if_true]
    rfl
  show (watchCheck a n s >>= fun r => f r.1 r.2) = _
  rw [hrun]
  rfl

theorem watchCheck_bind (hlost : isLost s1 (flatOf s.cur) a = false) : (watchCheck a n >>= f) s = f () (toHome s1 (flatOf s.cur) (lineOf a)) := by
  have hcur := (memFrame_checkAccess hc).cur
  refine bind_of_ok f ?_
  simp only [watchCheck, ha, ne_eq, not_true_eq_false, if_false]
  rw [checkM_ok ht hc hl]
  simp only [getState_bind, hcur, hlost, Bool.false_eq_true, if_false]
  exact congrArg (fun k => Except.ok ((), toHome s1 (flatOf k) (lineOf a))) hcur
end

/-- The watch that an instruction arms, in the state in which its word is looked at. -/
def watchOf (o : OpC) (p : Part) (k : Nat) (s : State) : Watch :=
  { flat := flatOf k, dpart := idxOf k = 3, ctx := p.ctx, va := p.src 0 o.s1, size := watchSize o.mod, cond := icondOf (o.mod.toNat % 16)
    mask := p.src 0 o.s2, value := p.src 0 o.s3, polled := false, home := homeOf s (flatOf k) (p.src 0 o.s1), spad := inSpad (p.src 0 o.s1) }

section
variable {h : Hd} {o : OpC} {s s1 s2 : State} {x : W64} (ht : taskOn s s.cur = none) (hx : (s.part s.cur).src 0 o.s1 = x)
include ht hx

theorem exec_watch_misaligned (ha : x.toNat % watchSize o.mod ≠ 0) (hi : issues s (watchIss h o) = true) :
    exec (.watch h o) s = .next (takeTrap s s.cur ⟨0x04, 0, x, none⟩) := by
  refine (exec_watch h o s).trans (issue_traps rfl hi ?_)
  rw [noTask_bind ht]
  simp only [me_bind, myPart_bind, hx]
  exact watchCheck_misaligned _ ha

variable (ha : x.toNat % watchSize o.mod = 0) (hc : checkAccess s (whoOf s s.cur) .read [(x, watchSize o.mod)] = .ok s1)
  (hl : onLost s1 (flatOf s.cur) [(x, watchSize o.mod)] = false)
include ha hc hl

theorem exec_watch_lost (hlost : isLost s1 (flatOf s.cur) x = true) (hi : issues s (watchIss h o) = true) :
    exec (.watch h o) s = .next (lostTrap s s.cur 0 x (lineOf x)) := by
  refine (exec_watch h o s).trans (issue_lost hi ?_)
  rw [noTask_bind ht]
  simp only [me_bind, myPart_bind, hx]
  exact watchCheck_lost _ ht ha hc hl hlost

variable (hlost : isLost s1 (flatOf s.cur) x = false) (h2 : toHome s1 (flatOf s.cur) (lineOf x) = s2)
include hlost h2

theorem leaves_watchX : Leaves (.watchX h o) (sevIss h o) s { s2 with watches := s2.watches.filter fun w => !(w.va = x && (watchesOf s2 s.cur).contains w) } := by
  intro hi
  refine (exec_watchX h o s).trans (issue_done hi ?_)
  rw [noTask_bind ht]
  simp only [me_bind, myPart_bind, hx]
  rw [watchCheck_bind _ ht ha hc hl hlost, h2]
  rfl

theorem exec_watch_full (hfull : 4 ≤ (watchesOf s2 s.cur).length) (hi : issues s (watchIss h o) = true) : exec (.watch h o) s =
    .next (takeTrap s s.cur ⟨0x11, 0, BitVec.ofNat 64 (x.toNat % 2 ^ 32 * 2 ^ 32 + 0x500), none⟩) := by
  refine (exec_watch h o s).trans (issue_traps rfl hi ?_)
  rw [noTask_bind ht]
  simp only [me_bind, myPart_bind, hx]
  rw [watchCheck_bind _ ht ha hc hl hlost, h2]
  simp only [getState_bind, if_pos hfull]
  rfl

variable (hroom : (watchesOf s2 s.cur).length < 4)
include hroom

theorem leaves_watch_true (hw : watchTrue s2 (watchOf o (s.part s.cur) s.cur s2) = true) :
    let d := if replaysZero s2 s.cur then 0 else 1
    Leaves (.watch h o) (watchIss h o) s
      ((logOrTake (wakeWatcher s2 (watchOf o (s.part s.cur) s.cur s2)) (flatOf s.cur) (idxOf s.cur) 8 0 (BitVec.ofNat 64 d)).modPart s.cur
        (·.put o.d (BitVec.ofNat 64 d))) := by
  intro d hi
  have hcur : s2.cur = s.cur := by rw [← h2, (memFrame_toHome ..).cur, (memFrame_checkAccess hc).cur]
  rw [watchOf, hx] at hw ⊢
  refine (exec_watch h o s).trans (issue_done hi ?_)
  rw [noTask_bind ht]
  simp only [me_bind, myPart_bind, hx]
  rw [watchCheck_bind _ ht ha hc hl hlost, h2]
  simp only [getState_bind, if_neg (not_le.mpr hroom), hw, if_true, modifyState_bind, noteOutcome_bind, putM_bind, pureM_run, cur_noted]
  rw [noted, (memFrame_wakeWatcher ..).cur, hcur]

theorem leaves_watch_armed (hw : watchTrue s2 (watchOf o (s.part s.cur) s.cur s2) = false) (hm : mayTimeOut s2 s.cur = true) :
    Leaves (.watch h o) (watchIss h o) s
      ((logOrTake (armWatch s2 (watchOf o (s.part s.cur) s.cur s2)) (flatOf s.cur) (idxOf s.cur) 8 0 (BitVec.ofNat 64 0)).modPart s.cur (·.put o.d 0)) := by
  intro hi
  have hcur : s2.cur = s.cur := by rw [← h2, (memFrame_toHome ..).cur, (memFrame_checkAccess hc).cur]
  have harm : ∀ w, (armWatch s2 w).cur = s.cur := fun w => hcur
  rw [watchOf, hx] at hw ⊢
  refine (exec_watch h o s).trans (issue_done hi ?_)
  rw [noTask_bind ht]
  simp only [me_bind, myPart_bind, hx]
  rw [watchCheck_bind _ ht ha hc hl hlost, h2]
  simp only [getState_bind, if_neg (not_le.mpr hroom), hw, hm, Bool.not_true, Bool.false_eq_true, if_false, modifyState_bind, noteOutcome_bind, putM_bind, pureM_run,
    cur_noted]
  rw [noted, harm]
end

/-! ## WFE (R255, R267) -/

theorem exec_wfe (h : Hd) (o : OpC) (s : State) : exec (.wfe h o) s = execWfe h o s := rfl

section
variable {h : Hd} {o : OpC} {s : State} {lim : Nat} (ht : taskOn s s.cur = none) (hk : idxOf s.cur ≠ 3) (hlim : ((s.part s.cur).src 0 o.s1).toNat % 2 ^ 32 = lim)
include ht hk hlim

theorem leaves_wfe_replay (hl : lim ≠ 0) (hr : replaysZero s s.cur = true) :
    Leaves (.wfe h o) (barIss h o) s ((noted s.cur (s.modPart s.cur fun q => { q with sleep := .awake }) 0).modPart s.cur (·.put o.d 0)) := by
  intro hi
  refine (exec_wfe h o s).trans (issue_done hi ?_)
  rw [noTask_bind ht]
  simp only [me_bind, myPart_bind, if_neg hk, getState_bind, hlim, ne_eq, hl, not_false_eq_true, decide_true, Bool.true_and, hr, if_true, setMine_bind,
    timedOutcome_bind, putM_bind, pureM_run, cur_timedNoted, State.modPart_cur]
  rw [timedNoted, if_neg hl]

variable (hr : lim = 0 ∨ replaysZero s s.cur = false)
include hr

theorem leaves_wfe_latch (hl : (s.part s.cur).latch = true) : Leaves (.wfe h o) (barIss h o) s
    (acquireAt ((timedNoted s.cur lim (s.modPart s.cur fun q => { q with latch := false, latchScope := 0, sleep := .awake }) 1).modPart s.cur (·.put o.d 1))
      (flatOf s.cur) (s.part s.cur).latchScope) := by
  intro hi
  have hz : ¬(decide (lim ≠ 0) && replaysZero s s.cur) = true := by
    rcases hr with h | h <;> simp [h]
  refine (exec_wfe h o s).trans (issue_done hi ?_)
  rw [noTask_bind ht]
  simp only [me_bind, myPart_bind, if_neg hk, getState_bind, hlim, if_neg hz, hl, if_true, setMine_bind, timedOutcome_bind, putM_bind, acquireM_bind, pureM_run,
    cur_timedNoted, State.modPart_cur]

theorem leaves_wfe_woken (hl : (s.part s.cur).latch = false) {how : Nat} {v : W64} (hw : (s.part s.cur).sleep = .woken how v) : Leaves (.wfe h o) (barIss h o) s
    ((timedNoted s.cur lim (s.modPart s.cur fun q => { q with sleep := .awake }) 0).modPart s.cur (·.put o.d 0)) := by
  intro hi
  have hz : ¬(decide (lim ≠ 0) && replaysZero s s.cur) = true := by
    rcases hr with h | h <;> simp [h]
  refine (exec_wfe h o s).trans (issue_done hi ?_)
  rw [noTask_bind ht]
  simp only [me_bind, myPart_bind, if_neg hk, getState_bind, hlim, if_neg hz, hl, Bool.false_eq_true, if_false, hw, setMine_bind, timedOutcome_bind, putM_bind,
    pureM_run, cur_timedNoted, State.modPart_cur]
end

/-- Settles O30: a signal by the state of its event, and each instruction by the branch that completes at once. -/
theorem syncInstructions : Obligations.SyncInstructions := by
  unfold Obligations.SyncInstructions
  refine ⟨fun s cl c name scope => ⟨fun hn slot hp => ?placed, fun e he hs => evsig_set he hs, fun e he hs => evsig_waited he hs,
    fun before after f hb => ⟨evSplit_first_consumer hb, evSplit_no_consumer hb⟩⟩, fun h o s s1 => ?_⟩
  case placed => exact ⟨_, evsig_none hn hp, findEv_evPut_new hn, rfl, rfl⟩
  intro p k flat cl x y name i1 i2 w1 w2 w3 iE wE noted' timed lx ly ht
  refine ⟨fun hi hs => ?evsigWaits, ?evsig, fun hw hk => ?evwait, fun how v hw hk => ?evwaitWoken, fun e he hs => leaves_evclr_set ht he hs,
    fun he => leaves_evclr_none ht he, fun level index hid => ?barriers, ?watch, fun hk => ?wfe, ?sev⟩
  case evsigWaits => exact (exec_evsig h o s).trans (issue_waits hi (evsigBody_waits ht hs))
  case evsig =>
    intro tgt scope hs
    exact ⟨fun u hu hi => (exec_evsig h o s).trans (issue_done hi (evsigBody_sends ht hs hu)),
      fun hu hi => (exec_evsig h o s).trans (issue_traps rfl hi (evsigBody_full ht hs hu))⟩
  case evwait =>
    exact ⟨fun hr => ⟨fun e he hs => leaves_evwait_set ht hk hw hr he hs, fun hm he => gives_evwait_test ht hw hm he⟩,
      fun hl hr => leaves_evwait_replay ht hk hw hl hr⟩
  case evwaitWoken => exact leaves_evwait_woken ht hk hw
  case barriers =>
    refine ⟨fun b hb hob => ⟨fun hs => ⟨leaves_bararr_early ht hid hb hob hs, leaves_bararr_last ht hid hb hob hs⟩, gives_bararrInit ht hid hb hob,
      leaves_bararrFree ht hid hb hob, exec_bararrFree_busy ht hid hb hob, fun hk hw hp hi => exec_barwait_waits ht hid hb hob hk hw hp hi,
      fun hk hw hp => leaves_barwait_passed ht hid hb hob hk hw hp⟩, fun how v hk hw => leaves_barwait_woken ht hid hk hw,
      fun hb hpos hlt => leaves_bararrInit_new ht hid hb hpos hlt⟩
  case watch =>
    intro n s2
    refine ⟨fun ha hi => exec_watch_misaligned ht rfl ha hi, fun ha hc hl => ⟨fun hlost hi => exec_watch_lost ht rfl ha hc hl hlost hi,
      fun hlost => ⟨⟨fun hfull hi => exec_watch_full ht rfl ha hc hl hlost rfl hfull hi, fun hroom => ⟨fun hw => ?_, fun hw hm => ?_⟩⟩,
        leaves_watchX ht rfl ha hc hl hlost rfl⟩⟩⟩
    · exact leaves_watch_true ht rfl ha hc hl hlost rfl hroom hw
    · exact leaves_watch_armed ht rfl ha hc hl hlost rfl hroom hw hm
  case wfe =>
    exact ⟨fun hr => ⟨leaves_wfe_latch ht hk rfl hr, fun how v hl hw => leaves_wfe_woken ht hk rfl hr hl hw⟩, leaves_wfe_replay ht hk rfl⟩
  case sev =>
    intro r scope hs hi
    exact (exec_sev h o s).trans (issue_done hi (sevBody_done ht hs))

end Sys2Proof.Machine
end

section
/-! PROOFS. The events of waits and of Damask (O31): an expired wait leaves its event's list and wakes its part; polled watches, terms and timers. -/

namespace Sys2Proof.Machine
open Sys2Proof

/-! ## An event after an entry was put -/

/-- Moving a held event back into the table keeps every event's context and name. -/
theorem mem_evMoveBack {es : List Ev} {e : Ev} (h : e ∈ evMoveBack es) : ∃ x ∈ es, x.ctx = e.ctx ∧ x.name = e.name := by
  induction es with
  | nil => simp [evMoveBack] at h
  | cons x xs ih =>
    rw [evMoveBack] at h
    split at h
    · rcases List.mem_cons.mp h with rfl | h
      · exact ⟨x, by simp, rfl, rfl⟩
      · exact ⟨e, by simp [h], rfl, rfl⟩
    · rcases List.mem_cons.mp h with rfl | h
      · exact ⟨e, by simp, rfl, rfl⟩
      · obtain ⟨y, hy, hc⟩ := ih h
        exact ⟨y, List.mem_cons_of_mem _ hy, hc⟩

/-- The entry found after one was put over an entry of its name is the one that was put. -/
theorem eq_of_findEv_evPut {s : State} {cl : Nat} {e e' x : Ev} (hx : findEv s cl e.ctx e.name = some x)
    (h : findEv (evPut s cl e) cl e.ctx e.name = some e') : e' = e := by
  have hfound := List.find?_some hx
  have hany : ((s.cluster cl).events.any fun x => x.ctx = e.ctx && x.name = e.name) = true :=
    List.any_eq_true.mpr ⟨x, List.mem_of_find?_eq_some hx, hfound⟩
  have hmem := List.mem_of_find?_eq_some h
  have hname := List.find?_some h
  simp only [Bool.and_eq_true, decide_eq_true_eq] at hname
  obtain ⟨hc, hn⟩ := hname
  simp only [evPut, State.cluster_modCluster, hany, if_true] at hmem
  split at hmem
  case isTrue =>
    obtain ⟨y, -, hy⟩ := List.mem_map.mp hmem
    split at hy
    · exact hy.symm
    next hne => subst hy; simp [hc, hn] at hne
  case isFalse =>
    have hout : ∀ y ∈ (s.cluster cl).events.filter fun x => !(x.ctx = e.ctx && x.name = e.name), ¬ (y.ctx = e'.ctx ∧ y.name = e'.name) := by
      intro y hy hyn
      have := (List.mem_filter.mp hy).2
      simp [hyn, hc, hn] at this
    dsimp only at hmem
    split at hmem
    · obtain ⟨y, hy, hyn⟩ := mem_evMoveBack hmem
      exact absurd hyn (hout y hy)
    · exact absurd ⟨rfl, rfl⟩ (hout e' hmem)

/-! ## A wait that expires -/

theorem findEv_modPartOf (s : State) (flat c : Nat) (f : Part → Part) (cl d name : Nat) :
    findEv (s.modPartOf flat c f) cl d name = findEv s cl d name := by
  unfold State.modPartOf
  split <;> rfl

theorem State.modPartOf_placed {s : State} {flat c j : Nat} (h : s.placed flat c = some j) (f : Part → Part) : s.modPartOf flat c f = s.modPart j f := by
  obtain ⟨q, hq, rfl⟩ := Option.map_eq_some_iff.mp h
  simp only [State.modPartOf, hq]

/-- The state in which a part's expired wait has left the list of its event. -/
def waitLeft (s : State) (flat cl c name : Nat) : State :=
  match findEv s cl c name with
  | some e => evPut s cl { e with wait := e.wait.filter fun w => w.1 ≠ flat }
  | none => s

theorem waitExpires_passed {s : State} {flat : Nat} {p : Part} {cl c name limit : Nat} {began : W64} (hp : p.sleep = .event cl c name limit began)
    (hl : limitPassed s limit began = true) :
    waitExpires s flat p = (waitLeft s flat cl c name).modPartOf flat p.ctx fun p => { p with sleep := .woken 0 0, blocked := none } := by
  simp only [waitExpires, hp, hl, Bool.not_true, Bool.false_eq_true, if_false, waitLeft] <;> rfl

theorem waitExpires_early {s : State} {flat : Nat} {p : Part} {cl c name limit : Nat} {began : W64} (hp : p.sleep = .event cl c name limit began)
    (hl : limitPassed s limit began = false) : waitExpires s flat p = s := by
  simp [waitExpires, hp, hl]

/-- No waiter of the part's core is left on the event. -/
theorem wait_of_findEv_waitLeft {s : State} {flat cl c name : Nat} {e : Ev} (h : findEv (waitLeft s flat cl c name) cl c name = some e) :
    ∀ w ∈ e.wait, w.1 ≠ flat := by
  unfold waitLeft at h
  split at h
  next x hx =>
    have hname := List.find?_some hx
    simp only [Bool.and_eq_true, decide_eq_true_eq] at hname
    obtain ⟨rfl, rfl⟩ := hname
    have he := eq_of_findEv_evPut (e := { x with wait := x.wait.filter fun w => w.1 ≠ flat }) hx h
    subst he
    intro w hw
    simpa using (List.mem_filter.mp hw).2
  next hx => rw [hx] at h; cases h

theorem placed_waitLeft (s : State) (flat cl c name f d : Nat) : (waitLeft s flat cl c name).placed f d = s.placed f d := by
  unfold waitLeft
  split <;> rfl

/-! ## O31 -/

/-- Settles O31, clause by clause: an expired wait by the lemmas above, the other events by their functions' branches. -/
theorem syncEvents : Obligations.SyncEvents := by
  unfold Obligations.SyncEvents
  intro k s
  refine ⟨?_, ?_, ?_, ?_, ?_, ?_, ?_, ?_, ?_⟩
  case refine_1 =>
    intro h
    change execEvwaitTimeout _ _ = _
    simp only [execEvwaitTimeout, h, Bool.not_true, Bool.false_eq_true, if_false]
  case refine_2 =>
    intro h
    change execEvwaitTimeout _ _ = _
    simp only [execEvwaitTimeout, h, Bool.not_false, if_true]
  case refine_3 =>
    intro flat p cl c name limit began hp
    refine ⟨waitExpires_early hp, fun hl => ⟨fun e he => ?_, fun j hj => ?_⟩⟩
    · rw [waitExpires_passed hp hl, findEv_modPartOf] at he
      exact wait_of_findEv_waitLeft he
    · rw [waitExpires_passed hp hl, State.modPartOf_placed ((placed_waitLeft s flat cl c name flat p.ctx).trans hj), State.part_modPart]
  case refine_4 =>
    intro flat p hp
    simp only [waitExpires, hp]
  case refine_5 =>
    intro limit began hp hm
    constructor <;> intro hl <;> (change execWfeTimeout _ _ = _; simp only [execWfeTimeout, hm, hp, hl, Bool.not_true, Bool.false_eq_true, if_false, if_true])
  case refine_6 =>
    intro dk w hw hpol hd
    change execWatchPoll _ _ = _
    simp only [execWatchPoll, hw, List.foldl_cons, List.foldl_nil, hpol, hd, decide_true, Bool.and_true, if_true]
  case refine_7 =>
    intro dk hw
    refine congrArg Host.Outcome.next ?_
    refine List.foldlRecOn (motive := fun u => u = s) _ _ rfl fun u hu w hmem => ?_
    rw [hu]
    rcases hw w hmem with h | h <;> simp [h]
  case refine_8 =>
    intro hk hf
    constructor
    · intro h
      change execDamaskTermFire _ _ = _
      simp only [execDamaskTermFire, hk, hf, or_self, if_false, fireTerms, h]
    · intro fs rest h
      change execDamaskTermFire _ _ = _
      simp only [execDamaskTermFire, hk, hf, or_self, if_false, fireTerms, h]
  case refine_9 =>
    intro h
    change execDamaskTimer _ _ = _
    simp only [execDamaskTimer, h, if_false]

end Sys2Proof.Machine
end

section
/-! PROOFS. The events of launches (O34): units, counter adds, withdrawn units, and the grants of Timpani. -/

namespace Sys2Proof.Machine
open Sys2Proof

/-! ## Units -/

theorem exec_unitStart_live {s : State} {id unit flat : Nat} {l : Launch} (hl : launchOf s id = some l) (hu : l.units[unit]? = some flat) (hst : l.st = .waking)
    (hnew : l.started.contains unit = false) (hlive : coreGone s (l.flag 4) flat = false) : exec (.unitStart id unit) s = .next (wakeUnit s l unit flat) := by
  change execUnitStart _ _ _ = _
  simp only [execUnitStart, hl, hu, hst, hnew, hlive, decide_true, Bool.not_false, Bool.and_true, if_true]

theorem exec_unitWithdrawn_lost {s : State} {id flat : Nat} {l : Launch} (hl : launchOf s id = some l) (hst : l.st = .waking) (hgone : coreGone s (l.flag 4) flat = true)
    (hlost : ((List.range l.units.length).any fun i => l.units[i]? = some flat && !l.started.contains i) = true) :
    exec (.unitWithdrawn id flat) s = .next (packetStatus (writeRecord (cancelLaunches s (withChildren s s.launches.length [l.id])) l.ctx l.flat
      (launchRecord 6 l.blk 0)).1 l.queue 6) := by
  change execUnitWithdrawn _ _ _ = _
  simp only [execUnitWithdrawn, hl, hst, hgone, hlost, decide_true, Bool.and_true, if_true]

/-! ## Counter adds -/

/-- The oldest add, where its counter can be reached and it ends no launch. -/
theorem exec_counterAdd_head {s : State} {x : CAdd} {xs : List CAdd} {a : W64} {next : List W64} (hadds : s.adds = x :: xs) (hready : x.ready s = true)
    (hctrs : x.ctrs = a :: next) (hlaunch : x.launch = none) (hgood : counterBad { s with adds := xs } ⟨x.flat, x.flat * 4, x.ctx⟩ .atomic a = false) :
    exec .counterAdd s = .next (counterStep { s with adds := xs } x.ctx x.flat x.blk next x.n a).1 := by
  have hfind : s.adds.find? (·.ready s) = some x := by rw [hadds]; exact List.find?_cons_of_pos (p := fun y : CAdd => y.ready s) hready
  have herase : s.adds.erase x = xs := by rw [hadds, List.erase_cons_head]
  change execCounterAdd _ = _
  simp only [execCounterAdd, hfind, herase, hctrs, hgood, hlaunch, Bool.false_eq_true, if_false, Option.bind_none]

theorem exec_counterAdd_none {s : State} (hready : ∀ x ∈ s.adds, x.ready s = false) : exec .counterAdd s = .next s := by
  have hfind : s.adds.find? (·.ready s) = none := List.find?_eq_none.mpr fun x hx => by simp [hready x hx]
  change execCounterAdd _ = _
  simp only [execCounterAdd, hfind]

/-! ## Timpani -/

/-- A changed grant, where no launch is there to be told. -/
theorem exec_grantChange_idle {s : State} {dev : Nat} (hnew : bestGrant s dev ≠ (s.dev dev).grant) (hfirst : (s.dev dev).granted = none) (hnone : s.launches = []) :
    exec (.grantChange dev) s = .next (s.modDev dev fun d => { d with grant := bestGrant s dev, clkseq := d.clkseq + 1, granted := some s.ftime }) := by
  have hl : (s.modDev dev fun d => { d with grant := bestGrant s dev, clkseq := d.clkseq + 1, granted := some s.ftime }).launches = [] := hnone
  change execGrantChange _ _ = _
  simp only [execGrantChange, hnew, hfirst, hl, decide_false, Option.any_none, Bool.or_false, Bool.false_eq_true, if_false, List.filter_nil, List.foldl_nil]

/-! ## O34 -/

/-- Settles O34: one lemma per event, and the fields of a unit's part by its definition. -/
theorem launchEvents : Obligations.LaunchEvents := by
  unfold Obligations.LaunchEvents
  refine ⟨?_, ?_, ?_, ?_, ?_, ?_⟩
  · exact fun s id unit flat l => exec_unitStart_live
  · intro l unit
    exact ⟨rfl, rfl, rfl, rfl, rfl, rfl, rfl, rfl, rfl, rfl, rfl, rfl, rfl, rfl, rfl, rfl, rfl, rfl⟩
  · exact fun s x xs a next => exec_counterAdd_head
  · exact fun s => exec_counterAdd_none
  · exact fun s id flat l => exec_unitWithdrawn_lost
  · exact fun s dev => exec_grantChange_idle

end Sys2Proof.Machine
end

section
/-! PROOFS. The events of memory (O20): stores performed granule by granule, multicast destinations, error records, and guest copies that expire. -/

namespace Sys2Proof.Machine
open Sys2Proof

/-! ## Writes where no watch is armed -/

/-- The cells after bytes were written at their homes, as a state's pages place them. -/
def putCells (s : State) (flat : Nat) (bs : List (W64 × Byte)) (m : List Host.Cell) : List Host.Cell :=
  bs.foldl (fun m b => match homeKey s flat b.1 with
    | some k => memWrite m k b.2
    | none => m) m

theorem putCells_append (s : State) (flat : Nat) (bs cs : List (W64 × Byte)) (m : List Host.Cell) :
    putCells s flat (bs ++ cs) m = putCells s flat cs (putCells s flat bs m) := List.foldl_append

/-- Where a scratchpad address has its home does not depend on the state. -/
theorem homeKey_spad {va : W64} (h : inSpad va = true) (s t : State) (flat : Nat) : homeKey s flat va = homeKey t flat va := by
  unfold inSpad at h
  split at h
  next hr => simp only [homeKey, hr]
  next => cases h

theorem putCells_spad {bs : List (W64 × Byte)} (h : ∀ b ∈ bs, inSpad b.1 = true) (s t : State) (flat : Nat) (m : List Host.Cell) :
    putCells s flat bs m = putCells t flat bs m := by
  induction bs generalizing m with
  | nil => rfl
  | cons b bs ih =>
    simp only [putCells, List.foldl_cons, homeKey_spad (h b (List.mem_cons_self ..)) s t flat]
    exact ih (fun c hc => h c (List.mem_cons_of_mem _ hc)) _

/-- A line's mask keeps all but the low six bits. -/
theorem getLsbD_lineMask (i : Fin 64) : (~~~(63 : W64)).getLsbD i.val = decide (6 ≤ i.val) := by
  revert i
  decide

theorem toNat_lineOf (va : W64) : (lineOf va).toNat = va.toNat / 64 * 64 := by
  have h : lineOf va = va >>> 6 <<< 6 := by
    refine BitVec.eq_of_getLsbD_eq fun i hi => ?_
    have hmask : (~~~(63 : W64)).getLsbD i = decide (6 ≤ i) := getLsbD_lineMask ⟨i, hi⟩
    rw [lineOf, BitVec.getLsbD_and, hmask, BitVec.getLsbD_shiftLeft, BitVec.getLsbD_ushiftRight]
    by_cases h6 : 6 ≤ i
    · simp [h6, hi, Nat.not_lt.mpr h6]
    · simp [h6, Nat.not_le.mp h6]
  rw [h]
  simp only [BitVec.toNat_shiftLeft, BitVec.toNat_ushiftRight, Nat.shiftRight_eq_div_pow, Nat.shiftLeft_eq]
  omega

/-- Every address of a scratchpad line is one of the scratchpad. -/
theorem inSpad_of_lineOf {va line : W64} (hl : lineOf va = line) (h : inSpad line = true) : inSpad va = true := by
  have hn := toNat_lineOf va
  rw [hl] at hn
  have hlt := va.isLt
  unfold inSpad regionOf at h ⊢
  dsimp only at h ⊢
  split_ifs at h ⊢ <;> first | rfl | (exfalso; omega)

theorem homeWriteAll_spad {s : State} (hw : s.watches = []) (flat : Nat) {bs : List (W64 × Byte)} (hbs : ∀ b ∈ bs, inSpad b.1 = true) :
    homeWriteAll s flat bs = { s with mem := putCells s flat bs s.mem } := by
  have hput : ∀ m, bs.foldl (fun (s : State) (b : W64 × Byte) => match homeKey s flat b.1 with
      | some k => { s with mem := memWrite s.mem k b.2 }
      | none => s) { s with mem := m } = { s with mem := putCells s flat bs m } := by
    induction bs with
    | nil => exact fun m => rfl
    | cons b bs ih =>
      intro m
      have ih := ih fun c hc => hbs c (List.mem_cons_of_mem _ hc)
      simp only [List.foldl_cons, putCells, homeKey_spad (hbs b (List.mem_cons_self ..)) _ s flat]
      split
      · exact ih _
      · exact ih _
  unfold homeWriteAll
  extract_lets put s1
  have h1 : s1 = { s with mem := putCells s flat bs s.mem } := hput s.mem
  clear_value s1
  subst h1
  simp only [hw, List.isEmpty_nil, if_true]

/-- The runs of a line's bytes, one after the other, are those bytes. -/
theorem flatten_runsOf (bs : List (W64 × Byte)) : (runsOf bs).flatten = bs := by
  induction bs with
  | nil => rfl
  | cons b bs ih =>
    rw [runsOf]
    split
    next c r rs h =>
      rw [h] at ih
      split <;> simpa using ih
    next => simpa using ih

theorem homeWriteRuns_spad {s : State} (hw : s.watches = []) (flat : Nat) {rs : List (List (W64 × Byte))} (hrs : ∀ r ∈ rs, ∀ b ∈ r, inSpad b.1 = true) :
    rs.foldl (fun s r => homeWriteAll s flat r) s = { s with mem := putCells s flat rs.flatten s.mem } := by
  induction rs generalizing s with
  | nil => rfl
  | cons r rs ih =>
    have hr := hrs r (List.mem_cons_self ..)
    have htail := fun q hq => hrs q (List.mem_cons_of_mem _ hq)
    have hflat : ∀ b ∈ rs.flatten, inSpad b.1 = true := fun b hb => by
      obtain ⟨q, hq, hbq⟩ := List.mem_flatten.mp hb
      exact htail q hq b hbq
    rw [List.foldl_cons, homeWriteAll_spad hw flat hr, ih (s := { s with mem := putCells s flat r s.mem }) hw htail, List.flatten_cons, putCells_append,
      putCells_spad hflat s { s with mem := putCells s flat r s.mem }]

/-- A store to a scratchpad line where no watch is armed writes its bytes' cells and nothing else. -/
theorem performLine_spad {s : State} {w : Who} {line : W64} (hspad : inSpad line = true) (hw : s.watches = []) {bs : List (W64 × Byte)}
    (hbs : ∀ b ∈ bs, lineOf b.1 = line) : performLine s w line bs = { s with mem := putCells s w.flat bs s.mem } := by
  have hruns : ∀ r ∈ runsOf bs, ∀ b ∈ r, inSpad b.1 = true := fun r hr b hb =>
    inSpad_of_lineOf (hbs b (by rw [← flatten_runsOf bs]; exact List.mem_flatten.mpr ⟨r, hr, hb⟩)) hspad
  have hwrite := homeWriteRuns_spad hw w.flat hruns
  rw [flatten_runsOf] at hwrite
  unfold inSpad at hspad
  split at hspad
  next h => simp only [performLine, lineWrite, h, hwrite]
  next => cases hspad

theorem memory_wf_putCells {s : State} {flat : Nat} {m : List Host.Cell} (bs : List (W64 × Byte)) (h : Memory.wf m = true) :
    Memory.wf (putCells s flat bs m) = true :=
  memory_wf_foldl (fun m b hm => by split; exacts [memory_wf_memWrite _ _ hm, hm]) bs h

theorem memRead_putCells_other {s : State} {flat key : Nat} {m : List Host.Cell} {bs : List (W64 × Byte)} (h : Memory.wf m = true)
    (hbs : ∀ b ∈ bs, homeKey s flat b.1 ≠ some key) : memRead (putCells s flat bs m) key = memRead m key := by
  induction bs generalizing m with
  | nil => rfl
  | cons b bs ih =>
    have hrest := fun c hc => hbs c (List.mem_cons_of_mem _ hc)
    have hb := hbs b (List.mem_cons_self ..)
    rw [putCells, List.foldl_cons]
    split
    next k hk => exact (ih (memory_wf_memWrite k b.2 h) hrest).trans (memRead_memWrite_ne b.2 h fun he => hb (by rw [hk, he]))
    next => exact ih h hrest

theorem memRead_putCells_last {s : State} {flat key : Nat} {m : List Host.Cell} {before after : List (W64 × Byte)} {va : W64} {b : Byte} (h : Memory.wf m = true)
    (hkey : homeKey s flat va = some key) (hafter : ∀ c ∈ after, homeKey s flat c.1 ≠ some key) :
    memRead (putCells s flat (before ++ (va, b) :: after) m) key = b := by
  have hbefore := memory_wf_putCells (s := s) (flat := flat) before h
  have hcons : putCells s flat (before ++ (va, b) :: after) m = putCells s flat after (memWrite (putCells s flat before m) key b) := by
    rw [putCells_append, putCells, List.foldl_cons]
    simp only [hkey]
    rfl
  rw [hcons, memRead_putCells_other (memory_wf_memWrite key b hbefore) hafter, memRead_memWrite_self key b hbefore]

/-! ## One act of a store (R175, R177, R193, R206) -/

section
variable {s : State} {e : StoreEnt} {pick : Nat} {g : W64}

/-- The core, partition and context of a store's part. -/
def StoreEnt.who (e : StoreEnt) : Who := ⟨flatOf e.k, e.k, e.ctx⟩

/-- The granule that a store performs next. -/
def storeGranule (s : State) (e : StoreEnt) (pick : Nat) : Option W64 :=
  let gs := (e.left.map fun b => granuleAt s (flatOf e.k) b.1).dedup
  if e.ordered then e.left.head?.map fun b => granuleAt s (flatOf e.k) b.1 else gs[pick % gs.length]?

/-- A store without what is left of a line. -/
def StoreEnt.without (e : StoreEnt) (line : W64) : StoreEnt := { e with left := e.left.filter fun b => lineOf b.1 ≠ line }

/-- Whether a store writes the whole of a line. -/
def StoreEnt.whole (e : StoreEnt) (line : W64) : Prop := e.ordered = false ∧ ∀ j, j < 64 → ∃ b ∈ e.bytes, b.1 = line + BitVec.ofNat 64 j

theorem storeAct_cut (hg : storeGranule s e pick = some g) (hcut : cutOff s (flatOf e.k) (lineOf g) = true) : storeAct s e pick = (s, e) := by
  unfold storeGranule at hg
  simp only [storeAct, hg, hcut, if_true]

theorem storeAct_replicated (hg : storeGranule s e pick = some g) (hcut : cutOff s (flatOf e.k) (lineOf g) = false)
    (hrep : isReplicated s (flatOf e.k) (lineOf g) = true) :
    storeAct s e pick = if e.told then (s, e.without (lineOf g)) else
      let sc := scopeOf (flatOf e.k) (homeOf s (flatOf e.k) (lineOf g))
      let dropped := writeRecord s e.ctx (flatOf e.k)
        (record64 [(0, 1, 0x0D), (1, 1, 0x03), (2, 1, 1), (3, 1, sc), (8, 8, e.pc.toNat), (16, 1, 10), (24, 8, e.addr.toNat)])
      (addDeferred dropped.1 e.k ⟨false, sc, 0x03, 0x06, dropped.2⟩, { e.without (lineOf g) with told := true }) := by
  unfold storeGranule at hg
  simp only [storeAct, hg, hcut, hrep, Bool.false_eq_true, if_false, if_true]
  rfl

theorem full_iff_whole (line : W64) : (!e.ordered && (List.range 64).all fun i => e.bytes.any fun b => b.1 = line + BitVec.ofNat 64 i) = true ↔ e.whole line := by
  simp [StoreEnt.whole]

theorem storeAct_lost_whole (hg : storeGranule s e pick = some g) (hcut : cutOff s (flatOf e.k) (lineOf g) = false)
    (hrep : isReplicated s (flatOf e.k) (lineOf g) = false) (hlost : isLost s (flatOf e.k) (lineOf g) = true) (hw : e.whole (lineOf g)) :
    storeAct s e pick =
      (performLine (healLines s (flatOf e.k) [lineOf g]) e.who (lineOf g) (e.left.filter fun b => lineOf b.1 = lineOf g), e.without (lineOf g)) := by
  unfold storeGranule at hg
  simp only [storeAct, hg, hcut, hrep, hlost, (full_iff_whole _).mpr hw, Bool.false_eq_true, if_false, if_true]
  rfl

theorem storeAct_lost_partial (hg : storeGranule s e pick = some g) (hcut : cutOff s (flatOf e.k) (lineOf g) = false)
    (hrep : isReplicated s (flatOf e.k) (lineOf g) = false) (hlost : isLost s (flatOf e.k) (lineOf g) = true) (hw : ¬ e.whole (lineOf g)) :
    storeAct s e pick =
      let lost := mcheckWrite s e.ctx (flatOf e.k) (mcheckRecord 1 1 (flatOf e.k) e.pc e.addr (lineOf g))
      (addDeferred lost.1 e.k ⟨false, scopeTo s (flatOf e.k) (lineOf g), 0x0C, 0, lost.2⟩, e.without (lineOf g)) := by
  unfold storeGranule at hg
  have hfull := Bool.eq_false_iff.mpr (mt (full_iff_whole (e := e) (lineOf g)).mp hw)
  simp only [storeAct, hg, hcut, hrep, hlost, hfull, Bool.false_eq_true, if_false, if_true]
  rfl

theorem storeAct_unordered (hg : storeGranule s e pick = some g) (hcut : cutOff s (flatOf e.k) (lineOf g) = false)
    (hrep : isReplicated s (flatOf e.k) (lineOf g) = false) (hlost : isLost s (flatOf e.k) (lineOf g) = false) (ho : e.ordered = false) :
    storeAct s e pick =
      (performLine s e.who (lineOf g) ((e.left.filter fun b => lineOf b.1 = lineOf g).filter fun b => granuleAt s (flatOf e.k) b.1 = g),
       { e with left := e.left.filter fun b => granuleAt s (flatOf e.k) b.1 ≠ g }) := by
  unfold storeGranule at hg
  simp only [storeAct, hg, hcut, hrep, hlost, Bool.false_eq_true, if_false]
  simp only [ho, Bool.false_eq_true, if_false, decide_not] <;> rfl

theorem storeAct_ordered (hg : storeGranule s e pick = some g) (hcut : cutOff s (flatOf e.k) (lineOf g) = false)
    (hrep : isReplicated s (flatOf e.k) (lineOf g) = false) (hlost : isLost s (flatOf e.k) (lineOf g) = false) (ho : e.ordered = true) :
    storeAct s e pick = (performLine s e.who (lineOf g) (e.left.takeWhile fun b => granuleAt s (flatOf e.k) b.1 = g),
      { e with left := e.left.dropWhile fun b => granuleAt s (flatOf e.k) b.1 = g }) := by
  unfold storeGranule at hg
  simp only [storeAct, hg, hcut, hrep, hlost, Bool.false_eq_true, if_false]
  simp only [ho, if_true] <;> rfl

/-- The first bytes of an ordered store, up to the end of the granule of its first byte. -/
theorem exists_first_granule (hg : storeGranule s e pick = some g) (ho : e.ordered = true) :
    (e.left.takeWhile fun b => granuleAt s (flatOf e.k) b.1 = g) ≠ [] := by
  simp only [storeGranule, ho, if_true, Option.map_eq_some_iff] at hg
  obtain ⟨b, hb, hbg⟩ := hg
  obtain ⟨bs, hbs⟩ := List.head?_eq_some_iff.mp hb
  simp [hbs, hbg]
end

/-! ## A record of an error queue (R195) -/

section
variable {s : State} {c flat : Nat} {rec : List Byte}

theorem writeRecord_nowhere (h : homeKey s flat (s.ctx c).errq = none) : writeRecord s c flat rec = (s, 0) := by
  simp only [writeRecord, h]

theorem writeRecord_slot (h : homeKey s flat (s.ctx c).errq ≠ none)
    (hroom : (homeNum (toHome s flat (lineOf (s.ctx c).errq)) flat (s.ctx c).errq 8 + 2 ^ 64
      - homeNum (toHome s flat (lineOf (s.ctx c).errq)) flat ((s.ctx c).errq + 8) 8) % 2 ^ 64 < 64) :
    (writeRecord s c flat rec).2 =
      (s.ctx c).errq + 64 + BitVec.ofNat 64 (64 * (homeNum (toHome s flat (lineOf (s.ctx c).errq)) flat (s.ctx c).errq 8 % 64)) := by
  obtain ⟨key, hkey⟩ := Option.ne_none_iff_exists'.mp h
  simp only [writeRecord, hkey, hroom, if_true]

theorem writeRecord_full (h : homeKey s flat (s.ctx c).errq ≠ none)
    (hroom : ¬ (homeNum (toHome s flat (lineOf (s.ctx c).errq)) flat (s.ctx c).errq 8 + 2 ^ 64
      - homeNum (toHome s flat (lineOf (s.ctx c).errq)) flat ((s.ctx c).errq + 8) 8) % 2 ^ 64 < 64) :
    writeRecord s c flat rec = (homeWrite (toHome s flat (lineOf (s.ctx c).errq)) flat ((s.ctx c).errq + 16)
      (bytesOf 8 (homeNum (toHome s flat (lineOf (s.ctx c).errq)) flat ((s.ctx c).errq + 16) 8 + 1)), 0) := by
  obtain ⟨key, hkey⟩ := Option.ne_none_iff_exists'.mp h
  simp only [writeRecord, hkey, hroom, if_false]
end

/-! ## Guest copies and stash lines (R184, R185, R240) -/

theorem guests_modPartOf (s : State) (flat c : Nat) (f : Part → Part) : (s.modPartOf flat c f).guests = s.guests := by
  unfold State.modPartOf
  split <;> rfl

theorem guests_wakeWatcher (s : State) (w : Watch) : (wakeWatcher s w).guests = s.guests := by
  unfold wakeWatcher
  split
  · rfl
  · exact (guests_modPartOf ..).trans (guests_modPartOf ..)

theorem guests_fireWatches (s : State) (keys : List Nat) : (fireWatches s keys).guests = s.guests := by
  refine foldl_leaves (π := State.guests) (fun t w => ?_) _ s
  split
  · split
    · exact guests_wakeWatcher ..
    · rfl
  · rfl

theorem guests_homeWriteAll (s : State) (flat : Nat) (bs : List (W64 × Byte)) : (homeWriteAll s flat bs).guests = s.guests := by
  have hput := foldl_leaves (π := State.guests) (f := fun s (b : W64 × Byte) => match homeKey s flat b.1 with
    | some k => { s with mem := memWrite s.mem k b.2 }
    | none => s) (fun t b => by split <;> rfl) bs s
  unfold homeWriteAll
  dsimp only
  split
  · exact hput
  · exact (guests_fireWatches ..).trans hput

theorem guests_stashWriteBack (s : State) (k : Nat) (m : Stash) (line : W64) : (stashWriteBack s k m line).guests = s.guests := by
  unfold stashWriteBack markLost
  split
  · split <;> rfl
  · exact guests_homeWriteAll ..

theorem stashRecallLine_held {s : State} {k : Nat} {line : W64} {m : Stash} {d : Bool} (hm : stashOf (s.part k) line = some m)
    (hd : mfind m.lines line.toNat = some d) :
    stashRecallLine s k line = stashMark (if d then stashWriteBack s k m line else s) k m.g line none := by
  simp only [stashRecallLine, hm, hd]

theorem stashRecallLine_invalid {s : State} {k : Nat} {line : W64} {m : Stash} (hm : stashOf (s.part k) line = some m)
    (hd : mfind m.lines line.toNat = none) : stashRecallLine s k line = s := by
  simp only [stashRecallLine, hm, hd]

theorem guests_stashRecallLine (s : State) (k : Nat) (line : W64) : (stashRecallLine s k line).guests = s.guests := by
  cases hm : stashOf (s.part k) line with
  | none => simp only [stashRecallLine, hm]
  | some m =>
    cases hd : mfind m.lines line.toNat with
    | none => rw [stashRecallLine_invalid hm hd]
    | some d =>
      rw [stashRecallLine_held hm hd]
      cases d with
      | false => rfl
      | true => exact guests_stashWriteBack s k m line

/-- A dropped guest copy is gone. -/
theorem guestOf_guestDrop (s : State) (dk : Nat) (line : W64) : guestOf (guestDrop s dk line) dk line = none := by
  unfold guestDrop
  split
  next h => exact h
  next g _ =>
    refine List.find?_eq_none.mpr fun h hh => ?_
    simpa [Decidable.imp_iff_not_or] using (List.mem_filter.mp hh).2

/-- The state after the stash lines of a die that follow a line's guest rules were recalled. -/
def guestLineRecalled (s : State) (dk : Nat) (line : W64) : State :=
  (stashGuestLines s dk).foldl (fun s e => if e.2.2.1 = line then stashRecallLine s e.1 line else s) s

theorem guests_guestLineRecalled (s : State) (dk : Nat) (line : W64) : (guestLineRecalled s dk line).guests = s.guests :=
  foldl_leaves (π := State.guests) (fun t e => by split; exacts [guests_stashRecallLine .., rfl]) _ s

/-! ## O20 -/

/-- The next destination of a multicast store, once its home can be reached. -/
theorem exec_destCheckAtHome_next {s : State} {flat j : Nat} {m : McStore} {ms : List McStore} {a : W64} {todo : List (Nat × W64)}
    (hm : (s.core flat).mcast = m :: ms) (ht : m.todo = (j, a) :: todo) (hcut : cutOff s flat a = false) :
    exec (.destCheckAtHome flat) s = .next (
      let m1 := if mcDeny s m a = 0 then { m with todo } else { m with todo, deny := m.deny ||| 2 ^ j, reasons := m.reasons ++ [(j, mcDeny s m a)] }
      let s1 := if mcDeny s m a = 0 then mcPerform s m a else s
      if todo = [] then mcEnd (s1.modCore flat fun c => { c with mcast := ms }) m1 else s1.modCore flat fun c => { c with mcast := m1 :: ms }) := by
  change execDestCheckAtHome _ _ = _
  simp only [execDestCheckAtHome, hm, ht, hcut, Bool.false_eq_true, if_false]

/-- The destinations of a core's oldest multicast store. -/
theorem destCheck_clause (flat : Nat) (s : State) : ∃ t, exec (.destCheckAtHome flat) s = .next t ∧
     ((s.core flat).mcast = [] → t = s) ∧
     (∀ m ms, (s.core flat).mcast = m :: ms →
       (m.todo = [] → t = mcEnd (s.modCore flat fun c => { c with mcast := ms }) m) ∧
       (∀ j a todo, m.todo = (j, a) :: todo →
         (cutOff s flat a = true → t = s) ∧
         (cutOff s flat a = false →
           (mcDeny s m a = 0 → todo ≠ [] → t = (mcPerform s m a).modCore flat fun c => { c with mcast := { m with todo } :: ms }) ∧
           (mcDeny s m a = 0 → todo = [] → t = mcEnd ((mcPerform s m a).modCore flat fun c => { c with mcast := ms }) { m with todo }) ∧
           (mcDeny s m a ≠ 0 →
             let m1 := { m with todo, deny := m.deny ||| 2 ^ j, reasons := m.reasons ++ [(j, mcDeny s m a)] }
             (todo ≠ [] → t = (s.modCore flat fun c => { c with mcast := m1 :: ms }) ∧ t.mem = s.mem) ∧
             (todo = [] → t = mcEnd (s.modCore flat fun c => { c with mcast := ms }) m1))))) := by
  have hexec : ∃ t, exec (.destCheckAtHome flat) s = .next t := ⟨_, rfl⟩
  obtain ⟨t, ht⟩ := hexec
  refine ⟨t, ht, fun hm => ?_, fun m ms hm => ⟨fun htodo => ?_, fun j a todo htodo => ⟨fun hcut => ?_, fun hcut => ?_⟩⟩⟩
  · change execDestCheckAtHome _ _ = _ at ht
    simp only [execDestCheckAtHome, hm, Host.Outcome.next.injEq] at ht
    exact ht.symm
  · change execDestCheckAtHome _ _ = _ at ht
    simp only [execDestCheckAtHome, hm, htodo, Host.Outcome.next.injEq] at ht
    exact ht.symm
  · change execDestCheckAtHome _ _ = _ at ht
    simp only [execDestCheckAtHome, hm, htodo, hcut, if_true, Host.Outcome.next.injEq] at ht
    exact ht.symm
  · rw [exec_destCheckAtHome_next hm htodo hcut, Host.Outcome.next.injEq] at ht
    subst ht
    refine ⟨fun h0 hn => ?_, fun h0 hn => ?_, fun h0 => ⟨fun hn => ?_, fun hn => ?_⟩⟩
    · simp only [h0, hn, if_true, if_false]
    · simp only [h0, hn, if_true]
    · simp only [h0, hn, if_false]
      exact ⟨trivial, rfl⟩
    · simp only [h0, hn, if_true, if_false]

/-- Settles O20: one lemma per branch of an act of a store, of a destination, of a record and of a guest copy. -/
theorem memoryEvents : Obligations.MemoryEvents := by
  unfold Obligations.MemoryEvents
  refine ⟨⟨?_, ?_, ?_⟩, destCheck_clause, ?_, ?_, ?_, ?_⟩
  case refine_1 =>
    intro flat s
    refine ⟨_, rfl, fun h => ?_, fun e es h => ?_⟩
    · simp only [h]
    · simp only [h]
  case refine_2 =>
    intro s e pick w gs g hg line here rest whole sc dropped lost
    have hg : storeGranule s e pick = some g := hg
    refine ⟨storeAct_cut hg, fun hcut => ⟨storeAct_replicated hg hcut, fun hrep hlost => ⟨storeAct_lost_whole hg hcut hrep hlost,
      storeAct_lost_partial hg hcut hrep hlost⟩, fun hrep hlost => ⟨storeAct_unordered hg hcut hrep hlost, fun ho => ?_⟩⟩⟩
    refine ⟨_, _, List.takeWhile_append_dropWhile.symm, exists_first_granule hg ho, fun b hb => ?_, storeAct_ordered hg hcut hrep hlost ho⟩
    simpa using List.mem_takeWhile_imp hb
  case refine_3 =>
    intro s w line bs hspad hline hw hwf
    simp only [performLine_spad hspad hw hline]
    refine ⟨fun key hbs => memRead_putCells_other hwf hbs, ?_⟩
    intro before va b after key hsplit hkey hafter
    rw [hsplit]
    exact memRead_putCells_last hwf hkey hafter
  case refine_4 =>
    intro ctx record s
    refine ⟨_, rfl, fun hlen => ?_⟩
    simp only [hlen, Nat.sub_self, List.replicate_zero, List.append_nil, true_and]
    refine ⟨fun h => by rw [writeRecord_nowhere h], writeRecord_slot, fun h hroom => ?_⟩
    rw [writeRecord_full h hroom]
    exact ⟨rfl, rfl⟩
  case refine_5 =>
    intro dk line s l u
    refine ⟨guestLineRecalled u dk l, rfl, ?_, rfl⟩
    rw [guestOf, guests_guestLineRecalled]
    exact guestOf_guestDrop s dk l
  case refine_6 =>
    intro s k line m hm
    refine ⟨fun d => stashRecallLine_held hm, stashRecallLine_invalid hm, fun hl => ?_⟩
    simp only [stashWriteBack, hl, Bool.false_eq_true, if_false]
  case refine_7 =>
    intro s dk g hg
    refine ⟨?_, fun h => ?_, fun h => ?_⟩
    · simp only [guestDrop, hg]
    · simp only [guestWriteThrough, h, if_true]
    · simp only [guestWriteThrough, h, if_false]

end Sys2Proof.Machine
end

section
/-! PROOFS. The events of copies and fills (O41): starts, acts, ends, faults and parked slots. -/

namespace Sys2Proof.Machine
open Sys2Proof

section
variable {k : Nat} {ch : Fin 4} {s : State} {r : CReq}

/-! ## The head of a channel (R373, R374) -/

theorem exec_copyStart_queued {rs : List CReq} (hh : (s.cluster (clOf (flatOf k))).halted = false) (hr : ((s.part k).chans[ch]).reqs = r :: rs)
    (hst : r.st = .queued) :
    exec (.copyStart k ch) s = .next (if r.kind = .fill && r.mask = 0
      then copyFinish (modChan s k ch fun c => { c with reqs := { r with st := .running } :: rs }) k ch r
      else modChan s k ch fun c => { c with reqs := { r with st := .running } :: rs }) := by
  change execCopyStart _ _ _ = _
  simp only [execCopyStart, hr, hst, hh, decide_true, Bool.not_false, Bool.and_true, if_true]

section
variable (hh : (s.cluster (clOf (flatOf k))).halted = false) (hr : runningHead s k ch = some r) (hk : r.kind ≠ .park)
include hh hr hk

/-- What the event does with a running copy or fill whose pins stand. -/
theorem exec_copyDone_running (hb : r.broken = none) :
    exec (.copyDone k ch) s = .next (if r.count ≤ r.ack then copyEnd s k ch r else if (copyReady s (whoOf s k) r).isEmpty then s
      else if (copyMove s k ch r).2.count ≤ (copyMove s k ch r).2.ack then copyEnd (copyMove s k ch r).1 k ch (copyMove s k ch r).2 else (copyMove s k ch r).1) := by
  change execCopyDone _ _ _ = _
  simp only [execCopyDone, hr, hk, hb, hh, decide_false, Option.isSome_none, Bool.or_false, Bool.false_eq_true, if_false]

theorem exec_copyFault_stopped {e : EFault} {acc : Nat} (he : copyStop s (whoOf s k) r = some (e, acc)) :
    exec (.copyFault k ch) s = .next (copyFinish (copyRecord (fillDenied (e.note s (flatOf k)) k ch r) k ch r e.code e.reason acc e.addr 0) k ch r) := by
  change execCopyFault _ _ _ = _
  simp only [execCopyFault, hr, hk, hh, he, decide_false, Bool.or_false, Bool.false_eq_true, if_false]

theorem exec_copyFault_none (he : copyStop s (whoOf s k) r = none) : exec (.copyFault k ch) s = .next s := by
  change execCopyFault _ _ _ = _
  simp only [execCopyFault, hr, hk, hh, he, decide_false, Bool.or_false, Bool.false_eq_true, if_false]
end

/-! ## The elements of one act (R372, R375) -/

/-- An element is ready: it can be reached, and it meets no condition. -/
def elemReady (s : State) (w : Who) (r : CReq) (i : Nat) : Bool :=
  !copyCut s w.flat r i && match copyCheck s w r i with
    | .ok _ => true
    | .error _ => false

theorem copyReady_eq (s : State) (w : Who) (r : CReq) : copyReady s w r = (r.batch s w.flat).takeWhile (elemReady s w r) := rfl

theorem elemReady_iff {w : Who} {i : Nat} : elemReady s w r i = true ↔ copyCut s w.flat r i = false ∧ ∃ s1, copyCheck s w r i = .ok s1 := by
  unfold elemReady
  cases copyCheck s w r i <;> simp

/-- Whoever stands at an index of an initial part stands there in the list. -/
theorem getElem?_takeWhile {α : Type} {p : α → Bool} {l : List α} {j : Nat} {x : α} (h : (l.takeWhile p)[j]? = some x) : l[j]? = some x ∧ p x = true := by
  refine ⟨?_, List.mem_takeWhile_imp (List.mem_of_getElem? h)⟩
  obtain ⟨hj, hx⟩ := List.getElem?_eq_some_iff.mp h
  have hpre := List.takeWhile_prefix p (l := l)
  rw [← hx, List.getElem?_eq_getElem (hj.trans_le hpre.length_le), List.IsPrefix.getElem hpre hj]

theorem copyReady_elem {w : Who} {i j : Nat} (h : (copyReady s w r)[j]? = some i) :
    i = r.ack + j ∧ i < r.count ∧ granuleAt s w.flat (r.elem i).2.1 = granuleAt s w.flat (r.elem r.ack).2.1 ∧ elemReady s w r i = true := by
  rw [copyReady_eq] at h
  obtain ⟨hbatch, hready⟩ := getElem?_takeWhile h
  obtain ⟨hall, hgran⟩ := getElem?_takeWhile hbatch
  rw [List.getElem?_map, Option.map_eq_some_iff] at hall
  obtain ⟨x, hx, rfl⟩ := hall
  obtain ⟨hlt, rfl⟩ := List.getElem?_eq_some_iff.mp hx
  simp only [List.length_range, List.getElem_range] at hlt ⊢
  refine ⟨by omega, by omega, by simpa using hgran, by simpa using hready⟩

theorem copyStep_ok {w : Who} {s1 : State} (h : copyCheck s w r r.ack = .ok s1) :
    copyStep w (s, r) r.ack = (perf (moveElem s1 w r r.ack) w.k 10 (if r.kind = .copy then r.ew else (r.elem r.ack).2.2 *
        ((List.range 16).filter fun q => r.mask / 2 ^ q % 2 = 1 && deniedSlices s1 w r / 2 ^ q % 2 = 0).length),
      { r with ack := r.ack + 1, home := some (if r.kind = .copy then homeOf s1 w.flat (r.elem r.ack).2.1 else w.flat) }) := by
  have hsize : r.size (deniedSlices s1 w r) r.ack = if r.kind = .copy then r.ew else (r.elem r.ack).2.2 *
      ((List.range 16).filter fun q => r.mask / 2 ^ q % 2 = 1 && deniedSlices s1 w r / 2 ^ q % 2 = 0).length := by
    unfold CReq.size
    cases r.kind <;> rfl
  simp only [copyStep, h, ne_eq, not_true_eq_false, if_false, CReq.wrote, hsize]

theorem copyCheck_read_error {w : Who} {i : Nat} {e : EFault} (h : engineCheck s w .read (r.elem i).1 (r.elem i).2.2 = .error e) :
    copyCheck s w r i = .error (e, 0) := by
  simp only [copyCheck, h]

theorem copyCheck_write_error {w : Who} {i : Nat} {s1 : State} {e : EFault} (hk : r.kind = .copy) (hr : engineCheck s w .read (r.elem i).1 (r.elem i).2.2 = .ok s1)
    (h : engineCheck s1 w .write (r.elem i).2.1 (r.elem i).2.2 = .error e) :
    copyCheck s w r i = .error ({ e with walked := e.walked || walks s w (r.elem i).1 }, 1) := by
  simp only [copyCheck, hr, hk, if_true, h]

theorem copyStop_broken {w : Who} {acc : Nat} (h : r.broken = some acc) :
    copyStop s w r = some (⟨0x10, 0x20, if acc = 0 then (r.elem r.ack).1 else (r.elem r.ack).2.1, none, false⟩, acc) := by
  simp only [copyStop, h]

theorem copyStop_error {w : Who} {e : EFault} {acc : Nat} (hb : r.broken = none) (hlt : r.ack < r.count) (h : copyCheck s w r r.ack = .error (e, acc)) :
    copyStop s w r = some (e, acc) := by
  simp only [copyStop, hb, Nat.not_le.mpr hlt, if_false, h]

/-- The message by which the home of a copy's last write tells its core (R373). -/
def copyackMsg (s : State) (k : Nat) (ch : Fin 4) (r : CReq) : Msg :=
  { dest := flatOf k, tag := 0, cls := 0, rp := false, bnc := false, status := 0, handler := 0x20, args := [BitVec.ofNat 64 ch.val, BitVec.ofNat 64 r.id, 0, 0]
    key := 0, src := r.home.getD (flatOf k), srcPart := 0, ctx := (s.part k).ctx, task := false, parent := none, sender := .nobody }

theorem copyEnd_near (h : dieOf (r.home.getD (flatOf k)) = dieOf (flatOf k)) : copyEnd s k ch r = copyGood (fillDenied s k ch r) k ch r := by
  simp only [copyEnd, h, ne_eq, not_true_eq_false, if_false]

theorem copyEnd_far (h : dieOf (r.home.getD (flatOf k)) ≠ dieOf (flatOf k)) :
    copyEnd s k ch r = sendMsg (modChan s k ch fun c => { c with reqs := { r with st := .acking } :: c.reqs.drop 1 }) (copyackMsg s k ch r) := by
  simp only [copyEnd, ne_eq, h, not_false_eq_true, if_true] <;> rfl

/-! ## A parked fill (R379) -/

/-- Bytes that a park has read stand at the end of its slot. -/
def slotAdd (cl slot : Nat) (s : State) (_ : Nat) (bs : List Byte) : State :=
  match mfind (s.cluster cl).hb slot with
  | some h => setSlot s cl slot { h with data := h.data ++ bs }
  | none => s

/-- A slot's fill has ended: it is PARKED, or freed where no receiver is left. -/
def slotParked (s : State) (cl slot : Nat) (failed : Bool) : State :=
  match mfind (s.cluster cl).hb slot with
  | some g => if g.mask = 0 then freeSlot s cl slot { g with parked := true, failed } else setSlot s cl slot { g with parked := true, failed }
  | none => s

/-- The state after a park's lines were read: with the record of what stopped it, if anything did. -/
def parkRead (j : Nat) (c : Fin 4) (r : CReq) (x : State × Option EFault) : State :=
  match x.2 with
  | some e => copyRecord x.1 j c r e.code e.reason 0 e.addr 0
  | none => x.1

/-- What a parked slot is left as. -/
theorem slotParked_some {cl slot : Nat} {failed : Bool} {g : HbSlot} (hg : mfind (s.cluster cl).hb slot = some g) :
    (g.mask ≠ 0 → slotParked s cl slot failed = setSlot s cl slot { g with parked := true, failed }) ∧
    (g.mask = 0 → slotParked s cl slot failed = freeSlot s cl slot { g with parked := true, failed }) := by
  constructor <;> intro h <;> simp only [slotParked, hg, h, if_true, if_false]

section
variable {cl j : Nat} {slot : Fin 8} {c : Fin 4} {h : HbSlot} (hh : (s.cluster cl).halted = false) (hp : parkOf s cl slot.val = some (j, c, r))
  (hs : mfind (s.cluster cl).hb slot.val = some h)
include hh hp hs

theorem exec_hbFillEnd_broken (hb : r.broken.isSome = true) :
    exec (.hbFillEnd cl slot) s = .next (slotParked (copyFinish (copyRecord s j c r 0x10 0x20 0 r.src 0) j c r) cl slot.val true) := by
  obtain ⟨acc, hacc⟩ := Option.isSome_iff_exists.mp hb
  change execHbFillEnd _ _ _ = _
  simp only [execHbFillEnd, hp, hs, hh, hacc, Option.isNone_some, Option.isSome_some, Bool.false_and, Bool.or_false, Bool.false_eq_true, if_false, if_true] <;> rfl

omit hh in
theorem exec_hbFillEnd_cut (hb : r.broken = none) (hcut : engineCut s (flatOf j) r.src r.len = true) : exec (.hbFillEnd cl slot) s = .next s := by
  change execHbFillEnd _ _ _ = _
  simp only [execHbFillEnd, hp, hs, hb, hcut, Option.isNone_none, Bool.true_and, Bool.or_true, if_true]

theorem exec_hbFillEnd_read {x : State × Option EFault} (hb : r.broken = none) (hcut : engineCut s (flatOf j) r.src r.len = false)
    (hread : readLines (setSlot s cl slot.val { h with data := [] }) (whoOf s j) (slotAdd cl slot.val) (fillLines r.src r.len) = x) :
    exec (.hbFillEnd cl slot) s = .next (slotParked (copyFinish (parkRead j c r x) j c r) cl slot.val x.2.isSome) := by
  subst hread
  change execHbFillEnd _ _ _ = _
  simp only [execHbFillEnd, hp, hs, hh, hb, hcut, Option.isNone_none, Option.isSome_none, Bool.and_false, Bool.or_false, Bool.false_eq_true, if_false] <;> rfl
end
end

/-! ## O41 -/

/-- Settles O41: one lemma per branch of the events. -/
theorem copyEvents : Obligations.CopyEvents := by
  unfold Obligations.CopyEvents
  intro k ch s hh
  refine ⟨?_, ?_, ?_, ?_, ?_, ?_⟩
  case refine_1 => exact fun r rs hr hst => exec_copyStart_queued hh hr hst
  case refine_2 =>
    intro r hr hk
    refine ⟨fun hb => ?_, fun e acc => exec_copyFault_stopped hh hr hk, exec_copyFault_none hh hr hk⟩
    rw [exec_copyDone_running hh hr hk hb]
    refine ⟨fun hle => by rw [if_pos hle], fun hlt hnone => ?_, fun hlt hsome => ⟨?_, rfl⟩⟩
    · rw [if_neg (Nat.not_le.mpr hlt), hnone]
      rfl
    · rw [if_neg (Nat.not_le.mpr hlt), if_neg (mt List.isEmpty_iff.mp hsome)]
  case refine_3 =>
    intro w r
    refine ⟨fun j i hi => ?_, fun s1 => copyStep_ok⟩
    obtain ⟨hidx, hlt, hgran, hready⟩ := copyReady_elem hi
    exact ⟨hidx, hlt, hgran, elemReady_iff.mp hready⟩
  case refine_4 =>
    intro r
    exact ⟨copyEnd_near, fun h => ⟨copyackMsg s k ch r, copyEnd_far h, rfl, rfl, rfl, rfl⟩⟩
  case refine_5 =>
    intro w r
    exact ⟨fun acc => copyStop_broken, fun e acc => copyStop_error, fun i e => copyCheck_read_error, fun i s1 e => copyCheck_write_error⟩
  case refine_6 =>
    intro slot j c r h hp hs
    refine ⟨fun hb g hg => ?_, exec_hbFillEnd_cut hp hs, fun s1 hb hcut hread g hg => ?_, fun s1 e hb hcut hread g hg => ?_⟩
    · rw [exec_hbFillEnd_broken hh hp hs hb]
      obtain ⟨hsome, hnone⟩ := slotParked_some (failed := true) hg
      exact ⟨fun hm => congrArg _ (hsome hm), fun hm => congrArg _ (hnone hm)⟩
    · rw [exec_hbFillEnd_read hh hp hs hb hcut hread]
      obtain ⟨hsome, hnone⟩ := slotParked_some (failed := false) hg
      exact ⟨fun hm => congrArg _ (hsome hm), fun hm => congrArg _ (hnone hm)⟩
    · rw [exec_hbFillEnd_read hh hp hs hb hcut hread]
      obtain ⟨hsome, hnone⟩ := slotParked_some (failed := true) hg
      exact ⟨fun hm => congrArg _ (hsome hm), fun hm => congrArg _ (hnone hm)⟩

end Sys2Proof.Machine
end

section
/-! PROOFS. Firmware's commands on pages, and what befalls pages (O53). -/

namespace Sys2Proof.Machine
open Sys2Proof

/-! ## The directory -/

section
variable {dev : Nat} {va leaf : W64} {s : State} {p : Page}

theorem dev_of_pageAt (h : pageAt s dev va = some p) : p.dev = dev := by
  have hp := List.find?_some h
  simp only [Bool.and_eq_true, decide_eq_true_eq] at hp
  exact hp.1

theorem has_of_pageAt (h : pageAt s dev va = some p) : p.has va = true := by
  have hp := List.find?_some h
  simp only [Bool.and_eq_true, decide_eq_true_eq] at hp
  exact hp.2

/-- A move of a page that may move. -/
theorem migratePage_ok {w : W64} {home : Nat} (hst : p.state = .resident) (ho : ordOf home = p.dev) (hg : goodLeaf w p.log2 home = true) :
    migratePage s p w home = pageStatus (startMove s p w home) p.dev true := by
  simp only [migratePage, hst, ho, hg, decide_true, Bool.and_true, if_true]

/-- A move that does not apply is rejected. -/
theorem migratePage_rejected {w : W64} {home : Nat} (h : p.state ≠ .resident ∨ ordOf home ≠ p.dev ∨ goodLeaf w p.log2 home = false) :
    migratePage s p w home = pageStatus s p.dev false := by
  have hif : (p.state = .resident && ordOf home = p.dev && goodLeaf w p.log2 home) = false := by
    rcases h with h | h | h <;> simp [h]
  simp only [migratePage, hif, Bool.false_eq_true, if_false]

/-! ## Commands at a leader (R204, R205, R223, R225) -/

section
variable (hl : led s dev = true)
include hl

/-- MAP of a page that meets no other, with a good leaf. -/
theorem exec_map_ok {level : Fin 3} {tables : List W64} {m : List Host.Cell} (q : Page)
    (hq : q = { base := BitVec.ofNat 64 (va.toNat / 2 ^ [30, 21, 16].getD level.val 16 * 2 ^ [30, 21, 16].getD level.val 16), log2 := [30, 21, 16].getD level.val 16
                dev, state := .resident
                home := dirSlice dev (BitVec.ofNat 64 (va.toNat / 2 ^ [30, 21, 16].getD level.val 16 * 2 ^ [30, 21, 16].getD level.val 16)), total := 0
                quad := [0, 0, 0, 0], newLeaf := 0, newHome := 0, filling := false, replicas := [], unmapDue := false, lost := [], idle := 0 })
    (hfree : ∀ x ∈ s.pages, x.dev ≠ dev ∨ x.state = .absent ∨ (x.has q.base = false ∧ q.has x.base = false)) (hgood : goodLeaf leaf q.log2 q.home = true)
    (hregion : regionOf q.base = .shared)
    (hm : writeLeaf s.mem dev q.base leaf 0 (s.dev dev).transRoot transLevels (level.val + 1) tables = some m) :
    exec (.map dev va level leaf tables) s = .next (pageStatus { s with mem := m, pages := s.pages ++ [q] } dev true) := by
  have hclash : (s.pages.any fun x => x.dev = dev && x.state ≠ .absent && (x.has q.base || q.has x.base)) = false := by
    refine List.any_eq_false.mpr fun x hx => ?_
    rcases hfree x hx with h | h | ⟨h1, h2⟩ <;> simp_all
  subst hq
  change execMap dev va level leaf tables s = _
  simp only [execMap, hl, hclash, hgood, hregion, hm, Bool.not_true, Bool.or_false, Bool.false_eq_true, if_false, ne_eq, not_true_eq_false, decide_false]

theorem exec_map_badLeaf {level : Fin 3} {tables : List W64}
    (h : goodLeaf leaf ([30, 21, 16].getD level.val 16)
      (dirSlice dev (BitVec.ofNat 64 (va.toNat / 2 ^ [30, 21, 16].getD level.val 16 * 2 ^ [30, 21, 16].getD level.val 16))) = false) :
    exec (.map dev va level leaf tables) s = .next (pageStatus s dev false) := by
  change execMap dev va level leaf tables s = _
  simp only [execMap, hl, h, Bool.not_true, Bool.not_false, Bool.or_true, Bool.true_or, Bool.false_eq_true, if_false, if_true]

theorem exec_unmap_absent (h : pageAt s dev va = none) : exec (.unmap dev va) s = .next (pageStatus s dev true) := by
  change execUnmap _ _ _ = _
  simp only [execUnmap, hl, h, Bool.not_true, Bool.false_eq_true, if_false]

theorem exec_unmap_page (h : pageAt s dev va = some p) :
    exec (.unmap dev va) s = .next (if p.state = .migrating then modPage s p fun p => { p with unmapDue := true } else if pinnedPage s p then s
      else pageStatus (unmapPage s p) dev true) := by
  change execUnmap _ _ _ = _
  simp only [execUnmap, hl, h, Bool.not_true, Bool.false_eq_true, if_false]

theorem exec_migrate_page {home : Nat} (h : pageAt s dev va = some p) : exec (.migrate dev va leaf home) s = .next (migratePage s p leaf home) := by
  change execMigrate _ _ _ _ _ = _
  simp only [execMigrate, hl, h, Bool.not_true, Bool.false_eq_true, if_false]

/-- A page to be replicated, its replicas' frames not yet filled. -/
def Page.filled (p : Page) (s : State) (frames : List W64) : Page :=
  { p with state := .migrating, newLeaf := leafWord s p, newHome := p.home, filling := true, replicas := frames }

theorem exec_replicate_resident {frames : List W64} (h : pageAt s dev va = some p) (hst : p.state = .resident) (hlen : frames.length = 4)
    (hgood : ∀ i, i < 4 → goodLeaf (frames.getD i 0) p.log2 (i * 256) = true ∧ (frames.getD i 0).toNat / 2 ^ 62 = 0) :
    exec (.replicate dev va frames) s = .next (pageStatus (modPage (dropHints s p) p fun q => q.filled s frames) dev true) := by
  have hall : ((List.range 4).all fun i => goodLeaf (frames.getD i 0) p.log2 (i * 256) && (frames.getD i 0).toNat / 2 ^ 62 = 0) = true :=
    List.all_eq_true.mpr fun i hi => by simpa using hgood i (List.mem_range.mp hi)
  change execReplicate _ _ _ _ = _
  simp only [execReplicate, hl, h, hst, hlen, hall, Bool.not_true, Bool.false_eq_true, if_false, reduceCtorEq, decide_true, Bool.and_true, if_true] <;> rfl

theorem exec_replicate_replicated {frames : List W64} (h : pageAt s dev va = some p) (hst : p.state = .replicated) :
    exec (.replicate dev va frames) s = .next (pageStatus s dev true) := by
  change execReplicate _ _ _ _ = _
  simp only [execReplicate, hl, h, hst, Bool.not_true, Bool.false_eq_true, if_false, if_true]

theorem exec_collapse_replicated (h : pageAt s dev va = some p) (hst : p.state = .replicated) :
    exec (.collapse dev va) s = .next (if pinnedPage s p then s
      else pageStatus (modPage (setLeafWord (dropCopies s p) p (leafWord s p &&& ~~~(0x80 : W64))) p fun q => { q with state := .resident, replicas := [] }) dev true) := by
  change execCollapse _ _ _ = _
  simp only [execCollapse, hl, h, hst, Bool.not_true, Bool.false_eq_true, if_false]

theorem exec_collapse_resident (h : pageAt s dev va = some p) (hst : p.state = .resident) : exec (.collapse dev va) s = .next (pageStatus s dev true) := by
  change execCollapse _ _ _ = _
  simp only [execCollapse, hl, h, hst, Bool.not_true, Bool.false_eq_true, if_false]
end

/-! ## The end of a migration (R223) -/

/-- A page that has moved. -/
def Page.moved (p : Page) : Page := { p with state := .resident, home := p.newHome, total := 0, quad := [0, 0, 0, 0], unmapDue := false }

/-- A page that has moved, with its watches, before an unmap that waits for it. -/
def moveEnds (s : State) (p : Page) : State :=
  moveWatches (modPage (setLeafWord (copyFrame (dropCopies s p) p p.newLeaf) p p.newLeaf) p fun _ => p.moved) p.moved p.moved.home

theorem exec_migrationDone_moved (h : pageAt s dev va = some p) (hst : p.state = .migrating) (hpin : pinnedPage s p = false) (hf : p.filling = false) :
    exec (.migrationDone dev va) s = .next (if p.unmapDue then pageStatus (unmapPage (moveEnds s p) p.moved) dev true else moveEnds s p) := by
  change execMigrationDone _ _ _ = _
  simp only [execMigrationDone, h, hst, hpin, hf, ne_eq, not_true_eq_false, decide_false, Bool.or_false, Bool.false_eq_true, if_false, moveEnds, Page.moved]

theorem exec_migrationDone_pinned (h : pageAt s dev va = some p) (hpin : pinnedPage s p = true) : exec (.migrationDone dev va) s = .next s := by
  change execMigrationDone _ _ _ = _
  simp only [execMigrationDone, h, hpin, Bool.or_true, if_true]

theorem exec_pinLimit (h : pageAt s dev va = some p) : exec (.pinLimit dev va) s = .next (breakPins s p) := by
  change execPinLimit _ _ _ = _
  simp only [execPinLimit, h]

/-! ## Lost lines (R206, R510) -/

theorem exec_lineLost_shared (h : regionOf va = .shared) : exec (.lineLost dev va leaf) s = .next (loseLine s dev va leaf) := by
  change execLineLost _ _ _ _ = _
  simp only [execLineLost, lineLoss, h]

theorem loseLine_replicated (h : pageAt s dev va = some p) (hst : p.state = .replicated) :
    loseLine s dev va leaf = s.modDev dev fun d => { d with uncorr := d.uncorr + 1 } := by
  simp only [loseLine, h, hst, decide_true, Bool.true_or, if_true]

/-- A lost line of the only page, which moves already, where no watch is armed. -/
theorem loseLine_migrating (h : pageAt s dev va = some p) (hst : p.state = .migrating) (hw : s.watches = []) (hp : s.pages = [p]) :
    loseLine s dev va leaf =
      { (s.modDev dev fun d => { d with uncorr := d.uncorr + 1, retired := if p.lost.contains (lineOf va) then d.retired else d.retired + 1 }) with
        pages := [{ p with lost := if p.lost.contains (lineOf va) then p.lost else p.lost ++ [lineOf va] }] } := by
  have hfind : ∀ t : State, t.pages = [{ p with lost := if p.lost.contains (lineOf va) then p.lost else p.lost ++ [lineOf va] }] →
      pageAt t dev va = some { p with lost := if p.lost.contains (lineOf va) then p.lost else p.lost ++ [lineOf va] } := by
    intro t ht
    have hhas := has_of_pageAt h
    rw [pageAt, ht]
    refine List.find?_cons_of_pos ?_
    simp only [dev_of_pageAt h, decide_true, Bool.true_and]
    exact hhas
  unfold loseLine
  rw [h]
  simp only [hst, reduceCtorEq, decide_false, Bool.false_or, if_false, modPage]
  rw [hfind _ (by simp [State.modDev, hp])]
  simp [State.modDev, hst, hp, hw]

theorem exec_lineLost_spad {pos off : Nat} (h : regionOf va = .spad true pos off) :
    exec (.lineLost dev va leaf) s = .next (loseSpad s (dev * 1024 + leaf.toNat % 1024) off) := by
  change execLineLost _ _ _ _ = _
  simp only [execLineLost, lineLoss, h]

/-- A core whose slice has lost a line. -/
def Core.loses (c : Core) (l : Nat) : Core := { c with spadLost := if c.spadLost.contains l then c.spadLost else c.spadLost ++ [l] }

theorem Core.mem_spadLost_loses (c : Core) (l : Nat) : l ∈ (c.loses l).spadLost := by
  unfold Core.loses
  dsimp only
  split
  next h => exact List.contains_iff_mem.mp h
  next => simp

/-- A lost line of a slice is marked, where no watch is armed. -/
theorem mem_spadLost_loseSpad (s : State) (flat off : Nat) : off / 64 * 64 ∈ ((loseSpad { s with watches := [] } flat off).core flat).spadLost := by
  have hcore : (loseSpad { s with watches := [] } flat off).core flat = (s.core flat).loses (off / 64 * 64) :=
    State.core_modCore (State.modDev { s with watches := [] } (ordOf flat) fun d =>
      { d with uncorr := d.uncorr + 1, retired := if (s.core flat).spadLost.contains (off / 64 * 64) then d.retired else d.retired + 1 }) flat
      fun c => c.loses (off / 64 * 64)
  rw [hcore]
  exact Core.mem_spadLost_loses ..

theorem corr_noteCorrected {d : Dev} (hd : mfind s.devs dev = some d) : ((noteCorrected s dev va).dev dev).corr = d.corr + 1 := by
  rw [noteCorrected, State.dev_modDev, State.dev, hd]
  rfl

theorem mem_corrected_noteCorrected : (homeOf s (dev * 1024) va, s.ftime) ∈ ((noteCorrected s dev va).dev dev).corrected := by
  rw [noteCorrected, State.dev_modDev]
  simp

/-! ## Hotness (R220, R221) -/

/-- A page with the counters of an interval noted and halved. -/
def Page.halved (p : Page) : Page := { p with idle := if p.total = 0 then p.idle + 1 else 0, total := p.total / 2, quad := p.quad.map (· / 2) }

/-- Without a leader no page moves: the counters halve. -/
theorem exec_hotnessHalving_unled (set : Option HotPolicy) (hl : led s dev = false) :
    exec (.hotnessHalving ⟨dev, set⟩) s = .next { (s.modDev dev fun d => { d with policy := set.getD d.policy }) with
      pages := s.pages.map fun p => if p.dev = dev then p.halved else p } := by
  have hpages : ((s.pages.map fun p => if p.dev = dev then { p with idle := if p.total = 0 then p.idle + 1 else 0 } else p).map
      fun p => if p.dev = dev then { p with total := p.total / 2, quad := p.quad.map (· / 2) } else p) = s.pages.map fun p => if p.dev = dev then p.halved else p := by
    rw [List.map_map]
    refine List.map_congr_left fun p _ => ?_
    by_cases hp : p.dev = dev <;> simp [hp, Page.halved]
  change execHotnessHalving _ _ = _
  simp only [execHotnessHalving, hl, Bool.false_eq_true, if_false]
  exact congrArg (fun l => Host.Outcome.next { (s.modDev dev fun d => { d with policy := set.getD d.policy }) with pages := l }) hpages

/-- The first row of the policy: a page moves to the tile at its centre of gravity. -/
theorem applyPolicy_near {t : Nat} (hst : p.state = .resident) (hc : p.centre = some t) (hq : (s.dev p.dev).policy.quads ≤ p.quad.foldl (· + ·) 0)
    (hh : (s.dev p.dev).policy.hops < hops (p.home % 256) t) :
    applyPolicy s p = migratePage { s with free := s.free + 1 } p (leafWord s p) (p.home / 256 * 256 + t) := by
  have hmove : policyMove s p = some (leafWord s p, p.home / 256 * 256 + t) := by
    simp only [policyMove, hc, Option.bind_some, hq, hh, and_self, if_true, Option.some_or]
  simp only [applyPolicy, hst, if_true, hmove]

/-! ## Rights (R212) -/

/-- Whether a PLB entry meets a region of a domain. -/
def PlbEnt.hit (e : PlbEnt) (dom : Half) (base : W64) (log2 : Nat) : Bool :=
  e.dom = dom && decide (e.base.toNat % 2 ^ 57 / 2 ^ max log2 e.log2 = base.toNat % 2 ^ 57 / 2 ^ max log2 e.log2)

theorem exec_rightsShootdown_led {dom : Half} {base : W64} {log2 : Nat} (hl : (s.devs.any fun d => led s d.1) = true) :
    exec (.rightsShootdown dom base log2) s =
      .next { s with cores := s.cores.map fun c => (c.1, { c.2 with plb := c.2.plb.filter fun e => !e.hit dom base log2 }) } := by
  change execRightsShootdown _ _ _ _ = _
  simp only [execRightsShootdown, hl, if_true] <;> rfl

theorem plb_shootdown (dom : Half) (base : W64) (log2 flat : Nat) :
    (State.core { s with cores := s.cores.map fun c => (c.1, { c.2 with plb := c.2.plb.filter fun e => !e.hit dom base log2 }) } flat).plb =
      (s.core flat).plb.filter fun e => !e.hit dom base log2 := by
  rw [State.core, State.core]
  have hmap := mfind_map s.cores (fun _ (c : Core) => { c with plb := c.plb.filter fun e => !e.hit dom base log2 }) flat
  rw [hmap]
  cases mfind s.cores flat <;> rfl
end

/-! ## O53 -/

/-- Settles O53: one lemma per command and event. -/
theorem pageEvents : Obligations.PageEvents := by
  unfold Obligations.PageEvents
  intro dev va leaf s
  refine ⟨fun hl => ⟨fun level tables => ⟨fun m => exec_map_ok hl _ rfl, exec_map_badLeaf hl⟩, exec_unmap_absent hl, fun p hp => ?_⟩, fun p hp => ?_,
    fun pos off h => ⟨exec_lineLost_spad h, mem_spadLost_loseSpad ..⟩, rfl, fun d hd => ⟨corr_noteCorrected hd, mem_corrected_noteCorrected⟩, rfl,
    fun h => ?_, fun corrected h => ?_, fun set => ?_, fun dom base log2 flat => ⟨fun hl => ?_, fun hl => ?_⟩, fun p t => applyPolicy_near,
    fun p w home => ⟨migratePage_ok, migratePage_rejected⟩⟩
  case refine_1 =>
    have hdev := dev_of_pageAt hp
    refine ⟨fun hst => ?_, fun hst hpin => ?_, fun hst hpin => ?_, fun home hst ho hg => ?_, fun home hst => ?_, fun frames hst hlen hg => ?_,
      fun frames => exec_replicate_replicated hl hp, fun hst hpin => ?_, fun hst hpin => ?_, exec_collapse_resident hl hp⟩
    · rw [exec_unmap_page hl hp, if_pos hst]
    · rw [exec_unmap_page hl hp, if_neg hst, hpin]
      rfl
    · rw [exec_unmap_page hl hp, if_neg hst, hpin]
      rfl
    · rw [exec_migrate_page hl hp, migratePage_ok hst (by rw [ho, hdev]) hg, hdev]
    · rw [exec_migrate_page hl hp, migratePage_rejected (.inl hst), hdev]
    · exact ⟨_, exec_replicate_resident hl hp hst hlen hg, rfl⟩
    · rw [exec_collapse_replicated hl hp hst, hpin]
      exact ⟨_, rfl, rfl⟩
    · rw [exec_collapse_replicated hl hp hst, hpin]
      rfl
  case refine_2 =>
    refine ⟨fun hst hpin hf hu => ?_, fun hst hpin hf hu => ?_, fun hst => exec_migrationDone_pinned hp, exec_pinLimit hp, fun hst hr => ?_, fun hst hr hw hps => ?_⟩
    · rw [exec_migrationDone_moved hp hst hpin hf, hu]
      rfl
    · rw [exec_migrationDone_moved hp hst hpin hf, hu]
      exact ⟨_, rfl⟩
    · rw [exec_lineLost_shared hr, loseLine_replicated hp hst]
    · rw [exec_lineLost_shared hr, loseLine_migrating hp hst hw hps]
  case refine_3 =>
    change execScrubSweep dev va false (some leaf) s = execLineLost dev va leaf s
    simp only [execScrubSweep, h, if_false, execLineLost]
  case refine_4 =>
    change execScrubSweep dev va corrected (some leaf) s = _
    simp only [execScrubSweep, h, if_true]
  case refine_5 =>
    cases hl : led s dev with
    | true => exact ⟨_, rfl, fun _ h => (by cases h), fun h => (by cases h)⟩
    | false =>
      refine ⟨_, exec_hotnessHalving_unled set hl, fun _ _ => ?_, fun _ p hp => ?_⟩
      · exact congrArg Dev.policy (State.dev_modDev s dev fun d => { d with policy := set.getD d.policy })
      · obtain ⟨q, hq, rfl⟩ := List.mem_map.mp hp
        refine ⟨q, hq, ?_⟩
        by_cases hd : q.dev = dev <;> simp [hd, Page.halved]
  case refine_6 =>
    refine ⟨_, exec_rightsShootdown_led hl, rfl, rfl, fun e => ?_⟩
    rw [plb_shootdown]
    simp [PlbEnt.hit, List.mem_filter, Decidable.imp_iff_not_or]
  case refine_7 =>
    change execRightsShootdown _ _ _ _ = _
    simp only [execRightsShootdown, hl, Bool.false_eq_true, if_false]

end Sys2Proof.Machine
end

section
/-! PROOFS. Links, streams, frames, the flow census and the loss of a module (O54). -/

namespace Sys2Proof.Machine
open Sys2Proof

/-! ## A device after a change of a link -/

theorem State.modDev_congr {s : State} {k : Nat} {f g : Dev → Dev} (h : f (s.dev k) = g (s.dev k)) : s.modDev k f = s.modDev k g := by
  simp only [State.modDev, h]

/-- A change of a link depends on what it makes of the link that stands there. -/
theorem modLink_congr {s : State} {dev : Nat} {n : Fin 18} {f g : Link → Link} (h : f (linkOf s dev n) = g (linkOf s dev n)) :
    modLink s dev n f = modLink s dev n g := by
  have hset : f (s.dev dev).links[n] = g (s.dev dev).links[n] := h
  exact congrArg moveStreams (State.modDev_congr (by rw [hset]))

/-- Streams that move change nothing of a device but its streams. -/
theorem dev_moveStreams (s : State) (d : Nat) : ∃ es, (moveStreams s).dev d = { s.dev d with e2e := es } := by
  have hmap : (moveStreams s).devs = s.devs.map fun x => (x.1, if x.2.e2e.isEmpty then x.2 else { x.2 with e2e := x.2.e2e.map fun e => (e.1, e.2.moved s x.1 e.1) }) :=
    List.map_congr_left fun x _ => by split <;> rfl
  have hfind := mfind_map s.devs (fun k x => if x.e2e.isEmpty then x else { x with e2e := x.e2e.map fun e => (e.1, e.2.moved s k e.1) }) d
  rw [State.dev, hmap, hfind, State.dev]
  cases mfind s.devs d with
  | none => exact ⟨Dev.reset.e2e, rfl⟩
  | some x =>
    rw [Option.map_some, Option.getD_some, Option.getD_some]
    split
    · exact ⟨x.e2e, rfl⟩
    · exact ⟨_, rfl⟩

theorem dev_modLink (s : State) (dev : Nat) (n : Fin 18) (f : Link → Link) :
    ∃ es u, (modLink s dev n f).dev dev = { s.dev dev with links := (s.dev dev).links.set n (f (linkOf s dev n)), e2e := es, unrouted := u } := by
  obtain ⟨es, hes⟩ := dev_moveStreams (s.modDev dev fun d => ({ d with links := d.links.set n (f d.links[n]) } : Dev).routed) dev
  exact ⟨es, _, hes.trans (by rw [State.dev_modDev]; rfl)⟩

@[simp] theorem linkOf_modLink (s : State) (dev : Nat) (n : Fin 18) (f : Link → Link) : linkOf (modLink s dev n f) dev n = f (linkOf s dev n) := by
  obtain ⟨es, u, h⟩ := dev_modLink s dev n f
  rw [linkOf, h]
  simp

theorem withdrawn_modLink (s : State) (dev : Nat) (n : Fin 18) (f : Link → Link) : ((modLink s dev n f).dev dev).withdrawn = (s.dev dev).withdrawn := by
  obtain ⟨es, u, h⟩ := dev_modLink s dev n f
  rw [h]

theorem dev_writeHealth (s : State) (dev : Nat) :
    ∃ q a b, (writeHealth s dev).dev dev = { s.dev dev with hseq := q, healthA := a, healthB := b } := by
  rw [writeHealth, State.dev_modDev]
  split
  · exact ⟨_, _, _, rfl⟩
  · exact ⟨_, _, _, rfl⟩

/-- A withdrawn unit is on the list, and its link's state stands. -/
theorem dev_withdraw (s : State) (dev : Nat) (r : Resource) : r ∈ ((withdraw s dev r).dev dev).withdrawn ∧ ((withdraw s dev r).dev dev).links = (s.dev dev).links := by
  unfold withdraw
  split
  next h => exact ⟨List.contains_iff_mem.mp h, rfl⟩
  next =>
    obtain ⟨q, a, b, h⟩ := dev_writeHealth (s.modDev dev fun d => { d with withdrawn := d.withdrawn ++ [r] }) dev
    rw [h, State.dev_modDev]
    exact ⟨List.mem_append_right _ (List.mem_singleton_self r), rfl⟩

theorem failCheck_failed {s : State} {dev : Nat} {n : Fin 18} (h : (linkOf s dev n).st = .failed) :
    (linkOf (failCheck s dev n) dev n).st = .failed ∧ .link n.val ∈ ((failCheck s dev n).dev dev).withdrawn := by
  obtain ⟨hmem, hlinks⟩ := dev_withdraw s dev (.link n.val)
  rw [failCheck, if_pos h]
  refine ⟨?_, hmem⟩
  rw [linkOf, hlinks]
  exact h

theorem failCheck_live {s : State} {dev : Nat} {n : Fin 18} (h : (linkOf s dev n).st ≠ .failed) : failCheck s dev n = s := by rw [failCheck, if_neg h]

/-! ## Frames and keys (R484 to R488) -/

/-- What a rotation that begins leaves of the receiver's side, and what a key that settles leaves. -/
theorem settleKey_receiver (l : Link) : l.settleKey.rxSeq = l.rxSeq ∧ l.settleKey.nak = l.nak ∧ l.settleKey.partly = l.partly := by
  unfold Link.settleKey
  extract_lets l1
  have h1 : l1.rxSeq = l.rxSeq ∧ l1.nak = l.nak ∧ l1.partly = l.partly := by
    by_cases h : (l.st = .rekeying && l.old.isNone && l.rxOld.isNone) = true
    · simp only [l1, if_pos h, and_self]
    · simp only [l1, if_neg h, and_self]
  clear_value l1
  split
  · split
    · exact h1
    · exact h1
  · exact h1

/-- A key settles at once where none waits and the link is in no rotation that can end. -/
theorem settleKey_still {l : Link} (h : (l.st = .rekeying && l.old.isNone && l.rxOld.isNone) = false) (hw : l.waiting = none) : l.settleKey = l := by
  unfold Link.settleKey
  rw [if_neg (by rw [h]; exact Bool.false_ne_true)]
  dsimp only
  split
  next heq => rw [hw] at heq; cases heq
  next => rfl

/-- A rotation that ends, with none waiting. -/
theorem settleKey_ends {l : Link} (h : (l.st = .rekeying && l.old.isNone && l.rxOld.isNone) = true) (hw : l.waiting = none) :
    l.settleKey = { l with st := l.after, after := .up, newSeen := none } := by
  unfold Link.settleKey
  rw [if_pos h]
  dsimp only
  split
  next heq => rw [hw] at heq; cases heq
  next => rfl

section
variable {l : Link} {f : Frame} {now : Nat}

theorem receive_silent (hst : l.st = .up) (hs : l.silent now = true) : l.receive f now = l.train := by
  simp only [Link.receive, hst, reduceCtorEq, decide_false, Bool.or_self, Bool.false_eq_true, if_false, hs, if_true]

theorem receive_badCrc (hst : l.st = .up) (hs : l.silent now = false) (hc : crcOk f = false) : l.receive f now = { l with nak := true } := by
  simp only [Link.receive, hst, reduceCtorEq, decide_false, Bool.or_self, Bool.false_eq_true, if_false, hs, hc, Bool.not_false, if_true]

/-- A frame in the clear that does not pass is answered by a NAK. -/
theorem receive_refused (hst : l.st = .up ∨ l.st = .quiesced) (hs : l.silent now = false) (henc : l.enc = false) (hc : crcOk f = true) (hp : l.passes f = false) :
    l.receive f now = { l with nak := true } := by
  rcases hst with hst | hst <;>
    simp only [Link.receive, hst, reduceCtorEq, decide_false, Bool.or_self, Bool.false_eq_true, if_false, hs, hc, henc, hp, Bool.not_true, Bool.not_false,
      Bool.false_and, if_true]

theorem passes_data (hst : l.st = .up) (henc : l.enc = false) (hn : f.nval ≤ 8) (ht : f.typ = 0) : l.passes f = decide (f.seq = l.rxSeq) := by
  simp only [Link.passes, henc, ht, Link.carries, hst, Bool.false_and, Nat.not_lt.mpr hn, decide_false, ne_eq, not_true_eq_false, Bool.or_self, Bool.false_or,
    Bool.or_true, Bool.and_true, Nat.not_lt_zero, decide_not, Bool.not_not]

theorem passes_quiesced (hst : l.st = .quiesced) (ht : f.typ = 0) (hv : f.vc ≠ 3) : l.passes f = false := by
  have hvc : (f.vc.val = 3) = False := by
    simp only [eq_iff_iff, iff_false]
    exact fun h => hv (Fin.ext h)
  simp only [Link.passes, ht, Link.carries, hst, hvc, decide_false, ne_eq, not_true_eq_false, Bool.or_self, Bool.and_false]

/-- What a data frame in sequence leaves of the receiver's side. -/
theorem receive_data (hst : l.st = .up) (hs : l.silent now = false) (henc : l.enc = false) (hc : crcOk f = true) (hn : f.nval ≤ 8) (ht : f.typ = 0)
    (hseq : f.seq = l.rxSeq) :
    (l.receive f now).rxSeq = (l.rxSeq + 1) % 1024 ∧ (l.receive f now).nak = false ∧
      (l.receive f now).partly = partlyLeft (l.partly ++ (f.data.take f.nval).map fun x => (f.vc, x)) f.vc := by
  have hp : l.passes f = true := by rw [passes_data hst henc hn ht, decide_eq_true hseq]
  have htail : l.receive f now = Link.settleKey { l.acked f.ack with
      rxSeq := (l.rxSeq + 1) % 1024, nak := false, heard := now, newSeen := l.newSeen
      partly := partlyLeft (l.partly ++ (f.data.take f.nval).map fun x => (f.vc, x)) f.vc } := by
    simp only [Link.receive, hst, reduceCtorEq, decide_false, Bool.or_self, Bool.false_eq_true, if_false, hs, hc, henc, hp, ht, Bool.not_true, Bool.false_and]
    simp
  obtain ⟨hrx, hnak, hpartly⟩ := settleKey_receiver { l.acked f.ack with
      rxSeq := (l.rxSeq + 1) % 1024, nak := false, heard := now, newSeen := l.newSeen
      partly := partlyLeft (l.partly ++ (f.data.take f.nval).map fun x => (f.vc, x)) f.vc }
  rw [htail]
  exact ⟨hrx, hnak, hpartly⟩
end

/-- A new key at an UP link with room goes into force at once. -/
theorem rekey_up {l : Link} (e : W32) (hst : l.st = .up) (hr : l.replay.length < 64) :
    l.rekey e = Link.begin { l with used := e :: l.used, waiting := some e } e := by
  simp only [Link.rekey, hst, Link.settleKey, reduceCtorEq, decide_false, Bool.false_and, Bool.false_eq_true, if_false, hr, if_true]

/-- RETIRE leaves the old key; the link is REKEYING until its receiver has dropped it too. -/
theorem retired_st {l : Link} (hst : l.st = .rekeying) (hw : l.waiting = none) :
    l.retired.old = none ∧ l.retired.st = if l.rxOld = none then l.after else .rekeying := by
  let sent : Link := { l.send 4 [(l.old.getD 0).setWidth 128] with old := none }
  have hsent : sent.st = .rekeying ∧ sent.old = none ∧ sent.rxOld = l.rxOld ∧ sent.waiting = none ∧ sent.after = l.after := ⟨hst, rfl, rfl, hw, rfl⟩
  have hretired : l.retired = sent.settleKey := rfl
  rw [hretired]
  clear_value sent
  obtain ⟨hsst, hold, hrxOld, hwait, hafter⟩ := hsent
  by_cases hrx : l.rxOld = none
  · rw [settleKey_ends (by simp [hsst, hold, hrxOld, hrx]) hwait, if_pos hrx]
    exact ⟨hold, hafter⟩
  · rw [settleKey_still (by simp [hsst, hold, hrxOld, Option.isSome_iff_ne_none, hrx]) hwait, if_neg hrx]
    exact ⟨hold, hsst⟩

theorem acked_all {x : Link} (hle : x.replay.length ≤ x.txSeq) (hlt : x.txSeq < 1024) : (x.acked x.txSeq).replay = [] := by
  have hn : (x.txSeq + 1024 - (x.txSeq + 1024 - x.replay.length) % 1024) % 1024 = x.replay.length := by omega
  simp only [Link.acked, hn, le_refl, if_true, List.drop_length]

/-! ## Streams (R482, R483) -/

/-- A plane that a stream of no service class takes is one of its order whose links stand at both ends. -/
theorem planeOf_some {s : State} {a b cls n : Nat} (h : planeOf s a b cls = some n) (hc : cls ≠ 3) :
    n ∈ planeOrder a b cls ∧ bothEnds s a b n Link.choosable = true := by
  unfold planeOf at h
  split at h
  next m hm =>
    cases h
    exact ⟨List.mem_of_find?_eq_some hm, List.find?_some (p := fun n => bothEnds s a b n Link.choosable) hm⟩
  next => rw [if_neg hc] at h; cases h

/-- A message that its stream's hub numbers: the next number, on the plane that the stream takes. -/
theorem sendMsg_crossing {s : State} {m : Msg} {e : E2e} {n : Nat} (hroute : rerouted s m.dest = m.dest) (hcross : crosses s m.src m.dest = true)
    (he : mfind (s.dev (ordOf m.src)).e2e (ordOf m.dest * 4 + m.cls.val) = some e) (hp : e.plane = none)
    (hplane : planeOf s (ordOf m.src) (ordOf m.dest) m.cls.val = some n) :
    (sendMsg s m).net = s.net ++ [{ m with num := some e.next }] ∧
      mfind ((sendMsg s m).dev (ordOf m.src)).e2e (ordOf m.dest * 4 + m.cls.val) =
        some ⟨some n, e.next + 1, e.unacked.map (fun u => (u.1, n)) ++ [(e.next, n)]⟩ := by
  have hcls := m.cls.isLt
  have hdiv : (ordOf m.dest * 4 + m.cls.val) / 4 = ordOf m.dest := by omega
  have hmod : (ordOf m.dest * 4 + m.cls.val) % 4 = m.cls.val := by omega
  have hnum : nextNum s (ordOf m.src) (ordOf m.dest) m.cls.val = e.next := by simp only [nextNum, he, Option.map_some, Option.getD_some]
  have hsend : sendMsg s m = noteSent { s with net := s.net ++ [{ m with num := some e.next }] } (ordOf m.src) (ordOf m.dest) m.cls.val := by
    simp only [sendMsg, hroute, hcross, if_true, hnum]
  have hmoved : ∀ net, e.moved { s with net := net } (ordOf m.src) (ordOf m.dest * 4 + m.cls.val) = { e with plane := some n, unacked := e.unacked.map fun u => (u.1, n) } := by
    intro net
    have hplane : planeOf { s with net := net } (ordOf m.src) (ordOf m.dest) m.cls.val = some n := hplane
    simp only [E2e.moved, hp, Option.any_none, Bool.false_eq_true, if_false, hdiv, hmod, hplane]
  rw [hsend]
  refine ⟨rfl, ?_⟩
  have he : mfind (State.dev { s with net := s.net ++ [{ m with num := some e.next }] } (ordOf m.src)).e2e (ordOf m.dest * 4 + m.cls.val) = some e := he
  rw [noteSent, State.dev_modDev]
  simp only [mfind_mset_self, he, Option.getD_some, hmoved]

theorem routeNowhere_unrouted {s : State} {dev : Nat} (hsvc : (s.dev dev).svc = 0) (hall : ∀ n : Fin 18, (linkOf s dev n).st = .quiesced) :
    ((routeNowhere s dev).dev dev).unrouted = true := by
  have hlinks : ((s.dev dev).links.toList.all fun l => l.st = .quiesced) = true := by
    refine List.all_eq_true.mpr fun l hl => ?_
    obtain ⟨i, hi, rfl⟩ := List.mem_iff_getElem.mp hl
    have hi : i < 18 := by simpa using hi
    simpa [linkOf] using hall ⟨i, hi⟩
  simp only [routeNowhere, hsvc, decide_true, hlinks, Bool.and_self, if_true, State.dev_modDev]

/-! ## The flow census (R491, R492) -/

theorem memRead_memWriteBytes_below {m : List Host.Cell} {k j : Nat} (bs : List Byte) (h : Memory.wf m = true) (hj : j < k) :
    memRead (memWriteBytes m k bs) j = memRead m j := by
  induction bs generalizing m k with
  | nil => rfl
  | cons b bs ih => rw [memWriteBytes, ih (memory_wf_memWrite k b h) (by omega), memRead_memWrite_ne b h (by omega)]

/-- A byte read back from bytes that were written. -/
theorem memRead_memWriteBytes {m : List Host.Cell} {k j : Nat} {bs : List Byte} (h : Memory.wf m = true) (hj : j < bs.length) :
    memRead (memWriteBytes m k bs) (k + j) = bs.getD j 0 := by
  induction bs generalizing m k j with
  | nil => cases hj
  | cons b bs ih =>
    have hw := memory_wf_memWrite k b h
    rw [memWriteBytes]
    cases j with
    | zero =>
      exact (memRead_memWriteBytes_below bs hw (Nat.lt_succ_self k)).trans (memRead_memWrite_self k b h)
    | succ j =>
      have hlt : j < bs.length := by simpa using hj
      rw [← Nat.add_assoc, Nat.add_right_comm, ih hw hlt, List.getD_cons_succ]

theorem mem_modPartOf (s : State) (flat c : Nat) (f : Part → Part) : (s.modPartOf flat c f).mem = s.mem := by
  unfold State.modPartOf
  split <;> rfl

theorem mem_fireWatches (s : State) (keys : List Nat) : (fireWatches s keys).mem = s.mem := by
  have hwake : ∀ t w, (wakeWatcher t w).mem = t.mem := fun t w => by
    unfold wakeWatcher
    split
    · rfl
    · exact (mem_modPartOf ..).trans (mem_modPartOf ..)
  refine foldl_leaves (π := State.mem) (fun t w => ?_) _ s
  split
  · split
    · exact hwake _ w
    · rfl
  · rfl

/-- A write at a physical place: what it leaves of the state, and the cells that it writes. -/
theorem physWrite_spec (s : State) (key : Nat) (bs : List Byte) :
    MemFrame s (physWrite s key bs) ∧
      (Memory.wf s.mem = true → ∀ j, j < bs.length → memRead (physWrite s key bs).mem (key + j) = bs.getD j 0) := by
  unfold physWrite
  extract_lets at_ s1
  have hs1 : MemFrame s s1 := by
    refine MemFrame.foldl (fun t kp => MemFrame.foldl (fun t m => MemFrame.foldl (fun t l => ?_) _ t) _ t) _ s
    exact memFrame_stashRecallLine t kp.1 (BitVec.ofNat 64 l.1)
  clear_value s1
  refine ⟨hs1.trans ((MemFrame.writeBytes s1 key bs).trans (memFrame_fireWatches ..)), fun hwf j hj => ?_⟩
  rw [mem_fireWatches]
  exact memRead_memWriteBytes (hs1.inv hwf) hj

/-- The header of a census record. -/
def censusHead (s : State) (dev : Nat) : List Byte :=
  bytesOf 8 (censusInstant s (s.dev dev).censusIvl) ++ bytesOf 8 (s.dev dev).rseq ++ bytesOf 4 (censusList s dev).length ++ bytesOf 4 ((s.dev dev).censusIvl * 10) ++
    List.replicate 40 0

/-- The place of the next census record. -/
def censusKey (s : State) (dev : Nat) : Nat := keyOf 0 dev ((s.dev dev).censusBase.toNat + (s.dev dev).rseq % max (s.dev dev).censusSlots 1 * 134080)

/-- A state whose next census record has its entries. -/
def censusEntries (s : State) (dev : Nat) : State :=
  releaseAt (physWrite { s with free := s.free + 1 } (censusKey s dev + 64) ((censusList s dev).flatMap (censusBytes s dev (censusFlow s dev)))) (dev * 1024) 4

theorem memFrame_censusEntries (s : State) (dev : Nat) : MemFrame s (censusEntries s dev) :=
  (MemFrame.free s (s.free + 1)).trans ((physWrite_spec ..).1.trans (memFrame_releaseAt ..))

theorem exec_censusSnapshot {s : State} {dev : Nat} (hb : (s.dev dev).boot = 2) (hs : (s.dev dev).censusSlots ≠ 0)
    (hn : censusInstant s (s.dev dev).censusIvl ≠ (s.dev dev).censusAt) :
    exec (.censusSnapshot dev) s = .next ((physWrite (censusEntries s dev) (censusKey s dev) (censusHead s dev)).modDev dev fun d =>
      { d with rseq := d.rseq + 1, censusAt := censusInstant s (s.dev dev).censusIvl, flow := censusFlow s dev }) := by
  change execCensusSnapshot _ _ = _
  simp only [execCensusSnapshot, hb, hs, hn, ne_eq, not_true_eq_false, decide_false, Bool.or_self, Bool.false_eq_true, if_false] <;> rfl

theorem length_bytesOf (n x : Nat) : (bytesOf n x).length = n := by
  induction n generalizing x with
  | zero => rfl
  | succ n ih => rw [bytesOf, List.length_cons, ih]

theorem getD_censusHead (s : State) (dev : Nat) {i : Nat} (hi : i < 8) : (censusHead s dev).getD (8 + i) 0 = (bytesOf 8 (s.dev dev).rseq).getD i 0 := by
  have hlen : ∀ x, (bytesOf 8 x).length = 8 := length_bytesOf 8
  simp only [censusHead, List.append_assoc, List.getD_eq_getElem?_getD]
  rw [List.getElem?_append_right (by rw [hlen]; omega), hlen, Nat.add_sub_cancel_left, List.getElem?_append_left (by rw [hlen]; exact hi)]

theorem length_censusHead (s : State) (dev : Nat) : (censusHead s dev).length = 64 := by simp [censusHead, length_bytesOf]

/-! ## The loss of a module (R493) -/

/-- What the loss of a module turns on: the entries of its Tablas, and whether it is marked. -/
def peerView (dev : Nat) (s : State) : (Nat → List TEnt) × Bool := (fun dk => (s.die dk).tabla, (s.dev dev).lost)

theorem MemFrame.peerView {s t : State} (h : MemFrame s t) (dev : Nat) : peerView dev t = peerView dev s := by
  have htabla : (fun dk => (t.die dk).tabla) = fun dk => (s.die dk).tabla := by
    funext dk
    have hdie := congrArg Die.tabla (h.die dk)
    exact hdie
  have hdev : t.dev dev = s.dev dev := by simp only [State.dev, h.devs]
  rw [Machine.peerView, Machine.peerView, htabla, hdev]

theorem peerView_modPartOf (dev : Nat) (s : State) (flat c : Nat) (f : Part → Part) : peerView dev (s.modPartOf flat c f) = peerView dev s := by
  unfold State.modPartOf
  split <;> rfl

theorem peerView_modDev (dev : Nat) (s : State) (d : Nat) {f : Dev → Dev} (hf : ∀ x, (f x).lost = x.lost) : peerView dev (s.modDev d f) = peerView dev s := by
  have hlost : ((s.modDev d f).dev dev).lost = (s.dev dev).lost := by
    by_cases h : dev = d
    · rw [h, State.dev_modDev, hf]
    · rw [State.dev_modDev_ne s f h]
  rw [peerView, peerView, hlost]
  rfl

theorem peerView_undoTask (dev : Nat) (s : State) (t : Task) : peerView dev (undoTask s t) = peerView dev s := by
  unfold undoTask
  extract_lets s1 s2 s3
  have h2 : peerView dev s2 = peerView dev s := by
    refine (foldl_leaves (π := peerView dev) (fun u a => ?_) t.acts s1).trans rfl
    split
    · split
      · exact peerView_modPartOf ..
      · rfl
    · rfl
  have h3 : peerView dev s3 = peerView dev s := (peerView_modPartOf ..).trans h2
  clear_value s3
  split <;> exact h3

theorem peerView_abortContext (dev : Nat) (s : State) (c : Nat) : peerView dev (abortContext s c) = peerView dev s := by
  unfold abortContext
  dsimp only
  split
  · rfl
  · exact foldl_leaves (π := peerView dev) (peerView_undoTask dev) _ s

theorem peerView_cancelColl (dev : Nat) (s : State) (d : Nat) (c : Coll) (reason freason cause : Nat) (addr : W64) :
    peerView dev (cancelColl s d c reason freason cause addr) = peerView dev s := by
  unfold cancelColl
  split
  next s1 slot h =>
    have hs1 : peerView dev s1 = peerView dev s := by
      split at h
      · cases h; rfl
      · exact (congrArg (peerView dev ·.1) h).symm.trans ((memFrame_writeRecord ..).peerView dev)
    refine Eq.trans ?_ hs1
    exact peerView_modDev dev s1 d (f := fun x => { x with colls := x.colls.map _ }) fun _ => rfl

theorem peerView_breakGroups (dev : Nat) (s : State) : peerView dev (breakGroups s) = peerView dev s := by
  refine foldl_leaves (π := peerView dev) (f := fun s d => (cancelWhere s d.1 2 fun _ => true).modDev d.1 fun x =>
    { x with groups := x.groups.map fun g => (g.1, { g.2 with broken := true }) }) (fun t d => ?_) s.devs s
  refine Eq.trans (peerView_modDev dev _ d.1 (f := fun x => { x with groups := x.groups.map _ }) fun _ => rfl) ?_
  exact foldl_leaves (π := peerView dev) (fun u c => peerView_cancelColl ..) _ t

theorem peerView_abortAll (dev : Nat) (cs : List (Nat × Ctx)) (s : State) : peerView dev (cs.foldl (fun s c => abortContext s c.1) s) = peerView dev s := by
  induction cs generalizing s with
  | nil => rfl
  | cons c cs ih => rw [List.foldl_cons, ih, peerView_abortContext]

/-- A quiesce leaves Tabla's entries and the marks of lost modules. -/
theorem peerView_quiesceAll (dev : Nat) (s : State) (reason : Fin 2) : peerView dev (quiesceAll s reason) = peerView dev s := by
  have hbefore := (peerView_breakGroups dev _).trans (peerView_abortAll dev s.ctxs s)
  unfold quiesceAll
  dsimp only
  generalize breakGroups (s.ctxs.foldl (fun s c => abortContext s c.1) s) = u at hbefore ⊢
  have hlost : ((mfind (u.devs.map fun d : Nat × Dev => (d.1, { d.2 with links := d.2.links.map Link.quiesce })) dev).getD Dev.reset).lost = (u.dev dev).lost := by
    refine (congrArg (fun o : Option Dev => (o.getD Dev.reset).lost) (mfind_map u.devs (fun _ d => { d with links := d.links.map Link.quiesce }) dev)).trans ?_
    rw [State.dev]
    cases mfind u.devs dev <;> rfl
  rw [← hbefore]
  exact congrArg (Prod.mk fun dk => (u.die dk).tabla) hlost

theorem quiesced_quiesceAll (s : State) (reason : Fin 2) : (quiesceAll s reason).quiesced = true := rfl

/-- The notices of a lost module's transfers: what they leave of one of its Tablas. -/
theorem tabla_loseStep (s : State) (dk j : Nat) (h : j = dk ∨ (s.die j).tabla = []) :
    ((((s.die dk).tabla.foldl (fun s t => notify s t .gone) s).modDie dk fun d => { d with tabla := [] }).die j).tabla = [] := by
  by_cases hj : j = dk
  · rw [hj, State.die_modDie]
  · have hfold := foldl_leaves (π := fun s : State => s.die j) (f := fun s t => notify s t XNote.gone)
      (fun t e => by unfold notify State.modPartOf; split <;> rfl) (s.die dk).tabla s
    rw [State.die_modDie_ne _ _ hj]
    exact (congrArg Die.tabla hfold).trans (h.resolve_left hj)

/-- The transfers to a lost module have been told, and its Tablas are empty. -/
def loseTransfers (s : State) (dev : Nat) : State :=
  (List.range 4).foldl (fun s i => ((s.die (dev * 4 + i)).tabla.foldl (fun s t => notify s t .gone) s).modDie (dev * 4 + i) fun d => { d with tabla := [] }) s

theorem tabla_loseTransfers (s : State) (dev : Nat) {i : Nat} (hi : i < 4) : ((loseTransfers s dev).die (dev * 4 + i)).tabla = [] := by
  have hempty : ∀ (is : List Nat) (s : State), (i ∈ is ∨ (s.die (dev * 4 + i)).tabla = []) → ((is.foldl (fun s i =>
      ((s.die (dev * 4 + i)).tabla.foldl (fun s t => notify s t .gone) s).modDie (dev * 4 + i) fun d => { d with tabla := [] }) s).die (dev * 4 + i)).tabla = [] := by
    intro is
    induction is with
    | nil => exact fun s h => h.resolve_left (by simp)
    | cons j js ih =>
      intro s h
      refine ih _ ?_
      rcases h with h | h
      · rcases List.mem_cons.mp h with rfl | h
        · exact .inr (tabla_loseStep s _ _ (.inl rfl))
        · exact .inl h
      · exact .inr (tabla_loseStep s _ _ (.inr h))
  exact hempty _ s (.inl (List.mem_range.mpr hi))

theorem die_modDev (s : State) (d : Nat) (f : Dev → Dev) (j : Nat) : (s.modDev d f).die j = s.die j := rfl

theorem loseModule_eq (s : State) (dev : Nat) : loseModule s dev = quiesceAll ((loseTransfers s dev).modDev dev fun d => { d with lost := true }) 0 := rfl

theorem loseModule_spec (s : State) (dev : Nat) :
    ((loseModule s dev).dev dev).lost = true ∧ (loseModule s dev).quiesced = true ∧ ∀ i, i < 4 → ((loseModule s dev).die (dev * 4 + i)).tabla = [] := by
  have hview := peerView_quiesceAll dev ((loseTransfers s dev).modDev dev fun d => { d with lost := true }) 0
  have htabla : ∀ i, i < 4 → (((loseTransfers s dev).modDev dev fun d => { d with lost := true }).die (dev * 4 + i)).tabla = [] := fun i hi => by
    rw [die_modDev, tabla_loseTransfers s dev hi]
  have hlost : (((loseTransfers s dev).modDev dev fun d => { d with lost := true }).dev dev).lost = true := by rw [State.dev_modDev]
  rw [loseModule_eq]
  generalize (loseTransfers s dev).modDev dev (fun d => { d with lost := true }) = u at hview htabla hlost
  rw [peerView, peerView, Prod.mk.injEq] at hview
  obtain ⟨hd, hl⟩ := hview
  exact ⟨hl.trans hlost, quiesced_quiesceAll u 0, fun i hi => (congrFun hd (dev * 4 + i)).trans (htabla i hi)⟩

/-! ## The events of a link (R486 to R490) -/

section
variable {dev : Nat} {n : Fin 18} {s : State}

theorem exec_link_unpowered (hb : (s.dev dev).boot = 0) : exec (.linkEnable dev n) s = .next s ∧ exec (.linkTrained dev n false) s = .next s ∧
    exec (.trainingFailed dev n) s = .next s ∧ exec (.retrain dev n) s = .next s := by
  refine ⟨?_, ?_, ?_, ?_⟩
  · change execLinkEnable _ _ _ = _
    simp only [execLinkEnable, hb, if_true]
  · change execLinkTrained _ _ _ _ = _
    simp only [execLinkTrained, hb, decide_true, Bool.or_true, if_true]
  · change execTrainingFailed _ _ _ = _
    simp only [execTrainingFailed, hb, ne_eq, not_true_eq_false, decide_false, Bool.and_false, Bool.false_eq_true, if_false]
  · change execRetrain _ _ _ = _
    simp only [execRetrain, hb, if_true]

theorem exec_linkEnable_live (hb : (s.dev dev).boot ≠ 0) (hst : (linkOf s dev n).st = .down ∨ (linkOf s dev n).st = .failed)
    (hw : .link n.val ∉ (s.dev dev).withdrawn) : exec (.linkEnable dev n) s = .next (modLink s dev n fun l => { l.train with after := .up }) := by
  have hc : (s.dev dev).withdrawn.contains (.link n.val) = false := Bool.eq_false_iff.mpr fun h => hw (List.contains_iff_mem.mp h)
  rcases hst with hst | hst <;> (change execLinkEnable _ _ _ = _; simp only [execLinkEnable, hb, if_false, hst, hc, Bool.false_eq_true])

theorem exec_linkEnable_withdrawn (hb : (s.dev dev).boot ≠ 0) (hst : (linkOf s dev n).st = .down ∨ (linkOf s dev n).st = .failed)
    (hw : .link n.val ∈ (s.dev dev).withdrawn) : exec (.linkEnable dev n) s =
      .next ((modLink s dev n fun l => { l.train with after := .up }).modDev dev fun d => { d with withdrawn := d.withdrawn.filter (· ≠ .link n.val) }) := by
  have hc : (s.dev dev).withdrawn.contains (.link n.val) = true := List.contains_iff_mem.mpr hw
  rcases hst with hst | hst <;> (change execLinkEnable _ _ _ = _; simp only [execLinkEnable, hb, if_false, hst, hc, if_true])

theorem exec_linkTrained_training (hb : (s.dev dev).boot ≠ 0) (hst : (linkOf s dev n).st = .training) : exec (.linkTrained dev n false) s =
    .next (modLink s dev n fun l => Link.settleKey { l with st := l.after, after := .up, fails := 0, heard := s.ftime }) := by
  change execLinkTrained _ _ _ _ = _
  simp only [execLinkTrained, hst, hb, ne_eq, not_true_eq_false, decide_false, Bool.or_self, Bool.false_eq_true, if_false, Bool.false_and]

theorem exec_trainingFailed_training (hb : (s.dev dev).boot ≠ 0) (hst : (linkOf s dev n).st = .training) :
    exec (.trainingFailed dev n) s = .next (failCheck (modLink s dev n Link.attempt) dev n) := by
  change execTrainingFailed _ _ _ = _
  simp only [execTrainingFailed, hst, hb, ne_eq, not_false_eq_true, decide_true, Bool.and_self, if_true]

theorem exec_retrain_up (hb : (s.dev dev).boot ≠ 0) (hst : (linkOf s dev n).st = .up) : exec (.retrain dev n) s = .next (modLink s dev n Link.train) := by
  have hretrain : (linkOf s dev n).retrain = (linkOf s dev n).train := by simp only [Link.retrain, hst]
  have hlive : (linkOf (modLink s dev n Link.train) dev n).st ≠ .failed := by
    rw [linkOf_modLink]
    exact fun h => (by cases h)
  change execRetrain _ _ _ = _
  simp only [execRetrain, hb, if_false, modLink_congr hretrain, failCheck_live hlive]

theorem exec_frameReceive {f : Frame} {g : Link → Link} (h : (linkOf s dev n).receive f s.ftime = g (linkOf s dev n)) :
    exec (.frameReceive dev n f) s = .next (modLink s dev n g) :=
  congrArg Host.Outcome.next (modLink_congr (f := fun l => l.receive f s.ftime) h)

theorem exec_rekey_new {e : W32} (h : e ∉ (linkOf s dev n).used) : exec (.rekey dev n e) s = .next (modLink s dev n fun l => l.rekey e) := by
  have hc : (linkOf s dev n).used.contains e = false := Bool.eq_false_iff.mpr fun hc => h (List.contains_iff_mem.mp hc)
  change execRekey _ _ _ _ = _
  simp only [execRekey, hc, Bool.false_eq_true, if_false]

theorem exec_rekey_used {e : W32} (h : e ∈ (linkOf s dev n).used) : exec (.rekey dev n e) s = .next s := by
  change execRekey _ _ _ _ = _
  simp only [execRekey, List.contains_iff_mem.mpr h, if_true]

theorem exec_retire_goes (hst : (linkOf s dev n).st = .rekeying) (ho : (linkOf s dev n).old.isSome = true) (hf : (linkOf s dev n).oldFrames = false)
    (hr : (linkOf s dev n).room = true) : exec (.retire dev n) s = .next (modLink s dev n Link.retired) := by
  change execRetire _ _ _ = _
  simp only [execRetire, hst, ho, hf, hr, decide_true, Bool.not_false, Bool.and_self, if_true]

theorem exec_retire_waits (h : (linkOf s dev n).st ≠ .rekeying ∨ (linkOf s dev n).old = none ∨ (linkOf s dev n).oldFrames = true ∨ (linkOf s dev n).room = false) :
    exec (.retire dev n) s = .next s := by
  have hif : ((linkOf s dev n).st = .rekeying && (linkOf s dev n).old.isSome && !(linkOf s dev n).oldFrames && (linkOf s dev n).room) = false := by
    rcases h with h | h | h | h <;> simp [h]
  change execRetire _ _ _ = _
  simp only [execRetire, hif, Bool.false_eq_true, if_false]

theorem exec_oldKeyTimeout {t0 : Nat} (h : (linkOf s dev n).newSeen = some t0) :
    exec (.oldKeyTimeout dev n) s = .next (if 100000 ≤ since s t0 then modLink s dev n Link.dropOld else s) := by
  change execOldKeyTimeout _ _ _ = _
  simp only [execOldKeyTimeout, h]

theorem exec_endToEndAck {dst : Nat} {cls : Fin 4} {e : E2e} {u : W32 × Nat} {us : List (W32 × Nat)} (he : mfind (s.dev dev).e2e (dst * 4 + cls.val) = some e)
    (hu : e.unacked = u :: us) : exec (.endToEndAck dev dst cls) s = .next (if inFlight s dev dst cls u.1 then s
      else s.modDev dev fun d => { d with e2e := mset d.e2e (dst * 4 + cls.val) { e with unacked := us } }) := by
  change execEndToEndAck _ _ _ _ = _
  simp only [execEndToEndAck, he, hu]

theorem inFlight_iff {dst : Nat} {cls : Fin 4} {i : W32} :
    inFlight s dev dst cls i = true ↔ ∃ m ∈ s.net, ordOf m.src = dev ∧ ordOf m.dest = dst ∧ m.cls = cls ∧ m.num = some i := by
  simp only [inFlight, List.any_eq_true, Bool.and_eq_true, decide_eq_true_eq, and_assoc]

theorem exec_linkDrain_up (hst : (linkOf s dev n).st = .up) : exec (.linkDrain dev n) s = .next (modLink s dev n fun l => { l with st := .draining }) :=
  congrArg Host.Outcome.next (modLink_congr (by simp only [Link.drain, hst]))

theorem exec_linkDrained_empty (hst : (linkOf s dev n).st = .draining) (hr : (linkOf s dev n).replay = [])
    (he : ∀ e ∈ (s.dev dev).e2e, ∀ u ∈ e.2.unacked, u.2 ≠ n.val) :
    exec (.linkDrained dev n) s = .next (routeNowhere (modLink s dev n fun l => { l with st := .quiesced }) dev) := by
  have hany : ((s.dev dev).e2e.any fun e => e.2.unacked.any (·.2 = n.val)) = false := by
    refine List.any_eq_false.mpr fun e hmem => ?_
    simpa using fun x hx => he e hmem (x, n.val) hx rfl
  change execLinkDrained _ _ _ = _
  simp only [execLinkDrained, hst, hr, hany, decide_true, List.isEmpty_nil, Bool.not_false, Bool.and_self, if_true]
end

/-! ## O54 -/

/-- Settles O54: one lemma per event of a link, of the census and of a lost module. -/
theorem linkEvents : Obligations.LinkEvents := by
  unfold Obligations.LinkEvents
  intro dev n s l
  refine ⟨exec_link_unpowered, fun hb => ⟨exec_linkEnable_live hb, fun hst hw => ?_, exec_linkTrained_training hb, fun hst hf => ?_, fun hst hf => ?_, exec_retrain_up hb⟩,
    rfl, fun f hst hs => exec_frameReceive (receive_silent hst hs), fun hs => ⟨fun f hst hc => exec_frameReceive (receive_badCrc hst hs hc),
      fun f hst henc hc hn ht hseq => ?_, fun f hst henc hc hn ht hseq => ?_, fun f hst henc hc ht hv => ?_⟩, fun ack => rfl, rfl, fun e => exec_rekey_used,
    fun e hu hst hr => ?_, fun hst ho hf hr hw => ?_, exec_retire_waits, fun t0 ht => ⟨fun h => ?_, fun h => ?_⟩, fun dst cls e he => ⟨fun hu => ?_, fun u us hu => ⟨fun h => ?_, fun h => ?_⟩⟩,
    fun m e n => sendMsg_crossing, fun a b cls n => planeOf_some, exec_linkDrain_up, exec_linkDrained_empty, routeNowhere_unrouted, fun on => rfl,
    fun hb hs hn => ⟨_, exec_censusSnapshot hb hs hn, ?_, fun hwf i hi => ?_⟩, fun hd => ⟨loseModule s dev, ?_, loseModule_spec s dev⟩, fun hl => ?_,
    fun x typ data => ⟨rfl, ?_, rfl⟩, fun x => acked_all, fun x => ⟨rfl, rfl, rfl, rfl, rfl, rfl, rfl⟩⟩
  case refine_1 =>
    refine ⟨_, exec_linkEnable_withdrawn hb hst hw, ?_, ?_⟩
    · rw [linkOf, State.dev_modDev]
      exact congrArg Link.st (linkOf_modLink s dev n fun l => { l.train with after := .up })
    · rw [State.dev_modDev]
      simp
  case refine_2 =>
    have hattempt : (linkOf s dev n).attempt = { linkOf s dev n with fails := 1 } := by
      have hf : (linkOf s dev n).fails = 0 := hf
      simp only [Link.attempt, hf]
      rfl
    have hmod : modLink s dev n Link.attempt = modLink s dev n fun l => { l with fails := 1 } := modLink_congr hattempt
    have hlive : (linkOf (modLink s dev n Link.attempt) dev n).st ≠ .failed := by
      rw [linkOf_modLink, hattempt]
      exact fun h => (by cases h.symm.trans hst)
    rw [exec_trainingFailed_training hb hst, failCheck_live hlive, hmod]
  case refine_3 =>
    have hfailed : (linkOf (modLink s dev n Link.attempt) dev n).st = .failed := by
      have hf : 3 ≤ (linkOf s dev n).fails + 1 := Nat.succ_le_succ hf
      rw [linkOf_modLink, Link.attempt, if_pos hf]
    exact ⟨_, exec_trainingFailed_training hb hst, failCheck_failed hfailed⟩
  case refine_4 =>
    refine ⟨modLink s dev n fun l => l.receive f s.ftime, rfl, ?_⟩
    simp only [linkOf_modLink]
    exact receive_data hst hs henc hc hn ht hseq
  case refine_5 => exact exec_frameReceive (receive_refused (.inl hst) hs henc hc (by rw [passes_data hst henc hn ht, decide_eq_false hseq]))
  case refine_6 => exact exec_frameReceive (receive_refused (.inr hst) hs henc hc (passes_quiesced hst ht hv))
  case refine_7 =>
    refine ⟨_, exec_rekey_new hu, ?_⟩
    simp only [linkOf_modLink]
    rw [rekey_up e hst hr]
    exact ⟨rfl, rfl, rfl, rfl, rfl⟩
  case refine_8 =>
    refine ⟨_, exec_retire_goes hst ho hf hr, ?_⟩
    simp only [linkOf_modLink]
    exact retired_st hst hw
  case refine_9 =>
    rw [exec_oldKeyTimeout ht, if_pos h]
    rfl
  case refine_10 => rw [exec_oldKeyTimeout ht, if_neg (Nat.not_le.mpr h)]
  case refine_11 =>
    change execEndToEndAck _ _ _ _ = _
    simp only [execEndToEndAck, he, hu]
  case refine_12 => rw [exec_endToEndAck he hu, if_pos (inFlight_iff.mpr h)]
  case refine_13 =>
    have hnot : ¬ inFlight s dev dst cls u.1 = true := fun hin => by
      obtain ⟨m, hm, h1, h2, h3, h4⟩ := inFlight_iff.mp hin
      exact (h m hm).elim (· h1) (·.elim (· h2) (·.elim (· h3) (· h4)))
    rw [exec_endToEndAck he hu, if_neg hnot]
  case refine_14 =>
    have hdevs : (physWrite (censusEntries s dev) (censusKey s dev) (censusHead s dev)).devs = s.devs :=
      (physWrite_spec ..).1.devs.trans (memFrame_censusEntries s dev).devs
    rw [State.dev_modDev, State.dev, hdevs]
    rfl
  case refine_15 =>
    have hread := (physWrite_spec (censusEntries s dev) (censusKey s dev) (censusHead s dev)).2 ((memFrame_censusEntries s dev).inv hwf) (8 + i)
      (by rw [length_censusHead]; omega)
    rw [← Nat.add_assoc, getD_censusHead s dev hi] at hread
    exact hread
  case refine_16 =>
    obtain ⟨d, hd, hl⟩ := hd
    change execPeerLoss _ _ = _
    simp only [execPeerLoss, hd, Option.any_some, hl, Bool.not_false, if_true]
  case refine_17 =>
    have hany : ((mfind s.devs dev).any fun d => !d.lost) = false := by
      cases hd : mfind s.devs dev with
      | none => rfl
      | some d =>
        have hl : d.lost = true := by
          rw [State.dev, hd] at hl
          exact hl
        simp [hl]
    change execPeerLoss _ _ = _
    simp only [execPeerLoss, hany, Bool.false_eq_true, if_false]
  case refine_18 => simp [Link.send, Link.sendOn]

end Sys2Proof.Machine
end

section
/-! PROOFS. CHECKPOINT of a part that still holds forwarded instructions (O52). -/

namespace Sys2Proof.Machine
open Sys2Proof

/-- A state in which the part of partition 0 has left its leader and is FREE, with a forwarded instruction still to issue: it stands at that instruction, and its PC field
is that of the last one it issued. Its CHECKPOINT has a vector. -/
def forwardedLeft : State :=
  { State.reset with parts := [(0, { Part.reset with chkptVec := 0x100, twill := [{ ripe := 0, addr := 0x40, link := 0, after := 0, ins := .nop ⟨0, false, none⟩ }] })] }

/-- s61 holds the address of the next forwarded instruction, where the part stands. -/
theorem s61_enterCheckpoint_forwardedLeft : ((enterCheckpoint forwardedLeft 0 0).part 0).s[61] = 0x40 := by decide +kernel

/-- Refutes O52: the statement has s61 hold the PC field of a part that is FREE. A part that its leader has left keeps what was forwarded to it and stands at the next of
it, so its CHECKPOINT saves that address instead. -/
theorem not_partEvents : ¬ Obligations.PartEvents := by
  unfold Obligations.PartEvents
  rintro ⟨-, hchk⟩
  obtain ⟨hvec, -⟩ := hchk forwardedLeft 0 0 rfl (fun x hx => by cases hx)
  obtain ⟨-, -, -, -, -, -, -, -, -, hpc, -⟩ := hvec (by decide)
  exact absurd (s61_enterCheckpoint_forwardedLeft.symm.trans hpc) (by decide)

end Sys2Proof.Machine
end

section
/-! PROOFS. The scheduler, the fetch port and the windows of followers (O37). -/

namespace Sys2Proof.Machine
open Sys2Proof

/-! ## A cc of a core (R79, R97 to R99) -/

/-- Changing each partition of a core changes each once. -/
theorem part_modParts (s : State) (flat : Nat) (f : Nat → Part → Part) {q : Nat} (hq : q < 4) :
    ([0, 1, 2, 3].foldl (fun s q => s.modPart (flat * 4 + q) (f q)) s).part (flat * 4 + q) = f q (s.part (flat * 4 + q)) := by
  have hne : ∀ {a b : Nat}, a ≠ b → flat * 4 + a ≠ flat * 4 + b := fun h => by omega
  simp only [List.foldl_cons, List.foldl_nil]
  interval_cases q
  · rw [State.part_modPart_ne _ _ (hne (by decide)), State.part_modPart_ne _ _ (hne (by decide)), State.part_modPart_ne _ _ (hne (by decide)), State.part_modPart]
  · rw [State.part_modPart_ne _ _ (hne (by decide)), State.part_modPart_ne _ _ (hne (by decide)), State.part_modPart, State.part_modPart_ne _ _ (hne (by decide))]
  · rw [State.part_modPart_ne _ _ (hne (by decide)), State.part_modPart, State.part_modPart_ne _ _ (hne (by decide)), State.part_modPart_ne _ _ (hne (by decide))]
  · rw [State.part_modPart, State.part_modPart_ne _ _ (hne (by decide)), State.part_modPart_ne _ _ (hne (by decide)), State.part_modPart_ne _ _ (hne (by decide))]

/-- What a cc's counts leave of a state: its memory, and the stall and the wait of every partition. -/
def ccView (s : State) : List Host.Cell × (Nat → Nat × Nat) := (s.mem, fun k => ((s.part k).stall, (s.part k).waitCount))

theorem ccView_perf (s : State) (k event n : Nat) : ccView (perf s k event n) = ccView s := by
  refine congrArg (Prod.mk s.mem) (funext fun j => ?_)
  by_cases h : j = k
  · rw [h, perf, State.part_modPart]
    rfl
  · rw [perf, State.part_modPart_ne _ _ h]

theorem ccView_notChosen (t s : State) (k : Nat) : ccView (notChosen t s k) = ccView s := by
  unfold notChosen
  dsimp only
  split
  · exact ccView_perf ..
  · split
    · exact ccView_perf ..
    · split
      · exact ccView_perf ..
      · split
        · exact (ccView_perf ..).trans rfl
        · rfl

theorem ccView_noteRun (s : State) (flat part : Nat) : ccView (noteRun s flat part) = ccView s := by
  have hclose : ccView (closeRun s flat) = ccView s := by
    unfold closeRun
    split
    · unfold logPut
      dsimp only
      split <;> rfl
    · rfl
  unfold noteRun
  split
  · rfl
  · split
    · rfl
    · split
      · split
        · rfl
        · exact hclose
      · rfl
  · split <;> rfl

/-- The stall and the wait of a partition after a cc of its core. -/
theorem part_ccPassed (t s : State) (flat : Nat) (issued : Option Nat) {q : Nat} (hq : q < 4) :
    ((ccPassed t s flat issued).part (flat * 4 + q)).stall = (if issued = some q then (s.part (flat * 4 + q)).stall else (s.part (flat * 4 + q)).stall - 1) ∧
    ((ccPassed t s flat issued).part (flat * 4 + q)).waitCount =
      (if q ≠ 3 && issued ≠ some q && eligible t (flat * 4 + q) then (s.part (flat * 4 + q)).waitCount + 1 else (s.part (flat * 4 + q)).waitCount) := by
  unfold ccPassed
  extract_lets s0
  have h0 : ccView s0 = ccView s := foldl_leaves (π := ccView) (fun u q => by split; exacts [rfl, ccView_notChosen ..]) _ s
  clear_value s0
  have hpart := congrFun (congrArg Prod.snd h0) (flat * 4 + q)
  simp only [ccView, Prod.mk.injEq] at hpart
  obtain ⟨hstall, hwait⟩ := hpart
  rw [part_modParts s0 flat _ hq]
  exact ⟨by rw [← hstall], by rw [← hwait]⟩

theorem mem_ccPassed (t s : State) (flat : Nat) (issued : Option Nat) : (ccPassed t s flat issued).mem = s.mem := by
  unfold ccPassed
  extract_lets s0
  have h0 : ccView s0 = ccView s := foldl_leaves (π := ccView) (fun u q => by split; exacts [rfl, ccView_notChosen ..]) _ s
  exact congrArg Prod.fst h0

/-- A core in which nothing issues. -/
theorem idleCc_spec (s : State) (flat : Nat) :
    (idleCc s flat).sel = none ∧ (idleCc s flat).cur = flat * 4 ∧ ((idleCc s flat).core flat).yielded = none ∧ (idleCc s flat).mem = s.mem ∧
      ∀ q, q < 4 → ((idleCc s flat).part (flat * 4 + q)).stall = (s.part (flat * 4 + q)).stall - 1 ∧
        ((idleCc s flat).part (flat * 4 + q)).waitCount = (s.part (flat * 4 + q)).waitCount + if q < 3 ∧ eligible s (flat * 4 + q) = true then 1 else 0 := by
  have hrun := ccView_noteRun (ccPassed s s flat none) flat 4
  refine ⟨rfl, rfl, ?_, (congrArg Prod.fst hrun).trans (mem_ccPassed ..), fun q hq => ?_⟩
  · exact congrArg Core.yielded (State.core_modCore (noteRun (ccPassed s s flat none) flat 4) flat fun c => { c with dRun := 0, yielded := none })
  · have hpart := congrFun (congrArg Prod.snd hrun) (flat * 4 + q)
    simp only [ccView, Prod.mk.injEq] at hpart
    obtain ⟨hstall, hwait⟩ := hpart
    obtain ⟨hs, hw⟩ := part_ccPassed s s flat none hq
    refine ⟨hstall.trans hs, hwait.trans (hw.trans ?_)⟩
    have hlt : q ≠ 3 ↔ q < 3 := by omega
    by_cases he : eligible s (flat * 4 + q) = true <;> by_cases h3 : q < 3 <;> simp [he, h3, hlt]

/-- A part that is found waiting. -/
def waitPart (s : State) (p : Part) : Part :=
  { p with blocked := some s.epoch, waitCount := if p.blocked.isSome then p.heldCount else p.waitCount
           heldCount := if p.blocked.isSome then p.heldCount else p.waitCount }

theorem eligible_waiting (s : State) (k : Nat) : eligible (waiting s k) k = false := by
  have hblocked : ((waiting s k).part k).blocked = some s.epoch := congrArg Part.blocked (State.part_modPart s k (waitPart s))
  have hepoch : (waiting s k).epoch = s.epoch := rfl
  simp only [eligible, hblocked, hepoch, ne_eq, not_true_eq_false, decide_false, Bool.and_false, Bool.false_and]

/-! ## The choice (R98, R111) -/

section
variable {s : State} {flat : Nat}

/-- The wait count of a partition of a core. -/
def waitOf (s : State) (flat q : Nat) : Nat := (s.part (flat * 4 + q)).waitCount

theorem starved_cons (s : State) (flat q : Nat) (qs : List Nat) : starved s flat (q :: qs) = match starved s flat qs with
    | some r => if waitOf s flat q < 128 ∨ waitOf s flat q < waitOf s flat r then some r else some q
    | none => if 128 ≤ waitOf s flat q then some q else none := rfl

theorem lt_of_starved_none {l : List Nat} (h : starved s flat l = none) : ∀ q ∈ l, waitOf s flat q < 128 := by
  induction l with
  | nil => exact fun q hq => by cases hq
  | cons x xs ih =>
    rw [starved_cons] at h
    split at h
    · split at h <;> cases h
    next hxs =>
      split at h
      · cases h
      next hx => exact fun q hq => (List.mem_cons.mp hq).elim (fun e => by subst e; omega) (ih hxs q)

theorem starved_some {l : List Nat} {q : Nat} (h : starved s flat l = some q) : q ∈ l ∧ 128 ≤ waitOf s flat q ∧ ∀ r ∈ l, waitOf s flat r ≤ waitOf s flat q := by
  induction l generalizing q with
  | nil => cases h
  | cons x xs ih =>
    rw [starved_cons] at h
    split at h
    next r hr =>
      obtain ⟨hmem, hlong, hmax⟩ := ih hr
      split at h
      next hx =>
        cases h
        exact ⟨List.mem_cons_of_mem _ hmem, hlong, fun y hy => (List.mem_cons.mp hy).elim (fun e => by subst e; omega) (hmax y)⟩
      next hx =>
        cases h
        refine ⟨List.mem_cons_self .., by omega, fun y hy => (List.mem_cons.mp hy).elim (fun e => by rw [e]) fun hy => ?_⟩
        have := hmax y hy
        omega
    next hn =>
      split at h
      next hx =>
        cases h
        refine ⟨List.mem_cons_self .., hx, fun y hy => (List.mem_cons.mp hy).elim (fun e => by rw [e]) fun hy => ?_⟩
        by_contra hlt
        have := lt_of_starved_none hn y hy
        omega
      next => cases h

theorem starved_none {l : List Nat} (h : ∀ q ∈ l, waitOf s flat q < 128) : starved s flat l = none := by
  cases hs : starved s flat l with
  | none => rfl
  | some q =>
    obtain ⟨hmem, hlong, -⟩ := starved_some hs
    exact absurd (h q hmem) (Nat.not_lt.mpr hlong)

theorem starved_isSome {l : List Nat} {q : Nat} (hq : q ∈ l) (hlong : 128 ≤ waitOf s flat q) : (starved s flat l).isSome = true := by
  induction l with
  | nil => cases hq
  | cons x xs ih =>
    rw [starved_cons]
    split
    · split <;> rfl
    next hn =>
      rcases List.mem_cons.mp hq with rfl | hq
      · rw [if_pos hlong]
        rfl
      · have := ih hq
        rw [hn] at this
        cases this

/-- The only partition of the longest wait of 128 or more. -/
theorem starved_longest {l : List Nat} {q : Nat} (hq : q ∈ l) (hlong : 128 ≤ waitOf s flat q) (hmax : ∀ r ∈ l, r ≠ q → waitOf s flat r < waitOf s flat q) :
    starved s flat l = some q := by
  obtain ⟨r, hr⟩ := Option.isSome_iff_exists.mp (starved_isSome hq hlong)
  obtain ⟨hmem, -, hbest⟩ := starved_some hr
  have hqr := hbest q hq
  by_cases h : r = q
  · rw [hr, h]
  · have := hmax r hmem h
    omega

/-- The eligible partitions of a core; those of A to C; and those of them that may be chosen now, one that has yielded only where no other is eligible. -/
def electors (s : State) (flat : Nat) : List Nat := [0, 1, 2, 3].filter fun q => eligible s (flat * 4 + q)
def abcAll (s : State) (flat : Nat) : List Nat := (electors s flat).filter (· ≠ 3)
def abcNow (s : State) (flat : Nat) : List Nat :=
  match (s.core flat).yielded with
  | some y => if (electors s flat).any (· ≠ y) then (abcAll s flat).filter (· ≠ y) else abcAll s flat
  | none => abcAll s flat

/-- A handler in partition D goes first. -/
def dFirst (s : State) (flat : Nat) : Bool :=
  (electors s flat).contains 3 && !((decide (3 ≤ (s.core flat).dRun) || (s.core flat).yielded = some 3) && !(abcNow s flat).isEmpty)

/-- Those of the highest priority among A to C, and the one of them whose turn it is. -/
def abcTop (s : State) (flat : Nat) : List Nat :=
  (abcNow s flat).filter fun q => (s.part (flat * 4 + q)).prio.val = (abcNow s flat).foldl (fun m q => max m (s.part (flat * 4 + q)).prio.val) 0
def abcPick (s : State) (flat : Nat) : Option Nat :=
  let c := s.core flat
  if (abcTop s flat).contains c.last && c.cont && decide (c.run < 32) then some c.last
  else [(c.last + 1) % 3, (c.last + 2) % 3, c.last].find? (abcTop s flat).contains

theorem choose_eq (s : State) (flat : Nat) : choose s flat = match starved s flat (abcAll s flat) with
    | some q => some q
    | none => if dFirst s flat then some 3 else abcPick s flat := rfl

theorem mem_electors {q : Nat} : q ∈ electors s flat ↔ q < 4 ∧ eligible s (flat * 4 + q) = true := by
  have hrange : q ∈ [0, 1, 2, 3] ↔ q < 4 := by
    simp only [List.mem_cons, List.not_mem_nil, or_false]
    omega
  rw [electors, List.mem_filter, hrange]

theorem mem_abcAll {q : Nat} : q ∈ abcAll s flat ↔ q < 3 ∧ eligible s (flat * 4 + q) = true := by
  rw [abcAll, List.mem_filter, mem_electors]
  simp only [ne_eq, decide_not, Bool.not_eq_true', decide_eq_false_iff_not]
  constructor
  · rintro ⟨⟨h4, he⟩, h3⟩
    exact ⟨by omega, he⟩
  · rintro ⟨h3, he⟩
    exact ⟨⟨by omega, he⟩, by omega⟩

theorem mem_abcAll_of_mem_abcNow {q : Nat} (h : q ∈ abcNow s flat) : q ∈ abcAll s flat := by
  unfold abcNow at h
  split at h
  · split at h
    · exact List.mem_of_mem_filter h
    · exact h
  · exact h

theorem any_electors_ne {q y : Nat} (hq : q ∈ electors s flat) (hne : q ≠ y) : ((electors s flat).any (· ≠ y)) = true :=
  List.any_eq_true.mpr ⟨q, hq, by simpa using hne⟩

/-- One that has yielded is not among them where another is eligible. -/
theorem notMem_abcNow_of_yielded {y q : Nat} (hy : (s.core flat).yielded = some y) (hq : q ∈ electors s flat) (hne : q ≠ y) : y ∉ abcNow s flat := by
  unfold abcNow
  rw [hy]
  dsimp only
  rw [if_pos (any_electors_ne hq hne)]
  simp

/-- Where partition D is not eligible, or A to C are left but for the one that has yielded, they are not empty. -/
theorem abcNow_ne_nil {q : Nat} (hq : q ∈ electors s flat) (hd : dFirst s flat = false) : abcNow s flat ≠ [] := by
  by_cases h3 : 3 ∈ electors s flat
  · intro hnil
    simp [dFirst, h3, hnil] at hd
  · have hq3 : q ≠ 3 := fun h => h3 (h ▸ hq)
    have hall : ∀ r, r ∈ electors s flat → r ∈ abcAll s flat := fun r hr => by
      rw [abcAll, List.mem_filter]
      exact ⟨hr, by simpa using fun h : r = 3 => h3 (h ▸ hr)⟩
    unfold abcNow
    split
    next y hy =>
      split
      next hany =>
        obtain ⟨r, hr, hne⟩ := List.any_eq_true.mp hany
        exact List.ne_nil_of_mem (List.mem_filter.mpr ⟨hall r hr, hne⟩)
      next => exact List.ne_nil_of_mem (hall q hq)
    next => exact List.ne_nil_of_mem (hall q hq)

/-- A fold of `max` over a list that is not empty is reached in it. -/
theorem exists_eq_foldl_max {α : Type} (f : α → Nat) {l : List α} (h : l ≠ []) : ∃ x ∈ l, f x = l.foldl (fun m x => max m (f x)) 0 := by
  have hgen : ∀ (l : List α) (m : Nat), (l.foldl (fun m x => max m (f x)) m = m ∧ ∀ x ∈ l, f x ≤ m) ∨ ∃ x ∈ l, f x = l.foldl (fun m x => max m (f x)) m := by
    intro l
    induction l with
    | nil => exact fun m => .inl ⟨rfl, fun x hx => by cases hx⟩
    | cons a l ih =>
      intro m
      rw [List.foldl_cons]
      rcases ih (max m (f a)) with ⟨heq, hle⟩ | ⟨x, hx, hfx⟩
      · rcases Nat.le_total (f a) m with ham | ham
        · rw [Nat.max_eq_left ham] at heq hle ⊢
          exact .inl ⟨heq, fun x hx => (List.mem_cons.mp hx).elim (fun e => e ▸ ham) (hle x)⟩
        · rw [Nat.max_eq_right ham] at heq ⊢
          exact .inr ⟨a, List.mem_cons_self .., heq.symm⟩
      · exact .inr ⟨x, List.mem_cons_of_mem _ hx, hfx⟩
  rcases hgen l 0 with ⟨heq, hle⟩ | hex
  · obtain ⟨x, hx⟩ := List.exists_mem_of_ne_nil l h
    exact ⟨x, hx, by rw [heq]; exact Nat.le_zero.mp (hle x hx)⟩
  · exact hex

theorem abcPick_mem {q : Nat} (h : abcPick s flat = some q) : q ∈ abcNow s flat := by
  have htop : q ∈ abcTop s flat := by
    unfold abcPick at h
    dsimp only at h
    split at h
    next hc =>
      cases h
      simp only [Bool.and_eq_true, List.contains_iff_mem] at hc
      exact hc.1.1
    next => exact List.contains_iff_mem.mp (List.find?_some (p := (abcTop s flat).contains) h)
  exact List.mem_of_mem_filter htop

theorem abcPick_isSome (hlast : (s.core flat).last < 3) (hne : abcNow s flat ≠ []) : (abcPick s flat).isSome = true := by
  obtain ⟨q, hq, htop⟩ := exists_eq_foldl_max (fun q => (s.part (flat * 4 + q)).prio.val) hne
  have hmem : q ∈ abcTop s flat := List.mem_filter.mpr ⟨hq, by simpa using htop⟩
  have hq3 : q < 3 := (mem_abcAll.mp (mem_abcAll_of_mem_abcNow hq)).1
  unfold abcPick
  dsimp only
  split
  · rfl
  · rw [List.find?_isSome]
    refine ⟨q, ?_, List.contains_iff_mem.mpr hmem⟩
    simp only [List.mem_cons, List.not_mem_nil, or_false]
    omega

theorem choose_none_starved (h : ∀ q, q < 3 → eligible s (flat * 4 + q) = true → waitOf s flat q < 128) :
    choose s flat = if dFirst s flat then some 3 else abcPick s flat := by
  rw [choose_eq, starved_none fun q hq => h q (mem_abcAll.mp hq).1 (mem_abcAll.mp hq).2]

theorem choose_eligible {q : Nat} (h : choose s flat = some q) : q < 4 ∧ eligible s (flat * 4 + q) = true := by
  rw [choose_eq] at h
  split at h
  next r hr =>
    cases h
    obtain ⟨hlt, he⟩ := mem_abcAll.mp (starved_some hr).1
    exact ⟨by omega, he⟩
  next =>
    split at h
    next hd =>
      cases h
      simp only [dFirst, Bool.and_eq_true, List.contains_iff_mem] at hd
      exact mem_electors.mp hd.1
    next =>
      obtain ⟨hlt, he⟩ := mem_abcAll.mp (mem_abcAll_of_mem_abcNow (abcPick_mem h))
      exact ⟨by omega, he⟩

theorem choose_nobody (h : ∀ q, q < 4 → ¬ eligible s (flat * 4 + q) = true) : choose s flat = none := by
  cases hc : choose s flat with
  | none => rfl
  | some q =>
    obtain ⟨hlt, he⟩ := choose_eligible hc
    exact absurd he (h q hlt)

theorem choose_somebody (hlast : (s.core flat).last < 3) {q : Nat} (hq : q < 4) (he : eligible s (flat * 4 + q) = true) : (choose s flat).isSome = true := by
  rw [choose_eq]
  split
  · rfl
  · cases hd : dFirst s flat with
    | true => rfl
    | false => exact abcPick_isSome hlast (abcNow_ne_nil (mem_electors.mpr ⟨hq, he⟩) hd)

theorem choose_handler (hw : ∀ q, q < 3 → eligible s (flat * 4 + q) = true → waitOf s flat q < 128) (h3 : eligible s (flat * 4 + 3) = true)
    (hd : (s.core flat).dRun < 3 ∧ (s.core flat).yielded ≠ some 3 ∨ ∀ q, q < 3 → ¬ eligible s (flat * 4 + q) = true) : choose s flat = some 3 := by
  have hmem : (electors s flat).contains 3 = true := List.contains_iff_mem.mpr (mem_electors.mpr ⟨by decide, h3⟩)
  have hin : 3 ∈ electors s flat := List.contains_iff_mem.mp hmem
  have hfirst : dFirst s flat = true := by
    rcases hd with ⟨hrun, hy⟩ | hnone
    · simp [dFirst, hin, hy, hrun]
    · have hnil : abcNow s flat = [] := List.eq_nil_iff_forall_not_mem.mpr fun q hq =>
        hnone q (mem_abcAll.mp (mem_abcAll_of_mem_abcNow hq)).1 (mem_abcAll.mp (mem_abcAll_of_mem_abcNow hq)).2
      simp [dFirst, hin, hnil]
  rw [choose_none_starved hw, if_pos hfirst]

theorem choose_longest {q : Nat} (hq : q < 3) (he : eligible s (flat * 4 + q) = true) (hlong : 128 ≤ waitOf s flat q)
    (hmax : ∀ r, r < 3 → r ≠ q → waitOf s flat r < waitOf s flat q) : choose s flat = some q := by
  rw [choose_eq, starved_longest (mem_abcAll.mpr ⟨hq, he⟩) hlong fun r hr => hmax r (mem_abcAll.mp hr).1]

theorem choose_yielded {y q : Nat} (hy : (s.core flat).yielded = some y) (hw : ∀ q, q < 3 → eligible s (flat * 4 + q) = true → waitOf s flat q < 128)
    (hq : q < 4) (hne : q ≠ y) (he : eligible s (flat * 4 + q) = true) : choose s flat ≠ some y := by
  have hel : q ∈ electors s flat := mem_electors.mpr ⟨hq, he⟩
  have hout := notMem_abcNow_of_yielded hy hel hne
  rw [choose_none_starved hw]
  split
  next hd =>
    intro h3
    obtain rfl : 3 = y := by simpa using h3
    have hqn : q ∈ abcNow s flat := by
      unfold abcNow
      rw [hy]
      dsimp only
      rw [if_pos (any_electors_ne hel hne)]
      exact List.mem_filter.mpr ⟨mem_abcAll.mpr ⟨by omega, he⟩, by simpa using hne⟩
    have hnil : (abcNow s flat).isEmpty = false := by
      cases hl : abcNow s flat with
      | nil => rw [hl] at hqn; cases hqn
      | cons => rfl
    simp [dFirst, hy, hnil] at hd
  next => exact fun h => hout (abcPick_mem h)

/-! ## The fetch port (R68, R100) -/

/-- A line that was fetched for a domain reaches a partition of it that has asked for the line. -/
def deliver (dom : Half) (l : W64) (line : Nat → Option (BitVec 512)) (s : State) (j : Nat) : State :=
  let p := s.part j
  if (s.ctx p.ctx).domain = dom && p.freq.any (fun r => r.1 = l) then
    s.setPart j { p with freq := p.freq.filter (fun r => r.1 ≠ l), fbuf := p.fbuf ++ [⟨l, line j⟩] }
  else s

variable {dom : Half} {l : W64} {line : Nat → Option (BitVec 512)} {j k : Nat}

theorem ctxs_deliver (s : State) (k : Nat) : (deliver dom l line s k).ctxs = s.ctxs := by
  unfold deliver
  dsimp only
  split <;> rfl

theorem part_deliver_ne (h : j ≠ k) : (deliver dom l line s k).part j = s.part j := by
  unfold deliver
  dsimp only
  split
  · exact State.part_modPart_ne s (fun _ => _) h
  · rfl

theorem deliver_none (h : ∀ r ∈ (s.part j).freq, r.1 ≠ l) : deliver dom l line s j = s := by
  have hany : ((s.part j).freq.any fun r => r.1 = l) = false := List.any_eq_false.mpr fun r hr => by simpa using h r hr
  simp only [deliver, hany, Bool.and_false, Bool.false_eq_true, if_false]

/-- A partition that has not asked is left as it is. -/
theorem part_deliver_all_none (ks : List Nat) (h : ∀ r ∈ (s.part j).freq, r.1 ≠ l) : (ks.foldl (deliver dom l line) s).part j = s.part j := by
  induction ks generalizing s with
  | nil => rfl
  | cons k ks ih =>
    have hstep : (deliver dom l line s k).part j = s.part j := by
      by_cases hk : j = k
      · rw [← hk, deliver_none h]
      · exact part_deliver_ne hk
    rw [List.foldl_cons, ih (by rwa [hstep]), hstep]

/-- A partition of the domain that has asked finds the line in its buffer, once. -/
theorem part_deliver_all {ks : List Nat} (hj : j ∈ ks) (hdom : (s.ctx (s.part j).ctx).domain = dom) (hask : ((s.part j).freq.any fun r => r.1 = l) = true) :
    (ks.foldl (deliver dom l line) s).part j =
      { s.part j with freq := (s.part j).freq.filter (fun r => r.1 ≠ l), fbuf := (s.part j).fbuf ++ [⟨l, line j⟩] } := by
  induction ks generalizing s with
  | nil => cases hj
  | cons k ks ih =>
    rw [List.foldl_cons]
    by_cases hk : j = k
    · subst hk
      have hself : (deliver dom l line s j).part j =
          { s.part j with freq := (s.part j).freq.filter (fun r => r.1 ≠ l), fbuf := (s.part j).fbuf ++ [⟨l, line j⟩] } := by
        simp only [deliver, hdom, hask, decide_true, Bool.and_self, if_true]
        exact State.part_modPart s j fun _ => _
      rw [part_deliver_all_none, hself]
      rw [hself]
      intro r hr
      simpa using (List.mem_filter.mp hr).2
    · have hpart : (deliver dom l line s k).part j = s.part j := part_deliver_ne hk
      have hctx : ∀ c, (deliver dom l line s k).ctx c = s.ctx c := fun c => by rw [State.ctx, State.ctx, ctxs_deliver]
      rw [ih ((List.mem_cons.mp hj).resolve_left hk) (by rw [hctx, hpart, hdom]) (by rw [hpart, hask]), hpart]

/-- The partitions of a cluster. -/
def clusterKeys (cl : Nat) : List Nat := (List.range 16).flatMap fun pos => [0, 1, 2, 3].map fun q => flatAt cl pos * 4 + q

/-- The requests of the partitions of a cluster. -/
def fetchRequests (s : State) (cl : Nat) : List (Nat × W64 × Nat) :=
  (List.range 16).flatMap fun pos => [0, 1, 2, 3].flatMap fun q => (s.part (flatAt cl pos * 4 + q)).freq.map fun r => (flatAt cl pos * 4 + q, r.1, r.2)

theorem oldestFetch_mem {cl : Nat} {x : Nat × W64 × Nat} (h : oldestFetch s cl = some x) : x ∈ fetchRequests s cl := by
  have hgen : ∀ (xs : List (Nat × W64 × Nat)) (b : Option (Nat × W64 × Nat)), xs.foldl (fun b r =>
      match b with
      | none => some r
      | some x => if r.2.2 < x.2.2 then some r else b) b = some x → b = some x ∨ x ∈ xs := by
    intro xs
    induction xs with
    | nil => exact fun b hb => .inl hb
    | cons r rs ih =>
      intro b hb
      rcases ih _ hb with hb | hb
      · cases b with
        | none =>
          cases hb
          exact .inr (List.mem_cons_self ..)
        | some y =>
          dsimp only at hb
          split at hb
          · cases hb
            exact .inr (List.mem_cons_self ..)
          · exact .inl hb
      · exact .inr (List.mem_cons_of_mem _ hb)
  exact (hgen _ none h).resolve_left (by simp)

/-- The partition of the oldest request has asked for its line. -/
theorem oldestFetch_asks {cl age : Nat} (h : oldestFetch s cl = some (j, l, age)) : j ∈ clusterKeys cl ∧ ((s.part j).freq.any fun r => r.1 = l) = true := by
  obtain ⟨pos, hpos, hrest⟩ := List.mem_flatMap.mp (oldestFetch_mem h)
  obtain ⟨q, hq, hr⟩ := List.mem_flatMap.mp hrest
  obtain ⟨r, hreq, heq⟩ := List.mem_map.mp hr
  cases heq
  exact ⟨List.mem_flatMap.mpr ⟨pos, hpos, List.mem_map.mpr ⟨q, hq, rfl⟩⟩, List.any_eq_true.mpr ⟨r, hreq, by simp⟩⟩

/-- The state in which a line is read for the partitions that have asked. -/
def fetchRead (s : State) (j : Nat) (l : W64) : State := hotLoad (recallOthers { s with free := s.free + 1 } none (flatOf j) l) (flatOf j) l

theorem memFrame_fetchRead (s : State) (j : Nat) (l : W64) : MemFrame s (fetchRead s j l) :=
  (MemFrame.free s (s.free + 1)).trans ((memFrame_recallOthers ..).trans (memFrame_hotLoad ..))

theorem exec_fetchLine {cl age : Nat} (h : oldestFetch s cl = some (j, l, age)) :
    exec (.fetchLine cl) s =
      .next ((clusterKeys cl).foldl (deliver (s.ctx (s.part j).ctx).domain l fun i => readLine (fetchRead s j l) i l) (fetchRead s j l)) := by
  change execFetchLine _ _ = _
  simp only [execFetchLine, h, clusterKeys, List.foldl_flatMap, List.foldl_map]
  rfl

theorem exec_fetchLine_spec {cl age : Nat} (h : oldestFetch s cl = some (j, l, age)) :
    ∃ t, exec (.fetchLine cl) s = .next t ∧ (∀ r ∈ (t.part j).freq, r.1 ≠ l) ∧
      (t.part j).fbuf = ((fetchRead s j l).part j).fbuf ++ [⟨l, readLine (fetchRead s j l) j l⟩] := by
  obtain ⟨hmem, hask⟩ := oldestFetch_asks h
  have hframe := memFrame_fetchRead s j l
  have hfreq : ((fetchRead s j l).part j).freq = (s.part j).freq := by
    have h := congrArg Part.freq (hframe.part j)
    exact h
  have hctx : ((fetchRead s j l).part j).ctx = (s.part j).ctx := by
    have h := congrArg Part.ctx (hframe.part j)
    exact h
  have hdom : ((fetchRead s j l).ctx ((fetchRead s j l).part j).ctx).domain = (s.ctx (s.part j).ctx).domain := by rw [hctx, State.ctx, hframe.ctxs, State.ctx]
  refine ⟨_, exec_fetchLine h, ?_, ?_⟩
  · rw [part_deliver_all hmem hdom (by rw [hfreq, hask])]
    intro r hr
    simpa using (List.mem_filter.mp hr).2
  · rw [part_deliver_all hmem hdom (by rw [hfreq, hask])]

/-- A unit's line as its launch found it. -/
theorem readLine_image {id : Nat} {x : Launch} {v : BitVec 512} (hid : (s.part k).launch = some id) (hx : launchOf s id = some x)
    (hkey : homeKey (x.image.on s) (flatOf k) l ≠ none) (hown : vaId s (flatOf k) l ∉ x.own) (hv : readLine s k l = some v) :
    v = bv512 ((bytesAt l 64).map (loadByte (x.image.on s) (whoOf s k))) := by
  have hc : x.own.contains (vaId s (flatOf k) l) = false := Bool.eq_false_iff.mpr fun h => hown (List.contains_iff_mem.mp h)
  have himage : fetchImage s k l = some (x.image.on s) := by
    simp only [fetchImage, hid, Option.bind_some, hx, Option.isNone_iff_eq_none, hkey, hc, Bool.false_and, Bool.or_false]
    rw [if_neg (by simp)]
  unfold readLine at hv
  split at hv
  · cases hv
  · dsimp only at hv
    split at hv
    · cases hv
    · rw [himage] at hv
      exact (Option.some.inj hv).symm
end

/-! ## O37 -/

section
variable {s : State} {k flat q : Nat}

theorem exec_issueSelect_live (hb : (s.dev (ordOf flat)).boot ≠ 3) : exec (.issueSelect flat) s = .next (selectNow (coreCc s flat) flat (chooseLogged (coreCc s flat) flat)) := by
  change execIssueSelect _ _ = _
  simp only [execIssueSelect, hb, if_false]

theorem exec_twillForwardIssue_own (hk : k = flat * 4 + q) (hq : q < 4) : exec (.twillForwardIssue k) s =
    .next (if (((coreCc s flat).part k).fwdNow.isSome || !((coreCc s flat).part k).twill.isEmpty) && chooseLogged (coreCc s flat) flat = some q
      then selectNow (coreCc s flat) flat (some q) else s) := by
  have hf : flatOf k = flat := by unfold flatOf; omega
  have hi : idxOf k = q := by unfold idxOf; omega
  change execTwillForwardIssue _ _ = _
  simp only [execTwillForwardIssue, hf, hi]
end

/-- Settles O37: the windows and the scheduler's cc by their branches; the fetch port by the delivery of its line; the choice by the properties of its parts. -/
theorem issueEvents : Obligations.IssueEvents := by
  unfold Obligations.IssueEvents
  refine ⟨fun s k => ⟨?_, ?_, ?_, ?_, fun flat => ⟨fun hb => ⟨fun q hq => ?_, fun hn => ?_⟩, fun hb => ?_, fun q hk hq => ⟨fun hf hc => ?_, fun h => ?_⟩⟩,
    fun cl j l age h => exec_fetchLine_spec h, fun cl h => ?_⟩, fun s k l id x v hid hx hkey hown hv => readLine_image hid hx hkey hown hv, fun t s k => ⟨fun hsel hi => ?_, fun hsel hi hbl => ?_,
    fun j q hq => ?_, eligible_waiting s k⟩, fun s flat => ⟨fun q => choose_eligible, choose_nobody, fun hlast ⟨q, hq, he⟩ => choose_somebody hlast hq he,
    choose_handler, fun q => choose_longest, fun y hy hw ⟨q, hq, hne, he⟩ => choose_yielded hy hw hq hne he⟩⟩
  case refine_1 =>
    intro a m h
    change execAlignWindowExpiry _ _ = _
    simp only [execAlignWindowExpiry, h]
  case refine_2 =>
    intro h
    change execAlignWindowExpiry k s = _
    unfold execAlignWindowExpiry
    cases hs : (s.part k).sleep with
    | align a m => exact absurd hs (h a m)
    | _ => rfl
  case refine_3 =>
    intro h
    change execJoinWindowExpiry _ _ = _
    simp only [execJoinWindowExpiry, h, if_true]
  case refine_4 =>
    intro h
    change execJoinWindowExpiry _ _ = _
    simp only [execJoinWindowExpiry, h, if_false]
  case refine_5 => rw [exec_issueSelect_live hb, hq]; rfl
  case refine_6 =>
    rw [exec_issueSelect_live hb, hn]
    exact ⟨_, rfl, idleCc_spec ..⟩
  case refine_7 =>
    change execIssueSelect _ _ = _
    simp only [execIssueSelect, hb, if_true]
  case refine_8 =>
    rw [exec_twillForwardIssue_own hk hq, hc]
    have hheld : (((coreCc s flat).part k).fwdNow.isSome || !((coreCc s flat).part k).twill.isEmpty) = true := by
      rcases hf with hf | hf
      · rw [hf, Bool.true_or]
      · rw [Bool.eq_false_iff.mpr (mt List.isEmpty_iff.mp hf), Bool.not_false, Bool.or_true]
    rw [hheld]
    simp only [decide_true, Bool.and_self, if_true]
    rfl
  case refine_9 =>
    have hif : ((((coreCc s flat).part k).fwdNow.isSome || !((coreCc s flat).part k).twill.isEmpty) && chooseLogged (coreCc s flat) flat = some q) = false := by
      rcases h with ⟨hf, ht⟩ | hc
      · simp [hf, ht]
      · simp [hc]
    rw [exec_twillForwardIssue_own hk hq, hif]
    rfl
  case refine_10 =>
    change execFetchLine _ _ = _
    simp only [execFetchLine, h]
  case refine_11 => simp only [ccEnds, hsel, hi, if_false, Bool.not_true, Bool.false_and, Bool.false_eq_true, if_true]
  case refine_12 => simp only [ccEnds, hsel, hi, hbl, if_false, Bool.not_false, decide_true, Bool.true_or, Bool.and_self, if_true]
  case refine_13 =>
    obtain ⟨hs, hw⟩ := part_ccPassed t s (flatOf k) (some j) hq
    have hj : (some j = some q) ↔ q = j := by rw [Option.some.injEq, eq_comm]
    refine ⟨hs.trans (by simp only [hj]), hw.trans ?_⟩
    have hlt : q ≠ 3 ↔ q < 3 := by omega
    by_cases he : eligible t (flatOf k * 4 + q) = true <;> by_cases h3 : q < 3 <;> by_cases hqj : q = j <;> simp [he, h3, hlt, hj, hqj]

end Sys2Proof.Machine
end

section
/-! PROOFS. The events of host queues and of the lease (O49). -/

namespace Sys2Proof.Machine
open Sys2Proof

/-- A queue is changed as its own entry is. -/
theorem modQueue_congr {s : State} {dev q : Nat} {h : HostQ} {f g : HostQ → HostQ} (hq : hostqOf s dev q = some h) (hfg : f h = g h) :
    modQueue s dev q f = modQueue s dev q g := by
  have hfind : mfind (s.dev dev).hostqs q = some h := hq
  simp only [modQueue, hfind, hfg]

section
variable {s : State} {dev q : Nat} {h : HostQ} (hq : hostqOf s dev q = some h)
include hq

/-! ## TAIL_WRITE (R293 to R296) -/

theorem exec_tailWrite_ring {conn : Nat} (v : W64) (hlt : q < 1024) : exec (.tailWrite dev conn (8 * q) 8 v) s =
    .next (if (s.dev dev).boot ≠ 2 ∨ h.ctx = none ∨ h.conn ≠ conn ∨ (((s.dev dev).svc = 1 ∨ (s.dev dev).svc = 2) ∧ h.st = .stopped)
      then s.modDev dev fun d => { d with drops := d.drops + 1 }
      else if h.size < (v.setWidth 32 - h.rdidx).toNat ∨ h.size < (v.setWidth 32 - h.wridx).toNat then
        match h.st with
        | .error => s
        | .stopped => queueError s dev q h (v.setWidth 32).toNat 0 3
        | _ => queueError (modQueue s dev q fun h => { h with st := .error, held := none }) dev q h (v.setWidth 32).toNat 0 3
      else modQueue (releaseAt s (h.who dev).flat 5) dev q fun h =>
        { h with wridx := v.setWidth 32, st := if h.st = .idle && v.setWidth 32 ≠ h.rdidx then .active else h.st }) := by
  change execTailWrite dev conn (8 * q) 8 v s = _
  have hring : ¬ (8 ≠ 8 ∨ 8 * q % 8 ≠ 0 ∨ 8192 ≤ 8 * q) := by omega
  have hdiv : 8 * q / 8 = q := by omega
  unfold execTailWrite
  simp only [hdiv, hq]
  exact congrArg Host.Outcome.next (if_neg hring)

theorem exec_tailWrite_dropped {conn : Nat} (v : W64) (hlt : q < 1024) (hdrop : (s.dev dev).boot ≠ 2 ∨ h.ctx = none ∨ h.conn ≠ conn) :
    exec (.tailWrite dev conn (8 * q) 8 v) s = .next (s.modDev dev fun d => { d with drops := d.drops + 1 }) := by
  rw [exec_tailWrite_ring hq v hlt, if_pos]
  rcases hdrop with hb | hc | hn
  · exact .inl hb
  · exact .inr (.inl hc)
  · exact .inr (.inr (.inl hn))

section
variable {conn : Nat} (v : W64) (hlt : q < 1024) (hsvc : (s.dev dev).svc = 0) (hboot : (s.dev dev).boot = 2) (hctx : h.ctx ≠ none) (hconn : h.conn = conn)
include hlt hsvc hboot hctx hconn

theorem exec_tailWrite_taken (hin : ¬ (h.size < (v.setWidth 32 - h.rdidx).toNat ∨ h.size < (v.setWidth 32 - h.wridx).toNat)) :
    exec (.tailWrite dev conn (8 * q) 8 v) s = .next (modQueue (releaseAt s (h.who dev).flat 5) dev q fun h =>
      { h with wridx := v.setWidth 32, st := if h.st = .idle && v.setWidth 32 ≠ h.rdidx then .active else h.st }) := by
  rw [exec_tailWrite_ring hq v hlt, if_neg (by simp [hsvc, hboot, hctx, hconn]), if_neg hin]

theorem exec_tailWrite_ahead (hover : h.size < (v.setWidth 32 - h.rdidx).toNat ∨ h.size < (v.setWidth 32 - h.wridx).toNat) :
    (h.st ≠ .error → h.st ≠ .stopped → exec (.tailWrite dev conn (8 * q) 8 v) s =
      .next (queueError (modQueue s dev q fun h => { h with st := .error, held := none }) dev q h (v.setWidth 32).toNat 0 3)) ∧
    (h.st = .stopped → exec (.tailWrite dev conn (8 * q) 8 v) s = .next (queueError s dev q h (v.setWidth 32).toNat 0 3)) ∧
    (h.st = .error → exec (.tailWrite dev conn (8 * q) 8 v) s = .next s) := by
  rw [exec_tailWrite_ring hq v hlt, if_neg (by simp [hsvc, hboot, hctx, hconn]), if_pos hover]
  cases h.st with
  | error => exact ⟨fun he => absurd rfl he, fun he => (by cases he), fun _ => rfl⟩
  | stopped => exact ⟨fun _ he => absurd rfl he, fun _ => rfl, fun he => (by cases he)⟩
  | _ => exact ⟨fun _ _ => rfl, fun he => (by cases he), fun he => (by cases he)⟩
end

/-! ## PACKET_READ and HOLD_ENDS (R296, R300) -/

/-- What the reading of the packet at RDIDX leaves, and its bytes. -/
def pktFetched (s : State) (dev : Nat) (h : HostQ) : State × List Byte := engineRead (acquireAt s (h.who dev).flat 5) (h.who dev).flat (h.slot h.rdidx.toNat) 64

/-- The packet read at RDIDX, with a number of its own. -/
def pktRead (s : State) (dev : Nat) (h : HostQ) : Pkt := ⟨(pktFetched s dev h).1.free, h.rdidx.toNat, (pktFetched s dev h).2, 0, [], 0, false⟩

/-- The state in which the packet read is checked. -/
def pktChecked (s : State) (dev : Nat) (h : HostQ) : State := { (pktFetched s dev h).1 with free := (pktFetched s dev h).1.free + 1 }

/-- A queue stops at a packet. -/
def stopQueue (s : State) (dev q : Nat) (h : HostQ) (op reason : Nat) : State :=
  queueError (modQueue s dev q fun h => { h with st := .error }) dev q h h.rdidx.toNat op reason

theorem exec_packetRead_active (hst : h.st = .active) (hne : h.rdidx ≠ h.wridx) : exec (.packetRead dev q) s =
    .next (if (cpFault s (h.who dev) true .read (h.slot h.rdidx.toNat) 64).isSome then stopQueue s dev q h 0 4
      else if 8 ≤ (pktRead s dev h).op then stopQueue (pktChecked s dev h) dev q h (pktRead s dev h).op 1
      else if (pktRead s dev h).badFormat then stopQueue (pktChecked s dev h) dev q h (pktRead s dev h).op 2
      else if pktHeld (pktChecked s dev h) (h.who dev) h (pktRead s dev h) then
        modQueue (pktChecked s dev h) dev q fun h' => { h' with st := .waiting, held := some (pktRead s dev h) }
      else startPkt (pktChecked s dev h) dev q h (pktRead s dev h)) := by
  change execPacketRead dev q s = _
  unfold execPacketRead
  rw [hq]
  exact congrArg Host.Outcome.next (if_neg (by simp [hst, hne]))

theorem exec_holdEnds_waiting {x : Pkt} (hst : h.st = .waiting) (hx : h.held = some x) :
    exec (.holdEnds dev q) s = .next (if pktHeld s (h.who dev) h x then s else startPkt s dev q h x) := by
  change execHoldEnds dev q s = _
  unfold execHoldEnds
  rw [hq]
  simp only [hx, hst, ne_eq, not_true_eq_false, decide_false, Bool.false_or]

/-! ## PACKET_COMPLETE (R301) -/

theorem exec_packetComplete_none {idx : Nat} (hnone : h.pkts.find? (fun y => y.idx = idx && pktReady s dev q h y) = none) :
    exec (.packetComplete dev q idx) s = .next s := by
  change execPacketComplete dev q idx s = _
  unfold execPacketComplete
  rw [hq]
  simp only [hnone]

section
variable {x : Pkt} (hx : h.pkts.find? (fun y => y.idx = x.idx && pktReady s dev q h y) = some x)
include hx

theorem exec_packetComplete_acting (hst : (pktAct s (h.who dev) x).2.2 = none) : exec (.packetComplete dev q x.idx) s =
    .next (modQueue (pktAct s (h.who dev) x).1 dev q fun h' => { h' with pkts := replaceFirst h'.pkts x [{ x with ack := (pktAct s (h.who dev) x).2.1 }] }) := by
  change execPacketComplete dev q x.idx s = _
  unfold execPacketComplete
  rw [hq]
  simp only [hx]
  generalize pktAct s (h.who dev) x = u at hst ⊢
  obtain ⟨u, ack, st⟩ := u
  cases hst
  rfl

/-- The packet has left its queue, and its STATUS stands in its ring slot. -/
def pktStored (s : State) (dev q : Nat) (h : HostQ) (x : Pkt) (st : Nat) : State :=
  engineWrite (modQueue (pktAct s (h.who dev) x).1 dev q fun h => { h with pkts := replaceFirst h.pkts x [] }) (h.who dev).flat (h.slot x.idx + 2) [BitVec.ofNat 8 st]

theorem exec_packetComplete_done {st : Nat} (hst : (pktAct s (h.who dev) x).2.2 = some st)
    (hwrite : cpFault (modQueue (pktAct s (h.who dev) x).1 dev q fun h => { h with pkts := replaceFirst h.pkts x [] }) (h.who dev) true .write (h.slot x.idx + 2) 1 = none) :
    exec (.packetComplete dev q x.idx) s =
      .next (if x.addr 8 = 0 || (cpFault (pktStored s dev q h x st) (h.who dev) true .write (x.addr 8) 8).isSome then pktStored s dev q h x st
        else engineWrite (releaseAt (pktStored s dev q h x st) (h.who dev).flat 5) (h.who dev).flat (x.addr 8) (bytesOf 8 (fieldAt x.bytes 16 8))) := by
  change execPacketComplete dev q x.idx s = _
  unfold execPacketComplete pktStored
  rw [hq]
  simp only [hx]
  generalize pktAct s (h.who dev) x = u at hst hwrite ⊢
  obtain ⟨u, ack, st'⟩ := u
  cases hst
  simp only at hwrite ⊢
  rw [hwrite]
  rfl
end

/-! ## QUEUE_RESUME (R296) -/

theorem exec_queueResume_error {rd : W32} (hl : led s dev = true) (hsize : (h.wridx - rd).toNat ≤ h.size) (hst : h.st = .error) :
    exec (.queueResume dev q rd) s = .next (modQueue s dev q fun h =>
      if h.st = .error then { h with rdidx := rd, st := if rd = h.wridx then .idle else .active } else h) := by
  change execQueueResume dev q rd s = _
  unfold execQueueResume
  rw [hq]
  simp only [hl, Bool.not_true, Bool.false_eq_true, false_or, if_neg (Nat.not_lt.mpr hsize)]
  exact congrArg Host.Outcome.next (modQueue_congr hq (by simp only [hst, if_true]))
end

/-! ## The lease (R304) -/

section
variable {s : State} {dev : Nat} {die : Fin 4}

theorem exec_leaseRenew_held (hlead : (s.dev dev).leader = some die.val) (hlapse : leaseLapsed s dev = false) (hdie : bits (s.dev dev).lease 39 38 = die.val) :
    exec (.leaseRenew dev die) s =
      .next (s.modDev dev fun d => { d with lease := leaseWord s (bits d.lease 63 40) die.val, renewed := s.ftime }) := by
  change execLeaseRenew dev die s = _
  simp only [execLeaseRenew, hlead, hlapse, hdie, ne_eq, not_true_eq_false, Bool.false_eq_true, or_self, if_false]

theorem exec_leaseRenew_lapsed (hlead : (s.dev dev).leader = some die.val) (hlapse : leaseLapsed s dev = true) :
    exec (.leaseRenew dev die) s = .next (s.modDev dev fun d => { d with leader := none }) := by
  change execLeaseRenew dev die s = _
  simp only [execLeaseRenew, hlead, hlapse, ne_eq, not_true_eq_false, true_or, if_false, if_true]

theorem exec_leaseTakeover_expired (hlead : (s.dev dev).leader ≠ some die.val) (hboot : (s.dev dev).boot ≠ 0)
    (hexp : ftimeBefore (s.ftime / 65536 * 65536) (expiry (s.dev dev).lease) = false) :
    exec (.leaseTakeover dev die) s = .next (writeHealth (s.modDev dev fun d =>
      { d with lease := leaseWord s (bits d.lease 63 40 + 1) die.val, leader := some die.val, renewed := s.ftime }) dev) := by
  change execLeaseTakeover dev die s = _
  simp only [execLeaseTakeover, hlead, hboot, hexp, Bool.false_eq_true, or_self, if_false]

theorem exec_leaseLapse_lapsed (hlead : (s.dev dev).leader ≠ none) (hlapse : leaseLapsed s dev = true) :
    exec (.leaseLapse dev) s = .next (s.modDev dev fun d => { d with leader := none }) := by
  change execLeaseLapse dev s = _
  simp only [execLeaseLapse, Option.isSome_iff_ne_none.mpr hlead, hlapse, Bool.and_self, if_true]
end

/-- Settles O49: one lemma per event and branch. -/
theorem queueEvents : Obligations.QueueEvents := by
  unfold Obligations.QueueEvents
  intro dev q s h hq
  refine ⟨fun conn v hlt hsvc => ⟨fun hb hc hn => ⟨exec_tailWrite_taken hq v hlt hsvc hb hc hn, fun ho => (exec_tailWrite_ahead hq v hlt hsvc hb hc hn ho).1,
    fun ho => (exec_tailWrite_ahead hq v hlt hsvc hb hc hn ho).2.1, fun ho => (exec_tailWrite_ahead hq v hlt hsvc hb hc hn ho).2.2⟩,
    exec_tailWrite_dropped hq v hlt, fun size hne => congrArg Host.Outcome.next (if_pos (Or.inl hne))⟩, fun hst hne => ?_, fun x hst hx => ?_, fun idx => exec_packetComplete_none hq,
    fun x hx => ⟨exec_packetComplete_acting hq hx, fun st hst hw => ?_⟩, fun hl => ⟨congrArg Host.Outcome.next (if_pos hl), fun rd => exec_queueResume_error hq hl⟩,
    fun die => ⟨exec_leaseRenew_held, exec_leaseRenew_lapsed, exec_leaseTakeover_expired⟩, exec_leaseLapse_lapsed⟩
  case refine_1 =>
    have hread := exec_packetRead_active hq hst hne
    refine ⟨fun hf => hread.trans (congrArg Host.Outcome.next (if_pos hf)), fun hf => ?_⟩
    have hgood := hread.trans (congrArg Host.Outcome.next (if_neg (by simp [hf])))
    refine ⟨fun hop => hgood.trans (congrArg Host.Outcome.next (if_pos hop)), fun hop hbad => ?_, fun hop hbad => ?_⟩
    · exact hgood.trans (congrArg Host.Outcome.next ((if_neg (Nat.not_le.mpr hop)).trans (if_pos hbad)))
    · have hrun := hgood.trans (congrArg Host.Outcome.next ((if_neg (Nat.not_le.mpr hop)).trans (if_neg (Bool.eq_false_iff.mp hbad))))
      exact ⟨fun hh => hrun.trans (congrArg Host.Outcome.next (if_pos hh)), fun hh => hrun.trans (congrArg Host.Outcome.next (if_neg (Bool.eq_false_iff.mp hh)))⟩
  case refine_2 =>
    have hend := exec_holdEnds_waiting hq hst hx
    exact ⟨fun hh => hend.trans (congrArg Host.Outcome.next (if_pos hh)), fun hh => hend.trans (congrArg Host.Outcome.next (if_neg (Bool.eq_false_iff.mp hh)))⟩
  case refine_3 =>
    have hdone := exec_packetComplete_done hq hx hst hw
    refine ⟨fun hsig => hdone.trans (congrArg Host.Outcome.next (if_pos ?_)), fun hsig hcp => hdone.trans (congrArg Host.Outcome.next (if_neg ?_))⟩
    · simp only [hsig, decide_true, Bool.true_or]
    · unfold pktStored
      rw [hcp, Option.isSome_none, Bool.or_false, decide_eq_true_eq]
      exact hsig

end Sys2Proof.Machine
end

section
/-! PROOFS. Messages on arrival, handlers in partition D, replies and bounces (O39). -/

namespace Sys2Proof.Machine
open Sys2Proof

/-! ## The checks of arrival (R354, R356) -/

section
variable {s : State} {m : Msg}

theorem reject_nobody (h : (s.ctx m.ctx).live = false ∨ inPartition s m.dest = false) : m.reject s = some 5 := by
  unfold Msg.reject
  rcases h with h | h <;> simp [h]

/-- The checks of a request of a live context that is addressed to a core of its partition. -/
theorem reject_addressed (hlive : (s.ctx m.ctx).live = true) (hin : inPartition s m.dest = true) : m.reject s =
    match m.handler.toNat with
    | 0x08 => if m.arg 1 < 4 && m.arg 0 % 2 ^ m.arg 1 = 0 && m.arg 2 = 0 && m.arg 3 = 0 then none else some 9
    | 0x10 => if m.arg 1 < 4 && m.arg 0 % 2 ^ m.arg 1 = 0 && m.arg 3 = 0 then none else some 9
    | 0x18 => if (m.arg 1 % 256 < 10 || m.arg 1 % 256 = 16) && 2 ≤ m.arg 1 / 256 && m.arg 1 / 256 < 4 && m.arg 0 % 2 ^ (m.arg 1 / 256) = 0 then none else some 9
    | 0x20 => if m.arg 2 = 0 && m.arg 3 = 0 then none else some 9
    | 0x28 => none
    | h => if h < 0x100 || h % 2 = 1 then some 7 else none := by
  unfold Msg.reject
  rw [hlive, hin]
  rfl

theorem reject_unknown (hlive : (s.ctx m.ctx).live = true) (hin : inPartition s m.dest = true)
    (h : m.handler.toNat % 2 = 1 ∨ (m.handler.toNat < 0x100 ∧ m.handler.toNat ∉ [0x08, 0x10, 0x18, 0x20, 0x28])) : m.reject s = some 7 := by
  rw [reject_addressed hlive hin]
  split
  case h_6 => exact if_pos (by rcases h with h | ⟨h, -⟩ <;> simp [h])
  all_goals simp_all

theorem reject_handler (hlive : (s.ctx m.ctx).live = true) (hin : inPartition s m.dest = true) (hlow : 0x100 ≤ m.handler.toNat) (heven : m.handler.toNat % 2 = 0) :
    m.reject s = none := by
  rw [reject_addressed hlive hin]
  split
  case h_6 => exact if_neg (by simp [heven, hlow])
  all_goals omega

/-! ## MESSAGE_ARRIVAL (R354, R355) -/

variable {n : Nat} (hm : s.net[n]? = some m) (hfirst : firstOfLane s n = true)
include hm hfirst

theorem exec_messageArrival_service (htask : m.task = false) (hcls : m.cls = 3) : exec (.messageArrival n) s = .next (serviceArrive (takeMsg s n) m) := by
  change execMessageArrival n s = _
  unfold execMessageArrival
  rw [hm]
  simp only [htask, hfirst, hcls, Bool.not_true, Bool.or_self, Bool.false_eq_true, if_false, if_true]

section
variable (htask : m.task = false) (hcls : m.cls = 0)
include htask hcls

theorem exec_messageArrival_rejected {st : Nat} (hr : m.reject s = some st) : exec (.messageArrival n) s = .next (bounceMsg (takeMsg s n) m st) := by
  change execMessageArrival n s = _
  unfold execMessageArrival
  rw [hm]
  simp only [htask, hfirst, hcls, hr, Bool.not_true, Bool.or_self, Bool.false_eq_true, if_false] <;> rfl

theorem exec_messageArrival_taken (hr : m.reject s = none) : exec (.messageArrival n) s = .next ((arrive (takeMsg s n) m).getD s) := by
  change execMessageArrival n s = _
  unfold execMessageArrival
  rw [hm]
  simp only [htask, hfirst, hcls, hr, Bool.not_true, Bool.or_self, Bool.false_eq_true, if_false] <;> rfl
end

/-! ## REPLY_ARRIVAL and BOUNCE (R356, R362) -/

theorem exec_replyArrival_live (hreply : m.isReply = true) (hfate : fateOf (takeMsg s n) m.dest m.ctx = .live) :
    exec (.replyArrival n) s = .next (fillSlot (takeMsg s n) m) := by
  change execReplyArrival n s = _
  unfold execReplyArrival
  rw [hm]
  simp only [hreply, hfirst, hfate, Bool.not_true, Bool.or_self, Bool.false_eq_true, if_false]

theorem exec_bounce_live (hcls : m.cls = 1) (hbnc : m.bnc = true) (hrp : m.rp = false) (hfate : fateOf (takeMsg s n) m.dest m.ctx = .live) :
    exec (.bounce n) s = .next (execBounce.record (takeMsg s n) m) := by
  change execBounce n s = _
  unfold execBounce
  rw [hm]
  simp only [hcls, hbnc, hrp, hfirst, hfate, ne_eq, not_true_eq_false, decide_false, Bool.not_true, Bool.or_self, Bool.false_eq_true, if_false]
end

/-! ## A request meets its part (R355, R357) -/

section
variable {t : State} {m : Msg}

theorem arrive_handler (hlow : 0x100 ≤ m.handler.toNat) : arrive t m = match fateOf t m.dest m.ctx with
    | .live => if inboxHolds t m.dest m.ctx || decide (32 ≤ (t.core m.dest).dq.length) then none else some (t.modCore m.dest fun c => { c with dq := c.dq ++ [m] })
    | .exited => some (bounceMsg t m 5)
    | _ => some (toInbox t m) := by
  unfold arrive
  exact if_neg (Nat.not_lt.mpr hlow)

theorem arrive_exited (hlow : 0x100 ≤ m.handler.toNat) (hfate : fateOf t m.dest m.ctx = .exited) : arrive t m = some (bounceMsg t m 5) := by
  rw [arrive_handler hlow, hfate]

theorem arrive_live (hlow : 0x100 ≤ m.handler.toNat) (hfate : fateOf t m.dest m.ctx = .live) (hbox : inboxHolds t m.dest m.ctx = false)
    (hroom : (t.core m.dest).dq.length < 32) : arrive t m = some (t.modCore m.dest fun c => { c with dq := c.dq ++ [m] }) := by
  have hfull : decide (32 ≤ (t.core m.dest).dq.length) = false := decide_eq_false (Nat.not_le.mpr hroom)
  rw [arrive_handler hlow, hfate]
  simp only [hbox, hfull, Bool.or_self, Bool.false_eq_true, if_false]

theorem arrive_builtin (hlow : m.handler.toNat < 0x100) (s : State) : (arrive t m).getD s = if builtinWaits t m then s else builtin t m := by
  unfold arrive
  rw [if_pos hlow]
  split <;> rfl
end

/-! ## Slots of replies (R362) -/

theorem fillSlot_waiting {s : State} {m : Msg} {k : Nat} {x : RSlot} (hk : s.placed m.dest m.ctx = some k) (hx : (s.part k).replies = [x]) (htag : x.tag = m.tag)
    (hnone : x.reply = none) :
    fillSlot s m = s.modPart k fun p => { p with replies := [{ x with reply := some (m.status, m.args.getD 0 0, m.args.getD 1 0, m.arg 2 % 256) }] } := by
  unfold fillSlot
  rw [hk]
  simp only [hx, List.any_cons, List.any_nil, htag, hnone, decide_true, Option.isNone_none, Bool.and_self, Bool.or_false, if_true]
  refine State.modPart_congr ?_
  simp only [hx, List.map_cons, List.map_nil, htag, hnone, decide_true, Option.isNone_none, Bool.and_self, if_true]

/-! ## Handlers in partition D (R359, R361) -/

section
variable {s : State} {flat : Nat} {m : Msg} {ms : List Msg}

/-- The next queued message has left partition D's queue. -/
def dequeued (s : State) (flat : Nat) (ms : List Msg) : State := s.modCore flat fun c => { c with dq := ms }

/-- The handler of the next queued message stands in partition D. -/
def handlerStarted (s : State) (flat : Nat) (m : Msg) (ms : List Msg) (k : Nat) : State :=
  ((dequeued s flat ms).modCore flat fun c => { c with dmsg := some m, dStart := (dequeued s flat ms).ftime }).modPart (flat * 4 + 3) fun d =>
    handlerPart d ((dequeued s flat ms).part k) m (dequeued s flat ms).steps

section
variable (hidle : (s.core flat).dmsg = none) (hq : (s.core flat).dq = m :: ms)
include hidle hq

theorem exec_handlerStart_exited (hfate : fateOf (dequeued s flat ms) flat m.ctx = .exited) :
    exec (.handlerStart flat) s = .next (drainInboxes (bounceMsg (dequeued s flat ms) m 5) flat) := by
  change execHandlerStart flat s = _
  unfold execHandlerStart
  unfold dequeued at hfate ⊢
  rw [hidle, hq]
  simp only [hfate]

theorem exec_handlerStart_live {k : Nat} (hfate : fateOf (dequeued s flat ms) flat m.ctx = .live) (hk : (dequeued s flat ms).placed flat m.ctx = some k) :
    exec (.handlerStart flat) s =
      .next (drainInboxes (acquireAt (handlerStarted s flat m ms k) flat (msgScope (handlerStarted s flat m ms k) m.src flat)) flat) := by
  change execHandlerStart flat s = _
  unfold execHandlerStart
  unfold handlerStarted
  unfold dequeued at hfate hk ⊢
  rw [hidle, hq]
  simp only [hfate, hk]
end

theorem exec_htimeout_late (hbusy : (s.core flat).dmsg ≠ none) (hlate : 100000 ≤ since s (s.core flat).dStart) :
    exec (.htimeout flat) s = .next { handlerFault s flat 0x17 0 0 with sel := none, issued := false } := by
  change execHtimeout flat s = _
  simp only [execHtimeout, Option.isSome_iff_ne_none.mpr hbusy, hlate, decide_true, Bool.and_self, if_true]

theorem exec_htimeout_early (hlate : since s (s.core flat).dStart < 100000) : exec (.htimeout flat) s = .next s := by
  change execHtimeout flat s = _
  simp only [execHtimeout, Nat.not_le.mpr hlate, decide_false, Bool.and_false, Bool.false_eq_true, if_false]
end

/-- The registers that a handler starts with. -/
theorem handlerPart_spec (d a : Part) (m : Msg) (seq : Nat) :
    (handlerPart d a m seq).pc = m.handler ∧ (handlerPart d a m seq).st = .resident ∧ (handlerPart d a m seq).ctx = m.ctx ∧ (handlerPart d a m seq).stallchk = true ∧
      (handlerPart d a m seq).fpctl = 0 ∧ (handlerPart d a m seq).stall = 0 ∧ (∀ j : Fin 4, (handlerPart d a m seq).s[4 + j.val] = m.args.getD j.val 0) ∧
      (handlerPart d a m seq).s[56] = m.header ∧ (handlerPart d a m seq).s[57].toNat = m.src % 2 ^ 32 + m.srcPart.val * 2 ^ 32 := by
  unfold handlerPart
  extract_lets s4 s57
  obtain ⟨fb, fr, hgoto⟩ := goto_eq _ m.handler seq
  rw [hgoto]
  refine ⟨rfl, rfl, rfl, rfl, rfl, rfl, fun j => ?_, ?_, ?_⟩
  · have hj := j.isLt
    have hs4 : s4[4 + j.val] = m.args.getD j.val 0 := by
      fin_cases j <;> simp [s4, List.finRange]
    simp only [s57]
    rw [Vector.getElem_set_ne _ _ (by omega), Vector.getElem_set_ne _ _ (by omega), hs4]
  · simp [s57]
  · have hp := m.srcPart.isLt
    simp only [s57, Vector.getElem_set_self, BitVec.toNat_ofNat]
    omega

/-- Settles O39: one lemma per event and branch. -/
theorem messageEvents : Obligations.MessageEvents := by
  unfold Obligations.MessageEvents
  refine ⟨fun n s m hm hf => ⟨exec_messageArrival_service hm hf, fun ht hc => ⟨fun hn => exec_messageArrival_rejected hm hf ht hc (reject_nobody hn), fun hl hi =>
      ⟨fun hu => exec_messageArrival_rejected hm hf ht hc (reject_unknown hl hi hu), fun hlow he => ⟨fun hx => ?_, fun hx hbox hroom => ?_⟩,
        fun hh h2 h3 => ?_, fun hh => ?_, fun hh h1 h0 h3 => ?_⟩⟩, exec_replyArrival_live hm hf, exec_bounce_live hm hf⟩,
    fun s m k x => fillSlot_waiting, fun flat s m ms hidle hq => ⟨exec_handlerStart_exited hidle hq, fun k => exec_handlerStart_live hidle hq⟩, handlerPart_spec, fun flat s hb => ⟨exec_htimeout_late hb, exec_htimeout_early⟩⟩
  case refine_1 => rw [exec_messageArrival_taken hm hf ht hc (reject_handler hl hi hlow he), arrive_exited hlow hx, Option.getD_some]
  case refine_2 => rw [exec_messageArrival_taken hm hf ht hc (reject_handler hl hi hlow he), arrive_live hlow hx hbox hroom, Option.getD_some]
  case refine_3 =>
    have hnat : m.handler.toNat = 0x20 := by rw [hh]; rfl
    have hr : m.reject s = none := by simp only [reject_addressed hl hi, hnat, h2, h3, decide_true, Bool.and_self, if_true]
    rw [exec_messageArrival_taken hm hf ht hc hr, arrive_builtin (by omega)]
    simp only [builtinWaits, hnat]
  case refine_4 =>
    have hnat : m.handler.toNat = 0x28 := by rw [hh]; rfl
    have hr : m.reject s = none := by simp only [reject_addressed hl hi, hnat]
    rw [exec_messageArrival_taken hm hf ht hc hr, arrive_builtin (by omega)]
    simp only [builtinWaits, hnat, Bool.false_eq_true, if_false]
  case refine_5 =>
    have hnat : m.handler.toNat = 0x10 := by rw [hh]; rfl
    have hr : m.reject s = none := by simp only [reject_addressed hl hi, hnat, h0, h1, h3, decide_true, Bool.and_self, if_true]
    rw [exec_messageArrival_taken hm hf ht hc hr, arrive_builtin (by omega)]
    simp only [builtinWaits, hnat]

end Sys2Proof.Machine
end

section
/-! PROOFS. The engine of streams, and recalled stash lines (O26). -/

namespace Sys2Proof.Machine
open Sys2Proof

section
variable {k : Nat} {r : Fin 8} {s u : State} {t : Stream} (ht : (s.part k).streams[r] = t)

/-! ## What the two events of an engine do with its act (R230, R234) -/

theorem exec_streamServe_kept (h : engineAct s k r = (u, false)) : exec (.streamServe k r) s = .next u ∧ exec (.streamFault k r) s = .next s := by
  constructor
  · change execStreamServe k r s = _
    unfold execStreamServe
    rw [h]
    rfl
  · change execStreamFault k r s = _
    unfold execStreamFault
    rw [h]
    rfl

theorem exec_streamServe_faulted (h : engineAct s k r = (u, true)) : exec (.streamServe k r) s = .next s ∧ exec (.streamFault k r) s = .next u := by
  constructor
  · change execStreamServe k r s = _
    unfold execStreamServe
    rw [h]
    rfl
  · change execStreamFault k r s = _
    unfold execStreamFault
    rw [h]
    rfl

include ht

/-! ## The acts of an engine -/

theorem engineAct_cut (h : streamCut s (whoOf s k).flat t = true) : engineAct s k r = (s, false) := by
  unfold engineAct
  rw [ht]
  exact if_pos (by simp [h])

theorem engineAct_unbound (h : t.state = .unbound) : engineAct s k r = (s, false) := by
  unfold engineAct
  rw [ht]
  exact if_pos (by simp [h])

section
variable (hst : t.state ≠ .unbound) (hcut : streamCut s (whoOf s k).flat t = false)
include hst hcut

theorem engineAct_broken (h : (t.broken && t.atWork) = true) :
    engineAct s k r = ((faultStream s k r t t.next.1 t.next.2.1 ⟨0x10, 0x20, t.next.2.2, none, false⟩).1, true) := by
  unfold engineAct
  rw [ht]
  simp only [hst, hcut, h, decide_false, Bool.or_self, Bool.false_eq_true, if_false, if_true]

variable (hpin : (t.broken && t.atWork) = false)
include hpin

section
variable (hread : t.write = false) (hmay : t.mayFetch = true)
include hread hmay

/-- A read stream with its index vectors at hand, or without any. -/
theorem engineAct_fetch (hix : t.index = none ∨ t.needIx ≤ t.ixs.length) : engineAct s k r = fetchVector s k r t := by
  unfold engineAct
  rw [ht]
  simp only [hst, hcut, hpin, hread, hmay, decide_false, Bool.or_self, Bool.not_true, Bool.false_eq_true, if_false]
  cases hi : t.index with
  | none => rfl
  | some i => exact if_neg (Nat.not_lt.mpr (hix.resolve_left (by simp [hi])))

theorem engineAct_index {i : Fin 8} {x : Slot} {xs : List Slot} (hi : t.index = some i) (hlt : t.ixs.length < t.needIx) (hx : (s.part k).streams[i].slots = x :: xs) :
    engineAct s k r = (setStream (setStream s k i (Stream.settle { (s.part k).streams[i] with slots := xs, pos := (s.part k).streams[i].pos + 1 }))
      k r { t with ixs := t.ixs ++ [x.v] }, false) := by
  unfold engineAct
  rw [ht]
  simp only [hst, hcut, hpin, hread, hmay, hi, hlt, hx, decide_false, Bool.or_self, Bool.not_true, Bool.false_eq_true, if_false, if_true]
end

section
variable {x : Slot} {xs : List Slot} (hwrite : t.write = true) (hx : t.slots = x :: xs) (hok : t.fault = none)
include hwrite hx hok

theorem engineAct_written (hw : writeElems (whoOf s k) t x.idx x.v ((t.elems x.idx).drop t.elem) s = (u, none)) :
    engineAct s k r = (pulse (setStream u k r (Stream.settle { t with slots := xs, elem := 0 })) k (8 + r.val), false) := by
  unfold engineAct
  rw [ht]
  simp only [hst, hcut, hpin, hwrite, hx, hok, hw, decide_false, Bool.or_self, Bool.false_eq_true, if_false, if_true]

theorem engineAct_writeFault {e : Nat} {f : EFault} (hw : writeElems (whoOf s k) t x.idx x.v ((t.elems x.idx).drop t.elem) s = (u, some (e, f))) :
    engineAct s k r = ((faultStream u k r { t with elem := e } x.idx e f).1, true) := by
  unfold engineAct
  rw [ht]
  simp only [hst, hcut, hpin, hwrite, hx, hok, hw, decide_false, Bool.or_self, Bool.false_eq_true, if_false, if_true]
end
end
end

theorem fetchVector_arrived {s u : State} {k : Nat} {r : Fin 8} {t : Stream} {vs : List Nat}
    (h : readElems (whoOf s k) t t.ixs t.eng ((t.elems t.eng).drop t.got.length) s = (u, vs, none)) :
    fetchVector s k r t = (setStream u k r (Stream.settle { t with
      slots := t.slots ++ [⟨t.eng, packVals t.width (t.got ++ vs), t.ixs⟩], eng := t.eng + 1, ixs := [], got := [] }), false) := by
  unfold fetchVector
  rw [h]

theorem fetchVector_fault {s u : State} {k : Nat} {r : Fin 8} {t : Stream} {vs : List Nat} {e : Nat} {f : EFault}
    (h : readElems (whoOf s k) t t.ixs t.eng ((t.elems t.eng).drop t.got.length) s = (u, vs, some (e, f))) :
    fetchVector s k r t = ((faultStream u k r { t with got := t.got ++ vs } t.eng e f).1, true) := by
  unfold fetchVector
  rw [h]

theorem exec_stashRecall_held {s : State} {k : Nat} {va : W64} {m : Stash} {d : Bool} (hm : stashOf (s.part k) (lineOf va) = some m)
    (hd : mfind m.lines (lineOf va).toNat = some d) :
    exec (.stashRecall k va) s = .next (stashMark (if d then stashWriteBack s k m (lineOf va) else s) k m.g (lineOf va) none) :=
  congrArg Host.Outcome.next (stashRecallLine_held hm hd)

/-- Settles O26: each clause is one act of the engine, which the serve event keeps where it meets no fault, and the fault event where it meets one. -/
theorem streamEvents : Obligations.StreamEvents := by
  unfold Obligations.StreamEvents
  intro k r s
  refine ⟨fun h => ?_, fun h => ?_, fun hst hcut h => ?_, fun ⟨hst, hcut, hpin⟩ hread hmay hix => ⟨fun u vs h => ?_, fun u vs e f h => ?_⟩,
    fun i x xs ⟨hst, hcut, hpin⟩ hread hmay hi hlt hx => ?_, fun x xs ⟨hst, hcut, hpin⟩ hw hx hf => ⟨fun u h => ?_, fun u e f h => ?_⟩, fun va m d => exec_stashRecall_held⟩
  · exact exec_streamServe_kept (engineAct_cut rfl h)
  · exact exec_streamServe_kept (engineAct_unbound rfl h)
  · exact exec_streamServe_faulted (engineAct_broken rfl hst hcut h)
  · exact exec_streamServe_kept ((engineAct_fetch rfl hst hcut hpin hread hmay hix).trans (fetchVector_arrived h))
  · exact exec_streamServe_faulted ((engineAct_fetch rfl hst hcut hpin hread hmay hix).trans (fetchVector_fault h))
  · exact (exec_streamServe_kept (engineAct_index rfl hst hcut hpin hread hmay hi hlt hx)).1
  · exact exec_streamServe_kept (engineAct_written rfl hst hcut hpin hw hx hf h)
  · exact exec_streamServe_faulted (engineAct_writeFault rfl hst hcut hpin hw hx hf h)

end Sys2Proof.Machine
end

section
/-! PROOFS. The events of a matrix unit (O28). -/

namespace Sys2Proof.Machine
open Sys2Proof

section
variable {m : Nat} {s : State}

/-! ## Plane loads (R316) -/

/-- The bytes that an MLOAD reads. -/
def planeBytes (l : MLoad) : Nat := if l.bs then 61440 else 49152

theorem exec_planeLoadStart_free {l : MLoad} (hidle : (s.mu m).current = none) (hl : nextLoad s m = some l)
    (hfree : (s.mu m).shadow.tag = 0 ∨ needed s m (s.mu m).shadow.tag = false) :
    exec (.planeLoadStart m) s = .next (settleMu (s.modMu m fun u => { u with shadow := ⟨l.tag, true, l.bs, []⟩, current := some l }) m) := by
  change execPlaneLoadStart m s = _
  unfold execPlaneLoadStart
  rw [hl]
  simp only [hidle]
  exact congrArg Host.Outcome.next (if_neg (by rcases hfree with h | h <;> simp [h]))

section
variable {l : MLoad} (hcur : (s.mu m).current = some l)
include hcur

theorem exec_planeLoadDone_loaded {s1 : State} (hb : l.broken = false) (hcut : engineCut s l.flat l.addr (planeBytes l) = false)
    (hc : engineCheck s ⟨l.flat, l.k, l.ctx⟩ .read l.addr (planeBytes l) = .ok s1) : exec (.planeLoadDone m) s =
      .next (settleMu (loadEnds ((engineRead s1 l.flat l.addr (planeBytes l)).1.modMu m fun u =>
        { u with shadow := ⟨l.tag, false, l.bs, (engineRead s1 l.flat l.addr (planeBytes l)).2⟩, current := none }) l) m) := by
  change execPlaneLoadDone m s = _
  unfold execPlaneLoadDone
  unfold planeBytes at hcut hc ⊢
  rw [hcur]
  simp only [hb, hcut, hc, Bool.not_false, Bool.true_and, Bool.false_eq_true, if_false]

theorem exec_planeLoadDone_cut (hb : l.broken = false) (hcut : engineCut s l.flat l.addr (planeBytes l) = true) : exec (.planeLoadDone m) s = .next s := by
  change execPlaneLoadDone m s = _
  unfold execPlaneLoadDone
  unfold planeBytes at hcut
  rw [hcur]
  simp only [hb, hcut, Bool.not_false, Bool.true_and, if_true]

theorem exec_planeLoadDone_fault {f : EFault}
    (h : l.broken = true ∧ f = ⟨0x10, 0x20, l.addr, none, false⟩ ∨
      l.broken = false ∧ engineCut s l.flat l.addr (planeBytes l) = false ∧ engineCheck s ⟨l.flat, l.k, l.ctx⟩ .read l.addr (planeBytes l) = .error f) :
    exec (.planeLoadDone m) s =
      .next (settleMu (addMrec ((f.note s l.flat).modMu m fun u => { u with shadow := .reset, current := none, loads := u.loads.erase l }) l.flat none f.code f.reason
        (matrixRecord f.code f.reason 0 0 0 l.pc f.addr)) m) := by
  change execPlaneLoadDone m s = _
  unfold execPlaneLoadDone
  unfold planeBytes at h
  rw [hcur]
  rcases h with ⟨hb, rfl⟩ | ⟨hb, hcut, hc⟩
  · simp only [hb, Bool.not_true, Bool.false_and, Bool.false_eq_true, if_false, if_true]
  · simp only [hb, hcut, hc, Bool.not_false, Bool.true_and, Bool.false_eq_true, if_false]
end

/-! ## Arbitration (R317, R325) -/

section
variable (hidle : streamingAt s m = none) (hrun : (s.cluster (m / 2)).halted = false)
include hidle hrun

theorem exec_arbiterGrant_pending {pos : Nat} (hp : pending s m = some pos) : exec (.arbiterGrant m) s = .next (settleMu (beginStream s m pos) m) := by
  change execArbiterGrant m s = _
  simp only [execArbiterGrant, hidle, hrun, hp, Option.isSome_none, Bool.or_self, Bool.false_eq_true, if_false]

theorem exec_arbiterGrant_swap (hp : pending s m = none) (hsw : swapWaits (s.modMu m fun u => { u with pend := none }) m = true) :
    exec (.arbiterGrant m) s = .next (settleMu ((s.modMu m fun u => { u with pend := none }).modMu m fun u => { u with inArray := false }) m) := by
  change execArbiterGrant m s = _
  simp only [execArbiterGrant, hidle, hrun, hp, hsw, Option.isSome_none, Bool.or_self, Bool.false_eq_true, if_false, if_true]

theorem exec_arbiterGrant_grant (hp : pending s m = none) (hsw : swapWaits (s.modMu m fun u => { u with pend := none }) m = false) :
    exec (.arbiterGrant m) s = .next (settleMu (grant (s.modMu m fun u => { u with pend := none }) m) m) := by
  change execArbiterGrant m s = _
  simp only [execArbiterGrant, hidle, hrun, hp, hsw, Option.isSome_none, Bool.or_self, Bool.false_eq_true, if_false]
end

/-! ## The streaming operation (R315, R323, R324, R327) -/

theorem cluster_swapped (s : State) (m : Nat) (o : MOp) (cl : Nat) : (swapped s m o).cluster cl = s.cluster cl := by
  unfold swapped
  split <;> rfl

/-- Whether a candidate of a unit has a higher effective priority than the base priority of a core. -/
def overtakes (s : State) (m flat : Nat) : Bool :=
  (topCands s m).any fun q =>
    match candidate (s.mu m) (mcore s (muFlat m q)) with
    | some x => decide ((mcore s flat).prio < effPrio s.time (mcore s (muFlat m q)) x)
    | none => false

/-- The rows of a k-step that is not the last have entered the array. -/
def kstepEntered (s1 : State) (m flat : Nat) (o : MOp) (as : List MAdd) : State :=
  (modHead (addSums s1 flat o.acc as) flat fun o => { o with next := o.next + 1 }).modMu m fun u => { u with inArray := true }

section
variable {pos : Nat} {o : MOp} (hst : streamingAt s m = some (pos, o))
include hst

theorem exec_streaming_cut (hcut : rowsCut (swapped s m o) (muFlat m pos) o = true) :
    exec (.kstepBoundary m) s = .next s ∧ exec (.lastRow m) s = .next s := by
  constructor
  · change execKstepBoundary m s = _
    simp only [execKstepBoundary, hst, hcut, Bool.or_true, if_true]
  · change execLastRow m s = _
    simp only [execLastRow, hst, hcut, Bool.or_true, if_true]

variable {s1 : State} {as : List MAdd} (hcut : rowsCut (swapped s m o) (muFlat m pos) o = false)
include hcut

section
variable (hb : o.broken = false)
include hb

section
variable (hreads : readRows (holderWho (swapped s m o) (muFlat m pos)) o ((swapped s m o).mu m).active (List.range o.rows) (swapped s m o) = (s1, as, none))
include hreads

theorem exec_kstepBoundary_entered (hks : o.next + 1 < o.ks) (hrun : (s.cluster (m / 2)).halted = false) : exec (.kstepBoundary m) s =
    .next (if !((kstepEntered s1 m (muFlat m pos) o as).mu m).held ((o.tag + o.next + 1) % 65536) then
        settleMu (modHead (kstepEntered s1 m (muFlat m pos) o as) (muFlat m pos) fun o => { o with state := .queued }) m
      else if overtakes (kstepEntered s1 m (muFlat m pos) o as) m (muFlat m pos) then
        (if swapWaits (settleMu (modHead (kstepEntered s1 m (muFlat m pos) o as) (muFlat m pos) fun o => { o with state := .overtaken }) m) m then
          settleMu (modHead (kstepEntered s1 m (muFlat m pos) o as) (muFlat m pos) fun o => { o with state := .overtaken }) m
        else settleMu (grant (settleMu (modHead (kstepEntered s1 m (muFlat m pos) o as) (muFlat m pos) fun o => { o with state := .overtaken }) m) m) m)
      else settleMu (kstepEntered s1 m (muFlat m pos) o as) m) := by
  have hlast : decide (o.ks ≤ o.next + 1) = false := decide_eq_false (by omega)
  have hlive : ((swapped s m o).cluster (m / 2)).halted = false := by rw [cluster_swapped, hrun]
  change execKstepBoundary m s = _
  unfold execKstepBoundary
  rw [hst]
  simp only [hlast, hb, hlive, hcut, hreads, Bool.or_self, Bool.false_eq_true, if_false]
  rfl

theorem exec_lastRow_entered (hks : o.ks ≤ o.next + 1) : exec (.lastRow m) s =
    .next (settleMu ((popHead (addSums s1 (muFlat m pos) o.acc as) (muFlat m pos)).modMu m fun u =>
      { u with inArray := true, drain := u.drain ++ [(muFlat m pos, { o with state := .draining })] }) m) := by
  have hlast : decide (o.next + 1 < o.ks) = false := decide_eq_false (by omega)
  change execLastRow m s = _
  unfold execLastRow
  rw [hst]
  simp only [hlast, hb, hcut, hreads, Bool.or_self, Bool.false_eq_true, if_false]
end

/-- An activation read meets a condition. -/
theorem exec_matrixFault_read {row r : Nat} {f : EFault}
    (hreads : readRows (holderWho (swapped s m o) (muFlat m pos)) o ((swapped s m o).mu m).active (List.range o.rows) (swapped s m o) = (s1, as, some (r, f))) :
    exec (.matrixFault m row .access) s =
      .next (settleMu (faultOp (popHead (addSums s1 (muFlat m pos) o.acc as) (muFlat m pos)) (muFlat m pos) o r f.code f.reason f.addr) m) := by
  change execMatrixFault m row .access s = _
  unfold execMatrixFault
  rw [hst]
  simp only [hb, hcut, hreads, reduceCtorEq, decide_false, Bool.or_self, Bool.false_eq_true, if_false]
end

/-- A column fails at a row, or a read at a row finds its pin broken. -/
theorem exec_matrixFault_row {row : Nat} (col : Bool) (hwhy : col = true ∨ o.broken = true) (hrow : row < o.rows)
    (hreads : readRows (holderWho (swapped s m o) (muFlat m pos)) o ((swapped s m o).mu m).active ((List.range o.rows).filter (· < row)) (swapped s m o) = (s1, as, none)) :
    exec (.matrixFault m row (if col then .column else .access)) s =
      .next (settleMu (faultOp (popHead (addSums s1 (muFlat m pos) o.acc as) (muFlat m pos)) (muFlat m pos) o row
        (if col then 0x0C else 0x10) (if col then 0x30 else 0x20) (if col then 0 else o.rowAddr row)) m) := by
  cases col with
  | true =>
    change execMatrixFault m row .column s = _
    unfold execMatrixFault
    rw [hst]
    simp only [hcut, hreads, hrow, reduceCtorEq, decide_true, Bool.true_or, Bool.and_self, Bool.false_eq_true, if_false, if_true]
  | false =>
    have hb := hwhy.resolve_left (by decide)
    change execMatrixFault m row .access s = _
    unfold execMatrixFault
    rw [hst]
    simp only [hb, hcut, hreads, hrow, reduceCtorEq, decide_false, decide_true, Bool.or_true, Bool.and_self, Bool.false_eq_true, if_false, if_true]
end

/-! ## Drains (R323) -/

section
variable {flat : Nat} {o : MOp} {ds : List (Nat × MOp)} (hd : (s.mu m).drain = (flat, o) :: ds)
include hd

theorem exec_matrixRetire_oldest : exec (.matrixRetire m) s = .next (settleMu (retireOp (s.modMu m fun u =>
    { u with drain := ds, inArray := u.inArray && !(ds.isEmpty && (streamingAt s m).isNone) }) flat o.acc) m) := by
  change execMatrixRetire m s = _
  unfold execMatrixRetire
  rw [hd]

theorem exec_matrixFault_drained {row : Nat} (hrow : row < o.rows) : exec (.matrixFault m row .drained) s =
    .next (settleMu (faultOp (modMcore (s.modMu m fun u => { u with drain := ds }) flat fun c => c.modTile o.acc fun t =>
      { t with adds := t.adds.filter fun a => !(a.id = o.id && a.kstep = o.next && decide (row ≤ a.row)) }) flat o row 0x0C 0x30 0) m) := by
  change execMatrixFault m row .drained s = _
  unfold execMatrixFault drainFault
  rw [hd]
  simp only [hrow, if_true]
end

/-! ## Spare columns (R27, R312) -/

theorem exec_columnRemap_idle (hidle : ((List.range 8).any fun pos => (mcore s (muFlat m pos)).queue.any fun o => o.state = .streaming || o.state = .overtaken) = false)
    (hspare : (s.mu m).remaps < 2) : exec (.columnRemap m) s = .next (writeHealth (s.modMu m fun u => { u with remaps := u.remaps + 1 }) (m / 128)) := by
  change execColumnRemap m s = _
  simp only [execColumnRemap, hidle, Nat.not_le.mpr hspare, decide_false, Bool.or_self, Bool.false_eq_true, if_false]
end

/-- Settles O28: one lemma per event and branch. -/
theorem matrixEvents : Obligations.MatrixEvents := by
  unfold Obligations.MatrixEvents
  intro m s
  refine ⟨fun l => exec_planeLoadStart_free, fun l s1 hcur hb hcut hc => exec_planeLoadDone_loaded hcur hb hcut hc, fun l hcur hb hcut => exec_planeLoadDone_cut hcur hb hcut, fun l f hcur h => exec_planeLoadDone_fault hcur h,
    fun hidle hrun => ⟨fun pos => exec_arbiterGrant_pending hidle hrun, fun hp => ⟨exec_arbiterGrant_swap hidle hrun hp, exec_arbiterGrant_grant hidle hrun hp⟩⟩,
    fun pos o hst => ⟨exec_streaming_cut hst, fun s1 as hks hb hrun hcut hreads => ?_, fun s1 as hks hb hcut hreads => exec_lastRow_entered hst hcut hb hreads hks,
      fun row s1 as r f hb hcut hreads => exec_matrixFault_read hst hcut hb hreads,
      fun row col s1 as hwhy hrow hcut hreads => exec_matrixFault_row hst hcut col hwhy hrow hreads⟩,
    fun flat o ds hd => ⟨exec_matrixRetire_oldest hd, fun row => exec_matrixFault_drained hd⟩, fun pos => rfl, fun now c o => ⟨fun t ht => ?_, fun ht => ?_⟩, exec_columnRemap_idle⟩
  case refine_1 =>
    have hentered := exec_kstepBoundary_entered hst hcut hb hreads hks hrun
    refine ⟨fun hheld => hentered.trans (congrArg Host.Outcome.next (if_pos (by rw [Bool.not_eq_true']; exact hheld))), fun hheld => ?_⟩
    have hplane := hentered.trans (congrArg Host.Outcome.next (if_neg (by rw [Bool.not_eq_true', Bool.not_eq_false]; exact hheld)))
    refine ⟨fun hh => hplane.trans (congrArg Host.Outcome.next (if_neg (Bool.eq_false_iff.mp hh))), fun hh hsw => ?_, fun hh hsw => ?_⟩
    · exact hplane.trans (congrArg Host.Outcome.next ((if_pos hh).trans (if_pos hsw)))
    · exact hplane.trans (congrArg Host.Outcome.next ((if_pos hh).trans (if_neg (Bool.eq_false_iff.mp hsw))))
  case refine_2 => rw [effPrio, ht]
  case refine_3 => rw [effPrio, ht]

end Sys2Proof.Machine
end

section
/-! PROOFS. Groups, tickets, notices, admission and the ends of collectives (O48). -/

namespace Sys2Proof.Machine
open Sys2Proof

/-! ## Groups (R452, R453) -/

section
variable {g : W32} {c : Nat} {members : List Nat} {coord : Half} {plane : Nat} {s : State}

/-- A member's entry of a new group, by its place in the list. -/
def joinGroup (gid c nmem plane coord : Nat) (s : State) (m : Nat × Nat) : State :=
  s.modDev m.1 fun d => { d with groups := mset d.groups gid ⟨c, nmem, m.2, plane, coord, false, 0⟩ }

theorem dev_foldl_joinGroup_ne {gid c nmem plane coord d : Nat} {ms : List (Nat × Nat)} (hd : d ∉ ms.map (·.1)) (s : State) :
    (ms.foldl (joinGroup gid c nmem plane coord) s).dev d = s.dev d := by
  induction ms generalizing s with
  | nil => rfl
  | cons m ms ih =>
    obtain ⟨hne, hmem⟩ := not_or.mp (mt List.mem_cons.mpr hd)
    exact (ih hmem _).trans (State.dev_modDev_ne s _ hne)

theorem groups_foldl_joinGroup {gid c nmem plane coord d r : Nat} {ms : List (Nat × Nat)} (hnd : (ms.map (·.1)).Nodup) (hm : (d, r) ∈ ms) (s : State) :
    mfind ((ms.foldl (joinGroup gid c nmem plane coord) s).dev d).groups gid = some ⟨c, nmem, r, plane, coord, false, 0⟩ := by
  induction ms generalizing s with
  | nil => cases hm
  | cons m ms ih =>
    obtain ⟨hne, hnd⟩ := List.nodup_cons.mp hnd
    rcases List.mem_cons.mp hm with rfl | hm
    · rw [List.foldl_cons, dev_foldl_joinGroup_ne hne, joinGroup, State.dev_modDev]
      exact mfind_mset_self ..
    · exact ih hnd hm _

theorem exec_groupCreate_ok (hg : g ≠ 0) (hnew : grpOf s g.toNat = none) (hlive : (s.ctx c).live = true) (hcoord : coordOk s g.toNat members coord plane = true)
    (hne : members ≠ []) (hlen : members.length ≤ 65536) (hnd : members.Nodup)
    (hmem : ∀ d ∈ members, inPartition s (d * 1024) = true ∧ led s d = true ∧ (s.dev d).groups.length < 256) :
    exec (.groupCreate g c members coord plane) s = .next ((members.zip (List.range members.length)).foldl
      (joinGroup g.toNat c members.length plane coord.toNat) { s with groupStatus := some true, groups := s.groups ++ [⟨g.toNat, c, members, coord.toNat, plane⟩] }) := by
  have hled : (members.any fun d => (mfind s.devs d).isSome && !led s d) = false := List.any_eq_false.mpr fun d hd => by
    obtain ⟨-, hl, -⟩ := hmem d hd
    simp [hl]
  have hall : (members.all fun d => inPartition s (d * 1024) && ((s.dev d).groups.length < 256 : Bool)) = true := List.all_eq_true.mpr fun d hd => by
    obtain ⟨hp, -, hg⟩ := hmem d hd
    simp [hp, hg]
  have hgid : g.toNat ≠ 0 := fun h => hg (BitVec.eq_of_toNat_eq h)
  have hpos : 1 ≤ members.length := List.length_pos_iff.mpr hne
  change execGroupCreate g c members coord plane s = _
  unfold execGroupCreate
  simp only [hled, hcoord, hgid, hnew, hlive, hpos, hlen, hnd.dedup, hall, ne_eq, not_false_eq_true, decide_true, Option.isNone_none, Bool.and_self, Bool.false_eq_true,
    if_false, if_true]
  rfl

theorem exec_groupCreate_rejected (hled : ∀ d ∈ members, mfind s.devs d = none ∨ led s d = true)
    (hbad : g = 0 ∨ grpOf s g.toNat ≠ none ∨ (s.ctx c).live = false ∨ coordOk s g.toNat members coord plane = false ∨ members = [] ∨ 65536 < members.length ∨
      ¬ members.Nodup ∨ ∃ d ∈ members, inPartition s (d * 1024) = false ∨ 256 ≤ (s.dev d).groups.length) :
    exec (.groupCreate g c members coord plane) s = .next { s with groupStatus := some false } := by
  have hany : (members.any fun d => (mfind s.devs d).isSome && !led s d) = false := List.any_eq_false.mpr fun d hd => by
    rcases hled d hd with h | h <;> simp [h]
  change execGroupCreate g c members coord plane s = _
  unfold execGroupCreate
  refine congrArg Host.Outcome.next ((if_neg (Bool.eq_false_iff.mp hany)).trans (if_neg fun hok => ?_))
  simp only [Bool.and_eq_true, decide_eq_true_eq, Option.isNone_iff_eq_none, List.all_eq_true] at hok
  obtain ⟨⟨⟨⟨⟨⟨⟨hcoord, hg⟩, hnew⟩, hlive⟩, hpos⟩, hlen⟩, hnd⟩, hall⟩ := hok
  rcases hbad with rfl | h | h | h | rfl | h | h | ⟨d, hd, h⟩
  · exact hg rfl
  · exact h hnew
  · simp [hlive] at h
  · simp [hcoord] at h
  · exact absurd hpos (by decide)
  · omega
  · exact h (List.dedup_eq_self.mp (List.Sublist.eq_of_length (List.dedup_sublist members) hnd))
  · obtain ⟨hp, hn⟩ := hall d hd
    rcases h with h | h
    · simp [hp] at h
    · omega

theorem exec_groupDestroy_known {x : Grp} (hx : grpOf s g.toNat = some x) (hled : ∃ d ∈ x.members, led s d = true) :
    ∃ t, exec (.groupDestroy g) s = .next t ∧ grpOf t g.toNat = none := by
  have hany : ((grpOf s g.toNat).any fun y => y.members.any (led s)) = true := by
    rw [hx]
    exact List.any_eq_true.mpr hled
  refine ⟨destroyGroup s g.toNat, congrArg Host.Outcome.next (if_pos hany), ?_⟩
  unfold destroyGroup
  rw [hx]
  exact List.find?_eq_none.mpr fun y hy => by simpa using (List.mem_filter.mp hy).2
end

/-! ## Coordinators (R457, R460, R471) -/

section
variable {gid : W32} {seq : Nat} {s : State} {c : GColl} {g : Grp} (hc : gcollOf s gid.toNat seq = some c) (hg : grpOf s gid.toNat = some g)
include hc hg

section
variable (hst : c.st = .gathering) (hposts : ∀ d ∈ g.members, collPath s d g.gid = true ∧ ∃ p ∈ c.posts, p.1 = d)
include hst hposts

theorem exec_ticketIssue_held : exec (.ticketIssue gid seq) s = .next (
    if !postsAgree c.posts then
      modGcoll s c.gid seq fun c => { c with st := .withdrawn noDevice, notes := c.notes ++ g.members.map fun d => (d, .mismatch) }
    else if mfind s.coordTime g.coord = some (s.ftime % 2 ^ 48) then s
    else { (modGcoll s c.gid seq fun c => { c with st := .ticketed, seed := s.free, notes := c.notes ++ g.members.map fun d =>
            (d, .ticket (s.ftime % 2 ^ 48 * 65536 + g.coord)) }) with
          coordTime := mset s.coordTime g.coord (s.ftime % 2 ^ 48), free := s.free + 1 }) := by
  have hall : (g.members.all fun d => (c.posts.any fun p => p.1 = d) && collPath s d g.gid) = true := List.all_eq_true.mpr fun d hd => by
    obtain ⟨hpath, p, hp, rfl⟩ := hposts d hd
    rw [hpath, Bool.and_true]
    exact List.any_eq_true.mpr ⟨p, hp, decide_eq_true rfl⟩
  change execTicketIssue gid seq s = _
  unfold execTicketIssue
  rw [hc, hg]
  exact congrArg Host.Outcome.next (if_neg (by simp [hst, hall]))

theorem exec_ticketIssue_mismatch (ha : postsAgree c.posts = false) : exec (.ticketIssue gid seq) s = .next (modGcoll s c.gid seq fun c =>
    { c with st := .withdrawn noDevice, notes := c.notes ++ g.members.map fun d => (d, .mismatch) }) := by
  rw [exec_ticketIssue_held hc hg hst hposts, ha]
  rfl

theorem exec_ticketIssue_ticket (ha : postsAgree c.posts = true) (ht : mfind s.coordTime g.coord ≠ some (s.ftime % 2 ^ 48)) :
    ∃ t, exec (.ticketIssue gid seq) s = .next t ∧ mfind t.coordTime g.coord = some (s.ftime % 2 ^ 48) ∧
      t.gcolls = (modGcoll s c.gid seq fun c => { c with st := .ticketed, seed := s.free, notes := c.notes ++ g.members.map fun d =>
        (d, .ticket (s.ftime % 2 ^ 48 * 65536 + g.coord)) }).gcolls := by
  refine ⟨_, (exec_ticketIssue_held hc hg hst hposts).trans (congrArg Host.Outcome.next ((if_neg (by simp [ha])).trans (if_neg ht))), mfind_mset_self .., rfl⟩
end

theorem exec_collectiveWithdraw_gathering {dev : Nat} {x : Option (Nat × W64)} {as : List (Nat × Option (Nat × W64))} (hasks : c.asks = (dev, x) :: as)
    (hpath : collPath s dev c.gid = true) (hst : c.st = .gathering) : exec (.collectiveWithdraw gid seq) s = .next (modGcoll s c.gid seq fun c =>
      { c with st := .withdrawn dev, asks := as, notes := c.notes ++ c.posts.map fun p => (p.1, .cancel (if p.1 = dev then 3 else 4) dev) }) := by
  change execCollectiveWithdraw gid seq s = _
  unfold execCollectiveWithdraw
  rw [hc, hg]
  simp only [hasks, hpath, hst, Bool.not_true, Bool.false_eq_true, if_false]
end

/-! ## Notices (R461, R471) -/

section
variable {dev : Nat} {gid : W32} {seq : Nat} {s s1 : State} {c : Coll}

section
variable {t : Nat} (hn : takeNote s dev gid.toNat seq = some (.ticket t, s1)) (hfirst : ∀ u ∈ ticketsTo s dev (t % 65536), ticketBefore u t = false)
include hn hfirst

/-- The state of a member that has heard a ticket. -/
def ticketHeard (s1 : State) (dev t : Nat) : State := s1.modDev dev fun d => { d with horizon := mset d.horizon (t % 65536) (timeOfTicket t) }

theorem exec_ticketArrival_heard : exec (.ticketArrival dev gid seq) s = .next (
    if ((ticketHeard s1 dev t).dev dev).lastTicket.any fun l => ticketBefore t l then quiesceAll (ticketHeard s1 dev t) 1
    else modColl (ticketHeard s1 dev t) dev gid.toNat seq fun c => if c.st = .posted then { c with st := .ticketed, ticket := some t } else c) := by
  have hany : ((ticketsTo s dev (t % 65536)).any fun u => ticketBefore u t) = false := List.any_eq_false.mpr fun u hu => by simp [hfirst u hu]
  change execTicketArrival dev gid seq s = _
  unfold execTicketArrival
  rw [hn]
  exact congrArg Host.Outcome.next (if_neg (Bool.eq_false_iff.mp hany))

theorem exec_ticketArrival_breach {u : Nat} (hu : ((ticketHeard s1 dev t).dev dev).lastTicket = some u) (hlow : ticketBefore t u = true) :
    exec (.ticketArrival dev gid seq) s = .next (quiesceAll (ticketHeard s1 dev t) 1) :=
  (exec_ticketArrival_heard hn hfirst).trans (congrArg Host.Outcome.next (if_pos (by rw [hu]; exact hlow)))

theorem exec_ticketArrival_inOrder (hall : ∀ u, ((ticketHeard s1 dev t).dev dev).lastTicket = some u → ticketBefore t u = false) :
    exec (.ticketArrival dev gid seq) s =
      .next (modColl (ticketHeard s1 dev t) dev gid.toNat seq fun c => if c.st = .posted then { c with st := .ticketed, ticket := some t } else c) := by
  refine (exec_ticketArrival_heard hn hfirst).trans (congrArg Host.Outcome.next (if_neg ?_))
  cases hu : ((ticketHeard s1 dev t).dev dev).lastTicket with
  | none => exact Bool.false_ne_true
  | some u => simp [hall u hu]
end

variable (hc : collOf s1 dev gid.toNat seq = some c)
include hc

theorem exec_cancelNotice_posted {reason cause : Nat} (hn : takeNote s dev gid.toNat seq = some (.cancel reason cause, s1)) (hst : c.st = .posted) :
    exec (.cancelNotice dev gid seq) s = .next (cancelColl s1 dev c reason 0 cause 0) := by
  change execCancelNotice dev gid seq s = _
  simp only [execCancelNotice, hn, hc, hst, if_true]

theorem exec_abandonNotice_ticketed {reason cause fr : Nat} {addr : W64} (hn : takeNote s dev gid.toNat seq = some (.abandon reason cause fr addr, s1))
    (hst : c.st = .ticketed ∨ c.st = .admitted) : exec (.abandonNotice dev gid seq) s = .next (cancelColl s1 dev c reason fr cause addr) := by
  change execAbandonNotice dev gid seq s = _
  unfold execAbandonNotice
  rw [hn]
  simp only [hc]
  exact congrArg Host.Outcome.next (if_pos (by rcases hst with h | h <;> simp [h]))

theorem exec_mismatchNotice_posted (hn : takeNote s dev gid.toNat seq = some (.mismatch, s1)) (hst : c.st = .posted) :
    exec (.mismatchNotice dev gid seq) s = .next (cancelColl s1 dev c 1 0 noDevice 0) := by
  change execMismatchNotice dev gid seq s = _
  simp only [execMismatchNotice, hn, hc, hst, if_true]

theorem exec_ticketAgeBreach_old (hst : c.st = .ticketed) (hage : 2 ^ 46 ≤ (s1.ftime % 2 ^ 48 + 2 ^ 48 - timeOfTicket c.time) % 2 ^ 48) :
    exec (.ticketAgeBreach dev gid seq) s1 = .next (quiesceAll s1 1) := by
  change execTicketAgeBreach dev gid seq s1 = _
  unfold execTicketAgeBreach
  rw [hc]
  exact congrArg Host.Outcome.next (if_pos (by rw [hst, decide_eq_true hage]; rfl))

/-! ## Finish (R456, R464) -/

/-- What a member writes at its DST. -/
def memberResult (gc : GColl) (g : Grp) (c : Coll) (rank : Nat) : List Byte :=
  gc.result c.d c.arrival (g.members.map fun d => ((gc.posts.find? (·.1 = d)).map (·.2.1)).getD c.d) rank

theorem exec_collectiveFinish_ready {gc : GColl} {g : Grp} {rank : Nat} {s2 : State} (hgc : gcollOf s1 gid.toNat seq = some gc) (hg : grpOf s1 gid.toNat = some g)
    (hrank : g.members.idxOf? dev = some rank) (hst : c.st = .admitted) (hf : c.faulted = false) (hb : c.broken = false) (hop : c.d.op ≠ 3)
    (hdata : ∀ r, r < g.members.length → ∃ d ∈ gc.data, d.1 = r) (hne : memberResult gc g c rank ≠ []) (hpath : collPath s1 dev c.gid = true)
    (hcut : engineCut s1 c.flat c.d.dst (memberResult gc g c rank).length = false)
    (hchk : engineCheck s1 (collWho c) .write c.d.dst (memberResult gc g c rank).length = .ok s2) : exec (.collectiveFinish dev gid seq) s1 =
      .next (pulseOf (modColl (engineWrite s2 c.flat c.d.dst (memberResult gc g c rank)) dev c.gid seq fun c => { c with st := .complete }) c.flat c.ctx 22) := by
  have hready : ((List.range g.members.length).all fun r => gc.data.any fun d => d.1 = r) = true := List.all_eq_true.mpr fun r hr => by
    obtain ⟨d, hd, rfl⟩ := hdata r (List.mem_range.mp hr)
    exact List.any_eq_true.mpr ⟨d, hd, decide_eq_true rfl⟩
  have hnil : (memberResult gc g c rank).isEmpty = false := Bool.eq_false_iff.mpr fun h => hne (List.isEmpty_iff.mp h)
  change execCollectiveFinish dev gid seq s1 = _
  unfold execCollectiveFinish
  unfold memberResult at hcut hchk hnil ⊢
  rw [hc, hgc, hg]
  simp only [hrank, hst, hf, hb, hop, hready, hpath, hcut, hnil, hchk, ne_eq, not_true_eq_false, decide_false, Bool.not_true, Bool.or_self, Bool.false_eq_true, if_false]
end

/-! ## Horizons and admission (R461 to R464) -/

theorem exec_horizonBeacon_clear {dev : Nat} {coord : Half} {s : State} (hnone : ticketsTo s dev coord.toNat = [])
    (hg : ∃ g ∈ (s.dev dev).groups, g.2.coord = coord.toNat ∧ collPath s dev g.1 = true) :
    exec (.horizonBeacon dev coord) s = .next (s.modDev dev fun d => { d with horizon := mset d.horizon coord.toNat (s.ftime % 2 ^ 48) }) := by
  refine congrArg Host.Outcome.next (if_pos ?_)
  obtain ⟨g, hmem, hcoord, hpath⟩ := hg
  rw [hnone, List.isEmpty_nil, Bool.true_and]
  exact List.any_eq_true.mpr ⟨g, hmem, by rw [hcoord, hpath]; simp⟩

/-- The state of a member that has admitted a collective. -/
def admittedTo (s : State) (dev : Nat) (c : Coll) : State :=
  (modColl s dev c.gid c.seq fun c => { c with st := .admitted }).modDev dev fun d => { d with lastTicket := some c.time }

theorem groups_admittedTo (s : State) (dev : Nat) (c : Coll) : ((admittedTo s dev c).dev dev).groups = (s.dev dev).groups := by
  unfold admittedTo modColl
  rw [State.dev_modDev, State.dev_modDev]

section
variable {dev : Nat} {s : State} {c : Coll} {g : GEnt} (hlow : lowestTicket s dev = some c) (hpast : serialBefore (timeOfTicket c.time + 5000) s.ftime = true)
  (hheard : ∀ g ∈ (s.dev dev).groups, g.2.broken = true ∨ ∃ h, mfind (s.dev dev).horizon g.2.coord = some h ∧ serialBefore (timeOfTicket c.time) h = true)
  (hroom : roomFor s dev c = true)
  (hcut : engineCut s c.flat c.d.src (((mfind (s.dev dev).groups c.gid).map fun g => c.d.readBytes g.rank).getD 0) = false)
  (hg : mfind (s.dev dev).groups c.gid = some g)
include hlow hpast hheard hroom hcut hg

theorem exec_collectiveAdmit_reads {s2 : State}
    (hchk : (if c.d.readBytes g.rank = 0 then .ok (admittedTo s dev c) else engineCheck (admittedTo s dev c) (collWho c) .read c.d.src (c.d.readBytes g.rank)) = .ok s2) :
    exec (.collectiveAdmit dev) s = .next (modGcoll (engineRead s2 c.flat c.d.src (c.d.readBytes g.rank)).1 c.gid c.seq fun x =>
      { x with data := x.data ++ [(g.rank, (engineRead s2 c.flat c.d.src (c.d.readBytes g.rank)).2)] }) := by
  have hall : ((s.dev dev).groups.all fun g => g.2.broken || (mfind (s.dev dev).horizon g.2.coord).any fun h => serialBefore (timeOfTicket c.time) h) = true :=
    List.all_eq_true.mpr fun g hg => by
      rcases hheard g hg with h | ⟨h, hh, hb⟩
      · rw [h, Bool.true_or]
      · rw [hh, Option.any_some, hb, Bool.or_true]
  have hgroup := groups_admittedTo s dev c
  unfold admittedTo at hgroup hchk
  rw [hg] at hcut
  change execCollectiveAdmit dev s = _
  unfold execCollectiveAdmit
  rw [hlow]
  simp only [hpast, hall, hroom, hcut, hgroup, hg, hchk, Bool.not_true, Bool.or_self, Bool.false_eq_true, if_false]
end

/-- Settles O48: one lemma per event and branch. -/
theorem collectiveEvents : Obligations.CollectiveEvents := by
  unfold Obligations.CollectiveEvents
  refine ⟨fun g c members coord plane s hg hnew hlive hcoord hne hlen hnd hmem => ?_, fun g c members coord plane s => exec_groupCreate_rejected,
    fun g s x => exec_groupDestroy_known, fun gid seq s c g hc hg => ⟨fun hst hp => ⟨exec_ticketIssue_mismatch hc hg hst hp, exec_ticketIssue_ticket hc hg hst hp⟩,
      fun dev x as => exec_collectiveWithdraw_gathering hc hg⟩,
    fun dev gid seq s s1 c hc => ⟨fun t hn hf => ⟨fun u => exec_ticketArrival_breach hn hf, exec_ticketArrival_inOrder hn hf⟩, fun reason cause => exec_cancelNotice_posted hc,
      fun reason cause fr addr => exec_abandonNotice_ticketed hc, exec_mismatchNotice_posted hc, fun he hst hage => ?_,
      fun gc g rank bs s2 he hgc hg hr hst hf hb hop hdata hbs hne hpath hcut hchk => ?_⟩,
    fun dev coord s => exec_horizonBeacon_clear, fun dev s c g hlow hpast hheard hroom hcut hg => ⟨fun h0 => ?_, fun s2 hn hchk => ?_⟩⟩
  case refine_1 =>
    refine ⟨_, exec_groupCreate_ok hg hnew hlive hcoord hne hlen hnd hmem, foldl_leaves (π := fun t => t.groupStatus) (f := joinGroup _ _ _ _ _) (fun t m => rfl) _ _,
      foldl_leaves (π := fun t => t.groups) (f := joinGroup _ _ _ _ _) (fun t m => rfl) _ _, fun r d hr => groups_foldl_joinGroup ?_ ?_ _⟩
    · rw [List.map_fst_zip (by simp)]
      exact hnd
    · obtain ⟨hlt, rfl⟩ := List.getElem?_eq_some_iff.mp hr
      exact List.mem_iff_getElem.mpr ⟨r, by simpa using hlt, by simp⟩
  case refine_2 =>
    subst he
    exact exec_ticketAgeBreach_old hc hst hage
  case refine_3 =>
    subst he hbs
    exact exec_collectiveFinish_ready hc hgc hg hr hst hf hb hop hdata hne hpath hcut hchk
  case refine_4 =>
    rw [exec_collectiveAdmit_reads hlow hpast hheard hroom hcut hg (if_pos h0), h0]
    rfl
  case refine_5 => exact exec_collectiveAdmit_reads hlow hpast hheard hroom hcut hg ((if_neg hn).trans hchk)

end Sys2Proof.Machine
end

section
/-! PROOFS. What passes between a sender and Tabla (O43). -/

namespace Sys2Proof.Machine
open Sys2Proof

theorem State.modDie_congr {s : State} {k : Nat} {f g : Die → Die} (h : f (s.die k) = g (s.die k)) : s.modDie k f = s.modDie k g := by
  simp only [State.modDie, h]

/-! ## The part that an event of a transfer acts on (R391) -/

theorem onSender_placed {f : Nat → Nat → State → State} {k id : Nat} {s : State} (hk : idxOf k ≠ 3) : onSender f k id s = f k id s := if_pos hk

/-- What an event leaves of a part kept away, on which it acted in partition D's place. -/
def awayPut (s s1 : State) (k j : Nat) : State :=
  { s1.setPart k (s.part k) with
    away := s1.away.mapIdx fun m b =>
      if m = j then (b.1, { b.2 with xfers := (s1.part k).xfers, rpRecs := (s1.part k).rpRecs, damask := (s1.part k).damask, perf := (s1.part k).perf }) else b }

theorem onSender_away {f : Nat → Nat → State → State} {flat j n : Nat} {s : State} {p : Part} (hj : s.away[j]? = some (flat, p)) (hst : p.st ≠ .created) (hn : n < 2 ^ 48) :
    onSender f (flat * 4 + 3) (j * 2 ^ 48 + n) s = awayPut s (f (flat * 4 + 3) n (s.setPart (flat * 4 + 3) p)) (flat * 4 + 3) j := by
  have hidx : ¬ idxOf (flat * 4 + 3) ≠ 3 := by unfold idxOf; omega
  have hflat : flatOf (flat * 4 + 3) = flat := by unfold flatOf; omega
  have hdiv : (j * 2 ^ 48 + n) / 2 ^ 48 = j := by omega
  have hmod : (j * 2 ^ 48 + n) % 2 ^ 48 = n := by omega
  unfold onSender
  rw [if_neg hidx]
  simp only [hdiv, hmod, hj, hflat, hst, ne_eq, not_false_eq_true, decide_true, Bool.and_self, if_true]
  rfl

/-! ## The sender (R385, R387 to R391) -/

section
variable {k id : Nat} {s : State} {x : Xfer} (hx : xferOf s k id = some x)
include hx

section
variable (hst : x.st = .requested) (hnew : x.announced = false)
include hst hnew

theorem announceXfer_live (hfate : fateOf s x.dest (s.part k).ctx = .live) (hroom : tablaFull s x = false) :
    announceXfer k id s = modXfer (enterTabla s k x false) k id fun x => { x with announced := true } := by
  simp only [announceXfer, hx, hst, hnew, hfate, hroom, ne_eq, not_true_eq_false, decide_false, Bool.or_self, Bool.false_eq_true, if_false]

theorem announceXfer_exited (hfate : fateOf s x.dest (s.part k).ctx = .exited) : announceXfer k id s = failXfer s k x 0x13 0x41 0 0 := by
  simp only [announceXfer, hx, hst, hnew, hfate, ne_eq, not_true_eq_false, decide_false, Bool.or_self, Bool.false_eq_true, if_false]
end

theorem sendXfer_due (hdue : x.due ≠ 0) (hb : x.broken = none) (ht : tentOf s k x ≠ none) : sendXfer k id s =
    if (xferMove { s with free := s.free + 1 } k x (1 + Config.nextGranule s.free % 8192)).2.1 ≤ x.ack then s
    else arrived (xferMove { s with free := s.free + 1 } k x (1 + Config.nextGranule s.free % 8192)).1 k x
      (xferMove { s with free := s.free + 1 } k x (1 + Config.nextGranule s.free % 8192)).2.1 := by
  have hent : (tentOf s k x).isNone = false := Option.isNone_eq_false_iff.mpr (Option.isSome_iff_ne_none.mpr ht)
  simp only [sendXfer, hx, hdue, hb, hent, decide_false, Option.isSome_none, Bool.or_self, Bool.false_eq_true, if_false]

/-! ### A token arrives (R391) -/

/-- A sender that a token finds waiting for one. -/
def Takes (s : State) (k : Nat) (x : Xfer) : Prop := (x.st = .prefixed ∨ x.st = .expired ∨ x.st = .orphaned) ∧ tentOf s k x ≠ none

/-- A token begins to be used. -/
def Xfer.grantedBy (x : Xfer) (i upto : Nat) (ns : List XNote) : Xfer := { x with st := .granted, tokId := i, tok := upto - x.ack, notes := ns }

/-- The sender has taken the token that its oldest notice names. -/
def tokenTaken (s : State) (k id : Nat) (x : Xfer) (i upto : Nat) (ns : List XNote) : State :=
  modXfer (modXfer s k id fun x => { x with notes := ns }) k id fun _ => x.grantedBy i upto ns

/-- The granules of a token that are written as it arrives. -/
def tokenMove (s : State) (k id : Nat) (x : Xfer) (i upto : Nat) (ns : List XNote) : State × Nat × Option (EFault × Nat) :=
  xferMove { tokenTaken s k id x i upto ns with free := s.free + 1 } k (x.grantedBy i upto ns) (if x.broken.isSome then 0 else Config.nextGranule s.free % 8192)

section
variable {i upto : Nat} {ns : List XNote} (hn : x.notes = .token i upto :: ns)
include hn

theorem takeToken_idle (h : ¬ Takes s k x) : takeToken k id s = modXfer s k id fun x => { x with notes := ns } := by
  simp only [takeToken, hx, hn]
  refine if_pos ?_
  unfold Takes at h
  by_contra hc
  simp only [Bool.or_eq_true, Bool.not_eq_true', Bool.or_eq_false_iff, decide_eq_false_iff_not, Option.isNone_iff_eq_none, not_or] at hc
  obtain ⟨hst, hent⟩ := hc
  exact h ⟨by tauto, hent⟩

theorem takeToken_takes (h : Takes s k x) : takeToken k id s =
    if !sends s k || decide (upto ≤ x.ack) then
      modXfer (modTent (modXfer s k id fun x => { x with notes := ns }) k x fun t => t.back i s.ftime) k id fun x => { x with owes := x.owes || !sends s k }
    else if (tokenMove s k id x i upto ns).2.1 ≤ x.ack then tokenTaken s k id x i upto ns
    else arrived (tokenMove s k id x i upto ns).1 k (x.grantedBy i upto ns) (tokenMove s k id x i upto ns).2.1 := by
  obtain ⟨hst, hent⟩ := h
  simp only [takeToken, hx, hn]
  refine if_neg ?_
  rcases hst with h | h | h <;> simp [h, hent]
end

/-! ### Notices (R387, R388) -/

theorem expireXfer_held {i : Nat} {ns : List XNote} (hn : x.notes = .expiry i :: ns) (hst : x.st = .granted ∨ x.st = .sending) (hi : x.tokId = i) :
    expireXfer k id s = askOrOwe (modXfer s k id fun x => { x with notes := ns, st := .expired, tok := 0 }) k id := by
  simp only [expireXfer, hx, hn]
  exact if_pos (by rcases hst with h | h <;> simp [h, hi])

theorem expireXfer_other {i : Nat} {ns : List XNote} (hn : x.notes = .expiry i :: ns) (hi : x.tokId ≠ i) : expireXfer k id s = modXfer s k id fun x => { x with notes := ns } := by
  simp only [expireXfer, hx, hn, hi, decide_false, Bool.and_false, Bool.false_eq_true, if_false]

theorem reclaimXfer_waiting {ns : List XNote} (hn : x.notes = .reclaimed :: ns) (hst : x.st = .prefixed ∨ x.st = .expired) : reclaimXfer k id s =
    askOrOwe (modXfer (modXfer s k id fun x => { x with notes := ns }) k id fun x => { x with st := .orphaned, owes := true }) k id := by
  simp only [reclaimXfer, hx, hn]
  exact if_pos (by rcases hst with h | h <;> simp [h])

theorem exec_keepalive_entered (hlive : x.final = false) (hann : x.announced = true) (hst : (s.part k).st = .resident ∨ (s.part k).st = .preempted ∨ (s.part k).st = .halted)
    (ht : tentOf s k x ≠ none) : exec (.keepalive k id) s = .next (modTent s k x fun t => { t with heard := s.ftime }) := by
  have hrun : (decide ((s.part k).st = .resident) || decide ((s.part k).st = .preempted) || decide ((s.part k).st = .halted)) = true := by
    rcases hst with h | h | h <;> simp [h]
  obtain ⟨t, ht⟩ := Option.ne_none_iff_exists'.mp ht
  change execKeepalive k id s = _
  simp only [execKeepalive, hx, hlive, hann, hrun, ht, Bool.not_true, Bool.or_self, Bool.false_eq_true, if_false]

/-! ### The end (R389, R390) -/

/-- A transfer is complete. -/
def xferCompleted (s : State) (k id : Nat) (x : Xfer) : State := pulse (modXfer (dropTent s k x) k id fun x => { x with st := .complete, notes := [], owes := false }) k 21

theorem completeXfer_whole {t : TEnt} (ht : tentOf s k x = some t) (hp : t.prefixed = true) (hack : t.ack = x.len)
    (hst : x.st = .prefixed ∨ x.st = .expired ∨ x.st = .orphaned) : completeXfer k id s = match x.sig with
      | some name => (evsig (releaseAt (xferCompleted s k id x) x.dest 4) (clOf x.dest) (s.part k).ctx name 4).getD (xferCompleted s k id x)
      | none => xferCompleted s k id x := by
  simp only [completeXfer, hx, ht]
  exact if_pos (by rcases hst with h | h | h <;> simp [h, hp, hack])

section
variable (hlive : x.final = false)
include hlive

theorem stopXfer_gone (hg : .gone ∈ x.notes) : stopXfer k id s = failXfer s k x 0x13 0x41 0 0 := by
  simp only [stopXfer, hx, hlive, List.contains_iff_mem.mpr hg, Bool.false_eq_true, if_false, if_true]

variable (hg : .gone ∉ x.notes)
include hg

theorem stopXfer_staying : stopXfer k id s = match xferStop s k x with
    | some (e, acc) => failXfer (e.note s (if acc = 0 then flatOf k else x.dest)) k x e.code e.reason acc e.addr
    | none => s := by
  have hc : x.notes.contains .gone = false := Bool.eq_false_iff.mpr (mt List.contains_iff_mem.mp hg)
  unfold stopXfer
  rw [hx]
  exact (if_neg (Bool.eq_false_iff.mp hlive)).trans (if_neg (Bool.eq_false_iff.mp hc))

theorem stopXfer_broken {acc : Nat} (hb : x.broken = some acc) :
    stopXfer k id s = failXfer s k x 0x10 0x20 acc ((if acc = 0 then x.src else x.dst) + BitVec.ofNat 64 x.ack) := by
  rw [stopXfer_staying hx hlive hg, xferStop, hb]
  rfl

theorem stopXfer_condition {e : EFault} {acc : Nat} (hb : x.broken = none) (he : (xferMove s k x 1).2.2 = some (e, acc)) :
    stopXfer k id s = failXfer (e.note s (if acc = 0 then flatOf k else x.dest)) k x e.code e.reason acc e.addr := by
  rw [stopXfer_staying hx hlive hg, xferStop, hb, he]

theorem stopXfer_none (hb : x.broken = none) (he : (xferMove s k x 1).2.2 = none) : stopXfer k id s = s := by
  rw [stopXfer_staying hx hlive hg, xferStop, hb, he]
end
end

/-! ## Tabla with one request (R386 to R388) -/

section
variable {dk : Nat} {s : State} {t : TEnt} (ht : (s.die dk).tabla = [t])
include ht

/-- The one request of a Tabla becomes another. -/
theorem tabla_map_only (v : TEnt) : (s.modDie dk fun d => { d with tabla := d.tabla.map fun u => if u = t then v else u }) = s.modDie dk fun d => { d with tabla := [v] } :=
  State.modDie_congr (by simp only [ht, List.map_cons, List.map_nil, if_true])

section
variable (he : t.eligible s = true)
include he

theorem exec_tokenGrant_only : exec (.tokenGrant dk) s = .next (
    if (s.placed t.src t.ctx).isNone then s.modDie dk fun d => { d with tabla := [{ t with issued := t.issued + 1, since := s.ftime }] }
    else notify (s.modDie dk fun d => { d with tabla := [{ t with token := some (t.issued + 1, s.ftime, false), issued := t.issued + 1 }] }) t
      (.token (t.issued + 1) (t.ack + min 65536 (t.len - t.ack)))) := by
  have hfree : t.token.isSome = false := by
    unfold TEnt.eligible at he
    simp only [Bool.and_eq_true, Option.isNone_iff_eq_none] at he
    obtain ⟨⟨⟨-, htok⟩, -⟩, -⟩ := he
    rw [htok]
    rfl
  have hcount : ¬ 8 ≤ ([t].filter fun t => t.token.isSome).length := by simp [hfree]
  rw [← tabla_map_only ht, ← tabla_map_only ht]
  change execTokenGrant dk s = _
  unfold execTokenGrant
  simp only [ht, List.foldl_cons, List.foldl_nil, he, if_true]
  exact congrArg Host.Outcome.next (if_neg hcount)

theorem exec_tokenGrant_placed (hp : s.placed t.src t.ctx ≠ none) : exec (.tokenGrant dk) s = .next (notify
    (s.modDie dk fun d => { d with tabla := [{ t with token := some (t.issued + 1, s.ftime, false), issued := t.issued + 1 }] }) t
      (.token (t.issued + 1) (t.ack + min 65536 (t.len - t.ack)))) :=
  (exec_tokenGrant_only ht he).trans (congrArg Host.Outcome.next (if_neg (by simpa [Option.isNone_iff_eq_none] using hp)))

theorem exec_tokenGrant_away (hp : s.placed t.src t.ctx = none) :
    exec (.tokenGrant dk) s = .next (s.modDie dk fun d => { d with tabla := [{ t with issued := t.issued + 1, since := s.ftime }] }) :=
  (exec_tokenGrant_only ht he).trans (congrArg Host.Outcome.next (if_pos (by rw [hp]; rfl)))
end

section
variable {i at_ : Nat} (htok : t.token = some (i, at_, false))
include htok

theorem exec_tokenExpiry_only : exec (.tokenExpiry dk 0) s = .next (
    if 50000 ≤ since s at_ then notify (s.modDie dk fun d => { d with tabla := [{ t with token := none, since := s.ftime }] }) t (.expiry i) else s) := by
  have hput : (s.modDie dk fun d => { d with tabla := d.tabla.set 0 { t with token := none, since := s.ftime } }) =
      s.modDie dk fun d => { d with tabla := [{ t with token := none, since := s.ftime }] } := State.modDie_congr (by simp only [ht, List.set_cons_zero])
  rw [← hput]
  change execTokenExpiry dk 0 s = _
  unfold execTokenExpiry
  simp only [ht, List.getElem?_cons_zero, htok]
end

theorem exec_reclaim_only : exec (.reclaim dk 0) s = .next (
    if 1000000 ≤ since s t.heard && t.prefixed && t.token.isNone then s.modDie dk fun d => { d with tabla := [] } else s) := by
  have hdrop : (s.modDie dk fun d => { d with tabla := d.tabla.eraseIdx 0 }) = s.modDie dk fun d => { d with tabla := [] } :=
    State.modDie_congr (by simp only [ht, List.eraseIdx_cons_zero])
  rw [← hdrop]
  change execReclaim dk 0 s = _
  unfold execReclaim
  simp only [ht, List.getElem?_cons_zero]
end

/-- Settles O43: one lemma per event of the sender and of Tabla; the events of a part that is SPILLED act as those of a part that is placed. -/
theorem transferEvents : Obligations.TransferEvents := by
  unfold Obligations.TransferEvents
  refine ⟨fun k id s x hk hx => ?_, fun flat j n s p e f hef hj hst hn => ?_, fun dk s t ht => ?_⟩
  case refine_1 =>
    have placed : ∀ {f : Nat → Nat → State → State} {u : State}, f k id s = u → (.next (onSender f k id s) : Host.Outcome State Fault Refusal) = .next u :=
      fun h => congrArg Host.Outcome.next ((onSender_placed hk).trans h)
    refine ⟨fun hst hnew => ⟨fun hf hr => ?_, fun hf => ?_⟩, fun hd hb ht => ?_, fun i upto ns hn => ⟨fun h => ?_, fun h hor => ?_, fun h hs hlt => ?_⟩,
      fun i ns hn => ⟨fun hst hi => ?_, fun hi => ?_⟩, fun ns hn hst => ?_, exec_keepalive_entered hx, fun t ht hp hack hst => ?_,
      fun hl => ⟨fun hg => ?_, fun acc hg hb => ?_, fun e acc hg hb he => ?_, fun hg hb he => ?_⟩⟩
    · exact placed (announceXfer_live hx hst hnew hf hr)
    · exact placed (announceXfer_exited hx hst hnew hf)
    · exact placed (sendXfer_due hx hd hb ht)
    · exact placed (takeToken_idle hx hn h)
    · exact placed ((takeToken_takes hx hn h).trans (if_pos (by rcases hor with h | h <;> simp [h])))
    · exact placed ((takeToken_takes hx hn h).trans (if_neg (by simp [hs, hlt])))
    · exact placed (expireXfer_held hx hn hst hi)
    · exact placed (expireXfer_other hx hn hi)
    · exact placed (reclaimXfer_waiting hx hn hst)
    · exact placed (completeXfer_whole hx ht hp hack hst)
    · exact placed (stopXfer_gone hx hl hg)
    · exact placed (stopXfer_broken hx hl hg hb)
    · exact placed (stopXfer_condition hx hl hg hb he)
    · exact placed (stopXfer_none hx hl hg hb he)
  case refine_2 =>
    have hexec : ∀ m, exec (e (flat * 4 + 3) m) s = .next (onSender f (flat * 4 + 3) m s) := by
      simp only [List.mem_cons, Prod.mk.injEq, List.not_mem_nil, or_false] at hef
      intro m
      rcases hef with ⟨rfl, rfl⟩ | ⟨rfl, rfl⟩ | ⟨rfl, rfl⟩ | ⟨rfl, rfl⟩ | ⟨rfl, rfl⟩ | ⟨rfl, rfl⟩ | ⟨rfl, rfl⟩ <;> rfl
    exact (hexec _).trans (congrArg Host.Outcome.next (onSender_away hj hst hn))
  case refine_3 =>
    refine ⟨fun he => ⟨exec_tokenGrant_placed ht he, exec_tokenGrant_away ht he⟩, fun j hj => ?_, fun n => rfl, fun i at_ htok => ⟨fun hlate => ?_, fun hearly => ?_⟩,
      fun htok hp hlate => ?_, fun h => ?_⟩
    · simp only [TEnt.prio, hj]
    · exact (exec_tokenExpiry_only ht htok).trans (congrArg Host.Outcome.next (if_pos hlate))
    · exact (exec_tokenExpiry_only ht htok).trans (congrArg Host.Outcome.next (if_neg (Nat.not_le.mpr hearly)))
    · exact (exec_reclaim_only ht).trans (congrArg Host.Outcome.next (if_pos (by simp [hlate, hp, htok])))
    · refine (exec_reclaim_only ht).trans (congrArg Host.Outcome.next (if_neg fun hc => ?_))
      simp only [Bool.and_eq_true, decide_eq_true_eq, Option.isNone_iff_eq_none] at hc
      obtain ⟨⟨hlate, hp⟩, htok⟩ := hc
      rcases h with h | h | h
      · omega
      · simp [hp] at h
      · exact h htok

end Sys2Proof.Machine
end

section
/-! PROOFS. Block scales, quantisation, outlier channels and sparse metadata (O29). -/

namespace Sys2Proof.Machine
open Sys2Proof

section
variable (h : Hd) (o : OpC) {s s1 : State}

theorem exec_bscaleBlk : exec (.bscaleBlk h o) s = execBscaleBlk h o s := rfl
theorem exec_bscaleAmax : exec (.bscaleAmax h o) s = execBscaleAmax h o s := rfl
theorem exec_bscaleBand : exec (.bscaleBand h o) s = execBscaleBand h o s := rfl
theorem exec_qnt : exec (.qnt h o) s = execQnt h o s := rfl
theorem exec_dqnt : exec (.dqnt h o) s = execDqnt h o s := rfl
theorem exec_qsplit : exec (.qsplit h o) s = execQsplit h o s := rfl
theorem exec_spcomp : exec (.spcomp h o) s = execSpcomp h o s := rfl
theorem exec_spchk : exec (.spchk h o) s = execSpchk h o s := rfl
end

/-- A scalar result and its flags are one change of the acting part. -/
theorem putM_orFlags_done {d : Dst} {v : W64} {fl : Nat} {s : State} :
    (do putM d v
        setMine fun p => p.orFlags fl
        pure .done : M Flow) s = .ok (.done, s.modPart s.cur fun q => (q.put d v).orFlags fl) := by
  simp only [putM_bind, setMine_bind, State.modPart_cur, State.modPart_modPart, pureM_run]

/-! ## QSPLIT (R341, R345) -/

section
variable (h : Hd) (o : OpC) {s s1 : State}

abbrev qsplitIss : Iss := { h, reads := rds [o.s1, o.s2, o.s3], writes := wr o.d none, store := true }

/-- The outliers of a vector, or the elements that stay, by a mask. -/
abbrev outliers (p : Part) : VReg := updElems 0 32 fun L => some (if (p.src 0 o.s2).getLsbD L then elemOf (p.vreg o.s1) 32 L else 0)
abbrev inliers (p : Part) : VReg := updElems 0 32 fun L => some (if (p.src 0 o.s2).getLsbD L then 0 else elemOf (p.vreg o.s1) 32 L)
abbrev outlierBytes (p : Part) : List (W64 × Byte) := (bytesAt (p.src 0 o.s3) 256).zip (bytesOf 256 (outliers o p).toNat)

/-- The end of QSPLIT: its record enters the store buffer, then its destination is written. -/
def splitEnd (addr : W64) (bs : List (W64 × Byte)) (d : Dst) (v : VReg) : M Flow := do
  if !(← writeM addr bs) then return .wait
  putV d v
  pure .done

theorem exec_qsplit_misaligned (hi : issues s (qsplitIss h o) = true) (ha : ((s.part s.cur).src 0 o.s3).toNat % 256 ≠ 0) :
    exec (.qsplit h o) s = .next (takeTrap s s.cur ⟨0x04, 0, (s.part s.cur).src 0 o.s3, none⟩) := by
  refine (exec_qsplit h o).trans (issue_traps rfl hi ?_)
  simp only [myPart_bind, if_pos ha]
  rfl

section
variable {pos : Nat} {off : Nat} (ha : ((s.part s.cur).src 0 o.s3).toNat % 256 = 0) (hr : regionOf ((s.part s.cur).src 0 o.s3) = .spad false pos off)
  (ht : taskOn s s.cur = none) (hc : checkAccess s (whoOf s s.cur) .write [((s.part s.cur).src 0 o.s3, 256)] = .ok s1)
  (hl : onLost s1 (flatOf s.cur) [((s.part s.cur).src 0 o.s3, 256)] = false)
include ha hr ht hc hl

/-- Past its checks QSPLIT is its end. -/
theorem exec_qsplit_checked {r : Host.Outcome State Fault Refusal}
    (hend : ∀ body : W64 → M Flow, body (lanesFor s (qsplitIss h o)) s = splitEnd ((s.part s.cur).src 0 o.s3) (outlierBytes o (s.part s.cur)) o.d (inliers o (s.part s.cur)) s1 →
      issue (qsplitIss h o) body s = r) : exec (.qsplit h o) s = r := by
  refine (exec_qsplit h o).trans (hend _ ?_)
  simp only [myPart_bind, ha, hr, ne_eq, not_true_eq_false, if_false]
  exact checkM_ok ht hc hl _

theorem exec_qsplit_lost (hi : issues s (qsplitIss h o) = true) {l : W64} (hf : fillLost s1 s.cur (outlierBytes o (s.part s.cur)) = some l) :
    exec (.qsplit h o) s = .next (lostTrap s s.cur 1 ((s.part s.cur).src 0 o.s3) l) := by
  have hcur := (memFrame_checkAccess hc).cur
  refine exec_qsplit_checked h o ha hr ht hc hl fun body hb => issue_lost hi (hb.trans ?_)
  have hs : writeM ((s.part s.cur).src 0 o.s3) (outlierBytes o (s.part s.cur)) s1 = .error (.lost 1 ((s.part s.cur).src 0 o.s3) l) := by
    simp only [writeM, storeM, me_bind, getState_bind, hcur, hf]
    rfl
  show (writeM _ _ s1 >>= fun r => _) = _
  rw [hs]
  rfl

theorem exec_qsplit_full (hi : issues s (qsplitIss h o) = true) (hf : fillLost s1 s.cur (outlierBytes o (s.part s.cur)) = none)
    (hfull : 32 ≤ (s1.core (flatOf s.cur)).sbuf.length) : exec (.qsplit h o) s = .next (waitingStore (qsplitIss h o) s s.cur) := by
  have hframe := memFrame_checkAccess hc
  have ht1 : taskOn s1 s.cur = none := by rw [hframe.taskOn, ht]
  refine exec_qsplit_checked h o ha hr ht hc hl fun body hb => issue_waits (t := s1) hi (hb.trans ?_)
  exact bind_of_ok (a := false) _ (by simp only [writeM, storeM, me_bind, getState_bind, hframe.cur, hf, ht1, if_pos hfull, pureM_run])

theorem exec_qsplit_room (hi : issues s (qsplitIss h o) = true) (hf : fillLost s1 s.cur (outlierBytes o (s.part s.cur)) = none)
    (hroom : (s1.core (flatOf s.cur)).sbuf.length < 32) : exec (.qsplit h o) s = done (qsplitIss h o) s
      ((stored s1 s.cur (s.part s.cur).ctx (s.part s.cur).pc ((s.part s.cur).src 0 o.s3) (outlierBytes o (s.part s.cur)) false).modPart s.cur fun z =>
        z.putVec o.d (inliers o (s.part s.cur))) := by
  have hframe := memFrame_checkAccess hc
  have hcur := hframe.cur
  have hctx : (s1.part s.cur).ctx = (s.part s.cur).ctx := congrArg (·.ctx) (hframe.part s.cur)
  have ht1 : taskOn s1 s1.cur = none := by rw [hcur, hframe.taskOn, ht]
  refine exec_qsplit_checked h o ha hr ht hc hl fun body hb => issue_done hi (hb.trans ?_)
  unfold splitEnd
  rw [writeM_room_bind ht1 (by rw [hcur]; exact hf) (by rw [hcur]; exact hroom), hcur, hctx, hframe.pc]
  simp only [Bool.not_true, Bool.false_eq_true, if_false, putV_bind, pureM_run]
  exact congrArg (fun k => Except.ok (Flow.done, State.modPart _ k _)) hcur
end

/-! ## SPCOMP (R342, R346) -/

/-- The part that SPCOMP writes, and whether it has masks. -/
abbrev spcompIss (s : State) : Iss :=
  { h, reads := rds [o.s1], writes := wr o.d none
    bad := if o.mod.getLsbD 4 then decide (256 / (2048 / (ctyOf (o.mod.toNat % 16)).width / 8) ≤ ((s.part s.cur).src 0 o.s2).toNat)
      else decide (2 ≤ ((s.part s.cur).src 0 o.s2).toNat) }

/-- A part out of its range traps before anything else of the instruction. -/
theorem exec_spcomp_value (hbad : (spcompIss h o s).bad = true) (heff : (spcompIss h o s).effective (s.part s.cur) = true)
    (hearly : (s.part s.cur).stallchk = true → ∀ r ∈ (spcompIss h o s).allReads, (tracked (s.part s.cur) r && sbEarly (s.part s.cur).sb r) = false) :
    exec (.spcomp h o) s = .next (takeTrap s s.cur (valueTrap (s.part s.cur))) := by
  have hfind : ∀ rs : List Reg, (∀ r ∈ rs, r ∈ (spcompIss h o s).allReads) →
      (if (s.part s.cur).stallchk then rs.find? fun r => tracked (s.part s.cur) r && sbEarly (s.part s.cur).sb r else none) = none := by
    intro rs hsub
    split
    next hchk => exact List.find?_eq_none.mpr fun r hr => by simp [hearly hchk r (hsub r hr)]
    next => rfl
  have hpred := hfind (spcompIss h o s).predReads fun r hr => List.mem_append_left _ hr
  have hreads := hfind (spcompIss h o s).reads fun r hr => List.mem_append_right _ hr
  refine (exec_spcomp h o).trans ?_
  unfold execSpcomp issue
  simp only [hpred, hreads, heff, Bool.not_true, Bool.false_eq_true, if_false]
  exact if_pos hbad
end

/-- Settles O29: each instruction by its body; QSPLIT by what its store meets. -/
theorem sparseInstructions : Obligations.SparseInstructions := by
  unfold Obligations.SparseInstructions
  intro h o s s1
  refine ⟨?_, ?_, ?_, ⟨?_, ?_⟩, fun hi => ⟨exec_qsplit_misaligned h o hi, fun pos off ha hr ht hc hl => ⟨fun l => exec_qsplit_lost h o ha hr ht hc hl hi,
    exec_qsplit_full h o ha hr ht hc hl hi, exec_qsplit_room h o ha hr ht hc hl hi⟩⟩, ⟨exec_spcomp_value h o, fun hm => ?_, fun hm => ?_⟩, ?_⟩
  · exact gives_of_body (exec_bscaleBlk h o) putV_orFlags_done
  · exact gives_of_body (exec_bscaleAmax h o) putM_orFlags_done
  · exact gives_of_body (exec_bscaleBand h o) putM_orFlags_done
  · exact gives_of_body (exec_qnt h o) putV_orFlags_done
  · exact gives_of_body (exec_dqnt h o) putV_orFlags_done
  · refine gives_of_body (exec_spcomp h o) ?_
    simp only [myPart_bind, hm, if_true]
    rfl
  · refine gives_of_body (exec_spcomp h o) ?_
    simp only [myPart_bind, hm, Bool.false_eq_true, if_false]
    rfl
  · exact gives_of_body (exec_spchk h o) rfl

end Sys2Proof.Machine
end

section
/-! PROOFS. SBIND, SBINDX, SDONE, SSKIP, SSTAT, and the stash instructions (O25). -/

namespace Sys2Proof.Machine
open Sys2Proof

/-! ## A descriptor is read (R226) -/

/-- Read the 64 bytes of a descriptor at an aligned address, and go on with them. -/
def descRead (a : W64) (rest : List Byte → M Flow) : M Flow := do
  if a.toNat % 64 ≠ 0 then trapM 0x04 a
  checkM .read [(a, 64)]
  match ← readM [(a, 64)] with
  | none => pure .wait
  | some bs => rest bs.flatten

/-- The bytes of a descriptor as LD reads them. -/
abbrev descBytes (s1 s3 : State) (w : Who) (a : W64) : List Byte := loadBytes s1 s3 w (a, 64)

section
variable {s s1 : State} {a : W64} {rest : List Byte → M Flow} {e : AErr}

theorem descRead_misaligned (ha : a.toNat % 64 ≠ 0) : descRead a rest s = .error (.trap ⟨0x04, 0, a, none⟩) := by
  simp only [descRead, if_pos ha]
  rfl

variable (ha : a.toNat % 64 = 0) (ht : taskOn s s.cur = none)
include ha ht

theorem descRead_error (hc : checkAccess s (whoOf s s.cur) .read [(a, 64)] = .error e) : descRead a rest s = .error (stopOf .read e) := by
  simp only [descRead, if_neg (not_not.mpr ha)]
  exact checkM_error ht hc _

variable (hc : checkAccess s (whoOf s s.cur) .read [(a, 64)] = .ok s1) (hl : onLost s1 (whoOf s s.cur).flat [(a, 64)] = false)
include hc hl

theorem descRead_mixed (hm : forwardOf s1 s.cur (bytesAt a 64) = .mixed) : descRead a rest s = .ok (.wait, s1) := by
  have hcur := (memFrame_checkAccess hc).cur
  simp only [descRead, if_neg (not_not.mpr ha)]
  refine (checkM_ok ht hc hl _).trans (readM_mixed ⟨(a, 64), List.mem_singleton.mpr rfl, ?_⟩ _)
  rw [hcur]
  exact hm

theorem descRead_ok (hm : forwardOf s1 s.cur (bytesAt a 64) ≠ .mixed) (hr : lostRead s1 (whoOf s s.cur) [(a, 64)] = none) :
    descRead a rest s = rest (descBytes s1 (prepLines s1 (whoOf s s.cur) (linesOf a 64).dedup) (whoOf s s.cur) a) (prepLines s1 (whoOf s s.cur) (linesOf a 64).dedup) := by
  have hframe := memFrame_checkAccess hc
  have hcur := hframe.cur
  have hwho : whoOf s1 s1.cur = whoOf s s.cur := by rw [hcur, hframe.whoOf]
  have ht1 : taskOn s1 s1.cur = none := by rw [hcur, hframe.taskOn, ht]
  have hread := readM_ok (s := s1) (rs := [(a, 64)]) ht1 (fun r h => by rw [List.mem_singleton.mp h, hcur]; exact hm) (by rw [hwho]; exact hr)
    (fun o => match o with
      | none => pure .wait
      | some bs => rest bs.flatten)
  rw [hwho] at hread
  simp only [descRead, if_neg (not_not.mpr ha)]
  refine ((checkM_ok ht hc hl _).trans hread).trans ?_
  simp only [List.flatMap_cons, List.flatMap_nil, List.append_nil, List.map_cons, List.map_nil, List.flatten_cons, List.flatten_nil]
end

/-- What an instruction that reads a descriptor does; `q` says what it does with the bytes. -/
def DescReads (ins : Instr) (i : Iss) (a : W64) (s : State) (q : State → List Byte → Prop) : Prop :=
  issues s i = true →
  (a.toNat % 64 ≠ 0 → exec ins s = .next (takeTrap s s.cur ⟨0x04, 0, a, none⟩)) ∧
  (a.toNat % 64 = 0 → taskOn s s.cur = none → match checkAccess s (whoOf s s.cur) .read [(a, 64)] with
    | .error e => exec ins s = .next (stopped s s.cur (stopOf .read e))
    | .ok s1 => onLost s1 (whoOf s s.cur).flat [(a, 64)] = false →
      (forwardOf s1 s.cur (bytesAt a 64) = .mixed → exec ins s = .next (waitingStore i s s.cur)) ∧
      (forwardOf s1 s.cur (bytesAt a 64) ≠ .mixed → lostRead s1 (whoOf s s.cur) [(a, 64)] = none →
        q (prepLines s1 (whoOf s s.cur) (linesOf a 64).dedup) (descBytes s1 (prepLines s1 (whoOf s s.cur) (linesOf a 64).dedup) (whoOf s s.cur) a)))

theorem descReads_of_descRead {ins : Instr} {i : Iss} {a : W64} {s : State} {q : State → List Byte → Prop} {body : W64 → M Flow} {rest : List Byte → M Flow}
    (he : exec ins s = issue i body s) (hb : body (lanesFor s i) s = descRead a rest s)
    (hq : ∀ u bs, issues s i = true → taskOn s s.cur = none → MemFrame s u → body (lanesFor s i) s = rest bs u → q u bs) : DescReads ins i a s q := by
  intro hi
  refine ⟨fun ha => he.trans (issue_traps rfl hi (hb.trans (descRead_misaligned ha))), fun ha ht => ?_⟩
  cases hc : checkAccess s (whoOf s s.cur) .read [(a, 64)] with
  | error e => exact he.trans (issue_stops hi (hb.trans (descRead_error ha ht hc)))
  | ok s1 =>
    exact fun hl => ⟨fun hm => he.trans (issue_waits hi (hb.trans (descRead_mixed ha ht hc hl hm))), fun hm hr =>
      hq _ _ hi ht ((memFrame_checkAccess hc).trans (memFrame_prepLines ..)) (hb.trans (descRead_ok ha ht hc hl hm hr))⟩

/-! ## SBIND and SBINDX (R226, R233) -/

section
variable (h : Hd) (o : OpE) (s : State)

abbrev bindIss : Iss := { h, reads := rds [o.s1] }

/-- SBIND with its descriptor's bytes. -/
def sbindRest (k : Nat) (p : Part) (d : List Byte) : M Flow := do
  let s ← get
  if p.streams[streamOfDst o.d].state ≠ .unbound then stop (streamTrap (56 + (streamOfDst o.d).val) 0x04)
  if o.mod.getLsbD 0 && (taskOn s k).isSome then stop (streamTrap (56 + (streamOfDst o.d).val) 0x06)
  if descBad d false then stop (streamTrap (56 + (streamOfDst o.d).val) 0x05)
  if !(← pushRelease (engineScope s (flatOf k) (streamFrom d (o.mod.getLsbD 0) p.pc).ranges)) then return .wait
  setMine fun z => { z.forget (streamOfDst o.d) with
    streams := z.streams.set (streamOfDst o.d) { streamFrom d (o.mod.getLsbD 0) p.pc with scope := engineScope s (flatOf k) (streamFrom d (o.mod.getLsbD 0) p.pc).ranges } }
  pure .done

/-- An indexed stream, as SBINDX binds it. -/
abbrev indexedFrom (p : Part) (d : List Byte) : Stream :=
  { streamFrom d false p.pc with n := p.streams[streamOfSrc o.s2].n - p.streams[streamOfSrc o.s2].pos * 64, index := some (streamOfSrc o.s2)
                                 ibase := p.streams[streamOfSrc o.s2].pos, scope := 5 }

/-- SBINDX with its descriptor's bytes. -/
def sbindxRest (p : Part) (d : List Byte) : M Flow := do
  if p.streams[streamOfDst o.d].state ≠ .unbound then stop (streamTrap (56 + (streamOfDst o.d).val) 0x04)
  if descBad d true then stop (streamTrap (56 + (streamOfDst o.d).val) 0x05)
  if p.streams[streamOfSrc o.s2].state = .unbound || p.streams[streamOfSrc o.s2].write || p.streams[streamOfSrc o.s2].elw ≠ 0 || p.streams[streamOfSrc o.s2].captured ||
      streamOfSrc o.s2 = streamOfDst o.d then stop (streamTrap (56 + (streamOfDst o.d).val) 0x05)
  if !(← pushRelease 5) then return .wait
  setMine fun z => { z.forget (streamOfDst o.d) with
    streams := (z.streams.set (streamOfSrc o.s2) { p.streams[streamOfSrc o.s2] with captured := true }).set (streamOfDst o.d) (indexedFrom o p d) }
  pure .done

theorem exec_sbind : exec (.sbind h o) s = issue (bindIss h o) (fun _ => do
    let k ← me
    let p ← myPart
    descRead (p.src (o.lit.getD 0) o.s1) (sbindRest o k p)) s := rfl

theorem exec_sbindx : exec (.sbindx h o) s = issue (bindIss h o) (fun _ => do
    let p ← myPart
    descRead (p.src (o.lit.getD 0) o.s1) (sbindxRest o p)) s := rfl
end

/-- A push waits for the partition's earlier stores. -/
theorem pushRelease_waits_bind {α : Type} {u : State} (ht : taskOn u u.cur = none) (hs : storesDone u u.cur = false) (scope : Nat) (f : Bool → M α) :
    (pushRelease scope >>= f) u = f false u :=
  bind_of_ok f (by simp only [pushRelease, me_bind, getState_bind, ht, hs, Option.isSome_none, Bool.false_eq_true, if_false, pureM_run])

section
variable {o : OpE} {s u : State} {d : List Byte}

section
variable {k : Nat} {p : Part}

theorem sbindRest_bound (hb : p.streams[streamOfDst o.d].state ≠ .unbound) : sbindRest o k p d u = .error (streamTrap (56 + (streamOfDst o.d).val) 0x04) := by
  simp only [sbindRest, getState_bind, if_pos hb]
  rfl

theorem sbindRest_malformed (hb : p.streams[streamOfDst o.d].state = .unbound) (ht : taskOn u k = none) (hd : descBad d false = true) :
    sbindRest o k p d u = .error (streamTrap (56 + (streamOfDst o.d).val) 0x05) := by
  simp only [sbindRest, getState_bind, if_neg (not_not.mpr hb), ht, hd, Option.isSome_none, Bool.and_false, Bool.false_eq_true, if_false, if_true]
  rfl

theorem sbindxRest_bound (hb : p.streams[streamOfDst o.d].state ≠ .unbound) : sbindxRest o p d u = .error (streamTrap (56 + (streamOfDst o.d).val) 0x04) := by
  simp only [sbindxRest, if_pos hb]
  rfl

/-- An index stream that can serve. -/
def Serves (o : OpE) (p : Part) : Prop :=
  p.streams[streamOfSrc o.s2].state ≠ .unbound ∧ p.streams[streamOfSrc o.s2].write = false ∧ p.streams[streamOfSrc o.s2].elw = 0 ∧
    p.streams[streamOfSrc o.s2].captured = false ∧ streamOfSrc o.s2 ≠ streamOfDst o.d

theorem serves_iff : Serves o p ↔ (p.streams[streamOfSrc o.s2].state = .unbound || p.streams[streamOfSrc o.s2].write || p.streams[streamOfSrc o.s2].elw ≠ 0 ||
    p.streams[streamOfSrc o.s2].captured || streamOfSrc o.s2 = streamOfDst o.d : Bool) = false := by
  simp only [Serves, Bool.or_eq_false_iff, decide_eq_false_iff_not, ne_eq, not_not, and_assoc]

theorem sbindxRest_malformed (hb : p.streams[streamOfDst o.d].state = .unbound) (hd : descBad d true = true ∨ ¬ Serves o p) :
    sbindxRest o p d u = .error (streamTrap (56 + (streamOfDst o.d).val) 0x05) := by
  unfold sbindxRest
  simp only [if_neg (not_not.mpr hb)]
  cases hbad : descBad d true with
  | true => rfl
  | false =>
    have hs := mt serves_iff.mpr (hd.resolve_left (by simp [hbad]))
    simp only [Bool.false_eq_true, if_false, if_pos (Bool.of_not_eq_false hs)]
    rfl
end

/-! ### Past the checks -/

variable (hframe : MemFrame s u) (ht : taskOn s s.cur = none) (hb : (s.part s.cur).streams[streamOfDst o.d].state = .unbound)
include hframe ht hb

section
variable (hd : descBad d false = false)
include hd

theorem sbindRest_waits (hs : storesDone u s.cur = false) : sbindRest o s.cur (s.part s.cur) d u = .ok (.wait, u) := by
  have hcur := hframe.cur
  have htask : taskOn u s.cur = none := by rw [hframe.taskOn, ht]
  simp only [sbindRest, getState_bind, if_neg (not_not.mpr hb), htask, hd, Option.isSome_none, Bool.and_false, Bool.false_eq_true, if_false]
  rw [pushRelease_waits_bind (by rw [hcur]; exact htask) (by rw [hcur]; exact hs)]
  rfl

theorem sbindRest_done (hs : storesDone u s.cur = true) : sbindRest o s.cur (s.part s.cur) d u =
    .ok (.done, (releaseAt u (flatOf s.cur) (engineScope u (flatOf s.cur) (streamFrom d (o.mod.getLsbD 0) (s.part s.cur).pc).ranges)).modPart s.cur fun z =>
      { z.forget (streamOfDst o.d) with
        streams := z.streams.set (streamOfDst o.d) { streamFrom d (o.mod.getLsbD 0) (s.part s.cur).pc with
          scope := engineScope u (flatOf s.cur) (streamFrom d (o.mod.getLsbD 0) (s.part s.cur).pc).ranges } }) := by
  have hcur := hframe.cur
  have htask : taskOn u s.cur = none := by rw [hframe.taskOn, ht]
  simp only [sbindRest, getState_bind, if_neg (not_not.mpr hb), htask, hd, Option.isSome_none, Bool.and_false, Bool.false_eq_true, if_false]
  rw [pushRelease_bind (by rw [hcur]; exact htask) (by rw [hcur]; exact hs), hcur]
  simp only [Bool.not_true, Bool.false_eq_true, if_false, setMine_bind, pureM_run, (memFrame_releaseAt ..).cur, hcur]
end

section
variable (hd : descBad d true = false) (hserves : Serves o (s.part s.cur))
include hd hserves

theorem sbindxRest_waits (hs : storesDone u s.cur = false) : sbindxRest o (s.part s.cur) d u = .ok (.wait, u) := by
  have hcur := hframe.cur
  have htask : taskOn u s.cur = none := by rw [hframe.taskOn, ht]
  unfold sbindxRest
  simp only [if_neg (not_not.mpr hb), hd, Bool.false_eq_true, if_false, if_neg (Bool.eq_false_iff.mp (serves_iff.mp hserves))]
  rw [pushRelease_waits_bind (by rw [hcur]; exact htask) (by rw [hcur]; exact hs)]
  rfl

theorem sbindxRest_done (hs : storesDone u s.cur = true) : sbindxRest o (s.part s.cur) d u =
    .ok (.done, (releaseAt u (flatOf s.cur) 5).modPart s.cur fun z => { z.forget (streamOfDst o.d) with
      streams := ((s.part s.cur).streams.set (streamOfSrc o.s2) { (s.part s.cur).streams[streamOfSrc o.s2] with captured := true }).set (streamOfDst o.d)
        (indexedFrom o (s.part s.cur) d) }) := by
  have hcur := hframe.cur
  have htask : taskOn u s.cur = none := by rw [hframe.taskOn, ht]
  have hrel := hframe.trans (memFrame_releaseAt u (flatOf s.cur) 5)
  have hstreams : ((releaseAt u (flatOf s.cur) 5).part s.cur).streams = (s.part s.cur).streams := by
    have h := congrArg Part.streams (hrel.part s.cur)
    exact h
  unfold sbindxRest
  simp only [if_neg (not_not.mpr hb), hd, Bool.false_eq_true, if_false, if_neg (Bool.eq_false_iff.mp (serves_iff.mp hserves))]
  rw [pushRelease_bind (by rw [hcur]; exact htask) (by rw [hcur]; exact hs), hcur]
  simp only [Bool.not_true, Bool.false_eq_true, if_false, setMine_bind, pureM_run, hrel.cur]
  exact congrArg (fun v => Except.ok (Flow.done, v)) (State.modPart_congr (by simp only [hstreams]))
end
end

/-! ## SDONE, SSKIP and SSTAT (R235, R237) -/

section
variable {h : Hd} {o : OpE} {s : State}

abbrev sdoneIss (h : Hd) (o : OpE) : Iss := { h, writes := wr o.d none }
abbrev sskipIss (h : Hd) (o : OpE) : Iss := { h, reads := rds [o.s2], writes := wr o.d none }

/-- The stream that an operand names, of the acting part. -/
abbrev namedStream (o : OpE) (s : State) : Stream := (s.part s.cur).streams[streamOfSrc o.s1]

/-- The trap of an access to a captured stream. -/
abbrev capturedTrap (o : OpE) : Trap := ⟨0x05, 0, BitVec.ofNat 64 (0x03 * 256 + (56 + (streamOfSrc o.s1).val)), none⟩

theorem exec_sdone (h : Hd) (o : OpE) (s : State) : exec (.sdone h o) s = execSdone h o s := rfl
theorem exec_sskip (h : Hd) (o : OpE) (s : State) : exec (.sskip h o) s = execSskip h o s := rfl
theorem exec_sstat (h : Hd) (o : OpE) (s : State) : exec (.sstat h o) s = execSstat h o s := rfl

theorem gives_sdone_unbound (hst : (namedStream o s).state = .unbound) : Gives (.sdone h o) (sdoneIss h o) s (·.put o.d 0) :=
  gives_of_body (exec_sdone h o s) (by simp only [myPart_bind, if_pos hst, putM_bind, pureM_run])

theorem gives_sskip_unbound (hst : (namedStream o s).state = .unbound) : Gives (.sskip h o) (sskipIss h o) s (·.put o.d 0) :=
  gives_of_body (exec_sskip h o s) (by simp only [myPart_bind, if_pos hst, putM_bind, pureM_run])

theorem exec_sstat_captured (hcap : (namedStream o s).captured = true) (hi : issues s (sdoneIss h o) = true) : exec (.sstat h o) s = .next (takeTrap s s.cur (capturedTrap o)) := by
  refine (exec_sstat h o s).trans (issue_traps rfl hi ?_)
  simp only [myPart_bind, if_pos hcap]
  rfl

theorem gives_sstat (hcap : (namedStream o s).captured = false) : Gives (.sstat h o) (sdoneIss h o) s (·.put o.d (namedStream o s).stat) :=
  gives_of_body (exec_sstat h o s) (by simp only [myPart_bind, hcap, Bool.false_eq_true, if_false, putM_bind, pureM_run])

variable (hst : (namedStream o s).state ≠ .unbound)
include hst

theorem exec_sdone_captured (hcap : (namedStream o s).captured = true) (hi : issues s (sdoneIss h o) = true) : exec (.sdone h o) s = .next (takeTrap s s.cur (capturedTrap o)) := by
  refine (exec_sdone h o s).trans (issue_traps rfl hi ?_)
  simp only [myPart_bind, if_neg hst, if_pos hcap]
  rfl

theorem exec_sskip_captured (hcap : (namedStream o s).captured = true) (hi : issues s (sskipIss h o) = true) : exec (.sskip h o) s = .next (takeTrap s s.cur (capturedTrap o)) := by
  refine (exec_sskip h o s).trans (issue_traps rfl hi ?_)
  simp only [myPart_bind, if_neg hst, if_pos hcap]
  rfl

variable (hcap : (namedStream o s).captured = false)
include hcap

theorem exec_sdone_waits (hu : (namedStream o s).undrained = true) (hi : issues s (sdoneIss h o) = true) :
    exec (.sdone h o) s = .next (waitingStore (sdoneIss h o) s s.cur) := by
  refine (exec_sdone h o s).trans (issue_waits (t := s) hi ?_)
  simp only [myPart_bind, if_neg hst, hcap, hu, Bool.false_eq_true, if_false, if_true, pureM_run]

theorem gives_sdone_read (hw : (namedStream o s).write = false) :
    Gives (.sdone h o) (sdoneIss h o) s fun z => (z.unbind (streamOfSrc o.s1)).put o.d (BitVec.ofNat 64 (namedStream o s).pos) := by
  have hu : (namedStream o s).undrained = false := by rw [Stream.undrained, hw, Bool.false_and, Bool.false_and]
  exact gives_of_body (exec_sdone h o s) (by
    simp only [myPart_bind, if_neg hst, hcap, hu, hw, Bool.false_eq_true, if_false, setMine_bind, putM_bind, State.modPart_cur, State.modPart_modPart, pureM_run])

theorem leaves_sdone_write (hw : (namedStream o s).write = true) (hu : (namedStream o s).undrained = false) :
    Leaves (.sdone h o) (sdoneIss h o) s ((acquireAt (s.modPart s.cur (·.unbind (streamOfSrc o.s1))) (flatOf s.cur) (namedStream o s).scope).modPart s.cur
      (·.put o.d (BitVec.ofNat 64 (namedStream o s).pos))) := by
  intro hi
  refine (exec_sdone h o s).trans (issue_done hi ?_)
  simp only [myPart_bind, if_neg hst, hcap, hu, hw, Bool.false_eq_true, if_false, if_true, setMine_bind, acquireM_bind, State.modPart_cur, putM_bind, pureM_run,
    (memFrame_acquireAt ..).cur]

theorem gives_sskip_bound :
    Gives (.sskip h o) (sskipIss h o) s fun z =>
      (z.replace 8 (streamOfSrc o.s1) ((namedStream o s).skip (((s.part s.cur).src (o.lit.getD 0) o.s2).toNat % 2 ^ 32)).1).put o.d
        (BitVec.ofNat 64 ((namedStream o s).skip (((s.part s.cur).src (o.lit.getD 0) o.s2).toNat % 2 ^ 32)).2) :=
  gives_of_body (exec_sskip h o s) (by
    simp only [myPart_bind, if_neg hst, hcap, Bool.false_eq_true, if_false, setMine_bind, putM_bind, State.modPart_cur, State.modPart_modPart, pureM_run])
end

/-! ### A stream in its place (R238) -/

theorem replace_plain {p : Part} {r : Fin 8} {t : Stream} (h : t.index = none) : p.replace 8 r t = { p with streams := p.streams.set r t } := by
  simp only [Part.replace, h]

theorem index_reindex (u t : Stream) : (u.reindex t).index = u.index := by
  unfold Stream.reindex
  dsimp only
  split <;> rfl

theorem replace_indexed {p : Part} {r i : Fin 8} {t : Stream} (h : t.index = some i) (hi : p.streams[i].index = none) :
    p.replace 8 r t = { p with streams := (p.streams.set r { t with ixs := [] }).set i (p.streams[i].reindex t) } := by
  have hre : (p.streams[i].reindex t).index = none := (index_reindex ..).trans hi
  simp only [Part.replace, h, hre]

/-! ## STASH, UNSTASH and FLUSH (R239 to R241) -/

section
variable (h : Hd) (o : OpC) {s : State}

abbrev stashIss : Iss := { h, reads := rds [o.s1, o.s2, o.s3] }
abbrev unstashIss : Iss := { h, reads := rds [o.s1] }
abbrev flushIss : Iss := { h, reads := rds [o.s1, o.s2] }

theorem exec_stash : exec (.stash h o) s = execStash h o s := rfl
theorem exec_unstash : exec (.unstash h o) s = execUnstash h o s := rfl
theorem exec_flush : exec (.flush h o) s = execFlush h o s := rfl

theorem noTask_stops {α : Type} (ht : (taskOn s s.cur).isSome = true) (f : Unit → M α) : (noTask >>= f) s = .error (.trap (valueTrap (s.part s.cur))) := by
  show (noTask s >>= fun r => f r.1 r.2) = _
  rw [noTask_value ht]
  rfl

theorem memFrame_stashFlush (k : Nat) (m : Stash) (f : Nat → Bool) : MemFrame s (stashFlush s k m f) := by
  refine .foldl (fun s l => ?_) m.lines s
  split
  · exact (memFrame_stashWriteBack ..).trans (memFrame_stashMark ..)
  · exact .refl s

variable (ht : taskOn s s.cur = none)

section
include ht

theorem exec_stash_misaligned (hi : issues s (stashIss h o) = true) (hg : ((s.part s.cur).src 0 o.s1).toNat % 4096 ≠ 0) :
    exec (.stash h o) s = .next (takeTrap s s.cur ⟨0x04, 0, (s.part s.cur).src 0 o.s1, none⟩) := by
  refine (exec_stash h o).trans (issue_traps rfl hi ?_)
  rw [noTask_bind ht]
  simp only [me_bind, myPart_bind, getState_bind, if_pos hg]
  rfl

section
variable {off : Nat} (hg : ((s.part s.cur).src 0 o.s1).toNat % 4096 = 0) (ha : ((s.part s.cur).src 0 o.s2).toNat % 4096 = 0)
  (hrg : regionOf ((s.part s.cur).src 0 o.s1) = .shared)
  (hra : regionOf ((s.part s.cur).src 0 o.s2) = .spad true 0 off ∨ regionOf ((s.part s.cur).src 0 o.s2) = .spad false (posOf (flatOf s.cur)) off)
  (hlo : (sprOf s (s.part s.cur).ctx (flatOf s.cur)).1 ≤ off)
  (hhi : off + ((s.part s.cur).src 0 o.s3).toNat ≤ (sprOf s (s.part s.cur).ctx (flatOf s.cur)).1 + (sprOf s (s.part s.cur).ctx (flatOf s.cur)).2)
include hg ha hrg hra hlo hhi

theorem gives_stash (hok : stashOk (s.part s.cur) ((s.part s.cur).src 0 o.s1) off ((s.part s.cur).src 0 o.s3).toNat = true) :
    Gives (.stash h o) (stashIss h o) s fun q => { q with stash := q.stash ++ [⟨(s.part s.cur).src 0 o.s1, off, ((s.part s.cur).src 0 o.s3).toNat, []⟩] } := by
  refine gives_of_body (exec_stash h o) ?_
  have hin := not_or.mpr ⟨Nat.not_lt.mpr hlo, Nat.not_lt.mpr hhi⟩
  rw [noTask_bind ht]
  rcases hra with hra | hra
  all_goals
    simp only [me_bind, myPart_bind, getState_bind, hg, ha, hrg, hra, ne_eq, not_true_eq_false, if_false, if_true, if_neg hin, hok, Bool.not_true,
      Bool.false_eq_true, setMine_bind, pureM_run]

theorem exec_stash_value (hok : stashOk (s.part s.cur) ((s.part s.cur).src 0 o.s1) off ((s.part s.cur).src 0 o.s3).toNat = false) (hi : issues s (stashIss h o) = true) :
    exec (.stash h o) s = valueOutcome s := by
  refine (exec_stash h o).trans (issue_traps rfl hi ?_)
  have hin := not_or.mpr ⟨Nat.not_lt.mpr hlo, Nat.not_lt.mpr hhi⟩
  rw [noTask_bind ht]
  rcases hra with hra | hra
  all_goals
    simp only [me_bind, myPart_bind, getState_bind, hg, ha, hrg, hra, ne_eq, not_true_eq_false, if_false, if_true, if_neg hin, hok, Bool.not_false]
    rfl
end

theorem leaves_unstash {m : Stash} (hm : (s.part s.cur).stash.find? (fun m => m.g = (s.part s.cur).src 0 o.s1) = some m)
    (hcut : stashCut s s.cur m (fun _ => true) = false) : Leaves (.unstash h o) (unstashIss h o) s
      ((stashFlush s s.cur m fun _ => true).modPart s.cur fun q => { q with stash := q.stash.filter fun m => m.g ≠ (s.part s.cur).src 0 o.s1 }) := by
  intro hi
  refine (exec_unstash h o).trans (issue_done hi ?_)
  rw [noTask_bind ht]
  simp only [me_bind, myPart_bind, getState_bind, hm, hcut, Bool.false_eq_true, if_false, modifyState_bind, setMine_bind, pureM_run, (memFrame_stashFlush ..).cur]

theorem exec_unstash_value (hm : (s.part s.cur).stash.find? (fun m => m.g = (s.part s.cur).src 0 o.s1) = none) (hi : issues s (unstashIss h o) = true) :
    exec (.unstash h o) s = valueOutcome s := by
  refine (exec_unstash h o).trans (issue_traps rfl hi ?_)
  rw [noTask_bind ht]
  simp only [me_bind, myPart_bind, hm]
  rfl
end
end

section
variable {h : Hd} {o : OpC} {s : State}

/-- Whether a line number meets the range of a FLUSH. -/
abbrev flushMeets (g a : W64) (l : Nat) : Bool := a.toNat = 0 || (decide (g.toNat / 64 * 64 ≤ l) && decide (l < g.toNat + a.toNat))

theorem leaves_flush (ht : taskOn s s.cur = none)
    (hcut : ((s.part s.cur).stash.any fun m => stashCut s s.cur m (flushMeets ((s.part s.cur).src 0 o.s1) ((s.part s.cur).src 0 o.s2))) = false) :
    Leaves (.flush h o) (flushIss h o) s
      ((s.part s.cur).stash.foldl (fun t m => stashFlush t s.cur m (flushMeets ((s.part s.cur).src 0 o.s1) ((s.part s.cur).src 0 o.s2))) s) := by
  intro hi
  refine (exec_flush h o).trans (issue_done hi ?_)
  rw [noTask_bind ht]
  simp only [me_bind, myPart_bind, getState_bind, hcut, Bool.false_eq_true, if_false, modifyState_bind, pureM_run]

theorem exec_stashFamily_task (ht : (taskOn s s.cur).isSome = true) :
    (issues s (stashIss h o) = true → exec (.stash h o) s = valueOutcome s) ∧ (issues s (unstashIss h o) = true → exec (.unstash h o) s = valueOutcome s) ∧
      (issues s (flushIss h o) = true → exec (.flush h o) s = valueOutcome s) :=
  ⟨fun hi => (exec_stash h o).trans (issue_traps rfl hi (noTask_stops ht _)), fun hi => (exec_unstash h o).trans (issue_traps rfl hi (noTask_stops ht _)),
    fun hi => (exec_flush h o).trans (issue_traps rfl hi (noTask_stops ht _))⟩

theorem stashFlush_line (k : Nat) {m : Stash} {l : Nat} {f : Nat → Bool} (hl : m.lines = [(l, true)]) (hf : f l = true) :
    stashFlush s k m f = stashMark (stashWriteBack s k m (BitVec.ofNat 64 l)) k m.g (BitVec.ofNat 64 l) (some false) := by
  simp only [stashFlush, hl, List.foldl_cons, List.foldl_nil, hf, Bool.and_self, if_true]
end

/-! ## O25 -/

section
variable (h : Hd) (o : OpE) (s : State)

/-- What SBIND does with the bytes of its descriptor. -/
theorem descReads_sbind : DescReads (.sbind h o) (bindIss h o) ((s.part s.cur).src (o.lit.getD 0) o.s1) s fun u bs =>
    ((s.part s.cur).streams[streamOfDst o.d].state ≠ .unbound →
      exec (.sbind h o) s = .next (takeTrap s s.cur ⟨0x05, 0, BitVec.ofNat 64 (0x04 * 256 + (56 + (streamOfDst o.d).val)), none⟩)) ∧
    ((s.part s.cur).streams[streamOfDst o.d].state = .unbound → descBad bs false = true →
      exec (.sbind h o) s = .next (takeTrap s s.cur ⟨0x05, 0, BitVec.ofNat 64 (0x05 * 256 + (56 + (streamOfDst o.d).val)), none⟩)) ∧
    ((s.part s.cur).streams[streamOfDst o.d].state = .unbound → descBad bs false = false →
      (storesDone u s.cur = false → exec (.sbind h o) s = .next (waitingStore (bindIss h o) s s.cur)) ∧
      (storesDone u s.cur = true → exec (.sbind h o) s = done (bindIss h o) s
        ((releaseAt u (flatOf s.cur) (engineScope u (flatOf s.cur) (streamFrom bs (o.mod.getLsbD 0) (s.part s.cur).pc).ranges)).modPart s.cur fun z =>
          { z.forget (streamOfDst o.d) with
            streams := z.streams.set (streamOfDst o.d) { streamFrom bs (o.mod.getLsbD 0) (s.part s.cur).pc with
              scope := engineScope u (flatOf s.cur) (streamFrom bs (o.mod.getLsbD 0) (s.part s.cur).pc).ranges } }))) :=
  descReads_of_descRead (exec_sbind h o s) rfl fun u bs hi ht hframe hb => by
    refine ⟨fun hst => ?_, fun hst hd => ?_, fun hst hd => ⟨fun hs => ?_, fun hs => ?_⟩⟩
    · exact (exec_sbind h o s).trans (issue_traps rfl hi (hb.trans (sbindRest_bound hst)))
    · exact (exec_sbind h o s).trans (issue_traps rfl hi (hb.trans (sbindRest_malformed hst (by rw [hframe.taskOn, ht]) hd)))
    · exact (exec_sbind h o s).trans (issue_waits hi (hb.trans (sbindRest_waits hframe ht hst hd hs)))
    · exact (exec_sbind h o s).trans (issue_done hi (hb.trans (sbindRest_done hframe ht hst hd hs)))

/-- What SBINDX does with the bytes of its descriptor. -/
theorem descReads_sbindx : DescReads (.sbindx h o) (bindIss h o) ((s.part s.cur).src (o.lit.getD 0) o.s1) s fun u bs =>
    ((s.part s.cur).streams[streamOfDst o.d].state ≠ .unbound →
      exec (.sbindx h o) s = .next (takeTrap s s.cur ⟨0x05, 0, BitVec.ofNat 64 (0x04 * 256 + (56 + (streamOfDst o.d).val)), none⟩)) ∧
    ((s.part s.cur).streams[streamOfDst o.d].state = .unbound → descBad bs true = true ∨ ¬ Serves o (s.part s.cur) →
      exec (.sbindx h o) s = .next (takeTrap s s.cur ⟨0x05, 0, BitVec.ofNat 64 (0x05 * 256 + (56 + (streamOfDst o.d).val)), none⟩)) ∧
    ((s.part s.cur).streams[streamOfDst o.d].state = .unbound → descBad bs true = false → Serves o (s.part s.cur) →
      (storesDone u s.cur = false → exec (.sbindx h o) s = .next (waitingStore (bindIss h o) s s.cur)) ∧
      (storesDone u s.cur = true → exec (.sbindx h o) s = done (bindIss h o) s ((releaseAt u (flatOf s.cur) 5).modPart s.cur fun z =>
        { z.forget (streamOfDst o.d) with
          streams := ((s.part s.cur).streams.set (streamOfSrc o.s2) { (s.part s.cur).streams[streamOfSrc o.s2] with captured := true }).set (streamOfDst o.d)
            (indexedFrom o (s.part s.cur) bs) }))) :=
  descReads_of_descRead (exec_sbindx h o s) rfl fun u bs hi ht hframe hb => by
    refine ⟨fun hst => ?_, fun hst hd => ?_, fun hst hd hserves => ⟨fun hs => ?_, fun hs => ?_⟩⟩
    · exact (exec_sbindx h o s).trans (issue_traps rfl hi (hb.trans (sbindxRest_bound hst)))
    · exact (exec_sbindx h o s).trans (issue_traps rfl hi (hb.trans (sbindxRest_malformed hst hd)))
    · exact (exec_sbindx h o s).trans (issue_waits hi (hb.trans (sbindxRest_waits hframe ht hst hd hserves hs)))
    · exact (exec_sbindx h o s).trans (issue_done hi (hb.trans (sbindxRest_done hframe ht hst hd hserves hs)))
end

/-- Settles O25: SBIND and SBINDX by the reading of their descriptors, the others by their bodies. -/
theorem streamInstructions : Obligations.StreamInstructions := by
  unfold Obligations.StreamInstructions
  refine ⟨fun h o s => ⟨descReads_sbind h o s, descReads_sbindx h o s, gives_sdone_unbound, exec_sdone_captured, exec_sdone_waits, gives_sdone_read, leaves_sdone_write,
    ⟨gives_sskip_unbound, exec_sskip_captured, gives_sskip_bound, replace_plain, fun i => replace_indexed⟩, gives_sstat, exec_sstat_captured⟩,
    fun h o s => ⟨exec_stashFamily_task, fun ht => ⟨fun off hg ha hrg hra hlo hhi => ⟨gives_stash h o ht hg ha hrg hra hlo hhi, exec_stash_value h o ht hg ha hrg hra hlo hhi⟩,
      exec_stash_misaligned h o ht, fun m => leaves_unstash h o ht, exec_unstash_value h o ht, leaves_flush ht, fun m l f => stashFlush_line s.cur⟩⟩⟩

end Sys2Proof.Machine
end

section
/-! PROOFS. The instructions of the matrix unit (O27). -/

namespace Sys2Proof.Machine
open Sys2Proof

/-! ## What the heads of a unit's queues leave -/

/-- A part without what its claim of a matrix unit may change of it. -/
def Part.besideMatrix (p : Part) : Part := { p with damask := .reset, msaved := none, lsaved := [] }

theorem src_besideMatrix (p : Part) (lit : W32) (x : Src) : p.besideMatrix.src lit x = p.src lit x := by
  cases x <;> rfl

/-- A core without its side of the matrix unit. -/
def Core.besideMatrix (c : Core) : Core := { c with mat := .reset }

/-- A state without the objects that a matrix unit may change. -/
def State.besideMatrix (s : State) : State := { s with parts := [], cores := [], mus := [] }

/-- What acts inside a matrix unit leaves the state alone but for the unit, its cores' sides of it, and the credits, pulses and saved claims of parts. -/
structure MuFrame (s t : State) : Prop where
  part : ∀ k, (t.part k).besideMatrix = (s.part k).besideMatrix
  core : ∀ f, (t.core f).besideMatrix = (s.core f).besideMatrix
  rest : t.besideMatrix = s.besideMatrix

namespace MuFrame
variable {s t u : State}

theorem refl (s : State) : MuFrame s s := ⟨fun _ => rfl, fun _ => rfl, rfl⟩

theorem trans (h : MuFrame s t) (g : MuFrame t u) : MuFrame s u :=
  ⟨fun k => (g.part k).trans (h.part k), fun f => (g.core f).trans (h.core f), g.rest.trans h.rest⟩

theorem foldl {β : Type} {f : State → β → State} (hf : ∀ s b, MuFrame s (f s b)) (l : List β) (s : State) : MuFrame s (l.foldl f s) := by
  induction l generalizing s with
  | nil => exact refl s
  | cons b l ih => exact (hf s b).trans (ih (f s b))

theorem modPart (s : State) (k : Nat) {f : Part → Part} (hf : ∀ p, (f p).besideMatrix = p.besideMatrix) : MuFrame s (s.modPart k f) := by
  refine ⟨fun j => ?_, fun _ => rfl, rfl⟩
  by_cases hj : j = k
  · rw [hj, State.part_modPart]
    exact hf _
  · rw [State.part_modPart_ne s f hj]

theorem modMcore (s : State) (flat : Nat) (f : MCore → MCore) : MuFrame s (modMcore s flat f) := by
  refine ⟨fun _ => rfl, fun j => ?_, rfl⟩
  unfold Machine.modMcore
  by_cases hj : j = flat
  · rw [hj, State.core_modCore]
    rfl
  · rw [State.core_modCore_ne s _ hj]

theorem modMu (s : State) (m : Nat) (f : MUnit → MUnit) : MuFrame s (s.modMu m f) := ⟨fun _ => rfl, fun _ => rfl, rfl⟩

theorem modHead (s : State) (flat : Nat) (f : MOp → MOp) : MuFrame s (modHead s flat f) := modMcore s flat _

theorem pulse (s : State) (k input : Nat) : MuFrame s (pulse s k input) := by
  unfold Machine.pulse
  split
  · exact refl s
  · exact modPart s k fun _ => rfl

theorem loadEnds (s : State) (l : MLoad) : MuFrame s (loadEnds s l) := (modMu s _ _).trans (pulse _ _ _)

/-! What a frame says of the acting partition. -/

theorem cur (h : MuFrame s t) : t.cur = s.cur := congrArg (·.cur) h.rest
theorem tasks (h : MuFrame s t) : t.tasks = s.tasks := congrArg (·.tasks) h.rest
theorem taskOn (h : MuFrame s t) (k : Nat) : taskOn t k = taskOn s k := by simp only [Machine.taskOn, h.tasks]
theorem pc (h : MuFrame s t) (k : Nat) : (t.part k).pc = (s.part k).pc := congrArg (·.pc) (h.part k)
theorem sameSleep (h : MuFrame s t) : SameSleep s t := fun k => congrArg (·.sleep) (h.part k)

theorem storesDone (h : MuFrame s t) (k : Nat) : storesDone t k = storesDone s k := by
  have hsbuf : (t.core (flatOf k)).sbuf = (s.core (flatOf k)).sbuf := congrArg (·.sbuf) (h.core (flatOf k))
  have hmcast : (t.core (flatOf k)).mcast = (s.core (flatOf k)).mcast := congrArg (·.mcast) (h.core (flatOf k))
  simp only [Machine.storesDone, hsbuf, hmcast]

theorem src (h : MuFrame s t) (k : Nat) (lit : W32) (x : Src) : (t.part k).src lit x = (s.part k).src lit x :=
  (src_besideMatrix _ lit x).symm.trans ((congrArg (fun p : Part => p.src lit x) (h.part k)).trans (src_besideMatrix _ lit x))

end MuFrame

theorem muFrame_settleHead {s t : State} {u : MUnit} {m flat : Nat} {c : MCore} (h : settle1.settleHead s u m flat c = some t) : MuFrame s t := by
  unfold settle1.settleHead at h
  split at h
  case h_1 => exact absurd h (by simp)
  case h_2 o _ _ =>
    split at h
    case h_1 =>
      obtain ⟨-, ht⟩ := Option.ite_none_right_eq_some.mp h
      rw [← Option.some.inj ht]
      exact (MuFrame.modMu s m _).trans (.modMcore _ flat _)
    case h_2 =>
      obtain ⟨-, ht⟩ := Option.ite_none_left_eq_some.mp h
      rw [← Option.some.inj ht]
      exact (MuFrame.modMcore s flat _).trans (.modMcore _ flat _)
    case h_3 => exact absurd h (by simp)
    case h_4 =>
      split at h
      · obtain ⟨-, ht⟩ := Option.ite_none_right_eq_some.mp h
        rw [← Option.some.inj ht]
        refine MuFrame.trans ?_ (.modHead _ flat _)
        exact .modPart s _ fun _ => rfl
      · exact absurd h (by simp)

theorem muFrame_settle1 {s t : State} {m : Nat} (h : settle1 s m = some t) : MuFrame s t := by
  unfold settle1 at h
  obtain ⟨pos, -, hpos⟩ := List.exists_of_findSome?_eq_some h
  dsimp only at hpos
  split at hpos
  · split at hpos
    · rw [← Option.some.inj hpos]
      exact .loadEnds s _
    · exact muFrame_settleHead hpos
  · exact muFrame_settleHead hpos

theorem muFrame_settle (m n : Nat) (s : State) : MuFrame s (settle m n s) := by
  induction n generalizing s with
  | zero => exact .refl s
  | succ n ih =>
    unfold settle
    split
    · next h => exact (muFrame_settle1 h).trans (ih _)
    · refine .foldl (fun u pos => ?_) _ s
      dsimp only
      split
      · exact .refl u
      · exact .modMcore u _ _

theorem muFrame_settleMu (s : State) (m : Nat) : MuFrame s (settleMu s m) := muFrame_settle m 300 s

theorem muFrame_claimCore (s : State) (k : Nat) : MuFrame s (claimCore s k) := by
  unfold claimCore
  dsimp only
  refine MuFrame.trans ?_ (muFrame_settleMu _ _)
  refine MuFrame.trans ?_ (MuFrame.modPart _ k fun _ => rfl)
  exact (MuFrame.modMcore s _ _).trans (.modMu _ _ _)

end Sys2Proof.Machine
end

section
/-! PROOFS. The claim of a core's matrix unit, and the entry of its command queue (R313, R333, R334). -/

namespace Sys2Proof.Machine
open Sys2Proof

/-! ## The claim (R313, R333) -/

/-- The state in which an instruction of the unit acts: the core's matrix resources are claimed where they were free. -/
def claimedBy (s : State) : State := if (mcore s (flatOf s.cur)).holder = none then claimCore s s.cur else s

/-- A part that holds its core's matrix resources, or finds them free. -/
structure CanClaim (s : State) : Prop where
  inService : muWithdrawn s (flatOf s.cur) = false
  engine : idxOf s.cur ≠ 3
  noTask : taskOn s s.cur = none
  free : (mcore s (flatOf s.cur)).holder = none ∨ (mcore s (flatOf s.cur)).holder = some s.cur

theorem muFrame_claimedBy (s : State) : MuFrame s (claimedBy s) := by
  unfold claimedBy
  split
  · exact muFrame_claimCore s s.cur
  · exact .refl s

section
variable {α : Type} {s : State}

theorem claimM_bind (hc : CanClaim s) (f : Bool → M α) : (claimM >>= f) s = f true (claimedBy s) := by
  refine bind_of_ok f ?_
  simp only [claimM, me_bind, getState_bind, hc.inService, if_neg hc.engine, noTask_bind hc.noTask, Bool.false_eq_true, if_false, claimedBy]
  rcases hc.free with h | h
  · simp only [h, modifyState_bind, if_true, pureM_run]
  · simp only [h, reduceCtorEq, if_false, decide_true, pureM_run]

theorem claimM_withdrawn (hw : muWithdrawn s (flatOf s.cur) = true) (f : Bool → M α) : (claimM >>= f) s = .error (.trap ⟨0x08, 0, 0, none⟩) := by
  show (claimM s >>= fun r => f r.1 r.2) = _
  simp only [claimM, me_bind, getState_bind, hw, if_true]
  rfl

theorem claimM_value (hw : muWithdrawn s (flatOf s.cur) = false) (hno : idxOf s.cur = 3 ∨ (taskOn s s.cur).isSome = true) (f : Bool → M α) :
    (claimM >>= f) s = .error (.trap (valueTrap (s.part s.cur))) := by
  show (claimM s >>= fun r => f r.1 r.2) = _
  by_cases hidx : idxOf s.cur = 3
  · simp only [claimM, me_bind, getState_bind, hw, hidx, if_true, Bool.false_eq_true, if_false]
    rfl
  · simp only [claimM, me_bind, getState_bind, hw, hidx, Bool.false_eq_true, if_false, noTask_stops (hno.resolve_left hidx)]
    rfl
end

/-- What every instruction of the unit takes where it may not claim: its trap, before anything else. -/
theorem exec_claim_traps {ins : Instr} {i : Iss} {s : State} {rest : Bool → M Flow} (he : exec ins s = issue i (fun _ => claimM >>= rest) s) (hi : issues s i = true) :
    (muWithdrawn s (flatOf s.cur) = true → exec ins s = .next (takeTrap s s.cur ⟨0x08, 0, 0, none⟩)) ∧
    (muWithdrawn s (flatOf s.cur) = false → (idxOf s.cur = 3 ∨ (taskOn s s.cur).isSome = true) →
      exec ins s = .next (takeTrap s s.cur (valueTrap (s.part s.cur)))) :=
  ⟨fun hw => he.trans (issue_traps rfl hi (claimM_withdrawn hw rest)), fun hw hno => he.trans (issue_traps rfl hi (claimM_value hw hno rest))⟩

/-! ## The command queue (R317) -/

/-- An entry of the command queue, and what the unit's heads then do. -/
def commandEntered (u : State) (flat : Nat) (f : Nat → MOp) : State :=
  settleMu (modMcore (u.modMu (muOf flat) fun x => { x with seq := x.seq + 1 }) flat fun x => { x with queue := x.queue ++ [f (u.mu (muOf flat)).seq] }) (muOf flat)

theorem muFrame_commandEntered (u : State) (flat : Nat) (f : Nat → MOp) : MuFrame u (commandEntered u flat f) :=
  ((MuFrame.modMu u _ _).trans (.modMcore _ flat _)).trans (muFrame_settleMu _ _)

theorem enterM_bind {α : Type} {u : State} (f : Nat → MOp) (hq : (mcore u (flatOf u.cur)).queue.length < 8) (g : Bool → M α) :
    (enterM f >>= g) u = g true (commandEntered u (flatOf u.cur) f) := by
  refine bind_of_ok g ?_
  simp only [enterM, me_bind, getState_bind, if_neg (Nat.not_le.mpr hq), modifyState_bind, pureM_run]
  rfl

/-- An instruction that does nothing but enter the queue. -/
theorem enterM_done {u : State} (f : Nat → MOp) (hq : (mcore u (flatOf u.cur)).queue.length < 8) :
    (do if ← enterM f then pure .done else pure .waitKeep : M Flow) u = .ok (.done, commandEntered u (flatOf u.cur) f) :=
  enterM_bind f hq _

/-! ## MSWAP, MZERO, MPRI, MSTAT and MFENCE (R334, R336) -/

section
variable {h : Hd} {o : OpE} {c : OpC} {s : State} (hc : CanClaim s)
include hc

theorem leaves_entering {ins : Instr} {f : Nat → MOp} (hq : (mcore (claimedBy s) (flatOf s.cur)).queue.length < 8)
    (he : exec ins s = issue { h } (fun _ => do
      if !(← claimM) then return .waitKeep
      if ← enterM f then pure .done else pure .waitKeep) s) :
    Leaves ins { h } s (commandEntered (claimedBy s) (flatOf s.cur) f) := by
  intro hi
  refine he.trans (issue_done (body := fun _ => claimM >>= _) hi ((claimM_bind hc _).trans ?_))
  rw [← (muFrame_claimedBy s).cur] at hq ⊢
  exact enterM_done f hq

theorem leaves_mswap (hq : (mcore (claimedBy s) (flatOf s.cur)).queue.length < 8) :
    Leaves (.mswap h o) { h } s (commandEntered (claimedBy s) (flatOf s.cur) (MOp.plain .swap false)) := leaves_entering hc hq rfl

theorem leaves_mzero (hq : (mcore (claimedBy s) (flatOf s.cur)).queue.length < 8) :
    Leaves (.mzero h o) { h } s (commandEntered (claimedBy s) (flatOf s.cur) (MOp.plain .zero (o.mod.getLsbD 0))) := leaves_entering hc hq rfl

theorem leaves_mpri {a x : Nat} (ha : (((claimedBy s).part s.cur).src 0 c.s1).toNat = a) (hx : (((claimedBy s).part s.cur).src 0 c.s2).toNat = x)
    (ha3 : a ≤ 3) (hx1 : 1 ≤ x) (hx15 : x ≤ 15) :
    Leaves (.mpri h c) { h, reads := rds [c.s1, c.s2] } s (modMcore (claimedBy s) (flatOf s.cur) fun z => { z with prio := a, weight := x }) := by
  intro hi
  refine issue_done (body := fun _ => claimM >>= _) hi ((claimM_bind hc _).trans ?_)
  have hcur := (muFrame_claimedBy s).cur
  have hrange : ¬(3 < a ∨ x = 0 ∨ 15 < x) := by omega
  simp only [Bool.not_true, Bool.false_eq_true, if_false, me_bind, myPart_bind, hcur, ha, hx, if_neg hrange, modifyState_bind, pureM_run]

theorem leaves_mstat : Leaves (.mstat h c) { h, writes := wr c.d none } s
    ((claimedBy s).modPart s.cur (·.put c.d (mstatWord (claimedBy s) (flatOf s.cur)))) := by
  intro hi
  refine issue_done (body := fun _ => claimM >>= _) hi ((claimM_bind hc _).trans ?_)
  have hcur := (muFrame_claimedBy s).cur
  simp only [Bool.not_true, Bool.false_eq_true, if_false, me_bind, getState_bind, putM_bind, hcur, pureM_run]

section
variable (hloads : ((claimedBy s).mu (muOf (flatOf s.cur))).loads.any (·.flat = flatOf s.cur) = false)
  (hops : (mcore (claimedBy s) (flatOf s.cur)).queue.any (·.cmd = .op) = false)
  (hdrain : ((claimedBy s).mu (muOf (flatOf s.cur))).drain.any (·.1 = flatOf s.cur) = false)
include hloads hops hdrain

theorem leaves_mfence (hrec : ((mcore (claimedBy s) (flatOf s.cur)).recs.find? fun x => x.tile = none) = none) :
    Leaves (.mfence h c) { h } s (claimedBy s) := by
  intro hi
  refine issue_done (body := fun _ => claimM >>= _) hi ((claimM_bind hc _).trans ?_)
  have hcur := (muFrame_claimedBy s).cur
  simp only [Bool.not_true, Bool.false_eq_true, if_false, me_bind, myPart_bind, getState_bind, hcur, hloads, hops, hdrain, Bool.or_self, hrec, pureM_run]

theorem exec_mfence_record {x : MRec} (hrec : (mcore (claimedBy s) (flatOf s.cur)).recs.find? (fun x => x.tile = none) = some x) (hi : issues s { h } = true) :
    exec (.mfence h c) s = .next (takeTrap (markTaken (modMcore (claimedBy s) (flatOf s.cur) fun c => { c with recs := c.recs.erase x })
      ((claimedBy s).part s.cur).ctx (flatOf s.cur) x.slot) s.cur ⟨x.code, 1, x.slot, if x.code = 0x0C then none else some x.reason⟩) := by
  refine issue_trapped (body := fun _ => claimM >>= _) hi ((claimM_bind hc _).trans ?_)
  have hcur := (muFrame_claimedBy s).cur
  simp only [Bool.not_true, Bool.false_eq_true, if_false, me_bind, myPart_bind, getState_bind, hcur, hloads, hops, hdrain, Bool.or_self, hrec, modifyState_bind, pureM_run]
end

/-! ## MLOAD (R316, R334) -/

theorem leaves_mload {a : W64} {t : Nat} (ha : ((claimedBy s).part s.cur).src (o.lit.getD 0) o.s1 = a)
    (ht : (((claimedBy s).part s.cur).src (o.lit.getD 0) o.s2).toNat = t) (ht1 : 1 ≤ t) (htmax : t < 65536) (halign : a.toNat % 64 = 0)
    (hform : PiecesOk a (if o.mod.getLsbD 0 then 61440 else 49152))
    (hroom : (((claimedBy s).mu (muOf (flatOf s.cur))).loads.filter (·.flat = flatOf s.cur)).length < 2) (hdone : storesDone (claimedBy s) s.cur = true) :
    Leaves (.mload h o) { h, reads := rds [o.s1, o.s2] } s (settleMu ((claimedBy s).modMu (muOf (flatOf s.cur)) fun u =>
      { u with loads := u.loads ++ [⟨flatOf s.cur, s.cur, ((claimedBy s).part s.cur).ctx, ((claimedBy s).part s.cur).pc, a, t, o.mod.getLsbD 0, false⟩] })
      (muOf (flatOf s.cur))) := by
  intro hi
  refine issue_done (body := fun _ => claimM >>= _) hi ((claimM_bind hc _).trans ?_)
  have hframe := muFrame_claimedBy s
  have hcur := hframe.cur
  have htask : taskOn (claimedBy s) (claimedBy s).cur = none := by rw [hcur, hframe.taskOn, hc.noTask]
  have hrange : ¬(t = 0 ∨ 65536 ≤ t) := by omega
  have hrel (f : Bool → M Flow) := pushRelease_bind htask (by rwa [hcur]) 1 f
  simp only [Bool.not_true, Bool.false_eq_true, if_false, me_bind, myPart_bind, hcur, ha, ht, if_neg hrange, if_neg (not_not.mpr halign), formM_ok_bind hform,
    getState_bind, if_neg (Nat.not_le.mpr hroom), hrel, modifyState_bind, pureM_run]
  rfl
end

end Sys2Proof.Machine
end

section
/-! PROOFS. MMUL and MMULS (R335). -/

namespace Sys2Proof.Machine
open Sys2Proof

/-! ## The vectors of masks that an MMULS draws from its stream (R231, R335) -/

/-- A part without its vectors and its streams, which are all that a pop changes. -/
def Part.besideStreams (p : Part) : Part := { p with streams := Vector.replicate 8 .reset, v := Vector.replicate 64 0 }

theorem besideStreams_popStream {p p1 : Part} {r : Fin 8} (h : popStream p r = .ok p1) : p1.besideStreams = p.besideStreams := by
  unfold popStream at h
  dsimp only at h
  split at h
  · cases h
  · split at h
    · cases h
    · split at h
      case h_3 =>
        cases h
        rfl
      all_goals cases h

theorem besideStreams_drawGo {r : Fin 8} {n f : Nat} {p z : Part} {vs ws : List VReg} {d : Draw} (h : drawGo r n f p vs = (z, ws, d)) :
    z.besideStreams = p.besideStreams := by
  induction f generalizing p vs with
  | zero =>
    cases h
    rfl
  | succ f ih =>
    unfold drawGo at h
    split at h
    · cases h
      rfl
    · split at h
      case h_3 p1 hpop => exact (ih h).trans (besideStreams_popStream hpop)
      all_goals
        cases h
        rfl

/-- The stream as it was when the draw of masks began, and the vectors drawn since. -/
def masksDrawn (p : Part) (r : Fin 8) : Stream × List VReg :=
  match p.mdraw with
  | some (_, t, vs) => (t, vs)
  | none => (p.streams[r], [])

/-- A part whose draw goes on: its stream is captured for others only. -/
def Part.drawing (p : Part) (r : Fin 8) : Part := { p with streams := p.streams.set r { p.streams[r] with captured := (masksDrawn p r).1.captured } }

/-- What an MMULS does with the outcome of a draw from a stream that stood at `w` when the draw began. -/
def masksOfDraw (k : Nat) (r : Fin 8) (n : Nat) (w : Stream) (x : Part × List VReg × Draw) : M (Option (List Nat)) :=
  match x.2.2 with
  | .stop t => stop t
  | .more => do
    setMine fun _ => { x.1 with streams := x.1.streams.set r { x.1.streams[r] with captured := true }, mdraw := some (r, w, x.2.1) }
    pure none
  | .all vs =>
    match badMask (vs.flatMap masksOf) with
    | some t => stop t
    | none => do
      setMine fun _ => { x.1 with mdraw := none }
      modify fun s => (List.range n).foldl (fun s _ => pulse s k (8 + r.val)) s
      pure (some (vs.flatMap masksOf))

/-- What the unit's instruction finds in a state in which its masks have been drawn as in the state before. -/
structure SameUnit (s t : State) : Prop where
  cur : t.cur = s.cur
  taskOn : taskOn t s.cur = taskOn s s.cur
  stores : storesDone t s.cur = storesDone s s.cur
  mcore : mcore t (flatOf s.cur) = mcore s (flatOf s.cur)
  pc : (t.part s.cur).pc = (s.part s.cur).pc
  fpctl : (t.part s.cur).fpctl = (s.part s.cur).fpctl

theorem SameUnit.refl (s : State) : SameUnit s s := ⟨rfl, rfl, rfl, rfl, rfl, rfl⟩

/-- The state after all the masks have been drawn: one pulse for each vector. -/
def drawnAll (u : State) (k : Nat) (r : Fin 8) (n : Nat) (z : Part) : State :=
  (List.range n).foldl (fun t _ => pulse t k (8 + r.val)) (u.setPart k { z with mdraw := none })

theorem cores_pulse (s : State) (k input : Nat) : (pulse s k input).cores = s.cores := by
  unfold pulse
  split <;> rfl

theorem sameUnit_drawnAll {u : State} {r : Fin 8} {n : Nat} {z : Part} (hz : z.besideStreams = (u.part u.cur).besideStreams) : SameUnit u (drawnAll u u.cur r n z) := by
  let t := u.setPart u.cur { z with mdraw := none }
  have hframe : MuFrame t (drawnAll u u.cur r n z) := .foldl (fun t _ => .pulse t _ _) _ t
  have hcores : (drawnAll u u.cur r n z).cores = u.cores := foldl_leaves (π := (·.cores)) (fun t _ => cores_pulse t _ _) _ t
  have hpart : t.part u.cur = { z with mdraw := none } := State.part_setPart u u.cur _
  have hpc : z.pc = (u.part u.cur).pc := congrArg (·.pc) hz
  have hfp : z.fpctl = (u.part u.cur).fpctl := congrArg (·.fpctl) hz
  have hfpctl : ((drawnAll u u.cur r n z).part u.cur).fpctl = (t.part u.cur).fpctl := congrArg (·.fpctl) (hframe.part u.cur)
  refine ⟨hframe.cur, hframe.taskOn _, hframe.storesDone _, ?_, ?_, ?_⟩
  · simp only [mcore, State.core, hcores]
  · rw [hframe.pc, hpart, hpc]
  · rw [hfpctl, hpart, hfp]

theorem streamAt_eq_some {v : Fin 64} {r : Fin 8} (hr : v.val = 56 + r.val) (p : Part) : p.streamAt v = some r := by
  have hge : 56 ≤ v.val := by omega
  simp only [Part.streamAt, dif_pos hge, Option.some.injEq, Fin.ext_iff]
  omega

section
variable {o : OpE} {pair : MPair} {u : State} {v : Fin 64} (hv : o.s5 = .v v)
include hv

section
variable (hb : (u.part u.cur).bound v = false)
include hb

theorem metaM_register (hm : badMask (masksOf ((u.part u.cur).rdV v)) = none) : metaM o pair u = .ok (some (masksOf ((u.part u.cur).rdV v)), u) := by
  simp only [metaM, me_bind, myPart_bind, hv, hb, Bool.false_eq_true, if_false, Part.vreg, hm, pureM_run]

theorem metaM_register_stops {e : Stop} (hm : badMask (masksOf ((u.part u.cur).rdV v)) = some e) : metaM o pair u = .error e := by
  simp only [metaM, me_bind, myPart_bind, hv, hb, Bool.false_eq_true, if_false, Part.vreg, hm]
  rfl
end

variable {r : Fin 8} (hr : v.val = 56 + r.val) (hb : (u.part u.cur).bound v = true) {z : Part} {vs : List VReg}
include hr hb

theorem metaM_bound : metaM o pair u =
    masksOfDraw u.cur r (2 * pairK pair / 16) (masksDrawn (u.part u.cur) r).1
      (drawGo r (2 * pairK pair / 16) (2 * pairK pair / 16 + 1) ((u.part u.cur).drawing r) (masksDrawn (u.part u.cur) r).2) u := by
  simp only [metaM, me_bind, myPart_bind, hv, hb, if_true, streamAt_eq_some hr, Part.drawing, masksDrawn]
  cases (u.part u.cur).mdraw <;> rfl

theorem metaM_drawn {all : List VReg}
    (hd : drawGo r (2 * pairK pair / 16) (2 * pairK pair / 16 + 1) ((u.part u.cur).drawing r) (masksDrawn (u.part u.cur) r).2 = (z, vs, .all all))
    (hm : badMask (all.flatMap masksOf) = none) :
    metaM o pair u = .ok (some (all.flatMap masksOf), drawnAll u u.cur r (2 * pairK pair / 16) z) := by
  rw [metaM_bound hv hr hb, hd]
  simp only [masksOfDraw, hm, setMine_bind, modifyState_bind, pureM_run]
  rfl

theorem metaM_more
    (hd : drawGo r (2 * pairK pair / 16) (2 * pairK pair / 16 + 1) ((u.part u.cur).drawing r) (masksDrawn (u.part u.cur) r).2 = (z, vs, .more)) :
    metaM o pair u = .ok (none, u.setPart u.cur
      { z with streams := z.streams.set r { z.streams[r] with captured := true }, mdraw := some (r, (masksDrawn (u.part u.cur) r).1, vs) }) := by
  rw [metaM_bound hv hr hb, hd]
  simp only [masksOfDraw, setMine_bind, pureM_run]
  rfl
end

/-! ## The operation enters the queue (R319, R335) -/

/-- The address, the shape word and the tag that an MMUL names. -/
def mmulBase (p : Part) (o : OpE) : W64 := p.src (o.lit.getD 0) o.s1
def mmulShape (p : Part) (o : OpE) : Nat := (p.src (o.lit.getD 0) o.s2).toNat
def mmulTag (p : Part) (o : OpE) : W64 := p.src (o.lit.getD 0) o.s4

/-- The operation of an MMUL or MMULS of a part, with its masks, as an entry of the command queue. -/
def mmulOp (p : Part) (pair : MPair) (o : OpE) (sparse : Bool) (masks : List Nat) (id : Nat) : MOp :=
  { cmd := .op, id, pc := p.pc, acc := o.mod.getLsbD 0, pair, sparse, base := mmulBase p o, stride := mmulShape p o / 65536 % 2 ^ 32
    ks := mmulShape p o / 256 % 128, rows := mmulShape p o % 128, tag := (mmulTag p o).toNat, next := 0
    bands := (p.src (o.lit.getD 0) o.s3).setWidth 32, mode := if p.rm = 4 then 0 else p.rm
    fz := p.fz, masks, held := o.mod.getLsbD 1, state := .queued, since := none, broken := false }

/-- A part that may claim the unit, whose MMUL names a shape, an address and a tag in their ranges, and finds room in the command queue. -/
structure CanMultiply (s : State) (o : OpE) : Prop where
  claim : CanClaim s
  shape : shapeOk (mmulShape ((claimedBy s).part s.cur) o) (mmulTag ((claimedBy s).part s.cur) o) = true
  aligned : (mmulBase ((claimedBy s).part s.cur) o).toNat % 32 = 0
  canon : regionOf (mmulBase ((claimedBy s).part s.cur) o) ≠ .nonCanon
  noWindow : regionOf (mmulBase ((claimedBy s).part s.cur) o) ≠ .window
  room : (mcore (claimedBy s) (flatOf s.cur)).queue.length < 8
  stores : storesDone (claimedBy s) s.cur = true

/-- The masks of an MMUL, or of an MMULS. -/
def masksM (sparse : Bool) (pair : MPair) (o : OpE) : M (Option (List Nat)) := if sparse then metaM o pair else pure (some [])

/-- Whether an MMULS draws its masks from a stream. -/
def masksStreamed (p : Part) (sparse : Bool) (o : OpE) : Bool :=
  match o.s5 with
  | .v i => sparse && p.bound i
  | _ => false

/-- What an MMUL or MMULS of a part does once it has its masks. -/
def mmulEnd (p : Part) (pair : MPair) (o : OpE) (sparse : Bool) (masks : Option (List Nat)) : M Flow :=
  match masks with
  | none => pure .waitKeep
  | some masks => do
    if !(← pushRelease 1) then return .waitKeep
    let q ← myPart
    if ← enterM (fun id => { mmulOp p pair o sparse masks id with pc := q.pc, mode := if q.rm = 4 then 0 else q.rm, fz := q.fz }) then pure .done else pure .waitKeep

theorem piecesOk_one {a : W64} (hcanon : regionOf a ≠ .nonCanon) (hwindow : regionOf a ≠ .window) : PiecesOk a 1 := by
  intro r hr
  have hlt : a.toNat % 0x10000 < 0x10000 := Nat.mod_lt _ (by decide)
  have hg : min 1 (0x10000 - a.toNat % 0x10000) = 1 := by omega
  have hone : piecesOf a 1 = [(a, 1)] := by
    show pieces 2 a 1 = _
    simp only [pieces, hg, one_ne_zero, if_false, Nat.sub_self, if_true]
  rw [hone, List.mem_singleton] at hr
  rw [hr]
  exact ⟨hcanon, hwindow⟩

section
variable {s : State} {o : OpE} {pair : MPair} {sparse : Bool} (hc : CanMultiply s o)
  (hstream : masksStreamed ((claimedBy s).part s.cur) sparse o = true → mmulShape ((claimedBy s).part s.cur) o / 256 % 128 = 1)
include hc hstream

theorem mmulBody_eq : mmulBody sparse pair o s = (masksM sparse pair o >>= mmulEnd ((claimedBy s).part s.cur) pair o sparse) (claimedBy s) := by
  have hcur := (muFrame_claimedBy s).cur
  have hrange : (!shapeOk (mmulShape ((claimedBy s).part s.cur) o) (mmulTag ((claimedBy s).part s.cur) o) ||
      (masksStreamed ((claimedBy s).part s.cur) sparse o && decide (mmulShape ((claimedBy s).part s.cur) o / 256 % 128 ≠ 1))) = false := by
    rw [hc.shape]
    cases hm : masksStreamed ((claimedBy s).part s.cur) sparse o with
    | false => rfl
    | true => rw [hstream hm]; rfl
  have hready : (decide (8 ≤ (mcore (claimedBy s) (flatOf s.cur)).queue.length) || !storesDone (claimedBy s) s.cur) = false := by
    rw [decide_eq_false (Nat.not_le.mpr hc.room), hc.stores]
    rfl
  unfold mmulBody
  refine (claimM_bind hc.claim _).trans ?_
  simp only [Bool.not_true, Bool.false_eq_true, if_false, myPart_bind, hcur]
  refine Eq.trans (congrFun (if_neg (ne_true_of_eq_false hrange)) _) ?_
  refine Eq.trans (congrFun (if_neg (not_not.mpr hc.aligned)) _) ?_
  refine (formM_ok_bind (piecesOk_one hc.canon hc.noWindow) _).trans ?_
  simp only [me_bind, getState_bind, hcur]
  refine Eq.trans (congrFun (if_neg (ne_true_of_eq_false hready)) _) ?_
  cases sparse <;> rfl

theorem mmulBody_done {masks : List Nat} {u : State} (hm : masksM sparse pair o (claimedBy s) = .ok (some masks, u)) (hu : SameUnit (claimedBy s) u) :
    mmulBody sparse pair o s = .ok (.done, commandEntered u (flatOf s.cur) (mmulOp ((claimedBy s).part s.cur) pair o sparse masks)) := by
  have hframe := muFrame_claimedBy s
  have hcur : u.cur = s.cur := hu.cur.trans hframe.cur
  obtain ⟨-, htask, hstores, hmcore, hpc, hfpctl⟩ := hu
  rw [hframe.cur] at htask hstores hmcore hpc hfpctl
  have hnone : taskOn u u.cur = none := by rw [hcur, htask, hframe.taskOn, hc.claim.noTask]
  have hdone : storesDone u u.cur = true := by rw [hcur, hstores, hc.stores]
  have hroom : (mcore u (flatOf u.cur)).queue.length < 8 := by rw [hcur, hmcore]; exact hc.room
  have hop : (fun id => { mmulOp ((claimedBy s).part s.cur) pair o sparse masks id with
        pc := (u.part u.cur).pc, mode := if (u.part u.cur).rm = 4 then 0 else (u.part u.cur).rm, fz := (u.part u.cur).fz }) =
      mmulOp ((claimedBy s).part s.cur) pair o sparse masks := by
    simp only [Part.rm, Part.fz, hcur, hpc, hfpctl]
    rfl
  rw [mmulBody_eq hc hstream]
  refine (bind_of_ok _ hm).trans ((pushRelease_bind hnone hdone 1 _).trans ?_)
  refine (myPart_bind (s := u) _).trans ?_
  rw [hop, ← hcur]
  exact enterM_done _ hroom

theorem mmulBody_waits {u : State} (hm : masksM sparse pair o (claimedBy s) = .ok (none, u)) : mmulBody sparse pair o s = .ok (.waitKeep, u) := by
  rw [mmulBody_eq hc hstream]
  exact bind_of_ok _ hm

theorem mmulBody_stops {e : Stop} (hm : masksM sparse pair o (claimedBy s) = .error e) : mmulBody sparse pair o s = .error e := by
  rw [mmulBody_eq hc hstream]
  show (masksM sparse pair o (claimedBy s) >>= fun r => mmulEnd _ pair o sparse r.1 r.2) = _
  rw [hm]
  rfl
end

/-! ## MMUL and MMULS -/

theorem masksStreamed_register {p : Part} {o : OpE} {v : Fin 64} (hv : o.s5 = .v v) (hb : p.bound v = false) (sparse : Bool) : masksStreamed p sparse o = false := by
  simp only [masksStreamed, hv, hb, Bool.and_false]

section
variable {s : State} {h : Hd} {o : OpE} {pair : MPair} (hc : CanMultiply s o)
include hc

theorem leaves_mmul : Leaves (.mmul h pair o) { h, reads := rds [o.s1, o.s2, o.s3, o.s4] } s
    (commandEntered (claimedBy s) (flatOf s.cur) (mmulOp ((claimedBy s).part s.cur) pair o false [])) := by
  intro hi
  have hdense : masksStreamed ((claimedBy s).part s.cur) false o = false := by
    unfold masksStreamed
    split <;> rfl
  refine issue_done (body := fun _ => mmulBody false pair o) hi (mmulBody_done hc (fun hs => absurd hs (by rw [hdense]; decide)) rfl (.refl _))

/-- What an MMULS reads through its frame. -/
def mmulsIss (h : Hd) (o : OpE) (s : State) : Iss := { h, reads := rds ([o.s1, o.s2, o.s3, o.s4] ++ metaRead s o.s5) }

variable {v : Fin 64} (hv : o.s5 = .v v)
include hv

section
variable (hb : ((claimedBy s).part s.cur).bound v = false)
include hb

theorem leaves_mmuls_register (hm : badMask (masksOf (((claimedBy s).part s.cur).rdV v)) = none) :
    Leaves (.mmuls h pair o) (mmulsIss h o s) s
      (commandEntered (claimedBy s) (flatOf s.cur) (mmulOp ((claimedBy s).part s.cur) pair o true (masksOf (((claimedBy s).part s.cur).rdV v)))) := by
  intro hi
  have hcur := (muFrame_claimedBy s).cur
  rw [← hcur] at hb hm
  have hmask := metaM_register (pair := pair) hv hb hm
  rw [hcur] at hb hmask
  exact issue_done (body := fun _ => mmulBody true pair o) hi
    (mmulBody_done hc (fun hs => absurd hs (by rw [masksStreamed_register hv hb]; decide)) hmask (.refl _))

theorem exec_mmuls_metadata {x : Trap} (hm : badMask (masksOf (((claimedBy s).part s.cur).rdV v)) = some (.trap x)) (hi : issues s (mmulsIss h o s) = true) :
    exec (.mmuls h pair o) s = .next (takeTrap s s.cur x) := by
  have hcur := (muFrame_claimedBy s).cur
  rw [← hcur] at hb hm
  have hmask := metaM_register_stops (pair := pair) hv hb hm
  rw [hcur] at hb
  have hcls : x.cls = 0 := by
    unfold badMask at hm
    obtain ⟨gm, -, hx⟩ := Option.map_eq_some_iff.mp hm
    cases hx
    rfl
  exact issue_traps (body := fun _ => mmulBody true pair o) hcls hi
    (mmulBody_stops hc (fun hs => absurd hs (by rw [masksStreamed_register hv hb]; decide)) hmask)
end

section
variable {r : Fin 8} (hr : v.val = 56 + r.val) (hb : ((claimedBy s).part s.cur).bound v = true)
  (hks : mmulShape ((claimedBy s).part s.cur) o / 256 % 128 = 1) {z : Part} {vs : List VReg}
include hr hb hks

theorem leaves_mmuls_drawn {all : List VReg}
    (hd : drawGo r (2 * pairK pair / 16) (2 * pairK pair / 16 + 1) (((claimedBy s).part s.cur).drawing r) (masksDrawn ((claimedBy s).part s.cur) r).2 = (z, vs, .all all))
    (hm : badMask (all.flatMap masksOf) = none) :
    Leaves (.mmuls h pair o) (mmulsIss h o s) s
      (commandEntered (drawnAll (claimedBy s) s.cur r (2 * pairK pair / 16) z) (flatOf s.cur) (mmulOp ((claimedBy s).part s.cur) pair o true (all.flatMap masksOf))) := by
  intro hi
  have hcur := (muFrame_claimedBy s).cur
  have hz : z.besideStreams = ((claimedBy s).part (claimedBy s).cur).besideStreams := by
    rw [hcur]
    exact (besideStreams_drawGo hd : z.besideStreams = (Part.drawing _ r).besideStreams)
  rw [← hcur] at hb hd
  have hmask := metaM_drawn hv hr hb hd hm
  have hsame := sameUnit_drawnAll (r := r) (n := 2 * pairK pair / 16) hz
  rw [hcur] at hmask hsame
  exact issue_done (body := fun _ => mmulBody true pair o) hi (mmulBody_done hc (fun _ => hks) hmask hsame)

theorem exec_mmuls_waits
    (hd : drawGo r (2 * pairK pair / 16) (2 * pairK pair / 16 + 1) (((claimedBy s).part s.cur).drawing r) (masksDrawn ((claimedBy s).part s.cur) r).2 = (z, vs, .more))
    (hi : issues s (mmulsIss h o s) = true) :
    exec (.mmuls h pair o) s = .next (waiting ((claimedBy s).setPart s.cur
      { z with streams := z.streams.set r { z.streams[r] with captured := true }, mdraw := some (r, (masksDrawn ((claimedBy s).part s.cur) r).1, vs) }) s.cur) := by
  have hcur := (muFrame_claimedBy s).cur
  have hz : z.sleep = ((claimedBy s).part s.cur).sleep := congrArg (·.sleep) (besideStreams_drawGo hd)
  have hd' := hd
  have hb' := hb
  rw [← hcur] at hb' hd'
  have hmask := metaM_more hv hr hb' hd'
  rw [hcur] at hmask
  refine issue_waitsKept (body := fun _ => mmulBody true pair o) hi (mmulBody_waits hc (fun _ => hks) hmask) ((muFrame_claimedBy s).sameSleep.trans fun j => ?_)
  by_cases hj : j = s.cur
  · rw [hj, State.part_setPart]
    exact hz
  · rw [State.part_setPart_ne _ _ hj]
end
end

end Sys2Proof.Machine
end

section
/-! PROOFS. MDRAIN (R329, R334), and the instructions of the matrix unit (O27). -/

namespace Sys2Proof.Machine
open Sys2Proof

/-! ## MDRAIN (R329) -/

/-- The element format of an MDRAIN, and the bytes of a row. -/
def drainFmt (o : OpE) : Nat := o.mod.toNat / 2 % 8
def drainRowBytes (o : OpE) : Nat := 128 * (drainType (drainFmt o)).1

/-- The address and the shape word that an MDRAIN names. -/
def drainBase (p : Part) (o : OpE) : W64 := p.src (o.lit.getD 0) o.s1
def drainShape (p : Part) (o : OpE) : Nat := (p.src (o.lit.getD 0) o.s2).toNat

/-- The rows of memory that an MDRAIN writes. -/
def drainRanges (p : Part) (o : OpE) : List (W64 × Nat) :=
  (List.range (drainShape p o % 128)).map fun r => (drainBase p o + BitVec.ofNat 64 (r * (drainShape p o / 65536 % 2 ^ 32)), drainRowBytes o)

/-- The rows of a tile as an MDRAIN writes them, with their flags. -/
def drainOut (p : Part) (o : OpE) (t : MTile) : List (List Byte × Nat) := (List.range (drainShape p o % 128)).map fun r => drainRow p t (drainFmt o) r

/-- A tile after it has been drained. -/
def MTile.drained (z : Bool) (t : MTile) : MTile := { t with vals := if z then [] else t.vals, flags := 0, retired := if z then 0 else t.retired }

/-- The rows of an MDRAIN in memory, and its tile drained. -/
def drainWritten (u : State) (flat : Nat) (p : Part) (o : OpE) : State :=
  modMcore (((drainRanges p o).zip (drainOut p o ((mcore u flat).tile (o.mod.getLsbD 0)))).foldl (fun u ro => engineWrite u flat ro.1.1 ro.2.1) u) flat fun c =>
    c.modTile (o.mod.getLsbD 0) (.drained (o.mod.getLsbD 4))

/-- The part told of the tile's flags and of its retired operations. -/
def drainTold (u : State) (k : Nat) (p : Part) (o : OpE) : State :=
  let t := (mcore u (flatOf k)).tile (o.mod.getLsbD 0)
  ((drainWritten u (flatOf k) p o).modPart k (·.orFlags ((drainOut p o t).foldl (fun f ro => f ||| ro.2) t.flags))).modPart k (·.put o.d (BitVec.ofNat 64 t.retired))

/-- An MDRAIN at the head of its queue: it writes its rows, tells the part, and clears its tile. -/
def drainStore (k : Nat) (p : Part) (o : OpE) (t : MTile) : M Flow := do
  modify fun u => ((drainRanges p o).zip (drainOut p o t)).foldl (fun u ro => engineWrite u (flatOf k) ro.1.1 ro.2.1) u
  modify fun u => modMcore u (flatOf k) fun c => c.modTile (o.mod.getLsbD 0) (.drained (o.mod.getLsbD 4))
  setMine fun q => q.orFlags ((drainOut p o t).foldl (fun f ro => f ||| ro.2) t.flags)
  putM o.d (BitVec.ofNat 64 t.retired)
  acquireM 1
  modify fun u => settleMu (pulse (popHead u (flatOf k)) k 7) (muOf (flatOf k))
  pure .done

theorem drainStore_run {k : Nat} {p : Part} {o : OpE} {u : State} (hcur : u.cur = k) :
    drainStore k p o ((mcore u (flatOf k)).tile (o.mod.getLsbD 0)) u =
      .ok (.done, settleMu (pulse (popHead (drainTold u k p o) (flatOf k)) k 7) (muOf (flatOf k))) := by
  have hwritten : (drainWritten u (flatOf k) p o).cur = k := by
    refine Eq.trans ?_ hcur
    exact (keeps_modMcore (keeps_foldl keeps_engineWrite (Keeps.refl u))).2
  have hacquire (t : State) (f : Nat) : acquireAt t f 1 = t := if_neg (by decide)
  unfold drainStore
  refine (modifyState_bind _ _).trans ((modifyState_bind _ _).trans ((setMine_bind _ _).trans ((putM_bind _ _ _).trans ((acquireM_bind 1 _).trans ?_))))
  rw [hacquire]
  refine (modifyState_bind _ _).trans (congrArg (fun t => Except.ok (Flow.done, settleMu (pulse (popHead t (flatOf k)) k 7) (muOf (flatOf k)))) ?_)
  change ((drainWritten u (flatOf k) p o).modPart (drainWritten u (flatOf k) p o).cur _).modPart (drainWritten u (flatOf k) p o).cur _ = _
  rw [hwritten]
  rfl

/-- What an MDRAIN of a part does once its command stands in the queue. -/
def drainEnd (k : Nat) (p : Part) (o : OpE) : M Flow := do
  let u ← get
  if !((mcore u (flatOf k)).queue.head?.any (·.cmd = .drain)) || busyOn u (flatOf k) (o.mod.getLsbD 0) then return .waitKeep
  match (mcore u (flatOf k)).recs.find? fun x => x.tile = some (o.mod.getLsbD 0) with
  | some x =>
    modify fun u => markTaken (modMcore (popHead u (flatOf k)) (flatOf k) fun c => { c with recs := c.recs.erase x }) p.ctx (flatOf k) x.slot
    pure (.trapped ⟨x.code, 1, x.slot, if x.code = 0x0C then none else some x.reason⟩)
  | none =>
    drainStore k p o ((mcore u (flatOf k)).tile (o.mod.getLsbD 0))

section
variable {k : Nat} {p : Part} {o : OpE} {u : State} (hhead : (mcore u (flatOf k)).queue.head?.any (·.cmd = .drain) = true)
  (hidle : busyOn u (flatOf k) (o.mod.getLsbD 0) = false)
include hhead hidle

theorem drainEnd_record {x : MRec} (hrec : (mcore u (flatOf k)).recs.find? (fun x => x.tile = some (o.mod.getLsbD 0)) = some x) :
    drainEnd k p o u = .ok (.trapped ⟨x.code, 1, x.slot, if x.code = 0x0C then none else some x.reason⟩,
      markTaken (modMcore (popHead u (flatOf k)) (flatOf k) fun c => { c with recs := c.recs.erase x }) p.ctx (flatOf k) x.slot) := by
  simp only [drainEnd, getState_bind, hhead, hidle, Bool.not_true, Bool.or_self, Bool.false_eq_true, if_false, hrec, modifyState_bind, pureM_run]

theorem drainEnd_done (hcur : u.cur = k) (hrec : ((mcore u (flatOf k)).recs.find? fun x => x.tile = some (o.mod.getLsbD 0)) = none) :
    drainEnd k p o u = .ok (.done, settleMu (pulse (popHead (drainTold u k p o) (flatOf k)) k 7) (muOf (flatOf k))) := by
  simp only [drainEnd, getState_bind, hhead, hidle, Bool.not_true, Bool.or_self, Bool.false_eq_true, if_false, hrec]
  exact drainStore_run hcur
end

/-- The state in which an MDRAIN's command stands in the queue: it enters where it does not wait there. -/
def drainQueued (u : State) (flat : Nat) (acc : Bool) : State :=
  if (mcore u flat).queue.any (·.cmd = .drain) then u else commandEntered u flat (MOp.plain .drain acc)

theorem muFrame_drainQueued (u : State) (flat : Nat) (acc : Bool) : MuFrame u (drainQueued u flat acc) := by
  unfold drainQueued
  split
  · exact .refl u
  · exact muFrame_commandEntered u flat _

theorem enters_unless_waiting {u : State} {acc : Bool} (hroom : (mcore u (flatOf u.cur)).queue.any (·.cmd = .drain) = true ∨ (mcore u (flatOf u.cur)).queue.length < 8)
    (rest : M Flow) :
    (if (!(mcore u (flatOf u.cur)).queue.any (·.cmd = .drain)) = true then
      (enterM (MOp.plain .drain acc) >>= fun b => if (!b) = true then pure .waitKeep else rest) else rest : M Flow) u =
    rest (drainQueued u (flatOf u.cur) acc) := by
  unfold drainQueued
  cases hany : (mcore u (flatOf u.cur)).queue.any (·.cmd = .drain) with
  | true => rfl
  | false => exact enterM_bind _ (hroom.resolve_left (by rw [hany]; decide)) _

/-- A part that may claim the unit, whose MDRAIN names a shape and an address in their ranges, and may write its rows. -/
structure CanDrain (s s1 : State) (o : OpE) : Prop where
  claim : CanClaim s
  rows : 1 ≤ drainShape ((claimedBy s).part s.cur) o % 128 ∧ drainShape ((claimedBy s).part s.cur) o % 128 ≤ 64
  stride : drainShape ((claimedBy s).part s.cur) o / 65536 % 2 ^ 32 % 64 = 0 ∧ drainRowBytes o ≤ drainShape ((claimedBy s).part s.cur) o / 65536 % 2 ^ 32
  shape : drainShape ((claimedBy s).part s.cur) o / 128 % 512 = 0 ∧ drainShape ((claimedBy s).part s.cur) o / 2 ^ 48 = 0
  aligned : (drainBase ((claimedBy s).part s.cur) o).toNat % 64 = 0
  access : checkAccess (claimedBy s) (whoOf (claimedBy s) s.cur) .write (drainRanges ((claimedBy s).part s.cur) o) = .ok s1
  notLost : onLost s1 (flatOf s.cur) (drainRanges ((claimedBy s).part s.cur) o) = false
  notReplicated : ∀ r ∈ drainRanges ((claimedBy s).part s.cur) o, isReplicated s1 (flatOf s.cur) r.1 = false
  room : (mcore s1 (flatOf s.cur)).queue.any (·.cmd = .drain) = true ∨ (mcore s1 (flatOf s.cur)).queue.length < 8

/-- The frame of an MDRAIN. -/
def mdrainIss (h : Hd) (o : OpE) (s : State) : Iss :=
  { h, reads := rds [o.s1, o.s2], writes := wr o.d none, sr := if drainFmt o = 0 then 0 else 2 * (drainShape (s.part s.cur) o % 128) }

section
variable {h : Hd} {o : OpE} {s s1 : State} (hc : CanDrain s s1 o)
include hc

/-- The body of an MDRAIN, up to the entry of its command. -/
theorem exec_mdrain_eq {x : Except Stop (Flow × State)}
    (hx : drainEnd s.cur ((claimedBy s).part s.cur) o (drainQueued s1 (flatOf s.cur) (o.mod.getLsbD 0)) = x) :
    ∃ body : W64 → M Flow, exec (.mdrain h o) s = issue (mdrainIss h o s) body s ∧ body (lanesFor s (mdrainIss h o s)) s = x := by
  refine ⟨fun _ => claimM >>= _, rfl, (claimM_bind hc.claim _).trans ?_⟩
  have hframe := muFrame_claimedBy s
  have hcur := hframe.cur
  have hcur1 : s1.cur = s.cur := (memFrame_checkAccess hc.access).cur.trans hcur
  have htask : taskOn (claimedBy s) (claimedBy s).cur = none := by rw [hcur, hframe.taskOn, hc.claim.noTask]
  have hrows : (s.part s.cur).src (o.lit.getD 0) o.s2 = ((claimedBy s).part s.cur).src (o.lit.getD 0) o.s2 := (hframe.src s.cur _ _).symm
  have hrange : ¬(drainShape ((claimedBy s).part s.cur) o % 128 = 0 ∨ 64 < drainShape ((claimedBy s).part s.cur) o % 128 ∨
      drainShape ((claimedBy s).part s.cur) o / 65536 % 2 ^ 32 % 64 ≠ 0 ∨ drainShape ((claimedBy s).part s.cur) o / 65536 % 2 ^ 32 < drainRowBytes o ∨
      drainShape ((claimedBy s).part s.cur) o / 128 % 512 ≠ 0 ∨ drainShape ((claimedBy s).part s.cur) o / 2 ^ 48 ≠ 0) := by
    obtain ⟨hpos, hmax⟩ := hc.rows
    obtain ⟨hline, hrow⟩ := hc.stride
    obtain ⟨hlow, hhigh⟩ := hc.shape
    omega
  have hwhole : (drainRanges ((claimedBy s).part s.cur) o).find? (fun r => isReplicated s1 (flatOf s.cur) r.1) = none :=
    List.find?_eq_none.mpr fun r hr => ne_true_of_eq_false (hc.notReplicated r hr)
  have haccess : checkAccess (claimedBy s) (whoOf (claimedBy s) (claimedBy s).cur) .write (drainRanges ((claimedBy s).part s.cur) o) = .ok s1 := by
    rw [hcur]
    exact hc.access
  have hlost : onLost s1 (whoOf (claimedBy s) (claimedBy s).cur).flat (drainRanges ((claimedBy s).part s.cur) o) = false := by
    rw [hcur]
    exact hc.notLost
  have hroom := hc.room
  rw [← hcur1] at hroom
  simp only [Bool.not_true, Bool.false_eq_true, if_false, me_bind, myPart_bind, hcur, hrows]
  refine Eq.trans (congrFun (if_neg hrange) _) ?_
  refine Eq.trans (congrFun (if_neg (not_not.mpr hc.aligned)) _) ?_
  refine (checkM_ok htask haccess hlost _).trans ?_
  refine (getState_bind _).trans ?_
  unfold drainRanges drainBase drainShape drainRowBytes drainFmt at hwhole
  rw [hwhole]
  have henter := enters_unless_waiting (acc := o.mod.getLsbD 0) hroom (drainEnd s.cur ((claimedBy s).part s.cur) o)
  rw [hcur1] at henter
  exact henter.trans hx

variable (hhead : (mcore (drainQueued s1 (flatOf s.cur) (o.mod.getLsbD 0)) (flatOf s.cur)).queue.head?.any (·.cmd = .drain) = true)
  (hidle : busyOn (drainQueued s1 (flatOf s.cur) (o.mod.getLsbD 0)) (flatOf s.cur) (o.mod.getLsbD 0) = false) (hi : issues s (mdrainIss h o s) = true)
include hhead hidle hi

theorem exec_mdrain_done
    (hrec : ((mcore (drainQueued s1 (flatOf s.cur) (o.mod.getLsbD 0)) (flatOf s.cur)).recs.find? fun x => x.tile = some (o.mod.getLsbD 0)) = none) :
    exec (.mdrain h o) s = done (mdrainIss h o s) s (settleMu (pulse (popHead
      (drainTold (drainQueued s1 (flatOf s.cur) (o.mod.getLsbD 0)) s.cur ((claimedBy s).part s.cur) o) (flatOf s.cur)) s.cur 7) (muOf (flatOf s.cur))) := by
  have hcur1 : s1.cur = s.cur := (memFrame_checkAccess hc.access).cur.trans (muFrame_claimedBy s).cur
  obtain ⟨body, he, hb⟩ := exec_mdrain_eq (h := h) hc
    (drainEnd_done hhead hidle ((muFrame_drainQueued s1 (flatOf s.cur) (o.mod.getLsbD 0)).cur.trans hcur1) hrec)
  exact he.trans (issue_done hi hb)

theorem exec_mdrain_record {x : MRec}
    (hrec : (mcore (drainQueued s1 (flatOf s.cur) (o.mod.getLsbD 0)) (flatOf s.cur)).recs.find? (fun x => x.tile = some (o.mod.getLsbD 0)) = some x) :
    exec (.mdrain h o) s = .next (takeTrap (markTaken (modMcore (popHead (drainQueued s1 (flatOf s.cur) (o.mod.getLsbD 0)) (flatOf s.cur)) (flatOf s.cur) fun c =>
      { c with recs := c.recs.erase x }) ((claimedBy s).part s.cur).ctx (flatOf s.cur) x.slot) s.cur
        ⟨x.code, 1, x.slot, if x.code = 0x0C then none else some x.reason⟩) := by
  obtain ⟨body, he, hb⟩ := exec_mdrain_eq (h := h) hc (drainEnd_record hhead hidle hrec)
  exact he.trans (issue_trapped hi hb)
end

/-- The bytes and the flags of a fold that gathers both are those of two folds. -/
theorem foldl_bytes_flags {α β : Type} (g : β → List α) (f : β → Nat) (l : List β) (bs : List α) (x : Nat) :
    l.foldl (fun a c => (a.1 ++ g c, a.2 ||| f c)) (bs, x) = (bs ++ l.flatMap g, l.foldl (fun y c => y ||| f c) x) := by
  induction l generalizing bs x with
  | nil => simp
  | cons c l ih => simp only [List.foldl_cons, ih, List.flatMap_cons, List.append_assoc]

/-- One element of a drained row: as it stands in FP32, else converted. -/
def drainElem (p : Part) (t : MTile) (fmt r c : Nat) : FRes :=
  if fmt = 0 then ⟨(mfind t.vals (r * 128 + c)).getD 0, 0⟩
  else convertC (p.rctl (c % 64) (2 * r + c / 64)) (drainType fmt).2 (.flt fmt32) ((mfind t.vals (r * 128 + c)).getD 0)

theorem drainRow_eq (p : Part) (t : MTile) (fmt r : Nat) : drainRow p t fmt r =
    ((List.range 128).flatMap fun c => bytesOf (drainType fmt).1 (drainElem p t fmt r c).code,
      (List.range 128).foldl (fun f c => f ||| (drainElem p t fmt r c).flags) 0) := by
  have h := foldl_bytes_flags (fun c => bytesOf (drainType fmt).1 (drainElem p t fmt r c).code) (fun c => (drainElem p t fmt r c).flags) (List.range 128) [] 0
  rw [List.nil_append] at h
  exact h

/-! ## All of them -/

/-- Settles O27: each instruction of the unit claims it first, then enters its queue, sets or reads its state, or waits at its head for what it asks for. -/
theorem matrixInstructions : Obligations.MatrixInstructions := by
  unfold Obligations.MatrixInstructions
  refine ⟨fun h pair o c s => ?_, fun h o s s1 => ?_, fun p t fmt r => ?_⟩
  · refine ⟨?traps, ?swapZero, ?mpri, ?mfence, ?mstat, ?mload, ?mul⟩
    case traps =>
      intro ins i hmem hi
      simp only [List.mem_cons, Prod.mk.injEq, List.not_mem_nil, or_false] at hmem
      rcases hmem with ⟨rfl, rfl⟩ | ⟨rfl, rfl⟩ | ⟨rfl, rfl⟩ | ⟨rfl, rfl⟩ | ⟨rfl, rfl⟩ | ⟨rfl, rfl⟩ | ⟨rfl, rfl⟩ | ⟨rfl, rfl⟩ | ⟨rfl, rfl⟩ <;>
        exact exec_claim_traps rfl hi
    case swapZero => exact fun ⟨hw, he, ht, hf⟩ hq => ⟨leaves_mswap ⟨hw, he, ht, hf⟩ hq, leaves_mzero ⟨hw, he, ht, hf⟩ hq⟩
    case mpri => exact fun ⟨hw, he, ht, hf⟩ ha hx1 hx15 => leaves_mpri ⟨hw, he, ht, hf⟩ rfl rfl ha hx1 hx15
    case mfence =>
      exact fun ⟨hw, he, ht, hf⟩ hloads hops hdrain =>
        ⟨leaves_mfence ⟨hw, he, ht, hf⟩ hloads hops hdrain, fun x hrec hi => exec_mfence_record ⟨hw, he, ht, hf⟩ hloads hops hdrain hrec hi⟩
    case mstat => exact fun ⟨hw, he, ht, hf⟩ => leaves_mstat ⟨hw, he, ht, hf⟩
    case mload =>
      exact fun ⟨hw, he, ht, hf⟩ ht1 htmax halign hform hroom hdone => leaves_mload ⟨hw, he, ht, hf⟩ rfl rfl ht1 htmax halign hform hroom hdone
    case mul =>
      intro _ _ _ _ ⟨hw, he, ht, hf⟩ hshape halign hcanon hwindow hroom hstores
      have hc : CanMultiply s o := ⟨⟨hw, he, ht, hf⟩, hshape, halign, hcanon, hwindow, hroom, hstores⟩
      exact ⟨leaves_mmul hc,
        fun v hv hb => ⟨leaves_mmuls_register hc hv hb, fun x => exec_mmuls_metadata hc hv hb⟩,
        fun v r hv hr hb hks => ⟨fun z vs all => leaves_mmuls_drawn hc hv hr hb hks, fun z vs => exec_mmuls_waits hc hv hr hb hks⟩⟩
  · intro _ _ _ _ _ _ _ _ _ _ _ _ _ _ _ _ _ _ _ _ _ hi hw he ht hf hpos hmax hline hrow hlow hhigh halign haccess hlost hwhole hroom hhead hidle
    have hc : CanDrain s s1 o := ⟨⟨hw, he, ht, hf⟩, ⟨hpos, hmax⟩, ⟨hline, hrow⟩, ⟨hlow, hhigh⟩, halign, haccess, hlost, hwhole, hroom⟩
    exact ⟨fun hrec => exec_mdrain_done hc hhead hidle hi hrec, fun x hrec => exec_mdrain_record hc hhead hidle hi hrec⟩
  · intro x y
    rw [drainRow_eq]
    by_cases hfmt : fmt = 0
    · simp only [drainElem, hfmt, if_true]
      rfl
    · simp only [drainElem, hfmt, if_false]
      rfl

end Sys2Proof.Machine
end
